-- ==== Sys2Proof/Word.lean ====
section
/-! DEFINITION. The word and byte types of the register bus (R3) and of the memories. -/

namespace Sys2Proof

/-- A register, 32 bits wide (R3). -/
abbrev Word := BitVec 32

/-- One byte of a memory, a frame or a message. -/
abbrev Byte := BitVec 8

/-- A 32-bit word from a number, modulo 2^32. -/
abbrev word (n : Nat) : Word := BitVec.ofNat 32 n

/-- A byte from a number, modulo 256. -/
abbrev byte (n : Nat) : Byte := BitVec.ofNat 8 n

end Sys2Proof
end

