-- ==== Sys2Proof/Syntax.lean ====
section
/-! DEFINITION. The commands: one constructor of Instr per row of the table of operations and events, with the operands the
row's rule names. Instance numbers are Fin of their range (R13); what the outside world decides (arrivals, measured stamps,
samples, frames, bus writes) is an operand. Times are ticks or fine ticks from tick 0 of the present device cycle unless
a field says otherwise. -/

namespace Sys2Proof

/-- A trigger of R20: a feedback slot of a segment, or the strobe of a PWM group. -/
inductive Trigger where
  | slot (seg : Fin 12) (k : Fin 32)
  | group (g : Fin 8)
  deriving DecidableEq, Repr

/-- A Torone port: segment and channel, A or B (R143). -/
structure Port where
  seg : Fin 12
  chB : Bool
  deriving DecidableEq, Repr

/-- A frame as a port received it (R147, R148, R152): its arrival in fine ticks from tick 0 of the present device cycle, whether
its code-groups from the start sequence to the end sequence were valid (order 1), and its bytes from the header to the CRC. -/
structure RxFrame where
  arrival : Nat
  codeOk : Bool
  bytes : List Byte
  deriving DecidableEq, Repr

/-- One serial read as the line delivered it (R107, R108): data bits first to last, CRC bits as a number, measured line delay. -/
structure SerialData where
  bits : List Bool
  crc : Nat
  delay : Nat
  deriving DecidableEq, Repr

/-- The level of an input pin in a tick, and for how many consecutive ticks, this one included, it has been stable (R104). -/
structure Level where
  level : Bool
  age : Nat
  deriving DecidableEq, Repr

/-- An input stands high at a tick, stable for age ticks with it. -/
structure Rise where
  tick : Nat
  age : Nat
  deriving DecidableEq, Repr

/-- The Z input of a channel stands high (R105). -/
structure IndexPulse where
  ch : Fin 16
  at' : Rise
  deriving DecidableEq, Repr

/-- One of eight instances, a PWM group or a pass-through output, and a tick. -/
structure InstTick where
  n : Fin 8
  tick : Nat
  deriving DecidableEq, Repr

/-- An input DSMi_D up to a tick: its level in that tick, and the ages, in ticks before it, of its last changes, newest first (R122). -/
structure DsmLine where
  level : Bool
  ages : List Nat
  deriving DecidableEq, Repr

/-- The three delta-sigma inputs of a PWM group (R123). -/
structure DsmLines where
  u : DsmLine
  v : DsmLine
  w : DsmLine
  deriving DecidableEq, Repr

/-- A diagnostic condition of an output (R253): held for its time, or ended. -/
structure DiagCond where
  kind : Fin 4
  held : Bool
  deriving DecidableEq, Repr

/-- The power-up checks of flight 5: pass or fail and duration of each lane's test (R84), pass or fail of each core's check (R401). -/
structure PowerUpTests where
  lanes : List (Bool × Nat)
  cores : List Bool
  deriving DecidableEq, Repr

/-- What the outside of the Mx extension did on a core before an Mx instruction issued: register writes by other instructions,
the pc of the Mx instruction and the word the core fetched there, how many instructions have completed since the last Mx instruction, how often one of them
completed at LE of an active loop, and whether an interrupt or exception was entered (R278, R279). -/
structure MxCtx where
  xs : List (Fin 32 × Word)
  pc : Word
  word : Word
  gap : Nat
  ends : Nat
  entry : Bool
  deriving DecidableEq, Repr

/-- What resets hosts over a PCI Express endpoint: a function level reset of a landing's function, a hot reset, the loss of the link (R290). -/
inductive HostReset where
  | function (h : Fin 4)
  | hot
  | linkDown
  deriving DecidableEq, Repr

/-- How an update message is answered (R371, R372): the channel back to its host, the 8-byte unit of the Hall that holds the answer, the
doorbell bits rung, and, where the flash does not complete the operation, after how many of its commands it stopped and whether the
NV-write guard stopped it. -/
structure UpdAns where
  back : Fin 64
  unit : Fin 1048576
  bell : Word
  cut : Option (Nat × Bool)
  deriving DecidableEq, Repr

/-- The commands of the block, one constructor per row of spec/opcode_table.json. -/
inductive Instr where
  | cycleStart
  | deferredSwap (axis : Fin 256)
  | syncSend (seg : Fin 12)
  | garnetContainerWrite (seg : Fin 12) (k : Fin 32)
  | frameReceive (port : Port) (frame : RxFrame)
  | feedbackMissing (seg : Fin 12) (k : Fin 32)
  | lawJobDispatch
  | nop (lane : Fin 18)
  | mac (lane : Fin 18)
  | stx (lane : Fin 18)
  | stu (lane : Fin 18)
  | lim (lane : Fin 18)
  | rep (lane : Fin 18)
  /-- stamp: completion in fine ticks from tick 0 of the cycle of the job's trigger (R78) -/
  | lawJobComplete (lane : Fin 18) (stamp : Nat)
  | releaseInstant (t : Trigger)
  | lawStgArm (mid : Fin 32) (axis : Fin 256) (v : Word)
  | lawStgCancel (mid : Fin 32) (axis : Fin 256) (v : Word)
  | lawStgCopy (mid : Fin 32) (axis : Fin 256) (v : Word)
  | lawStgCopyDone (axis : Fin 256)
  | galRetire (mid : Fin 32) (v : Word)
  | galMinclr (mid : Fin 32) (v : Word)
  | galChkStart (mid : Fin 32) (v : Word)
  | galChkDone
  | lrnZero (mid : Fin 32) (axis : Fin 256) (v : Word)
  | lrnZeroDone (axis : Fin 256)
  | lrnUhold (mid : Fin 32) (axis : Fin 256) (v : Word)
  | lrnIoff (mid : Fin 32) (axis : Fin 256) (v : Word)
  /-- A and B at a tick of the present cycle -/
  | quadratureCount (ch : Fin 16) (tick : Nat) (a b : Level)
  /-- A stands high; B is given for the tick before -/
  | pulseCount (ch : Fin 16) (a : Rise) (b : Level)
  | indexEvent (z : IndexPulse)
  | feedbackSample (ch : Fin 16) (tick : Nat)
  | serialReadStart (ch : Fin 16) (tick : Nat)
  | serialReadDone (ch : Fin 16) (data : SerialData)
  | ackTimeout (ch : Fin 16)
  | originPairWrite (mid : Fin 32) (src : Fin 528) (v : Word)
  | limitPairWrite (mid : Fin 32) (src : Fin 528) (v : Word)
  /-- the unfiltered levels of the channel's inputs -/
  | passThroughReemit (pt : Fin 8) (a b z : Bool)
  | emulationEdge (pt : InstTick)
  /-- the three delta-sigma inputs of the group up to the tick of the valley -/
  | carrierValley (g : Fin 8) (tick : Nat) (y : DsmLines)
  | carrierPeak (g : InstTick)
  | commandedEdge (g : Fin 8) (x : Fin 3)
  | deadTimeEnd (g : Fin 8) (x : Fin 3)
  | senseTransition (g : Fin 8) (x : Fin 3) (level : Bool) (fine : Nat)
  | senseWindowClose (g : Fin 8) (x : Fin 3)
  | pwmStart (mid : Fin 32) (v : Word)
  | pwmStop (mid : Fin 32) (v : Word)
  | pwmLoadall (mid : Fin 32) (v : Word)
  | shadowWrite (mid : Fin 32) (g : Fin 8) (second : Bool) (v : Word)
  | deadTimeWrite (mid : Fin 32) (g : Fin 8) (v : Word)
  | tripActive (g : Option (Fin 8))
  | tripInactive (g : Option (Fin 8))
  | delayLineError (g : Fin 8)
  | debugHalt
  | freezeEnd
  | portSyncLost (port : Port)
  | portSignalLost (port : Port)
  | downstreamServiceSend (seg : Fin 12)
  | replyWindowClose (seg : Fin 12)
  | svcGo (mid : Fin 32) (seg : Fin 12) (v : Word)
  | listenTimeout
  | pllLock
  | referenceLost
  | referenceReturn
  | refclkReset
  | snapGo (mid : Fin 32) (v : Word)
  | tbStep (mid : Fin 32) (v : Word)
  | tbAdj (mid : Fin 32) (v : Word)
  | tbTvclr (mid : Fin 32) (v : Word)
  | firmwareOffset (mid : Fin 32) (v : Word)
  | servoMeasurement
  | holdover
  /-- fine: fine ticks past the present tick; stable: the levels before and after were stable for 100 ns -/
  | ppsEdge (rising : Bool) (fine : Fin 32) (stable : Bool)
  | txqPop (mid : Fin 32) (e : Fin 2) (v : Word)
  | safetySample (bas : Bool) (a b : Byte) (di15 : Bool)
  | discrepancyFault (bas : Bool) (k : Fin 8)
  | testPulse (tp1 made : Bool)
  | heartbeatLost (garnet : Bool)
  | rootHeartbeatLost
  | lockstepMismatch
  | slsRampEnd (bas : Bool) (g : Fin 8)
  | slsWindow
  | slsokMissing (g : Fin 8)
  | switchPowerupRead (bas : Bool) (v : BitVec 16)
  | switchRuntimeRead (bas : Bool) (v : BitVec 16)
  | restartDelay (bas : Bool) (g : Fin 8)
  | restartPulse (bas : Bool)
  | stoConfirm (bas : Bool) (g : Fin 8)
  | ss1TimerEnd (bas : Bool) (g : Fin 8)
  | nodeAckStale (seg : Fin 12) (k : Fin 32)
  | readbackMismatch (stog : Bool) (g : Fin 8)
  | releaseMismatch (g : Fin 8)
  | degradedLimit (bas : Bool)
  | fioOutputFrame (arrived : Bool)
  | fioInputFrame (rb lim : BitVec 8) (cur : List (BitVec 16)) (vfld : BitVec 16)
  | diSample (n : Fin 16) (high : Bool)
  | fioDoCmd (mid : Fin 32) (v : Word)
  | fioDoSet (mid : Fin 32) (v : Word)
  | fioDoClr (mid : Fin 32) (v : Word)
  | overloadCutoff (n : Fin 8)
  | thermalCutoff (n : Fin 8)
  | outputRetry (n : Fin 8)
  | retryCountClear (n : Fin 8)
  | fioDoUnlatch (mid : Fin 32) (v : Word)
  | outputDiagnostic (n : Fin 8) (d : DiagCond)
  | readbackHigh (n : Fin 8) (drivers : BitVec 8)
  | silenceTimeout
  | fioResume (mid : Fin 32) (v : Word)
  | fioReen (mid : Fin 32) (v : Word)
  | vfldWarn
  | vfldSag
  | vfldRecover
  | submit (mid : Fin 32) (v : Word)
  | jobEligible (handle : Fin 2048)
  | take (mid : Fin 32)
  | done (mid : Fin 32) (res : Word)
  | jobRelease (handle : Fin 2048)
  | flowRelease (flow : Fin 64)
  | jobTimeout (core : Fin 9)
  | routeChange (src : Fin 32)
  | tsuPwrWrite (mid : Fin 32) (v : Word)
  | corePowerUp (core : Fin 9)
  | mxMac (core : Fin 10) (ctx : MxCtx) (a : Bool) (rs1 rs2 : Fin 32)
  | mxMac2 (core : Fin 10) (ctx : MxCtx) (rs1 rs2 : Fin 32)
  | mxMacx2 (core : Fin 10) (ctx : MxCtx) (rs1 rs2 : Fin 32)
  | mxClr (core : Fin 10) (ctx : MxCtx) (a : Bool)
  | mxClr2 (core : Fin 10) (ctx : MxCtx)
  | mxRd (core : Fin 10) (ctx : MxCtx) (rd : Fin 32) (a : Bool) (sh : Fin 16)
  | mxRdw (core : Fin 10) (ctx : MxCtx) (rd : Fin 32) (a : Bool)
  | mxRdh (core : Fin 10) (ctx : MxCtx) (rd : Fin 32) (a : Bool)
  | mxWr (core : Fin 10) (ctx : MxCtx) (a : Bool) (rs1 rs2 : Fin 32)
  | mxLoop (core : Fin 10) (ctx : MxCtx) (rs1 : Fin 32) (imm : Fin 4096)
  /-- loc: the address lies in the core's local memory -/
  | mxSave (core : Fin 10) (ctx : MxCtx) (rs1 : Fin 32) (loc : Bool)
  | mxRestore (core : Fin 10) (ctx : MxCtx) (rs1 : Fin 32) (loc : Bool)
  | windowApply (mid : Fin 32) (win : Fin 32) (v : Word)
  | hostReset (p : Fin 2) (r : HostReset)
  /-- the frame bytes from the destination address to the last data byte; fcsOk: its FCS is good; fine: the stamp point within the present tick -/
  | ethernetReceive (e : Fin 2) (bytes : List Byte) (fcsOk : Bool) (fine : Fin 32)
  | ethernetTransmit (e : Fin 2) (fine : Fin 32)
  | zhevuDatagram (e : Fin 2) (bytes : List Byte)
  | zhevuRead (land : Fin 4) (addr : Word) (nw : Fin 257)
  | zhevuWrite (land : Fin 4) (addr : Word) (data : List Word)
  | zhevuDoorbell (land : Fin 4) (ch : Fin 64) (bits : Word)
  | zhevuNotify (ch : Fin 64)
  | imageLatch (mid : Fin 32)
  | imageRelease (mid : Fin 32) (v : Word)
  | failoverAck (mid : Fin 32) (v : Word)
  | commitArm (mid : Fin 32) (v : Word)
  | commitCancel (mid : Fin 32) (v : Word)
  | mbxBind (mid : Fin 32) (ch : Fin 64) (v : Word)
  | doorbellSet (mid : Fin 32) (ch : Fin 64) (v : Word)
  | doorbellClear (mid : Fin 32) (ch : Fin 64) (v : Word)
  | descriptorPost (mid : Fin 32) (ch : Fin 64) (v : Word)
  | descriptorAck (mid : Fin 32) (ch : Fin 64) (v : Word)
  | mbxWait (mid : Fin 32)
  | captureArm (mid : Fin 32) (n : Fin 16) (v : Word)
  | captureStop (mid : Fin 32) (n : Fin 16) (v : Word)
  | captureTrig (mid : Fin 32) (n : Fin 16) (v : Word)
  | captureRelease (mid : Fin 32) (n : Fin 16) (v : Word)
  | eventRecord
  | captureRearm (n : Fin 16)
  | dramRefresh
  | captureDramRead (mid : Fin 32) (addr : Word) (size : Fin 4) (err : Fin 3)
  | porAssert
  | porRelease
  | resetnAssert
  | longPress
  | vio33Low
  | watchdogExpire
  | watchdogReset
  | resetSourceRelease
  | resetExtensionEnd
  | bootFlight1
  | bootFlight2 (flash : Bool)
  | bootFlight3
  | bootFlight4
  /-- result and duration of each lane's test, and whether each core passes its power-up check -/
  | bootFlight5 (tests : PowerUpTests)
  | maintenanceCheck
  | swrst (mid : Fin 32) (v : Word)
  | mgo (mid : Fin 32) (v : Word)
  | attclr (mid : Fin 32) (v : Word)
  | runTimeClear
  | attClearRetry
  | updateErase (ch : Fin 64) (ans : UpdAns)
  | updateWrite (ch : Fin 64) (ans : UpdAns)
  | updateVerify (ch : Fin 64) (ans : UpdAns) (flash : Bool)
  | updateCopy (ch : Fin 64) (ans : UpdAns) (flash : Bool)
  | updateFuse (ch : Fin 64) (ans : UpdAns)
  | updateSetrec (ch : Fin 64) (ans : UpdAns)
  | persistentWrite (mid : Fin 32) (n : Fin 2048) (v : Word)
  | nvGuardEngage
  | nvGuardRelease
  | beaconSend (fine : Fin 32)
  | partnerFrameReceive (codeOk : Bool) (bytes : List Byte) (fine : Fin 32) (bank : Option (Fin 256)) (chunk : Fin 2048)
  | checkpointChunkSend
  | refreshChunkSend
  | leaseLapse
  | takeover
  | takeoverLoadDone
  | pairYield (mid : Fin 32) (v : Word)
  | coreMemoryError (c : Fin 9) (unc : Bool)
  | sprCretire (mid : Fin 32) (v : Word)
  | sprForce (mid : Fin 32) (v : Word)
  | hallAccess (mid : Fin 32) (addr : Word) (size : Fin 4) (write : Option (List Byte)) (err : Fin 3)
  | hallRowCopyDone
  | hallMapDone
  | trendPeriodEnd
  | stateWriteRetry
  | registerWrite (mid : Fin 32) (addr : Word) (size : Fin 4) (v : Word)
  | portSyncAcquired (port : Port)
  | portSignalDetected (port : Port)
  | partnerLinkUp
  | partnerLinkLost
  | ethernetLinkUp (e : Fin 2)
  | ethernetLinkDown (e : Fin 2)
  | pcieLinkUp (p : Fin 2) (speed width : Fin 4)
  | basaltSelfCheckFail
  | stobOverload (g : Fin 8)
  | delayLineRecalibrated (g : Fin 8)
  | spanReportSend
  | spareCoreLoaded (read : Bool)
  deriving DecidableEq, Repr

end Sys2Proof
end

