-- ==== Sys2Proof/Config.lean ====
section
/-! DEFINITION. Free values: what the spec leaves open after an operation that goes on. None has a body, so nothing can be proved
of its value; each is used only inside the bounds the spec states. -/

namespace Sys2Proof

/-- Which of the Q1.15 values within 1 step of the true sine of an angle the frame unit uses, and from 65,536 on which of those of its
cosine (R41). Log entry 7. -/
opaque Config.sinPick : Nat → Nat

/-- Which of the two nearest Q1.15 duties a duty within 0.01 step of the exact one rounds to (R47), for the duty in units of
2^-40 step. Log entry 8. -/
opaque Config.dutyPick : Int → Bool

/-- What the reserved bits of a register read as (R4): the register's address, and the number of the read. Log entry 6. -/
opaque Config.reservedBits : Nat → Nat → Word

/-- The bytes of the boot ROM (R431). Log entry 9. -/
opaque Config.bootRom : Nat → Byte

/-- The bytes of capture DRAM that no session has written since RESET (R432). Log entry 5. -/
opaque Config.dramByte : Nat → Byte

/-- Basalt's choice of seed for a group's token at the n-th choice (R158); the model makes it non-zero. Log entry 10. -/
opaque Config.basaltSeed : Nat → Nat → Word

/-- Whether the n-th persistent write is made at a junction temperature above 85 °C (R378): an input of the part. Log entry 15. -/
opaque Config.tjHot : Nat → Bool

/-- The MAC address words of the two recovery ports: each device carries its own (R379). Log entry 16. -/
opaque Config.macWord : Nat → Word

/-- The bytes of the container a command slot sends for node k of segment n when none was ever put in place for it (R30): segment,
node, byte. Log entry 17. -/
opaque Config.noContainer : Nat → Nat → Nat → Byte

/-- Which of several alternatives the part takes where the spec names them and does not say which: the n-th such choice, taken
modulo their number. Log entry 18. -/
opaque Config.choice : Nat → Nat

/-- The entry point that the image of a start gives a core (R275): the number of the start and the core. Log entry 19. -/
opaque Config.coreEntry : Nat → Nat → Word

/-- The tick, modulo CKDIV, in which DSM_CLK rises: no rule gives its phase (R122). Log entry 70. -/
opaque Config.dsmPhase : Nat

/-- A bit of a delta-sigma filter's window from before DSM_CLK ran (R123): input, and the number of the bit. Log entry 70. -/
opaque Config.dsmBit : Nat → Nat → Bool

/-- What the in-band ECC of the capture DRAM finds at the n-th read that no command spells, at an offset: nothing, a corrected error, or, 2 modulo
3, an uncorrectable one (R405). Log entry 76. -/
opaque Config.dramEcc : Nat → Nat → Nat

/-- The PCI Express identification that the boot ROM holds (R355): Vendor, Device, subsystem vendor and subsystem ID, byte by byte. Log entry 77. -/
opaque Config.bootPciId : Nat → Byte

/-- What flash bytes hold after they were programmed without having been erased (R371): the n-th such programming, address. Log
entry 20. -/
opaque Config.flashByte : Nat → Nat → Byte

/-- What the duty registers hold after a release of a law that is no voltage vector (R46, R47): the number of the value. Log entry 63. -/
opaque Config.noDuty : Nat → BitVec 16

end Sys2Proof
end

