-- ==== Sys2Proof/Machine/Bits.lean ====
section
/-! DEFINITION. Bit fields, signed readings, convergent rounding (R10), saturation and byte order (R9), used everywhere. -/

namespace Sys2Proof.Machine

/-- Field [hi:lo] of a word as a number. -/
def wFld (w : Word) (hi lo : Nat) : Nat := (w.toNat >>> lo) % 2 ^ (hi + 1 - lo)

/-- Bit i of a word. -/
def wBit (w : Word) (i : Nat) : Bool := w.getLsbD i

/-- The word whose bits [hi:lo] are 1. -/
def maskW (hi lo : Nat) : Word := word (2 ^ (hi + 1) - 2 ^ lo)

/-- The word whose only 1 is bit i. -/
def bitW (i : Nat) : Word := word (2 ^ i)

/-- The word with field [hi:lo] replaced by v. -/
def wSetFld (w : Word) (hi lo v : Nat) : Word :=
  (w &&& ~~~ maskW hi lo) ||| ((word v <<< lo) &&& maskW hi lo)

/-- The word with bit i replaced by b. -/
def wSetBit (w : Word) (i : Nat) (b : Bool) : Word :=
  if b then w ||| bitW i else w &&& ~~~ bitW i

/-- The word holding v in field [hi:lo] and 0 elsewhere. -/
def mkFld (hi lo v : Nat) : Word := (word v <<< lo) &&& maskW hi lo

/-- The word with bit i set when b holds, else 0. -/
def mkBit (i : Nat) (b : Bool) : Word := if b then bitW i else 0

/-- A number modulo 2^w read as a signed w-bit value. -/
def sgn (w n : Nat) : Int :=
  let m := n % 2 ^ w
  if m < 2 ^ (w - 1) then (m : Int) else (m : Int) - 2 ^ w

/-- An integer reduced modulo 2^w to a number. -/
def wrapN (w : Nat) (i : Int) : Nat := (i % (2 ^ w : Nat)).toNat

/-- The signed halfword in bits [15:0]. -/
def loS (w : Word) : Int := sgn 16 w.toNat

/-- The signed halfword in bits [31:16]. -/
def hiS (w : Word) : Int := sgn 16 (w.toNat >>> 16)

/-- The word as a signed 32-bit value. -/
def s32 (w : Word) : Int := sgn 32 w.toNat

/-- A 32-bit word from an integer, modulo 2^32. -/
def wordI (i : Int) : Word := word (wrapN 32 i)

/-- Two halfwords packed, the lower-numbered value in bits [15:0]. -/
def pack16 (lo hi : Int) : Word := word (wrapN 16 hi * 65536 + wrapN 16 lo)

/-- Saturation to [lo, hi]. -/
def clampI (lo hi i : Int) : Int := if i < lo then lo else if hi < i then hi else i

/-- Saturation to signed 16 bits. -/
def sat16 (i : Int) : Int := clampI (-32768) 32767 i

/-- Saturation to signed 32 bits. -/
def sat32 (i : Int) : Int := clampI (-2147483648) 2147483647 i

/-- Convergent rounding of n / d (round half to even, R10). -/
def rneDiv (n : Int) (d : Nat) : Int :=
  let q := n / (d : Int)
  let r := n % (d : Int)
  if 2 * r < d then q
  else if (d : Int) < 2 * r then q + 1
  else if q % 2 = 0 then q else q + 1

/-- n scaled by 2^e for a signed exponent, with convergent rounding (R10). -/
def rneShift (n : Int) (e : Int) : Int :=
  if 0 ≤ e then n * (2 ^ e.toNat : Nat) else rneDiv n (2 ^ (-e).toNat)

/-- The largest r with r * r ≤ n, bit by bit from bit k - 1. -/
def isqrtFrom (n : Nat) : Nat → Nat → Nat
  | 0, r => r
  | k + 1, r => if (r + 2 ^ k) * (r + 2 ^ k) ≤ n then isqrtFrom n k (r + 2 ^ k) else isqrtFrom n k r

/-- Integer square root of n < 2^256. -/
def isqrt (n : Nat) : Nat := isqrtFrom n 128 0

/-- The k least significant bytes of n, least significant first (R9). -/
def leBytes : Nat → Nat → List Byte
  | 0, _ => []
  | k + 1, n => byte n :: leBytes k (n / 256)

/-- The number whose little-endian bytes are given. -/
def leNat : List Byte → Nat
  | [] => 0
  | b :: t => b.toNat + 256 * leNat t

/-- Byte i of a list, 0 beyond its end. -/
def byteAt (l : List Byte) (i : Nat) : Nat := ((l[i]?).getD 0).toNat

/-- The little-endian number in bytes i .. i+k-1 of a list. -/
def leAt (l : List Byte) (i k : Nat) : Nat := leNat ((l.drop i).take k)

/-- The integer at position i of a list, 0 beyond its end. -/
def intAt (l : List Int) (i : Nat) : Int := (l[i]?).getD 0

/-- The list with position i replaced, unchanged beyond its end. -/
def setAt {α : Type} : List α → Nat → α → List α
  | [], _, _ => []
  | _ :: t, 0, v => v :: t
  | h :: t, i + 1, v => h :: setAt t i v

/-- The 32-bit words of a byte list, little-endian. -/
def wordsOf : Nat → List Byte → List Word
  | 0, _ => []
  | k + 1, l => word (leNat (l.take 4)) :: wordsOf k (l.drop 4)

/-- The bytes of a list of words, little-endian. -/
def bytesOf : List Word → List Byte
  | [] => []
  | w :: t => leBytes 4 w.toNat ++ bytesOf t

/-- The first i in [0, n) with p i. -/
def findFrom (p : Nat → Bool) : Nat → Nat → Option Nat
  | 0, _ => none
  | k + 1, i => if p i then some i else findFrom p k (i + 1)

/-- The lowest number below n that p accepts. -/
def lowest (n : Nat) (p : Nat → Bool) : Option Nat := findFrom p n 0

/-- Apply f to the numbers i, i+1, .. in order, k of them. -/
def forFrom {α : Type} (f : Nat → α → α) : Nat → Nat → α → α
  | 0, _, a => a
  | k + 1, i, a => forFrom f k (i + 1) (f i a)

/-- Apply f to 0, 1, .., n-1 in order. -/
def forN {α : Type} (n : Nat) (f : Nat → α → α) (a : α) : α := forFrom f n 0 a

/-- How many numbers below n satisfy p. -/
def countN (n : Nat) (p : Nat → Bool) : Nat := forN n (fun i c => if p i then c + 1 else c) 0

/-- Entry i of a list of numbers, 0 beyond its end. -/
def natAt (l : List Nat) (i : Nat) : Nat := (l[i]?).getD 0

end Sys2Proof.Machine
end

