-- ==== Sys2Proof/Machine/Table.lean ====
section
/-! DEFINITION. Sparse tables: lists of (key, value) pairs in one canonical form (keys strictly rising, no value equal to
what an unlisted key reads as). Registers, memories and per-number contexts are kept in them. -/

namespace Sys2Proof.Machine

/-- A sparse table: an unlisted key reads as its default. -/
abbrev Table (α : Type) := List (Nat × α)

variable {α : Type}

/-- The value at key k, d k where k is not listed. -/
def Table.get (d : Nat → α) : List (Nat × α) → Nat → α
  | [], k => d k
  | (j, v) :: t, k => if j = k then v else Table.get d t k

/-- Remove every entry of key k. -/
def Table.erase : List (Nat × α) → Nat → List (Nat × α)
  | [], _ => []
  | (j, v) :: t, k => if j = k then Table.erase t k else (j, v) :: Table.erase t k

/-- Put an entry before the first larger key. -/
def Table.insert : List (Nat × α) → Nat → α → List (Nat × α)
  | [], k, v => [(k, v)]
  | (j, u) :: t, k, v => if k < j then (k, v) :: (j, u) :: t else (j, u) :: Table.insert t k v

/-- Write value v at key k; a value equal to the default is not listed. -/
def Table.set [DecidableEq α] (d : Nat → α) (t : List (Nat × α)) (k : Nat) (v : α) : List (Nat × α) :=
  if v = d k then Table.erase t k else Table.insert (Table.erase t k) k v

/-- Write value v at key k, listed whatever it is (a memory whose unlisted cells are not known, R432). -/
def Table.put (t : List (Nat × α)) (k : Nat) (v : α) : List (Nat × α) :=
  Table.insert (Table.erase t k) k v

/-- The entry of key k, if it is listed. -/
def Table.find? : List (Nat × α) → Nat → Option α
  | [], _ => none
  | (j, v) :: t, k => if j = k then some v else Table.find? t k

/-- Keys strictly rising, from b on. -/
def Table.rising : Nat → List (Nat × α) → Bool
  | _, [] => true
  | b, (j, _) :: t => decide (b ≤ j) && Table.rising (j + 1) t

/-- The canonical form: keys strictly rising and no listed value equal to the default. -/
def Table.wf [DecidableEq α] (d : Nat → α) (t : List (Nat × α)) : Bool :=
  Table.rising 0 t && t.all (fun p => decide (p.2 ≠ d p.1))

/-- Write consecutive values from key k on. -/
def Table.setRange [DecidableEq α] (d : Nat → α) : List (Nat × α) → Nat → List α → List (Nat × α)
  | t, _, [] => t
  | t, k, v :: vs => Table.setRange d (Table.set d t k v) (k + 1) vs

/-- Keep the entries whose keys p accepts. -/
def Table.keep (p : Nat → Bool) (t : List (Nat × α)) : List (Nat × α) := t.filter (fun e => p e.1)

end Sys2Proof.Machine
end

