-- ==== Sys2Proof/Machine/RegMap.lean ====
section
/-! DEFINITION. The register map of the chapters' overview and field tables: the address of every register (R13, R282), and
for each the fields' access codes as bit masks (R6) and the value after RESET (R8). -/

namespace Sys2Proof.Machine

/-- One row of an overview table: base address, the (count, stride) of its repetitions, the value after RESET, and the bits
with each access code (R6): RW, W1C, W1S, WO, RO, LK, and the bits loaded from the image (R8). All other bits are reserved. -/
structure RegRow where
  base : Nat
  dims : List (Nat × Nat)
  reset : Nat
  rw : Nat
  w1c : Nat
  w1s : Nat
  wo : Nat
  ro : Nat
  lk : Nat
  img : Nat
  deriving DecidableEq, Repr

/-- Whether an offset is one of the addresses of the nested repetitions (largest stride first). -/
def inDims : List (Nat × Nat) → Nat → Bool
  | [], off => off == 0
  | (n, st) :: t, off => decide (off / st < n) && inDims t (off % st)

/-- Whether the row holds the register at address a. -/
def RegRow.covers (r : RegRow) (a : Nat) : Bool := decide (r.base ≤ a) && inDims r.dims (a - r.base)

namespace Reg

def LAW_CFG (i : Nat) : Nat := 0x40100000 + 0x400 * i
def LAW_ROUTE (i : Nat) : Nat := 0x40100004 + 0x400 * i
def LAW_ESCALE (i : Nat) : Nat := 0x40100008 + 0x400 * i
def LAW_MODULO (i : Nat) : Nat := 0x4010000C + 0x400 * i
def LAW_ECOMM (i : Nat) : Nat := 0x40100010 + 0x400 * i
def LAW_EMUL (i : Nat) : Nat := 0x40100014 + 0x400 * i
def LAW_ECPR (i : Nat) : Nat := 0x40100018 + 0x400 * i
def LAW_EVEC (i : Nat) : Nat := 0x4010001C + 0x400 * i
def LAW_POS_REF (i : Nat) : Nat := 0x40100040 + 0x400 * i
def LAW_VEL_REF (i : Nat) : Nat := 0x40100044 + 0x400 * i
def LAW_CUR_REF (i : Nat) : Nat := 0x40100048 + 0x400 * i
def LAW_FF (i : Nat) : Nat := 0x4010004C + 0x400 * i
def LAW_CTRL (i : Nat) : Nat := 0x40100050 + 0x400 * i
def LAW_STAT (i : Nat) : Nat := 0x40100060 + 0x400 * i
def LAW_NUMEVT (i : Nat) : Nat := 0x40100064 + 0x400 * i
def LAW_LATE_CNT (i : Nat) : Nat := 0x40100068 + 0x400 * i
def LAW_MISS_CNT (i : Nat) : Nat := 0x4010006C + 0x400 * i
def LAW_REL_CYC (i : Nat) : Nat := 0x40100070 + 0x400 * i
def LAW_X01 (i : Nat) : Nat := 0x40100080 + 0x400 * i
def LAW_X23 (i : Nat) : Nat := 0x40100084 + 0x400 * i
def LAW_X45 (i : Nat) : Nat := 0x40100088 + 0x400 * i
def LAW_ERR01 (i : Nat) : Nat := 0x4010008C + 0x400 * i
def LAW_ERR23 (i : Nat) : Nat := 0x40100090 + 0x400 * i
def LAW_OUT (i : Nat) : Nat := 0x40100094 + 0x400 * i
def LAW_DUTY01 (i : Nat) : Nat := 0x40100098 + 0x400 * i
def LAW_DUTY2 (i : Nat) : Nat := 0x4010009C + 0x400 * i
def LAW_STG_CTRL (i : Nat) : Nat := 0x401000C0 + 0x400 * i
def LAW_STG_CYC (i : Nat) : Nat := 0x401000C4 + 0x400 * i
def LAW_STG_STAT (i : Nat) : Nat := 0x401000C8 + 0x400 * i
def LAW_INIT01 (i : Nat) : Nat := 0x401000CC + 0x400 * i
def LAW_INIT23 (i : Nat) : Nat := 0x401000D0 + 0x400 * i
def LAW_INIT45 (i : Nat) : Nat := 0x401000D4 + 0x400 * i
def LAW_STG_BANK (i : Nat) (j : Nat) : Nat := 0x40100100 + 0x400 * i + 0x4 * j
def LAW_ACT_BANK (i : Nat) (j : Nat) : Nat := 0x40100200 + 0x400 * i + 0x4 * j
def GAL_CTRL : Nat := 0x40050000
def GAL_STAT : Nat := 0x40050004
def GAL_EVT : Nat := 0x40050008
def GAL_IEN : Nat := 0x4005000C
def GAL_LATE_CNT : Nat := 0x40050010
def GAL_GOV_CNT : Nat := 0x40050014
def GAL_CHK : Nat := 0x40050018
def GAL_CHK_ERR : Nat := 0x4005001C
def GAL_PLAN : Nat := 0x40050020
def GAL_PLAN_ERR : Nat := 0x40050024
def GAL_DWAIT_CNT : Nat := 0x40050028
def GAL_PROG_INFO (i : Nat) : Nat := 0x40050040 + 0x4 * i
def GAL_LSTATE (i : Nat) : Nat := 0x40050100 + 0x20 * i
def GAL_LSLK (i : Nat) : Nat := 0x40050104 + 0x20 * i
def GAL_LRUN (i : Nat) : Nat := 0x40050108 + 0x20 * i
def GAL_LJOBS (i : Nat) : Nat := 0x4005010C + 0x20 * i
def GAL_LLATE (i : Nat) : Nat := 0x40050110 + 0x20 * i
def GAL_LTEST (i : Nat) : Nat := 0x40050114 + 0x20 * i
def GAL_LLAST (i : Nat) : Nat := 0x40050118 + 0x20 * i
def GAL_PROG (i : Nat) : Nat := 0x40058000 + 0x4 * i
def LRN_REGION : Nat := 0x40060000
def LRN_EVT : Nat := 0x40060004
def LRN_IEN : Nat := 0x40060008
def LRN_UPD_CNT : Nat := 0x4006000C
def LRN_FRZ_CNT : Nat := 0x40060010
def LRN_CFG (i : Nat) : Nat := 0x40061000 + 0x40 * i
def LRN_PER (i : Nat) : Nat := 0x40061004 + 0x40 * i
def LRN_ORG (i : Nat) : Nat := 0x40061008 + 0x40 * i
def LRN_TBL (i : Nat) : Nat := 0x4006100C + 0x40 * i
def LRN_GAIN (i : Nat) : Nat := 0x40061010 + 0x40 * i
def LRN_FILT (i : Nat) : Nat := 0x40061014 + 0x40 * i
def LRN_WIN (i : Nat) : Nat := 0x40061018 + 0x40 * i
def LRN_CTRL (i : Nat) : Nat := 0x4006101C + 0x40 * i
def LRN_STAT (i : Nat) : Nat := 0x40061020 + 0x40 * i
def LRN_LAST (i : Nat) : Nat := 0x40061024 + 0x40 * i
def LRN_UCNT (i : Nat) : Nat := 0x40061028 + 0x40 * i
def LRN_FCNT (i : Nat) : Nat := 0x4006102C + 0x40 * i
def FBK_EVT : Nat := 0x40070000
def FBK_IEN : Nat := 0x40070004
def FBK_DSMCLK : Nat := 0x40070008
def FBK_AXSRC (i : Nat) : Nat := 0x40070400 + 0x4 * i
def FBK_CH_CFG (i : Nat) : Nat := 0x40071000 + 0x20 * i
def FBK_CH_SMP (i : Nat) : Nat := 0x40071004 + 0x20 * i
def FBK_CH_SER0 (i : Nat) : Nat := 0x40071008 + 0x20 * i
def FBK_CH_SER1 (i : Nat) : Nat := 0x4007100C + 0x20 * i
def FBK_CH_SER2 (i : Nat) : Nat := 0x40071010 + 0x20 * i
def FBK_CH_LSTAT (i : Nat) : Nat := 0x40071014 + 0x20 * i
def FBK_RCTX (i : Nat) : Nat := 0x40072000 + 0x4 * i
def SRC_STAT (i : Nat) : Nat := 0x40074000 + 0x40 * i
def SRC_RAWLO (i : Nat) : Nat := 0x40074004 + 0x40 * i
def SRC_RAWHI (i : Nat) : Nat := 0x40074008 + 0x40 * i
def SRC_POS (i : Nat) : Nat := 0x4007400C + 0x40 * i
def SRC_SPD (i : Nat) : Nat := 0x40074010 + 0x40 * i
def SRC_ORGLO (i : Nat) : Nat := 0x40074014 + 0x40 * i
def SRC_ORGHI (i : Nat) : Nat := 0x40074018 + 0x40 * i
def SRC_LIMLO (i : Nat) : Nat := 0x4007401C + 0x40 * i
def SRC_LIMHI (i : Nat) : Nat := 0x40074020 + 0x40 * i
def SRC_IDXCFG (i : Nat) : Nat := 0x40074024 + 0x40 * i
def SRC_IDXLO (i : Nat) : Nat := 0x40074028 + 0x40 * i
def SRC_ECNT (i : Nat) : Nat := 0x4007402C + 0x40 * i
def SRC_IDXD (i : Nat) : Nat := 0x40074030 + 0x40 * i
def SRC_SST (i : Nat) : Nat := 0x40074034 + 0x40 * i
def SRC_DIRCYC (i : Nat) : Nat := 0x40074038 + 0x40 * i
def SRC_DIRFT (i : Nat) : Nat := 0x4007403C + 0x40 * i
def FBK_DSM_CFG (i : Nat) : Nat := 0x4007D000 + 0x10 * i
def FBK_DSM_CAL (i : Nat) : Nat := 0x4007D004 + 0x10 * i
def FBK_DSM_RES (i : Nat) : Nat := 0x4007D008 + 0x10 * i
def FBK_PT_CFG (i : Nat) : Nat := 0x4007E000 + 0x20 * i
def FBK_PT_MUL (i : Nat) : Nat := 0x4007E004 + 0x20 * i
def FBK_PT_ZPER (i : Nat) : Nat := 0x4007E008 + 0x20 * i
def FBK_PT_ZOFS (i : Nat) : Nat := 0x4007E00C + 0x20 * i
def FBK_PT_STAT (i : Nat) : Nat := 0x4007E010 + 0x20 * i
def PWM_START : Nat := 0x40080000
def PWM_STOP : Nat := 0x40080004
def PWM_LOADALL : Nat := 0x40080008
def PWM_EVT : Nat := 0x4008000C
def PWM_IEN : Nat := 0x40080010
def PWM_TRALL : Nat := 0x40080014
def PWM_GRP_CFG (i : Nat) : Nat := 0x40080100 + 0x40 * i
def PWM_GRP_PER (i : Nat) : Nat := 0x40080104 + 0x40 * i
def PWM_GRP_PHASE (i : Nat) : Nat := 0x40080108 + 0x40 * i
def PWM_GRP_CTRL (i : Nat) : Nat := 0x4008010C + 0x40 * i
def PWM_GRP_DT (i : Nat) : Nat := 0x40080110 + 0x40 * i
def PWM_GRP_DTADJ (i : Nat) : Nat := 0x40080114 + 0x40 * i
def PWM_GRP_MINPW (i : Nat) : Nat := 0x40080118 + 0x40 * i
def PWM_GRP_SHDW01 (i : Nat) : Nat := 0x4008011C + 0x40 * i
def PWM_GRP_SHDW2 (i : Nat) : Nat := 0x40080120 + 0x40 * i
def PWM_GRP_ACT01 (i : Nat) : Nat := 0x40080124 + 0x40 * i
def PWM_GRP_ACT2 (i : Nat) : Nat := 0x40080128 + 0x40 * i
def PWM_GRP_STAT (i : Nat) : Nat := 0x4008012C + 0x40 * i
def PWM_GRP_DTU (i : Nat) : Nat := 0x40080130 + 0x40 * i
def PWM_GRP_DTV (i : Nat) : Nat := 0x40080134 + 0x40 * i
def PWM_GRP_DTW (i : Nat) : Nat := 0x40080138 + 0x40 * i
def PWM_GRP_CNT (i : Nat) : Nat := 0x4008013C + 0x40 * i
def TRN_PCFG (i : Nat) (j : Nat) : Nat := 0x40020800 + 0x1000 * i + 0x100 * j
def TRN_PSTAT (i : Nat) (j : Nat) : Nat := 0x40020804 + 0x1000 * i + 0x100 * j
def TRN_PIEN (i : Nat) (j : Nat) : Nat := 0x40020808 + 0x1000 * i + 0x100 * j
def TRN_PRXOK (i : Nat) (j : Nat) : Nat := 0x4002080C + 0x1000 * i + 0x100 * j
def TRN_PCODE (i : Nat) (j : Nat) : Nat := 0x40020810 + 0x1000 * i + 0x100 * j
def TRN_PCRC (i : Nat) (j : Nat) : Nat := 0x40020814 + 0x1000 * i + 0x100 * j
def TRN_PHDR (i : Nat) (j : Nat) : Nat := 0x40020818 + 0x1000 * i + 0x100 * j
def TRN_PWIN (i : Nat) (j : Nat) : Nat := 0x4002081C + 0x1000 * i + 0x100 * j
def TRN_PLOSS (i : Nat) (j : Nat) : Nat := 0x40020820 + 0x1000 * i + 0x100 * j
def TRN_PTX (i : Nat) (j : Nat) : Nat := 0x40020824 + 0x1000 * i + 0x100 * j
def TRN_PLAST (i : Nat) (j : Nat) : Nat := 0x40020828 + 0x1000 * i + 0x100 * j
def TRN_AB_A (i : Nat) : Nat := 0x40020A00 + 0x1000 * i
def TRN_AB_B (i : Nat) : Nat := 0x40020A04 + 0x1000 * i
def TRN_ABMIS (i : Nat) : Nat := 0x40020A08 + 0x1000 * i
def TRN_ABEVT (i : Nat) : Nat := 0x40020A0C + 0x1000 * i
def TRN_ABIEN (i : Nat) : Nat := 0x40020A10 + 0x1000 * i
def TRN_SCFG (i : Nat) : Nat := 0x40020000 + 0x1000 * i
def TRN_SOFS (i : Nat) : Nat := 0x40020004 + 0x1000 * i
def TRN_SSVC (i : Nat) : Nat := 0x40020008 + 0x1000 * i
def TRN_SDSV (i : Nat) : Nat := 0x4002000C + 0x1000 * i
def TRN_SDIG (i : Nat) : Nat := 0x40020010 + 0x1000 * i
def TRN_SSTAT (i : Nat) : Nat := 0x40020014 + 0x1000 * i
def TRN_SEVT (i : Nat) : Nat := 0x40020018 + 0x1000 * i
def TRN_SIEN (i : Nat) : Nat := 0x4002001C + 0x1000 * i
def TRN_SPAN (i : Nat) : Nat := 0x40020020 + 0x1000 * i
def TRN_GRANT (i : Nat) : Nat := 0x40020024 + 0x1000 * i
def TRN_CLAIMLO (i : Nat) : Nat := 0x40020028 + 0x1000 * i
def TRN_CLAIMHI (i : Nat) : Nat := 0x4002002C + 0x1000 * i
def TRN_SVC_TXCTL (i : Nat) : Nat := 0x40020030 + 0x1000 * i
def TRN_SVC_TXD (i : Nat) (j : Nat) : Nat := 0x40020040 + 0x1000 * i + 0x4 * j
def TRN_SVC_RXSTAT (i : Nat) : Nat := 0x40020080 + 0x1000 * i
def TRN_SVC_RXH (i : Nat) (j : Nat) : Nat := 0x40020090 + 0x1000 * i + 0x4 * j
def TRN_SVC_RX (i : Nat) (j : Nat) (k : Nat) : Nat := 0x40020100 + 0x1000 * i + 0x40 * j + 0x4 * k
def TRN_SLOT (i : Nat) (j : Nat) : Nat := 0x40020200 + 0x1000 * i + 0x4 * j
def TRN_NODE_STAT (i : Nat) (j : Nat) : Nat := 0x40020300 + 0x1000 * i + 0x10 * j
def TRN_NODE_RTT (i : Nat) (j : Nat) : Nat := 0x40020304 + 0x1000 * i + 0x10 * j
def TRN_NODE_SOFF (i : Nat) (j : Nat) : Nat := 0x40020308 + 0x1000 * i + 0x10 * j
def TRN_NODE_RES (i : Nat) (j : Nat) : Nat := 0x4002030C + 0x1000 * i + 0x10 * j
def TB_CFG : Nat := 0x40010000
def TB_STAT : Nat := 0x40010004
def TB_EVT : Nat := 0x40010008
def TB_IEN : Nat := 0x4001000C
def TB_CYC : Nat := 0x40010010
def TB_CTICK : Nat := 0x40010014
def TB_SNAP : Nat := 0x40010018
def TB_SNAP_TLO : Nat := 0x4001001C
def TB_SNAP_THI : Nat := 0x40010020
def TB_SNAP_CYC : Nat := 0x40010024
def TB_SNAP_CTICK : Nat := 0x40010028
def TB_SNAP_SLO : Nat := 0x4001002C
def TB_SNAP_SHI : Nat := 0x40010030
def TB_SNAP_NS : Nat := 0x40010034
def TB_SNAP_FRAC : Nat := 0x40010038
def TB_SET_SLO : Nat := 0x40010040
def TB_SET_SHI : Nat := 0x40010044
def TB_SET_NS : Nat := 0x40010048
def TB_SET_FRAC : Nat := 0x4001004C
def TB_CTRL : Nat := 0x40010050
def TB_ADJ_NS : Nat := 0x40010054
def TB_SRV_CFG : Nat := 0x40010060
def TB_SRV_GAIN : Nat := 0x40010064
def TB_SRV_LIM : Nat := 0x40010068
def TB_RATE : Nat := 0x4001006C
def TB_RATE_I : Nat := 0x40010070
def TB_OFS_NS : Nat := 0x40010074
def TB_OFS_FRAC : Nat := 0x40010078
def TB_LAST_NS : Nat := 0x4001007C
def TB_LAST_FRAC : Nat := 0x40010080
def TB_MEAS_CNT : Nat := 0x40010084
def TB_PPS_CFG : Nat := 0x400100A0
def TB_PPS_CMP : Nat := 0x400100A4
def TB_PPS_SLO : Nat := 0x400100A8
def TB_PPS_NS : Nat := 0x400100AC
def TB_PPS_FRAC : Nat := 0x400100B0
def TB_PPS_CNT : Nat := 0x400100B4
def TB_ETH_CFG (i : Nat) : Nat := 0x40010100 + 0x40 * i
def TB_ETH_TXQ0 (i : Nat) : Nat := 0x40010104 + 0x40 * i
def TB_ETH_TXQ1 (i : Nat) : Nat := 0x40010108 + 0x40 * i
def TB_ETH_TXQ2 (i : Nat) : Nat := 0x4001010C + 0x40 * i
def TB_ETH_TXQPOP (i : Nat) : Nat := 0x40010110 + 0x40 * i
def TB_ETH_TXQSTAT (i : Nat) : Nat := 0x40010114 + 0x40 * i
def TB_ETH_TXOVF (i : Nat) : Nat := 0x40010118 + 0x40 * i
def SAF_STAT : Nat := 0x400F0000
def SAF_SWCFG : Nat := 0x400F0004
def SAF_IN : Nat := 0x400F0008
def SAF_INDEM : Nat := 0x400F000C
def SAF_FLT : Nat := 0x400F0010
def SAF_DEGT : Nat := 0x400F0014
def SAF_EVTSEQ : Nat := 0x400F0018
def SAF_GRPSUM : Nat := 0x400F001C
def SAF_GRP (i : Nat) : Nat := 0x400F0040 + 0x4 * i
def SAF_TOK (i : Nat) : Nat := 0x400F0080 + 0x4 * i
def SAF_NACK (i : Nat) : Nat := 0x400F00C0 + 0x4 * i
def SAF_SLS (i : Nat) : Nat := 0x400F0100 + 0x4 * i
def SAF_AXSPD (i : Nat) : Nat := 0x400F0400 + 0x4 * i
def FIO_STAT : Nat := 0x400E0000
def FIO_EVT : Nat := 0x400E0004
def FIO_IEN : Nat := 0x400E0008
def FIO_CTRL : Nat := 0x400E000C
def FIO_VFLD : Nat := 0x400E0010
def FIO_DI_STAT : Nat := 0x400E0020
def FIO_DI_RISE : Nat := 0x400E0024
def FIO_DI_FALL : Nat := 0x400E0028
def FIO_DI_IEN : Nat := 0x400E002C
def FIO_DI_CFG (i : Nat) : Nat := 0x400E0040 + 0x4 * i
def FIO_DO_CMD : Nat := 0x400E0100
def FIO_DO_SET : Nat := 0x400E0104
def FIO_DO_CLR : Nat := 0x400E0108
def FIO_DO_CFG : Nat := 0x400E010C
def FIO_DO_SAFE : Nat := 0x400E0110
def FIO_DO_UNLATCH : Nat := 0x400E0114
def FIO_DO_CH_CFG (i : Nat) : Nat := 0x400E0140 + 0x10 * i
def FIO_DO_CH_STAT (i : Nat) : Nat := 0x400E0144 + 0x10 * i
def FIO_DO_CH_CUR (i : Nat) : Nat := 0x400E0148 + 0x10 * i
def TSU_STAT : Nat := 0x40090000
def TSU_EVT : Nat := 0x40090004
def TSU_IEN : Nat := 0x40090008
def TSU_REFCNT : Nat := 0x4009000C
def TSU_PWR : Nat := 0x40090010
def TSU_IRQLOST : Nat := 0x40090014
def TSU_RELFLOW0 : Nat := 0x40090018
def TSU_RELFLOW1 : Nat := 0x4009001C
def TSU_SUB_ARG : Nat := 0x40090020
def TSU_SUB_ENTRY : Nat := 0x40090024
def TSU_SUB_RES : Nat := 0x40090028
def TSU_SUB_CTL : Nat := 0x4009002C
def TSU_SUB_STAT : Nat := 0x40090030
def TSU_LVL (i : Nat) : Nat := 0x40090040 + 0x4 * i
def TSU_TAKE : Nat := 0x40090080
def TSU_CUR_ARG : Nat := 0x40090084
def TSU_CUR_ENTRY : Nat := 0x40090088
def TSU_DONE : Nat := 0x4009008C
def TSU_CORE_CFG (i : Nat) : Nat := 0x40090200 + 0x20 * i
def TSU_CORE_STAT (i : Nat) : Nat := 0x40090204 + 0x20 * i
def TSU_CORE_IRQP (i : Nat) : Nat := 0x40090208 + 0x20 * i
def TSU_CORE_IRQE (i : Nat) : Nat := 0x4009020C + 0x20 * i
def TSU_CORE_JOBS (i : Nat) : Nat := 0x40090210 + 0x20 * i
def TSU_ROUTE (i : Nat) : Nat := 0x40090400 + 0x4 * i
def TSU_FLOW (i : Nat) : Nat := 0x40091000 + 0x10 * i
def HST_EVT : Nat := 0x400B0000
def HST_PCIE_STAT (i : Nat) : Nat := 0x400B0010 + 0x4 * i
def HST_ETH_CFG (i : Nat) : Nat := 0x400B0100 + 0x40 * i
def HST_ETH_MACLO (i : Nat) : Nat := 0x400B0104 + 0x40 * i
def HST_ETH_MACHI (i : Nat) : Nat := 0x400B0108 + 0x40 * i
def HST_ETH_IP4 (i : Nat) : Nat := 0x400B010C + 0x40 * i
def HST_ETH_RXRING (i : Nat) : Nat := 0x400B0110 + 0x40 * i
def HST_ETH_RXPTR (i : Nat) : Nat := 0x400B0114 + 0x40 * i
def HST_ETH_TXRING (i : Nat) : Nat := 0x400B0118 + 0x40 * i
def HST_ETH_TXPTR (i : Nat) : Nat := 0x400B011C + 0x40 * i
def HST_LAND_CFG (i : Nat) : Nat := 0x400B0200 + 0x40 * i
def HST_LAND_IMG (i : Nat) : Nat := 0x400B0204 + 0x40 * i
def HST_LAND_PEER (i : Nat) : Nat := 0x400B0208 + 0x40 * i
def HST_LAND_PPORT (i : Nat) : Nat := 0x400B020C + 0x40 * i
def HST_LAND_AX (i : Nat) (j : Nat) : Nat := 0x400B0210 + 0x40 * i + 0x4 * j
def HST_IMG_LATCH : Nat := 0x400B0800
def HST_IMG_RELEASE : Nat := 0x400B0804
def HST_IMG_STAT : Nat := 0x400B0808
def HST_COMMIT : Nat := 0x400B0810
def HST_COMMIT_CYC : Nat := 0x400B0814
def HST_COMMIT_STAT : Nat := 0x400B0818
def HST_STG_MARK (i : Nat) : Nat := 0x400B0820 + 0x4 * i
def HST_STG_a (i : Nat) (j : Nat) : Nat := 0x400B1000 + 0x10 * i + 0x4 * j
def PRT_DENY : Nat := 0x400C0000
def PRT_DADDR : Nat := 0x400C0004
def PRT_DCNT : Nat := 0x400C0008
def PRT_WIN_BASE (i : Nat) : Nat := 0x400C0100 + 0x10 * i
def PRT_WIN_CTRL (i : Nat) : Nat := 0x400C0104 + 0x10 * i
def PRT_WIN_RMASK (i : Nat) : Nat := 0x400C0108 + 0x10 * i
def PRT_WIN_WMASK (i : Nat) : Nat := 0x400C010C + 0x10 * i
def MBX_EVT : Nat := 0x400A0000
def MBX_WAITSEL : Nat := 0x400A0004
def MBX_WAIT : Nat := 0x400A0008
def MBX_CH_BIND (i : Nat) : Nat := 0x400A0100 + 0x20 * i
def MBX_CH_DB (i : Nat) : Nat := 0x400A0104 + 0x20 * i
def MBX_CH_DBSET (i : Nat) : Nat := 0x400A0108 + 0x20 * i
def MBX_CH_MASK (i : Nat) : Nat := 0x400A010C + 0x20 * i
def MBX_CH_DESCLO (i : Nat) : Nat := 0x400A0110 + 0x20 * i
def MBX_CH_DESCHI (i : Nat) : Nat := 0x400A0114 + 0x20 * i
def MBX_CH_STAT (i : Nat) : Nat := 0x400A0118 + 0x20 * i
def MBX_CH_ACK (i : Nat) : Nat := 0x400A011C + 0x20 * i
def CAP_STAT : Nat := 0x400D0000
def CAP_BWSUM : Nat := 0x400D0004
def CAP_EVT : Nat := 0x400D0008
def CAP_IEN : Nat := 0x400D000C
def CAP_S_CFG (i : Nat) : Nat := 0x400D0100 + 0x40 * i
def CAP_S_BASE (i : Nat) : Nat := 0x400D0104 + 0x40 * i
def CAP_S_SIZE (i : Nat) : Nat := 0x400D0108 + 0x40 * i
def CAP_S_PRE (i : Nat) : Nat := 0x400D010C + 0x40 * i
def CAP_S_POST (i : Nat) : Nat := 0x400D0110 + 0x40 * i
def CAP_S_SRC (i : Nat) : Nat := 0x400D0114 + 0x40 * i
def CAP_S_TRIG (i : Nat) : Nat := 0x400D0118 + 0x40 * i
def CAP_S_TLEV (i : Nat) : Nat := 0x400D011C + 0x40 * i
def CAP_S_CTRL (i : Nat) : Nat := 0x400D0120 + 0x40 * i
def CAP_S_STAT (i : Nat) : Nat := 0x400D0124 + 0x40 * i
def CAP_S_CHG (i : Nat) : Nat := 0x400D0128 + 0x40 * i
def CAP_S_TPTR (i : Nat) : Nat := 0x400D012C + 0x40 * i
def CAP_S_PREACT (i : Nat) : Nat := 0x400D0130 + 0x40 * i
def CAP_S_WPTR (i : Nat) : Nat := 0x400D0134 + 0x40 * i
def CAP_S_DEAD (i : Nat) : Nat := 0x400D0138 + 0x40 * i
def CAP_S_LOST (i : Nat) : Nat := 0x400D013C + 0x40 * i
def CAP_S_AX (i : Nat) (j : Nat) : Nat := 0x400D0800 + 0x20 * i + 0x4 * j
def CAP_S_DMAX (i : Nat) : Nat := 0x400D0A00 + 0x4 * i
def SYS_ID : Nat := 0x40000000
def SYS_MODE : Nat := 0x40000004
def SYS_CTRL : Nat := 0x40000008
def SYS_EVT : Nat := 0x4000000C
def SYS_RST_CAUSE : Nat := 0x40000010
def SYS_BOOT : Nat := 0x40000014
def SYS_BOOT_CAUSE : Nat := 0x40000018
def SYS_RUNT : Nat := 0x4000001C
def SYS_INTCFG : Nat := 0x40000020
def SYS_LK_DENY : Nat := 0x40000024
def PREG_W (i : Nat) : Nat := 0x40200000 + 0x4 * i
def PREG_WEAR (i : Nat) : Nat := 0x40204000 + 0x4 * i
def PREG_STAT : Nat := 0x40208000
def PREG_EVT : Nat := 0x40208004
def PREG_GCNT : Nat := 0x40208008
def PREG_FUSE : Nat := 0x4020800C
def PREG_KH0 (i : Nat) : Nat := 0x40208020 + 0x4 * i
def PREG_KH1 (i : Nat) : Nat := 0x40208040 + 0x4 * i
def PAIR_CFG : Nat := 0x40030000
def PAIR_LEASE : Nat := 0x40030004
def PAIR_BPER : Nat := 0x40030008
def PAIR_FWCP : Nat := 0x4003000C
def PAIR_CTRL : Nat := 0x40030010
def PAIR_STAT : Nat := 0x40030014
def PAIR_EVT : Nat := 0x40030018
def PAIR_ABS : Nat := 0x4003001C
def PAIR_DLY : Nat := 0x40030020
def PAIR_PHASE : Nat := 0x40030024
def PAIR_CPCYC : Nat := 0x40030028
def PAIR_CPCNT : Nat := 0x4003002C
def PAIR_TKCYC : Nat := 0x40030030
def PAIR_TKSTAT : Nat := 0x40030034
def PAIR_FOCNT : Nat := 0x40030038
def PAIR_ERRCNT : Nat := 0x4003003C
def PAIR_SPAN (i : Nat) : Nat := 0x40030100 + 0x4 * i
def SPR_RES0 : Nat := 0x40040000
def SPR_RES1 : Nat := 0x40040004
def SPR_CFG : Nat := 0x40040008
def SPR_CTRL : Nat := 0x4004000C
def SPR_EVT : Nat := 0x40040010
def SPR_STAT : Nat := 0x40040014
def SPR_LOG : Nat := 0x40040018
def SPR_SPCNT : Nat := 0x4004001C
def SPR_DSTAT : Nat := 0x40040020
def SPR_EVTREC (i : Nat) (j : Nat) : Nat := 0x40040100 + 0x10 * i + 0x4 * j
def SPR_TR (i : Nat) : Nat := 0x40040400 + 0x4 * i
def SPR_HMAP (i : Nat) : Nat := 0x40040800 + 0x4 * i

end Reg

/-- Register rows of the SYS block. -/
def sysRows : List RegRow := [
  ⟨0x40000000, [], 0x25640001, 0x0, 0x0, 0x0, 0x0, 0xFFFF00FF, 0x0, 0x0⟩,
  ⟨0x40000004, [], 0x1, 0x0, 0x0, 0x0, 0x0, 0xFFFF00FF, 0x0, 0x0⟩,
  ⟨0x40000008, [], 0x0, 0xF, 0x0, 0xE0000000, 0xFF00, 0x0, 0xE000FF0F, 0x0⟩,
  ⟨0x4000000C, [], 0x0, 0x0, 0xF0000000, 0x0, 0x0, 0x0, 0x0, 0x0⟩,
  ⟨0x40000010, [], 0x0, 0x0, 0x0, 0x0, 0x0, 0xFF000000, 0x0, 0x0⟩,
  ⟨0x40000014, [], 0x0, 0x0, 0x0, 0x0, 0x0, 0xFE0F0000, 0x0, 0x0⟩,
  ⟨0x40000018, [], 0x0, 0x0, 0x0, 0x0, 0x0, 0xFFFF1FFF, 0x0, 0x0⟩,
  ⟨0x4000001C, [], 0x0, 0x0, 0x0, 0x0, 0x0, 0xFFFFFFFF, 0x0, 0x0⟩,
  ⟨0x40000020, [], 0x0, 0x0, 0x0, 0x0, 0x0, 0xFFFF, 0x0, 0xFFFF⟩,
  ⟨0x40000024, [], 0x0, 0x0, 0x0, 0x0, 0x0, 0x1FFFFFFF, 0x0, 0x0⟩]

/-- Register rows of the TB block, part 0. -/
def tbRows0 : List RegRow := [
  ⟨0x40010000, [], 0x1, 0x0, 0x0, 0x0, 0x0, 0x7, 0x0, 0x7⟩,
  ⟨0x40010004, [], 0x0, 0x0, 0x0, 0x0, 0x0, 0xFC000000, 0x0, 0x0⟩,
  ⟨0x40010008, [], 0x0, 0x0, 0xFF000000, 0x0, 0x0, 0x0, 0x0, 0x0⟩,
  ⟨0x4001000C, [], 0x0, 0xFF000000, 0x0, 0x0, 0x0, 0x0, 0x0, 0x0⟩,
  ⟨0x40010010, [], 0x0, 0x0, 0x0, 0x0, 0x0, 0xFFFFFFFF, 0x0, 0x0⟩,
  ⟨0x40010014, [], 0x0, 0x0, 0x0, 0x0, 0x0, 0xFFFFFFFF, 0x0, 0x0⟩,
  ⟨0x40010018, [], 0x0, 0x0, 0x0, 0x80000000, 0x0, 0x0, 0x0, 0x0⟩,
  ⟨0x4001001C, [], 0x0, 0x0, 0x0, 0x0, 0x0, 0xFFFFFFFF, 0x0, 0x0⟩,
  ⟨0x40010020, [], 0x0, 0x0, 0x0, 0x0, 0x0, 0xFFFFFFFF, 0x0, 0x0⟩,
  ⟨0x40010024, [], 0x0, 0x0, 0x0, 0x0, 0x0, 0xFFFFFFFF, 0x0, 0x0⟩,
  ⟨0x40010028, [], 0x0, 0x0, 0x0, 0x0, 0x0, 0xFFFFFFFF, 0x0, 0x0⟩,
  ⟨0x4001002C, [], 0x0, 0x0, 0x0, 0x0, 0x0, 0xFFFFFFFF, 0x0, 0x0⟩,
  ⟨0x40010030, [], 0x0, 0x0, 0x0, 0x0, 0x0, 0xFFFFFFFF, 0x0, 0x0⟩,
  ⟨0x40010034, [], 0x0, 0x0, 0x0, 0x0, 0x0, 0x3FFFFFFF, 0x0, 0x0⟩,
  ⟨0x40010038, [], 0x0, 0x0, 0x0, 0x0, 0x0, 0xFFFF, 0x0, 0x0⟩,
  ⟨0x40010040, [], 0x0, 0xFFFFFFFF, 0x0, 0x0, 0x0, 0x0, 0x0, 0x0⟩,
  ⟨0x40010044, [], 0x0, 0xFFFFFFFF, 0x0, 0x0, 0x0, 0x0, 0x0, 0x0⟩,
  ⟨0x40010048, [], 0x0, 0xFFFFFFFF, 0x0, 0x0, 0x0, 0x0, 0x0, 0x0⟩,
  ⟨0x4001004C, [], 0x0, 0xFFFF, 0x0, 0x0, 0x0, 0x0, 0x0, 0x0⟩,
  ⟨0x40010050, [], 0x0, 0x0, 0x0, 0xE0000000, 0x0, 0x0, 0x0, 0x0⟩,
  ⟨0x40010054, [], 0x0, 0xFFFFFFFF, 0x0, 0x0, 0x0, 0x0, 0x0, 0x0⟩,
  ⟨0x40010060, [], 0x0, 0xC3FFFFFF, 0x0, 0x0, 0x0, 0x0, 0x0, 0xC3FFFFFF⟩,
  ⟨0x40010064, [], 0x0, 0xFFFFFFFF, 0x0, 0x0, 0x0, 0x0, 0x0, 0xFFFFFFFF⟩,
  ⟨0x40010068, [], 0x0, 0xFFFFFFFF, 0x0, 0x0, 0x0, 0x0, 0x0, 0xFFFFFFFF⟩,
  ⟨0x4001006C, [], 0x0, 0x0, 0x0, 0x0, 0x0, 0xFFFFFFFF, 0x0, 0x0⟩,
  ⟨0x40010070, [], 0x0, 0x0, 0x0, 0x0, 0x0, 0xFFFFFFFF, 0x0, 0x0⟩,
  ⟨0x40010074, [], 0x0, 0xFFFFFFFF, 0x0, 0x0, 0x0, 0x0, 0x0, 0x0⟩,
  ⟨0x40010078, [], 0x0, 0xFFFF, 0x0, 0x0, 0x0, 0x0, 0x0, 0x0⟩,
  ⟨0x4001007C, [], 0x0, 0x0, 0x0, 0x0, 0x0, 0xFFFFFFFF, 0x0, 0x0⟩,
  ⟨0x40010080, [], 0x0, 0x0, 0x0, 0x0, 0x0, 0xFFFF, 0x0, 0x0⟩]

/-- Register rows of the TB block, part 1. -/
def tbRows1 : List RegRow := [
  ⟨0x40010084, [], 0x0, 0x0, 0x0, 0x0, 0x0, 0xFFFFFFFF, 0x0, 0x0⟩,
  ⟨0x400100A0, [], 0x0, 0xC0000000, 0x0, 0x0, 0x0, 0x0, 0x0, 0xC0000000⟩,
  ⟨0x400100A4, [], 0x0, 0xFFFF, 0x0, 0x0, 0x0, 0x0, 0x0, 0xFFFF⟩,
  ⟨0x400100A8, [], 0x0, 0x0, 0x0, 0x0, 0x0, 0xFFFFFFFF, 0x0, 0x0⟩,
  ⟨0x400100AC, [], 0x0, 0x0, 0x0, 0x0, 0x0, 0xFFFFFFFF, 0x0, 0x0⟩,
  ⟨0x400100B0, [], 0x0, 0x0, 0x0, 0x0, 0x0, 0xFFFFFFFF, 0x0, 0x0⟩,
  ⟨0x400100B4, [], 0x0, 0x0, 0x0, 0x0, 0x0, 0xFFFFFFFF, 0x0, 0x0⟩,
  ⟨0x40010100, [(2, 0x40)], 0x0, 0xC0FFFFFF, 0x0, 0x0, 0x0, 0x0, 0x0, 0xC0FFFFFF⟩,
  ⟨0x40010104, [(2, 0x40)], 0x0, 0x0, 0x0, 0x0, 0x0, 0xFFFFFFFF, 0x0, 0x0⟩,
  ⟨0x40010108, [(2, 0x40)], 0x0, 0x0, 0x0, 0x0, 0x0, 0xBFFFFFFF, 0x0, 0x0⟩,
  ⟨0x4001010C, [(2, 0x40)], 0x0, 0x0, 0x0, 0x0, 0x0, 0xFFFFFFFF, 0x0, 0x0⟩,
  ⟨0x40010110, [(2, 0x40)], 0x0, 0x0, 0x0, 0x1, 0x0, 0x0, 0x0, 0x0⟩,
  ⟨0x40010114, [(2, 0x40)], 0x0, 0x0, 0x80000000, 0x0, 0x0, 0xF, 0x0, 0x0⟩,
  ⟨0x40010118, [(2, 0x40)], 0x0, 0x0, 0x0, 0x0, 0x0, 0xFFFFFFFF, 0x0, 0x0⟩]

/-- Register rows of the TB block. -/
def tbRows : List RegRow := tbRows0 ++ tbRows1

/-- Register rows of the TRN block, part 0. -/
def trnRows0 : List RegRow := [
  ⟨0x40020800, [(12, 0x1000), (2, 0x100)], 0x0, 0xFC0FFF00, 0x0, 0x0, 0x0, 0x0, 0x0, 0xF00FFF00⟩,
  ⟨0x40020804, [(12, 0x1000), (2, 0x100)], 0x0, 0x0, 0xFE00, 0x0, 0x0, 0xC0000000, 0x0, 0x0⟩,
  ⟨0x40020808, [(12, 0x1000), (2, 0x100)], 0x0, 0xFE00, 0x0, 0x0, 0x0, 0x0, 0x0, 0x0⟩,
  ⟨0x4002080C, [(12, 0x1000), (2, 0x100)], 0x0, 0x0, 0x0, 0x0, 0x0, 0xFFFFFFFF, 0x0, 0x0⟩,
  ⟨0x40020810, [(12, 0x1000), (2, 0x100)], 0x0, 0x0, 0x0, 0x0, 0x0, 0xFFFFFFFF, 0x0, 0x0⟩,
  ⟨0x40020814, [(12, 0x1000), (2, 0x100)], 0x0, 0x0, 0x0, 0x0, 0x0, 0xFFFFFFFF, 0x0, 0x0⟩,
  ⟨0x40020818, [(12, 0x1000), (2, 0x100)], 0x0, 0x0, 0x0, 0x0, 0x0, 0xFFFFFFFF, 0x0, 0x0⟩,
  ⟨0x4002081C, [(12, 0x1000), (2, 0x100)], 0x0, 0x0, 0x0, 0x0, 0x0, 0xFFFFFFFF, 0x0, 0x0⟩,
  ⟨0x40020820, [(12, 0x1000), (2, 0x100)], 0x0, 0x0, 0x0, 0x0, 0x0, 0xFFFFFFFF, 0x0, 0x0⟩,
  ⟨0x40020824, [(12, 0x1000), (2, 0x100)], 0x0, 0x0, 0x0, 0x0, 0x0, 0xFFFFFFFF, 0x0, 0x0⟩,
  ⟨0x40020828, [(12, 0x1000), (2, 0x100)], 0x0, 0x0, 0x0, 0x0, 0x0, 0xFFFFFFFF, 0x0, 0x0⟩,
  ⟨0x40020A00, [(12, 0x1000)], 0x0, 0x0, 0x0, 0x0, 0x0, 0xFFFFFFFF, 0x0, 0x0⟩,
  ⟨0x40020A04, [(12, 0x1000)], 0x0, 0x0, 0x0, 0x0, 0x0, 0xFFFFFFFF, 0x0, 0x0⟩,
  ⟨0x40020A08, [(12, 0x1000)], 0x0, 0x0, 0x0, 0x0, 0x0, 0xFFFFFFFF, 0x0, 0x0⟩,
  ⟨0x40020A0C, [(12, 0x1000)], 0x0, 0x0, 0xE0000000, 0x0, 0x0, 0x0, 0x0, 0x0⟩,
  ⟨0x40020A10, [(12, 0x1000)], 0x0, 0xE0000000, 0x0, 0x0, 0x0, 0x0, 0x0, 0x0⟩,
  ⟨0x40020000, [(12, 0x1000)], 0x0, 0x2000007F, 0x0, 0x0, 0x0, 0xC7000000, 0x0, 0xE700007F⟩,
  ⟨0x40020004, [(12, 0x1000)], 0x0, 0x0, 0x0, 0x0, 0x0, 0xEF01FFFF, 0x0, 0xEF01FFFF⟩,
  ⟨0x40020008, [(12, 0x1000)], 0x0, 0x0, 0x0, 0x0, 0x0, 0x1FFFFFFF, 0x0, 0x1FFFFFFF⟩,
  ⟨0x4002000C, [(12, 0x1000)], 0x0, 0x0, 0x0, 0x0, 0x0, 0x1FFFF, 0x0, 0x1FFFF⟩,
  ⟨0x40020010, [(12, 0x1000)], 0x0, 0x0, 0x0, 0x0, 0x0, 0xFFFFFFFF, 0x0, 0xFFFFFFFF⟩,
  ⟨0x40020014, [(12, 0x1000)], 0x0, 0x0, 0x0, 0x0, 0x0, 0xFF3F0F00, 0x0, 0x0⟩,
  ⟨0x40020018, [(12, 0x1000)], 0x0, 0x0, 0xFFF00000, 0x0, 0x0, 0x0, 0x0, 0x0⟩,
  ⟨0x4002001C, [(12, 0x1000)], 0x0, 0xFFF00000, 0x0, 0x0, 0x0, 0x0, 0x0, 0x0⟩,
  ⟨0x40020020, [(12, 0x1000)], 0xFFFFFFFF, 0xFFFFFFFF, 0x0, 0x0, 0x0, 0x0, 0xFFFFFFFF, 0x0⟩,
  ⟨0x40020024, [(12, 0x1000)], 0x0, 0x0, 0x0, 0x0, 0x0, 0x800000F0, 0x0, 0x0⟩,
  ⟨0x40020028, [(12, 0x1000)], 0x0, 0x0, 0x0, 0x0, 0x0, 0xFFFFFFFF, 0x0, 0x0⟩,
  ⟨0x4002002C, [(12, 0x1000)], 0x0, 0x0, 0x0, 0x0, 0x0, 0xFFFFFFFF, 0x0, 0x0⟩,
  ⟨0x40020030, [(12, 0x1000)], 0x0, 0x3F7F0000, 0x0, 0x80000000, 0x0, 0x40000000, 0x0, 0x0⟩,
  ⟨0x40020040, [(12, 0x1000), (16, 0x4)], 0x0, 0xFFFFFFFF, 0x0, 0x0, 0x0, 0x0, 0x0, 0x0⟩]

/-- Register rows of the TRN block, part 1. -/
def trnRows1 : List RegRow := [
  ⟨0x40020080, [(12, 0x1000)], 0x0, 0x0, 0xF, 0x0, 0x0, 0xFFFF0000, 0x0, 0x0⟩,
  ⟨0x40020090, [(12, 0x1000), (4, 0x4)], 0x0, 0x0, 0x0, 0x0, 0x0, 0x3F7FFFFF, 0x0, 0x0⟩,
  ⟨0x40020100, [(12, 0x1000), (4, 0x40), (16, 0x4)], 0x0, 0x0, 0x0, 0x0, 0x0, 0xFFFFFFFF, 0x0, 0x0⟩,
  ⟨0x40020200, [(12, 0x1000), (32, 0x4)], 0x0, 0x0, 0x0, 0x0, 0x0, 0xFF81FFFF, 0x0, 0xFF81FFFF⟩,
  ⟨0x40020300, [(12, 0x1000), (32, 0x10)], 0x0, 0x0, 0x7, 0x0, 0x0, 0xE3FFF000, 0x0, 0x0⟩,
  ⟨0x40020304, [(12, 0x1000), (32, 0x10)], 0x0, 0x0, 0x0, 0x0, 0x0, 0xFFFFFFFF, 0x0, 0x0⟩,
  ⟨0x40020308, [(12, 0x1000), (32, 0x10)], 0x80000000, 0x0, 0x0, 0x0, 0x0, 0xFFFFFFFF, 0x0, 0x0⟩,
  ⟨0x4002030C, [(12, 0x1000), (32, 0x10)], 0x0, 0x0, 0x0, 0x0, 0x0, 0xFFFFFFFF, 0x0, 0x0⟩]

/-- Register rows of the TRN block. -/
def trnRows : List RegRow := trnRows0 ++ trnRows1

/-- Register rows of the PAIR block. -/
def pairRows : List RegRow := [
  ⟨0x40030000, [], 0x0, 0x0, 0x0, 0x0, 0x0, 0xF0FF0000, 0x0, 0xF0FF0000⟩,
  ⟨0x40030004, [], 0x0, 0x0, 0x0, 0x0, 0x0, 0x7FFFFF, 0x0, 0x7FFFFF⟩,
  ⟨0x40030008, [], 0x0, 0x0, 0x0, 0x0, 0x0, 0x1FFFF, 0x0, 0x1FFFF⟩,
  ⟨0x4003000C, [], 0x0, 0x0, 0x0, 0x0, 0x0, 0x7FFFFF, 0x0, 0x7FFFFF⟩,
  ⟨0x40030010, [], 0x0, 0x0, 0x0, 0x80000000, 0x0, 0x0, 0x80000000, 0x0⟩,
  ⟨0x40030014, [], 0x0, 0x0, 0x0, 0x0, 0x0, 0xFFFF0000, 0x0, 0x0⟩,
  ⟨0x40030018, [], 0x0, 0x0, 0xFF000000, 0x0, 0x0, 0x0, 0x0, 0x0⟩,
  ⟨0x4003001C, [], 0x0, 0x0, 0x0, 0x0, 0x0, 0xFFFFFFFF, 0x0, 0x0⟩,
  ⟨0x40030020, [], 0x0, 0x0, 0x0, 0x0, 0x0, 0xFFFFFFFF, 0x0, 0x0⟩,
  ⟨0x40030024, [], 0x0, 0x0, 0x0, 0x0, 0x0, 0xFFFFFFFF, 0x0, 0x0⟩,
  ⟨0x40030028, [], 0x0, 0x0, 0x0, 0x0, 0x0, 0xFFFFFFFF, 0x0, 0x0⟩,
  ⟨0x4003002C, [], 0x0, 0x0, 0x0, 0x0, 0x0, 0xFFFFFFFF, 0x0, 0x0⟩,
  ⟨0x40030030, [], 0x0, 0x0, 0x0, 0x0, 0x0, 0xFFFFFFFF, 0x0, 0x0⟩,
  ⟨0x40030034, [], 0x0, 0x0, 0x0, 0x0, 0x0, 0xFFFF8000, 0x0, 0x0⟩,
  ⟨0x40030038, [], 0x0, 0x0, 0x0, 0x0, 0x0, 0xFFFF, 0x0, 0x0⟩,
  ⟨0x4003003C, [], 0x0, 0x0, 0x0, 0x0, 0x0, 0xFFFFFFFF, 0x0, 0x0⟩,
  ⟨0x40030100, [(12, 0x4)], 0xFFFFFFFF, 0x0, 0x0, 0x0, 0x0, 0xFFFFFFFF, 0x0, 0x0⟩]

/-- Register rows of the SPR block. -/
def sprRows : List RegRow := [
  ⟨0x40040000, [], 0x0, 0x0, 0x0, 0x0, 0x0, 0x30101FF, 0x0, 0x0⟩,
  ⟨0x40040004, [], 0x0, 0x0, 0x0, 0x0, 0x0, 0xFFFF007F, 0x0, 0x0⟩,
  ⟨0x40040008, [], 0x0, 0x0, 0x0, 0x0, 0x0, 0xFFFFFF00, 0x0, 0xFFFFFF00⟩,
  ⟨0x4004000C, [], 0x0, 0x0, 0x0, 0xC000000F, 0x0, 0x0, 0xC000000F, 0x0⟩,
  ⟨0x40040010, [], 0x0, 0x0, 0xF8000000, 0x0, 0x0, 0x0, 0x0, 0x0⟩,
  ⟨0x40040014, [], 0x0, 0x0, 0x0, 0x0, 0x0, 0xFFFFFFFF, 0x0, 0x0⟩,
  ⟨0x40040018, [], 0x0, 0x0, 0x0, 0x0, 0x0, 0xFFFFFFFF, 0x0, 0x0⟩,
  ⟨0x4004001C, [], 0x0, 0x0, 0x0, 0x0, 0x0, 0xFFFF, 0x0, 0x0⟩,
  ⟨0x40040020, [], 0x0, 0x0, 0x0, 0x0, 0x0, 0xFF00007F, 0x0, 0x0⟩,
  ⟨0x40040100, [(32, 0x10), (4, 0x4)], 0x0, 0x0, 0x0, 0x0, 0x0, 0xFFFFFFFF, 0x0, 0x0⟩,
  ⟨0x40040400, [(32, 0x4)], 0x0, 0x0, 0x0, 0x0, 0x0, 0xFFFFFFFF, 0x0, 0x0⟩,
  ⟨0x40040800, [(256, 0x4)], 0x0, 0x0, 0x0, 0x0, 0x0, 0x80001FFF, 0x0, 0x0⟩]

/-- Register rows of the GAL block. -/
def galRows : List RegRow := [
  ⟨0x40050000, [], 0x1F, 0x1F, 0x0, 0xC0000000, 0x0, 0x0, 0x8000001F, 0x0⟩,
  ⟨0x40050004, [], 0x10021F00, 0x0, 0x0, 0x0, 0x0, 0x1F1F1F1F, 0x0, 0x0⟩,
  ⟨0x40050008, [], 0x0, 0x0, 0xFF000000, 0x0, 0x0, 0x0, 0x0, 0x0⟩,
  ⟨0x4005000C, [], 0x0, 0xFF000000, 0x0, 0x0, 0x0, 0x0, 0x0, 0x0⟩,
  ⟨0x40050010, [], 0x0, 0x0, 0x0, 0x0, 0x0, 0xFFFFFFFF, 0x0, 0x0⟩,
  ⟨0x40050014, [], 0x0, 0x0, 0x0, 0x0, 0x0, 0xFFFFFFFF, 0x0, 0x0⟩,
  ⟨0x40050018, [], 0x0, 0x0, 0x0, 0x80000000, 0x0, 0x70000000, 0x0, 0x0⟩,
  ⟨0x4005001C, [], 0x0, 0x0, 0x0, 0x0, 0x0, 0xF07FFFFF, 0x0, 0x0⟩,
  ⟨0x40050020, [], 0x0, 0x0, 0x0, 0x0, 0x0, 0xDFFFFFFF, 0x0, 0x0⟩,
  ⟨0x40050024, [], 0x0, 0x0, 0x0, 0x0, 0x0, 0xFF0000FF, 0x0, 0x0⟩,
  ⟨0x40050028, [], 0x0, 0x0, 0x0, 0x0, 0x0, 0xFFFFFFFF, 0x0, 0x0⟩,
  ⟨0x40050040, [(16, 0x4)], 0x0, 0x0, 0x0, 0x0, 0x0, 0x837F007F, 0x0, 0x0⟩,
  ⟨0x40050100, [(18, 0x20)], 0x0, 0x0, 0x0, 0x0, 0x0, 0xEF01FFFF, 0x0, 0x0⟩,
  ⟨0x40050104, [(18, 0x20)], 0x7FFF, 0x0, 0x0, 0x0, 0x0, 0xFFFFFFFF, 0x0, 0x0⟩,
  ⟨0x40050108, [(18, 0x20)], 0x0, 0x0, 0x0, 0x0, 0x0, 0x1FFF, 0x0, 0x0⟩,
  ⟨0x4005010C, [(18, 0x20)], 0x0, 0x0, 0x0, 0x0, 0x0, 0xFFFFFFFF, 0x0, 0x0⟩,
  ⟨0x40050110, [(18, 0x20)], 0x0, 0x0, 0x0, 0x0, 0x0, 0xFFFFFFFF, 0x0, 0x0⟩,
  ⟨0x40050114, [(18, 0x20)], 0x0, 0x0, 0x0, 0x0, 0x0, 0x8000FFFF, 0x0, 0x0⟩,
  ⟨0x40050118, [(18, 0x20)], 0x0, 0x0, 0x0, 0x0, 0x0, 0xFF00FFFF, 0x0, 0x0⟩,
  ⟨0x40058000, [(16, 0x200), (104, 0x4)], 0x0, 0xFFFFFFFF, 0x0, 0x0, 0x0, 0x0, 0x0, 0xFFFFFFFF⟩]

/-- Register rows of the LRN block. -/
def lrnRows : List RegRow := [
  ⟨0x40060000, [], 0x0, 0x0, 0x0, 0x0, 0x0, 0x7F003F, 0x0, 0x7F003F⟩,
  ⟨0x40060004, [], 0x0, 0x0, 0xF0000000, 0x0, 0x0, 0x0, 0x0, 0x0⟩,
  ⟨0x40060008, [], 0x0, 0xF0000000, 0x0, 0x0, 0x0, 0x0, 0x0, 0x0⟩,
  ⟨0x4006000C, [], 0x0, 0x0, 0x0, 0x0, 0x0, 0xFFFFFFFF, 0x0, 0x0⟩,
  ⟨0x40060010, [], 0x0, 0x0, 0x0, 0x0, 0x0, 0xFFFFFFFF, 0x0, 0x0⟩,
  ⟨0x40061000, [(256, 0x40)], 0x0, 0xFF80FFFF, 0x0, 0x0, 0x0, 0x0, 0x0, 0xFF80FFFF⟩,
  ⟨0x40061004, [(256, 0x40)], 0x0, 0xFFFFFFFF, 0x0, 0x0, 0x0, 0x0, 0x0, 0xFFFFFFFF⟩,
  ⟨0x40061008, [(256, 0x40)], 0x0, 0xFFFFFFFF, 0x0, 0x0, 0x0, 0x0, 0x0, 0xFFFFFFFF⟩,
  ⟨0x4006100C, [(256, 0x40)], 0x0, 0x1FFFFF, 0x0, 0x0, 0x0, 0x0, 0x0, 0x1FFFFF⟩,
  ⟨0x40061010, [(256, 0x40)], 0x0, 0xFFFFF000, 0x0, 0x0, 0x0, 0x0, 0x0, 0xFFFFF000⟩,
  ⟨0x40061014, [(256, 0x40)], 0x0, 0xFFFFFFFF, 0x0, 0x0, 0x0, 0x0, 0x0, 0xFFFFFFFF⟩,
  ⟨0x40061018, [(256, 0x40)], 0x0, 0xFFFFFFFF, 0x0, 0x0, 0x0, 0x0, 0x0, 0xFFFFFFFF⟩,
  ⟨0x4006101C, [(256, 0x40)], 0x0, 0x3, 0x0, 0x4, 0x0, 0x0, 0x0, 0x0⟩,
  ⟨0x40061020, [(256, 0x40)], 0x0, 0x0, 0xE00000, 0x0, 0x0, 0xFF000000, 0x0, 0x0⟩,
  ⟨0x40061024, [(256, 0x40)], 0x0, 0x0, 0x0, 0x0, 0x0, 0xFFFFFFFF, 0x0, 0x0⟩,
  ⟨0x40061028, [(256, 0x40)], 0x0, 0x0, 0x0, 0x0, 0x0, 0xFFFFFFFF, 0x0, 0x0⟩,
  ⟨0x4006102C, [(256, 0x40)], 0x0, 0x0, 0x0, 0x0, 0x0, 0xFFFFFFFF, 0x0, 0x0⟩]

/-- Register rows of the FBK block, part 0. -/
def fbkRows0 : List RegRow := [
  ⟨0x40070000, [], 0x0, 0x0, 0xFFC00000, 0x0, 0x0, 0x0, 0x0, 0x0⟩,
  ⟨0x40070004, [], 0x0, 0xFFC00000, 0x0, 0x0, 0x0, 0x0, 0x0, 0x0⟩,
  ⟨0x40070008, [], 0x0, 0x8000003F, 0x0, 0x0, 0x0, 0x0, 0x0, 0x8000003F⟩,
  ⟨0x40070400, [(256, 0x4)], 0x3FF03FF, 0x3FF03FF, 0x0, 0x0, 0x0, 0x0, 0x0, 0x3FF03FF⟩,
  ⟨0x40071000, [(16, 0x20)], 0x0, 0xFFC00000, 0x0, 0x0, 0x0, 0x0, 0x0, 0xFFC00000⟩,
  ⟨0x40071004, [(16, 0x20)], 0x0, 0x8071FFFF, 0x0, 0x0, 0x0, 0x0, 0x0, 0x8071FFFF⟩,
  ⟨0x40071008, [(16, 0x20)], 0x0, 0x3F3F07FF, 0x0, 0x0, 0x0, 0x0, 0x0, 0x3F3F07FF⟩,
  ⟨0x4007100C, [(16, 0x20)], 0x0, 0xFFFC0000, 0x0, 0x0, 0x0, 0x0, 0x0, 0xFFFC0000⟩,
  ⟨0x40071010, [(16, 0x20)], 0x0, 0xFFFFFFFF, 0x0, 0x0, 0x0, 0x0, 0x0, 0xFFFFFFFF⟩,
  ⟨0x40071014, [(16, 0x20)], 0x0, 0x0, 0x80000000, 0x0, 0x0, 0xFFFF, 0x0, 0x0⟩,
  ⟨0x40072000, [(512, 0x4)], 0x0, 0xFFFDFFFF, 0x0, 0x0, 0x0, 0x0, 0x0, 0xFFFDFFFF⟩,
  ⟨0x40074000, [(528, 0x40)], 0x0, 0x0, 0xFFC0, 0x0, 0x0, 0xFF000000, 0x0, 0x0⟩,
  ⟨0x40074004, [(528, 0x40)], 0x0, 0x0, 0x0, 0x0, 0x0, 0xFFFFFFFF, 0x0, 0x0⟩,
  ⟨0x40074008, [(528, 0x40)], 0x0, 0x0, 0x0, 0x0, 0x0, 0xFFFF, 0x0, 0x0⟩,
  ⟨0x4007400C, [(528, 0x40)], 0x0, 0x0, 0x0, 0x0, 0x0, 0xFFFFFFFF, 0x0, 0x0⟩,
  ⟨0x40074010, [(528, 0x40)], 0x0, 0x0, 0x0, 0x0, 0x0, 0xFFFFFFFF, 0x0, 0x0⟩,
  ⟨0x40074014, [(528, 0x40)], 0x0, 0xFFFFFFFF, 0x0, 0x0, 0x0, 0x0, 0x0, 0x0⟩,
  ⟨0x40074018, [(528, 0x40)], 0x0, 0xFFFF, 0x0, 0x0, 0x0, 0x0, 0x0, 0x0⟩,
  ⟨0x4007401C, [(528, 0x40)], 0x80000000, 0xFFFFFFFF, 0x0, 0x0, 0x0, 0x0, 0x0, 0x0⟩,
  ⟨0x40074020, [(528, 0x40)], 0x7FFFFFFF, 0xFFFFFFFF, 0x0, 0x0, 0x0, 0x0, 0x0, 0x0⟩,
  ⟨0x40074024, [(528, 0x40)], 0x0, 0xFFFFFFFF, 0x0, 0x0, 0x0, 0x0, 0x0, 0xFFFFFFFF⟩,
  ⟨0x40074028, [(528, 0x40)], 0x0, 0x0, 0x0, 0x0, 0x0, 0xFFFFFFFF, 0x0, 0x0⟩,
  ⟨0x4007402C, [(528, 0x40)], 0x0, 0x0, 0x0, 0x0, 0x0, 0xFFFFFFFF, 0x0, 0x0⟩,
  ⟨0x40074030, [(528, 0x40)], 0x0, 0x0, 0x0, 0x0, 0x0, 0xFFFFFFFF, 0x0, 0x0⟩,
  ⟨0x40074034, [(528, 0x40)], 0x0, 0x8FFFFFFF, 0x0, 0x0, 0x0, 0x0, 0x0, 0x8FFFFFFF⟩,
  ⟨0x40074038, [(528, 0x40)], 0x0, 0x0, 0x0, 0x0, 0x0, 0xFFFFFFFF, 0x0, 0x0⟩,
  ⟨0x4007403C, [(528, 0x40)], 0x0, 0x0, 0x0, 0x0, 0x0, 0x3FFFFF, 0x0, 0x0⟩,
  ⟨0x4007D000, [(24, 0x10)], 0x0, 0xF80001FF, 0x0, 0x0, 0x0, 0x0, 0x0, 0xF80001FF⟩,
  ⟨0x4007D004, [(24, 0x10)], 0x40000000, 0xFFFFFFFF, 0x0, 0x0, 0x0, 0x0, 0x0, 0xFFFFFFFF⟩,
  ⟨0x4007D008, [(24, 0x10)], 0x0, 0x0, 0x80000000, 0x0, 0x0, 0xFFFF, 0x0, 0x0⟩]

/-- Register rows of the FBK block, part 1. -/
def fbkRows1 : List RegRow := [
  ⟨0x4007E000, [(8, 0x20)], 0x0, 0xE3FF00FF, 0x0, 0x0, 0x0, 0x0, 0x0, 0xE3FF00FF⟩,
  ⟨0x4007E004, [(8, 0x20)], 0x0, 0xFFFFFFFF, 0x0, 0x0, 0x0, 0x0, 0x0, 0xFFFFFFFF⟩,
  ⟨0x4007E008, [(8, 0x20)], 0x0, 0xFFFFFF, 0x0, 0x0, 0x0, 0x0, 0x0, 0xFFFFFF⟩,
  ⟨0x4007E00C, [(8, 0x20)], 0x0, 0xFFFFFF, 0x0, 0x0, 0x0, 0x0, 0x0, 0xFFFFFF⟩,
  ⟨0x4007E010, [(8, 0x20)], 0x0, 0x0, 0x80000000, 0x0, 0x0, 0x4000FFFF, 0x0, 0x0⟩]

/-- Register rows of the FBK block. -/
def fbkRows : List RegRow := fbkRows0 ++ fbkRows1

/-- Register rows of the PWM block. -/
def pwmRows : List RegRow := [
  ⟨0x40080000, [], 0x0, 0x0, 0x0, 0xFF, 0x0, 0x0, 0x0, 0x0⟩,
  ⟨0x40080004, [], 0x0, 0x0, 0x0, 0xFF, 0x0, 0x0, 0x0, 0x0⟩,
  ⟨0x40080008, [], 0x0, 0x0, 0x0, 0x1, 0x0, 0x0, 0x0, 0x0⟩,
  ⟨0x4008000C, [], 0x0, 0x0, 0xC0FFFFFF, 0x0, 0x0, 0x0, 0x0, 0x0⟩,
  ⟨0x40080010, [], 0x0, 0xC0FFFFFF, 0x0, 0x0, 0x0, 0x0, 0x0, 0x0⟩,
  ⟨0x40080014, [], 0x0, 0xF, 0x0, 0x0, 0x0, 0x80000000, 0x0, 0xF⟩,
  ⟨0x40080100, [(8, 0x40)], 0x0, 0xFFFFCFC0, 0x0, 0x0, 0x0, 0x0, 0x0, 0xFFFFCFC0⟩,
  ⟨0x40080104, [(8, 0x40)], 0x0, 0xFFFF, 0x0, 0x0, 0x0, 0x0, 0x0, 0xFFFF⟩,
  ⟨0x40080108, [(8, 0x40)], 0x0, 0x1FFFF, 0x0, 0x0, 0x0, 0x0, 0x0, 0x1FFFF⟩,
  ⟨0x4008010C, [(8, 0x40)], 0x0, 0x80000000, 0x0, 0x0, 0x0, 0x0, 0x0, 0x0⟩,
  ⟨0x40080110, [(8, 0x40)], 0x0, 0xFF00FF, 0x0, 0x0, 0x0, 0x0, 0x0, 0xFF00FF⟩,
  ⟨0x40080114, [(8, 0x40)], 0x0, 0xFF00FF, 0x0, 0x0, 0x0, 0x0, 0x0, 0xFF00FF⟩,
  ⟨0x40080118, [(8, 0x40)], 0x0, 0xFF, 0x0, 0x0, 0x0, 0x0, 0x0, 0xFF⟩,
  ⟨0x4008011C, [(8, 0x40)], 0x0, 0xFFFFFFFF, 0x0, 0x0, 0x0, 0x0, 0x0, 0x0⟩,
  ⟨0x40080120, [(8, 0x40)], 0x0, 0xFFFF, 0x0, 0x0, 0x0, 0x0, 0x0, 0x0⟩,
  ⟨0x40080124, [(8, 0x40)], 0x0, 0x0, 0x0, 0x0, 0x0, 0xFFFFFFFF, 0x0, 0x0⟩,
  ⟨0x40080128, [(8, 0x40)], 0x0, 0x0, 0x0, 0x0, 0x0, 0xFFFF, 0x0, 0x0⟩,
  ⟨0x4008012C, [(8, 0x40)], 0x0, 0x0, 0xFE00, 0x0, 0x0, 0xFC000000, 0x0, 0x0⟩,
  ⟨0x40080130, [(8, 0x40)], 0x0, 0x0, 0x0, 0x0, 0x0, 0xFFFFFFFF, 0x0, 0x0⟩,
  ⟨0x40080134, [(8, 0x40)], 0x0, 0x0, 0x0, 0x0, 0x0, 0xFFFFFFFF, 0x0, 0x0⟩,
  ⟨0x40080138, [(8, 0x40)], 0x0, 0x0, 0x0, 0x0, 0x0, 0xFFFFFFFF, 0x0, 0x0⟩,
  ⟨0x4008013C, [(8, 0x40)], 0x0, 0x0, 0x0, 0x0, 0x0, 0xFFFFFFFF, 0x0, 0x0⟩]

/-- Register rows of the TSU block. -/
def tsuRows : List RegRow := [
  ⟨0x40090000, [], 0x7000700, 0x0, 0x0, 0x0, 0x0, 0x7FF07FF, 0x0, 0x0⟩,
  ⟨0x40090004, [], 0x0, 0x0, 0xFE000000, 0x0, 0x0, 0x0, 0x0, 0x0⟩,
  ⟨0x40090008, [], 0x0, 0xFE000000, 0x0, 0x0, 0x0, 0x0, 0x0, 0x0⟩,
  ⟨0x4009000C, [], 0x0, 0x0, 0x0, 0x0, 0x0, 0xFFFFFFFF, 0x0, 0x0⟩,
  ⟨0x40090010, [], 0x0, 0x1FF, 0x0, 0x0, 0x0, 0x0, 0x1FF, 0x0⟩,
  ⟨0x40090014, [], 0x0, 0x0, 0xFFFFFFFF, 0x0, 0x0, 0x0, 0x0, 0x0⟩,
  ⟨0x40090018, [], 0x0, 0x0, 0xFFFFFFFF, 0x0, 0x0, 0x0, 0x0, 0x0⟩,
  ⟨0x4009001C, [], 0x0, 0x0, 0xFFFFFFFF, 0x0, 0x0, 0x0, 0x0, 0x0⟩,
  ⟨0x40090020, [], 0x0, 0xFFFFFFFF, 0x0, 0x0, 0x0, 0x0, 0x0, 0x0⟩,
  ⟨0x40090024, [], 0x0, 0xFFFFFFFF, 0x0, 0x0, 0x0, 0x0, 0x0, 0x0⟩,
  ⟨0x40090028, [], 0xFFFFFFFF, 0xFFFFFFFF, 0x0, 0x0, 0x0, 0x0, 0x0, 0x0⟩,
  ⟨0x4009002C, [], 0x0, 0x0, 0x0, 0x0, 0xC700003F, 0x0, 0x0, 0x0⟩,
  ⟨0x40090030, [], 0x0, 0x0, 0x0, 0x0, 0x0, 0x870007FF, 0x0, 0x0⟩,
  ⟨0x40090040, [(8, 0x4)], 0x0, 0x0, 0x0, 0x0, 0x0, 0x7FF07FF, 0x0, 0x0⟩,
  ⟨0x40090080, [], 0x0, 0x0, 0x0, 0x0, 0x0, 0xE77F07FF, 0x0, 0x0⟩,
  ⟨0x40090084, [], 0x0, 0x0, 0x0, 0x0, 0x0, 0xFFFFFFFF, 0x0, 0x0⟩,
  ⟨0x40090088, [], 0x0, 0x0, 0x0, 0x0, 0x0, 0xFFFFFFFF, 0x0, 0x0⟩,
  ⟨0x4009008C, [], 0x0, 0x0, 0x0, 0x0, 0xFFFFFFFF, 0x0, 0x0, 0x0⟩,
  ⟨0x40090200, [(9, 0x20)], 0x0, 0x7FFFFF, 0x0, 0x0, 0x0, 0x0, 0x7FFFFF, 0x7FFFFF⟩,
  ⟨0x40090204, [(9, 0x20)], 0x0, 0x0, 0x2000000, 0x0, 0x0, 0xFC0007FF, 0x0, 0x0⟩,
  ⟨0x40090208, [(9, 0x20)], 0x0, 0x0, 0x20000, 0x0, 0x0, 0xFFFDFFFF, 0x0, 0x0⟩,
  ⟨0x4009020C, [(9, 0x20)], 0x0, 0xFFFFFFFF, 0x0, 0x0, 0x0, 0x0, 0x0, 0x0⟩,
  ⟨0x40090210, [(9, 0x20)], 0x0, 0x0, 0x0, 0x0, 0x0, 0xFFFFFFFF, 0x0, 0x0⟩,
  ⟨0x40090400, [(32, 0x4)], 0xF, 0xF, 0x0, 0x0, 0x0, 0x0, 0xF, 0xF⟩,
  ⟨0x40091000, [(64, 0x10)], 0x0, 0x0, 0x0, 0x0, 0x0, 0x7FFFFFFF, 0x0, 0x0⟩]

/-- Register rows of the MBX block. -/
def mbxRows : List RegRow := [
  ⟨0x400A0000, [], 0x0, 0x0, 0xF0000000, 0x0, 0x0, 0x0, 0x0, 0x0⟩,
  ⟨0x400A0004, [], 0x0, 0xC0003F3F, 0x0, 0x0, 0x0, 0x0, 0x0, 0x0⟩,
  ⟨0x400A0008, [], 0x0, 0x0, 0x0, 0x0, 0x0, 0xE0000000, 0x0, 0x0⟩,
  ⟨0x400A0100, [(64, 0x20)], 0x0, 0xC01F001F, 0x0, 0x0, 0x0, 0x0, 0xC01F001F, 0x0⟩,
  ⟨0x400A0104, [(64, 0x20)], 0x0, 0x0, 0xFFFFFFFF, 0x0, 0x0, 0x0, 0x0, 0x0⟩,
  ⟨0x400A0108, [(64, 0x20)], 0x0, 0x0, 0x0, 0x3FFFFFFF, 0x0, 0x0, 0x0, 0x0⟩,
  ⟨0x400A010C, [(64, 0x20)], 0x0, 0xFFFFFFFF, 0x0, 0x0, 0x0, 0x0, 0x0, 0x0⟩,
  ⟨0x400A0110, [(64, 0x20)], 0x0, 0x7FFFFF, 0x0, 0x0, 0x0, 0x0, 0x0, 0x0⟩,
  ⟨0x400A0114, [(64, 0x20)], 0x0, 0xFFFFFFFF, 0x0, 0x0, 0x0, 0x0, 0x0, 0x0⟩,
  ⟨0x400A0118, [(64, 0x20)], 0x0, 0x0, 0x40000000, 0x0, 0x0, 0x8000FFFF, 0x0, 0x0⟩,
  ⟨0x400A011C, [(64, 0x20)], 0x0, 0x0, 0x0, 0x1, 0x0, 0x0, 0x0, 0x0⟩]

/-- Register rows of the HST block. -/
def hstRows : List RegRow := [
  ⟨0x400B0000, [], 0x0, 0x0, 0xFE000000, 0x0, 0x0, 0x0, 0x0, 0x0⟩,
  ⟨0x400B0010, [(2, 0x4)], 0x0, 0x0, 0x0, 0x0, 0x0, 0xB3070000, 0x0, 0x0⟩,
  ⟨0x400B0100, [(2, 0x40)], 0x0, 0xE03FFFFF, 0x0, 0x0, 0x0, 0x10000000, 0x0, 0xE03FFFFF⟩,
  ⟨0x400B0104, [(2, 0x40)], 0x0, 0xFFFFFFFF, 0x0, 0x0, 0x0, 0x0, 0x0, 0xFFFFFFFF⟩,
  ⟨0x400B0108, [(2, 0x40)], 0x0, 0xFFFF, 0x0, 0x0, 0x0, 0x0, 0x0, 0xFFFF⟩,
  ⟨0x400B010C, [(2, 0x40)], 0x0, 0xFFFFFFFF, 0x0, 0x0, 0x0, 0x0, 0x0, 0xFFFFFFFF⟩,
  ⟨0x400B0110, [(2, 0x40)], 0x0, 0x7FFFFF, 0x0, 0x0, 0x0, 0x0, 0x0, 0x7FFFFF⟩,
  ⟨0x400B0114, [(2, 0x40)], 0x0, 0x3F, 0x0, 0x0, 0x0, 0x3F0000, 0x0, 0x0⟩,
  ⟨0x400B0118, [(2, 0x40)], 0x0, 0x7FFFFF, 0x0, 0x0, 0x0, 0x0, 0x0, 0x7FFFFF⟩,
  ⟨0x400B011C, [(2, 0x40)], 0x0, 0x3F, 0x0, 0x0, 0x0, 0x3F0000, 0x0, 0x0⟩,
  ⟨0x400B0200, [(4, 0x40)], 0x0, 0x0, 0x0, 0x0, 0x0, 0xB1FF0000, 0x0, 0xB1FF0000⟩,
  ⟨0x400B0204, [(4, 0x40)], 0x0, 0x0, 0x0, 0x0, 0x0, 0x7FFFFF, 0x0, 0x7FFFFF⟩,
  ⟨0x400B0208, [(4, 0x40)], 0x0, 0x0, 0x0, 0x0, 0x0, 0xFFFFFFFF, 0x0, 0xFFFFFFFF⟩,
  ⟨0x400B020C, [(4, 0x40)], 0x0, 0x0, 0x0, 0x0, 0x0, 0xFFFF, 0x0, 0xFFFF⟩,
  ⟨0x400B0210, [(4, 0x40), (8, 0x4)], 0x0, 0x0, 0x0, 0x0, 0x0, 0xFFFFFFFF, 0x0, 0xFFFFFFFF⟩,
  ⟨0x400B0800, [], 0x0, 0x0, 0x0, 0x0, 0x0, 0x8300FFFF, 0x0, 0x0⟩,
  ⟨0x400B0804, [], 0x0, 0x0, 0x0, 0x0, 0x3, 0x0, 0x0, 0x0⟩,
  ⟨0x400B0808, [], 0x0, 0x0, 0x0, 0x0, 0x0, 0xBF00FFFF, 0x0, 0x0⟩,
  ⟨0x400B0810, [], 0x0, 0x0, 0x0, 0xC0000000, 0x0, 0x0, 0x0, 0x0⟩,
  ⟨0x400B0814, [], 0x0, 0xFFFFFFFF, 0x0, 0x0, 0x0, 0x0, 0x0, 0x0⟩,
  ⟨0x400B0818, [], 0x0, 0x0, 0x2F000000, 0x0, 0x0, 0x8000FFFF, 0x0, 0x0⟩,
  ⟨0x400B0820, [(8, 0x4)], 0x0, 0xFFFFFFFF, 0x0, 0x0, 0x0, 0x0, 0x0, 0x0⟩,
  ⟨0x400B1000, [(256, 0x10), (4, 0x4)], 0x0, 0xFFFFFFFF, 0x0, 0x0, 0x0, 0x0, 0x0, 0x0⟩]

/-- Register rows of the PRT block. -/
def prtRows : List RegRow := [
  ⟨0x400C0000, [], 0x0, 0x0, 0x80000000, 0x0, 0x0, 0x401F0300, 0x0, 0x0⟩,
  ⟨0x400C0004, [], 0x0, 0x0, 0x0, 0x0, 0x0, 0xFFFFFFFF, 0x0, 0x0⟩,
  ⟨0x400C0008, [], 0x0, 0x0, 0x0, 0x0, 0x0, 0xFFFFFFFF, 0x0, 0x0⟩,
  ⟨0x400C0100, [(32, 0x10)], 0x0, 0xFFFFFFFF, 0x0, 0x0, 0x0, 0x0, 0xFFFFFFFF, 0x0⟩,
  ⟨0x400C0104, [(32, 0x10)], 0x0, 0x8000003F, 0x0, 0x0, 0x0, 0x0, 0x8000003F, 0x0⟩,
  ⟨0x400C0108, [(32, 0x10)], 0x0, 0xFFFFFFFF, 0x0, 0x0, 0x0, 0x0, 0xFFFFFFFF, 0x0⟩,
  ⟨0x400C010C, [(32, 0x10)], 0x0, 0xFFFFFFFF, 0x0, 0x0, 0x0, 0x0, 0xFFFFFFFF, 0x0⟩]

/-- Register rows of the CAP block. -/
def capRows : List RegRow := [
  ⟨0x400D0000, [], 0x0, 0x0, 0x0, 0x0, 0x0, 0xFFFF0007, 0x0, 0x0⟩,
  ⟨0x400D0004, [], 0x0, 0x0, 0x0, 0x0, 0x0, 0xFFFFFFFF, 0x0, 0x0⟩,
  ⟨0x400D0008, [], 0x0, 0x0, 0xFFFFFFFF, 0x0, 0x0, 0x0, 0x0, 0x0⟩,
  ⟨0x400D000C, [], 0x0, 0xFFFFFFFF, 0x0, 0x0, 0x0, 0x0, 0x0, 0x0⟩,
  ⟨0x400D0100, [(16, 0x40)], 0x0, 0xFFFFFFFF, 0x0, 0x0, 0x0, 0x0, 0x0, 0x0⟩,
  ⟨0x400D0104, [(16, 0x40)], 0x0, 0x7FFFFFF, 0x0, 0x0, 0x0, 0x0, 0x0, 0x0⟩,
  ⟨0x400D0108, [(16, 0x40)], 0x0, 0xFFFFFFFF, 0x0, 0x0, 0x0, 0x0, 0x0, 0x0⟩,
  ⟨0x400D010C, [(16, 0x40)], 0x0, 0xFFFFFFFF, 0x0, 0x0, 0x0, 0x0, 0x0, 0x0⟩,
  ⟨0x400D0110, [(16, 0x40)], 0x0, 0xFFFFFFFF, 0x0, 0x0, 0x0, 0x0, 0x0, 0x0⟩,
  ⟨0x400D0114, [(16, 0x40)], 0x0, 0xFFFFFFFF, 0x0, 0x0, 0x0, 0x0, 0x0, 0x0⟩,
  ⟨0x400D0118, [(16, 0x40)], 0x0, 0xFF0000FF, 0x0, 0x0, 0x0, 0x0, 0x0, 0x0⟩,
  ⟨0x400D011C, [(16, 0x40)], 0x0, 0xFFFFFFFF, 0x0, 0x0, 0x0, 0x0, 0x0, 0x0⟩,
  ⟨0x400D0120, [(16, 0x40)], 0x0, 0x0, 0x0, 0xF0000000, 0x0, 0x0, 0x0, 0x0⟩,
  ⟨0x400D0124, [(16, 0x40)], 0x0, 0x0, 0x3000000, 0x0, 0x0, 0xFC07FFFF, 0x0, 0x0⟩,
  ⟨0x400D0128, [(16, 0x40)], 0x0, 0x0, 0x0, 0x0, 0x0, 0xFFFFFFFF, 0x0, 0x0⟩,
  ⟨0x400D012C, [(16, 0x40)], 0x0, 0x0, 0x0, 0x0, 0x0, 0xFFFFFFFF, 0x0, 0x0⟩,
  ⟨0x400D0130, [(16, 0x40)], 0x0, 0x0, 0x0, 0x0, 0x0, 0xFFFFFFFF, 0x0, 0x0⟩,
  ⟨0x400D0134, [(16, 0x40)], 0x0, 0x0, 0x0, 0x0, 0x0, 0xFFFFFFFF, 0x0, 0x0⟩,
  ⟨0x400D0138, [(16, 0x40)], 0x0, 0x0, 0x0, 0x0, 0x0, 0xFFFFFFFF, 0x0, 0x0⟩,
  ⟨0x400D013C, [(16, 0x40)], 0x0, 0x0, 0x0, 0x0, 0x0, 0xFFFFFFFF, 0x0, 0x0⟩,
  ⟨0x400D0800, [(16, 0x20), (8, 0x4)], 0x0, 0xFFFFFFFF, 0x0, 0x0, 0x0, 0x0, 0x0, 0x0⟩,
  ⟨0x400D0A00, [(16, 0x4)], 0x0, 0x0, 0x0, 0x0, 0x0, 0xFFFFFFFF, 0x0, 0x0⟩]

/-- Register rows of the FIO block. -/
def fioRows : List RegRow := [
  ⟨0x400E0000, [], 0x0, 0x0, 0x0, 0x0, 0x0, 0xF8000000, 0x0, 0x0⟩,
  ⟨0x400E0004, [], 0x0, 0x0, 0xFC000000, 0x0, 0x0, 0x0, 0x0, 0x0⟩,
  ⟨0x400E0008, [], 0x0, 0xFC000000, 0x0, 0x0, 0x0, 0x0, 0x0, 0x0⟩,
  ⟨0x400E000C, [], 0x0, 0x0, 0x0, 0xC0000000, 0x0, 0x0, 0x0, 0x0⟩,
  ⟨0x400E0010, [], 0x0, 0x0, 0x0, 0x0, 0x0, 0xFFFF, 0x0, 0x0⟩,
  ⟨0x400E0020, [], 0x0, 0x0, 0x0, 0x0, 0x0, 0xFFFFFFFF, 0x0, 0x0⟩,
  ⟨0x400E0024, [], 0x0, 0x0, 0xFFFF, 0x0, 0x0, 0x0, 0x0, 0x0⟩,
  ⟨0x400E0028, [], 0x0, 0x0, 0xFFFF, 0x0, 0x0, 0x0, 0x0, 0x0⟩,
  ⟨0x400E002C, [], 0x0, 0xFFFFFFFF, 0x0, 0x0, 0x0, 0x0, 0x0, 0x0⟩,
  ⟨0x400E0040, [(16, 0x4)], 0x0, 0x3FF00FF, 0x0, 0x0, 0x0, 0x0, 0x0, 0x3FF00FF⟩,
  ⟨0x400E0100, [], 0x0, 0xFF, 0x0, 0x0, 0x0, 0x0, 0x0, 0x0⟩,
  ⟨0x400E0104, [], 0x0, 0x0, 0x0, 0xFF, 0x0, 0x0, 0x0, 0x0⟩,
  ⟨0x400E0108, [], 0x0, 0x0, 0x0, 0xFF, 0x0, 0x0, 0x0, 0x0⟩,
  ⟨0x400E010C, [], 0x0, 0xF000007F, 0x0, 0x0, 0x0, 0x0, 0x0, 0xF000007F⟩,
  ⟨0x400E0110, [], 0x0, 0xFFFF, 0x0, 0x0, 0x0, 0x0, 0x0, 0x0⟩,
  ⟨0x400E0114, [], 0x0, 0x0, 0x0, 0xFF, 0x0, 0x0, 0x0, 0x0⟩,
  ⟨0x400E0140, [(8, 0x10)], 0x0, 0xFEFFFFF0, 0x0, 0x0, 0x0, 0x0, 0x0, 0xFEFFFFF0⟩,
  ⟨0x400E0144, [(8, 0x10)], 0x0, 0x0, 0xFC00, 0x0, 0x0, 0xFFF00000, 0x0, 0x0⟩,
  ⟨0x400E0148, [(8, 0x10)], 0x0, 0x0, 0x0, 0x0, 0x0, 0xFFFF, 0x0, 0x0⟩]

/-- Register rows of the SAF block. -/
def safRows : List RegRow := [
  ⟨0x400F0000, [], 0x0, 0x0, 0x0, 0x0, 0x0, 0xFF000000, 0x0, 0x0⟩,
  ⟨0x400F0004, [], 0x0, 0x0, 0x0, 0x0, 0x0, 0xFFFFFFFF, 0x0, 0x0⟩,
  ⟨0x400F0008, [], 0x0, 0x0, 0x0, 0x0, 0x0, 0xFFFFFFFF, 0x0, 0x0⟩,
  ⟨0x400F000C, [], 0x0, 0x0, 0x0, 0x0, 0x0, 0xFFFFFFFF, 0x0, 0x0⟩,
  ⟨0x400F0010, [], 0x0, 0x0, 0x0, 0x0, 0x0, 0xFFF8FFFF, 0x0, 0x0⟩,
  ⟨0x400F0014, [], 0x0, 0x0, 0x0, 0x0, 0x0, 0xFFFF, 0x0, 0x0⟩,
  ⟨0x400F0018, [], 0x0, 0x0, 0x0, 0x0, 0x0, 0xFFFFFFFF, 0x0, 0x0⟩,
  ⟨0x400F001C, [], 0x0, 0x0, 0x0, 0x0, 0x0, 0xFFFFFFFF, 0x0, 0x0⟩,
  ⟨0x400F0040, [(8, 0x4)], 0x0, 0x0, 0x0, 0x0, 0x0, 0xFFF0FFFF, 0x0, 0x0⟩,
  ⟨0x400F0080, [(8, 0x4)], 0x0, 0x0, 0x0, 0x0, 0x0, 0xFFFFFFFF, 0x0, 0x0⟩,
  ⟨0x400F00C0, [(12, 0x4)], 0x0, 0x0, 0x0, 0x0, 0x0, 0xFFFFFFFF, 0x0, 0x0⟩,
  ⟨0x400F0100, [(8, 0x4)], 0x0, 0x0, 0x0, 0x0, 0x0, 0xFF00FFFF, 0x0, 0x0⟩,
  ⟨0x400F0400, [(256, 0x4)], 0x0, 0x0, 0x0, 0x0, 0x0, 0xFFFFFFFF, 0x0, 0x0⟩]

/-- Register rows of the LAW block, part 0. -/
def lawRows0 : List RegRow := [
  ⟨0x40100000, [(256, 0x400)], 0x0, 0xFF7FFFC0, 0x0, 0x0, 0x0, 0x0, 0x0, 0xFF7FFFC0⟩,
  ⟨0x40100004, [(256, 0x400)], 0x0, 0x0, 0x0, 0x0, 0x0, 0xFFFFFFF8, 0x0, 0xFFFFFFF8⟩,
  ⟨0x40100008, [(256, 0x400)], 0x0, 0x80001F0F, 0x0, 0x0, 0x0, 0x0, 0x0, 0x80001F0F⟩,
  ⟨0x4010000C, [(256, 0x400)], 0x0, 0xFFFFFFFF, 0x0, 0x0, 0x0, 0x0, 0x0, 0xFFFFFFFF⟩,
  ⟨0x40100010, [(256, 0x400)], 0x0, 0xC03FFFFF, 0x0, 0x0, 0x0, 0x0, 0x0, 0xC03FFFFF⟩,
  ⟨0x40100014, [(256, 0x400)], 0x0, 0xFFFFFFFF, 0x0, 0x0, 0x0, 0x0, 0x0, 0xFFFFFFFF⟩,
  ⟨0x40100018, [(256, 0x400)], 0x0, 0xFFFFFFFF, 0x0, 0x0, 0x0, 0x0, 0x0, 0xFFFFFFFF⟩,
  ⟨0x4010001C, [(256, 0x400)], 0x49E70000, 0xFFFFFFFF, 0x0, 0x0, 0x0, 0x0, 0x0, 0xFFFFFFFF⟩,
  ⟨0x40100040, [(256, 0x400)], 0x0, 0xFFFFFFFF, 0x0, 0x0, 0x0, 0x0, 0x0, 0x0⟩,
  ⟨0x40100044, [(256, 0x400)], 0x0, 0xFFFFFFFF, 0x0, 0x0, 0x0, 0x0, 0x0, 0x0⟩,
  ⟨0x40100048, [(256, 0x400)], 0x0, 0xFFFFFFFF, 0x0, 0x0, 0x0, 0x0, 0x0, 0x0⟩,
  ⟨0x4010004C, [(256, 0x400)], 0x0, 0xFFFFFFFF, 0x0, 0x0, 0x0, 0x0, 0x0, 0x0⟩,
  ⟨0x40100050, [(256, 0x400)], 0x0, 0x1, 0x0, 0x0, 0x0, 0x0, 0x0, 0x0⟩,
  ⟨0x40100060, [(256, 0x400)], 0x0, 0x0, 0xFFE00000, 0x0, 0x0, 0x0, 0x0, 0x0⟩,
  ⟨0x40100064, [(256, 0x400)], 0x0, 0x0, 0x0, 0x0, 0x0, 0xFFFFFFFF, 0x0, 0x0⟩,
  ⟨0x40100068, [(256, 0x400)], 0x0, 0x0, 0x0, 0x0, 0x0, 0xFFFFFFFF, 0x0, 0x0⟩,
  ⟨0x4010006C, [(256, 0x400)], 0x0, 0x0, 0x0, 0x0, 0x0, 0xFFFFFFFF, 0x0, 0x0⟩,
  ⟨0x40100070, [(256, 0x400)], 0x0, 0x0, 0x0, 0x0, 0x0, 0xFFFFFFFF, 0x0, 0x0⟩,
  ⟨0x40100080, [(256, 0x400)], 0x0, 0x0, 0x0, 0x0, 0x0, 0xFFFFFFFF, 0x0, 0x0⟩,
  ⟨0x40100084, [(256, 0x400)], 0x0, 0x0, 0x0, 0x0, 0x0, 0xFFFFFFFF, 0x0, 0x0⟩,
  ⟨0x40100088, [(256, 0x400)], 0x0, 0x0, 0x0, 0x0, 0x0, 0xFFFFFFFF, 0x0, 0x0⟩,
  ⟨0x4010008C, [(256, 0x400)], 0x0, 0x0, 0x0, 0x0, 0x0, 0xFFFFFFFF, 0x0, 0x0⟩,
  ⟨0x40100090, [(256, 0x400)], 0x0, 0x0, 0x0, 0x0, 0x0, 0xFFFFFFFF, 0x0, 0x0⟩,
  ⟨0x40100094, [(256, 0x400)], 0x0, 0x0, 0x0, 0x0, 0x0, 0xFFFFFFFF, 0x0, 0x0⟩,
  ⟨0x40100098, [(256, 0x400)], 0x0, 0x0, 0x0, 0x0, 0x0, 0xFFFFFFFF, 0x0, 0x0⟩,
  ⟨0x4010009C, [(256, 0x400)], 0x0, 0x0, 0x0, 0x0, 0x0, 0xFFFFFFFF, 0x0, 0x0⟩,
  ⟨0x401000C0, [(256, 0x400)], 0x0, 0x3, 0x0, 0xE0000000, 0x0, 0x0, 0x0, 0x0⟩,
  ⟨0x401000C4, [(256, 0x400)], 0x0, 0xFFFFFFFF, 0x0, 0x0, 0x0, 0x0, 0x0, 0x0⟩,
  ⟨0x401000C8, [(256, 0x400)], 0x0, 0x0, 0x3E000000, 0x0, 0x0, 0xC000FFFF, 0x0, 0x0⟩,
  ⟨0x401000CC, [(256, 0x400)], 0x0, 0xFFFFFFFF, 0x0, 0x0, 0x0, 0x0, 0x0, 0x0⟩]

/-- Register rows of the LAW block, part 1. -/
def lawRows1 : List RegRow := [
  ⟨0x401000D0, [(256, 0x400)], 0x0, 0xFFFFFFFF, 0x0, 0x0, 0x0, 0x0, 0x0, 0x0⟩,
  ⟨0x401000D4, [(256, 0x400)], 0x0, 0xFFFFFFFF, 0x0, 0x0, 0x0, 0x0, 0x0, 0x0⟩,
  ⟨0x401001C0, [(256, 0x400)], 0x0, 0x3F, 0x0, 0x0, 0x0, 0x0, 0x0, 0x0⟩,
  ⟨0x401002C0, [(256, 0x400)], 0x0, 0x0, 0x0, 0x0, 0x0, 0x3F, 0x0, 0x3F⟩,
  ⟨0x40100100, [(256, 0x400), (51, 0x4)], 0x0, 0xFFFFFFFF, 0x0, 0x0, 0x0, 0x0, 0x0, 0x0⟩,
  ⟨0x40100200, [(256, 0x400), (51, 0x4)], 0x0, 0x0, 0x0, 0x0, 0x0, 0xFFFFFFFF, 0x0, 0xFFFFFFFF⟩]

/-- Register rows of the LAW block. -/
def lawRows : List RegRow := lawRows0 ++ lawRows1

/-- Register rows of the PREG block. -/
def pregRows : List RegRow := [
  ⟨0x40200000, [(2048, 0x4)], 0x0, 0xFFFFFFFF, 0x0, 0x0, 0x0, 0x0, 0xFFFFFFFF, 0x0⟩,
  ⟨0x40204000, [(2048, 0x4)], 0x0, 0x0, 0x0, 0x0, 0x0, 0xC03FFFFF, 0x0, 0x0⟩,
  ⟨0x40208000, [], 0x0, 0x0, 0x0, 0x0, 0x0, 0xC00001FF, 0x0, 0x0⟩,
  ⟨0x40208004, [], 0x0, 0x0, 0xE0000000, 0x0, 0x0, 0x0, 0x0, 0x0⟩,
  ⟨0x40208008, [], 0x0, 0x0, 0x0, 0x0, 0x0, 0xFFFFFFFF, 0x0, 0x0⟩,
  ⟨0x4020800C, [], 0x0, 0x0, 0x0, 0x0, 0x0, 0xF8000000, 0x0, 0x0⟩,
  ⟨0x40208020, [(8, 0x4)], 0x0, 0x0, 0x0, 0x0, 0x0, 0xFFFFFFFF, 0x0, 0x0⟩,
  ⟨0x40208040, [(8, 0x4)], 0x0, 0x0, 0x0, 0x0, 0x0, 0xFFFFFFFF, 0x0, 0x0⟩]

/-- The rows of the block whose 64 KB region holds address a (the LAW block holds 256 KB). -/
def blockRows (a : Nat) : List RegRow :=
  match a / 65536 with
  | 0x4000 => sysRows
  | 0x4001 => tbRows
  | 0x4002 => trnRows
  | 0x4003 => pairRows
  | 0x4004 => sprRows
  | 0x4005 => galRows
  | 0x4006 => lrnRows
  | 0x4007 => fbkRows
  | 0x4008 => pwmRows
  | 0x4009 => tsuRows
  | 0x400A => mbxRows
  | 0x400B => hstRows
  | 0x400C => prtRows
  | 0x400D => capRows
  | 0x400E => fioRows
  | 0x400F => safRows
  | 0x4010 | 0x4011 | 0x4012 | 0x4013 => lawRows
  | 0x4020 => pregRows
  | _ => []

/-- The row of the register at address a, if a register is listed there (R5). -/
def regRow? (a : Nat) : Option RegRow := (blockRows a).find? (fun r => r.covers a)

/-- The rows of a block whose value after RESET is not 0. -/
def resetRows (a : Nat) : List RegRow :=
  match a / 65536 with
  | 0x4000 =>
    [⟨0x40000000, [], 0x25640001, 0, 0, 0, 0, 0, 0, 0⟩,
     ⟨0x40000004, [], 0x1, 0, 0, 0, 0, 0, 0, 0⟩]
  | 0x4001 =>
    [⟨0x40010000, [], 0x1, 0, 0, 0, 0, 0, 0, 0⟩]
  | 0x4002 =>
    [⟨0x40020020, [(12, 0x1000)], 0xFFFFFFFF, 0, 0, 0, 0, 0, 0, 0⟩,
     ⟨0x40020308, [(12, 0x1000), (32, 0x10)], 0x80000000, 0, 0, 0, 0, 0, 0, 0⟩]
  | 0x4003 =>
    [⟨0x40030100, [(12, 0x4)], 0xFFFFFFFF, 0, 0, 0, 0, 0, 0, 0⟩]
  | 0x4005 =>
    [⟨0x40050000, [], 0x1F, 0, 0, 0, 0, 0, 0, 0⟩,
     ⟨0x40050004, [], 0x10021F00, 0, 0, 0, 0, 0, 0, 0⟩,
     ⟨0x40050104, [(18, 0x20)], 0x7FFF, 0, 0, 0, 0, 0, 0, 0⟩]
  | 0x4007 =>
    [⟨0x40070400, [(256, 0x4)], 0x3FF03FF, 0, 0, 0, 0, 0, 0, 0⟩,
     ⟨0x4007401C, [(528, 0x40)], 0x80000000, 0, 0, 0, 0, 0, 0, 0⟩,
     ⟨0x40074020, [(528, 0x40)], 0x7FFFFFFF, 0, 0, 0, 0, 0, 0, 0⟩,
     ⟨0x4007D004, [(24, 0x10)], 0x40000000, 0, 0, 0, 0, 0, 0, 0⟩]
  | 0x4009 =>
    [⟨0x40090000, [], 0x7000700, 0, 0, 0, 0, 0, 0, 0⟩,
     ⟨0x40090028, [], 0xFFFFFFFF, 0, 0, 0, 0, 0, 0, 0⟩,
     ⟨0x40090400, [(32, 0x4)], 0xF, 0, 0, 0, 0, 0, 0, 0⟩]
  | 0x4010 | 0x4011 | 0x4012 | 0x4013 =>
    [⟨0x4010001C, [(256, 0x400)], 0x49E70000, 0, 0, 0, 0, 0, 0, 0⟩]
  | _ => []

/-- The value after RESET of the register at a key: keys from 2^32 on are the views of one MID each (R264). -/
def resetOf (a : Nat) : Word :=
  match (resetRows (a % 2 ^ 32)).find? (fun r => r.covers (a % 2 ^ 32)) with
  | some r => word r.reset
  | none => 0

end Sys2Proof.Machine
end

