-- ==== Sys2Proof/Machine/Types.lean ====
section
/-! DEFINITION. The state that no register shows, block by block: axis contexts, lanes and their jobs, position sources, segments
and nodes, scheduler jobs, cores and capture sessions. -/

namespace Sys2Proof.Machine

/-- An armed coefficient swap (R51): its target cycle, the captured INIT, and whether it was armed late. -/
structure Swap where
  target : Word
  init : Nat
  late : Bool
  deriving DecidableEq, Repr

/-- The tick-0 snapshot of an axis (R29, R49, R95) and the cycle it belongs to. -/
structure Snap where
  cyc : Word := 0
  pos : Word := 0
  vel : Word := 0
  cur : Word := 0
  ff : Word := 0
  sfrz : Bool := false
  gain : Word := 0
  filt : Word := 0
  win : Word := 0
  uhold : Bool := false
  ioff : Bool := false
  deriving DecidableEq, Repr

/-- What an axis holds beside its LAW and LRN registers. -/
structure AxisCtx where
  /-- the snapshot of the last tick 0, and the one before it, for jobs of a segment cycle that runs past the next tick 0 -/
  snap : Snap := {}
  prev : Snap := {}
  /-- a swap took place since the last tick 0: the next jobs use the new snapshot whatever their cycle (R52) -/
  swapped : Bool := false
  /-- the six state words of the axis context (R25, R34); LAW_X shows them as last released (R54) -/
  x : List Nat := [0, 0, 0, 0, 0, 0]
  /-- the last released command, as the eight bytes of an axis field (R48, R161), and whether one was ever released (R160) -/
  cmd : BitVec 64 := 0
  released : Bool := false
  /-- id, iq and c of the last released job (R305) -/
  id : Int := 0
  iq : Int := 0
  c : Int := 0
  /-- phase currents iu, iv, iw delivered by the trigger (R101) -/
  cur : List Int := [0, 0, 0]
  /-- armed swap, and whether it waits for a job in flight (R51, R52) -/
  swap : Option Swap := none
  deferred : Bool := false
  /-- RFLAGS gathered since the last cycle image (R305): released, late, missed, overflow, output 0 / 1 limited, vector limited -/
  fRel : Bool := false
  fLate : Bool := false
  fMiss : Bool := false
  fNum : Bool := false
  fU0 : Bool := false
  fU1 : Bool := false
  fVec : Bool := false
  /-- slack and lane of the last job (R324, signal 15) -/
  slack : Int := 0
  lane : Nat := 0
  /-- learner: kept sign (0: none) and jobs left in the reversal hold (R94) -/
  sign : Int := 0
  hold : Nat := 0
  /-- learner: a ZERO run is under way, as against requested only (R96) -/
  zeroRun : Bool := false
  /-- learner: master raw value, speed and staleness latched at tick 0 (R88), and as latched at the tick 0 before it -/
  mX : Int := 0
  mSpd : Int := 0
  mStale : Bool := false
  pX : Int := 0
  pSpd : Int := 0
  pStale : Bool := false
  deriving DecidableEq, Repr

/-- A law job of priority level 7 (R20, R263): axis, cycle of its trigger, release instant in ticks from tick 0 of that
cycle (R22), and whether it was already counted as waiting (R57). -/
structure LawJob where
  axis : Nat
  cyc : Word
  rel : Nat
  waited : Bool
  deriving DecidableEq, Repr

/-- A 40-bit accumulator with its sticky guard-overflow bit (R62). -/
structure Acc where
  val : Int := 0
  st : Bool := false
  deriving DecidableEq, Repr

/-- What a job carries for the learner: whether it takes part, the table's bin count, the read position as num / den (R89),
the speed of R87, the error before injection of the selected element (R91), the conditions of R92 met at dispatch as bits
numbered by code, and its snapshot of GAIN and FILT (R95). -/
structure LearnJob where
  on : Bool := false
  bins : Nat := 256
  num : Nat := 0
  den : Nat := 1
  spd : Int := 0
  err : Int := 0
  codes : Nat := 0
  gain : Word := 0
  filt : Word := 0
  deriving DecidableEq, Repr

/-- A job on a lane, from dispatch to its end (R25, R58). -/
structure LaneJob where
  axis : Nat
  cyc : Word
  rel : Nat
  /-- LAW_CFG, ROWSHIFT, ROWSELF, ULIM0 and ULIM1 loaded at dispatch (R58) -/
  cfg : Word
  rowShift : Word
  rowSelf : Word
  ulim0 : Word
  ulim1 : Word
  /-- M0 to M9 (R43) -/
  m : List Int
  /-- the six state halfwords loaded at dispatch (R58) -/
  x : List Nat
  /-- e0 to e3 (R38 to R41, R44) as M0 to M3 hold them, for LAW_ERR01 and LAW_ERR23 -/
  thIn : Nat
  thOut : Nat
  posSat : Bool
  velSat : Bool
  curSat : Bool
  injSat : Bool
  usat0 : Bool := false
  usat1 : Bool := false
  vecLim : Bool := false
  learn : LearnJob
  /-- ACC0 to ACC7 (R62), u, us and w (R68, R69), and the state words stored so far (R25) -/
  acc : List Acc
  u : List Int := [0, 0]
  us : List Int := [0, 0]
  w : List Int := [0, 0]
  xNew : List (Option Nat) := [none, none, none, none, none, none]
  /-- sequencer: next word, and the body start, length, iterations and current iteration of a REP (R71) -/
  pos : Nat := 0
  inRep : Bool := false
  repAt : Nat := 0
  repLen : Nat := 0
  repCnt : Nat := 0
  repIter : Nat := 0
  /-- the E step has run (R70) -/
  ended : Bool := false
  /-- SFRZ of the job's snapshot (R49) -/
  sfrz : Bool := false
  /-- the axis already holds for this job, which is late (R26) -/
  held : Bool := false
  /-- frame-out has written the release latch in time: the command field and the duties (R25, R46) -/
  latched : Bool := false
  cmd : BitVec 64 := 0
  duty : List Nat := [0, 0, 0]
  deriving DecidableEq, Repr

/-- A Gallery lane: its stored STATE (codes 5 to 7 act as failed), CAUSE and CYC_LO (R56, persistent), its job, and its least slack of the trend period (R407). -/
structure Lane where
  state : Nat := 0
  cause : Nat := 0
  cycLo : Nat := 0
  job : Option LaneJob := none
  trend : Int := 32767
  /-- the least slack when the lane was marked (R406) -/
  markTrend : Int := 32767
  deriving DecidableEq, Repr

/-- A position source beside its SRC registers (R100, R111 to R118). Times are absolute ticks. -/
structure Source where
  /-- last W-bit value taken (R111) -/
  vPrev : Nat := 0
  /-- origin and limits in force, and the pairs waiting for the next sample (R113) -/
  org : Nat := 0
  orgNew : Option Nat := none
  limLo : Int := -2147483648
  limHi : Int := 2147483647
  limNew : Option (Int × Int) := none
  /-- direction known since the start, and changed since the last index event; last index raw (R114, R115) -/
  dirKnown : Bool := false
  dirSince : Bool := false
  idxRaw : Option Int := none
  /-- estimator: start or last edge, whether any edge was seen, its sign, reference edge, standstill mark, edges of the present
  interval (time, signed count), last sample (R116, R117) -/
  tLast : Int := 0
  hasEdge : Bool := false
  edgeSign : Int := 0
  tRef : Int := 0
  /-- counts of the edges after the reference edge (R117) -/
  acc : Int := 0
  tMark : Int := 0
  edges : List (Int × Int) := []
  tSample : Int := 0
  /-- length of the last sample interval (R120) -/
  interval : Int := 0
  /-- delivered a value since the last tick 0 (R88) -/
  fresh : Bool := false
  /-- SRC_IDXCFG and SRC_SST as the last sample took them (R125) -/
  idxCfg : Word := 0
  sst : Word := 0
  /-- its binding was written in MAINTENANCE (R102) -/
  rebind : Bool := false
  deriving DecidableEq, Repr

/-- A local feedback channel: filtered and unfiltered levels, the read in flight (its start tick), the last good read (value,
start tick, alarm-free) and whether the read for the coming sample completed well, the tick before which no further read starts, and the
tick of its last sample (R102 to R109). -/
structure Channel where
  /-- counts of an incremental channel (R103, R104) -/
  cnt : Int := 0
  a : Bool := false
  b : Bool := false
  z : Bool := false
  ua : Bool := false
  ub : Bool := false
  uz : Bool := false
  reading : Option Int := none
  good : Option (Nat × Int) := none
  ready : Bool := false
  readFrom : Int := 0
  smpAt : Option Nat := none
  deriving DecidableEq, Repr

/-- A pass-through output: its pins, output count, base and target of R120, the ratio in force and whether one written since waits for the
next sample; the tick of the last sample of its source with the interval before it and the counts that were to be emitted then, the edges
emitted since, and the tick from which the next edge keeps MINEDGE. -/
structure PassOut where
  a : Bool := false
  b : Bool := false
  z : Bool := false
  out : Int := 0
  rawBase : Int := 0
  oBase : Int := 0
  target : Int := 0
  mul : Nat := 0
  mulNew : Bool := false
  smpT : Int := 0
  smpI : Int := 0
  smpN : Nat := 0
  done : Nat := 0
  free : Int := 0
  deriving DecidableEq, Repr

/-- One accepted copy of a frame: arrival in fine ticks from tick 0 of its segment cycle's device cycle, and its header and
payload bytes. -/
structure Copy where
  arr : Int
  bytes : List Byte
  deriving DecidableEq, Repr

/-- What channels A and B delivered for one slot in a segment cycle (R153, R154), and whether the slot's window was judged. -/
structure SlotRx where
  cyc : Word := 0
  a : Option Copy := none
  b : Option Copy := none
  closed : Bool := false
  deriving DecidableEq, Repr

/-- A node of a segment beside its TRN_NODEk registers (R173 to R183, R233, R237). -/
structure NodeCtx where
  /-- first R_A (R176) -/
  rA : Int := 0
  /-- skew held by the head, if any (R175) -/
  skew : Option Int := none
  /-- last residuals, newest first, at most 16 (R183) -/
  resid : List Int := []
  /-- an offset correction is due, and the S it carries once sent (R183) -/
  corrDue : Bool := false
  corrS : Option Int := none
  /-- cycles in SET without a frame, and the tick of the confirming reply (R182) -/
  setMiss : Nat := 0
  setTick : Nat := 0
  /-- the segment cycle in which the node went OUT (R182) -/
  outCyc : Option Word := none
  /-- NSTAT, NERR and SACK of the last accepted frame (R159) -/
  nstat : Nat := 0
  nerr : Nat := 0
  sack : Nat := 0
  /-- the segment cycle of the slot's last release (R30) -/
  relCyc : Option Word := none
  /-- the segment cycle a container was written for (R30), and the container of the running cycle (R162) -/
  contCyc : Option Word := none
  cont : List Byte := []
  /-- the safety counters sent, newest first, with the tick of sending (R237) -/
  sentCnt : List (Nat × Nat) := []
  deriving DecidableEq, Repr

/-- A downstream link message waiting for its reply (R174 to R176, R183, R190): the node, the S it carried, its tag. -/
inductive LinkReq where
  | first (k : Nat) (tag : Nat)
  | second (k : Nat) (soff : Int) (tag : Nat)
  | correct (k : Nat) (soff : Option Int) (tag : Nat)
  | claim
  deriving DecidableEq, Repr

/-- A segment beside its TRN registers. -/
structure SegCtx where
  /-- the segment cycle begun by the last sync, if one was sent since the coldstart (R166), and the one before it, whose windows may still
  be open (R169) -/
  cyc : Option Word := none
  prev : Option Word := none
  /-- frames received per slot, each with its segment cycle (R153): slots 0 to 31, 0x200 the upstream service message, 0x201 a reply, 0x300
  a claim -/
  rx : Table SlotRx := []
  /-- outstanding link request (R178), and the nodes whose second request is due, first to be sent first -/
  req : Option LinkReq := none
  second : List Nat := []
  /-- TRN_SCFG.CLAIM and TRK as the last link cycle took them (R192) -/
  claimOn : Bool := false
  trk : Nat := 0
  /-- the node slot at which the round robin of R178 goes on -/
  rr : Nat := 0
  /-- pending grants, newest first: the granted slot, the segment cycle of the claim request, and NID[31:0] of the claimant (R190) -/
  grants : List (Nat × Word × Nat) := []
  /-- the firmware message that waits: ADDR, payload, and the tick of its GO (R180) -/
  msg : Option (Nat × List Byte × Nat) := none
  /-- the last frame sent: header, payload and CRC bytes (R147) -/
  tx : List Byte := []
  deriving DecidableEq, Repr

/-- A submitted job's progress (R266 to R270). -/
inductive JobState where
  | queued (eligible : Bool)
  | held (core : Nat)
  | done (core : Nat) (res : Word)
  deriving DecidableEq, Repr

/-- A scheduler job of levels 0 to 6, in submission order (R264 to R270). -/
structure TsuJob where
  handle : Nat
  level : Nat
  flow : Option Nat
  seq : Nat
  notify : Bool
  arg : Word
  entry : Word
  res : Word
  mid : Nat
  /-- tick of its submission, and the first at which it may become eligible (R266, R269) -/
  at' : Nat
  due : Nat
  st : JobState
  deriving DecidableEq, Repr

/-- What a core waits for (R267, R319). -/
inductive CoreWait where
  | none
  | take
  | mbx
  deriving DecidableEq, Repr

/-- The exceptions the spec names for a core (R277, R278, R280, R284). -/
inductive CoreExc where
  | illegal
  | misaligned
  | accessFault
  deriving DecidableEq, Repr

/-- An application core beside its TSU registers (R271 to R280). -/
structure Core where
  /-- stored STATE (R271, kept through RESET) and the cause of a mark (R401) -/
  state : Nat := 0
  cause : Nat := 0
  wait : CoreWait := .none
  /-- tick in which the core began to wait, and the tick in which an interrupt ended its wait in TSU_TAKE (R267) -/
  waitAt : Nat := 0
  woke : Option Nat := none
  /-- tick in which it was given its job (R268) -/
  tookAt : Nat := 0
  /-- result of the last blocking read, and whether one was returned -/
  readRes : Word := 0
  /-- pending edge of the safety source, and doorbell wake (R273, R275) -/
  safIrq : Bool := false
  /-- RV32 integer registers x1 to x31 and the program counter -/
  x : Table Word := []
  pc : Word := 0
  /-- where the core starts: the entry point of its section of the image (R275, R402) -/
  entry : Word := 0
  /-- Mx state (R276) -/
  a0 : Acc := {}
  a1 : Acc := {}
  lc : Word := 0
  ls : Word := 0
  le : Word := 0
  /-- accumulators before their latest writes: a reader placed first or second after a writer may see these (R279):
  the value before each write and how many instructions ago the write was -/
  h0 : List (Acc × Nat) := []
  h1 : List (Acc × Nat) := []
  /-- the last exception taken, and the pc of the last one that an Mx instruction took -/
  exc : Option CoreExc := none
  epc : Word := 0
  /-- 64 KB local memory (R272) -/
  lmem : Table Byte := []
  deriving DecidableEq, Repr

/-- An event waiting for an event record, the sessions it waits for, and its tick (R328). -/
structure CapEvt where
  dest : List Nat
  tick : Nat
  kind : Nat
  obj : Nat
  detail : Nat
  cyc : Word
  ft : Nat
  sec : Nat
  ns : Nat
  frac : Nat
  deriving DecidableEq, Repr

/-- A capture session beside its CAP registers (R331 to R336). -/
structure Session where
  /-- records written since it became ARMED, records still to write in the post-trigger part, and the tick of an accepted
  trigger whose record is still to come (R333) -/
  recs : Nat := 0
  post : Nat := 0
  trig : Option Nat := none
  /-- previous record's value of the trigger signal (R332) -/
  prev : Option Int := none
  /-- a lost event precedes the next record (R328) -/
  lost : Bool := false
  /-- input frames since the last periodic record (R327) -/
  frames : Nat := 0
  /-- tick, offset in the buffer and number of the first record sampled in the tick of the last one (R333) -/
  last : Option (Nat × Nat × Nat) := none
  /-- full halves, oldest first (R336) -/
  order : List Nat := []
  /-- offset in the buffer of the ring in use, and its size -/
  base : Nat := 0
  size : Nat := 0
  /-- a self-rearm is on its way (R336), and the tick of the last record of the finished run -/
  again : Bool := false
  doneTick : Option Nat := none
  deriving DecidableEq, Repr

/-- One transmit timestamp entry (R209): ID, seconds [31:0], nanoseconds, fraction. -/
structure TxStamp where
  id : Nat
  sec : Nat
  ns : Nat
  frac : Nat
  deriving DecidableEq, Repr

/-- The time base and network time (R193 to R206, R434). -/
structure TimeBase where
  /-- the PLL has locked since the last RESET, the reference is lost, the time base is halted for debug (R193, R194, R141) -/
  locked : Bool := false
  lost : Bool := false
  halted : Bool := false
  /-- TB_TICK, the tick within the cycle, the cycle counter and the length of the running cycle -/
  tick : Nat := 0
  ctick : Nat := 0
  cyc : Word := 0
  len : Nat := 12500
  /-- network time: seconds, nanoseconds and the 32-bit fraction (R196) -/
  sec : Nat := 0
  ns : Nat := 0
  frac : Nat := 0
  /-- network time at tick 0 of this cycle, with the 16-bit fraction (R207), TVALID then, and whether that tick 0 carried a step (R202) -/
  t0Sec : Nat := 0
  t0Ns : Nat := 0
  t0Frac : Nat := 0
  t0Valid : Bool := false
  stepped : Bool := false
  /-- pending RATE (R198), absolute set, sum of offset steps in 2^-16 ns, and whether any offset step is pending (R201) -/
  ratePend : Option Int := none
  stepAbs : Option (Nat × Nat × Nat) := none
  ofs : Int := 0
  ofsPend : Bool := false
  /-- measurements waiting for the servo (R204), and its good count -/
  meas : List Int := []
  good : Nat := 0
  /-- tick at which the last measurement arrived, or at which SRC was last changed (R205) -/
  measAt : Nat := 0
  /-- tick of the last accepted PPS edge since EN was set (R206) -/
  lastPps : Option Nat := none
  /-- transmit stamp queues of the two ports, oldest first (R209) -/
  txq0 : List TxStamp := []
  txq1 : List TxStamp := []
  deriving DecidableEq, Repr

/-- A protection window in force (R285, R287). -/
structure Window where
  base : Nat := 0
  size : Nat := 0
  valid : Bool := false
  rmask : Word := 0
  wmask : Word := 0
  deriving DecidableEq, Repr

/-- A Zhevu host as its datagram shows it: address, UDP port, MAC address (R294). -/
structure ZPeer where
  ip : Nat
  port : Nat
  mac : List Byte
  deriving DecidableEq, Repr

/-- A datagram that leaves for a Zhevu host: own address and port, where it goes, UDP payload (R294). -/
structure Datagram where
  ip : Nat
  port : Nat
  dst : ZPeer
  data : List Byte
  deriving DecidableEq, Repr

/-- The completion of a PCI Express host's read: its data, or status Completer Abort or Unsupported Request (R284, R430). -/
inductive Completion where
  | data (bytes : List Byte)
  | abort
  | unsupported
  deriving DecidableEq, Repr

/-- What a landing holds (R298 to R312). -/
structure Land where
  /-- buffers: newest complete with its cycle, being written, pinned -/
  newest : Option (Nat × Word) := none
  wbuf : Nat := 0
  pinned : Option Nat := none
  /-- FAILOVER is shown (R308) -/
  failover : Bool := false
  /-- pending commit: target cycle and lateness; applied at tick 0 of the running cycle; target of the last applied (R304, R310) -/
  commit : Option (Word × Bool) := none
  applied : Bool := false
  cmtCyc : Word := 0
  /-- last executed Zhevu request: SEQ, length, response (R298); NOTIFY counter and where the last request came from (R294, R301) -/
  kept : Option (Nat × Nat × List Byte) := none
  notifySeq : Nat := 0
  peer : Option ZPeer := none
  /-- the last completion of a read by a PCI Express host (R284, R430) -/
  cpl : Option Completion := none
  deriving DecidableEq, Repr

/-- A phase of a PWM group (R133 to R139). Times are absolute fine ticks. -/
structure Phase where
  /-- the switch that is on: 0 none, 1 low side, 2 high side; since when; the switch waiting for its dead time and its instant -/
  sw : Nat := 0
  since : Nat := 0
  next : Nat := 0
  due : Nat := 0
  /-- the commanded signal, and whether the rising and the falling edge of this period are still to come -/
  cmd : Bool := false
  rise : Bool := false
  fall : Bool := false
  /-- the phase was cut or has not started: its next switch turns none off (R136) -/
  fresh : Bool := true
  /-- sense input, and the open window: rising, opening, incoming turn-on, close, transition seen (R136) -/
  sense : Bool := false
  win : Option (Bool × Nat × Nat × Nat × Bool) := none
  deriving DecidableEq, Repr

/-- A PWM group beside its registers (R126 to R142). -/
structure PwmGrp where
  /-- a start or a stop that waits for its valley, the ticks at which they were written, and whether the stop comes from a trip (R130, R140) -/
  startPend : Bool := false
  stopPend : Bool := false
  startAt : Nat := 0
  stopAt : Nat := 0
  trStop : Bool := false
  /-- tick of the last update point since the start (R129) -/
  upd : Option Nat := none
  /-- index of the last valley, its absolute fine tick, the half after it (down), and whether this period's cut is counted -/
  j : Nat := 0
  valley : Nat := 0
  down : Bool := false
  cutDone : Bool := false
  /-- no shadow was ever given: outputs off until the next update point (R131) -/
  blank : Bool := false
  /-- the axes of the stopped group that are due in this cycle already hold (R130) -/
  held : Bool := false
  /-- AWAIT_LOADALL, DT, DTADJ and MINPW in force (R132, R142) -/
  await : Bool := false
  dt : Word := 0
  adj : Word := 0
  minpw : Nat := 0
  ph : List Phase := [{}, {}, {}]
  deriving DecidableEq, Repr

/-- A record of the spare event ring (R406): kind, cause, NOSPARE, FORCED, object, spare used, trend value. -/
structure SprRec where
  kind : Nat
  cause : Nat
  noSpare : Bool
  forced : Bool
  obj : Nat
  spare : Nat
  trend : Nat
  deriving DecidableEq, Repr

/-- What outlasts RESET and power loss: persistent words, their PREG_WEAR words, spare words left, fuses, the Hall map, the
flash, and the capture DRAM repair list with its spare rows left (R369, R375 to R379, R404, R405, R360). -/
structure PvBlock where
  words : Table Word := []
  wear : Table Word := []
  spares : Nat := 256
  fuse : Word := 0
  kh0 : Nat := 0
  kh1 : Nat := 0
  hmap : Table Word := []
  flash : Table Byte := []
  /-- repair list of the capture DRAM: row, cause, count (R405) -/
  dramPend : List (Nat × Nat × Nat) := []
  dramSpares : Nat := 64
  deriving DecidableEq, Repr

/-- A marked Hall row: its number, cause, correction count and the tick of its marking (R403, R404). -/
structure MarkedRow where
  row : Nat
  cause : Nat
  count : Nat
  tick : Nat
  deriving DecidableEq, Repr

/-- A marked core that waits to be replaced (R402): its number and cause, FORCE, and what became of the spare's load. -/
structure CoreSwap where
  core : Nat
  cause : Nat
  forced : Bool
  loaded : Bool
  trend : Nat
  deriving DecidableEq, Repr

/-- The SPR engine (R400 to R408): records that wait to be written, row counts of the Hall and the capture DRAM, corrections of
the trend period (cores, Hall, DRAM) and the highest row counts in it, marked Hall rows in order (row, cause, count), the row
being copied with its spare and whether it is copied and mapped, the core that waits, refused state writes to repeat (word),
and spare rows and cores found exhausted. -/
structure SprBlock where
  recs : List SprRec := []
  rowCnt : Table Nat := []
  drowCnt : Table Nat := []
  coreCor : Table Nat := []
  hallCor : Nat := 0
  dramCor : Nat := 0
  hallMax : Nat := 0
  dramMax : Nat := 0
  marked : List MarkedRow := []
  /-- tick of the last record and the records of that tick, and the number of the trend period (R406, R407) -/
  recTick : Option Nat := none
  recRun : Nat := 0
  period : Nat := 0
  copied : Bool := false
  mapped : Bool := false
  swap : Option CoreSwap := none
  retry : List Nat := []
  deriving DecidableEq, Repr

/-- The mode logic (R339 to R358): the reset sources that are active (bits of SYS_RST_CAUSE), the extension running, the mode
that a tick 0 will bring, a SAFE STOP reaction held pending (R352), the watchdog expired,
the NV-write guard, the ticks at which INTEGRATE and RUN began, the attempt clear to repeat and
the slots verified in this start (R373). -/
structure SysBlock where
  active : Word := 0
  pend : Option Nat := none
  stopPend : Bool := false
  wdog : Bool := false
  intTick : Nat := 0
  runTick : Nat := 0
  attRetry : Bool := false
  verA : Bool := false
  verB : Bool := false
  guard : Bool := false
  /-- the Root core's firmware memory (R366) -/
  fw : List Byte := []
  /-- the fuses as flight 0 read them (R369) -/
  fuse : Word := 0
  kh0 : Nat := 0
  kh1 : Nat := 0
  deriving DecidableEq, Repr

/-- One contact of a safety input, or DI15, in one channel (R219, R220): last sample taken, the level its recent samples agree on and
how many there were, the filtered state (none: not yet settled since RESET, which counts as open), the first check sample,
missed pulses in a row, and its pulse fault. -/
structure Contact where
  last : Bool := false
  cand : Bool := false
  cnt : Nat := 0
  filt : Option Bool := none
  chk : Bool := false
  miss : Nat := 0
  pflt : Bool := false
  deriving DecidableEq, Repr

/-- A safety input in one channel (R221 to R223, R416): its contacts, the latched discrepancy fault, both contacts seen open since the latch
or in the start-up test, whether the present opening of each came with VFLD above 18 V, the test passed, whether the contacts differ, and
for how many samples after the first that differed they had differed when the last sample was taken. -/
structure SafInput where
  a : Contact := {}
  b : Contact := {}
  disc : Bool := false
  discOpen : Bool := false
  opened : Bool := false
  okA : Bool := false
  okB : Bool := false
  tested : Bool := false
  diff : Bool := false
  diffFor : Option Nat := none
  deriving DecidableEq, Repr

/-- A safety group in one channel (R225, R226, R229, R231): state code, READY since before the present restart pulse, tick of
entry into SS1, SLS request, its ramp and the tick it began, stopped by SLS fallback. -/
structure SafGrp where
  state : Nat := 0
  pulse : Bool := false
  ss1Tick : Nat := 0
  req : Bool := false
  ramp : Bool := false
  rampTick : Nat := 0
  fallback : Bool := false
  deriving DecidableEq, Repr

/-- A safety channel (R212, R216): its two power-up reads of the switches, the value in force and whether they agreed, unusable
switches, lost, inputs, groups, samples left of each side's test-pulse hold, DI15, the DEGRADED timer (running, since when,
ended). -/
structure SafChan where
  reads : List Nat := []
  sw : Nat := 0
  run : Bool := false
  bad : Bool := false
  lost : Bool := false
  inputs : List SafInput := List.replicate 8 {}
  grps : List SafGrp := List.replicate 8 {}
  holdA : Nat := 0
  holdB : Nat := 0
  di : Contact := {}
  degr : Bool := false
  degTick : Nat := 0
  degOver : Bool := false
  deriving DecidableEq, Repr

/-- The safety unit (R212 to R244): Garnet and Basalt, the device's safety state (0 normal, 1 DEGRADED, 2 SAFE STOP), whether the switches
agreed and are unchanged, whether the safety section is loaded with it and CODE agrees, the commands of STOBg and STOGg, outputs
whose readback has disagreed with the level it then showed, STOBg switched off by overload, cross-demands, test-pulse outputs that miss their pulse, pulse checks
suspended, the Root heartbeat lost, SLSOK per group, the raw accumulators at the end of the last window, and Garnet's groups
(state, SLS request) at tick 0 of the running cycle. -/
structure SafBlock where
  g : SafChan := {}
  b : SafChan := {}
  state : Nat := 0
  swok : Bool := false
  loaded : Bool := false
  codeOk : Bool := false
  image : List Byte := []
  stob : Nat := 0
  stog : Nat := 0
  rbErrB : Nat := 0
  rbErrG : Nat := 0
  rbLvlB : Nat := 0
  rbLvlG : Nat := 0
  ovl : Nat := 0
  xdem : Nat := 0
  tpBad : Nat := 0
  psusp : Bool := false
  rootLost : Bool := false
  slsok : Nat := 0
  viol : Nat := 0
  frozen : Nat := 0
  prevRaw : Table Int := []
  snap : List (Nat × Bool) := List.replicate 8 (0, false)
  deriving DecidableEq, Repr

/-- The field die's side of FIO (R245 to R260): filter counters, raw and filtered inputs, edges not yet sent, the command and the
configuration of the last output frame, the outputs' state when the silence timeout acted, safe states in force, outputs held
off by a sag, readbacks with their classification (8 short, else the driving output), and VFLD (0 not seen above 18 V
since RESET or between the thresholds, 1 above 18 V, 2 below 16 V); the diagnostic flags of each output that no input frame has carried yet
(by bit of FIO_DO_CHn_STAT), the conditions of flags that hold now, and the output that drives each one. -/
structure FioBlock where
  cnt : List Nat := List.replicate 16 0
  raw : Nat := 0
  filt : Nat := 0
  rise : Nat := 0
  fall : Nat := 0
  cmd : Nat := 0
  cfg : List Word := []
  hold : Nat := 0
  safe : Bool := false
  off : Bool := false
  rb : Nat := 0
  cls : List (Option Nat) := List.replicate 8 none
  vfld : Nat := 0
  flags : List Nat := List.replicate 8 0
  cond : List Nat := List.replicate 8 0
  ext : List Nat := List.replicate 8 0
  deriving DecidableEq, Repr

/-- Axes, the law jobs of level 7 in their order, and the lanes (R20, R56). -/
structure LawBlock where
  axes : Table AxisCtx := []
  jobs : List LawJob := []
  lanes : Table Lane := []
  deriving DecidableEq, Repr

/-- Position sources, local channels and pass-through outputs (R100 to R121), and the tick at which DSM_CLK began to run (R122). -/
structure FbkBlock where
  sources : Table Source := []
  chans : Table Channel := []
  outs : Table PassOut := []
  clkAt : Option Nat := none
  deriving DecidableEq, Repr

/-- Segments and nodes (node k of segment n under key 32n + k), a YIELD (4) or CLASH (5) that takes effect at the next tick 0 (R187, R188),
a coldstart that begins at the next tick 0, after a takeover with the cycle counter running on (R185, R394), and the tick at which LISTEN
was entered. -/
structure TrnBlock where
  segs : Table SegCtx := []
  nodes : Table NodeCtx := []
  silence : Nat := 0
  cold : Option Bool := none
  listenAt : Nat := 0
  deriving DecidableEq, Repr

/-- The task scheduler and the cores: jobs in submission order, the next sequence number of each flow, how many waits began, the
routes in force (9 the Root core, R274). Core 9 is the Root core. -/
structure TsuBlock where
  jobs : List TsuJob := []
  flowSeq : Table Nat := []
  cores : Table Core := []
  routes : Table Nat := []
  deriving DecidableEq, Repr

/-- Where the active stood in its cycle, in fine ticks, at a fine tick of this unit's tick counter: the last beacon (R389). -/
structure PhaseRef where
  pos : Nat
  at' : Nat
  deriving DecidableEq, Repr

/-- A pair unit beside its PAIR registers (R381 to R398). Stamps are in 2^-16 ns. -/
structure PairBlock where
  /-- sequence numbers of the frames sent, by type; the last frame sent -/
  seqs : Table Nat := []
  tx : List Byte := []
  /-- MID 0 has yielded (R398); the end of the lease (R386) -/
  yield : Bool := false
  leaseEnd : Option Nat := none
  /-- lane-late events counted up to the last tick 0, and cycles in a row that held one (R387) -/
  lateSum : Nat := 0
  lateRun : Nat := 0
  /-- ticks of the last beacon and of the last sync of the partner -/
  beaconAt : Option Nat := none
  syncAt : Option Nat := none
  /-- ROLE of the last beacon received since LISTEN was entered (R384) -/
  heard : Option Nat := none
  /-- tick of the last beacon sent (R383) -/
  sentAt : Option Nat := none
  /-- stamps of the beacons sent by SEQ; receive stamp and SEQ of the last beacon received (R383, R389) -/
  sent : List (Nat × Int) := []
  rxStamp : Option (Nat × Int) := none
  /-- the active's place in its cycle by the last beacon, and cycles in a row within the limit (R389) -/
  ref : Option PhaseRef := none
  lockRun : Nat := 0
  /-- last span samples of each segment, newest first (R390) -/
  spans : Table (List Int) := []
  /-- checkpoint being sent and how many of its chunks are sent; checkpoint arriving and its last SEQ; checkpoint held (R391) -/
  out : List Byte := []
  outAt : Nat := 0
  inp : List Byte := []
  inSeq : Nat := 0
  held : List Byte := []
  /-- axes whose swapped bank is still to be sent, next learner chunk, chunks that arrived in this pass (R392) -/
  banks : List Nat := []
  lrnAt : Nat := 0
  got : List Nat := []
  /-- the checkpoint is being loaded (R394) -/
  loading : Bool := false
  deriving DecidableEq, Repr

/-- Hosts, landings, protection and mailboxes: windows in force, landings, whether a spare-in took effect at tick 0 of the
running cycle (R304), last frame sent per Ethernet port and last Zhevu datagram per
landing, last MSI-X vector per landing, staged DESCLO per channel (R316). -/
structure HstBlock where
  wins : Table Window := []
  lands : Table Land := []
  spareIn : Bool := false
  ethTx : Table (List Byte) := []
  zhevuTx : Table (Option Datagram) := []
  msi : Table (Option Nat) := []
  stg : Table Word := []
  /-- channels that hold an unread descriptor, in the order of posting (R316, R372) -/
  posted : List Nat := []
  /-- the host section: Vendor, Device, subsystem vendor and subsystem ID of both PCI Express endpoints (R289, R366) -/
  pciIds : List Byte := []
  deriving DecidableEq, Repr

/-- The capture engine: event queue, sessions, the capture DRAM bytes written since RESET, and a number that tells one RESET's undefined
contents from another's (R321 to R337, R432). -/
structure CapBlock where
  queue : List CapEvt := []
  sess : Table Session := []
  dram : Table Byte := []
  /-- input and output bits of the last input frame of the field die (R327) -/
  field : List Nat := [0, 0, 0]
  epoch : Nat := 0
  deriving DecidableEq, Repr

/-- The Hall: its bytes, and the 64-bit units that hold an uncorrectable error (R430). -/
structure HallBlock where
  bytes : Table Byte := []
  bad : List Nat := []
  deriving DecidableEq, Repr

end Sys2Proof.Machine
end

