-- ==== Sys2Proof/Machine/State.lean ====
section
/-! DEFINITION. The state of the block: the waiting commands, every register, and every piece of state that no register shows;
the reasons a step can stop; the state after RESET. -/

namespace Sys2Proof.Machine

/-- Why a step stops with a fault. No command of this block does: what goes wrong in the part (a refused access, a late job,
a safety fault, a failed flight) is an effect the spec describes, and the command has that effect. -/
inductive Fault where
  deriving DecidableEq, Repr

/-- Why a command has no meaning. -/
inductive Refusal where
  /-- raised by exec's arm of a command whose meaning is not written yet; safe: the model stops where the part goes on -/
  | notModelled (mnemonic : String)
  deriving DecidableEq, Repr

/-- The whole state. Registers live in regs, one home for every register, keyed by bus address (per-MID views by address +
2^32 × (MID + 1), R264); an unlisted register holds its value after RESET. -/
structure State where
  /-- the commands that wait, first in first out; the model's own -/
  pending : List Instr := []
  /-- how many free values were taken so far; the model's own: no rule names it -/
  free : Nat := 0
  regs : Table Word := []
  tb : TimeBase := {}
  law : LawBlock := {}
  fbk : FbkBlock := {}
  trn : TrnBlock := {}
  tsu : TsuBlock := {}
  hst : HstBlock := {}
  cap : CapBlock := {}
  hall : HallBlock := {}
  pwm : Table PwmGrp := []
  saf : SafBlock := {}
  fio : FioBlock := {}
  spr : SprBlock := {}
  pair : PairBlock := {}
  sys : SysBlock := {}
  pv : PvBlock := {}
  deriving DecidableEq, Repr

/-- The state at the entry into RESET from OFF (R8, R343): no command waits, every register holds its value after RESET, the persistent
store is as from the factory (R379), and SYS_RST_CAUSE shows PORn. -/
def State.reset : State := { regs := [(Reg.SYS_RST_CAUSE, 0x80000000)] }

end Sys2Proof.Machine
end

