-- ==== Sys2Proof/Machine/Ops.lean ====
section
/-! DEFINITION. The named operations over State: registers and their fields, the contexts of axes, lanes, sources, segments, nodes,
cores, landings and sessions, the modes, the bus protection, and the Hall. -/

namespace Sys2Proof.Machine

/-! ## Registers -/

/-- The register at address a. -/
def State.rd (s : State) (a : Nat) : Word := Table.get resetOf s.regs a

/-- The register at address a takes v. -/
def State.wr (s : State) (a : Nat) (v : Word) : State := { s with regs := Table.set resetOf s.regs a v }

/-- Field [hi:lo] of the register at address a. -/
def State.fld (s : State) (a hi lo : Nat) : Nat := wFld (s.rd a) hi lo

/-- Bit i of the register at address a. -/
def State.bit (s : State) (a i : Nat) : Bool := wBit (s.rd a) i

/-- Field [hi:lo] of the register at address a takes v. -/
def State.setFld (s : State) (a hi lo v : Nat) : State := s.wr a (wSetFld (s.rd a) hi lo v)

/-- Bit i of the register at address a takes b. -/
def State.setBit (s : State) (a i : Nat) (b : Bool) : State := s.wr a (wSetBit (s.rd a) i b)

/-- Set the bits of m in the register at address a. -/
def State.orBits (s : State) (a : Nat) (m : Word) : State := s.wr a (s.rd a ||| m)

/-- Clear the bits of m in the register at address a. -/
def State.clrBits (s : State) (a : Nat) (m : Word) : State := s.wr a (s.rd a &&& ~~~ m)

/-- A counter register advances by one, modulo 2^32. -/
def State.inc (s : State) (a : Nat) : State := s.wr a (s.rd a + 1)

/-- A counter in field [hi:lo] advances by one, modulo its width. -/
def State.incFld (s : State) (a hi lo : Nat) : State := s.setFld a hi lo (s.fld a hi lo + 1)

/-- The key of MID m's own view of a per-MID register (R264, R309). -/
def midKey (m a : Nat) : Nat := a + 2 ^ 32 * (m + 1)

/-- Apply f when b holds. -/
def State.when (s : State) (b : Bool) (f : State → State) : State := if b then f s else s

/-- Apply f for each number of a list, in order. -/
def State.each {α : Type} (s : State) (l : List α) (f : α → State → State) : State := l.foldl (fun s x => f x s) s

/-- The number of the next free value; the state counts it. -/
def State.takeFree (s : State) : State := { s with free := s.free + 1 }

/-- A choice the spec leaves open among the given alternatives; the first argument is what stands where there is none. -/
def State.pick {α : Type} (s : State) (d : α) (l : List α) : α := (l[Config.choice s.free % l.length]?).getD d

/-- The reserved bits of item k of a memory layout that the device writes: free, as those of a register are (R4). -/
def State.resv (s : State) (k : Nat) : Word := Config.reservedBits (2 ^ 33 + k) s.free

/-- TSU_LVLk.PEAK follows the number of queued jobs (R281). -/
def State.lvlPeak (s : State) (k n : Nat) : State :=
  if s.fld (Reg.TSU_LVL k) 26 16 < n then s.setFld (Reg.TSU_LVL k) 26 16 n else s

/-! ## Contexts -/

def State.axis (s : State) (a : Nat) : AxisCtx := Table.get (fun _ => {}) s.law.axes a
def State.setAxis (s : State) (a : Nat) (c : AxisCtx) : State :=
  { s with law := { s.law with axes := Table.set (fun _ => {}) s.law.axes a c } }

/-- A lane as it leaves the factory: 0 to 15 active, 16 and 17 spare (R56). -/
def laneInit (n : Nat) : Lane := if n < 16 then {} else { state := 1 }
def State.lane (s : State) (n : Nat) : Lane := Table.get laneInit s.law.lanes n
def State.setLane (s : State) (n : Nat) (l : Lane) : State :=
  { s with law := { s.law with lanes := Table.set laneInit s.law.lanes n l } }
def State.setLawJobs (s : State) (j : List LawJob) : State := { s with law := { s.law with jobs := j } }

def State.source (s : State) (n : Nat) : Source := Table.get (fun _ => {}) s.fbk.sources n
def State.setSource (s : State) (n : Nat) (c : Source) : State :=
  { s with fbk := { s.fbk with sources := Table.set (fun _ => {}) s.fbk.sources n c } }
def State.chan (s : State) (n : Nat) : Channel := Table.get (fun _ => {}) s.fbk.chans n
def State.setChan (s : State) (n : Nat) (c : Channel) : State :=
  { s with fbk := { s.fbk with chans := Table.set (fun _ => {}) s.fbk.chans n c } }
def State.pout (s : State) (n : Nat) : PassOut := Table.get (fun _ => {}) s.fbk.outs n
def State.setPout (s : State) (n : Nat) (c : PassOut) : State :=
  { s with fbk := { s.fbk with outs := Table.set (fun _ => {}) s.fbk.outs n c } }

def State.seg (s : State) (n : Nat) : SegCtx := Table.get (fun _ => {}) s.trn.segs n
def State.setSeg (s : State) (n : Nat) (c : SegCtx) : State :=
  { s with trn := { s.trn with segs := Table.set (fun _ => {}) s.trn.segs n c } }
def State.node (s : State) (n k : Nat) : NodeCtx := Table.get (fun _ => {}) s.trn.nodes (32 * n + k)
def State.setNode (s : State) (n k : Nat) (c : NodeCtx) : State :=
  { s with trn := { s.trn with nodes := Table.set (fun _ => {}) s.trn.nodes (32 * n + k) c } }

/-- A core as it leaves the factory: 0 to 7 active, 8 spare (R271). -/
def coreInit (n : Nat) : Core := if n = 8 then { state := 1 } else {}
def State.core (s : State) (n : Nat) : Core := Table.get coreInit s.tsu.cores n
def State.setCore (s : State) (n : Nat) (c : Core) : State :=
  { s with tsu := { s.tsu with cores := Table.set coreInit s.tsu.cores n c } }
def State.setTsuJobs (s : State) (j : List TsuJob) : State := { s with tsu := { s.tsu with jobs := j } }

def State.win (s : State) (k : Nat) : Window := Table.get (fun _ => {}) s.hst.wins k
def State.setWin (s : State) (k : Nat) (w : Window) : State :=
  { s with hst := { s.hst with wins := Table.set (fun _ => {}) s.hst.wins k w } }
def State.land (s : State) (h : Nat) : Land := Table.get (fun _ => {}) s.hst.lands h
def State.setLand (s : State) (h : Nat) (l : Land) : State :=
  { s with hst := { s.hst with lands := Table.set (fun _ => {}) s.hst.lands h l } }

def State.session (s : State) (n : Nat) : Session := Table.get (fun _ => {}) s.cap.sess n
def State.setSession (s : State) (n : Nat) (c : Session) : State :=
  { s with cap := { s.cap with sess := Table.set (fun _ => {}) s.cap.sess n c } }

/-! ## Modes (R339) -/

def mOFF : Nat := 0
def mRESET : Nat := 1
def mBOOT : Nat := 2
def mMINIMAL : Nat := 3
def mCONFIGURE : Nat := 4
def mLISTEN : Nat := 5
def mINTEGRATE : Nat := 6
def mRUN : Nat := 7
def mDEGRADED : Nat := 8
def mSAFESTOP : Nat := 9
def mSTANDBY : Nat := 10
def mMAINTENANCE : Nat := 11

/-- The current mode's code (R339). -/
def State.mode (s : State) : Nat := s.fld Reg.SYS_MODE 3 0

/-- Laws run in RUN, DEGRADED and SAFE STOP (R340). -/
def State.lawsRun (s : State) : Bool := s.mode == mRUN || s.mode == mDEGRADED || s.mode == mSAFESTOP

/-- Image registers are open in CONFIGURE and MAINTENANCE (R50, R74, R99, R125). -/
def State.imageOpen (s : State) : Bool := s.mode == mCONFIGURE || s.mode == mMAINTENANCE

/-! ## Bus protection (R282 to R287, R431) -/

/-- The regions of the address space: base and size (R282). -/
def regions : List (Nat × Nat) :=
  [(0x00000000, 0x10000), (0x20000000, 0x800000), (0x40000000, 0x100000), (0x40100000, 0x40000),
   (0x40200000, 0x10000), (0x80000000, 0x8000000)]

/-- Whether n bytes from address a lie inside one region (R5, R282). -/
def inRegion (a n : Nat) : Bool := regions.any (fun r => decide (r.1 ≤ a ∧ a + n ≤ r.1 + r.2))

/-- Whether a window in force covers n bytes from a and admits MID m for the direction (R285). -/
def Window.allows (w : Window) (m a n : Nat) (write : Bool) : Bool :=
  w.valid && decide (w.base ≤ a ∧ a + n ≤ w.base + 2 ^ w.size) && wBit (if write then w.wmask else w.rmask) m

/-- Whether the windows allow MID m the access: MID 0 and Garnet's reads are exempt, else any one of the 32 windows is enough (R285, R286). -/
def State.allowed (s : State) (m a n : Nat) (write : Bool) : Bool :=
  m == 0 || (m == 12 && !write) || (List.range 32).any (fun k => (s.win k).allows m a n write)

/-- Record a refusal: the first in PRT_DENY and PRT_DADDR, every one in PRT_DCNT (R284). KIND 1 windows, 2 outside every
region, 3 size or alignment. -/
def State.deny (s : State) (m a : Nat) (write : Bool) (kind : Nat) : State :=
  let s := s.inc Reg.PRT_DCNT
  if s.bit Reg.PRT_DENY 31 then s
  else (s.wr Reg.PRT_DENY (bitW 31 ||| mkBit 30 write ||| mkFld 20 16 m ||| mkFld 9 8 kind)).wr Reg.PRT_DADDR (word a)

/-- What a bus access meets before its target: nothing against it, or the kind of PRT_DENY (R284). A write into the boot ROM is answered as one
outside every region, whatever its size and alignment (R431; log entry 78). -/
def State.busCheck (s : State) (m a n : Nat) (write : Bool) : Option Nat :=
  if decide (a < 0x10000) && write then some 2
  else if a % n ≠ 0 then some 3
  else if !inRegion a n then some 2
  else if decide (0x40000000 ≤ a ∧ a < 0x80000000) && n != 4 then some 3
  else if decide (a < 0x10000) && n == 8 then some 3
  else if s.allowed m a n write then none
  else some 1

/-! ## Masters (R283, R289, R302) -/

/-- The landing whose host has MID m. -/
def hostOf (m : Nat) : Option Nat := if 16 ≤ m ∧ m ≤ 19 then some (m - 16) else none

/-- The landing's port: 0, 1 PCI Express, 2, 3 Ethernet; none where it is not enabled (R302). -/
def State.landPort (s : State) (h : Nat) : Option Nat :=
  if s.bit (Reg.HST_LAND_CFG h) 31 then some (s.fld (Reg.HST_LAND_CFG h) 29 28) else none

/-- The function number of landing h on its PCI Express endpoint: landings bound to one endpoint count from 0 in ascending order (R289). -/
def State.pcieFunction (s : State) (h : Nat) : Option Nat :=
  match s.landPort h with
  | some p => if p < 2 then some (countN h (fun k => s.landPort k == some p)) else none
  | none => none

/-- The device address of offset o in a BAR of a function: BAR0, BAR2/3 and BAR4/5 (R289). -/
def barAddr (bar o : Nat) : Option Nat :=
  match bar with
  | 0 => if o < 0x400000 then some (0x40000000 + o) else none
  | 2 => if o < 0x800000 then some (0x20000000 + o) else none
  | 4 => if o < 0x8000000 then some (0x80000000 + o) else none
  | _ => none

/-- An address that some BAR maps (R289). -/
def inBar (a : Nat) : Bool :=
  decide ((0x40000000 ≤ a ∧ a < 0x40400000) ∨ (0x20000000 ≤ a ∧ a < 0x20800000) ∨ (0x80000000 ≤ a ∧ a < 0x88000000))

/-- The aligned accesses of at most 64 bits into which a TLP of n bytes from address a is split: address and size of each. The first argument bounds
their number (R289). -/
def tlpParts : Nat → Nat → Nat → List (Nat × Nat)
  | 0, _, _ => []
  | f + 1, a, n =>
    if n = 0 then []
    else
      let k := if a % 8 = 0 ∧ 8 ≤ n then 8 else if a % 4 = 0 ∧ 4 ≤ n then 4 else if a % 2 = 0 ∧ 2 ≤ n then 2 else 1
      (a, k) :: tlpParts f (a + k) (n - k)

/-- Whether a master of MID m issues an access at address a: MIDs 14, 15 and 20 to 31 never do, Garnet only reads, and a host does through its
landing, over PCI Express on a link that is up and inside the BARs (R283, R289, R302). -/
def State.issues (s : State) (m a : Nat) (write : Bool) : Bool :=
  match hostOf m with
  | some h => match s.landPort h with
    | some p => decide (2 ≤ p) || (s.bit (Reg.HST_PCIE_STAT p) 31 && inBar a)
    | none => false
  | none => decide (m ≤ 11) || m == 13 || (m == 12 && !write)

/-- A read of MID m is completed, where that is a PCI Express host (R284, R430). -/
def State.complete (s : State) (m : Nat) (c : Completion) : State :=
  match hostOf m with
  | some h => if (s.pcieFunction h).isSome then s.setLand h { s.land h with cpl := some c } else s
  | none => s

/-! ## The Hall (R86, R430) -/

def hallBase : Nat := 0x20000000

/-- A byte of the Hall by offset. -/
def State.hallByte (s : State) (o : Nat) : Byte := Table.get (fun _ => 0) s.hall.bytes o

/-- k bytes of the Hall from an offset. -/
def State.hallBytes (s : State) (o : Nat) : Nat → List Byte
  | 0 => []
  | k + 1 => s.hallByte o :: s.hallBytes (o + 1) k

/-- Write bytes into the Hall from an offset. -/
def State.hallWrite (s : State) (o : Nat) (bs : List Byte) : State :=
  { s with hall := { s.hall with bytes := Table.setRange (fun _ => 0) s.hall.bytes o bs } }

/-- Whether the 64-bit unit of an offset holds an uncorrectable error (R430). -/
def State.hallBad (s : State) (o : Nat) : Bool := s.hall.bad.contains (o / 8)

/-- The little-endian 32-bit word at a Hall offset. -/
def State.hallWord (s : State) (o : Nat) : Word := word (leNat (s.hallBytes o 4))

/-- Write a 32-bit word at a Hall offset. -/
def State.hallPut (s : State) (o : Nat) (w : Word) : State := s.hallWrite o (leBytes 4 w.toNat)

/-! ## Time base views -/

/-- Cycle length in ticks of a CLEN code (R17, R157). -/
def clenTicks (c : Nat) : Nat :=
  match c with
  | 0 => 6250
  | 2 => 25000
  | 3 => 50000
  | 4 => 100000
  | _ => 12500

/-- Bits [15:0] of the cycle counter. -/
def State.cycLo (s : State) : Nat := s.tb.cyc.toNat % 65536

/-- The absolute tick of tick 0 of the present cycle. -/
def State.tick0 (s : State) : Nat := s.tb.tick - s.tb.ctick

/-- Whether the time base runs (R193, R194, R141). -/
def TimeBase.running (t : TimeBase) : Bool := t.locked && !t.lost && !t.halted

/-- (a - b) modulo 2^32 read as a signed value (R51). -/
def sdiff (a b : Word) : Int := s32 (a - b)

end Sys2Proof.Machine
end

