-- ==== Sys2Proof/Machine/Carrier.lean ====
section
/-! DEFINITION. The carriers of the PWM groups as the feedback pipeline sees them: their registers, the lattice of valleys and update points
(R127 to R130), and the conditions on a group that a law names (R129). -/

namespace Sys2Proof.Machine

def State.grp (s : State) (g : Nat) : PwmGrp := Table.get (fun _ => {}) s.pwm g
def State.setGrp (s : State) (g : Nat) (c : PwmGrp) : State := { s with pwm := Table.set (fun _ => {}) s.pwm g c }

/-- Half-period PER, valleys per cycle k, and N of a group (R127 to R129). -/
def State.pwmPer (s : State) (g : Nat) : Nat := s.fld (Reg.PWM_GRP_PER g) 15 0
def State.pwmK (s : State) (g : Nat) : Nat := s.fld (Reg.PWM_GRP_CFG g) 30 26 + 1
def State.pwmN (s : State) (g : Nat) : Nat := s.fld (Reg.PWM_GRP_CFG g) 25 22 + 1
def State.pwmLock (s : State) (g : Nat) : Bool := s.bit (Reg.PWM_GRP_CFG g) 31
def State.pwmRun (s : State) (g : Nat) : Bool := s.bit (Reg.PWM_GRP_STAT g) 31

/-- Ticks between two update points of a group (R129). -/
def State.updInterval (s : State) (g : Nat) : Nat := 2 * s.pwmPer g * s.pwmN g

/-- Index j of the valley that a locked group has at a tick counted from tick 0 of the running cycle; the tick may lie in a later cycle (R128). -/
def State.lattice (s : State) (g tick : Nat) : Option Nat :=
  let per2 := 2 * s.pwmPer g
  let t := tick % s.tb.len
  let ph := s.fld (Reg.PWM_GRP_PHASE g) 16 0
  if per2 ≠ 0 ∧ ph ≤ t ∧ (t - ph) % per2 = 0 ∧ (t - ph) / per2 < s.pwmK g
  then some ((s.tb.cyc + word (tick / s.tb.len)).toNat * s.pwmK g + (t - ph) / per2) else none

/-- Index j of a valley of group g at a tick of the running cycle. A locked group has its valleys on the lattice, each of them once; a free
group's first valley is the tick after its start was written, and the others follow every 2 × PER ticks (R128, R130). -/
def State.valleyIndex (s : State) (g tick : Nat) : Option Nat :=
  let c := s.grp g
  let t := s.tick0 + tick
  if s.pwmLock g then (if s.pwmRun g && decide (t * 32 ≤ c.valley) then none else s.lattice g tick)
  else if s.pwmRun g then (if t * 32 = c.valley + 64 * s.pwmPer g then some (c.j + 1) else none)
  else if c.startPend && decide (t = c.startAt + 1) then some 0
  else none

/-- An update point of group g falls in a coming tick, counted from tick 0 of the running cycle (R129, R130). -/
def State.updateComes (s : State) (g tick : Nat) : Bool :=
  let c := s.grp g
  if s.pwmLock g then
    (s.pwmRun g || c.startPend) && (match s.lattice g tick with
      | some j => j % s.pwmN g == 0
      | none => false)
  else
    match c.upd with
    | some u => s.pwmRun g && decide (u < s.tick0 + tick) && (s.tick0 + tick - u) % s.updInterval g == 0
    | none => false

/-- LAW_ROUTE of an axis (R20), and its rate divider (R18). -/
def State.lawRoute (s : State) (a : Nat) : Word := s.rd (Reg.LAW_ROUTE a)
def State.divider (s : State) (a : Nat) : Nat := 2 ^ wFld (s.lawRoute a) 31 30

/-- The enabled axes, those that group g triggers, and those whose destination it is (R20, R50). -/
def State.lawAxes (s : State) : List (Fin 256) := (List.finRange 256).filter (fun a => s.bit (Reg.LAW_CFG a) 31)
def State.grpTriggers (s : State) (g : Nat) : List (Fin 256) :=
  s.lawAxes.filter (fun a => wBit (s.lawRoute a) 26 && wFld (s.lawRoute a) 25 22 == g)
def State.grpDests (s : State) (g : Nat) : List (Fin 256) :=
  s.lawAxes.filter (fun a => wBit (s.lawRoute a) 14 && wFld (s.lawRoute a) 13 10 == g)

/-- N divides k, or N = k D with D 1, 2, 4 or 8 (R129). -/
def nFits (k n : Nat) : Bool :=
  k % n == 0 || (n % k == 0 && (n / k == 1 || n / k == 2 || n / k == 4 || n / k == 8))

/-- What R129 asks of a group for the laws that name it: locked, and for each axis it triggers N = k × D, P = 0 and an update interval above
80 ticks. -/
def State.grpLaws (s : State) (g : Nat) : Bool :=
  ((s.grpDests g).isEmpty || s.pwmLock g)
    && (s.grpTriggers g).all (fun a => s.pwmLock g && s.pwmN g == s.pwmK g * s.divider a && wFld (s.lawRoute a) 29 27 == 0
        && decide (80 < s.updInterval g))

/-- The group's registers keep R127 to R129 and R138, with cycle length len (R130). -/
def State.grpOk (s : State) (g len : Nat) : Bool :=
  let per := s.pwmPer g
  decide (50 ≤ per) && decide (2 * (s.fld (Reg.PWM_GRP_MINPW g) 7 0 + s.fld (Reg.PWM_GRP_DT g) 23 16) < per)
    && (!s.pwmLock g || (2 * per * s.pwmK g == len && decide (s.fld (Reg.PWM_GRP_PHASE g) 16 0 < 2 * per) && nFits (s.pwmK g) (s.pwmN g)))
    && s.grpLaws g

end Sys2Proof.Machine
end

