-- ==== Sys2Proof/Machine/Flags.lean ====
section
/-! DEFINITION. Event flags and what they raise: block interrupts (R273, R274), the safety event counter, capture events and capture
trigger conditions (R328, R332). -/

namespace Sys2Proof.Machine

/-! ## Network time of an instant (R196, R197) -/

/-- One second in units of 2^-32 ns. -/
def secU : Nat := 1000000000 * 2 ^ 32

/-- Network time as one number in units of 2^-32 ns (R196). -/
def TimeBase.net (t : TimeBase) : Int := (t.sec * secU + t.ns * 2 ^ 32 + t.frac : Nat)

/-- Set network time; seconds are kept modulo 2^64 (R196). -/
def TimeBase.setNet (t : TimeBase) (n : Int) : TimeBase :=
  let m := (n % ((2 ^ 64 * secU : Nat) : Int)).toNat
  { t with sec := m / secU, ns := m % secU / 2 ^ 32, frac := m % 2 ^ 32 }

/-- INC, in units of 2^-32 ns per tick (R196). -/
def State.inc32 (s : State) : Int := 10737418240 + s32 (s.rd Reg.TB_RATE)

/-- Network time at a fine tick past the present tick (R197). -/
def State.netAt (s : State) (fine : Int) : Int := s.tb.net + fine * s.inc32 / 32

/-- Seconds [31:0], nanoseconds and the 16-bit fraction of an instant. -/
def stampOf (n : Int) : Nat × Nat × Nat :=
  let t := ({} : TimeBase).setNet n
  (t.sec % 2 ^ 32, t.ns, t.frac / 65536)

/-- Network time at a fine tick of cycle cyc, the running one or one before it: counted from the present tick at the present increment (R197, R328;
log entry 75). -/
def State.netOf (s : State) (cyc : Word) (ft : Nat) : Int :=
  s.netAt ((ft : Int) - 32 * (s.tb.ctick + (s.tb.cyc - cyc).toNat * s.tb.len : Nat))

/-! ## Interrupts (R273, R274) -/

/-- Whether any event bit of a register is set together with its enable bit. -/
def State.evPair (s : State) (evt ien : Nat) : Bool := decide (s.rd evt &&& s.rd ien ≠ 0)

/-- Whether level source n of R273 asserts. -/
def State.irqLevel (s : State) (n : Nat) : Bool :=
  match n with
  | 0 => s.evPair Reg.GAL_EVT Reg.GAL_IEN
  | 1 => s.evPair Reg.LRN_EVT Reg.LRN_IEN
  | 2 => s.evPair Reg.FBK_EVT Reg.FBK_IEN
  | 3 => s.evPair Reg.PWM_EVT Reg.PWM_IEN
  | 16 => s.evPair Reg.TB_EVT Reg.TB_IEN
  | 18 => s.evPair Reg.FIO_EVT Reg.FIO_IEN
  | 19 => s.evPair Reg.CAP_EVT Reg.CAP_IEN
  | 20 => s.evPair Reg.TSU_EVT Reg.TSU_IEN
  | n =>
    if 4 ≤ n ∧ n ≤ 15 then
      let g := n - 4
      s.evPair (Reg.TRN_PSTAT g 0) (Reg.TRN_PIEN g 0) || s.evPair (Reg.TRN_PSTAT g 1) (Reg.TRN_PIEN g 1)
        || s.evPair (Reg.TRN_ABEVT g) (Reg.TRN_ABIEN g) || s.evPair (Reg.TRN_SEVT g) (Reg.TRN_SIEN g)
    else false

/-- The route in force of source n (R273, R274): 0 to 8 a core, 9 the Root core, else none. TSU_ROUTEs codes the Root core as 0xE
and reserves 9. -/
def State.route (s : State) (n : Nat) : Nat := Table.get (fun _ => 15) s.tsu.routes n

/-- What a TSU_ROUTEs code names. -/
def routeOf (code : Nat) : Nat := if code = 14 then 9 else if code = 9 then 15 else code

/-- The MID of core c (R271, R283): the Root core, number 9 here, is MID 0. -/
def coreMid (c : Nat) : Nat := if c = 9 then 0 else c + 1

/-- The core of a MID 0 to 9. -/
def midCore (m : Nat) : Nat := if m = 0 then 9 else m - 1

/-- A core that can receive an interrupt: the Root core, or one powered and active or marked (R274). -/
def State.coreUsable (s : State) (c : Nat) : Bool :=
  c == 9 || (s.bit Reg.TSU_PWR c && ((s.core c).state == 0 || (s.core c).state == 2))

/-- TSU_COREc_IRQP: asserted level sources routed to the core, and the pending safety edge (R273). -/
def State.irqp (s : State) (c : Nat) : Word :=
  (List.range 21).foldl (fun w n => w ||| mkBit n (decide (n ≠ 17) && s.route n == c && s.irqLevel n))
    (mkBit 17 (s.core c).safIrq)

/-- Channel n has an unmasked doorbell bit set (R315). -/
def State.belled (s : State) (n : Nat) : Bool := decide (s.rd (Reg.MBX_CH_DB n) &&& ~~~ s.rd (Reg.MBX_CH_MASK n) ≠ 0)

/-- Channel n is bound and names m as receiver (R314). -/
def State.receives (s : State) (n m : Nat) : Bool :=
  s.bit (Reg.MBX_CH_BIND n) 31 && s.fld (Reg.MBX_CH_BIND n) 4 0 == m

/-- A core's machine software interrupt: some channel it receives has an unmasked doorbell (R315). -/
def State.softIrq (s : State) (c : Nat) : Bool :=
  (List.range 64).any (fun n => s.receives n (coreMid c) && s.belled n)

/-- An enabled interrupt reaches the core (R267, R273, R319); the Root core has no TSU_COREc_IRQE. -/
def State.irqAt (s : State) (c : Nat) : Bool :=
  decide (s.irqp c &&& (if c = 9 then 0xFFFFFFFF else s.rd (Reg.TSU_CORE_IRQE c)) ≠ 0) || s.softIrq c

/-- Bits ACK and INB of MBX_WAIT for a MID's selection (R319). -/
def State.mbxBits (s : State) (m : Nat) : Word :=
  let sel := s.rd (midKey m Reg.MBX_WAITSEL)
  let out := wFld sel 13 8
  let inn := wFld sel 5 0
  mkBit 31 (wBit sel 30 && !s.bit (Reg.MBX_CH_STAT out) 31)
    ||| mkBit 30 (wBit sel 31 && (s.bit (Reg.MBX_CH_STAT inn) 31 || s.belled inn))

/-- End a core's wait with a result (R267, R319). -/
def State.endWait (s : State) (c : Nat) (res : Word) : State :=
  let s := s.setCore c { s.core c with wait := .none, woke := none, readRes := res }
  if c < 9 then s.setBit (Reg.TSU_CORE_STAT c) 27 false else s

/-- An interrupt ends a core's wait in TSU_TAKE; a job that becomes eligible in the same tick is given all the same (R267). -/
def State.wakeTake (s : State) (c : Nat) : State :=
  let s := s.endWait c (bitW 30)
  s.setCore c { s.core c with woke := some s.tb.tick }

/-- A waiting core that an enabled interrupt reaches returns from its blocking read (R267, R319). -/
def State.wakeCore (s : State) (c : Nat) : State :=
  match (s.core c).wait with
  | .none => s
  | .take => if s.irqAt c then s.wakeTake c else s
  | .mbx => if s.irqAt c then s.endWait c (bitW 29 ||| s.mbxBits (coreMid c)) else s

/-- A source with no usable core is held pending in TSU_IRQLOST, and TSU_EVT.IRQLOST is set (R274). -/
def State.irqLost (s : State) (n : Nat) : State :=
  let s := (s.orBits Reg.TSU_IRQLOST (bitW n)).orBits Reg.TSU_EVT (bitW 26)
  if s.irqLevel 20 && decide (s.route 20 ≤ 9) then
    if s.coreUsable (s.route 20) then (s.clrBits Reg.TSU_IRQLOST (bitW 20)).wakeCore (s.route 20) else s.orBits Reg.TSU_IRQLOST (bitW 20)
  else s

/-- Deliver an asserted level source: to a waiting core, where it is no longer held, or to TSU_IRQLOST (R273, R274). -/
def State.irqSettle (s : State) (n : Nat) : State :=
  if s.irqLevel n && decide (s.route n ≤ 9) then
    if s.coreUsable (s.route n) then (s.clrBits Reg.TSU_IRQLOST (bitW n)).wakeCore (s.route n) else s.irqLost n
  else s

/-- Set event bits and deliver the interrupt of their source. -/
def State.raise (s : State) (n evt : Nat) (m : Word) : State := (s.orBits evt m).irqSettle n

/-- Raise bit i of GAL_EVT, LRN_EVT, FBK_EVT, PWM_EVT, TB_EVT, FIO_EVT, TSU_EVT. -/
def State.galEvt (s : State) (i : Nat) : State := s.raise 0 Reg.GAL_EVT (bitW i)
def State.lrnEvt (s : State) (i : Nat) : State := s.raise 1 Reg.LRN_EVT (bitW i)
def State.fbkEvt (s : State) (i : Nat) : State := s.raise 2 Reg.FBK_EVT (bitW i)
def State.pwmEvt (s : State) (i : Nat) : State := s.raise 3 Reg.PWM_EVT (bitW i)
def State.tbEvt (s : State) (i : Nat) : State := s.raise 16 Reg.TB_EVT (bitW i)
def State.fioEvt (s : State) (i : Nat) : State := s.raise 18 Reg.FIO_EVT (bitW i)
def State.tsuEvt (s : State) (i : Nat) : State := s.raise 20 Reg.TSU_EVT (bitW i)
def State.capEvt (s : State) (i : Nat) : State := s.raise 19 Reg.CAP_EVT (bitW i)

/-- Raise bits of a segment's TRN_PSTAT (channel 0 A, 1 B), TRN_ABEVT and TRN_SEVT. -/
def State.portEvt (s : State) (n ch i : Nat) : State := s.raise (n + 4) (Reg.TRN_PSTAT n ch) (bitW i)
def State.abEvt (s : State) (n i : Nat) : State := s.raise (n + 4) (Reg.TRN_ABEVT n) (bitW i)
def State.segEvt (s : State) (n i : Nat) : State := s.raise (n + 4) (Reg.TRN_SEVT n) (bitW i)

/-- Whether session n is ARMED or TRIGGERED, and ARMED (R331). -/
def State.capState (s : State) (n : Nat) : Nat := s.fld (Reg.CAP_S_STAT n) 31 29
def State.capOn (s : State) (n : Nat) : Bool := s.capState n == 1 || s.capState n == 2

/-- Event session n records events of kind k (R328). -/
def State.capWants (s : State) (k n : Nat) : Bool :=
  s.capOn n && s.fld (Reg.CAP_S_CFG n) 31 30 == 3 && s.bit (Reg.CAP_S_SRC n) k

/-- An event of kind k enters the queue with its instant, a fine tick of cycle cyc, or is lost where 64 wait (R328). -/
def State.capEventAt (s : State) (k obj detail : Nat) (cyc : Word) (ft : Nat) : State :=
  let dest := (List.range 16).filter (s.capWants k)
  let net := stampOf (s.netOf cyc ft)
  if dest.isEmpty then s
  else if s.cap.queue.length < 64 then
    { s with cap := { s.cap with queue := s.cap.queue ++
        [⟨dest, s.tick0 + ft / 32 - (s.tb.cyc - cyc).toNat * s.tb.len, k, obj, detail, cyc, ft, net.1, net.2.1, net.2.2⟩] } }
  else
    s.each dest (fun n s => ((s.inc (Reg.CAP_S_LOST n)).setSession n { s.session n with lost := true }).capEvt n)

/-- The same at the present tick. -/
def State.capEvent (s : State) (k obj detail : Nat) : State := s.capEventAt k obj detail s.tb.cyc (s.tb.ctick * 32)

/-- CAP_Sn_CFG.SPLIT. -/
def State.capSplit (s : State) (n : Nat) : Bool := s.bit (Reg.CAP_S_CFG n) 28

/-- The session gives up its charge (R330). -/
def State.capFree (s : State) (n : Nat) : State :=
  (s.wr Reg.CAP_BWSUM (s.rd Reg.CAP_BWSUM - s.rd (Reg.CAP_S_CHG n))).wr (Reg.CAP_S_CHG n) 0

/-- The last record of the post-trigger part has been written (R335, R336). -/
def State.capDone (s : State) (n : Nat) : State :=
  let s := (s.setSession n { s.session n with doneTick := some s.tb.tick }).setFld (Reg.CAP_S_STAT n) 31 29 3
  let h := s.fld (Reg.CAP_S_STAT n) 26 26
  let s := if s.capSplit n then
      (s.setBit (Reg.CAP_S_STAT n) (27 + h) true).setSession n
        { s.session n with order := (s.session n).order.filter (fun x => x ≠ h) ++ [h] }
    else s
  let s := if !s.bit (Reg.CAP_S_CFG n) 29 then s.capFree n
    else if s.capSplit n && s.bit (Reg.CAP_S_STAT n) (28 - h) then s.setFld (Reg.CAP_S_STAT n) 31 29 5
    else s.setSession n { s.session n with again := true }
  s.capEvt (16 + n)

/-- The trigger record of session n stands at offset p of its buffer, after k records; more of its post-trigger part may be written already
(R334, R335). -/
def State.capMark (s : State) (n p k written : Nat) : State :=
  let s := (s.wr (Reg.CAP_S_TPTR n) (word p)).wr (Reg.CAP_S_PREACT n) (word (min (s.rd (Reg.CAP_S_PRE n)).toNat k))
  let left := (s.rd (Reg.CAP_S_POST n)).toNat - written
  let s := s.setSession n { s.session n with trig := none, post := left }
  if left = 0 then s.capDone n else s

/-- The session's record sampled in the present tick, if one was, takes the trigger that arises in the same tick (R333): FLAGS.TRIG is the byte 3 of
the record, which may lie across the ring's end (R323, R331). -/
def State.capSame (s : State) (n t : Nat) : State :=
  let c := s.session n
  match c.last with
  | some (u, p, k) =>
    if u = t then
      let o := if p + 3 < c.base + c.size then p + 3 else p + 3 - c.size
      let a := s.fld (Reg.CAP_S_BASE n) 26 0 + o
      let s : State := { s with cap := { s.cap with dram := Table.put s.cap.dram a ((Table.find? s.cap.dram a).getD 0 ||| 1) } }
      s.capMark n p k (c.recs - k)
    else s
  | none => s

/-- Records of session n before the one sampled in tick t, which a condition of that tick makes the trigger record (R333, R334). -/
def Session.before (c : Session) (t : Nat) : Nat :=
  match c.last with
  | some (u, _, k) => if u = t then k else c.recs
  | none => c.recs

/-- A trigger condition arises at tick t for session n: ignored and counted while a large ring lacks its PRE records, else accepted,
and passed on at once to the sessions chained to it. A record sampled in the same tick is the trigger record, else the next one will be (R333,
R334). The first argument bounds the chain: each of the 16 sessions accepts once. -/
def State.capAccept (t : Nat) : Nat → State → Nat → State
  | 0, s, _ => s
  | f + 1, s, n =>
    let c := s.session n
    if s.capState n ≠ 1 then s
    else if 8388608 < c.size ∧ c.before t < (s.rd (Reg.CAP_S_PRE n)).toNat then s.incFld (Reg.CAP_S_STAT n) 15 0
    else
      let s := ((s.setSession n { c with trig := some t }).setFld (Reg.CAP_S_STAT n) 31 29 2).capSame n t
      (List.range 16).foldl (fun s k =>
        if s.fld (Reg.CAP_S_TRIG k) 31 29 = 6 ∧ s.fld (Reg.CAP_S_TRIG k) 7 0 = n then s.capAccept t f k else s) s

def State.capTrigger (s : State) (n : Nat) : State := s.capAccept s.tb.tick 17 n

/-- A condition of kind k arises: every session that names it (R332). sel tells whether a session's TRIG word agrees in its
object and edge. -/
def State.capCond (s : State) (k : Nat) (sel : Word → Bool) : State :=
  s.each (List.range 16) (fun n s =>
    if s.fld (Reg.CAP_S_TRIG n) 31 29 == k && sel (s.rd (Reg.CAP_S_TRIG n)) then s.capTrigger n else s)

/-- The object field of a session's trigger word. -/
def trigObj (o : Nat) (w : Word) : Bool := wFld w 7 0 == o

/-- An increment of SAF_EVTSEQ: the safety edge pends at the routed core, and the capture engine sees it (R273, R328, R332). -/
def State.safetyEvent (s : State) (obj detail : Nat) : State :=
  let s := s.inc Reg.SAF_EVTSEQ
  let r := s.route 17
  let s := if r = 9 then
      if (s.core 9).wait = .mbx then s.endWait 9 (bitW 29 ||| s.mbxBits 0) else s
    else if r < 9 then
      if s.coreUsable r then (s.setCore r { s.core r with safIrq := true }).wakeCore r else s.irqLost 17
    else s
  (s.capEvent 5 obj detail).capCond 3 (fun _ => true)

end Sys2Proof.Machine
end

