-- ==== Sys2Proof/Machine/Persist.lean ====
section
/-! DEFINITION. The persistent words with their wear and remapping (R375 to R379), the log (R380), the event ring of the spare
records (R406), the stored states of lanes and cores, and the marking of Hall rows (R403, R430). -/

namespace Sys2Proof.Machine

/-- What persistent word n holds from the factory (R379, R56, R271, R408). -/
def pregFactory (n : Nat) : Word :=
  if n = 24 ∨ n = 25 ∨ n = 40 then 0x20000000
  else if n = 48 ∨ n = 49 ∨ n = 56 ∨ n = 57 then Config.macWord n
  else if n = 50 then 0xA9FE1940
  else if n = 58 then 0xA9FE1941
  else if n = 52 ∨ n = 60 then 0x00005A56
  else if n = 53 ∨ n = 61 then 0x80000000
  else if 208 ≤ n ∧ n ≤ 225 then 0x7FFF7FFF
  else 0

/-- The value of persistent word n. -/
def State.preg (s : State) (n : Nat) : Word := Table.get pregFactory s.pv.words n

/-- The PREG_WEAR word of persistent word n. -/
def State.wear (s : State) (n : Nat) : Word := Table.get (fun _ => 0) s.pv.wear n

/-- A record waits to be written into the event ring; it counts as a spare-in or a trigger without a spare (R406, R408, R328). -/
def State.pushRec (s : State) (r : SprRec) : State :=
  let s := { s with spr := { s.spr with recs := s.spr.recs ++ [r] } }
  if r.noSpare then s.orBits Reg.SPR_EVT (bitW 30)
  else (s.orBits Reg.SPR_EVT (bitW 31)).capEvent 7 (r.obj % 256) 0

/-- Store a value in a persistent word with its new wear. -/
def State.pregStore (s : State) (n : Nat) (v wr : Word) : State :=
  { s with pv := { s.pv with words := Table.set pregFactory s.pv.words n v,
                             wear := Table.set (fun _ => 0) s.pv.wear n wr } }

/-- One write to persistent word n that the guard does not refuse: wear, remapping (R375, R378). -/
def State.pregPut (s : State) (n : Nat) (v : Word) : State :=
  let u := if Config.tjHot s.free then 10 else 3
  let s := s.takeFree
  let w := s.wear n
  let units := wFld w 21 0 + u
  if units < 2700000 then s.pregStore n v (wSetFld w 21 0 units)
  else if s.pv.spares ≠ 0 then
    let k := 256 - s.pv.spares
    let s := s.pregStore n v (bitW 31 ||| word u)
    let s := { s with pv := { s.pv with spares := s.pv.spares - 1 } }
    (s.orBits Reg.PREG_EVT (bitW 30)).pushRec ⟨4, 5, false, false, n, k, wFld w 21 0 / 64⟩
  else
    let s1 := (s.pregStore n v (wSetBit (wSetFld w 21 0 (min units 4194303)) 30 true)).orBits Reg.PREG_EVT (bitW 29)
    if wBit w 30 then s1 else s1.pushRec ⟨4, 5, true, false, n, 0xFFFF, wFld w 21 0 / 64⟩

/-- The guard refuses a persistent write (R376). -/
def State.pregRefuse (s : State) : State := (s.orBits Reg.PREG_EVT (bitW 31)).inc Reg.PREG_GCNT

/-- A persistent word takes a value without a write of its own: a record of the ring moves (R406). -/
def State.pregMove (s : State) (n : Nat) (v : Word) : State :=
  { s with pv := { s.pv with words := Table.set pregFactory s.pv.words n v } }

/-- What orders the records of one tick: kind, then object (R406). -/
def State.recKey (s : State) (i : Nat) : Nat := wFld (s.preg (80 + 4 * i)) 31 28 * 2 ^ 20 + wFld (s.preg (80 + 4 * i)) 19 0

/-- Records i and j of the ring change places. -/
def State.recSwap (s : State) (i j : Nat) : State :=
  s.each [0, 1, 2, 3] (fun k s =>
    let a := s.preg (80 + 4 * i + k)
    (s.pregMove (80 + 4 * i + k) (s.preg (80 + 4 * j + k))).pregMove (80 + 4 * j + k) a)

/-- The record at i, the last of its tick, goes before those of the k records ahead of it that come after it in order (R406). -/
def State.recSort (s : State) (i : Nat) : Nat → State
  | 0 => s
  | k + 1 =>
    let j := (i + 31) % 32
    if s.recKey i < s.recKey j then (s.recSwap i j).recSort j k else s

/-- A record stands at i: it takes its place among those of its tick (R406). -/
def State.recPlace (s : State) (i : Nat) : State :=
  let n := if s.spr.recTick = some s.tb.tick then min 31 (s.spr.recRun + 1) else 0
  ({ s with spr := { s.spr with recTick := some s.tb.tick, recRun := n } }).recSort i n

/-- Write the first waiting record into the ring, word 64 after its four words; while the guard is engaged it is lost (R406). -/
def State.writeRec (s : State) : State :=
  match s.spr.recs with
  | [] => s
  | r :: rest =>
    let s := { s with spr := { s.spr with recs := rest } }
    if s.sys.guard then s.pregRefuse.incFld Reg.SPR_STAT 15 0
    else
      let p := s.preg 64
      let i := wFld p 4 0
      let w0 := mkFld 31 28 r.kind ||| mkFld 27 24 r.cause ||| mkBit 23 r.noSpare ||| mkBit 22 r.forced ||| mkFld 19 0 r.obj
      let s := s.pregPut (80 + 4 * i) w0
      let s := s.pregPut (81 + 4 * i) s.tb.cyc
      let s := s.pregPut (82 + 4 * i) (s.preg 1)
      let s := s.pregPut (83 + 4 * i) (mkFld 31 16 r.spare ||| mkFld 15 0 r.trend)
      (s.pregPut 64 (wSetFld (wSetFld p 4 0 (i + 1)) 31 16 (wFld p 31 16 + 1))).recPlace i

/-- Write the waiting records, k at most. -/
def State.drainRecs (s : State) : Nat → State
  | 0 => s
  | k + 1 => if s.spr.recs.isEmpty then s else s.writeRec.drainRecs k

/-- How many records one write may bring about before the rest waits for the next: each comes from a word remapped by one before. -/
def recFuel : Nat := 512

/-- Write persistent word n; the flag says whether the write was made (R376). -/
def State.pregWrite (s : State) (n : Nat) (v : Word) : State × Bool :=
  if s.sys.guard then (s.pregRefuse, false) else ((s.pregPut n v).drainRecs recFuel, true)

/-- Record an event of the spare capacity (R406). -/
def State.record (s : State) (r : SprRec) : State := (s.pushRec r).drainRecs recFuel

/-- A write of the device's own that is repeated every 100 ms until the guard accepts it (R406). -/
def State.pregKeep (s : State) (n : Nat) (v : Word) : State :=
  let r := s.pregWrite n v
  if r.2 then r.1
  else { r.1 with spr := { r.1.spr with retry := r.1.spr.retry.filter (fun x => x ≠ n) ++ [n] } }

/-- The stored fields of lane n as GAL_LSTATE lays them out (R56, R379). -/
def laneWord (l : Lane) : Word := mkFld 31 29 l.state ||| mkFld 27 24 l.cause ||| mkFld 15 0 l.cycLo

/-- A lane changes its state; the stored copy follows (R56, R81). -/
def State.laneState (s : State) (n st cause : Nat) : State :=
  let l := { s.lane n with state := st, cause := cause, cycLo := s.cycLo }
  (s.setLane n l).pregKeep (8 + n) (laneWord l)

/-- A core changes its state; the stored copy follows (R271, R379). -/
def State.coreState (s : State) (c st cause : Nat) : State :=
  (s.setCore c { s.core c with state := st, cause := cause }).pregKeep (32 + c) (mkFld 31 29 st)

/-- Append a record to the persistent log, unless the guard refuses it (R380). -/
def State.logRecord (s : State) (cause : Word) : State :=
  if s.sys.guard then s.pregRefuse
  else
    let p := s.preg 3
    let r := wFld p 5 0
    let s := s.pregPut (256 + 4 * r) cause
    let s := s.pregPut (257 + 4 * r) (s.preg 1)
    let s := s.pregPut (258 + 4 * r) (mkFld 3 0 (wFld (s.preg 0) 3 0) ||| mkFld 7 4 s.mode)
    let s := s.pregPut (259 + 4 * r) 0
    (s.pregPut 3 (wSetFld (wSetFld p 5 0 (r + 1)) 31 16 (wFld p 31 16 + 1))).drainRecs recFuel

/-! ## Hall rows (R403, R404, R430) -/

/-- The Hall spare row k (R408). -/
def State.hmap (s : State) (k : Nat) : Word := Table.get (fun _ => 0) s.pv.hmap k

/-- The lowest-numbered unused Hall spare row (R404). -/
def State.hallSpare (s : State) : Option Nat := lowest 256 (fun k => !wBit (s.hmap k) 31)

/-- Spare Hall rows left (R408). -/
def State.hallSpares (s : State) : Nat := countN 256 (fun k => !wBit (s.hmap k) 31)

/-- Correction count of Hall row r (R403). -/
def State.rowCnt (s : State) (r : Nat) : Nat := Table.get (fun _ => 0) s.spr.rowCnt r

/-- Marked rows in order of marking; rows of one tick stand in ascending row number (R404). -/
def markInsert (x : MarkedRow) : List MarkedRow → List MarkedRow
  | [] => [x]
  | y :: t => if y.tick = x.tick ∧ x.row < y.row then x :: y :: t else y :: markInsert x t

/-- A Hall row is marked: it waits for its copy, unless it waits already or no spare row remains for it (R403, R404). The row
being replaced has entered its spare in the map once it is mapped. -/
def State.markRow (s : State) (r cause : Nat) : State :=
  if s.spr.marked.any (fun m => m.row == r) then s
  else if s.hallSpares + (if s.spr.mapped then 1 else 0) ≤ s.spr.marked.length then
    s.record ⟨3, cause, true, false, r, 0xFFFF, s.rowCnt r⟩
  else
    let s := { s with spr := { s.spr with marked := markInsert ⟨r, cause, s.rowCnt r, s.tb.tick⟩ s.spr.marked } }
    s.orBits Reg.SPR_EVT (bitW 29 ||| mkBit 28 (cause == 4))

/-- A read of the Hall met an uncorrectable error at an offset: its row is marked at once with cause 4 (R403, R430). -/
def State.hallUncorr (s : State) (o : Nat) : State := s.markRow (o / 1024) 4

/-- A corrected read error at a Hall offset (R403, R407). -/
def State.hallCorrected (s : State) (o : Nat) : State :=
  let r := o / 1024
  let n := min 255 (s.rowCnt r + 1)
  let s := { s with spr := { s.spr with rowCnt := Table.set (fun _ => 0) s.spr.rowCnt r n, hallCor := min 65535 (s.spr.hallCor + 1),
                                        hallMax := max s.spr.hallMax n } }
  if s.fld Reg.SPR_CFG 31 24 ≤ n then s.markRow r 1 else s

/-- An access of MID m to the Hall at an aligned offset, checked by the region's end, by the windows and then by ECC (R282, R285, R430); at most
one unit. A load answers the bytes; a store says whether it was performed. A store of a whole unit needs no old contents. -/
def State.hallLoad (s : State) (m o n : Nat) : Option (List Byte) × State :=
  if 0x800000 < o + n then (none, s.deny m (hallBase + o) false 2)
  else if !s.allowed m (hallBase + o) n false then (none, s.deny m (hallBase + o) false 1)
  else if s.hallBad o then (none, s.hallUncorr o)
  else (some (s.hallBytes o n), s)

def State.hallStore (s : State) (m o : Nat) (bs : List Byte) : Bool × State :=
  if 0x800000 < o + bs.length then (false, s.deny m (hallBase + o) true 2)
  else if !s.allowed m (hallBase + o) bs.length true then (false, s.deny m (hallBase + o) true 1)
  else if bs.length = 8 then
    (true, { s.hallWrite o bs with hall := { (s.hallWrite o bs).hall with bad := s.hall.bad.filter (fun u => u != o / 8) } })
  else if s.hallBad o then (false, s.hallUncorr o)
  else (true, s.hallWrite o bs)

end Sys2Proof.Machine
end

