-- ==== Sys2Proof/Machine/Feedback.lean ====
section
/-! DEFINITION. Position feedback (chapter Position feedback and current sensing): counts, raw accumulators, reported positions, index
and direction monitors, the speed estimator, serial reads, remote records, pass-through outputs, delta-sigma results. -/

namespace Sys2Proof.Machine

/-- The 48-bit raw accumulator of a source, signed (R9). -/
def State.raw (s : State) (n : Nat) : Int :=
  sgn 48 ((s.rd (Reg.SRC_RAWLO n)).toNat + 2 ^ 32 * s.fld (Reg.SRC_RAWHI n) 15 0)

/-- The raw accumulator takes a value modulo 2^48. -/
def State.setRaw (s : State) (n : Nat) (v : Int) : State :=
  let u := wrapN 48 v
  (s.wr (Reg.SRC_RAWLO n) (word u)).wr (Reg.SRC_RAWHI n) (word (u / 2 ^ 32))

/-- A sticky error of a source, counted in SRC_ECNT.ERRS: STAT bit i and FBK_EVT bit e (R104, R108, R110). -/
def State.srcErr (s : State) (n i e : Nat) : State :=
  ((s.setBit (Reg.SRC_STAT n) i true).incFld (Reg.SRC_ECNT n) 15 0).fbkEvt e

/-- Direction monitor: a count change of sign neg at a fine tick of a cycle (R115). -/
def State.direction (s : State) (n : Nat) (neg : Bool) (cyc : Word) (ft : Nat) : State :=
  let c := s.source n
  let s1 := s.setBit (Reg.SRC_STAT n) 30 neg
  if !c.dirKnown then s1.setSource n { c with dirKnown := true }
  else if s.bit (Reg.SRC_STAT n) 30 == neg then s
  else
    let s2 := (((s1.setSource n { c with dirSince := true }).setBit (Reg.SRC_STAT n) 11 true).wr
      (Reg.SRC_DIRCYC n) cyc).wr (Reg.SRC_DIRFT n) (word (ft % 2 ^ 22))
    if wBit c.sst 31 then
      (s2.fbkEvt 29).capEventAt 0 (n % 256) (n / 256 + (if neg then 4 else 0)) cyc ft
    else s2

/-- A timed count change: direction, and an edge for the estimator (R115, R116). -/
def State.countEdge (s : State) (n : Nat) (t : Int) (d : Int) (cyc : Word) (ft : Nat) : State :=
  let s := s.direction n (decide (d < 0)) cyc ft
  let c := s.source n
  s.setSource n { c with edges := c.edges ++ [(t, d)] }

/-- Index event at a fine tick of cycle cyc: latch raw and check the distance from the previous index (R105, R114). -/
def State.indexAt (s : State) (n : Nat) (rawAt : Int) (cyc : Word) (ft : Nat) : State :=
  let c := s.source n
  let s1 := (s.setBit (Reg.SRC_STAT n) 13 true).wr (Reg.SRC_IDXLO n) (wordI rawAt)
  let s1 := s1.setSource n { c with idxRaw := some rawAt, dirSince := false }
  let s1 := match c.idxRaw with
    | none => s1
    | some p =>
      if c.dirSince then s1.setBit (Reg.SRC_STAT n) 12 true
      else
        let d := sgn 48 (wrapN 48 (rawAt - p))
        let s2 := s1.wr (Reg.SRC_IDXD n) (wordI d)
        let exp := wFld c.idxCfg 31 8
        let tol := wFld c.idxCfg 7 0
        if exp ≠ 0 ∧ ((d.natAbs : Int) - exp).natAbs > tol then
          ((s2.setBit (Reg.SRC_STAT n) 14 true).incFld (Reg.SRC_ECNT n) 31 16).fbkEvt 30
        else s2
  s1.capEventAt 1 (n % 256) (n / 256) cyc ft

/-- Speed in Q24.8 of c counts in dt ticks, and whether it saturated; an interval of zero or less is one tick, and the speed then
saturates in the direction of the counts (R117, R118). -/
def speedQ (c dt : Int) : Int × Bool :=
  if dt ≤ 0 then (if c < 0 then -2147483647 else 2147483647, true)
  else
    let v := rneDiv (c * 102400000000) dt.toNat
    if v > 2147483647 then (2147483647, true)
    else if v < -2147483647 then (-2147483647, true)
    else (v, false)

/-- The sign of a non-zero count. -/
def sgn1 (d : Int) : Int := if d < 0 then -1 else 1

/-- Reversal edges of an interval with the edge before each, given the last edge's sign and time (R116): (before, edge) of the
last reversal, and the counts after it. -/
def lastReversal : List (Int × Int) → Int → Int → Option (Int × Int × Int × Int) → Option (Int × Int × Int × Int)
  | [], _, _, r => r
  | (t, d) :: es, sg, tb, r =>
    let r' := if sg ≠ 0 ∧ sgn1 d ≠ sg then some (tb, t, sgn1 d, 0)
      else r.map (fun (b, e, g, k) => (b, e, g, k + d))
    lastReversal es (sgn1 d) t r'

/-- Sum of the counts of edges. -/
def edgeSum : List (Int × Int) → Int
  | [] => 0
  | (_, d) :: es => d + edgeSum es

/-- What one run of the estimator decides: speed, saturation, STILL, SINIT and SREV (none: unchanged), reference time, counts
after the reference, standstill mark. -/
structure SpeedRes where
  spd : Int
  sat : Bool
  still : Bool
  sinit : Option Bool
  srev : Option Bool
  tRef : Int
  acc : Int
  mark : Int
  deriving DecidableEq, Repr

/-- Rules 1 to 5 of R117 at sample time t with standstill timeout sst, the present speed and STILL. -/
def estimate (c : Source) (t : Int) (sst : Nat) (spd : Int) (still : Bool) : SpeedRes :=
  match c.edges with
  | [] =>
    if still || decide (t - c.tLast ≥ sst) then
      ⟨0, false, true, none, none, c.tRef, c.acc, if still then c.tMark else c.tLast⟩
    else
      let b := speedQ 1 (t - c.tLast)
      let m : Int := spd.natAbs
      let v := if b.1 < m then b.1 else m
      ⟨if spd < 0 then -v else v, decide (b.1 < m) && b.2, false, some false, some false, c.tRef, c.acc, c.tMark⟩
  | (t1, d1) :: rest =>
    if still || !c.hasEdge then
      let q := speedQ (sgn1 d1) (t1 - c.tMark)
      let rev := decide (c.edgeSign ≠ 0 ∧ sgn1 d1 ≠ c.edgeSign)
      ⟨q.1, q.2, false, some true, if rev then some true else none, t1, edgeSum rest, c.tMark⟩
    else match lastReversal c.edges c.edgeSign c.tLast none with
      | some (tb, te, g, k) =>
        let q := speedQ g (te - tb)
        ⟨q.1, q.2, false, none, some true, te, k, c.tMark⟩
      | none =>
        let tl := (c.edges.getLastD (t1, d1)).1
        let q := speedQ (c.acc + edgeSum c.edges) (tl - c.tRef)
        ⟨q.1, q.2, false, some false, some false, tl, 0, c.tMark⟩

/-- Run the estimator of source n at sample time t (R117). -/
def State.speedAt (s : State) (n : Nat) (t : Int) : State :=
  let c := s.source n
  let r := estimate c t (wFld c.sst 27 0) (s32 (s.rd (Reg.SRC_SPD n))) (s.bit (Reg.SRC_STAT n) 31)
  let st := s.rd (Reg.SRC_STAT n)
  let st := wSetBit (wSetBit st 31 r.still) 25 r.sat
  let st := match r.sinit with | some b => wSetBit st 27 b | none => st
  let st := match r.srev with | some b => wSetBit st 26 b | none => st
  let last := c.edges.getLastD (c.tLast, c.edgeSign)
  ((s.wr (Reg.SRC_STAT n) st).wr (Reg.SRC_SPD n) (wordI r.spd)).setSource n
    { c with edges := [], tLast := last.1, edgeSign := if c.edges = [] then c.edgeSign else sgn1 last.2,
             hasEdge := c.hasEdge || decide (c.edges ≠ []), tRef := r.tRef, acc := r.acc, tMark := r.mark,
             interval := t - c.tSample, tSample := t, fresh := true }

/-- What takes effect at a sample of source n: a waiting origin or limit pair, SRC_IDXCFG and SRC_SST (R113, R125). -/
def State.adopt (s : State) (n : Nat) : State :=
  let c := s.source n
  s.setSource n { c with
    org := c.orgNew.getD c.org, orgNew := none,
    limLo := (c.limNew.getD (c.limLo, c.limHi)).1, limHi := (c.limNew.getD (c.limLo, c.limHi)).2, limNew := none,
    idxCfg := s.rd (Reg.SRC_IDXCFG n), sst := s.rd (Reg.SRC_SST n) }

/-- The reported position from raw, origin and limits (R112). -/
def State.reportAt (s : State) (n : Nat) : State :=
  let c := s.source n
  let v := sgn 48 (wrapN 48 (s.raw n - c.org))
  let below := decide (v < c.limLo)
  let above := !below && decide (v > c.limHi)
  let pos := if below then c.limLo else if above then c.limHi else v
  let st := wSetBit (wSetBit (wSetBit (s.rd (Reg.SRC_STAT n)) 29 below) 28 above) 24 true
  let st := if below || above then wSetBit st 15 true else st
  let s := (s.wr (Reg.SRC_STAT n) st).wr (Reg.SRC_POS n) (wordI pos)
  if below || above then s.fbkEvt 31 else s

/-! ## Pass-through outputs (R119 to R121) -/

/-- Counts still to be emitted by output m. -/
def PassOut.left (p : PassOut) : Int := p.target - p.out

/-- STAT.LAG and PEND follow the counts that wait (R120). -/
def State.ptShow (s : State) (m : Nat) : State :=
  let l := (s.pout m).left.natAbs
  (s.setBit (Reg.FBK_PT_STAT m) 30 (decide (l ≠ 0))).setFld (Reg.FBK_PT_STAT m) 15 0 l

/-- The pins of an emulating output: A leads B counting up; Z in the state ZOFS of ZPER (R121). -/
def State.ptPins (s : State) (m : Nat) : State :=
  let p := s.pout m
  let q := wrapN 2 p.out
  let zper := s.fld (Reg.FBK_PT_ZPER m) 23 0
  s.setPout m { p with a := q == 1 || q == 2, b := q == 2 || q == 3,
                       z := zper != 0 && decide (p.out % (zper : Int) = (s.fld (Reg.FBK_PT_ZOFS m) 23 0 : Int)) }

/-- The mode of output m becomes 2: raw_base is the present raw of its source, O_base and the output count are 0 (R120). -/
def State.ptBase (s : State) (m : Nat) : State :=
  ((s.setPout m { s.pout m with rawBase := s.raw (s.fld (Reg.FBK_PT_CFG m) 25 16), oBase := 0, out := 0, target := 0, smpN := 0, done := 0 }).ptPins
    m).ptShow m

/-- Output m is one that emulates (R120). -/
def State.emulates (s : State) (m : Nat) : Bool := s.fld (Reg.FBK_PT_CFG m) 31 30 == 2

/-- A ratio written since the last sample takes effect at this one: the base moves to the present raw and output count (R120). -/
def State.ptRatio (s : State) (m n : Nat) : State :=
  let p := s.pout m
  if p.mulNew then
    s.setPout m { p with mul := (s.rd (Reg.FBK_PT_MUL m)).toNat, mulNew := false, rawBase := s.raw n, oBase := p.out }
  else s

/-- New target count of output m at a sample of its source, taken at tick t (R120). -/
def State.ptTarget (s : State) (m n : Nat) (t : Int) : State :=
  if s.fld (Reg.FBK_PT_CFG m) 25 16 ≠ n then s
  else
    let s := s.ptRatio m n
    if !s.emulates m then s
    else
      let p := s.pout m
      let k : Int := (s.raw n - p.rawBase) * p.mul / 2 ^ 24
      let tgt := p.oBase + (if s.bit (Reg.FBK_PT_CFG m) 29 then -k else k)
      let ovf := decide ((tgt - p.out).natAbs > 65535)
      let out := if ovf then (if p.out < tgt then tgt - 65535 else tgt + 65535) else p.out
      let s := s.setPout m { p with target := tgt, out := out, smpT := t, smpI := (s.source n).interval, smpN := (tgt - out).natAbs, done := 0 }
      let s := (s.ptPins m).ptShow m
      if ovf then (s.setBit (Reg.FBK_PT_STAT m) 31 true).fbkEvt 23 else s

/-- A write of FBK_PT_CFG, by its effect f on the register: the base is taken when the mode becomes 2 (R120, R125). -/
def State.ptCfg (s : State) (m : Nat) (f : State → State) : State :=
  if (f s).emulates m && !s.emulates m then (f s).ptBase m else f s

/-- A write of FBK_PT_MUL takes effect at the next sample of the source (R120). -/
def State.ptMul (s : State) (m : Nat) : State := s.setPout m { s.pout m with mulNew := true }

/-- The pins of an emulating output follow FBK_PT_ZPER and FBK_PT_ZOFS (R121). -/
def State.ptZ (s : State) (m : Nat) : State := if s.emulates m then s.ptPins m else s

/-- A source has sampled: position, speed, and the targets of the outputs it feeds (R112, R117, R120). -/
def State.sampled (s : State) (n : Nat) (t : Int) : State :=
  ((s.reportAt n).speedAt n t).each (List.range 8) (fun m s => s.ptTarget m n t)

/-- A source of w-bit values takes value v at sample time t; a change is an edge at time te (R111, R115, R116). -/
def State.takeValue (s : State) (n w v : Nat) (t te : Int) (cyc : Word) (ft : Nat) : State :=
  let c := s.source n
  let s1 := (s.setSource n { c with vPrev := v }).adopt n
  if s.bit (Reg.SRC_STAT n) 24 then
    let d := sgn w ((v + 2 ^ w - c.vPrev % 2 ^ w) % 2 ^ w)
    let s2 := s1.setRaw n (s.raw n + d)
    (if d = 0 then s2 else s2.countEdge n te d cyc ft).sampled n t
  else (s1.setRaw n v).sampled n t

/-! ## Local channels (R103 to R109) -/

def State.chMode (s : State) (n : Nat) : Nat := s.fld (Reg.FBK_CH_CFG n) 31 29

/-- Count d at a tick of the present cycle, reversed by INV (R104, R106). -/
def State.localCount (s : State) (n : Nat) (tick : Nat) (d : Int) : State :=
  let d := if s.bit (Reg.FBK_CH_CFG n) 28 then -d else d
  let c := s.chan n
  (s.setChan n { c with cnt := c.cnt + d }).countEdge n ((s.tick0 + tick : Nat) : Int) d s.tb.cyc (tick * 32)

/-- What the filter shows of an input that has stood at a level for n ticks, while it showed another: the level once it has been stable for FILT + 1
ticks (R104). -/
def State.filtered (s : State) (ch : Nat) (shown level : Bool) (n : Nat) : Bool :=
  if decide (s.fld (Reg.FBK_CH_CFG ch) 25 22 < n) then level else shown

/-- A and B at a tick, through their filters: a count, or an illegal transition (R104). -/
def quadratureCount (ch tick : Nat) (a b : Bool) (sa sb : Nat) (s : State) : State :=
  let c := s.chan ch
  let a := s.filtered ch c.a a sa
  let b := s.filtered ch c.b b sb
  let s1 := s.setChan ch { c with a := a, b := b }
  if s.chMode ch ≠ 1 then s
  else if a != c.a && b != c.b then s1.srcErr ch 9 27
  else if a != c.a then s1.localCount ch tick (if a != b then 1 else -1)
  else if b != c.b then s1.localCount ch tick (if a == b then 1 else -1)
  else s

/-- A filtered rising edge of A counts in the direction of the filtered B (R106). -/
def pulseCount (ch tick : Nat) (b : Bool) (sa sb : Nat) (s : State) : State :=
  if s.chMode ch ≠ 2 ∨ !s.filtered ch false true sa then s
  else
    let c := s.chan ch
    let b := s.filtered ch c.b b sb
    (s.setChan ch { c with a := true, b := b }).localCount ch tick (if b then 1 else -1)

/-- A filtered rising edge of Z at a tick of the running cycle; IQUAL asks for A = B = 1 in A/B/Z mode (R105, R106). -/
def indexEvent (ch tick sz : Nat) (s : State) : State :=
  let idx (s : State) : State := (s.setChan ch { s.chan ch with z := true }).indexAt ch (s.chan ch).cnt s.tb.cyc (tick * 32)
  let c := s.chan ch
  if !s.filtered ch false true sz then s
  else if s.chMode ch = 1 then
    if s.bit (Reg.FBK_CH_CFG ch) 27 && !(c.a && c.b) then s else idx s
  else if s.chMode ch = 2 then idx s
  else s

/-- The group whose update point a channel with SCLKT = 0 samples at, and the cycle tick of one with SCLKT = 1 (R103). -/
def State.smpGrp (s : State) (ch : Nat) : Nat := s.fld (Reg.FBK_CH_SMP ch) 22 20
def State.smpTick (s : State) (ch : Nat) : Nat := s.fld (Reg.FBK_CH_SMP ch) 16 0

/-- A tick of the running cycle is a sample instant of channel ch: SMPT, which must lie below the cycle length, or an update point of its group,
the tick of the strobe (R20, R103). -/
def State.sampleInstant (s : State) (ch tick : Nat) : Bool :=
  if s.bit (Reg.FBK_CH_SMP ch) 31 then decide (tick = s.smpTick ch ∧ tick < s.tb.len)
  else s.pwmRun (s.smpGrp ch) && (s.grp (s.smpGrp ch)).upd == some (s.tick0 + tick)

/-- The sample instant for which a serial read starts at a tick, LEAD ticks before it, is one of channel ch (R109). -/
def State.sampleComes (s : State) (ch tick : Nat) : Bool :=
  let t := tick + s.fld (Reg.FBK_CH_SER2 ch) 31 16
  if s.bit (Reg.FBK_CH_SMP ch) 31 then decide (t % s.tb.len = s.smpTick ch ∧ s.smpTick ch < s.tb.len)
  else s.updateComes (s.smpGrp ch) t

/-- A channel delivers its sample, one per sample instant (R103, R109). -/
def feedbackSample (ch tick : Nat) (s : State) : State :=
  let t : Int := ((s.tick0 + tick : Nat) : Int)
  let c := { s.chan ch with smpAt := some (s.tick0 + tick) }
  if !s.sampleInstant ch tick || (s.chan ch).smpAt == some (s.tick0 + tick) then s
  else
    let s := s.setChan ch c
    match s.chMode ch with
  | 1 | 2 => ((s.adopt ch).setRaw ch c.cnt).sampled ch t
  | 3 | 4 =>
    match c.ready, c.good with
    | true, some (v, st) =>
      (s.setChan ch { c with ready := false }).takeValue ch (s.fld (Reg.FBK_CH_SER0 ch) 29 24) v t st s.tb.cyc (tick * 32)
    | _, _ => ((s.setChan ch { c with ready := false }).setBit (Reg.SRC_STAT ch) 7 true).fbkEvt 25
  | _ => s

/-- The least number of clock periods of a serial read: NB data bits, and in acknowledged serial mode eight check bits (R107, R108). -/
def State.readClocks (s : State) (ch : Nat) : Nat := s.fld (Reg.FBK_CH_SER0 ch) 21 16 + (if s.chMode ch = 4 then 8 else 0)

/-- A serial read starts: CK goes low at a tick of the present cycle, LEAD ticks before a sample instant, and no sooner than TMF ticks after the
clock of the read before it (R107 to R109). -/
def serialReadStart (ch tick : Nat) (s : State) : State :=
  let c := s.chan ch
  let t : Int := ((s.tick0 + tick : Nat) : Int)
  if (s.chMode ch = 3 ∨ s.chMode ch = 4) ∧ s.sampleComes ch tick ∧ c.reading = none ∧ c.readFrom ≤ t then
    s.setChan ch { c with reading := some t, ready := false,
                          readFrom := t + 2 * s.fld (Reg.FBK_CH_SER0 ch) 10 0 * s.readClocks ch + s.fld (Reg.FBK_CH_SER2 ch) 15 0 }
  else s

/-- Bits, first to last, as a number, most significant first. -/
def bitsNat : List Bool → Nat → Nat
  | [], n => n
  | b :: t, n => bitsNat t (2 * n + (if b then 1 else 0))

/-- Gray code to binary over a list of bits, most significant first (R107). -/
def grayBits : List Bool → Bool → List Bool
  | [], _ => []
  | b :: t, p => (b != p) :: grayBits t (b != p)

/-- CRC-8 x^8 + x^2 + x + 1, initial 0, over bits in the order sent (R108). -/
def crc8 : List Bool → Nat → Nat
  | [], r => r
  | b :: t, r =>
    let fb := r.testBit 7 != b
    crc8 t ((if fb then Nat.xor (r * 2) 7 else r * 2) % 256)

/-- A serial read of NB data bits completes and is evaluated. Of a read with a CRC mismatch ALM and WRN are not evaluated, the model's choice: no
rule says whether they are (log entry 71) (R107, R108). -/
def serialReadDone (ch : Nat) (d : SerialData) (s : State) : State :=
  let c := s.chan ch
  match c.reading with
  | none => s
  | some st =>
    if d.bits.length ≠ s.fld (Reg.FBK_CH_SER0 ch) 21 16 then s else
    let s1 := s.setChan ch { c with reading := none }
    let posw := s.fld (Reg.FBK_CH_SER0 ch) 29 24
    match s.chMode ch with
    | 3 =>
      let f := (d.bits.drop (s.fld (Reg.FBK_CH_SER1 ch) 31 26)).take posw
      let v := bitsNat (if s.bit (Reg.FBK_CH_CFG ch) 26 then grayBits f false else f) 0
      let bad := s.bit (Reg.FBK_CH_SER1 ch) 25
        && (d.bits[s.fld (Reg.FBK_CH_SER1 ch) 23 18]?).getD false == s.bit (Reg.FBK_CH_SER1 ch) 24
      if bad then s1.srcErr ch 10 28
      else s1.setChan ch { c with reading := none, good := some (v, st), ready := true }
    | 4 =>
      let s1 := s1.setFld (Reg.FBK_CH_LSTAT ch) 15 0 d.delay
      let v := bitsNat (d.bits.take posw) 0
      let alm := (d.bits[posw]?).getD false
      let wrn := (d.bits[posw + 1]?).getD false
      if crc8 d.bits 0 ≠ d.crc then s1.srcErr ch 8 26
      else
        let s1 := if wrn then s1.setBit (Reg.SRC_STAT ch) 6 true else s1
        if alm then s1.srcErr ch 10 28
        else s1.setChan ch { c with reading := none, good := some (v, st), ready := true }
    | _ => s1

/-- No acknowledge within 20 us: the read fails with NOACK (R108). -/
def ackTimeout (ch : Nat) (s : State) : State :=
  match (s.chan ch).reading with
  | some _ =>
    if s.chMode ch = 4 then
      (s.setChan ch { s.chan ch with reading := none, ready := false }).setBit (Reg.FBK_CH_LSTAT ch) 31 true
    else s
  | none => s

/-! ## Remote contexts (R110) -/

/-- A record of remote context r from an accepted frame of a cycle that began at tick base. A change of direction that a record with IDX shows
comes before its index event, the model's choice: no rule says which of the two was first (log entry 72) (R110, R111, R114 to R116). -/
def State.takeRecord (s : State) (r : Nat) (full : Bool) (bs : List Byte) (base : Nat) (cyc : Word) : State :=
  let n := 16 + r
  let smpt := s.fld (Reg.FBK_RCTX r) 16 0
  let t : Int := ((base + smpt : Nat) : Int)
  let w0 := leAt bs 0 4
  let fl := leAt bs 6 2
  let err := if full then fl.testBit 15 else w0.testBit 31
  let wrn := if full then fl.testBit 14 else w0.testBit 30
  if err then s.srcErr n 10 28
  else
    let s := if wrn then s.setBit (Reg.SRC_STAT n) 6 true else s
    if full then
      let age := fl % 4096
      let te := if age = 4095 then t else t - 4 * age
      let latched := fl.testBit 13
      -- the index event lies before the sample: the latch is rebuilt from the record's count (R110)
      let back := (w0 + 65536 - leAt bs 4 2) % 65536
      let v := s.bit (Reg.SRC_STAT n) 24
      let rawNew := if v then s.raw n + sgn 32 ((w0 + 2 ^ 32 - (s.source n).vPrev % 2 ^ 32) % 2 ^ 32) else (w0 : Int)
      let d := if v then sgn 32 ((w0 + 2 ^ 32 - (s.source n).vPrev % 2 ^ 32) % 2 ^ 32) else 0
      let s1 := ((s.setSource n { s.source n with vPrev := w0 }).adopt n).setRaw n rawNew
      let s2 := if d = 0 then s1 else s1.countEdge n te d cyc (smpt * 32)
      (if latched then s2.indexAt n (rawNew - back) cyc (smpt * 32) else s2).sampled n t
    else s.takeValue n 24 (w0 % 2 ^ 24) t t cyc (smpt * 32)

/-! ## Delta-sigma inputs (R122 to R124) -/

/-- Level of an input a ticks before the tick it is given up to: each younger change turned it over (R122). -/
def lineAt (l : DsmLine) (a : Nat) : Bool := l.level != ((l.ages.filter (fun c => decide (c < a))).length % 2 == 1)

/-- k + 2 over 2 for k = 0, 1, ..., and 0 for a negative k. -/
def tri (k : Int) : Nat := if k < 0 then 0 else (k.toNat + 1) * (k.toNat + 2) / 2

/-- Weight of the k-th bit of a sinc3 filter of decimation ratio n, k = 0 being the newest: the coefficients of
((1 - z^n) / (1 - z))^3, whose sum is n^3 (R123, R124). -/
def sincWeight (n k : Nat) : Nat := (tri k + 3 * tri ((k : Int) - 2 * n)) - 3 * tri ((k : Int) - n)

/-- Age at tick t of the k-th last instant at which an input with the given SKEW is sampled; DSM_CLK rises every div ticks (R122). -/
def dsmAge (t div skew k : Nat) : Nat := (t + div * (2 + skew / div) - skew - Config.dsmPhase % div) % div + k * div

/-- Output of the filter of input i at tick t: the weighted sum of its 3 × OSR - 2 last bits. A bit from before DSM_CLK ran is free (R123). -/
def State.sincOut (s : State) (i : Nat) (l : DsmLine) (t since : Nat) : Nat :=
  let cfg := Reg.FBK_DSM_CFG i
  let osr := s.fld cfg 8 0
  (List.range (3 * osr - 2)).foldl (fun y k =>
    let a := dsmAge t (s.fld Reg.FBK_DSMCLK 5 0) (s.fld cfg 29 27) k
    if (if since + a ≤ t then lineAt l a else Config.dsmBit i (s.free + k)) then y + sincWeight osr k else y) 0

/-- Result of input i at a valley in tick t. While DSM_CLK does not run an enabled input delivers nothing and keeps RES and CLIP, the model's
choice: no rule names the case (log entry 70) (R122 to R124). -/
def State.dsmResult (s : State) (i : Nat) (l : DsmLine) (t : Nat) : State :=
  let cfg := Reg.FBK_DSM_CFG i
  let osr := s.fld cfg 8 0
  match s.fbk.clkAt with
  | none => s
  | some since =>
  if s.bit cfg 31 && decide (16 ≤ osr ∧ osr ≤ 256) then
    let o3 := osr * osr * osr
    let y := s.sincOut i l t since
    let s := s.takeFree
    let y := if s.bit cfg 30 then o3 - y else y
    let q := sat16 (rneDiv (32768 * (2 * (y : Int) - o3)) o3)
    let cal := s.rd (Reg.FBK_DSM_CAL i)
    let res := sat16 (rneDiv ((q - loS cal) * hiS cal) 16384)
    let s1 := s.setFld (Reg.FBK_DSM_RES i) 15 0 (wrapN 16 res)
    if y = 0 ∨ y = o3 then (s1.setBit (Reg.FBK_DSM_RES i) 31 true).fbkEvt 24 else s1
  else s

/-- A write of FBK_DSMCLK, by its effect f on the register: DSM_CLK starts when EN becomes 1, and stops when it becomes 0 (R122). -/
def State.dsmClk (s : State) (f : State → State) : State :=
  let t := f s
  if t.bit Reg.FBK_DSMCLK 31 then (if s.fbk.clkAt.isSome then t else { t with fbk := { t.fbk with clkAt := some s.tb.tick } })
  else { t with fbk := { t.fbk with clkAt := none } }

/-! ## Pass-through commands (R119, R120) -/

/-- A re-emitting output copies its channel's unfiltered inputs; INV swaps A and B (R119). -/
def passThroughReemit (m : Nat) (a b z : Bool) (s : State) : State :=
  if s.fld (Reg.FBK_PT_CFG m) 31 30 = 1 then
    let ch := s.fld (Reg.FBK_PT_CFG m) 25 16
    let inv := s.bit (Reg.FBK_PT_CFG m) 29
    (s.setChan ch { s.chan ch with ua := a, ub := b, uz := z }).setPout m
      { s.pout m with a := if inv then b else a, b := if inv then a else b, z := z }
  else s

/-- The tick from which the next edge of an emulating output comes: the edges lie evenly over an interval as long as the last sample interval,
rounded down to a tick, and no closer than MINEDGE (R120; log entry 73). -/
def PassOut.dueAt (p : PassOut) : Int := max (p.smpT + p.done * p.smpI / p.smpN) p.free

/-- An emulating output steps one count toward its target at a tick of the running cycle (R120). -/
def emulationEdge (m tick : Nat) (s : State) : State :=
  let p := s.pout m
  let t : Int := ((s.tick0 + tick : Nat) : Int)
  if s.emulates m ∧ p.left ≠ 0 ∧ p.dueAt ≤ t then
    ((s.setPout m { p with out := p.out + sgn1 p.left, done := p.done + 1, free := t + s.fld (Reg.FBK_PT_CFG m) 7 0 }).ptPins m).ptShow m
  else s

/-! ## Origins and limits (R113) -/

/-- A write of SRC_ORGHI: both halves take effect at the next sample. -/
def State.originPair (s : State) (n : Nat) (v : Word) : State :=
  let h := wFld v 15 0
  (s.wr (Reg.SRC_ORGHI n) (word h)).setSource n { s.source n with orgNew := some (h * 2 ^ 32 + (s.rd (Reg.SRC_ORGLO n)).toNat) }

/-- A write of SRC_LIMHI: the pair takes effect at the next sample, or is refused. -/
def State.limitPair (s : State) (n : Nat) (v : Word) : State :=
  let lo := s32 (s.rd (Reg.SRC_LIMLO n))
  if s32 v < lo then s.fbkEvt 22
  else (s.wr (Reg.SRC_LIMHI n) v).setSource n { s.source n with limNew := some (lo, s32 v) }

/-- A binding of source n is written: in MAINTENANCE, the source restarts when CONFIGURE ends (R102). -/
def State.bindSource (s : State) (n : Nat) : State :=
  if s.mode = mMAINTENANCE then s.setSource n { s.source n with rebind := true } else s

/-! ## Starts (R102) -/

/-- Start source n: its accumulator, index latch, direction state and estimator; origin and limits in force stay (R102, R117). -/
def State.startSource (s : State) (n : Nat) : State :=
  let c := s.source n
  let now : Int := (s.tb.tick : Int)
  let s1 := s.setSource n { org := c.org, orgNew := c.orgNew, limLo := c.limLo, limHi := c.limHi, limNew := c.limNew,
                            tLast := now, tMark := now, tSample := now, idxCfg := s.rd (Reg.SRC_IDXCFG n), sst := s.rd (Reg.SRC_SST n) }
  let s1 := s1.wr (Reg.SRC_STAT n) (s.rd (Reg.SRC_STAT n) &&& 0x0000FFC0)
  let s1 := ((s1.setRaw n 0).wr (Reg.SRC_SPD n) 0).wr (Reg.SRC_IDXLO n) 0
  if n < 16 then s1.setChan n { s1.chan n with cnt := 0, reading := none, good := none, ready := false, smpAt := none } else s1

/-! ## The commands without register writes -/

def execQuadratureCount (ch : Fin 16) (tick : Nat) (a b : Level) (s : State) : Host.Outcome State Fault Refusal :=
  .next (quadratureCount ch tick a.level b.level a.age b.age s)
def execPulseCount (ch : Fin 16) (a : Rise) (b : Level) (s : State) : Host.Outcome State Fault Refusal :=
  .next (pulseCount ch a.tick b.level a.age b.age s)
def execIndexEvent (z : IndexPulse) (s : State) : Host.Outcome State Fault Refusal := .next (indexEvent z.ch z.at'.tick z.at'.age s)
def execFeedbackSample (ch : Fin 16) (tick : Nat) (s : State) : Host.Outcome State Fault Refusal := .next (feedbackSample ch tick s)
def execSerialReadStart (ch : Fin 16) (tick : Nat) (s : State) : Host.Outcome State Fault Refusal := .next (serialReadStart ch tick s)
def execSerialReadDone (ch : Fin 16) (d : SerialData) (s : State) : Host.Outcome State Fault Refusal := .next (serialReadDone ch d s)
def execAckTimeout (ch : Fin 16) (s : State) : Host.Outcome State Fault Refusal := .next (ackTimeout ch s)
def execPassThroughReemit (m : Fin 8) (a b z : Bool) (s : State) : Host.Outcome State Fault Refusal := .next (passThroughReemit m a b z s)
def execEmulationEdge (m : InstTick) (s : State) : Host.Outcome State Fault Refusal := .next (emulationEdge m.n m.tick s)

end Sys2Proof.Machine
end

