-- ==== Sys2Proof/Machine/LawMath.lean ====
section
/-! DEFINITION. The arithmetic of the frame unit and the position unit: sine and cosine within 1 step (R41), Clarke and Park (R41),
the electrical angle (R42), position and velocity errors (R38 to R40), space-vector duties (R47). -/

namespace Sys2Proof.Machine

/-- 2^80 times pi, rounded down. -/
def piQ : Nat := 3797952473636338580787993

/-- Partial sums of the sine series from term t (2^64 units), x2 = x^2 in 2^64 units, at odd order n. -/
def sinTerms (x2 : Int) : Nat → Int → Int → Int → Int
  | 0, _, _, acc => acc
  | k + 1, t, n, acc => sinTerms x2 k (-(t * x2 / 2 ^ 64 / ((n + 1) * (n + 2)))) (n + 2) (acc + t)

/-- sin(2 pi th / 65536) in units of 2^-64, for th in [0, 16384]. -/
def sinQuad (th : Nat) : Int :=
  let x : Int := (th * piQ / 2 ^ 31 : Nat)
  sinTerms (x * x / 2 ^ 64) 16 x 1 0

/-- sin(2 pi th / 65536) in units of 2^-64, from one quadrant (exact at the quadrant ends up to the series' error). -/
def sin64 (th : Nat) : Int :=
  let t := th % 65536
  let q := t / 16384
  let r := t % 16384
  match q with
  | 0 => sinQuad r
  | 1 => sinQuad (16384 - r)
  | 2 => -(sinQuad r)
  | _ => -(sinQuad (16384 - r))

/-- The least and greatest Q1.15 values within 1 step of the true sine (R41). -/
def sinBounds (th : Nat) : Int × Int :=
  let t := th % 65536
  if t % 16384 = 0 then
    let v : Int := if t = 16384 then 32768 else if t = 49152 then -32768 else 0
    (sat16 (v - 1), sat16 (v + 1))
  else
    let lo := sin64 t / 2 ^ 49
    (sat16 lo, sat16 (lo + 1))

/-- The value within the bounds that a free number picks. -/
def within (b : Int × Int) (k : Nat) : Int := b.1 + (k % ((b.2 - b.1).toNat + 1) : Nat)

/-- The sine the frame unit uses: a value within 1 step of the true Q1.15 value, which one is left open (R41). -/
def sinQ (th : Nat) : Int := within (sinBounds th) (Config.sinPick (th % 65536))

/-- The cosine: within 1 step of the true value too, a sine a quarter turn ahead, by a choice of its own (R41). -/
def cosQ (th : Nat) : Int := within (sinBounds (th + 16384)) (Config.sinPick (65536 + th % 65536))

/-- rne(x / sqrt 3): no multiple of 1/2 but 0 is a value of x / sqrt 3, so no tie arises. -/
def rneSqrt3 (x : Int) : Int :=
  let m := (isqrt (4 * (x.natAbs * x.natAbs) / 3) + 1) / 2
  if x < 0 then -(m : Int) else m

/-- Clarke transform of iu, iv, iw by LAW_ECOMM.CLARKE: three currents, two, or none (R41). -/
def clarke (mode : Nat) (i : List Int) : Int × Int :=
  let u := intAt i 0
  let v := intAt i 1
  let w := intAt i 2
  match mode with
  | 0 => (sat16 (rneDiv (2 * u - v - w) 3), sat16 (rneSqrt3 (v - w)))
  | 1 => (u, sat16 (rneSqrt3 (u + 2 * v)))
  | _ => (0, 0)

/-- Park transform at an angle (R41). -/
def park (th : Nat) (i : Int × Int) : Int × Int :=
  (sat16 (rneDiv (i.1 * cosQ th + i.2 * sinQ th) 32768), sat16 (rneDiv (-(i.1 * sinQ th) + i.2 * cosQ th) 32768))

/-- θin from the raw accumulator of the commutation source (R42). -/
def thetaIn (raw : Int) (ecpr emul : Nat) (offs : Nat) : Nat :=
  wrapN 16 ((((raw % (ecpr : Int)) * emul) / 65536 : Int) - offs)

/-- θout = θin + round(ADV × M6 / 2^15) as signed 16 bits (R42). -/
def thetaOut (th : Nat) (adv m6 : Int) : Nat := wrapN 16 (th + rneDiv (adv * m6) 32768)

/-- Δ in linear mode (R38) or modulo mode with period m (R39). -/
def posDelta (modulo : Bool) (ref pos raw : Int) (m : Nat) : Int :=
  if modulo then (ref - raw + (m / 2 : Nat)) % (m : Int) - (m / 2 : Nat) else ref - pos

/-- Duty candidates: the exact duty in units of 2^-40 step, rounded within the 0.01 step the spec allows (R47). -/
def dutyRound (d : Int) : Nat :=
  let tol : Int := 10995116277
  let lo := rneDiv (d - tol) (2 ^ 40)
  let hi := rneDiv (d + tol) (2 ^ 40)
  (clampI 0 32767 (if Config.dutyPick d then hi else lo)).toNat

/-- Steps 1 to 6 of R47 from vd, vq, VLIM and θout: the three duties, and whether the vector limit acted. -/
def svm (vd vq : Int) (vlim th : Nat) : List Nat × Bool :=
  let n2 := vd.natAbs * vd.natAbs + vq.natAbs * vq.natAbs
  let lim := decide (vlim * vlim < n2)
  let root : Nat := isqrt (n2 * 2 ^ 80)
  -- components in units of 2^-40 step
  let sd : Int := if lim then vd * (vlim * 2 ^ 80 : Nat) / (root : Int) else vd * 2 ^ 40
  let sq : Int := if lim then vq * (vlim * 2 ^ 80 : Nat) / (root : Int) else vq * 2 ^ 40
  let al := (sd * cosQ th - sq * sinQ th) / 32768
  let be := (sd * sinQ th + sq * cosQ th) / 32768
  let h : Int := be * (isqrt (3 * 2 ^ 126) : Nat) / 2 ^ 64
  let vu := al
  let vv := -(al / 2) + h
  let vw := -(al / 2) - h
  let voff := (max vu (max vv vw) + min vu (min vv vw)) / 2
  ([vu, vv, vw].map (fun v => dutyRound (16384 * 2 ^ 40 + v - voff)), lim)

end Sys2Proof.Machine
end

