-- ==== Sys2Proof/Machine/Learner.lean ====
section
/-! DEFINITION. The position-indexed learner (chapter Position-indexed learner): tables in the Hall, index and correction at
frame-in, write-back at release, snapshots, zeroing. -/

namespace Sys2Proof.Machine

/-- The primary and secondary source of an axis (R101). -/
def State.primary (s : State) (a : Nat) : Nat := s.fld (Reg.FBK_AXSRC a) 25 16
def State.secondary (s : State) (a : Nat) : Nat := s.fld (Reg.FBK_AXSRC a) 9 0

/-- The learner of an axis is enabled (R85). -/
def State.lrnOn (s : State) (a : Nat) : Bool := s.bit (Reg.LRN_CFG a) 31

/-- Bins of an axis's table (R85). -/
def State.lrnBins (s : State) (a : Nat) : Nat :=
  match s.fld (Reg.LRN_CFG a) 28 27 with
  | 0 => 256
  | 1 => 1024
  | _ => 4096

/-- Hall offset of an axis's table (R85). -/
def State.lrnTable (s : State) (a : Nat) : Nat := s.fld Reg.LRN_REGION 22 16 * 65536 + s.fld (Reg.LRN_TBL a) 20 0

/-- A learner access was refused: recorded, STAT.DENY and LRN_EVT.DENY (R97, R284). -/
def State.lrnDeny (s : State) (a addr : Nat) (write : Bool) : State :=
  ((s.deny 10 addr write 1).setBit (Reg.LRN_STAT a) 22 true).lrnEvt 30

/-- A learner access met an uncorrectable error (R97). -/
def State.lrnHallErr (s : State) (a o : Nat) : State := ((s.setBit (Reg.LRN_STAT a) 23 true).lrnEvt 31).hallUncorr o

/-- Read bin b of axis a's table with MID 10; none where the read fails (R86, R97). -/
def State.lrnRead (s : State) (a b : Nat) : Option Int × State :=
  let o := s.lrnTable a + 2 * b
  if !s.allowed 10 (hallBase + o) 2 false then (none, s.lrnDeny a (hallBase + o) false)
  else if s.hallBad o then (none, s.lrnHallErr a o)
  else (some (sgn 16 (leNat (s.hallBytes o 2))), s)

/-- Write bin b with MID 10 unless it is refused; the flag says whether it was written (R97). -/
def State.lrnWrite (s : State) (a b : Nat) (v : Int) : State :=
  let o := s.lrnTable a + 2 * b
  if s.allowed 10 (hallBase + o) 2 true then s.hallWrite o (leBytes 2 (wrapN 16 v))
  else s.lrnDeny a (hallBase + o) true

/-- The snapshot that a job of cycle cyc uses: the one of its own cycle (R29, R95). -/
def State.snapOf (s : State) (a : Nat) (cyc : Word) : Snap :=
  let c := s.axis a
  if c.snap.cyc ≠ cyc ∧ c.prev.cyc = cyc then c.prev else c.snap

/-- The snapshot that axis a's own job of cycle cyc uses. The first job after a swap sees the new coefficients and the new set-points
together (R52), so after a swap it is the latest one. -/
def State.snapFor (s : State) (a : Nat) (cyc : Word) : Snap := if (s.axis a).swapped then (s.axis a).snap else s.snapOf a cyc

/-- The master latch that a job of cycle cyc uses (R88): raw value, speed, staleness. -/
def State.master (s : State) (a : Nat) (cyc : Word) : Int × Int × Bool :=
  let c := s.axis a
  if c.snap.cyc ≠ cyc ∧ c.prev.cyc = cyc then (c.pX, c.pSpd, c.pStale) else (c.mX, c.mSpd, c.mStale)

/-- The index source of R87 for a job of axis a: value x, period and speed (in Q24.8), from the job's own raw, θin and speed. -/
def State.lrnIndex (s : State) (a : Nat) (cyc : Word) (raw : Int) (th : Nat) (spd : Int) : Int × Nat × Int :=
  let m := s.fld (Reg.LRN_CFG a) 15 8
  let per := (s.rd (Reg.LRN_PER a)).toNat
  let org := s.rd (Reg.LRN_ORG a)
  match s.fld (Reg.LRN_CFG a) 30 29 with
  | 0 => (raw - s32 org, per, spd)
  | 1 => (th, 65536, spd)
  | 2 => ((s.master a cyc).1 - s32 org, per, (s.master a cyc).2.1)
  | _ => (((s.snapOf m cyc).pos.toNat : Int) - org.toNat, per, s32 (s.snapOf m cyc).vel)

/-- The correction of R90 from the read position num / den: c, whether the read failed, and the state after the reads. -/
def State.lrnCorrection (s : State) (a bins num den : Nat) : Int × Bool × State :=
  let b := num / den
  let (t0, s) := s.lrnRead a b
  let (t1, s) := s.lrnRead a ((b + 1) % bins)
  match t0, t1 with
  | some v0, some v1 => (sat16 (rneDiv (v0 * den + (v1 - v0) * (num % den : Nat)) den), false, s)
  | _, _ => (0, true, s)

/-- Reversal hold of R94 for a dispatched job: whether the job may not learn, and the kept sign and remaining hold. -/
def reversal (sign : Int) (hold rvh : Nat) (spd : Int) : Bool × Int × Nat :=
  let g := if spd = 0 then 0 else sgn1 spd
  if g ≠ 0 ∧ sign ≠ 0 ∧ g ≠ sign then (true, g, rvh)
  else
    let sign := if g ≠ 0 then g else sign
    if hold = 0 then (false, sign, 0) else (true, sign, hold - 1)

/-- Speed window of R93. -/
def inWindow (win : Word) (spd : Int) : Bool :=
  decide (spd ≠ 0) && decide (((wFld win 15 0 * 65536 : Nat) : Int) ≤ spd.natAbs) && decide ((spd.natAbs : Int) ≤ ((wFld win 31 16 * 65536 : Nat) : Int))

/-- Frame-in of the learner for a job of axis a (R87 to R94): the correction c, what the job carries, the state after it.
sat and err: whether the selected error element saturated and its value before injection, by element. A job whose own snapshot holds
UHOLD = 0 but that is dispatched once UHELD is set may not learn (R95); the CAUSE it shows, code 1, is the model's choice (log
entry 58). -/
def State.lrnFrameIn (s : State) (a : Nat) (cyc : Word) (raw : Int) (th : Nat) (spd : Int) (errs : List Int) (sats : List Bool) :
    Int × LearnJob × State :=
  if !s.lrnOn a then (0, {}, s)
  else
    let cfg := s.rd (Reg.LRN_CFG a)
    let c := s.axis a
    let sn := s.snapFor a cyc
    let bins := s.lrnBins a
    let (x, per, sp) := s.lrnIndex a cyc raw th spd
    let num := (x % (per : Int)).toNat * bins
    let rv := reversal c.sign c.hold (wFld cfg 7 0) sp
    let s := s.setAxis a { c with sign := rv.2.1, hold := rv.2.2 }
    let skip := sn.ioff || c.zeroRun
    let (v, fail, s) := if skip then (0, false, s) else s.lrnCorrection a bins num per
    let esel := wFld cfg 26 25
    let dirm := wFld cfg 24 23
    let masked := dirm == 3 || (dirm == 1 && decide (sp < 0)) || (dirm == 2 && decide (0 < sp))
    let code (i : Nat) (b : Bool) : Nat := if b then 2 ^ i else 0
    let codes := code 1 (sn.uhold || s.bit (Reg.LRN_STAT a) 31) + code 2 c.zeroRun + code 3 fail + code 5 sn.sfrz
      + code 6 (wFld cfg 30 29 == 2 && (s.master a cyc).2.2) + code 7 (!inWindow sn.win sp) + code 8 rv.1 + code 9 masked
      + code 10 ((sats[esel]?).getD false)
    let j : LearnJob := { on := true, bins := bins, num := num, den := per, spd := sp, err := intAt errs esel,
                          codes := codes, gain := sn.gain, filt := sn.filt }
    (v, j, s.wr (Reg.LRN_LAST a) (pack16 ((num * 16 / per : Nat) : Int) v))

/-- One bin's new value (R91): weight lam / d. -/
def lrnBinNew (t : Int) (j : LearnJob) (lam d : Nat) : Int :=
  let gsh := wFld j.gain 15 12
  let k : Nat := d * 2 ^ (15 + gsh)
  sat16 (rneDiv (t * (65536 - wFld j.filt 31 16 : Nat) * k + hiS j.gain * j.err * lam * 65536) (65536 * k))

/-- Write back one bin unless its weight is 0 or its access fails (R91, R97). -/
def State.lrnBin (s : State) (a b : Nat) (j : LearnJob) (lam d : Nat) : State :=
  if lam = 0 then s
  else match s.lrnRead a b with
    | (some t, s) => s.lrnWrite a b (lrnBinNew t j lam d)
    | (none, s) => s

/-- The lowest code of R92 among bits 1 to 10, 0 where none is set. -/
def lowestCode (codes : Nat) : Nat := ((lowest 11 (fun i => decide (i ≠ 0) && codes.testBit i)).getD 0)

/-- The end of a dispatched job for the learner: the table is updated, or the job records why it is not (R91, R92). -/
def State.lrnEnd (s : State) (a : Nat) (j : LearnJob) (late : Bool) : State :=
  if !j.on then s
  else
    let codes := j.codes ||| (if late then 16 else 0) ||| (if (s.axis a).zeroRun then 4 else 0)
    let cause := lowestCode codes
    let s := (s.setFld (Reg.LRN_STAT a) 27 24 cause).setBit (Reg.LRN_STAT a) 28 (decide (cause ≠ 0))
    if cause ≠ 0 then (s.inc (Reg.LRN_FCNT a)).inc Reg.LRN_FRZ_CNT
    else
      let d := 256 * j.den
      let q := (((j.num * 256 : Nat) : Int) - sgn1 j.spd * loS j.filt * j.den) % ((j.bins * d : Nat) : Int)
      let b := q.toNat / d
      let nu := q.toNat % d
      let s := s.lrnBin a b j (d - nu) d
      let s := s.lrnBin a ((b + 1) % j.bins) j nu d
      (s.inc (Reg.LRN_UCNT a)).inc Reg.LRN_UPD_CNT

/-- A write-back of the axis is outstanding: a job whose snapshot held UHOLD = 0 is on a lane (R95). -/
def State.lrnOutstanding (s : State) (a : Nat) : Bool :=
  (List.range 18).any (fun n => match (s.lane n).job with
    | some j => j.axis == a && j.learn.on && !j.learn.codes.testBit 1
    | none => false)

/-- Tick 0 for an axis's learner, after its snapshot was taken: UHELD and IOFFD, start of a requested ZERO, master latch
(R88, R95, R96). -/
def State.lrnTick0 (s : State) (a : Nat) : State :=
  let c := s.axis a
  let zeroing := s.bit (Reg.LRN_STAT a) 29
  let m := s.primary (s.fld (Reg.LRN_CFG a) 15 8)
  let latch := s.lrnOn a && s.fld (Reg.LRN_CFG a) 30 29 == 2
  let stale := latch && !(s.source m).fresh
  let c := { c with zeroRun := zeroing, pX := c.mX, pSpd := c.mSpd, pStale := c.mStale,
                    mX := if latch then s.raw m else c.mX, mSpd := if latch then s32 (s.rd (Reg.SRC_SPD m)) else c.mSpd,
                    mStale := stale }
  let held := c.snap.uhold && (s.bit (Reg.LRN_STAT a) 31 || !s.lrnOutstanding a)
  let s := (s.setAxis a c).wr (Reg.LRN_STAT a)
    (wSetBit (wSetBit (s.rd (Reg.LRN_STAT a)) 31 held) 30 c.snap.ioff)
  if stale then (s.setBit (Reg.LRN_STAT a) 21 true).lrnEvt 29 else s

/-- LRN_CTRLn.ZERO is written: the table is zeroed from the next tick 0, unless the axis has no learner or one is requested or
running (R96). The rule does not say whether ZEROING is set at the write or at that tick 0: the model sets it at the write (log
entry 58). -/
def State.lrnZeroReq (s : State) (a : Nat) : State :=
  if s.lrnOn a && decide (s.fld Reg.LRN_REGION 5 0 ≠ 0) && !s.bit (Reg.LRN_STAT a) 29 then s.setBit (Reg.LRN_STAT a) 29 true
  else s

/-- The 64-bit writes of a zeroing run, each refused or carried out with fresh check bits (R96). -/
def State.lrnZeroUnits (s : State) (a : Nat) : Nat → Nat → State
  | 0, _ => s
  | k + 1, o =>
    if s.allowed 10 (hallBase + o) 8 true then
      let s := s.hallWrite o (leBytes 8 0)
      State.lrnZeroUnits { s with hall := { s.hall with bad := s.hall.bad.filter (fun u => u != o / 8) } } a k (o + 8)
    else (s.lrnDeny a (hallBase + o) true).lrnZeroUnits a k (o + 8)

/-- The zeroing run completes (R96). -/
def lrnZeroDone (a : Nat) (s : State) : State :=
  if s.bit (Reg.LRN_STAT a) 29 && (s.axis a).zeroRun then
    let s := s.lrnZeroUnits a (s.lrnBins a / 4) (s.lrnTable a)
    let s := s.setAxis a { s.axis a with zeroRun := false, sign := 0 }
    (s.setBit (Reg.LRN_STAT a) 29 false).lrnEvt 28
  else s

/-! ## The commands without register writes -/

def execLrnZeroDone (a : Fin 256) (s : State) : Host.Outcome State Fault Refusal := .next (lrnZeroDone a s)

end Sys2Proof.Machine
end

