-- ==== Sys2Proof/Machine/Lane.lean ====
section
/-! DEFINITION. Law jobs on the Gallery lanes: queueing and dispatch (R20, R57, R58), frame-in (R38 to R44), the lane instructions
(R59 to R71), frame-out (R46, R47), completion and the margin monitor (R78 to R82), release and holds (R25 to R27, R48, R49, R54). -/

namespace Sys2Proof.Machine

/-! ## Routes and the queue of level 7 -/

/-- Axis a runs its law in cycle cyc: EN, and the cycle counter modulo D equals P (R18, R50). -/
def State.due (s : State) (a : Nat) (cyc : Word) : Bool :=
  s.bit (Reg.LAW_CFG a) 31 && cyc.toNat % 2 ^ wFld (s.lawRoute a) 31 30 == wFld (s.lawRoute a) 29 27

/-- The trigger of axis a is t (R20). -/
def State.triggeredBy (s : State) (a : Nat) (t : Trigger) : Bool :=
  let r := s.lawRoute a
  match t with
  | .slot g k => !wBit r 26 && wFld r 25 22 == g && wFld r 21 17 == k
  | .group g => wBit r 26 && wFld r 25 22 == g

/-- The law program of an axis (R34). -/
def State.progOf (s : State) (a : Nat) : Nat := s.fld (Reg.LAW_CFG a) 27 24

/-- A trigger of cycle cyc queues one job for each due axis, in order of TPOS, in the modes in which laws run and for programs that
passed their check; rel: the release instant in ticks from tick 0 of that cycle (R20, R22, R57, R72, R340). The spec gives an order for
the jobs of one feedback frame alone (R57); the axes of one strobe, and axes of equal TPOS, come by TPOS and then by axis number, the
model's choice (log entry 39). -/
def State.queueJobs (s : State) (t : Trigger) (cyc : Word) (rel : Nat) : State :=
  if !s.lawsRun then s
  else
    let new := (List.range 4).flatMap (fun p => (List.range 256).filterMap (fun a =>
      if wFld (s.lawRoute a) 16 15 == p && s.triggeredBy a t && s.due a cyc && s.bit (Reg.GAL_PROG_INFO (s.progOf a)) 31
      then some ⟨a, cyc, rel, false⟩ else none))
    (s.setLawJobs (s.law.jobs ++ new)).lvlPeak 7 (s.law.jobs ++ new).length

/-- A job of the axis is queued or on a lane (R52). -/
def State.inFlight (s : State) (a : Nat) : Bool :=
  s.law.jobs.any (fun j => j.axis == a) || (List.range 18).any (fun n => match (s.lane n).job with
    | some j => j.axis == a
    | none => false)

/-- Lanes that hold a job. -/
def State.lanesBusy (s : State) : Nat := countN 18 (fun n => (s.lane n).job.isSome)

/-- The lane that dispatch chooses: the lowest free active lane, else the lowest free marked one (R57). -/
def State.freeLane (s : State) : Option Nat :=
  match lowest 18 (fun n => (s.lane n).state == 0 && (s.lane n).job.isNone) with
  | some n => some n
  | none => lowest 18 (fun n => (s.lane n).state == 2 && (s.lane n).job.isNone)

/-! ## Frame-in -/

/-- The raw accumulator that ESRC names; none for 0x3F (R42, R101). -/
def State.commRaw (s : State) (a : Nat) : Option Int :=
  let e := s.fld (Reg.LAW_ECOMM a) 21 16
  if e < 16 then some (s.raw e)
  else if e = 16 then some (s.raw (s.primary a))
  else if e = 17 then some (s.raw (s.secondary a))
  else none

/-- What the frame unit and the position unit form for a job (R38 to R42). -/
structure FrameIn where
  e : List Int
  sats : List Bool
  id : Int
  iq : Int
  m6 : Int
  thIn : Nat
  thOut : Nat
  deriving DecidableEq, Repr

/-- Frame-in for a job of axis a in cycle cyc (R38 to R42). -/
def State.frameIn (s : State) (a : Nat) (cyc : Word) : FrameIn :=
  let sn := s.snapFor a cyc
  let esc := s.rd (Reg.LAW_ESCALE a)
  let eco := s.rd (Reg.LAW_ECOMM a)
  let offs := s.fld (Reg.LAW_EVEC a) 15 0
  let src := s.primary a
  let spd := s32 (s.rd (Reg.SRC_SPD src))
  let vsh := min (wFld esc 12 8) 24
  let d := posDelta (wBit esc 31) (s32 sn.pos) (s32 (s.rd (Reg.SRC_POS src))) (s.raw src) (s.rd (Reg.LAW_MODULO a)).toNat
  let e0 := rneDiv d (2 ^ wFld esc 3 0)
  let e1 := rneDiv (s32 sn.vel - spd) (2 ^ vsh)
  let m6 := sat16 (rneDiv spd (2 ^ vsh))
  let th := match s.commRaw a with
    | some r => thetaIn r (s.rd (Reg.LAW_ECPR a)).toNat (s.rd (Reg.LAW_EMUL a)).toNat offs
    | none => wrapN 16 (-(offs : Int))
  let dq := if wFld eco 31 30 = 2 then (0, 0) else park th (clarke (wFld eco 31 30) (s.axis a).cur)
  let e2 := loS sn.cur - dq.1
  let e3 := hiS sn.cur - dq.2
  { e := [e0, e1, e2, e3].map sat16, sats := [e0, e1, e2, e3].map (fun v => decide (sat16 v ≠ v)),
    id := dq.1, iq := dq.2, m6 := m6, thIn := th, thOut := thetaOut th (loS eco) m6 }

/-- The error vector after reference injection by LINJ, and whether the injection saturated (R44). -/
def inject (linj : Nat) (e : List Int) (c : Int) : List Int × Bool :=
  if 1 ≤ linj ∧ linj ≤ 4 then
    let v := intAt e (linj - 1) + c
    (setAt e (linj - 1) (sat16 v), decide (sat16 v ≠ v))
  else (e, false)

/-- Word w of the active bank of axis a, as the C-bus and the loads at dispatch read it (R55, R58, R61). -/
def State.cbus (s : State) (a w : Nat) : Word := s.rd (Reg.LAW_ACT_BANK a w)

/-- The job that a lane starts at dispatch (R58, R62), after frame-in. -/
def State.startJob (s : State) (q : LawJob) : LaneJob × State :=
  let a := q.axis
  let cfg := s.rd (Reg.LAW_CFG a)
  let sn := s.snapFor a q.cyc
  let f := s.frameIn a q.cyc
  let spd := s32 (s.rd (Reg.SRC_SPD (s.primary a)))
  let (c, lj, s) := s.lrnFrameIn a q.cyc (s.raw (s.primary a)) f.thIn spd f.e f.sats
  let inj := inject (wFld cfg 8 6) f.e c
  ({ axis := a, cyc := q.cyc, rel := q.rel, cfg := cfg,
     rowShift := s.cbus a 47, rowSelf := s.cbus a 48, ulim0 := s.cbus a 49, ulim1 := s.cbus a 50,
     m := inj.1 ++ [f.id, f.iq, f.m6, loS sn.ff, hiS sn.ff, c], x := (s.axis a).x,
     thIn := f.thIn, thOut := f.thOut,
     posSat := (f.sats[0]?).getD false, velSat := (f.sats[1]?).getD false,
     curSat := (f.sats[2]?).getD false || (f.sats[3]?).getD false, injSat := inj.2,
     learn := lj, acc := List.replicate 8 {}, sfrz := sn.sfrz }, s)

/-- The first job of level 7 is given to a lane; where every active lane is occupied it waits, once counted (R57, R58). -/
def lawJobDispatch (s : State) : State :=
  match s.freeLane with
  | some n =>
    match s.law.jobs with
    | [] => s
    | q :: rest =>
      let (j, s) := (s.setLawJobs rest).startJob q
      let s := s.setLane n { s.lane n with job := some j }
      let s := (s.inc (Reg.GAL_LJOBS n)).wr (Reg.GAL_LLAST n) (mkFld 31 24 q.axis ||| mkFld 15 0 s.cycLo)
      if s.fld Reg.GAL_STAT 4 0 < s.lanesBusy then s.setFld Reg.GAL_STAT 4 0 s.lanesBusy else s
  | none =>
    match s.law.jobs.findIdx? (fun j => !j.waited) with
    | some i =>
      ((s.setLawJobs (s.law.jobs.modify i (fun j => { j with waited := true }))).inc Reg.GAL_DWAIT_CNT).galEvt 24
    | none => s

/-! ## The lane instructions -/

/-- Word w of program slot p (R74): words 104 to 127 read as 0. -/
def State.progWord (s : State) (p w : Nat) : Word := if w < 104 then s.rd (Reg.GAL_PROG (128 * p + w)) else 0

/-- Shape fields loaded at dispatch (R34). -/
def LaneJob.nx (j : LaneJob) : Nat := wFld j.cfg 22 20
def LaneJob.ne (j : LaneJob) : Nat := wFld j.cfg 19 17
def LaneJob.nu (j : LaneJob) : Nat := wFld j.cfg 16 15
def LaneJob.linj (j : LaneJob) : Nat := wFld j.cfg 8 6
def LaneJob.kind (j : LaneJob) : Nat := wFld j.cfg 30 28

/-- Word i is the upper word of a wide state (R37). -/
def LaneJob.wide (j : LaneJob) (i : Nat) : Bool := decide (i < 6) && wBit j.cfg (9 + i)

/-- Word i is the lower word of a wide pair (R37). -/
def LaneJob.wideLow (j : LaneJob) (i : Nat) : Bool := decide (0 < i) && j.wide (i - 1)

/-- The instruction word at the sequencer (R66). -/
def State.laneWord (s : State) (j : LaneJob) : Word := s.progWord (wFld j.cfg 27 24) j.pos

/-- Opcodes of R66. -/
def opNOP : Nat := 0
def opMAC : Nat := 1
def opSTX : Nat := 2
def opSTU : Nat := 3
def opLIM : Nat := 4
def opREP : Nat := 5

/-- The iteration number by which a word with RA or CSTR advances (R71): 0 outside a body. -/
def LaneJob.iter (j : LaneJob) : Nat := if j.inRep then j.repIter else 0

/-- After an instruction that is not REP: its E ends the program, a body goes on or repeats, else the next word follows (R70, R71). -/
def LaneJob.advance (j : LaneJob) (w : Word) : LaneJob :=
  if wBit w 28 then { j with ended := true }
  else if j.inRep && j.pos + 1 == j.repAt + j.repLen then
    if j.repIter + 1 < j.repCnt then { j with pos := j.repAt, repIter := j.repIter + 1 }
    else { j with pos := j.pos + 1, inRep := false }
  else { j with pos := j.pos + 1 }

/-- The value of operand code k (R43, R60): operands outside the axis's shape read as 0. -/
def LaneJob.operand (j : LaneJob) (k : Nat) : Int :=
  if k < 4 then (if k < j.ne then intAt j.m k else 0)
  else if k < 16 then intAt j.m k
  else if k < 22 then
    (if k - 16 < j.nx && !j.wideLow (k - 16) then sgn 16 ((j.x[k - 16]?).getD 0) else 0)
  else if k < 24 then (if k - 22 < j.nu then intAt j.w (k - 22) else 0)
  else 0

/-- An addition into an accumulator, modulo 2^40 with the sticky guard-overflow bit (R63). -/
def Acc.add (a : Acc) (v : Int) : Acc :=
  let t := a.val + v
  { val := sgn 40 (wrapN 40 t), st := a.st || decide (t < -(2 ^ 39) ∨ 2 ^ 39 ≤ t) }

/-- Accumulator k. -/
def LaneJob.accAt (j : LaneJob) (k : Nat) : Acc := (j.acc[k]?).getD {}

/-- The dual multiply-accumulate of word w with C-bus word co (R59, R62, R67). -/
def LaneJob.mac (j : LaneJob) (w co : Word) : LaneJob :=
  let r := if wBit w 27 then j.iter else 0
  let d0 := (wFld w 3 1 + r) % 8
  let d1 := (wFld w 11 9 + r) % 8
  let s0 := wFld w 8 4
  let s1 := wFld w 16 12
  let ps : Int := (4 ^ wFld w 24 23 : Nat)
  let p0 := loS co * j.operand s0 * ps
  let p1 := hiS co * j.operand s1 * ps
  if s0 ≠ 31 ∧ s1 ≠ 31 then
    if d0 = d1 then { j with acc := setAt j.acc d0 ((j.accAt d0).add (p0 + p1)) }
    else { j with acc := setAt (setAt j.acc d0 ((j.accAt d0).add p0)) d1 ((j.accAt d1).add p1) }
  else if s0 ≠ 31 then { j with acc := setAt j.acc d0 ((j.accAt d0).add p0) }
  else if s1 ≠ 31 then { j with acc := setAt j.acc d1 ((j.accAt d1).add p1) }
  else j

/-- C-bus address of a MAC word in the present iteration (R67, R71). -/
def LaneJob.caddr (j : LaneJob) (w : Word) : Nat := wFld w 22 17 + j.iter * wFld w 26 25

/-- The row shift at bit position b of ROWSHIFT (R55). -/
def LaneJob.shift (j : LaneJob) (b : Nat) : Int := sgn 4 (wFld j.rowShift (b + 3) b)

/-- The value a store writes into 16 bits (R64, R65). -/
def store16 (a : Acc) (sh : Int) (self : Bool) (x : Int) : Int :=
  if a.st then (if a.val < 0 then -32768 else 32767)
  else sat16 (rneDiv (a.val * (2 ^ (sh + 8).toNat : Nat) + (if self then x * 2 ^ 23 else 0)) (2 ^ 23))

/-- The value a store writes into a wide state (R64, R65). -/
def store32 (a : Acc) (sh : Int) (self : Bool) (x : Int) : Int :=
  if a.st then (if a.val < 0 then -2147483648 else 2147483647)
  else sat32 (rneDiv (a.val * (2 ^ (sh + 9).toNat : Nat) + (if self then x * 2 ^ 8 else 0)) (2 ^ 8))

/-- A store clears its accumulator and its sticky bit (R64). -/
def LaneJob.clearAcc (j : LaneJob) (k : Nat) : LaneJob := { j with acc := setAt j.acc k {} }

/-- IDX and ACC of a store or LIM in the present iteration (R68, R71). -/
def LaneJob.idx (j : LaneJob) (w : Word) : Nat := wFld w 5 3 + (if wBit w 27 then j.iter else 0)
def LaneJob.accOf (j : LaneJob) (w : Word) : Nat := (wFld w 2 0 + (if wBit w 27 then j.iter else 0)) % 8

/-- STX (R68): the new job, and whether the store wrote and was forced by guard overflow (R65). -/
def LaneJob.stx (j : LaneJob) (w : Word) : LaneJob × Bool :=
  let i := j.idx w
  let k := j.accOf w
  let a := j.accAt k
  if j.nx ≤ i ∨ 6 ≤ i ∨ j.wideLow i = true then (j.clearAcc k, false)
  else
    let sh := j.shift (4 * i)
    let self := wBit j.rowSelf i
    let xi := (j.x[i]?).getD 0
    if j.wide i then
      let v := wrapN 32 (store32 a sh self (sgn 32 (xi * 65536 + (j.x[i + 1]?).getD 0)))
      ({ (j.clearAcc k) with xNew := setAt (setAt j.xNew i (some (v / 65536))) (i + 1) (some (v % 65536)) }, a.st)
    else ({ (j.clearAcc k) with xNew := setAt j.xNew i (some (wrapN 16 (store16 a sh self (sgn 16 xi)))) }, a.st)

/-- STU (R68): output row shift, no self term. -/
def LaneJob.stu (j : LaneJob) (w : Word) : LaneJob × Bool :=
  let i := j.idx w
  let k := j.accOf w
  let a := j.accAt k
  if j.nu ≤ i ∨ 2 ≤ i then (j.clearAcc k, false)
  else ({ (j.clearAcc k) with u := setAt j.u i (store16 a (j.shift (24 + 4 * i)) false 0) }, a.st)

/-- LIM (R69, R45). -/
def LaneJob.lim (j : LaneJob) (w : Word) : LaneJob :=
  let i := j.idx w
  if j.nu ≤ i ∨ 2 ≤ i then j
  else
    let u := intAt j.u i + (if j.linj = 5 + i then intAt j.m 9 else 0)
    let b := if i = 0 then j.ulim0 else j.ulim1
    let us := if u < loS b then loS b else if hiS b < u then hiS b else u
    let sat := decide (us ≠ u)
    { j with us := setAt j.us i us, w := setAt j.w i (sat16 (us - u)),
             usat0 := if i = 0 then sat else j.usat0, usat1 := if i = 1 then sat else j.usat1 }

/-- Run f on the job of lane n when its next instruction has opcode op and the program has not ended (R66). -/
def State.laneStep (s : State) (n op : Nat) (f : LaneJob → Word → State → State) : State :=
  match (s.lane n).job with
  | none => s
  | some j =>
    let w := s.laneWord j
    if j.ended || wFld w 31 29 != op then s else f j w s

/-- Put a lane's job back after an instruction. -/
def State.putJob (s : State) (n : Nat) (j : LaneJob) : State := s.setLane n { s.lane n with job := some j }

/-- Effects of a store forced by guard overflow (R65, R48). -/
def State.forcedStore (s : State) (a : Nat) : State :=
  let s := ((s.inc (Reg.LAW_NUMEVT a)).setBit (Reg.LAW_STAT a) 29 true).setAxis a { s.axis a with fNum := true }
  (s.inc Reg.GAL_GOV_CNT).galEvt 27

def laneNop (n : Nat) (s : State) : State := s.laneStep n opNOP (fun j w s => s.putJob n (j.advance w))

def laneMac (n : Nat) (s : State) : State :=
  s.laneStep n opMAC (fun j w s => s.putJob n ((j.mac w (s.cbus j.axis (j.caddr w))).advance w))

def laneStx (n : Nat) (s : State) : State :=
  s.laneStep n opSTX (fun j w s =>
    let r := j.stx w
    (s.putJob n (r.1.advance w)).when r.2 (fun s => s.forcedStore j.axis))

def laneStu (n : Nat) (s : State) : State :=
  s.laneStep n opSTU (fun j w s =>
    let r := j.stu w
    (s.putJob n (r.1.advance w)).when r.2 (fun s => s.forcedStore j.axis))

def laneLim (n : Nat) (s : State) : State := s.laneStep n opLIM (fun j w s => s.putJob n ((j.lim w).advance w))

/-- REP opens its body (R71). -/
def laneRep (n : Nat) (s : State) : State :=
  s.laneStep n opREP (fun j w s => s.putJob n
    { j with pos := j.pos + 1, inRep := true, repAt := j.pos + 1, repLen := wFld w 12 8 + 1, repCnt := wFld w 3 0 + 1, repIter := 0 })

/-! ## Destinations and holds -/

/-- A halfword of an axis field. -/
def cmdHalf (c : BitVec 64) (i : Nat) : Nat := (c.toNat >>> (16 * i)) % 65536

/-- A release writes the shadow set of group g, unless firmware owns it or the group is stopped (R131). -/
def State.shadowRelease (s : State) (g : Nat) (c : BitVec 64) : State :=
  if s.bit (Reg.PWM_GRP_CFG g) 14 || !s.bit (Reg.PWM_GRP_STAT g) 31 then s
  else
    ((s.wr (Reg.PWM_GRP_SHDW01 g) (word (cmdHalf c 1 * 65536 + cmdHalf c 0))).wr (Reg.PWM_GRP_SHDW2 g) (word (cmdHalf c 2))).setBit
      (Reg.PWM_GRP_STAT g) 30 true

/-- The axis's last released command goes to its destination once more; a command slot reads it from the axis (R48, R160). -/
def State.redeliver (s : State) (a : Nat) : State :=
  let r := s.lawRoute a
  if wBit r 14 && (s.axis a).released then s.shadowRelease (wFld r 13 10) (s.axis a).cmd else s

/-- Hold for a late job (R26, R48, R57), a missing frame (R27), a stopped trigger group (R130). -/
def State.holdLate (s : State) (a : Nat) : State :=
  let s := ((s.setBit (Reg.LAW_STAT a) 31 true).inc (Reg.LAW_LATE_CNT a)).setAxis a { s.axis a with fLate := true }
  (s.redeliver a).capCond 7 (trigObj a)
def State.holdMiss (s : State) (a : Nat) : State :=
  let s := ((s.setBit (Reg.LAW_STAT a) 30 true).inc (Reg.LAW_MISS_CNT a)).setAxis a { s.axis a with fMiss := true }
  (s.redeliver a).capCond 7 (trigObj a)
def State.holdStop (s : State) (a : Nat) : State := (s.setBit (Reg.LAW_STAT a) 21 true).redeliver a

/-! ## Frame-out, completion, release -/

/-- The command field of R161 by KIND, the duties and whether the vector limit acted (R46, R47). A velocity that does not fit its 32 bits
wraps, the model's choice: the spec names neither saturation nor wrap (log entry 64). -/
def LaneJob.frameOut (j : LaneJob) (vlim vsh : Nat) : BitVec 64 × List Nat × Bool :=
  let u0 := intAt j.us 0
  let u1 := intAt j.us 1
  match j.kind with
  | 0 =>
    let r := svm u1 u0 vlim j.thOut
    let d (i : Nat) : Nat := (r.1[i]?).getD 0
    (BitVec.ofNat 64 (d 0 + 65536 * d 1 + 2 ^ 32 * d 2), r.1, r.2)
  | 1 => (BitVec.ofNat 64 (wrapN 16 u0 + 65536 * wrapN 16 u1), [0, 0, 0], false)
  | 2 => (BitVec.ofNat 64 (wrapN 32 (u0 * (2 ^ vsh : Nat)) + 2 ^ 32 * wrapN 16 u1), [0, 0, 0], false)
  | _ => (0, [0, 0, 0], false)

/-- The axis holds for a job that is late; once for each job (R26, R48, R92 code 4). -/
def State.lateHold (s : State) (n : Nat) (j : LaneJob) : State :=
  if j.held then s
  else ((s.putJob n { j with held := true }).lrnEnd j.axis j.learn true).holdLate j.axis

/-- The margin monitor's record of a completion: slack in 0.25 ns units, run count, least slack of the trend period (R78, R79, R407). -/
def State.slackRecord (s : State) (n : Nat) (slack : Int) (late : Bool) : State :=
  let v := s.rd (Reg.GAL_LSLK n)
  let s := s.wr (Reg.GAL_LSLK n) (pack16 (min (loS v) slack) slack)
  let run := s.fld (Reg.GAL_LRUN n) 12 0
  let s := s.setFld (Reg.GAL_LRUN n) 12 0 (if late ∨ slack < 40 then min 4096 (run + 1) else 0)
  s.setLane n { s.lane n with trend := min (s.lane n).trend slack }

/-- Frame-out has written the release latch; the completion is stamped (R25, R26, R78). -/
def lawJobComplete (n stamp : Nat) (s : State) : State :=
  match (s.lane n).job with
  | none => s
  | some j =>
    if !j.ended || j.latched then s
    else
      let late := j.held || decide (j.rel * 32 ≤ stamp)
      let slack := clampI (-32768) 32767 ((((j.rel * 32 : Nat) : Int) - stamp) * 5 / 16)
      let s := s.slackRecord n slack late
      let s := s.setAxis j.axis { s.axis j.axis with slack := slack, lane := n }
      if late then
        let s := s.lateHold n j
        let s := ((s.inc (Reg.GAL_LLATE n)).inc Reg.GAL_LATE_CNT).galEvt 28
        let s := s.setLane n { s.lane n with job := none }
        s.capEventAt 6 n 0 j.cyc stamp
      else
        let vsh := min (s.fld (Reg.LAW_ESCALE j.axis) 12 8) 24
        let f := j.frameOut (s.fld (Reg.LAW_EVEC j.axis) 31 16) vsh
        s.putJob n { j with latched := true, cmd := f.1, duty := f.2.1, vecLim := f.2.2 }

/-- The state words after a release: every word the job wrote, unless the state is frozen (R25, R49, R68). -/
def LaneJob.xAfter (j : LaneJob) (x : List Nat) : List Nat :=
  if j.sfrz then x
  else (List.range 6).map (fun i => ((j.xNew[i]?).getD none).getD ((x[i]?).getD 0))

/-- State words i and i + 1 packed (R54). -/
def packX (x : List Nat) (i : Nat) : Word := word ((x[i + 1]?).getD 0 * 65536 + (x[i]?).getD 0)

/-- Command to destination and state to axis context in one tick (R25, R54). -/
def State.releaseJob (s : State) (n : Nat) (j : LaneJob) : State :=
  let a := j.axis
  let c := s.axis a
  let x := j.xAfter c.x
  let s := s.setAxis a { c with x := x, cmd := j.cmd, released := true, id := intAt j.m 4, iq := intAt j.m 5, c := intAt j.m 9,
                                fRel := true, fU0 := c.fU0 || j.usat0, fU1 := c.fU1 || j.usat1, fVec := c.fVec || j.vecLim }
  let s := ((s.wr (Reg.LAW_X01 a) (packX x 0)).wr (Reg.LAW_X23 a) (packX x 2)).wr (Reg.LAW_X45 a) (packX x 4)
  let s := (s.wr (Reg.LAW_ERR01 a) (pack16 (intAt j.m 0) (intAt j.m 1))).wr (Reg.LAW_ERR23 a) (pack16 (intAt j.m 2) (intAt j.m 3))
  let s := s.wr (Reg.LAW_OUT a) (pack16 (intAt j.us 0) (intAt j.us 1))
  -- a job of another kind has no duties, and the spec gives the register no value then: a free one (log entry 63)
  let d (i : Nat) : Nat := if j.kind = 0 then (j.duty[i]?).getD 0 else (Config.noDuty (s.free * 3 + i)).toNat
  let s := s.when (j.kind != 0) State.takeFree
  let s := (s.wr (Reg.LAW_DUTY01 a) (word (d 1 * 65536 + d 0))).wr (Reg.LAW_DUTY2 a) (word (j.thIn * 65536 + d 2))
  let s := s.wr (Reg.LAW_REL_CYC a) j.cyc
  let s := s.orBits (Reg.LAW_STAT a) (mkBit 28 j.posSat ||| mkBit 27 j.velSat ||| mkBit 26 j.curSat ||| mkBit 25 j.injSat
    ||| mkBit 24 j.usat0 ||| mkBit 23 j.usat1 ||| mkBit 22 j.vecLim)
  let s := (s.setLane n { s.lane n with job := none }).redeliver a
  s.lrnEnd a j.learn false

/-- A job still waiting at its release instant is withdrawn and the axis holds as for a late job (R57). -/
def State.withdraw (s : State) (q : LawJob) : State :=
  let s := s.setLawJobs (s.law.jobs.filter (fun j => !(j.axis == q.axis && j.cyc == q.cyc)))
  if s.lawsRun then ((s.holdLate q.axis).inc Reg.GAL_LATE_CNT).galEvt 24 else s

/-- The release instant of a trigger's jobs on the lanes and at level 7 (R25, R26, R57). Where laws no longer run the latches
stay shut (R339); such a job ends without any trace in its learner, the model's choice (log entry 58). -/
def State.releaseJobs (s : State) (t : Trigger) : State :=
  let s := s.each (s.law.jobs.filter (fun q => s.triggeredBy q.axis t)) (fun q s => s.withdraw q)
  s.each (List.range 18) (fun n s =>
    match (s.lane n).job with
    | none => s
    | some j =>
      if !s.triggeredBy j.axis t || j.held then s
      else if !s.lawsRun then
        if j.latched then s.setLane n { s.lane n with job := none } else s.putJob n { j with held := true }
      else if j.latched then s.releaseJob n j
      else s.lateHold n j)

/-! ## Margin monitor, marks and spares -/

/-- The lowest-numbered spare lane (R81). -/
def State.spareLane (s : State) : Option Nat := lowest 18 (fun n => (s.lane n).state == 1)

/-- Mark a lane; with no spare it stays marked in service (R79, R82, R83). NOSPARE is judged when a lane is marked: a lane marked beside a
spare that later goes to another lane raises nothing, the model's choice (log entry 65). -/
def State.markLane (s : State) (n cause : Nat) : State :=
  let s := s.laneState n 2 cause
  let s := (s.setLane n { s.lane n with markTrend := (s.lane n).trend }).galEvt 25
  match s.spareLane with
  | some _ => s
  | none => (s.galEvt 30).record ⟨1, cause, true, false, n, 0xFFFF, wrapN 16 (s.lane n).markTrend⟩

/-- A spare lane takes the place of lane n, which retires if it was marked (R81, R84). -/
def State.laneSpareIn (s : State) (n : Nat) : State :=
  match s.spareLane with
  | none => s
  | some k =>
    let c := (s.lane n).cause
    let s := s.laneState k 0 (s.lane k).cause
    let s := if (s.lane n).state = 2 then s.laneState n 3 c else s
    (s.galEvt 31).record ⟨1, c, false, false, n, k, wrapN 16 (s.lane n).markTrend⟩

/-- The margin monitor at tick 0, and the replacement of marked lanes that hold no job (R79 to R82). -/
def State.laneTick0 (s : State) : State :=
  let cand := (List.range 18).filter (fun n => (s.lane n).state == 0 && s.fld (Reg.GAL_LRUN n) 12 0 == 4096)
  let s := match cand with
    | [] => s
    | [n] => s.markLane n 1
    | _ => (s.each cand (fun n s => s.setFld (Reg.GAL_LRUN n) 12 0 0)).galEvt 29
  s.each (List.range 18) (fun n s =>
    if (s.lane n).state == 2 && (s.lane n).job.isNone && s.spareLane.isSome then
      let s := s.laneSpareIn n
      { s with hst := { s.hst with spareIn := true } }
    else s)

/-- GAL_CTRL.RETIRE on a lane (R83). -/
def State.retireLane (s : State) (n : Nat) : State :=
  if 18 ≤ n then s
  else if (s.lane n).state = 0 then s.markLane n 2
  else if (s.lane n).state = 1 then s.laneState n 3 2
  else s

/-- GAL_CTRL.MINCLR (R78): every least slack and the peak. -/
def State.minClr (s : State) : State :=
  (s.each (List.range 18) (fun n s => s.setFld (Reg.GAL_LSLK n) 15 0 0x7FFF)).setFld Reg.GAL_STAT 4 0 0

/-! ## Coefficient staging (R51 to R53) -/

/-- A bank whose UMIN is greater than its UMAX in either output is refused (R45, R51). -/
def ulimBad (w : Word) : Bool := decide (hiS w < loS w)

/-- The swap of an axis takes place, or is refused (R51). -/
def State.swapNow (s : State) (a : Nat) (p : Swap) : State :=
  let c := s.axis a
  let s := s.setAxis a { c with swap := none, deferred := false }
  let st := wSetBit (s.rd (Reg.LAW_STG_STAT a)) 31 false
  if ulimBad (s.rd (Reg.LAW_STG_BANK a 49)) || ulimBad (s.rd (Reg.LAW_STG_BANK a 50)) then
    s.wr (Reg.LAW_STG_STAT a) (wSetBit st 25 true)
  else
    let s := s.each (List.range 51) (fun w s =>
      let u := s.rd (Reg.LAW_STG_BANK a w)
      (s.wr (Reg.LAW_STG_BANK a w) (s.rd (Reg.LAW_ACT_BANK a w))).wr (Reg.LAW_ACT_BANK a w) u)
    let half (r hi lo : Nat) : Nat := s.fld r hi lo
    let x := match p.init with
      | 1 => [0, 0, 0, 0, 0, 0]
      | 2 => [half (Reg.LAW_INIT01 a) 15 0, half (Reg.LAW_INIT01 a) 31 16, half (Reg.LAW_INIT23 a) 15 0,
              half (Reg.LAW_INIT23 a) 31 16, half (Reg.LAW_INIT45 a) 15 0, half (Reg.LAW_INIT45 a) 31 16]
      | _ => (s.axis a).x
    let st := wSetFld (wSetBit st 26 true) 15 0 s.cycLo
    let s := if s.bit Reg.PAIR_CFG 31 then { s with pair := { s.pair with banks := s.pair.banks.filter (fun b => b != a) ++ [a] } } else s
    (s.setAxis a { s.axis a with x := x, swapped := true }).wr (Reg.LAW_STG_STAT a) (if p.late || decide (0 < sdiff s.tb.cyc p.target) then wSetBit st 29 true else st)

/-- An armed swap at tick 0: its cycle has come, and it waits where a job is in flight (R51, R52). -/
def State.swapTick0 (s : State) (a : Nat) : State :=
  let c := s.axis a
  match c.swap with
  | none => s
  | some p =>
    if c.deferred || !(p.late || decide (0 ≤ sdiff s.tb.cyc p.target)) then s
    else if s.inFlight a then (s.setAxis a { c with deferred := true }).setBit (Reg.LAW_STG_STAT a) 28 true
    else s.swapNow a p

/-- The tick after the release instant, or the late completion, of the job a swap waited for (R52). -/
def deferredSwap (a : Nat) (s : State) : State :=
  match (s.axis a).swap with
  | none => s
  | some p => if (s.axis a).deferred && !s.inFlight a then s.swapNow a p else s

/-- A write to LAW_STG_CTRL (R51, R53): CANCEL wins over ARM, and a write that sets both COPY and ARM acts as COPY, its ARM ignored with
BUSY. The spec is silent on COPY while a copy runs, here ignored with BUSY, and on COPY beside CANCEL, here CANCEL first, then the copy,
with an ARM dropped in silence (log entry 66). -/
def State.stgCtrl (s : State) (a : Nat) (v : Word) : State :=
  let stat := Reg.LAW_STG_STAT a
  let s := s.setFld (Reg.LAW_STG_CTRL a) 1 0 (wFld v 1 0)
  let cancel := wBit v 30
  let s := if cancel then (s.setAxis a { s.axis a with swap := none, deferred := false }).setBit stat 31 false else s
  let s := if wBit v 29 then
      if s.bit stat 31 || s.bit stat 30 then s.setBit stat 27 true else s.setBit stat 30 true
    else s
  if wBit v 31 && !cancel then
    if wBit v 29 || s.bit stat 30 then s.setBit stat 27 true
    else
      let t := s.rd (Reg.LAW_STG_CYC a)
      (s.setAxis a { s.axis a with swap := some ⟨t, wFld v 1 0, decide (sdiff t s.tb.cyc ≤ 0)⟩, deferred := false }).setBit stat 31 true
  else s

/-- The copy of the active bank into the staged bank ends (R53). -/
def lawStgCopyDone (a : Nat) (s : State) : State :=
  if s.bit (Reg.LAW_STG_STAT a) 30 then
    (s.each (List.range 51) (fun w s => s.wr (Reg.LAW_STG_BANK a w) (s.rd (Reg.LAW_ACT_BANK a w)))).setBit (Reg.LAW_STG_STAT a) 30 false
  else s

/-- A write to the staged window or to LAW_INIT: ignored with BUSY while a swap is pending, the window also during a copy (R53). -/
def State.stagedWrite (s : State) (a reg : Nat) (init : Bool) (v : Word) : State :=
  if s.bit (Reg.LAW_STG_STAT a) 31 || (!init && s.bit (Reg.LAW_STG_STAT a) 30) then s.setBit (Reg.LAW_STG_STAT a) 27 true
  else s.wr reg v

/-! ## The commands without register writes -/

def execLawJobDispatch (s : State) : Host.Outcome State Fault Refusal := .next (lawJobDispatch s)
def execNop (n : Fin 18) (s : State) : Host.Outcome State Fault Refusal := .next (laneNop n s)
def execMac (n : Fin 18) (s : State) : Host.Outcome State Fault Refusal := .next (laneMac n s)
def execStx (n : Fin 18) (s : State) : Host.Outcome State Fault Refusal := .next (laneStx n s)
def execStu (n : Fin 18) (s : State) : Host.Outcome State Fault Refusal := .next (laneStu n s)
def execLim (n : Fin 18) (s : State) : Host.Outcome State Fault Refusal := .next (laneLim n s)
def execRep (n : Fin 18) (s : State) : Host.Outcome State Fault Refusal := .next (laneRep n s)
def execLawJobComplete (n : Fin 18) (stamp : Nat) (s : State) : Host.Outcome State Fault Refusal := .next (lawJobComplete n stamp s)
def execDeferredSwap (a : Fin 256) (s : State) : Host.Outcome State Fault Refusal := .next (deferredSwap a s)
def execLawStgCopyDone (a : Fin 256) (s : State) : Host.Outcome State Fault Refusal := .next (lawStgCopyDone a s)

end Sys2Proof.Machine
end

