-- ==== Sys2Proof/Machine/Image.lean ====
section
/-! DEFINITION. What an axis shows at the completion of a cycle: the axis record of the cycle image (R305), which the capture engine
takes as well (R324). -/

namespace Sys2Proof.Machine

/-- RFLAGS of an axis at the completion of cycle n, the snapshot of cycle n still standing (R305). -/
def State.rflags (s : State) (a : Nat) (n : Word) : Nat :=
  let c := s.axis a
  let st := s.rd (Reg.SRC_STAT (s.primary a))
  (mkBit 0 c.fRel ||| mkBit 1 c.fLate ||| mkBit 2 c.fMiss ||| mkBit 3 (!s.due a n) ||| mkBit 4 c.fNum ||| mkBit 5 c.fU0
    ||| mkBit 6 c.fU1 ||| mkBit 7 c.fVec ||| mkBit 8 c.snap.sfrz ||| mkBit 9 (wBit st 31) ||| mkBit 10 (wBit st 29 || wBit st 28)
    ||| mkBit 11 (wBit st 27 || wBit st 26) ||| mkBit 12 (s.bit (Reg.LRN_STAT a) 28) ||| (s.resv a &&& maskW 15 13)).toNat

/-- The flags start afresh after a completion (R305). -/
def State.rflagsClear (s : State) (a : Nat) : State :=
  s.setAxis a { s.axis a with fRel := false, fLate := false, fMiss := false, fNum := false, fU0 := false, fU1 := false, fVec := false }

/-- The 64 bytes of an axis record of the image of cycle n (R305). -/
def State.axisRecord (s : State) (a : Nat) (n : Word) : List Byte :=
  let c := s.axis a
  bytesOf [s.rd (Reg.SRC_POS (s.primary a)), s.rd (Reg.SRC_SPD (s.primary a)), s.rd (Reg.LAW_ERR01 a), s.rd (Reg.LAW_ERR23 a),
           s.rd (Reg.LAW_OUT a)]
    ++ leBytes 8 c.cmd.toNat
    ++ bytesOf [s.rd (Reg.LAW_X01 a), s.rd (Reg.LAW_X23 a), s.rd (Reg.LAW_X45 a)]
    ++ leBytes 2 (wrapN 16 c.c) ++ leBytes 2 (wrapN 16 c.id) ++ leBytes 2 (wrapN 16 c.iq) ++ leBytes 2 (s.rflags a n)
    ++ bytesOf [s.rd (Reg.LAW_REL_CYC a), c.snap.pos, c.snap.vel, s.resv (256 + a)]

end Sys2Proof.Machine
end

