-- ==== Sys2Proof/Machine/Capture.lean ====
section
/-! DEFINITION. The capture engine: records (R323 to R328), arming and admission (R329, R330), triggers (R332 to R334), the end of a
run and rearming (R335, R336), refused writes (R337) and configuration writes (R338). -/

namespace Sys2Proof.Machine

/-- CAP_Sn_CFG.KIND. -/
def State.capKind (s : State) (n : Nat) : Nat := s.fld (Reg.CAP_S_CFG n) 31 30

/-- A session in ARMED, TRIGGERED or WAIT. -/
def State.capActive (s : State) (n : Nat) : Bool := s.capOn n || s.capState n == 5

/-- The number of ones among the low k bits of a word. -/
def onesW (w : Word) (k : Nat) : Nat := countN k (wBit w)

/-- The axes marked in CAP_Sn_AXw, ascending (R324). -/
def State.capAxes (s : State) (n : Nat) : List Nat :=
  (List.range 256).filter (fun a => s.bit (Reg.CAP_S_AX n (a / 32)) (a % 32))

/-- The signals in SIGMASK, ascending (R324). -/
def State.capSignals (s : State) (n : Nat) : List Nat := (List.range 16).filter (s.bit (Reg.CAP_S_SRC n))

/-- n rounded up to a multiple of 16. -/
def pad16 (n : Nat) : Nat := (n + 15) / 16 * 16

/-- Rmax: the record length of a session (R329). -/
def State.capRmax (s : State) (n : Nat) : Nat :=
  match s.capKind n with
  | 0 => pad16 (16 + 4 * (s.capAxes n).length * (s.capSignals n).length)
  | 1 => 96
  | _ => 32

/-- The charge of a session in kB/s, rounded up (R330). -/
def State.capCharge (s : State) (n : Nat) : Nat :=
  match s.capKind n with
  | 0 =>
    let d := s.tb.len * (s.fld (Reg.CAP_S_CFG n) 15 0 + 1) * 1000
    (s.capRmax n * 400000000 + d - 1) / d
  | 1 => 166667 * onesW (s.rd (Reg.CAP_S_SRC n)) 24
  | 2 => 3200
  | _ => 32000

/-- Ports selected by the active port sessions, n counted as one (R326). -/
def State.capPorts (s : State) (n : Option Nat) : Nat :=
  onesW ((List.range 16).foldl (fun w k =>
    if (s.capActive k || n == some k) && s.capKind k == 1 then w ||| s.rd (Reg.CAP_S_SRC k) else w) 0) 24

/-- From address a on, the first byte that no window lets MID 11 write (R322); the number bounds the windows used. -/
def State.capReach (s : State) : Nat → Nat → Nat
  | 0, a => a
  | f + 1, a =>
    let b := (List.range 32).foldl (fun b k => if (s.win k).allows 11 a 1 true then max b ((s.win k).base + 2 ^ (s.win k).size) else b) a
    if b = a then a else s.capReach f b

/-- The first address in [a, a + n) that MID 11 may not write. -/
def State.capRefused (s : State) (a n : Nat) : Option Nat :=
  let e := s.capReach 33 a
  if a + n ≤ e then none else some e

def dramBase : Nat := 0x80000000

/-- Whether a session's trigger names an existing object and a recorded signal (R329 code 5). -/
def State.capTrigOk (s : State) (n : Nat) : Bool :=
  let w := s.rd (Reg.CAP_S_TRIG n)
  let o := wFld w 7 0
  match wFld w 31 29 with
  | 1 => s.capKind n == 0 && (s.capAxes n).contains o && (s.capSignals n).contains (wFld w 27 24)
  | 2 => decide (o < 16)
  | 4 => decide (o ≤ 8)
  | 6 => decide (o < 16)
  | _ => true

/-- Whether the source selects at least one item (R329 code 5). -/
def State.capItems (s : State) (n : Nat) : Bool :=
  let w := s.rd (Reg.CAP_S_SRC n)
  match s.capKind n with
  | 0 => !(s.capAxes n).isEmpty && !(s.capSignals n).isEmpty
  | 1 => decide (wFld w 23 0 ≠ 0)
  | 2 => decide (wFld w 23 0 ≠ 0)
  | _ => decide (wFld w 7 0 ≠ 0)

/-- The code of the first check of R329 that fails, 0 when all pass. -/
def State.capCheck (s : State) (n : Nat) : Nat :=
  let base := s.fld (Reg.CAP_S_BASE n) 26 0
  let size := (s.rd (Reg.CAP_S_SIZE n)).toNat
  let pre := (s.rd (Reg.CAP_S_PRE n)).toNat
  let post := (s.rd (Reg.CAP_S_POST n)).toNat
  let ring := if s.capSplit n then size / 2 else size
  if 2000000 < (s.rd Reg.CAP_BWSUM).toNat + s.capCharge n then 1
  else if s.capKind n = 1 ∧ 4 < s.capPorts (some n) then 2
  else if 0x8000000 < base + size ∨ (List.range 16).any (fun k => k ≠ n && s.capActive k &&
      decide (base < s.fld (Reg.CAP_S_BASE k) 26 0 + (s.rd (Reg.CAP_S_SIZE k)).toNat ∧ s.fld (Reg.CAP_S_BASE k) 26 0 < base + size)) then 3
  else if !(List.range 32).any (fun k => (s.win k).allows 11 (dramBase + base) size true) then 4
  else if size % 4096 ≠ 0 ∨ size = 0 ∨ base % 4096 ≠ 0 ∨ post = 0 ∨ ring < (pre + post) * s.capRmax n ∨ !s.capItems n ∨ !s.capTrigOk n then 5
  else if s.mode = mRESET ∨ s.mode = mBOOT ∨ s.mode = mMINIMAL then 6
  else 0

/-- A session becomes ARMED with the ring at an offset of its buffer; the dead time since the finished run is counted, and enters
CAP_Sn_DMAX at a self-rearm (R331, R336). -/
def State.capBegin (s : State) (n off size : Nat) (self : Bool) : State :=
  let c := s.session n
  let s := match c.doneTick with
    | some t =>
      let d := min 0xFFFFFFFF (s.tb.tick - t)
      let s := s.wr (Reg.CAP_S_DEAD n) (word d)
      if self then s.wr (Reg.CAP_S_DMAX n) (word (max d (s.rd (Reg.CAP_S_DMAX n)).toNat)) else s
    | none => s
  let s := s.setSession n { c with recs := 0, post := 0, trig := none, prev := none, lost := false, frames := 0, last := none, base := off,
                                   size := size, again := false, doneTick := none }
  (s.wr (Reg.CAP_S_WPTR n) (word off)).setFld (Reg.CAP_S_STAT n) 31 29 1

/-- CTRL.ARM (R329). -/
def State.capArm (s : State) (n : Nat) : State :=
  if s.capActive n then s
  else
    -- a self-rearm on its way holds the session's own charge, which an accepted ARM replaces
    let free := if (s.session n).again then (s.capFree n).setSession n { s.session n with again := false } else s
    let code := free.capCheck n
    if code ≠ 0 then (s.setFld (Reg.CAP_S_STAT n) 18 16 code).capEvt n
    else
      let s := free
      let ch := word (s.capCharge n)
      let s := (s.wr (Reg.CAP_S_CHG n) ch).wr Reg.CAP_BWSUM (s.rd Reg.CAP_BWSUM + ch)
      let s := ((s.setFld (Reg.CAP_S_STAT n) 28 26 0).setFld (Reg.CAP_S_STAT n) 15 0 0).wr (Reg.CAP_S_DMAX n) 0
      let s := s.setSession n { s.session n with order := [] }
      let size := (s.rd (Reg.CAP_S_SIZE n)).toNat
      s.capBegin n 0 (if s.capSplit n then size / 2 else size) false

/-- CTRL.STOP (R335). -/
def State.capStop (s : State) (n : Nat) : State :=
  let s := if s.capActive n || (s.session n).again then s.capFree n else s
  (s.setSession n { s.session n with again := false, trig := none, doneTick := none }).setFld (Reg.CAP_S_STAT n) 31 29 0

/-- CTRL.RELEASE: the older full half is free; a session in WAIT may rearm (R336). -/
def State.capRelease (s : State) (n : Nat) : State :=
  let c := s.session n
  match c.order with
  | [] => s
  | h :: rest =>
    let s := (s.setSession n { c with order := rest }).setBit (Reg.CAP_S_STAT n) (27 + h) false
    if s.capState n == 5 then s.setSession n { s.session n with again := true } else s

/-- A write of CAP_Sn_CTRL; several bits act in the order ARM, TRIG, RELEASE, STOP. -/
def State.capCtrl (s : State) (n : Nat) (v : Word) : State :=
  if s.mode = mMINIMAL then s else
  let s := s.when (wBit v 31) (fun s => s.capArm n)
  let s := s.when (wBit v 29) (fun s => s.capTrigger n)
  let s := s.when (wBit v 28) (fun s => s.capRelease n)
  s.when (wBit v 30) (fun s => s.capStop n)

/-- The session rearms itself, in the other half when SPLIT is set (R336). -/
def captureRearm (n : Nat) (s : State) : State :=
  let c := s.session n
  if !c.again || !(s.capState n == 3 || s.capState n == 5) then s
  else if s.capSplit n then
    let h := 1 - s.fld (Reg.CAP_S_STAT n) 26 26
    (s.setFld (Reg.CAP_S_STAT n) 26 26 h).capBegin n (h * c.size) c.size true
  else s.capBegin n 0 c.size true

/-- Bytes into the ring from offset p of the buffer, wrapping at the ring's end (R331). -/
def ringPut (d : Table Byte) (buf base size : Nat) : Nat → List Byte → Table Byte
  | _, [] => d
  | p, b :: bs => ringPut (Table.put d (buf + p) b) buf base size (if p + 1 = base + size then base else p + 1) bs

/-- Write one record into session n: sampled at tick t, with its cycle and fine tick, TYPE and body (R323, R331, R333, R335, R337). -/
def State.capWrite (s : State) (n type t : Nat) (cyc : Word) (ft : Nat) (body : List Byte) : State :=
  let c := s.session n
  let isTrig := match c.trig with
    | some k => decide (k ≤ t)
    | none => false
  let len := pad16 (16 + body.length)
  let flags := mkBit 0 isTrig ||| mkBit 1 c.lost ||| (s.resv 650 &&& maskW 7 2)
  let rec0 := leBytes 2 len ++ [byte type, byte flags.toNat]
    ++ leBytes 4 cyc.toNat ++ leBytes 4 (mkFld 21 0 ft ||| (s.resv 651 &&& maskW 31 22)).toNat ++ leBytes 4 c.recs ++ body ++ List.replicate (len - 16 - body.length) 0
  let s := s.takeFree
  let buf := s.fld (Reg.CAP_S_BASE n) 26 0
  let p := (s.rd (Reg.CAP_S_WPTR n)).toNat
  let first := min len (c.base + c.size - p)
  let refused := match s.capRefused (dramBase + buf + p) first with
    | some a => some a
    | none => if len = first then none else s.capRefused (dramBase + buf + c.base) (len - first)
  match refused with
  | some a =>
    let s := ((s.deny 11 a true 1).setFld (Reg.CAP_S_STAT n) 31 29 4).setBit (Reg.CAP_S_STAT n) 25 true
    ((s.capFree n).setSession n { c with trig := none }).capEvt n
  | none =>
    let s := { s with cap := { s.cap with dram := ringPut s.cap.dram buf c.base c.size p rec0 } }
    let s := s.wr (Reg.CAP_S_WPTR n) (word (if p + len < c.base + c.size then p + len else p + len - c.size))
    let seen := match c.last with
      | some (u, _, _) => u == t
      | none => false
    let s := s.setSession n { c with recs := c.recs + 1, lost := false, last := if seen then c.last else some (t, p, c.recs) }
    if isTrig then s.capMark n p c.recs 1
    else if s.capState n = 2 ∧ c.trig = none then
      let s := s.setSession n { s.session n with post := c.post - 1 }
      if c.post ≤ 1 then s.capDone n else s
    else s

/-! ## The four kinds of record -/

/-- Signal k of an axis at the completion of cycle m (R324). -/
def State.capSignal (s : State) (a : Nat) (m : Word) (k : Nat) : Word :=
  if k = 14 then s.rd (Reg.SRC_RAWLO (s.primary a))
  else if k = 15 then word (wrapN 16 (s.axis a).slack) ||| mkFld 20 16 (s.axis a).lane
  else
    let o := (natAt [0, 4, 8, 12, 16, 20, 24, 28, 32, 36, 40, 42, 52, 56] k)
    let r := s.axisRecord a m
    if k = 10 then word (leAt r 40 2 + 65536 * leAt r 46 2) else word (leAt r o 4)

/-- The axis record of cycle m for session n, when it is due (R324); a crossing of the trigger level is seen here (R332, R333). -/
def State.capAxisRecord (s : State) (n : Nat) (m : Word) : State :=
  if s.capOn n && s.capKind n == 0 && m.toNat % (s.fld (Reg.CAP_S_CFG n) 15 0 + 1) == 0 then
    let w := s.rd (Reg.CAP_S_TRIG n)
    let lev := s32 (s.rd (Reg.CAP_S_TLEV n))
    let v := s32 (s.capSignal (wFld w 7 0) m (wFld w 27 24))
    let c := s.session n
    let cross := match c.prev with
      | some p => if wBit w 28 then decide (lev < p ∧ v ≤ lev) else decide (p < lev ∧ lev ≤ v)
      | none => false
    let s := s.setSession n { c with prev := some v }
    let s := if wFld w 31 29 == 1 && cross then s.capTrigger n else s
    let body := ((s.capAxes n).map (fun a => bytesOf ((s.capSignals n).map (s.capSignal a m)))).flatten
    s.capWrite n 1 s.tb.tick m 0 body
  else s

/-- A frame with a valid start sequence on a port: result of R152 and its bytes (R325). -/
def State.capPortRecord (s : State) (port arr result : Nat) (bs : List Byte) : State :=
  s.each (List.range 16) (fun n s =>
    if s.capOn n && s.capKind n == 1 && s.bit (Reg.CAP_S_SRC n) port then
      let b := bs.take 76
      s.capWrite n 2 (s.tick0 + arr / 32) s.tb.cyc arr ([byte port, byte result] ++ leBytes 2 b.length ++ b)
    else s)

/-- An input frame of the field die: the words of input bits [15:0] and output bits [23:16] it carries, compared with those of the frame before it,
and the record's body (R327). -/
def State.capFieldRecord (s : State) (bits : List Nat) (body : List Byte) : State :=
  let old := s.cap.field
  let s : State := { s with cap := { s.cap with field := bits } }
  s.each (List.range 16) (fun n s =>
    if s.capOn n && s.capKind n == 2 then
      let c := s.session n
      let sel := s.fld (Reg.CAP_S_SRC n) 23 0
      let per := s.fld (Reg.CAP_S_CFG n) 27 16
      let k := c.frames + 1
      let due := decide (per ≠ 0 ∧ per ≤ k)
      let s := s.setSession n { c with frames := if due then 0 else k }
      if due || bits.map (fun x => x &&& sel) != old.map (fun x => x &&& sel) then s.capWrite n 3 s.tb.tick s.tb.cyc (s.tb.ctick * 32) body else s
    else s)

/-- The engine drains one event into the sessions it waits for (R328). -/
def eventRecord (s : State) : State :=
  match s.cap.queue with
  | [] => s
  | e :: rest =>
    let s := { s with cap := { s.cap with queue := rest } }
    let body := [byte e.kind, byte e.obj] ++ leBytes 2 e.detail ++ leBytes 4 e.sec ++ leBytes 4 e.ns ++ leBytes 2 e.frac ++ leBytes 2 (s.resv 652).toNat
    s.takeFree.each e.dest (fun n s => if s.capWants e.kind n then s.capWrite n 4 e.tick e.cyc e.ft body else s)

/-- Tick 0 after cycle n, of the cycle whose counter is next: the condition of TKIND 5, then the axis records of cycle n, whose last released values
stand (R324, R332). -/
def State.capTick0 (s : State) (n next : Word) : State :=
  let s := s.each (List.range 16) (fun k s =>
    if s.fld (Reg.CAP_S_TRIG k) 31 29 == 5 && s.rd (Reg.CAP_S_TLEV k) == next then s.capTrigger k else s)
  s.each (List.range 16) (fun k s => s.capAxisRecord k n)

/-- CAP_STAT (R338). -/
def State.capStat (s : State) : Word :=
  (List.range 16).foldl (fun w n => w ||| mkBit (16 + n) (s.capActive n)) (word (s.capPorts none))

/-- A write to a configuration register of session n, with the writable bits m (R338). -/
def State.capCfgWrite (s : State) (n reg : Nat) (m v : Word) : State :=
  if s.capActive n then s.setBit (Reg.CAP_S_STAT n) 24 true else s.wr reg (v &&& m)

/-- A byte of capture DRAM by offset: what a session wrote since RESET, else free (R432). -/
def State.dramByte (s : State) (o : Nat) : Byte := (Table.find? s.cap.dram o).getD (Config.dramByte (s.cap.epoch * 134217728 + o))

/-- The refresh window holds writes in the write buffer and drains them: no record is lost and nothing a program sees changes (R321). -/
def dramRefresh (s : State) : State := s

/-! ## The commands -/

def execEventRecord (s : State) : Host.Outcome State Fault Refusal := .next (eventRecord s)
def execCaptureRearm (n : Fin 16) (s : State) : Host.Outcome State Fault Refusal := .next (captureRearm n s)
def execDramRefresh (s : State) : Host.Outcome State Fault Refusal := .next (dramRefresh s)

end Sys2Proof.Machine
end

