-- ==== Sys2Proof/Machine/Fio.lean ====
section
/-! DEFINITION. 24 V field inputs and outputs: the frames of the die-to-die link (R245), input filters (R248, R249), outputs and paralleled
sets (R250, R251), protection (R252), diagnostics (R253 to R256), silence (R257, R258) and the field supply (R260). -/

namespace Sys2Proof.Machine

/-! ## The field die's copy of the configuration -/

/-- What an output frame carries beside the commands: FIO_DI_CFGn, FIO_DO_CFG, FIO_DO_SAFE and FIO_DO_CHn_CFG (R245). -/
def State.fioCfg (s : State) : List Word :=
  (List.range 16).map (fun n => s.rd (Reg.FIO_DI_CFG n)) ++ [s.rd Reg.FIO_DO_CFG, s.rd Reg.FIO_DO_SAFE]
    ++ (List.range 8).map (fun n => s.rd (Reg.FIO_DO_CH_CFG n))

def FioBlock.word (f : FioBlock) (i : Nat) : Word := (f.cfg[i]?).getD 0
def FioBlock.chCfg (f : FioBlock) (n : Nat) : Word := f.word (18 + n)

/-- The paralleled set of output n, its lowest-numbered output first (R251). -/
def FioBlock.parSet (f : FioBlock) (n : Nat) : List Nat :=
  let p := if n < 4 then wFld (f.word 16) 31 30 else wFld (f.word 16) 29 28
  match p with
  | 1 => [n / 2 * 2, n / 2 * 2 + 1]
  | 2 => [n / 4 * 4, n / 4 * 4 + 1, n / 4 * 4 + 2, n / 4 * 4 + 3]
  | _ => [n]

/-- The master of output n's set. -/
def FioBlock.master (f : FioBlock) (n : Nat) : Nat := ((f.parSet n)[0]?).getD n

/-- What output n is to be: its safe state while the safe states are in force, else its set's command (R251, R257, R258). -/
def FioBlock.want (f : FioBlock) (n : Nat) : Bool :=
  let m := f.master n
  if f.safe then
    match wFld (f.word 17) (2 * m + 1) (2 * m) with
    | 1 => true
    | 2 => f.hold.testBit n
    | _ => false
  else f.cmd.testBit m

/-! ## Outputs -/

/-- The general outputs are released at the end of flight 4 (R342). -/
def State.fioEnabled (s : State) : Bool := decide (5 ≤ s.fld Reg.SYS_BOOT 31 28)

/-- FIO_DO_CHn_STAT.WAIT and LATCH. -/
def State.doWait (s : State) (n : Nat) : Bool := s.bit (Reg.FIO_DO_CH_STAT n) 28
def State.doLatch (s : State) (n : Nat) : Bool := s.bit (Reg.FIO_DO_CH_STAT n) 27
def State.doOn (s : State) (n : Nat) : Bool := s.bit (Reg.FIO_DO_CH_STAT n) 31

/-- The switches of a set take the state they are to have: on only when wanted, with no channel of the set cut off or latched, and no
sag holding the outputs off (R251, R252, R260). -/
def State.driveSet (s : State) (n : Nat) : State :=
  let set := s.fio.parSet n
  let on := s.fio.want n && !s.fio.off && s.fioEnabled && set.all (fun m => !s.doWait m && !s.doLatch m)
  s.each set (fun m s => s.setBit (Reg.FIO_DO_CH_STAT m) 31 on)

def State.driveAll (s : State) : State := s.each (List.range 8) (fun n s => s.driveSet n)

/-- A command to switch off during WAIT cancels the retry and clears RCNT (R252). -/
def State.cancelRetry (s : State) (n : Nat) : State :=
  if !s.fio.safe && !s.fio.want n && s.doWait n then
    (s.setBit (Reg.FIO_DO_CH_STAT n) 28 false).setFld (Reg.FIO_DO_CH_STAT n) 23 20 0
  else s

/-- An output frame leaves, outside OFF and RESET; arrived: it reaches the field die as a valid frame (R245, R246, R258, R260). -/
def fioOutputFrame (arrived : Bool) (s : State) : State :=
  if !arrived || decide (s.mode ≤ mRESET) then s
  else
    let f := { s.fio with cmd := s.fld Reg.FIO_DO_CMD 7 0, cfg := s.fioCfg, safe := s.bit Reg.FIO_STAT 28, off := s.bit Reg.FIO_STAT 29 }
    let s : State := { s.setBit Reg.FIO_STAT 27 true with fio := f }
    (s.each (List.range 8) (fun n s => s.cancelRetry n)).driveAll

/-- The field die raises diagnostic flag i of output n; the next input frame carries it (R245, R256). -/
def State.diagFlag (s : State) (n i : Nat) : State :=
  { s with fio := { s.fio with flags := setAt s.fio.flags n (natAt s.fio.flags n ||| 2 ^ i) } }

/-- The condition of flag i of output n begins or ends (R253). -/
def State.diagCond (s : State) (n i : Nat) (b : Bool) : State :=
  let c := natAt s.fio.cond n
  { s with fio := { s.fio with cond := setAt s.fio.cond n (if b then c ||| 2 ^ i else c &&& (65535 - 2 ^ i)) } }

/-- An output diagnostic flag is set (R256). -/
def State.doFlag (s : State) (n i : Nat) : State := (s.setBit (Reg.FIO_DO_CH_STAT n) i true).fioEvt 27

/-- A channel that is on is cut off: OVLD or OTEMP, then WAIT, or LATCH when RCNT has reached RMAX (R252). -/
def State.cutOff (s : State) (n flag : Nat) : State :=
  if !s.doOn n then s
  else
    let rmax := wFld (s.fio.chCfg (s.fio.master n)) 7 4
    let latch := rmax ≠ 15 ∧ s.fld (Reg.FIO_DO_CH_STAT n) 23 20 = rmax
    let s := (s.setBit (Reg.FIO_DO_CH_STAT n) (if latch then 27 else 28) true).setBit (Reg.FIO_DO_CH_STAT n) 29 false
    (s.driveSet n).diagFlag n flag

def overloadCutoff (n : Nat) (s : State) : State :=
  if wFld (s.fio.chCfg (s.fio.master n)) 23 16 = 0 then s else s.cutOff n 15
def thermalCutoff (n : Nat) (s : State) : State := s.cutOff n 14

/-- The retry delay of a cut-off channel ends (R252); a retry timer pauses while SAG is set (R260). -/
def outputRetry (n : Nat) (s : State) : State :=
  if !s.doWait n || s.bit Reg.FIO_STAT 29 || !s.fio.want n then s
  else
    let k := s.fld (Reg.FIO_DO_CH_STAT n) 23 20
    ((s.setBit (Reg.FIO_DO_CH_STAT n) 28 false).setFld (Reg.FIO_DO_CH_STAT n) 23 20 (min 15 (k + 1))).driveSet n

/-- The channel has been on for 1 s without entering current limit (R252). -/
def retryCountClear (n : Nat) (s : State) : State :=
  if s.doOn n then s.setFld (Reg.FIO_DO_CH_STAT n) 23 20 0 else s

/-- FIO_DO_UNLATCH: the bit of a set's master clears LATCH and RCNT of the set (R251, R252). -/
def State.doUnlatch (s : State) (v : Word) : State :=
  s.each (List.range 8) (fun n s =>
    if wBit v (s.fio.master n) then
      ((s.setBit (Reg.FIO_DO_CH_STAT n) 27 false).setFld (Reg.FIO_DO_CH_STAT n) 23 20 0).driveSet n
    else s)

/-- Writes of FIO_DO_CMD, SET and CLR (R246). -/
def State.doCmd (s : State) (v : Word) : State := s.wr Reg.FIO_DO_CMD (v &&& 0xFF)
def State.doSet (s : State) (v : Word) : State := s.wr Reg.FIO_DO_CMD (s.rd Reg.FIO_DO_CMD ||| (v &&& 0xFF))
def State.doClr (s : State) (v : Word) : State := s.wr Reg.FIO_DO_CMD (s.rd Reg.FIO_DO_CMD &&& ~~~ (v &&& 0xFF))

/-! ## Diagnostics (R253 to R255) -/

/-- The readback of an output that is off goes high. drivers: the outputs whose most recent turn-on edge it followed within 2 µs,
having been low before it. The lowest of them that is on and of another set drives it, else it is a short (R255). -/
def readbackHigh (n : Nat) (drivers : BitVec 8) (s : State) : State :=
  if s.fio.want n || s.fio.rb.testBit n then s
  else
    let d := lowest 8 (fun i => drivers.getLsbD i && s.doOn i && !(s.fio.parSet n).contains i)
    { s.setBit (Reg.FIO_DO_CH_STAT n) 30 true with
      fio := { s.fio with rb := s.fio.rb ||| 2 ^ n, cls := setAt s.fio.cls n (some (d.getD 8)) } }

/-- The output that drives output n, where its readback was classified as external drive (R255). -/
def FioBlock.driver (f : FioBlock) (n : Nat) : Option Nat :=
  match (f.cls[n]?).getD none with
  | some i => if i < 8 then some i else none
  | none => none

/-- Whether the condition of a diagnostic flag can hold for output n: 0 OPENON, 1 OPENOFF, 2 SHORTV, 3 EXTDRV. A readback that is high while
the output is commanded off, and is not classified as external drive, is a short, since when it is high or not (R253, R255). -/
def FioBlock.diagnosable (f : FioBlock) (n kind : Nat) : Bool :=
  let m := f.master n
  match kind with
  | 0 => f.want n && wFld (f.chCfg m) 30 25 != 0
  | 1 => !f.want n && wBit (f.chCfg m) 31 && m == n
  | 2 => !f.want n && f.rb.testBit n && (f.driver n).isNone
  | _ => !f.want n && f.rb.testBit n && (f.driver n).isSome

/-- Bit of FIO_DO_CHn_STAT of a diagnostic flag (R253). -/
def diagBit (kind : Nat) : Nat := match kind with
  | 0 => 12
  | 1 => 13
  | 2 => 11
  | _ => 10

/-- A diagnostic condition has held for its time, or has ended: 0 OPENON, 1 OPENOFF, 2 SHORTV, 3 EXTDRV (R253). -/
def outputDiagnostic (n : Nat) (kind : Fin 4) (held : Bool) (s : State) : State :=
  if !held then s.diagCond n (diagBit kind) false
  else if s.fio.diagnosable n kind then
    let s := (s.diagCond n (diagBit kind) true).diagFlag n (diagBit kind)
    if kind.val = 3 then { s with fio := { s.fio with ext := setAt s.fio.ext n ((s.fio.driver n).getD 0) } } else s
  else s

/-- The condition of a diagnostic flag of output n holds now: reported, and still possible (R6, R253). -/
def FioBlock.condNow (f : FioBlock) (n kind : Nat) : Bool := (natAt f.cond n).testBit (diagBit kind) && f.diagnosable n kind

/-- The diagnostic flags of output n whose conditions hold now. -/
def FioBlock.standing (f : FioBlock) (n : Nat) : Word :=
  [0, 1, 2, 3].foldl (fun w k => w ||| mkBit (diagBit k) (f.condNow n k)) 0

/-! ## Inputs -/

/-- A comparator sample of input n (R248); below 16 V it reads low (R416). -/
def diSample (n : Nat) (high : Bool) (s : State) : State :=
  let f := s.fio
  let v := high && f.vfld != 2
  let top := wFld (f.word n) 7 0
  let c := natAt f.cnt n
  let c' := if v then min top (c + 1) else c - 1
  let old := f.filt.testBit n
  let new := if top ≠ 0 ∧ c' = top ∧ v then true else if c' = 0 ∧ !v then false else old
  let upd (m : Nat) (b : Bool) : Nat := if b then m ||| 2 ^ n else if m.testBit n then m - 2 ^ n else m
  { s with fio := { f with cnt := setAt f.cnt n c', raw := upd f.raw v, filt := upd f.filt new,
                           rise := if new && !old then upd f.rise true else f.rise,
                           fall := if old && !new then upd f.fall true else f.fall } }

/-- An edge of input n reaches the registers (R249, R328, R332). -/
def State.diEdge (s : State) (n : Nat) (rising : Bool) : State :=
  let s := s.setBit (if rising then Reg.FIO_DI_RISE else Reg.FIO_DI_FALL) n true
  let s := if s.bit Reg.FIO_DI_IEN (if rising then 16 + n else n) then s.fioEvt 26 else s
  (s.capEvent 2 n 0).capCond 2 (fun w => trigObj n w && wBit w 28 == !rising)

/-- The field die samples its readbacks; one that has fallen loses its classification (R253, R255). -/
def State.readbacks (s : State) (rb : BitVec 8) : State :=
  { s with fio := { s.fio with rb := rb.toNat,
                               cls := (List.range 8).map (fun n => if rb.getLsbD n then (s.fio.cls[n]?).getD none else none) } }

/-- The diagnostic flags that an input frame carries reach FIO_DO_CHn_STAT, with EXTSRC (R245, R256). -/
def State.diagFlags (s : State) : State :=
  let f := s.fio
  let s : State := { s with fio := { f with flags := List.replicate 8 0 } }
  s.each (List.range 8) (fun n s =>
    let s := if (natAt f.flags n).testBit 10 then s.setFld (Reg.FIO_DO_CH_STAT n) 26 24 (natAt f.ext n) else s
    s.each [10, 11, 12, 13, 14, 15] (fun i s => if (natAt f.flags n).testBit i then s.doFlag n i else s))

/-- An input frame leaves the field die: inputs and their edges, readbacks, current limits, load currents, diagnostic flags and VFLD. It arrives
while output frames reach the field die (R245, R249, R258, R327). -/
def fioInputFrame (rb lim : BitVec 8) (cur : List (BitVec 16)) (vfld : BitVec 16) (s : State) : State :=
  let s := s.readbacks rb
  if !s.bit Reg.FIO_STAT 27 then s
  else
    let f := s.fio
    let s := s.wr Reg.FIO_DI_STAT (mkFld 31 16 f.raw ||| mkFld 15 0 f.filt)
    let s : State := { s with fio := { f with rise := 0, fall := 0 } }
    let s := s.diagFlags
    let s := s.each (List.range 16) (fun n s =>
      -- two changes of one input: the one that leads to the final state came last
      let up := f.rise.testBit n
      let dn := f.fall.testBit n
      if f.filt.testBit n then (s.when dn (fun s => s.diEdge n false)).when up (fun s => s.diEdge n true)
      else (s.when up (fun s => s.diEdge n true)).when dn (fun s => s.diEdge n false))
    let s := s.each (List.range 8) (fun n s =>
      ((s.setBit (Reg.FIO_DO_CH_STAT n) 30 (rb.getLsbD n)).setBit (Reg.FIO_DO_CH_STAT n) 29 (lim.getLsbD n)).wr (Reg.FIO_DO_CH_CUR n)
        (word (((cur[n]?).getD 0).toNat)))
    let s := s.wr Reg.FIO_VFLD (word vfld.toNat)
    let on := (List.range 8).foldl (fun m n => if s.doOn n then m + 2 ^ n else m) 0
    s.takeFree.capFieldRecord [f.raw + 65536 * f.cmd, f.filt + 65536 * rb.toNat, 65536 * on]
      (leBytes 2 f.raw ++ leBytes 2 f.filt ++ [byte f.cmd, byte rb.toNat, byte on, byte (s.resv 653).toNat] ++ leBytes 2 vfld.toNat
        ++ leBytes 6 ((s.resv 654).toNat * 65536 + (s.resv 655).toNat % 65536))

/-! ## Silence and supply -/

/-- No valid output frame for SILT ms, since frames last reached the field die. In OFF and RESET the outputs are off whatever their safe states, and
SILENT stays clear (R257 to R259). -/
def silenceTimeout (s : State) : State :=
  if (s.bit Reg.FIO_STAT 28 && !s.bit Reg.FIO_STAT 27) || decide (s.mode ≤ mRESET) then s
  else
    let on := (List.range 8).foldl (fun m n => if s.doOn n then m + 2 ^ n else m) 0
    let s : State := { s.setBit (Reg.FIO_STAT) 28 true with fio := { s.fio with hold := on, safe := true } }
    ((s.setBit Reg.FIO_STAT 27 false).driveAll).fioEvt 29

/-- FIO_CTRL: REEN and RESUME (R258, R260). -/
def State.fioCtrl (s : State) (v : Word) : State :=
  let s := if wBit v 31 then (if s.bit Reg.FIO_STAT 31 then s.setBit Reg.FIO_STAT 29 false else s.fioEvt 28) else s
  if wBit v 30 then s.setBit Reg.FIO_STAT 28 false else s

/-- VFLD is below 18 V and not below 16 V; it may come from either side (R260). -/
def vfldWarn (s : State) : State :=
  let s : State := { s with fio := { s.fio with vfld := 0 } }
  let s := s.setBit Reg.FIO_STAT 31 false
  if s.bit Reg.FIO_STAT 30 then s else (s.setBit Reg.FIO_STAT 30 true).fioEvt 31

/-- VFLD falls below 16 V: every general output is switched off; the pulse checks of the safety inputs stop (R260, R416). -/
def vfldSag (s : State) : State :=
  let s := vfldWarn s
  let s : State := { s with fio := { s.fio with vfld := 2, off := true }, saf := { s.saf with psusp := true } }
  ((s.setBit Reg.FIO_STAT 29 true).driveAll).fioEvt 30

/-- VFLD is above 18 V again (R260). -/
def vfldRecover (s : State) : State :=
  let s : State := { s with fio := { s.fio with vfld := 1 } }
  (s.setBit Reg.FIO_STAT 31 true).setBit Reg.FIO_STAT 30 false

/-- A write of FIO_DI_CFGn, FIO_DO_CFG, FIO_DO_SAFE or FIO_DO_CHn_CFG with the writable bits m: in CONFIGURE and MAINTENANCE, and a new
PAR0 or PAR1 only while the four outputs it concerns are commanded off (R261). -/
def State.fioCfgWrite (s : State) (reg : Nat) (m v : Word) : State :=
  let w := v &&& m
  let o := s.rd reg
  let cmd := s.rd Reg.FIO_DO_CMD
  if !s.imageOpen then s
  else if reg = Reg.FIO_DO_CFG ∧ ((wFld o 31 30 ≠ wFld w 31 30 ∧ wFld cmd 3 0 ≠ 0) ∨ (wFld o 29 28 ≠ wFld w 29 28 ∧ wFld cmd 7 4 ≠ 0)) then s
  else s.wr reg w

/-! ## The commands without register writes -/

def execFioOutputFrame (arrived : Bool) (s : State) : Host.Outcome State Fault Refusal := .next (fioOutputFrame arrived s)
def execFioInputFrame (rb lim : BitVec 8) (cur : List (BitVec 16)) (vfld : BitVec 16) (s : State) : Host.Outcome State Fault Refusal :=
  .next (fioInputFrame rb lim cur vfld s)
def execDiSample (n : Fin 16) (high : Bool) (s : State) : Host.Outcome State Fault Refusal := .next (diSample n high s)
def execOverloadCutoff (n : Fin 8) (s : State) : Host.Outcome State Fault Refusal := .next (overloadCutoff n s)
def execThermalCutoff (n : Fin 8) (s : State) : Host.Outcome State Fault Refusal := .next (thermalCutoff n s)
def execOutputRetry (n : Fin 8) (s : State) : Host.Outcome State Fault Refusal := .next (outputRetry n s)
def execRetryCountClear (n : Fin 8) (s : State) : Host.Outcome State Fault Refusal := .next (retryCountClear n s)
def execOutputDiagnostic (n : Fin 8) (d : DiagCond) (s : State) : Host.Outcome State Fault Refusal :=
  .next (outputDiagnostic n d.kind d.held s)
def execReadbackHigh (n : Fin 8) (drivers : BitVec 8) (s : State) : Host.Outcome State Fault Refusal := .next (readbackHigh n drivers s)
def execSilenceTimeout (s : State) : Host.Outcome State Fault Refusal := .next (silenceTimeout s)
def execVfldWarn (s : State) : Host.Outcome State Fault Refusal := .next (vfldWarn s)
def execVfldSag (s : State) : Host.Outcome State Fault Refusal := .next (vfldSag s)
def execVfldRecover (s : State) : Host.Outcome State Fault Refusal := .next (vfldRecover s)

end Sys2Proof.Machine
end

