-- ==== Sys2Proof/Machine/Pwm.lean ====
section
/-! DEFINITION. PWM groups (chapter PWM groups): carriers and update points (R127 to R132), edges (R133, R134), dead times (R135,
R136), minimum pulses (R137, R138), trips (R139, R140), registers (R142). -/

namespace Sys2Proof.Machine

/-- A trip acts on the group now: TRIPg, or TRIP_ALL where TRALL is set (R139). -/
def State.tripped (s : State) (g : Nat) : Bool :=
  s.bit (Reg.PWM_GRP_STAT g) 28 || (s.bit Reg.PWM_TRALL 31 && s.bit (Reg.PWM_GRP_CFG g) 19)

/-- Axes that group g triggers and that are due in this cycle hold because the group is stopped, once in the cycle (R130). -/
def State.stopHolds (s : State) (g : Fin 8) : State :=
  if (s.grp g).held || !s.lawsRun then s
  else
    let s := s.setGrp g { s.grp g with held := true }
    s.each ((List.range 256).filter (fun a => s.triggeredBy a (.group g) && s.due a s.tb.cyc)) (fun a s => s.holdStop a)

/-- PWM_START for one group (R130, R140). -/
def State.pwmStart1 (s : State) (g : Nat) : State :=
  if s.pwmRun g || (s.grp g).startPend then s
  else if !s.grpOk g s.tb.len then s.setBit (Reg.PWM_GRP_STAT g) 9 true
  else if s.bit (Reg.PWM_GRP_CFG g) 20 && s.tripped g then s
  else s.setGrp g { s.grp g with startPend := true, stopPend := false, trStop := false, startAt := s.tb.tick }

/-- A running group is to stop: it does so at its first valley after this tick (R130). -/
def State.stopAtValley (s : State) (g : Nat) : State :=
  let c := s.grp g
  if s.pwmRun g && !c.stopPend then s.setGrp g { c with stopPend := true, stopAt := s.tb.tick } else s

/-- PWM_STOP for one group: it stops at its next valley, or a waiting start is cancelled (R130). -/
def State.pwmStop1 (s : State) (g : Fin 8) : State :=
  let c := s.grp g
  if s.pwmRun g then s.stopAtValley g
  else if c.startPend then (s.setGrp g { c with startPend := false }).stopHolds g
  else s

/-- The groups whose bit of a written word is set, in order. -/
def State.eachGrp (s : State) (v : Word) (f : Fin 8 → State → State) : State :=
  s.each (List.finRange 8) (fun g s => if wBit v g then f g s else s)

/-- Each running group stops on a change to a mode without laws (R130, R340). -/
def State.pwmStopAll (s : State) : State := s.each (List.range 8) (fun g s => s.stopAtValley g)

/-- LOAD_ALL strobe (R132). -/
def State.loadAll (s : State) : State :=
  s.each (List.range 8) (fun g s => if s.bit (Reg.PWM_GRP_CTRL g) 31 then s.setBit (Reg.PWM_GRP_STAT g) 29 true else s)

/-! ## Phases -/

/-- Clear a phase's switches: cut or stopped; open windows lapse (R130, R139). -/
def Phase.kill (p : Phase) : Phase := { sense := p.sense }

/-- Dead times of a phase in force: DT_R and DT_F in fine ticks (R135). -/
structure DeadTimes where
  r : Nat
  f : Nat
  deriving DecidableEq, Repr

/-- Compare value of a duty for half-period h fine ticks; bit 15 acts as 0 (R131, R133). -/
def cmpOf (d h : Nat) : Nat :=
  if d = 0x7FFF then h
  else if 32768 ≤ d then 0
  else (rneDiv ((d * h : Nat) : Int) 32768).toNat

/-- Where an edge computed for fine tick t is placed: at t, or on the nearest whole tick while the delay line is off its calibration (R134). -/
def placed (coarse : Bool) (t : Nat) : Nat := if coarse then (rneDiv (t : Int) 32).toNat * 32 else t

/-- What a group's phases share: the dead times in force, DT_MAX and MINPW in fine ticks, whether dead times adapt, and whether edges lie on
whole ticks (R134 to R138). -/
structure EdgeCfg where
  dt : DeadTimes
  dtMax : Nat
  mpw : Nat
  adaptive : Bool
  coarse : Bool
  deriving DecidableEq, Repr

/-- A commanded transition computed for fine tick t: the outgoing switch turns off, the incoming waits for its dead time, and with adaptive
dead times a sense window opens unless no switch turned off. Each of the two edges is placed by itself (R134 to R136). -/
def Phase.switch (p : Phase) (rising : Bool) (t : Nat) (e : EdgeCfg) : Phase :=
  let off := placed e.coarse t
  let due := placed e.coarse (t + (if rising then e.dt.r else e.dt.f))
  { p with sw := 0, next := if rising then 2 else 1, due := due, cmd := rising, fresh := false,
           rise := if rising then false else p.rise, fall := if rising then p.fall else false,
           win := if e.adaptive && p.sw != 0 then some (rising, off, due, max (off + e.dtMax) (due + 512), false) else none }

/-- The instant of a commanded edge: not before the switch that is on has been on for mpw fine ticks (R138). -/
def Phase.edgeAt (p : Phase) (t mpw : Nat) : Nat := if p.sw ≠ 0 then max t (p.since + mpw) else t

/-- A phase at the valley at fine tick v (R133, R137), with cmp and half-period h: the new phase and the pulses swallowed. A rise commanded at
the valley itself, while the low side still waits for its dead time, comes after that side's on-interval (R138). -/
def Phase.valley (p : Phase) (v cmp h : Nat) (e : EdgeCfg) : Phase × Nat :=
  let ton := 2 * cmp
  let toff := 2 * (h - cmp)
  let p := { p with rise := false, fall := false }
  let up (p : Phase) : Phase × Nat :=
    if cmp = 0 then (p, 0)
    else if ton < e.dt.r + e.mpw then (p, 1)
    else ({ p with rise := true }, 0)
  if p.fresh then
    if toff = 0 then (p.switch true v { e with adaptive := false }, 0)
    else up (p.switch false v { e with adaptive := false })
  else if p.cmd then
    if toff = 0 then (p, 0)
    else if toff < e.dt.f + e.mpw then (p, 1)
    else up (p.switch false (p.edgeAt v e.mpw) e)
  else if toff = 0 then (if p.next ≠ 0 then ({ p with rise := true }, 0) else (p.switch true (p.edgeAt v e.mpw) e, 0))
  else up p

/-- A phase at a peak: the low-pulse test decides the falling edge (R137). -/
def Phase.peak (p : Phase) (cmp h : Nat) (e : EdgeCfg) : Phase × Nat :=
  let toff := 2 * (h - cmp)
  if !(p.cmd || p.rise) || toff == 0 then (p, 0)
  else if toff < e.dt.f + e.mpw then (p, 1)
  else ({ p with fall := true }, 0)

/-- Address of the dead-time register of phase x, and the dead times it holds. -/
def dtReg (g x : Nat) : Nat := if x = 0 then Reg.PWM_GRP_DTU g else if x = 1 then Reg.PWM_GRP_DTV g else Reg.PWM_GRP_DTW g
def State.deadTimes (s : State) (g x : Nat) : DeadTimes := ⟨s.fld (dtReg g x) 15 0, s.fld (dtReg g x) 31 16⟩

/-- Active duty of phase x (R131). -/
def State.actDuty (s : State) (g x : Nat) : Nat :=
  if x = 0 then s.fld (Reg.PWM_GRP_ACT01 g) 15 0
  else if x = 1 then s.fld (Reg.PWM_GRP_ACT01 g) 31 16
  else s.fld (Reg.PWM_GRP_ACT2 g) 15 0

/-- DT_MAX in force in fine ticks, minimum pulse in force in fine ticks, and whether dead times adapt (R136, R142). -/
def State.dtMaxF (s : State) (g : Nat) : Nat := wFld (s.grp g).dt 23 16 * 32
def State.mpwF (s : State) (g : Nat) : Nat := (s.grp g).minpw * 32
def State.adaptive (s : State) (g : Nat) : Bool := !s.bit (Reg.PWM_GRP_CFG g) 21
def State.halfF (s : State) (g : Nat) : Nat := 32 * s.pwmPer g

/-- What phase x of group g switches by now. -/
def State.edgeCfg (s : State) (g x : Nat) : EdgeCfg :=
  ⟨s.deadTimes g x, s.dtMaxF g, s.mpwF g, s.adaptive g, s.bit (Reg.PWM_GRP_STAT g) 26⟩

/-- Phase x of group g, and its replacement. -/
def State.phase (s : State) (g x : Nat) : Phase := ((s.grp g).ph[x]?).getD {}
def State.setPhase (s : State) (g x : Nat) (p : Phase) : State := s.setGrp g { s.grp g with ph := setAt (s.grp g).ph x p }

/-- Swallowed pulses of a group count, and set the event (R137). -/
def State.swallow (s : State) (g k : Nat) : State :=
  if k = 0 then s else (s.setFld (Reg.PWM_GRP_CNT g) 15 0 (s.fld (Reg.PWM_GRP_CNT g) 15 0 + k)).pwmEvt (16 + g)

/-- All outputs of a group go off and stay off (R130, R139). -/
def State.killGrp (s : State) (g : Nat) : State := s.setGrp g { s.grp g with ph := (s.grp g).ph.map Phase.kill }

/-- Both dead times of every phase become DT_MAX (R135, R136). -/
def State.dtAllMax (s : State) (g : Nat) : State :=
  let m := s.dtMaxF g
  s.each [0, 1, 2] (fun x s => s.wr (dtReg g x) (word (m * 65536 + m)))

/-- What a write of AWAIT_LOADALL, DT, DTADJ and MINPW comes to at an update point (R132, R142). -/
def State.latchGrp (s : State) (g : Nat) : State :=
  let s := s.setGrp g { s.grp g with await := s.bit (Reg.PWM_GRP_CTRL g) 31, dt := s.rd (Reg.PWM_GRP_DT g),
                                     adj := s.rd (Reg.PWM_GRP_DTADJ g), minpw := s.fld (Reg.PWM_GRP_MINPW g) 7 0 }
  if s.adaptive g then s else s.dtAllMax g

/-- The shadow set becomes active where it is valid and not waiting for LOAD_ALL (R131, R132). -/
def State.takeShadow (s : State) (g : Nat) : State :=
  let st := Reg.PWM_GRP_STAT g
  let valid := s.bit st 30
  let take := valid && (s.bit st 29 || !(s.grp g).await)
  let s := (s.setBit st 29 false).setGrp g { s.grp g with blank := !valid }
  if take then (s.wr (Reg.PWM_GRP_ACT01 g) (s.rd (Reg.PWM_GRP_SHDW01 g))).wr (Reg.PWM_GRP_ACT2 g) (s.rd (Reg.PWM_GRP_SHDW2 g)) else s

/-- The group stops at its valley (R130); axes it triggers hold where this valley was an update point. -/
def State.haltGrp (s : State) (g : Fin 8) (upd : Bool) : State :=
  let st := Reg.PWM_GRP_STAT g
  let w := s.rd st
  let w := wSetBit (wSetBit (wSetBit w 31 false) 30 false) 27 false
  let s := (s.wr st (if (s.grp g).trStop then wSetBit w 13 true else w)).setGrp g { held := (s.grp g).held, ph := (s.grp g).ph.map Phase.kill }
  if upd then s.stopHolds g else s

/-- The new period of a running group: cut while a trip is active, off while no shadow was given, else its phases run (R131, R133,
R137, R139). -/
def State.newPeriod (s : State) (g v : Nat) : State :=
  let st := Reg.PWM_GRP_STAT g
  let cut := s.tripped g
  let s := (s.setBit st 27 cut).setGrp g { s.grp g with valley := v, down := false, cutDone := cut }
  if cut then (s.killGrp g).incFld (Reg.PWM_GRP_CNT g) 31 16
  else if (s.grp g).blank then s.killGrp g
  else s.each [0, 1, 2] (fun x s =>
    let r := (s.phase g x).valley v (cmpOf (s.actDuty g x) (s.halfF g)) (s.halfF g) (s.edgeCfg g x)
    (s.setPhase g x r.1).swallow g r.2)

/-- The strobe of an update point: phase currents of the group's axes and their law jobs (R20, R23, R101). -/
def State.strobe (s : State) (g : Fin 8) (tick : Nat) : State :=
  let cur := [0, 1, 2].map (fun x => loS (s.rd (Reg.FBK_DSM_RES (3 * g + x))))
  let s := s.each ((List.range 256).filter (fun a => s.triggeredBy a (.group g))) (fun a s => s.setAxis a { s.axis a with cur := cur })
  s.queueJobs (.group g) s.tb.cyc (tick + 80)

/-- The delta-sigma inputs of group g deliver their results at a valley in tick t (R123). -/
def State.dsmResults (s : State) (g : Nat) (u v w : DsmLine) (t : Nat) : State :=
  ((s.dsmResult (3 * g) u t).dsmResult (3 * g + 1) v t).dsmResult (3 * g + 2) w t

/-- A carrier of group g reaches its valley at a tick of this cycle; u, v, w: its three delta-sigma inputs up to that tick (R123, R127 to R133). A
write that completes in the tick of the valley acts at a later one (R130). -/
def carrierValley (g : Fin 8) (tick : Nat) (u v w : DsmLine) (s : State) : State :=
  match s.valleyIndex g tick with
  | none => s
  | some j =>
    let upd := j % s.pwmN g == 0
    let c := s.grp g
    let t := s.tick0 + tick
    if !s.tb.running then s
    else if !s.pwmRun g && !(c.startPend && upd && decide (c.startAt < t)) then s
    else if s.pwmRun g && c.stopPend && decide (c.stopAt < t) then (s.dsmResults g u v w t).haltGrp g upd
    else
      let start := !s.pwmRun g
      let s := if start then s.setBit (Reg.PWM_GRP_STAT g) 31 true else s
      let s := s.setGrp g { s.grp g with startPend := false, j := j, upd := if upd then some t else (s.grp g).upd }
      let s := s.dsmResults g u v w t
      let s := if upd then (s.latchGrp g).takeShadow g else s
      let s := if start then s.dtAllMax g else s
      let s := s.newPeriod g (t * 32)
      if upd then s.strobe g tick else s

/-- The carrier's peak at a tick of this cycle, PER ticks after its valley (R127, R137). -/
def carrierPeak (g : Fin 8) (tick : Nat) (s : State) : State :=
  let c := s.grp g
  if !s.pwmRun g || !s.tb.running || c.down || decide ((s.tick0 + tick) * 32 ≠ c.valley + s.halfF g) then s
  else
    let s := s.setGrp g { c with down := true }
    if s.bit (Reg.PWM_GRP_STAT g) 27 || c.blank then s
    else s.each [0, 1, 2] (fun x s =>
      let r := (s.phase g x).peak (cmpOf (s.actDuty g x) (s.halfF g)) (s.halfF g) (s.edgeCfg g x)
      (s.setPhase g x r.1).swallow g r.2)

/-- The commanded transition of a phase that is due in this period: the rising edge first, then the falling one (R133, R135, R138). -/
def commandedEdge (g : Fin 8) (x : Fin 3) (s : State) : State :=
  let p := s.phase g x
  let h := s.halfF g
  let cmp := cmpOf (s.actDuty g x) h
  let v := (s.grp g).valley
  let go (rising : Bool) (t : Nat) : State :=
    s.setPhase g x (p.switch rising (p.edgeAt t (s.mpwF g)) (s.edgeCfg g x))
  if !s.pwmRun g || !s.tb.running || p.next ≠ 0 then s
  else if p.rise then go true (v + h - cmp)
  else if p.fall then go false (v + h + cmp)
  else s

/-- The dead time of a phase ends and the incoming switch turns on (R135). -/
def deadTimeEnd (g : Fin 8) (x : Fin 3) (s : State) : State :=
  let p := s.phase g x
  if p.next = 0 ∨ !s.tb.running then s else s.setPhase g x { p with sw := p.next, since := p.due, next := 0 }

/-- A soft edge moves the dead time toward its target (R136). -/
def adapt (cur meas : Nat) (adj dt : Word) : Nat :=
  let lo := wFld dt 7 0 * 32
  let hi := wFld dt 23 16 * 32
  let tgt := max lo (min hi (meas + wFld adj 7 0))
  let slew := wFld adj 23 16
  if cur ≤ tgt then cur + min slew (tgt - cur) else cur - min slew (cur - tgt)

/-- Set DT_R or DT_F of a phase. -/
def State.setDead (s : State) (g x : Nat) (rising : Bool) (v : Nat) : State :=
  if rising then s.setFld (dtReg g x) 15 0 v else s.setFld (dtReg g x) 31 16 v

/-- A sense input changes its level, stamped at a fine tick of this cycle (R136). -/
def senseTransition (g : Fin 8) (x : Fin 3) (level : Bool) (fine : Nat) (s : State) : State :=
  let p := s.phase g x
  if p.sense == level then s
  else
    let t := s.tick0 * 32 + fine
    let s1 := s.setPhase g x { p with sense := level }
    match p.win with
    | none => s1
    | some (rising, off, on, close, seen) =>
      if seen || level != rising || decide (t < off) || decide (close ≤ t) then s1
      else
        let s1 := s1.setPhase g x { p with sense := level, win := some (rising, off, on, close, true) }
        if t < on then
          let d := s.deadTimes g x
          s1.setDead g x rising (adapt (if rising then d.r else d.f) (t - off) (s.grp g).adj (s.grp g).dt)
        else s1

/-- A sense window closes; with no transition inside it the dead time becomes DT_MAX (R136). -/
def senseWindowClose (g : Fin 8) (x : Fin 3) (s : State) : State :=
  let p := s.phase g x
  match p.win with
  | none => s
  | some (rising, _, _, _, seen) =>
    let s := s.setPhase g x { p with win := none }
    if seen then s
    else ((s.setDead g x rising (s.dtMaxF g)).setBit (Reg.PWM_GRP_STAT g) (12 - x) true).pwmEvt (8 + g)

/-! ## Trips -/

/-- A trip acts on a running group: its outputs go off for the rest of the period, once counted; TRMODE = 1 also stops it, or
cancels its waiting start (R139, R140). -/
def State.cutGrp (s : State) (g : Fin 8) : State :=
  let tr := s.bit (Reg.PWM_GRP_CFG g) 20
  if s.pwmRun g then
    let c := s.grp g
    let s := (s.killGrp g).setBit (Reg.PWM_GRP_STAT g) 27 true
    let s := if c.cutDone then s else s.incFld (Reg.PWM_GRP_CNT g) 31 16
    let s := s.setGrp g { s.grp g with cutDone := true, trStop := c.trStop || tr }
    if tr then s.stopAtValley g else s
  else if tr && (s.grp g).startPend then (s.pwmStop1 g).setBit (Reg.PWM_GRP_STAT g) 13 true
  else s

/-- A trip input becomes active; none is TRIP_ALL. While the carriers are frozen a filtered input is not accepted (R139 to R141). -/
def tripActive (input : Option (Fin 8)) (s : State) : State :=
  match input with
  | some g =>
    let filt := s.fld (Reg.PWM_GRP_CFG g) 18 15
    if s.bit (Reg.PWM_GRP_STAT g) 28 || (!s.tb.running && filt != 0) then s
    else
      let s := (s.orBits (Reg.PWM_GRP_STAT g) (bitW 28 ||| bitW 15)).pwmEvt g
      ((s.cutGrp g).capEvent 3 g 0).capCond 4 (trigObj g)
  | none =>
    if s.bit Reg.PWM_TRALL 31 || (!s.tb.running && s.fld Reg.PWM_TRALL 3 0 != 0) then s
    else
      let s := (s.setBit Reg.PWM_TRALL 31 true).pwmEvt 31
      let s := s.each (List.finRange 8) (fun g s =>
        if s.bit (Reg.PWM_GRP_CFG g) 19 then (s.setBit (Reg.PWM_GRP_STAT g) 14 true).cutGrp g else s)
      (s.capEvent 3 8 0).capCond 4 (trigObj 8)

/-- The inactive level of a trip input is accepted (R139). -/
def tripInactive (input : Option (Fin 8)) (s : State) : State :=
  match input with
  | some g => if !s.tb.running && s.fld (Reg.PWM_GRP_CFG g) 18 15 != 0 then s else s.setBit (Reg.PWM_GRP_STAT g) 28 false
  | none => if !s.tb.running && s.fld Reg.PWM_TRALL 3 0 != 0 then s else s.setBit Reg.PWM_TRALL 31 false

/-- Sticky trip flags that stand again at once while their input is active (R140). -/
def State.tripHold (s : State) : State :=
  let s := s.each (List.range 8) (fun g s =>
    if s.bit (Reg.PWM_GRP_STAT g) 28 then (s.setBit (Reg.PWM_GRP_STAT g) 15 true).pwmEvt g else s)
  if s.bit Reg.PWM_TRALL 31 then
    (s.each (List.range 8) (fun g s => if s.bit (Reg.PWM_GRP_CFG g) 19 then s.setBit (Reg.PWM_GRP_STAT g) 14 true else s)).pwmEvt 31
  else s

/-- A group's delay line loses or regains calibration (R134). -/
def delayLineError (g : Fin 8) (s : State) : State := (s.setBit (Reg.PWM_GRP_STAT g) 26 true).pwmEvt 30
def delayLineRecalibrated (g : Fin 8) (s : State) : State := s.setBit (Reg.PWM_GRP_STAT g) 26 false

/-! ## Register writes (R131, R132, R142) -/

/-- PWM_GRP_DT: refused where DT_MIN is 0 or above DT_MAX (R142). -/
def State.dtWrite (s : State) (g : Nat) (v : Word) : State :=
  if wFld v 7 0 = 0 ∨ wFld v 23 16 < wFld v 7 0 then s.setBit (Reg.PWM_GRP_STAT g) 9 true
  else s.wr (Reg.PWM_GRP_DT g) (v &&& 0x00FF00FF)

/-- PWM_GRP_CTRL: ignored with SRC = 0; at once for a stopped group (R132). -/
def State.grpCtrlWrite (s : State) (g : Nat) (v : Word) : State :=
  if !s.bit (Reg.PWM_GRP_CFG g) 14 then s
  else
    let s := s.setBit (Reg.PWM_GRP_CTRL g) 31 (wBit v 31)
    if s.pwmRun g then s else s.setGrp g { s.grp g with await := wBit v 31 }

/-- A firmware write to a shadow register: ignored with SRC = 0 (R131). -/
def State.shadowWrite (s : State) (g : Nat) (second : Bool) (v : Word) : State :=
  if !s.bit (Reg.PWM_GRP_CFG g) 14 then s
  else
    (if second then s.wr (Reg.PWM_GRP_SHDW2 g) (v &&& 0xFFFF) else s.wr (Reg.PWM_GRP_SHDW01 g) v).setBit (Reg.PWM_GRP_STAT g) 30 true

/-- PWM_GRP_CFG, PER and PHASE: only in CONFIGURE and MAINTENANCE and only while the group is stopped (R142). -/
def State.grpCfgWrite (s : State) (g reg : Nat) (m v : Word) : State :=
  if s.imageOpen && !s.pwmRun g then s.wr reg ((s.rd reg &&& ~~~ m) ||| (v &&& m)) else s

/-- Level that the group gives output PWMg_xH or PWMg_xL of phase x: its on or off level by POL (R126). -/
def State.pwmLevel (s : State) (g x : Nat) (high : Bool) : Bool :=
  if high then ((s.phase g x).sw == 2) != s.bit (Reg.PWM_GRP_CFG g) (11 - 2 * x)
  else ((s.phase g x).sw == 1) != s.bit (Reg.PWM_GRP_CFG g) (10 - 2 * x)

/-! ## The commands without register writes -/

def execCarrierValley (g : Fin 8) (tick : Nat) (y : DsmLines) (s : State) : Host.Outcome State Fault Refusal :=
  .next (carrierValley g tick y.u y.v y.w s)
def execCarrierPeak (g : InstTick) (s : State) : Host.Outcome State Fault Refusal := .next (carrierPeak g.n g.tick s)
def execCommandedEdge (g : Fin 8) (x : Fin 3) (s : State) : Host.Outcome State Fault Refusal := .next (commandedEdge g x s)
def execDeadTimeEnd (g : Fin 8) (x : Fin 3) (s : State) : Host.Outcome State Fault Refusal := .next (deadTimeEnd g x s)
def execSenseTransition (g : Fin 8) (x : Fin 3) (level : Bool) (fine : Nat) (s : State) : Host.Outcome State Fault Refusal :=
  .next (senseTransition g x level fine s)
def execSenseWindowClose (g : Fin 8) (x : Fin 3) (s : State) : Host.Outcome State Fault Refusal := .next (senseWindowClose g x s)
def execTripActive (g : Option (Fin 8)) (s : State) : Host.Outcome State Fault Refusal := .next (tripActive g s)
def execTripInactive (g : Option (Fin 8)) (s : State) : Host.Outcome State Fault Refusal := .next (tripInactive g s)
def execDelayLineError (g : Fin 8) (s : State) : Host.Outcome State Fault Refusal := .next (delayLineError g s)
def execDelayLineRecalibrated (g : Fin 8) (s : State) : Host.Outcome State Fault Refusal := .next (delayLineRecalibrated g s)

end Sys2Proof.Machine
end

