-- ==== Sys2Proof/Machine/Codes.lean ====
section
/-! DEFINITION. The check codes and the cryptography the spec names: CRC-32 (R151), CRC-32C (R162), the token register of the safety
groups (R158), SHA-256 (R365) and the Ed25519 verification of RFC 8032 (R370). -/

namespace Sys2Proof.Machine

/-! ## Cyclic redundancy -/

/-- k steps of a reflected CRC register with the reflected polynomial p. -/
def crcSteps (p : Nat) : Nat → Nat → Nat
  | 0, c => c
  | k + 1, c => crcSteps p k (if c % 2 = 1 then (c / 2) ^^^ p else c / 2)

/-- A reflected 32-bit CRC with initial value and final XOR of all ones. -/
def crcOf (p : Nat) (bs : List Byte) : Nat :=
  (bs.foldl (fun c b => crcSteps p 8 (c ^^^ b.toNat)) 0xFFFFFFFF) ^^^ 0xFFFFFFFF

/-- The CRC-32 of R151. -/
def crc32 (bs : List Byte) : Nat := crcOf 0xEDB88320 bs

/-- The CRC-32C of R162. -/
def crc32c (bs : List Byte) : Nat := crcOf 0x82F63B78 bs

/-- The next value of a group's token (R158). -/
def tokenNext (t : Word) : Word :=
  (t <<< 1) ||| mkBit 0 (xor (xor (wBit t 31) (wBit t 21)) (xor (wBit t 1) (wBit t 0)))

/-! ## SHA-2: one construction for words of 32 bits (SHA-256) and 64 bits (SHA-512) -/

def shaK : List Nat := [
  0x428A2F98D728AE22, 0x7137449123EF65CD, 0xB5C0FBCFEC4D3B2F, 0xE9B5DBA58189DBBC,
  0x3956C25BF348B538, 0x59F111F1B605D019, 0x923F82A4AF194F9B, 0xAB1C5ED5DA6D8118,
  0xD807AA98A3030242, 0x12835B0145706FBE, 0x243185BE4EE4B28C, 0x550C7DC3D5FFB4E2,
  0x72BE5D74F27B896F, 0x80DEB1FE3B1696B1, 0x9BDC06A725C71235, 0xC19BF174CF692694,
  0xE49B69C19EF14AD2, 0xEFBE4786384F25E3, 0x0FC19DC68B8CD5B5, 0x240CA1CC77AC9C65,
  0x2DE92C6F592B0275, 0x4A7484AA6EA6E483, 0x5CB0A9DCBD41FBD4, 0x76F988DA831153B5,
  0x983E5152EE66DFAB, 0xA831C66D2DB43210, 0xB00327C898FB213F, 0xBF597FC7BEEF0EE4,
  0xC6E00BF33DA88FC2, 0xD5A79147930AA725, 0x06CA6351E003826F, 0x142929670A0E6E70,
  0x27B70A8546D22FFC, 0x2E1B21385C26C926, 0x4D2C6DFC5AC42AED, 0x53380D139D95B3DF,
  0x650A73548BAF63DE, 0x766A0ABB3C77B2A8, 0x81C2C92E47EDAEE6, 0x92722C851482353B,
  0xA2BFE8A14CF10364, 0xA81A664BBC423001, 0xC24B8B70D0F89791, 0xC76C51A30654BE30,
  0xD192E819D6EF5218, 0xD69906245565A910, 0xF40E35855771202A, 0x106AA07032BBD1B8,
  0x19A4C116B8D2D0C8, 0x1E376C085141AB53, 0x2748774CDF8EEB99, 0x34B0BCB5E19B48A8,
  0x391C0CB3C5C95A63, 0x4ED8AA4AE3418ACB, 0x5B9CCA4F7763E373, 0x682E6FF3D6B2B8A3,
  0x748F82EE5DEFB2FC, 0x78A5636F43172F60, 0x84C87814A1F0AB72, 0x8CC702081A6439EC,
  0x90BEFFFA23631E28, 0xA4506CEBDE82BDE9, 0xBEF9A3F7B2C67915, 0xC67178F2E372532B,
  0xCA273ECEEA26619C, 0xD186B8C721C0C207, 0xEADA7DD6CDE0EB1E, 0xF57D4F7FEE6ED178,
  0x06F067AA72176FBA, 0x0A637DC5A2C898A6, 0x113F9804BEF90DAE, 0x1B710B35131C471B,
  0x28DB77F523047D84, 0x32CAAB7B40C72493, 0x3C9EBE0A15C9BEBC, 0x431D67C49C100D4C,
  0x4CC5D4BECB3E42B6, 0x597F299CFC657E2A, 0x5FCB6FAB3AD6FAEC, 0x6C44198C4A475817]

def shaH : List Nat := [
  0x6A09E667F3BCC908, 0xBB67AE8584CAA73B, 0x3C6EF372FE94F82B, 0xA54FF53A5F1D36F1,
  0x510E527FADE682D1, 0x9B05688C2B3E6C1F, 0x1F83D9ABFB41BD6B, 0x5BE0CD19137E2179]

/-- The constants for words of w bits: the leading w bits of the 64. -/
def shaTop (w : Nat) (l : List Nat) : List Nat := l.map (fun x => x >>> (64 - w))

/-- Rotation right of a w-bit number. -/
def rotr (w r x : Nat) : Nat := (x >>> r ||| x <<< (w - r)) % 2 ^ w

/-- Complement of a w-bit number. -/
def notN (w x : Nat) : Nat := 2 ^ w - 1 - x % 2 ^ w

/-- The rotations of one width: those of the two compression sums, and two rotations with a shift of each schedule sum. -/
structure ShaRot where
  b0 : Nat × Nat × Nat
  b1 : Nat × Nat × Nat
  s0 : Nat × Nat × Nat
  s1 : Nat × Nat × Nat
  deriving DecidableEq, Repr

def rot256 : ShaRot := ⟨(2, 13, 22), (6, 11, 25), (7, 18, 3), (17, 19, 10)⟩
def rot512 : ShaRot := ⟨(28, 34, 39), (14, 18, 41), (1, 8, 7), (19, 61, 6)⟩

/-- XOR of three rotations. -/
def bigSum (w : Nat) (r : Nat × Nat × Nat) (x : Nat) : Nat := rotr w r.1 x ^^^ rotr w r.2.1 x ^^^ rotr w r.2.2 x

/-- XOR of two rotations and a shift. -/
def smallSum (w : Nat) (r : Nat × Nat × Nat) (x : Nat) : Nat := rotr w r.1 x ^^^ rotr w r.2.1 x ^^^ (x >>> r.2.2)

/-- One round for each constant: the working variables and the sixteen schedule words in use. -/
def shaRounds (w : Nat) (r : ShaRot) : List Nat → List Nat → List Nat → List Nat
  | [], v, _ => v
  | k :: ks, v, m =>
    let a := natAt v 0
    let b := natAt v 1
    let c := natAt v 2
    let e := natAt v 4
    let ch := (e &&& natAt v 5) ^^^ (notN w e &&& natAt v 6)
    let t1 := natAt v 7 + bigSum w r.b1 e + ch + k + natAt m 0
    let t2 := bigSum w r.b0 a + ((a &&& b) ^^^ (a &&& c) ^^^ (b &&& c))
    let n := (smallSum w r.s1 (natAt m 14) + natAt m 9 + smallSum w r.s0 (natAt m 1) + natAt m 0) % 2 ^ w
    shaRounds w r ks [(t1 + t2) % 2 ^ w, a, b, c, (natAt v 3 + t1) % 2 ^ w, e, natAt v 5, natAt v 6] (m.drop 1 ++ [n])

/-- A big-endian number. -/
def beNat (bs : List Byte) : Nat := leNat bs.reverse

/-- k big-endian bytes of n. -/
def beBytes (k n : Nat) : List Byte := (leBytes k n).reverse

/-- k big-endian words of w bits. -/
def beWords (w : Nat) : Nat → List Byte → List Nat
  | 0, _ => []
  | k + 1, l => beNat (l.take (w / 8)) :: beWords w k (l.drop (w / 8))

/-- Absorb n blocks of sixteen words. -/
def shaBlocks (w : Nat) (r : ShaRot) (ks : List Nat) : Nat → List Nat → List Byte → List Nat
  | 0, h, _ => h
  | n + 1, h, l =>
    let v := shaRounds w r ks h (beWords w 16 l)
    shaBlocks w r ks n (List.zipWith (fun a b => (a + b) % 2 ^ w) h v) (l.drop (2 * w))

/-- The message padded to whole blocks: a one bit, zeros, and the length in bits in a quarter of w bytes. -/
def shaPad (w : Nat) (bs : List Byte) : List Byte :=
  let n := bs.length + 1 + w / 4
  bs ++ [0x80] ++ List.replicate ((2 * w - n % (2 * w)) % (2 * w)) 0 ++ beBytes (w / 4) (8 * bs.length)

def sha (w : Nat) (r : ShaRot) (ks : List Nat) (bs : List Byte) : List Byte :=
  let m := shaPad w bs
  (shaBlocks w r ks (m.length / (2 * w)) (shaTop w shaH) m).flatMap (beBytes (w / 8))

/-- SHA-256, 32 bytes. -/
def sha256 (bs : List Byte) : List Byte := sha 32 rot256 (shaTop 32 (shaK.take 64)) bs

/-- SHA-512, 64 bytes. -/
def sha512 (bs : List Byte) : List Byte := sha 64 rot512 shaK bs

/-! ## Ed25519 (RFC 8032) -/

/-- The field's prime. -/
def edP : Nat := 2 ^ 255 - 19

/-- The order of the base point. -/
def edL : Nat := 2 ^ 252 + 27742317777372353535851937790883648493

/-- b^e modulo p, for e below 2^k. -/
def edPow (b e : Nat) : Nat → Nat
  | 0 => 1
  | k + 1 =>
    let r := edPow b (e / 2) k
    let q := r * r % edP
    if e % 2 = 1 then q * b % edP else q

def edInv (a : Nat) : Nat := edPow a (edP - 2) 255
def edSub (a b : Nat) : Nat := (a + (edP - b % edP)) % edP
def edNeg (a : Nat) : Nat := edSub 0 a

/-- The curve constant d. -/
def edD : Nat := edNeg (121665 * edInv 121666)

/-- A square root of -1. -/
def edI : Nat := edPow 2 ((edP - 1) / 4) 255

/-- A point in extended coordinates X, Y, Z, T. -/
structure EdPoint where
  x : Nat
  y : Nat
  z : Nat
  t : Nat
  deriving DecidableEq, Repr

def edZero : EdPoint := ⟨0, 1, 1, 0⟩

/-- Addition of points. -/
def edAdd (p q : EdPoint) : EdPoint :=
  let a := edSub p.y p.x * edSub q.y q.x % edP
  let b := (p.y + p.x) * (q.y + q.x) % edP
  let c := 2 * p.t * q.t * edD % edP
  let d := 2 * p.z * q.z % edP
  let e := edSub b a
  let f := edSub d c
  let g := (d + c) % edP
  let h := (b + a) % edP
  ⟨e * f % edP, g * h % edP, f * g % edP, e * h % edP⟩

/-- n times a point, for n below 2^k. -/
def edMul (p : EdPoint) (n : Nat) : Nat → EdPoint
  | 0 => edZero
  | k + 1 =>
    let r := edMul p (n / 2) k
    let q := edAdd r r
    if n % 2 = 1 then edAdd q p else q

/-- Equality of points. -/
def edEq (p q : EdPoint) : Bool :=
  decide (p.x * q.z % edP = q.x * p.z % edP) && decide (p.y * q.z % edP = q.y * p.z % edP)

/-- The x of a y with the sign bit given, if the pair is on the curve. -/
def edX (y sg : Nat) : Option Nat :=
  let u := edSub (y * y) 1
  let v := (edD * (y * y % edP) + 1) % edP
  let w := u * edInv v % edP
  let r := edPow w ((edP + 3) / 8) 255
  let r := if r * r % edP = w then r else r * edI % edP
  if r * r % edP ≠ w then none
  else if r = 0 ∧ sg = 1 then none
  else if r % 2 = sg then some r else some (edNeg r)

/-- Decoding of a point from 32 bytes. -/
def edPoint (bs : List Byte) : Option EdPoint :=
  let n := leNat bs
  let y := n % 2 ^ 255
  if edP ≤ y then none else (edX y (n / 2 ^ 255)).map (fun x => ⟨x, y, 1, x * y % edP⟩)

/-- The base point: y is 4/5, x is even. -/
def edBase : EdPoint := ((edPoint (leBytes 32 (4 * edInv 5 % edP)))).getD edZero

/-- Whether sig (64 bytes) is a signature of msg by key (32 bytes): the group equation of RFC 8032 with its cofactor 8. -/
def edVerify (key sig msg : List Byte) : Bool :=
  let n := leNat (sig.drop 32)
  match edPoint key, edPoint (sig.take 32) with
  | some a, some r =>
    decide (n < edL) &&
      (let k := leNat (sha512 (sig.take 32 ++ key ++ msg)) % edL
       let l := edMul edBase n 253
       let q := edAdd r (edMul a k 253)
       edEq (edMul l 8 4) (edMul q 8 4))
  | _, _ => false

end Sys2Proof.Machine
end

