-- ==== Sys2Proof/Machine/Saf.lean ====
section
/-! DEFINITION. Safety functions: the two channels' samples, filters and tests (R215 to R223), the group states (R224 to R229), SLS (R231,
R232), tokens and containers (R31, R158, R233), faults, DEGRADED and SAFE STOP (R237 to R240), and the SAF registers (R244). -/

namespace Sys2Proof.Machine

/-! ## Channels and groups -/

/-- A channel: Basalt, or Garnet. -/
def State.saf? (s : State) (bas : Bool) : SafChan := if bas then s.saf.b else s.saf.g
def State.setSaf (s : State) (bas : Bool) (c : SafChan) : State :=
  if bas then { s with saf := { s.saf with b := c } } else { s with saf := { s.saf with g := c } }

def SafChan.grp (c : SafChan) (g : Nat) : SafGrp := (c.grps[g]?).getD {}
def SafChan.input (c : SafChan) (k : Nat) : SafInput := (c.inputs[k]?).getD {}
def State.safGrp (s : State) (bas : Bool) (g : Nat) : SafGrp := (s.saf? bas).grp g
def State.setSafGrp (s : State) (bas : Bool) (g : Nat) (x : SafGrp) : State :=
  s.setSaf bas { s.saf? bas with grps := setAt (s.saf? bas).grps g x }

/-- Set or clear bit g of a mask. -/
def maskBit (m g : Nat) (b : Bool) : Nat := if b then m ||| 2 ^ g else if m.testBit g then m - 2 ^ g else m

/-- Fields of the switches in force in a channel (R215). -/
def SafChan.rst (c : SafChan) : Bool := c.sw.testBit 11

/-- Samples of the input filter (R219). -/
def SafChan.filter (c : SafChan) : Nat :=
  match c.sw / 4 % 4 with
  | 0 => 20
  | 1 => 60
  | _ => 200

/-- The discrepancy time in samples of 50 µs (R215, R222). -/
def SafChan.discSteps (c : SafChan) : Nat :=
  match c.sw % 4 with
  | 0 => 400
  | 1 => 1000
  | 2 => 2000
  | _ => 5000

/-- MAP and the SS1 class (R215). -/
def SafChan.mapOf (c : SafChan) : Nat := c.sw / 512 % 4
def SafChan.ss1Of (c : SafChan) : Nat := c.sw / 64 % 8

/-- The delay in ms of an SS1 class (R215). -/
def ss1Ms (k : Nat) : Nat :=
  match k with
  | 0 => 0
  | 1 => 100
  | 2 => 200
  | 3 => 500
  | 4 => 1000
  | 5 => 2000
  | 6 => 5000
  | _ => 10000

/-- The DEGRADED limit in ms (R215). -/
def degrMs (k : Nat) : Nat :=
  match k with
  | 0 => 2000
  | 1 => 10000
  | 2 => 30000
  | _ => 60000

/-- State codes of R225. -/
def gNOSTART : Nat := 0
def gSTOPPED : Nat := 1
def gREADY : Nat := 2
def gRELEASED : Nat := 3
def gSS1 : Nat := 4
def gSTO : Nat := 5

/-- RELEASED or in SS1. -/
def SafGrp.on (x : SafGrp) : Bool := x.state == gRELEASED || x.state == gSS1

/-- The inputs that demand group g under a map preset (R224). -/
def demanding (map g : Nat) : List Nat :=
  match map with
  | 0 => [g]
  | 1 => List.range 8
  | 2 => if g = 0 then [0] else [0, g]
  | _ => [0]

/-- Input k is in demand in a channel (R221). -/
def SafInput.demand (i : SafInput) : Bool := i.disc || i.a.filt != some true || i.b.filt != some true

/-- Some demanding input of group g is in demand in the channel (R224). -/
def SafChan.demanded (c : SafChan) (g : Nat) : Bool := (demanding c.mapOf g).any (fun k => (c.input k).demand)

/-- Input k has passed its start-up test in both channels (R223). -/
def State.inputTested (s : State) (k : Nat) : Bool := (s.saf.g.input k).tested && (s.saf.b.input k).tested

/-- Every demanding input of group g has passed its start-up test. -/
def State.grpTested (s : State) (c : SafChan) (g : Nat) : Bool := (demanding c.mapOf g).all s.inputTested

/-- A channel that runs: its switches are read and it is not lost. -/
def SafChan.live (c : SafChan) : Bool := c.run && !c.lost

/-- The restart conditions of a group in a channel; no group is released before the image is loaded and CODE compared (R225, R216,
R217, R239, R352). -/
def State.restartOk (s : State) (bas : Bool) (g : Nat) : Bool :=
  let c := s.saf? bas
  !c.demanded g && s.grpTested c g && !(s.saf.g.grp g).fallback && !(s.saf.b.grp g).fallback && s.saf.state == 0 && !c.bad && s.saf.loaded
    && !(bas && s.saf.xdem.testBit g)

/-! ## Mode changes that safety asks for (R341, R352) -/

/-- A change of mode waits for the next tick 0; SAFE STOP is never replaced by another, DEGRADED only by SAFE STOP (R341). -/
def State.reqMode (s : State) (m : Nat) : State :=
  if s.sys.pend = some mSAFESTOP ∨ (s.sys.pend = some mDEGRADED ∧ m ≠ mSAFESTOP) then s else { s with sys := { s.sys with pend := some m } }

/-- A reaction that calls for SAFE STOP: at the next tick 0, or held pending through the boot (R238, R341, R352). -/
def State.reqSafeStop (s : State) : State :=
  if s.mode = mLISTEN ∨ s.mode = mINTEGRATE ∨ s.mode = mRUN ∨ s.mode = mDEGRADED ∨ s.mode = mSTANDBY ∨ s.mode = mMAINTENANCE then
    s.reqMode mSAFESTOP
  else if s.mode = mRESET ∨ s.mode = mBOOT ∨ s.mode = mCONFIGURE then { s with sys := { s.sys with stopPend := true } }
  else s

/-! ## Group state changes -/

/-- A group's state changes in a channel; Basalt's STOBg and Garnet's STOGg follow (R225, R226, R228). -/
def State.grpTo (s : State) (bas : Bool) (g st : Nat) : State :=
  let x := s.safGrp bas g
  if x.state = st then s
  else
    let x' := { x with state := st, pulse := false, ss1Tick := if st = gSS1 then s.tb.tick else x.ss1Tick }
    let s := s.setSafGrp bas g x'
    let s : State := if bas then { s with saf := { s.saf with stob := maskBit s.saf.stob g x'.on } }
      else { s with saf := { s.saf with stog := maskBit s.saf.stog g x'.on } }
    s.safetyEvent g 0

/-- The cause of the last stop of a group (R244). -/
def State.stopCause (s : State) (g c : Nat) : State := s.setFld (Reg.SAF_GRP g) 23 20 c

/-- A channel enters STO on a group (R228). -/
def State.sto (s : State) (bas : Bool) (g cause : Nat) : State :=
  if (s.safGrp bas g).state = gSTO then s else (s.stopCause g cause).grpTo bas g gSTO

/-- A demand on a RELEASED group: STO for SS1 class 0, else SS1-t (R224, R229). -/
def State.stopGrp (s : State) (bas : Bool) (g cause : Nat) : State :=
  if (s.saf? bas).ss1Of = 0 then s.sto bas g cause else (s.stopCause g cause).grpTo bas g gSS1

/-- Every live channel. -/
def State.liveChans (s : State) : List Bool := [false, true].filter (fun b => (s.saf? b).live)

/-- SAFE STOP: the surviving channels enter STO on every group at once when a channel is lost, else SS1-t on every released group (R240). -/
def State.safeStopAll (s : State) (lost : Bool) : State :=
  s.each s.liveChans (fun b s => s.each (List.range 8) (fun g s =>
    if lost then s.sto b g 4 else if (s.safGrp b g).state = gRELEASED then s.stopGrp b g 4 else s))

/-- A detected fault: recorded when it is the first that causes DEGRADED or SAFE STOP, and its reaction (R238 to R240, R244).
by: 1 Garnet, 2 Basalt, 3 both. -/
def State.fault (s : State) (code bych obj : Nat) : State :=
  let s := s.safetyEvent obj 0
  let single := decide (0x10 ≤ code ∧ code ≤ 0x14)
  let code := if single && s.saf.state == 1 then 0x23 else code
  if s.saf.state = 2 then (if 0x30 ≤ code then s.safeStopAll true else s)
  else
    let s := if s.fld Reg.SAF_FLT 31 24 = 0 then
        s.wr Reg.SAF_FLT (mkFld 31 24 code ||| mkFld 23 22 bych ||| mkFld 21 19 obj ||| mkFld 15 0 s.cycLo) else s
    if single && code != 0x23 && s.mode == mRUN then
      let s : State := { s with saf := { s.saf with state := 1 } }
      let s := s.each [false, true] (fun b s => s.setSaf b { s.saf? b with degr := true, degTick := s.tb.tick })
      s.reqMode mDEGRADED
    else
      let s : State := { s with saf := { s.saf with state := 2 } }
      (s.safeStopAll (decide (0x30 ≤ code))).reqSafeStop

/-! ## Samples (R218 to R223) -/

/-- One sample of a contact through the channel's filter of n samples. -/
def Contact.sample (c : Contact) (n : Nat) (v : Bool) : Contact :=
  let k := if v == c.cand then c.cnt + 1 else 1
  { c with last := v, cand := v, cnt := min k n, filt := if n ≤ k then some v else c.filt }

/-- A sample at a side whose hold has h samples left: the held value is the last taken before; the third and fourth samples of the
hold are the check samples, and two pulses in a row that both read high give a pulse fault (R218 to R220). The flag says whether
the fault is new. -/
def Contact.take (c : Contact) (n h : Nat) (raw quiet : Bool) : Contact × Bool :=
  if h = 0 then (c.sample n raw, false)
  else
    let c := { c.sample n c.last with last := c.last }
    if h = 4 then ({ c with chk := raw }, false)
    else if h = 3 then
      if !quiet && c.filt == some true && raw && c.chk then
        ({ c with miss := c.miss + 1, pflt := c.pflt || decide (1 ≤ c.miss) }, decide (1 ≤ c.miss) && !c.pflt)
      else ({ c with miss := 0 }, false)
    else (c, false)

/-- What follows for an input that had contacts a and b before the sample: discrepancy, the clearing of its latch, and the start-up test. An
opening counts for the test while VFLD is above 18 V; an input that a sag below 16 V opens has to be tested anew (R222, R223, R416). -/
def SafInput.settle (i : SafInput) (a b : Contact) (vfld : Nat) : SafInput :=
  let vok := vfld == 1
  let newA := i.a.filt == some false && a.filt != some false
  let newB := i.b.filt == some false && b.filt != some false
  let okA := vok && i.a.filt == some false && (newA || i.okA)
  let okB := vok && i.b.filt == some false && (newB || i.okB)
  let open2 := i.a.filt == some false && i.b.filt == some false
  let closed2 := i.a.filt == some true && i.b.filt == some true
  let d := (i.a.filt == some true) != (i.b.filt == some true)
  { i with
    disc := i.disc && !(i.discOpen && closed2)
    discOpen := i.disc && (i.discOpen || open2) && !closed2
    okA := okA
    okB := okB
    opened := vok && (i.opened || (okA && okB)) && !closed2
    tested := (i.tested && !(vfld == 2 && (newA || newB))) || (vok && i.opened && closed2)
    diff := d
    diffFor := if i.diff then some ((i.diffFor.getD 0) + 1) else if d then some 0 else none }

/-- Levels that the safety receivers see: low while VFLD is below 16 V (R416). -/
def State.seen (s : State) (b : Byte) : Nat := if s.fio.vfld = 2 then 0 else b.toNat

/-- The inputs after a sample, each with the new pulse faults of its contacts A and B. -/
def State.sampleInputs (s : State) (c : SafChan) (a b : Nat) : List (SafInput × Bool × Bool) :=
  (List.range 8).map (fun k =>
    let i := c.input k
    let ra := i.a.take c.filter c.holdA (a.testBit k) (s.saf.psusp || s.saf.tpBad.testBit 0)
    let rb := i.b.take c.filter c.holdB (b.testBit k) (s.saf.psusp || s.saf.tpBad.testBit 1)
    (({ i with a := ra.1, b := rb.1 } : SafInput).settle i.a i.b s.fio.vfld, ra.2, rb.2))

/-- A new pulse fault of a contact of input k in a channel. The same fault of the same contact, seen by the other channel as well, is one single
fault (R220, R238); SAF_FLT then names both where it records it. -/
def State.pulseFault (s : State) (bas : Bool) (k : Nat) (other : Contact) : State :=
  if other.pflt && (s.saf? !bas).live then
    let s := if s.fld Reg.SAF_FLT 31 24 = 0x10 ∧ s.fld Reg.SAF_FLT 21 19 = k then s.orBits Reg.SAF_FLT (if bas then bitW 23 else bitW 22) else s
    s.safetyEvent k 0
  else s.fault 0x10 (if bas then 2 else 1) k

/-- The SLS requests of MAP 3 after a sample (R231, R232). -/
def State.slsRequests (s : State) (bas : Bool) : State :=
  s.each (List.range 8) (fun g s =>
    let c := s.saf? bas
    let x := c.grp g
    if g = 0 ∨ c.mapOf ≠ 3 then s
    else if !(c.input g).demand then s.setSafGrp bas g { x with req := false, ramp := false, fallback := false }
    else if !x.req && x.state == gRELEASED then s.setSafGrp bas g { x with req := true, ramp := true, rampTick := s.tb.tick }
    else s)

/-- A group's state after a sample (R225, R227, R229). -/
def State.sampleGrp (s : State) (bas : Bool) (g : Nat) : State :=
  let c := s.saf? bas
  let x := c.grp g
  let xd := bas && s.saf.xdem.testBit g
  if xd && x.on then s.sto bas g 2
  else if x.state = gRELEASED then (if c.demanded g then s.stopGrp bas g 1 else s)
  else if x.state = gSS1 ∨ x.state = gSTO then s
  else if !s.grpTested c g then s.grpTo bas g gNOSTART
  else if s.restartOk bas g then s.grpTo bas g gREADY
  else s.grpTo bas g gSTOPPED

/-- A cross-demand line falls once Basalt has removed its enables and Garnet has left STO. -/
def State.dropXdem (s : State) : State :=
  { s with saf := { s.saf with xdem := (List.range 8).foldl (fun m g =>
      if (s.safGrp true g).on || (s.safGrp false g).state == gSTO then m else maskBit m g false) s.saf.xdem } }

/-- A rising restart pulse marks the READY groups (R226). -/
def SafChan.markReady (c : SafChan) : SafChan :=
  { c with grps := c.grps.map (fun x => { x with pulse := x.state == gREADY }) }

/-- A channel samples its inputs and DI15 (R212, R219 to R227). -/
def safetySample (bas : Bool) (a b : Byte) (di15 : Bool) (s : State) : State :=
  let c := s.saf? bas
  if !c.live then s
  else
    let r := s.sampleInputs c (s.seen a) (s.seen b)
    let di := c.di.sample c.filter (di15 && s.fio.vfld != 2)
    let rose := c.di.filt != some true && di.filt == some true
    let c := { c with inputs := r.map (fun p => p.1), holdA := c.holdA - 1, holdB := c.holdB - 1, di := di }
    let s := s.setSaf bas (if rose then c.markReady else c)
    let s := s.each (List.range 8) (fun k s =>
      let p := ((r[k]?).map (fun p => p.2)).getD (false, false)
      let o := (s.saf? !bas).input k
      (s.when p.1 (fun s => s.pulseFault bas k o.a)).when p.2 (fun s => s.pulseFault bas k o.b))
    let s := s.slsRequests bas
    let s := s.each (List.range 8) (fun g s => s.sampleGrp bas g)
    if bas then s.dropXdem else s

/-- The contacts of an input have differed for the discrepancy time, or longer; during a closing this latches the fault again (R222). -/
def discrepancyFault (bas : Bool) (k : Nat) (s : State) : State :=
  let c := s.saf? bas
  let i := c.input k
  if !c.live || decide (i.diffFor.getD 0 < c.discSteps) then s
  else (s.setSaf bas { c with inputs := setAt c.inputs k { i with disc := true, discOpen := false } }).safetyEvent k 0

/-- TP0 or TP1 goes low for its test pulse; the samples of its side are held in both channels. made: Basalt's readback shows the
pulse. Below 16 V there is none, and the checks resume with the first pulse after VFLD has risen above 18 V (R218, R220, R416). -/
def testPulse (tp1 made : Bool) (s : State) : State :=
  if s.fio.vfld = 2 then { s with saf := { s.saf with psusp := true } }
  else
    let hold (c : SafChan) : SafChan := if tp1 then { c with holdB := 6 } else { c with holdA := 6 }
    let i := if tp1 then 1 else 0
    let susp := s.saf.psusp && s.fio.vfld != 1
    let new := !made && !susp && !s.saf.tpBad.testBit i
    let s : State := { s with saf := { s.saf with g := hold s.saf.g, b := hold s.saf.b, psusp := susp,
                                                  tpBad := maskBit s.saf.tpBad i (!made && !susp) } }
    if new && s.saf.b.live then s.fault 0x11 2 0 else s

/-! ## Switches (R216, R217) -/

/-- Whether a channel's two reads agree and FILT is not 3. -/
def SafChan.readsOk (c : SafChan) : Bool :=
  match c.reads with
  | [x, y] => x == y && decide (y / 4 % 4 ≠ 3)
  | _ => false

/-- Basalt's token seed of group g: non-zero (R158). -/
def State.seedToken (s : State) (g : Nat) : State :=
  let v := Config.basaltSeed g s.free
  s.takeFree.wr (Reg.SAF_TOK g) (if v = 0 then 1 else v)

/-- Garnet compares CODE with the loaded safety section once the switches are read (R217). -/
def State.codeCheck (s : State) : State :=
  if !s.saf.loaded || !s.saf.g.run then s
  else if byteAt s.saf.image 0 % 16 = s.saf.g.sw / 4096 then { s with saf := { s.saf with codeOk := true } }
  else (s.setSaf false { s.saf.g with bad := true }).fault 0x22 1 0

/-- A channel reads the switches during RESET; after the second read of both they compare, and both channels start (R216). -/
def switchPowerupRead (bas : Bool) (v : BitVec 16) (s : State) : State :=
  let c := s.saf? bas
  if s.mode ≠ mRESET ∨ 2 ≤ c.reads.length then s
  else
    let s := s.setSaf bas { c with reads := c.reads ++ [v.toNat], sw := v.toNat }
    let g := s.saf.g
    let b := s.saf.b
    if g.reads.length < 2 ∨ b.reads.length < 2 then s
    else
      let agree := g.sw == b.sw
      let ok := g.readsOk && b.readsOk && agree
      let s := s.wr Reg.SAF_SWCFG (mkFld 31 16 b.sw ||| mkFld 15 0 g.sw)
      let s : State := { s with saf := { s.saf with g := { g with run := true, bad := !ok }, b := { b with run := true, bad := !ok }, swok := ok } }
      let s := s.each (List.range 8) (fun k s => s.seedToken k)
      if ok then s
      else s.fault 0x20 (if !agree then 3 else (if g.readsOk then 0 else 1) + (if b.readsOk then 0 else 2)) 0

/-- A channel rereads the switches (R216). -/
def switchRuntimeRead (bas : Bool) (v : BitVec 16) (s : State) : State :=
  let c := s.saf? bas
  if !c.live || v.toNat == c.sw || !s.saf.swok then s
  else ({ s with saf := { s.saf with swok := false } }).fault 0x21 (if bas then 2 else 1) 0

/-! ## Release, confirmation, timers -/

/-- A READY group is released in a channel (R226). An STOBg switched off by overload stays off (R422). -/
def State.releaseGrp (s : State) (bas : Bool) (g : Nat) : State :=
  let s := s.grpTo bas g gRELEASED
  { s with saf := { s.saf with viol := if bas then s.saf.viol else maskBit s.saf.viol g false } }

/-- The restart conditions have held for 500 ms (R226, RST = 0). -/
def restartDelay (bas : Bool) (g : Nat) (s : State) : State :=
  let c := s.saf? bas
  if c.live && !c.rst && (c.grp g).state == gREADY && s.restartOk bas g then s.releaseGrp bas g else s

/-- The falling edge of a valid restart pulse: the groups READY throughout it are released (R226, RST = 1). -/
def restartPulse (bas : Bool) (s : State) : State :=
  let c := s.saf? bas
  if !c.live || !c.rst || c.di.filt != some false then s
  else
    let s := s.each (List.range 8) (fun g s =>
      let x := s.safGrp bas g
      if x.pulse && x.state == gREADY && s.restartOk bas g then s.releaseGrp bas g else s)
    s.setSaf bas { s.saf? bas with grps := (s.saf? bas).grps.map (fun x => { x with pulse := false }) }

/-- Level of an output that follows its command: an STOBg that overload has switched off is off (R422). -/
def State.stoOut (s : State) (bas : Bool) (g : Nat) : Bool :=
  if bas then s.saf.stob.testBit g && !s.saf.ovl.testBit g else s.saf.stog.testBit g

/-- Readback of an output: as commanded; one that has disagreed is held at the level it then showed (R225, R238, R422). -/
def State.stoRb (s : State) (bas : Bool) (g : Nat) : Bool :=
  if (if bas then s.saf.rbErrB else s.saf.rbErrG).testBit g then (if bas then s.saf.rbLvlB else s.saf.rbLvlG).testBit g else s.stoOut bas g

/-- An output's readback shows the level opposite to its command. -/
def State.rbDiffers (s : State) (bas : Bool) (g : Nat) : State :=
  if bas then
    { s with saf := { s.saf with rbErrB := maskBit s.saf.rbErrB g true, rbLvlB := maskBit s.saf.rbLvlB g (!s.saf.stob.testBit g) } }
  else { s with saf := { s.saf with rbErrG := maskBit s.saf.rbErrG g true, rbLvlG := maskBit s.saf.rbLvlG g (!s.saf.stog.testBit g) } }

/-- The DEGRADED limit has ended in a channel and every group has confirmed STO there (R239). -/
def State.degradedEnd (s : State) (bas : Bool) : State :=
  let c := s.saf? bas
  if c.live && c.degOver && s.saf.state == 1 && c.grps.all (fun x => !x.on && x.state != gSTO) then
    s.fault 0x24 (if bas then 2 else 1) 0
  else s

/-- A channel confirms STO from its readback (R225). -/
def stoConfirm (bas : Bool) (g : Nat) (s : State) : State :=
  let c := s.saf? bas
  if !c.live || (c.grp g).state != gSTO || s.stoRb bas g then s
  else (s.grpTo bas g (if s.grpTested c g then gSTOPPED else gNOSTART)).degradedEnd bas

/-- A channel's SS1 delay ends (R229). -/
def ss1TimerEnd (bas : Bool) (g : Nat) (s : State) : State :=
  let c := s.saf? bas
  if c.live && (c.grp g).state == gSS1 then s.sto bas g (s.fld (Reg.SAF_GRP g) 23 20) else s

/-- A channel's DEGRADED timer ends: SS1-t, or STO for class 0, on every released group (R239). -/
def degradedLimit (bas : Bool) (s : State) : State :=
  let c := s.saf? bas
  if !c.live || !c.degr || s.saf.state != 1 then s
  else
    let s := s.setSaf bas { c with degr := false, degOver := true }
    let s := s.each (List.range 8) (fun g s => if (s.safGrp bas g).state = gRELEASED then s.stopGrp bas g 3 else s)
    s.degradedEnd bas

/-! ## Faults that a command reports (R213, R238) -/

/-- A channel sees no heartbeat of the other (R213): garnet, or Basalt, is lost. -/
def State.loseChan (s : State) (bas : Bool) (code bych : Nat) : State :=
  if (s.saf? bas).lost || !(s.saf? bas).run then s else (s.setSaf bas { s.saf? bas with lost := true }).fault code bych 0

def heartbeatLost (garnet : Bool) (s : State) : State :=
  if (s.saf? garnet).lost then s else if garnet then s.loseChan false 0x30 2 else s.loseChan true 0x32 1
def lockstepMismatch (s : State) : State := s.loseChan false 0x31 1
def basaltSelfCheckFail (s : State) : State := s.loseChan true 0x32 1
def rootHeartbeatLost (s : State) : State :=
  if s.saf.rootLost || !s.saf.b.live then s else ({ s with saf := { s.saf with rootLost := true } }).fault 0x33 2 0

/-- Who detects what both channels see (R238). -/
def State.byBoth (s : State) : Nat := (if s.saf.g.live then 1 else 0) + (if s.saf.b.live then 2 else 0)

/-- An output's readback has differed from its command for 2 ms (R238); not counted for STOBg below 16 V (R416). -/
def readbackMismatch (stog : Bool) (g : Nat) (s : State) : State :=
  if stog then
    if !s.saf.g.live || !s.saf.loaded then s
    else (s.rbDiffers false g).fault 0x13 1 g
  else if s.fio.vfld = 2 ∨ s.byBoth = 0 then s
  else (s.rbDiffers true g).fault 0x12 s.byBoth g

/-- An STOBg output in current limit for 5 ms switches itself off until the next RESET; below 16 V its mismatch is not counted (R416, R422). -/
def stobOverload (g : Nat) (s : State) : State :=
  if !s.saf.stob.testBit g || s.saf.ovl.testBit g then s
  else
    let s : State := { s with saf := { s.saf with ovl := maskBit s.saf.ovl g true } }
    if s.byBoth = 0 ∨ s.fio.vfld = 2 then s else s.fault 0x12 s.byBoth g

/-- A group has been RELEASED in one channel and not in the other for 200 ms (R238). -/
def releaseMismatch (g : Nat) (s : State) : State :=
  if s.saf.g.live && s.saf.b.live && ((s.safGrp false g).state == gRELEASED) != ((s.safGrp true g).state == gRELEASED) then s.fault 0x14 3 g else s

/-! ## SLS (R231, R232) -/

/-- The safety section's node entry: safety address and group (R368). -/
def State.nodeSaddr (s : State) (n k : Nat) : Nat := leAt s.saf.image (12 + 4 * (32 * n + k)) 2
def State.nodeGrp (s : State) (n k : Nat) : Nat := byteAt s.saf.image (14 + 4 * (32 * n + k)) % 8

/-- The SLS limit index of a group, and the limit of an axis (R368). -/
def State.slsIdx (s : State) (g : Nat) : Nat := byteAt s.saf.image (4 + g) % 16
def State.slsLimit (s : State) (a g : Nat) : Nat := leAt s.saf.image (1548 + 4 * (16 * a + s.slsIdx g)) 4

/-- The safety group an enabled axis belongs to: that of the node, or of the PWM group, it drives. -/
def State.axisGrp (s : State) (a : Nat) : Option Nat :=
  let r := s.rd (Reg.LAW_ROUTE a)
  if !s.bit (Reg.LAW_CFG a) 31 then none
  else if wBit r 14 then some (wFld r 13 10 % 8) else some (s.nodeGrp (wFld r 13 10) (wFld r 9 5))

/-- A channel's SLS ramp ends; Basalt stops the group if SLSOK is missing (R231, R232). -/
def slsRampEnd (bas : Bool) (g : Nat) (s : State) : State :=
  let x := s.safGrp bas g
  if !(s.saf? bas).live || !x.ramp then s
  else
    let s := s.setSafGrp bas g { x with ramp := false }
    if bas && !s.saf.slsok.testBit g && x.on then
      let s := s.setSafGrp bas g { s.safGrp bas g with fallback := true }
      ({ s with saf := { s.saf with viol := maskBit s.saf.viol g true } }).sto true g 5
    else s

/-- Basalt misses two SLSOK pulses in a row after the ramp (R232). -/
def slsokMissing (g : Nat) (s : State) : State :=
  let x := s.safGrp true g
  if !s.saf.b.live || !x.req || x.ramp || !x.on then s
  else
    let s := s.setSafGrp true g { x with fallback := true }
    ({ s with saf := { s.saf with viol := maskBit s.saf.viol g true } }).sto true g 5

/-- The raw accumulator of an axis's primary source (R111). -/
def State.axisRaw (s : State) (a : Nat) : Int :=
  let n := s.fld (Reg.FBK_AXSRC a) 25 16
  sgn 48 (s.fld (Reg.SRC_RAWHI n) 15 0 * 2 ^ 32 + (s.rd (Reg.SRC_RAWLO n)).toNat)

/-- The end of a 1 ms window: the axes' speeds, from the change of their accumulators modulo 2^48, SLSOK, and violations (R9, R231, R244). -/
def slsWindow (s : State) : State :=
  if !s.saf.g.live then s
  else
    let d := (List.range 256).map (fun a => sgn 48 (wrapN 48 (s.axisRaw a - Table.get (fun _ => 0) s.saf.prevRaw a)))
    let bad (g : Nat) : Bool := (List.range 256).any (fun a => s.axisGrp a == some g && decide (s.slsLimit a g < (intAt d a).natAbs))
    let bads := (List.range 8).map bad
    let s := s.each (List.range 256) (fun a s =>
      let s := s.wr (Reg.SAF_AXSPD a) (wordI (sat32 (intAt d a * 256000)))
      { s with saf := { s.saf with prevRaw := Table.set (fun _ => 0) s.saf.prevRaw a (s.axisRaw a) } })
    s.each (List.range 8) (fun g s =>
      let x := s.safGrp false g
      let b := (bads[g]?).getD false
      let s : State := { s with saf := { s.saf with slsok := maskBit s.saf.slsok g (x.req && !b) } }
      if x.req && !x.ramp && b && x.on then
        let s := s.sto false g 5
        { s with saf := { s.saf with xdem := maskBit s.saf.xdem g true, viol := maskBit s.saf.viol g true } }
      else s)

/-! ## Containers and tokens (R31, R228, R233, R237) -/

/-- Tick 0: Basalt advances the tokens of the groups it has released, and Garnet's group states are kept for the containers of
the cycle (R30, R31, R226, R228). -/
def State.safTick0 (s : State) : State :=
  let s := s.each (List.range 8) (fun g s =>
    let adv := s.saf.b.live && (s.safGrp true g).on && s.rd (Reg.SAF_TOK g) != 0
    let s := if adv then s.wr (Reg.SAF_TOK g) (tokenNext (s.rd (Reg.SAF_TOK g))) else s
    { s with saf := { s.saf with frozen := maskBit s.saf.frozen g (!adv) } })
  if s.saf.g.lost then s
  else { s with saf := { s.saf with snap := s.saf.g.grps.map (fun x => (x.state, x.req)) } }

/-- FUNC of a container for a node's group, from Garnet's states at tick 0 (R162, R228 to R231, R233). -/
def State.funcOf (s : State) (g : Nat) : Nat :=
  let p := (s.saf.snap[g]?).getD (0, false)
  let on := p.1 == gRELEASED || p.1 == gSS1
  let sls := p.2 && on
  (mkBit 0 on ||| mkBit 1 (p.1 == gSS1) ||| mkBit 2 on ||| mkBit 3 sls ||| mkFld 7 4 (if sls then s.slsIdx g else 0) ||| mkFld 10 8 g).toNat

/-- The container of node k of segment n with counter c (R162, R233). -/
def State.container (s : State) (n k c : Nat) : List Byte :=
  let body := leBytes 2 (s.nodeSaddr n k) ++ leBytes 2 (s.funcOf (s.nodeGrp n k)) ++ leBytes 2 c ++ [0, 0]
  body ++ leBytes 4 (crc32c (leBytes 4 (s.rd (Reg.TRN_SDIG n)).toNat ++ body))

/-- A node reports torque and its SACK matches no container sent within the last 20 ms: its group stops (R237). -/
def nodeAckStale (n k : Nat) (s : State) : State :=
  let c := s.node n k
  let sent := c.sentCnt.any (fun p => p.1 == c.sack && decide (s.tb.tick ≤ p.2 + 8000000))
  if !s.saf.g.live || s.fld (Reg.TRN_NODE_STAT n k) 31 29 ≠ 4 || !c.nstat.testBit 4 || sent then s
  else
    let g := s.nodeGrp n k
    let s := if s.bit (Reg.SAF_NACK n) k then s else (s.setBit (Reg.SAF_NACK n) k true).safetyEvent g 0
    let s := s.sto false g 2
    { s with saf := { s.saf with xdem := maskBit s.saf.xdem g true } }

/-- Flight 4 gives Garnet the safety section; STOGg is driven from then on (R217, R342, R368). -/
def State.safLoad (s : State) (bs : List Byte) : State := ({ s with saf := { s.saf with image := bs, loaded := true } }).codeCheck

/-- Garnet's STO on every group (R388). -/
def State.stoEvery (s : State) (cause : Nat) : State :=
  s.each s.liveChans (fun b s => s.each (List.range 8) (fun g s => s.sto b g cause))

/-! ## Register views (R244) -/

/-- A mask with one bit per number below 8. -/
def mask8 (p : Nat → Bool) : Nat := (List.range 8).foldl (fun m k => if p k then m + 2 ^ k else m) 0

/-- Milliseconds left of a time of ms that began at a tick. -/
def State.msLeft (s : State) (ms t : Nat) : Nat := ms - (s.tb.tick - t) / 400000

def State.safStat (s : State) : Word :=
  let up := s.saf.g.run && s.saf.b.run
  mkFld 31 30 s.saf.state ||| mkBit 29 (up && !s.saf.g.lost) ||| mkBit 28 (up && !s.saf.b.lost) ||| mkBit 27 (up && !s.saf.rootLost)
    ||| mkBit 26 s.saf.codeOk ||| mkBit 25 s.saf.swok ||| mkBit 24 (up && s.saf.tpBad == 0)

def State.safIn (s : State) : Word :=
  let m (f : SafInput → Contact) (c : SafChan) : Nat := mask8 (fun k => (f (c.input k)).filt == some true)
  mkFld 31 24 (m (fun i => i.b) s.saf.b) ||| mkFld 23 16 (m (fun i => i.a) s.saf.b) ||| mkFld 15 8 (m (fun i => i.b) s.saf.g)
    ||| mkFld 7 0 (m (fun i => i.a) s.saf.g)

def State.safIndem (s : State) : Word :=
  let any (p : SafInput → Bool) : Nat := mask8 (fun k => p (s.saf.g.input k) || p (s.saf.b.input k))
  let up := s.saf.g.run && s.saf.b.run
  mkFld 31 24 (if up then any SafInput.demand else 0) ||| mkFld 23 16 (mask8 s.inputTested) ||| mkFld 15 8 (any (fun i => i.disc))
    ||| mkFld 7 0 (any (fun i => i.a.pflt || i.b.pflt))

def State.safGrpsum (s : State) : Word :=
  mkFld 31 24 (mask8 (s.stoRb true)) ||| mkFld 23 16 (mask8 (s.stoRb false)) ||| mkFld 15 8 s.saf.frozen
    ||| mkFld 7 0 (mask8 (fun g => (s.safGrp false g).on && (s.safGrp true g).on))

def State.safDegt (s : State) : Word :=
  if s.saf.state = 1 ∧ s.saf.g.degr then word (min 65535 (s.msLeft (degrMs (s.saf.g.sw / 16 % 4)) s.saf.g.degTick)) else 0

def State.safGrpView (s : State) (g : Nat) : Word :=
  let b := s.safGrp true g
  mkFld 31 28 (s.safGrp false g).state ||| mkFld 27 24 b.state ||| (s.rd (Reg.SAF_GRP g) &&& maskW 23 20)
    ||| (if b.state = gSS1 then mkFld 15 0 (min 65535 (s.msLeft (ss1Ms s.saf.b.ss1Of) b.ss1Tick)) else 0)

def State.safSls (s : State) (g : Nat) : Word :=
  let x := s.safGrp false g
  let ms := if s.saf.g.ss1Of = 0 then 100 else ss1Ms s.saf.g.ss1Of
  mkBit 31 x.req ||| mkBit 30 x.ramp ||| mkBit 29 (s.saf.slsok.testBit g) ||| mkBit 28 (s.saf.viol.testBit g)
    ||| mkFld 27 24 (if x.req then s.slsIdx g else 0) ||| (if x.ramp then mkFld 15 0 (min 65535 (s.msLeft ms x.rampTick)) else 0)

/-- Some safety group is RELEASED or in SS1 in a channel that has not been declared lost (R348, R356). -/
def State.anyReleased (s : State) : Bool := [false, true].any (fun b => !(s.saf? b).lost && (s.saf? b).grps.any SafGrp.on)

/-! ## The commands -/

def execSafetySample (bas : Bool) (a b : Byte) (di15 : Bool) (s : State) : Host.Outcome State Fault Refusal := .next (safetySample bas a b di15 s)
def execDiscrepancyFault (bas : Bool) (k : Fin 8) (s : State) : Host.Outcome State Fault Refusal := .next (discrepancyFault bas k s)
def execTestPulse (tp1 made : Bool) (s : State) : Host.Outcome State Fault Refusal := .next (testPulse tp1 made s)
def execHeartbeatLost (garnet : Bool) (s : State) : Host.Outcome State Fault Refusal := .next (heartbeatLost garnet s)
def execRootHeartbeatLost (s : State) : Host.Outcome State Fault Refusal := .next (rootHeartbeatLost s)
def execLockstepMismatch (s : State) : Host.Outcome State Fault Refusal := .next (lockstepMismatch s)
def execSlsRampEnd (bas : Bool) (g : Fin 8) (s : State) : Host.Outcome State Fault Refusal := .next (slsRampEnd bas g s)
def execSlsWindow (s : State) : Host.Outcome State Fault Refusal := .next (slsWindow s)
def execSlsokMissing (g : Fin 8) (s : State) : Host.Outcome State Fault Refusal := .next (slsokMissing g s)
def execSwitchPowerupRead (bas : Bool) (v : BitVec 16) (s : State) : Host.Outcome State Fault Refusal := .next (switchPowerupRead bas v s)
def execSwitchRuntimeRead (bas : Bool) (v : BitVec 16) (s : State) : Host.Outcome State Fault Refusal := .next (switchRuntimeRead bas v s)
def execRestartDelay (bas : Bool) (g : Fin 8) (s : State) : Host.Outcome State Fault Refusal := .next (restartDelay bas g s)
def execRestartPulse (bas : Bool) (s : State) : Host.Outcome State Fault Refusal := .next (restartPulse bas s)
def execStoConfirm (bas : Bool) (g : Fin 8) (s : State) : Host.Outcome State Fault Refusal := .next (stoConfirm bas g s)
def execSs1TimerEnd (bas : Bool) (g : Fin 8) (s : State) : Host.Outcome State Fault Refusal := .next (ss1TimerEnd bas g s)
def execNodeAckStale (seg : Fin 12) (k : Fin 32) (s : State) : Host.Outcome State Fault Refusal := .next (nodeAckStale seg k s)
def execReadbackMismatch (stog : Bool) (g : Fin 8) (s : State) : Host.Outcome State Fault Refusal := .next (readbackMismatch stog g s)
def execReleaseMismatch (g : Fin 8) (s : State) : Host.Outcome State Fault Refusal := .next (releaseMismatch g s)
def execDegradedLimit (bas : Bool) (s : State) : Host.Outcome State Fault Refusal := .next (degradedLimit bas s)
def execBasaltSelfCheckFail (s : State) : Host.Outcome State Fault Refusal := .next (basaltSelfCheckFail s)
def execStobOverload (g : Fin 8) (s : State) : Host.Outcome State Fault Refusal := .next (stobOverload g s)

end Sys2Proof.Machine
end

