-- ==== Sys2Proof/Machine/Torone.lean ====
section
/-! DEFINITION. Torone segments: frames and the checks of a receiver (R147 to R154), the segment cycle (R166 to R170), ranging (R173 to R178),
service messages (R179, R180), node states (R182, R183), coldstart and silence (R185 to R188), late-comers (R189, R190), and the
schedule checks (R168, R191). -/

namespace Sys2Proof.Machine

/-! ## Register fields -/

/-- TRN_SSTAT.STATE (R192) and whether the segment is enabled and sends syncs. -/
def State.segState (s : State) (n : Nat) : Nat := s.fld (Reg.TRN_SSTAT n) 31 29
def State.segEn (s : State) (n : Nat) : Bool := s.bit (Reg.TRN_SCFG n) 31
def State.segSends (s : State) (n : Nat) : Bool := s.segEn n && (s.segState n == 2 || s.segState n == 3)
def State.segHid (s : State) (n : Nat) : Nat := s.fld (Reg.TRN_SCFG n) 26 24
/-- This head's ID, the same in every enabled segment (R192). -/
def State.headId (s : State) (n : Nat) : Nat := s.segHid ((lowest 12 s.segEn).getD n)
/-- The segment has fallen silent through YIELD or CLASH (R187, R188). -/
def State.segSilent (s : State) (n : Nat) : Bool := s.segEn n && (s.segState n == 4 || s.segState n == 5)
/-- Near-end loopback, which takes effect in MAINTENANCE alone: the port's receiver hears its own transmitter (R165). -/
def State.loops (s : State) (n ch : Nat) : Bool := s.mode == mMAINTENANCE && s.fld (Reg.TRN_PCFG n ch) 27 26 == 1
def State.segOfs (s : State) (n : Nat) : Nat := s.fld (Reg.TRN_SOFS n) 16 0
def State.segWin (s : State) (n : Nat) : Nat := s.fld (Reg.TRN_SOFS n) 27 24
def State.segUs (s : State) (n : Nat) : Nat := s.fld (Reg.TRN_SSVC n) 16 0
def State.segDlmax (s : State) (n : Nat) : Nat := s.fld (Reg.TRN_SSVC n) 28 17
def State.segDs (s : State) (n : Nat) : Nat := s.fld (Reg.TRN_SDSV n) 16 0
def State.slotKind (s : State) (n k : Nat) : Nat := s.fld (Reg.TRN_SLOT n k) 31 30
def State.slotLen (s : State) (n k : Nat) : Nat := s.fld (Reg.TRN_SLOT n k) 29 23
def State.slotNom (s : State) (n k : Nat) : Nat := s.fld (Reg.TRN_SLOT n k) 16 0

/-- Node state codes of R182. -/
def nUNUSED : Nat := 0
def nABSENT : Nat := 1
def nRANGING : Nat := 2
def nSET : Nat := 3
def nIN : Nat := 4
def nOUT : Nat := 5
def nREFUSED : Nat := 6

def State.nodeState (s : State) (n k : Nat) : Nat := s.fld (Reg.TRN_NODE_STAT n k) 31 29

/-- A node's state changes; TRN_SSTAT.NIN follows (R182, R192). -/
def State.nodeTo (s : State) (n k st : Nat) : State :=
  let s := s.setFld (Reg.TRN_NODE_STAT n k) 31 29 st
  s.setFld (Reg.TRN_SSTAT n) 21 16 (countN 32 (fun i => s.nodeState n i == nIN))

/-- The reference end of slot k, and its release instant, in ticks from tick 0 of its device cycle (R22, R23). -/
def State.refEnd (s : State) (n k : Nat) : Nat := s.slotNom n k + s.segWin n + ((24 + s.slotLen n k) * 16 + 4) / 5
def State.slotRel (s : State) (n k : Nat) : Nat := s.refEnd n k + 80

/-! ## Frames (R147 to R151) -/

/-- Header and payload with their CRC (R149, R151). -/
def frameBytes (type addr seg slot cyc hid : Nat) (payload : List Byte) : List Byte :=
  let b := [byte (type * 16 + 1), byte addr] ++ leBytes 2 (seg * 4096 + slot) ++ leBytes 2 cyc ++ [byte payload.length, byte hid] ++ payload
  b ++ leBytes 4 (crc32 b)

/-- A received frame's fields (R149). -/
structure Hdr where
  type : Nat
  ver : Nat
  addr : Nat
  seg : Nat
  slot : Nat
  cyc : Nat
  len : Nat
  hid : Nat
  payload : List Byte
  deriving DecidableEq, Repr

def hdrOf (b : List Byte) : Hdr :=
  let w := leAt b 2 2
  ⟨byteAt b 0 / 16, byteAt b 0 % 16, byteAt b 1 % 64, w / 4096, w % 1024, leAt b 4 2, byteAt b 6, byteAt b 7 % 8, (b.drop 8).take (byteAt b 6)⟩

/-- TYPE, ADDR, SLOT and LEN as R150 allows them. -/
def Hdr.allowed (h : Hdr) : Bool :=
  match h.type with
  | 1 => h.addr == 63 && h.slot == 0x3FF && h.len == 64
  | 2 => decide (h.addr < 32 ∧ h.slot < 32 ∧ 8 ≤ h.len ∧ h.len ≤ 64)
  | 3 => decide (h.addr < 32 ∧ 0x100 ≤ h.slot ∧ h.slot ≤ 0x11F ∧ 16 ≤ h.len ∧ h.len ≤ 48)
  | 4 => decide (h.addr < 32 ∧ h.slot = 0x200 ∧ 4 ≤ h.len ∧ h.len ≤ 64)
  | 5 => decide ((h.addr < 32 ∨ h.addr = 63) ∧ h.slot = 0x201 ∧ 4 ≤ h.len ∧ h.len ≤ 64)
  | 6 => decide (h.addr < 32 ∧ h.slot < 32 ∧ h.len = 16)
  | _ => false

/-- A frame leaves on both ports of a segment that run (R154, R165). -/
def State.sendFrame (s : State) (n type addr slot : Nat) (cyc : Word) (payload : List Byte) : State :=
  let s := s.each [0, 1] (fun ch s => if s.bit (Reg.TRN_PCFG n ch) 31 then s.inc (Reg.TRN_PTX n ch) else s)
  s.setSeg n { s.seg n with tx := frameBytes type addr n slot (cyc.toNat % 65536) (s.segHid n) payload }

/-! ## The layout of a feedback slot (R159) -/

/-- Remote contexts bound to slot k of segment n. -/
def State.slotCtxs (s : State) (n k : Nat) : List Nat :=
  (List.range 512).filter (fun r => let w := s.rd (Reg.FBK_RCTX r); wBit w 31 && wFld w 29 26 == n && wFld w 25 21 == k)

/-- RMASK and KMASK that the image gives the slot. -/
def State.slotMasks (s : State) (n k : Nat) : Nat × Nat :=
  (s.slotCtxs n k).foldl (fun m r =>
    let w := s.rd (Reg.FBK_RCTX r)
    let b := 2 ^ wFld w 20 18
    (m.1 ||| b, if wBit w 30 then m.2 ||| b else m.2)) (0, 0)

/-- The lowest enabled axis that slot k triggers at axis position p. -/
def State.slotAxis (s : State) (n : Fin 12) (k : Fin 32) (p : Nat) : Option Nat :=
  lowest 256 (fun a => s.bit (Reg.LAW_CFG a) 31 && s.triggeredBy a (.slot n k) && wFld (s.lawRoute a) 16 15 == p)

/-- CMASK code of an axis position: the currents that its law's Clarke mode takes (R41, R159). -/
def State.slotClarke (s : State) (n : Fin 12) (k : Fin 32) (p : Nat) : Nat :=
  match s.slotAxis n k p with
  | some a => (match s.fld (Reg.LAW_ECOMM a) 31 30 with | 0 => 3 | 1 => 2 | _ => 0)
  | none => 0

def State.slotCmask (s : State) (n : Fin 12) (k : Fin 32) : Nat :=
  (List.range 4).foldl (fun m p => m + s.slotClarke n k p * 4 ^ p) 0

/-! ## Windows (R169, R170) -/

/-- Where an upstream frame's arrival falls: a feedback slot, the upstream service message, the reply window. -/
inductive RxWindow where
  | fb (k : Nat)
  | us
  | reply
  deriving DecidableEq, Repr

/-- The segment cycles whose windows may be open, the running one first, each with an arrival counted in fine ticks from tick 0 of its
device cycle (R169). -/
def State.segArrival (s : State) (n arr : Nat) : List (Word × Int) :=
  if !s.segSends n then []
  else ((s.seg n).cyc.toList ++ (s.seg n).prev.toList).filterMap (fun c =>
    if c = s.tb.cyc then some (c, (arr : Int))
    else if c + 1 = s.tb.cyc then some (c, (arr + 32 * s.tb.len : Nat))
    else none)

/-- The window an upstream frame falls into (R170, R179, R182). -/
def State.windowOf (s : State) (n : Nat) (h : Hdr) (c : Word) (t : Int) : Option RxWindow :=
  let w := s.segWin n
  let inside (lo hi : Nat) : Bool := decide (((lo : Int) - w) * 32 ≤ t ∧ t < ((hi : Int) + w) * 32)
  let odd := c.toNat % 2 == 1
  let turn := c.toNat / 2 % 32
  match h.type with
  | 2 => if h.slot < 32 ∧ s.nodeState n h.slot ≠ nUNUSED ∧ inside (s.slotNom n h.slot) (s.slotNom n h.slot) then some (.fb h.slot) else none
  | 4 =>
    if odd then (if inside (s.segUs n) (s.segUs n) && h.addr == turn && s.nodeState n turn == nIN then some .us else none)
    else if inside (s.segDs n + 200) (s.segDs n + 200 + 2 * s.segDlmax n) then some .reply else none
  | 6 => if !odd && inside (s.segDs n + 200) (s.segDs n + 200 + 2 * s.segDlmax n) then some .reply else none
  | _ => none

/-! ## Acceptance (R152) -/

/-- The order of the first check that a frame fails at the head, 0 when it is accepted, with its window and segment cycle. -/
def State.frameCheck (s : State) (n : Fin 12) (f : RxFrame) : Nat × Option (RxWindow × Word × Int) :=
  let b := f.bytes
  let h := hdrOf b
  if !f.codeOk || b.length != 12 + byteAt b 6 then (1, none)
  else if crc32 (b.take (8 + h.len)) ≠ leAt b (8 + h.len) 4 then (2, none)
  else if h.ver ≠ 1 ∨ !h.allowed ∨ h.seg ≠ n.val then (3, none)
  else if h.type = 1 then (0, none)
  else
    let w := ((s.segArrival n f.arrival).filterMap (fun x => (s.windowOf n h x.1 x.2).map (fun y => (y, x)))).head?
    let cyc := match w with
      | some x => x.2.1
      | none => s.tb.cyc
    if h.cyc ≠ cyc.toNat % 65536 ∨ (h.type ≠ 3 ∧ h.hid ≠ s.segHid n) then (3, none)
    else if h.type = 2 ∧ !(h.len == s.slotLen n h.slot && byteAt h.payload 4 == (s.slotMasks n h.slot).1
        && byteAt h.payload 5 == (s.slotMasks n h.slot).2
        && byteAt h.payload 6 == (if g : h.slot < 32 then s.slotCmask n ⟨h.slot, g⟩ else 0)) then (4, none)
    else match w with
      | some x => (0, some x)
      | none => (5, none)

/-- A frame fails a check: counter and sticky flag of its port (R152, R165). -/
def State.frameFail (s : State) (n ch order : Nat) : State :=
  match order with
  | 1 => (s.inc (Reg.TRN_PCODE n ch)).portEvt n ch 13
  | 2 => (s.inc (Reg.TRN_PCRC n ch)).portEvt n ch 12
  | 5 => (s.inc (Reg.TRN_PWIN n ch)).portEvt n ch 10
  | _ => (s.inc (Reg.TRN_PHDR n ch)).portEvt n ch 11

/-! ## A/B choice (R153, R154) -/

def State.slotRx (s : State) (n key : Nat) (c : Word) : SlotRx :=
  let r := Table.get (fun _ => ({} : SlotRx)) (s.seg n).rx key
  if r.cyc = c then r else { cyc := c }
def State.setSlotRx (s : State) (n key : Nat) (r : SlotRx) : State :=
  s.setSeg n { s.seg n with rx := Table.set (fun _ => ({} : SlotRx)) (s.seg n).rx key r }

/-- Whether copy x of channel ch comes before the other channel's copy y: the earlier arrival, channel A of equal ones (R153). -/
def Copy.before (ch : Nat) (x y : Copy) : Bool := decide (x.arr < y.arr) || (ch == 0 && decide (x.arr = y.arr))

/-- The counter of slots taken from a channel. -/
def abReg (n ch : Nat) : Nat := if ch = 0 then Reg.TRN_AB_A n else Reg.TRN_AB_B n

/-- No copy of the slot has come in cycle c. -/
def State.slotFresh (s : State) (n key : Nat) (c : Word) : Bool := (s.slotRx n key c).a.isNone && (s.slotRx n key c).b.isNone

/-- An accepted copy is kept; the flag says that its content is to be taken: it is the first of its slot, or the one that R153 chooses over a
first copy of other content. The counts are of the chosen copy, and a second copy is compared from header byte 0 to the last payload
byte. -/
def State.keepCopy (s : State) (n key ch : Nat) (c : Word) (x : Copy) : Bool × State :=
  let r := s.slotRx n key c
  let mine := if ch = 0 then r.a else r.b
  let other := if ch = 0 then r.b else r.a
  if mine.isSome then (false, s)
  else
    let s := s.setSlotRx n key (if ch = 0 then { r with a := some x } else { r with b := some x })
    match other with
    | none => (true, s.inc (abReg n ch))
    | some y =>
      let s := if y.bytes = x.bytes then s else (s.inc (Reg.TRN_ABMIS n)).abEvt n 31
      if x.before ch y then (y.bytes != x.bytes, (s.wr (abReg n (1 - ch)) (s.rd (abReg n (1 - ch)) - 1)).inc (abReg n ch))
      else (false, s)

/-- A single-channel loss on a port; its counter and flag stand still while the port is disabled (R154, R165). -/
def State.portLoss (s : State) (n ch : Nat) : State :=
  s.when (s.bit (Reg.TRN_PCFG n ch) 31) (fun s => (s.inc (Reg.TRN_PLOSS n ch)).portEvt n ch 9)

/-- The slot's window is past: a copy that came on one channel alone is a loss of the other port (R154). -/
def State.countLoss (s : State) (n : Nat) (r : SlotRx) : State :=
  match r.a, r.b with
  | some _, none => (s.portLoss n 1).abEvt n 29
  | none, some _ => (s.portLoss n 0).abEvt n 30
  | _, _ => s

/-! ## Node states and residuals (R182, R183) -/

/-- A ranging or correction under way for a node is dropped (R182). -/
def State.dropRanging (s : State) (n k : Nat) : State :=
  let g := s.seg n
  let mine := match g.req with
    | some (.first j _) => j == k
    | some (.second j _ _) => j == k
    | some (.correct j _ _) => j == k
    | _ => false
  let s := s.setSeg n { g with req := if mine then none else g.req, second := g.second.filter (fun j => j != k) }
  s.setNode n k { s.node n k with corrDue := false, corrS := none }

/-- TRN_GRANT shows the newest pending grant: the syncs of cycle c0 + 8 and before carry it, seen from cycle c (R190). -/
def State.showGrant (s : State) (n : Nat) (c : Word) : State :=
  s.wr (Reg.TRN_GRANT n) (match (s.seg n).grants with
    | [] => 0
    | (_, c0, _) :: _ => bitW 31 ||| mkFld 7 4 (8 - (c - c0).toNat))

/-- The grant of slot k ends (R190). -/
def State.endGrant (s : State) (n k : Nat) : State :=
  let g := s.seg n
  if g.grants.any (fun x => x.1 == k) then
    (s.setSeg n { g with grants := g.grants.filter (fun x => x.1 != k) }).showGrant n (g.cyc.getD 0)
  else s

/-- The first accepted feedback frame of a slot in a cycle: its node is IN (R182). -/
def State.nodeIn (s : State) (n k : Nat) : State :=
  let s := (s.setFld (Reg.TRN_NODE_STAT n k) 25 24 0).setNode n k { s.node n k with setMiss := 0 }
  if s.nodeState n k = nIN then s
  else (((s.dropRanging n k).nodeTo n k nIN).endGrant n k).segEvt n 28

/-- A residual of an accepted frame of an IN node; 16 whose exact mean reaches TRK make a correction due (R183). -/
def State.residual (s : State) (n k : Nat) (r : Int) : State :=
  let c := s.node n k
  let l := (r :: c.resid).take 16
  let sum := l.foldl (fun a x => a + x) 0
  let full := l.length == 16
  let mean := if full then rneDiv sum 16 else 0
  let due := full && decide ((s.seg n).trk * 16 ≤ sum.natAbs)
  (s.setNode n k { c with resid := l, corrDue := c.corrDue || due }).wr (Reg.TRN_NODE_RES n k) (pack16 r mean)

/-- A node is refused (R175). -/
def State.refuseNode (s : State) (n k : Nat) : State :=
  (((s.dropRanging n k).nodeTo n k nREFUSED).setBit (Reg.TRN_NODE_STAT n k) 0 true).segEvt n 26

/-! ## Feedback frames (R110, R159, R182) -/

/-- Position records of a payload, in ascending record position (R159). -/
def State.takeRecords (s : State) (n k : Nat) (p : List Byte) (base : Nat) (cyc : Word) : State :=
  let km := byteAt p 5
  let off (r : Nat) : Nat := (List.range r).foldl (fun o i => if (byteAt p 4).testBit i then o + (if km.testBit i then 8 else 4) else o) 8
  s.each (s.slotCtxs n k) (fun r s =>
    let i := s.fld (Reg.FBK_RCTX r) 20 18
    s.takeRecord r (km.testBit i) (p.drop (off i)) base cyc)

/-- Phase currents of a payload go to the axes of their positions (R101, R159). -/
def State.takeCurrents (s : State) (n : Fin 12) (k : Fin 32) (p : List Byte) : State :=
  let rec0 := (List.range 8).foldl (fun o i => if (byteAt p 4).testBit i then o + (if (byteAt p 5).testBit i then 8 else 4) else o) 8
  let cnt (a : Nat) : Nat := byteAt p 6 / 4 ^ a % 4
  let off (a : Nat) : Nat := (List.range a).foldl (fun o i => o + 2 * cnt i) rec0
  s.each (List.range 4) (fun a s =>
    if cnt a = 0 then s
    else
      let i (j : Nat) : Int := if j < cnt a then sgn 16 (leAt p (off a + 2 * j) 2) else 0
      s.each ((List.range 256).filter (fun x => s.triggeredBy x (.slot n k) && wFld (s.lawRoute x) 16 15 == a))
        (fun x s => s.setAxis x { s.axis x with cur := [i 0, i 1, i 2] }))

/-- An accepted feedback frame of segment cycle c (R20, R152 to R154, R159, R182, R183). -/
def State.feedbackFrame (s : State) (n : Fin 12) (k : Fin 32) (ch : Nat) (c : Word) (t : Int) (h : Hdr) (b : List Byte) : State :=
  let first := s.slotFresh n k c
  let r := s.keepCopy n k ch c ⟨t, b⟩
  let s := r.2
  let s := if r.1 then
      let p := h.payload
      let s := s.setNode n k { s.node n k with nstat := byteAt p 0, nerr := byteAt p 1, sack := leAt p 2 2 }
      let s := s.nodeIn n k
      let base := if c = s.tb.cyc then s.tick0 else s.tick0 - s.tb.len
      let s := (s.takeRecords n k p base c).takeCurrents n k p
      s.when first (fun s => s.queueJobs (.slot n k) c (s.slotRel n k))
    else s
  if ch = 0 ∧ (s.slotRx n k c).a = some ⟨t, b⟩ ∧ s.nodeState n k = nIN then s.residual n k (t - 32 * s.slotNom n k) else s

/-! ## Service frames (R163, R174 to R176, R179, R180, R190) -/

/-- The receive entry of a message: the lowest free one, or where an earlier-arriving copy takes the place of the one received first, that
one's (R153, R180). -/
def State.svcEntry (s : State) (n : Nat) (h : Hdr) (first : Bool) : Option Nat :=
  let held (e : Nat) : Bool := s.bit (Reg.TRN_SVC_RXSTAT n) e
  lowest 4 (fun e => if first then !held e
    else held e && s.fld (Reg.TRN_SVC_RXH n e) 15 0 == h.cyc && s.fld (Reg.TRN_SVC_RXH n e) 29 24 == h.addr)

/-- A firmware message from a node goes into its receive entry (R180). -/
def State.svcReceive (s : State) (n : Nat) (h : Hdr) (first : Bool) : State :=
  match s.svcEntry n h first with
  | none => (s.incFld (Reg.TRN_SVC_RXSTAT n) 31 16).segEvt n 22
  | some e =>
    let s := s.wr (Reg.TRN_SVC_RXH n e) (mkFld 29 24 h.addr ||| mkFld 22 16 h.len ||| mkFld 15 0 h.cyc)
    let p := h.payload ++ List.replicate (64 - h.len) 0
    let s := s.each (List.range 16) (fun i s => s.wr (Reg.TRN_SVC_RX n e i) (word (leAt p (4 * i) 4)))
    (s.setBit (Reg.TRN_SVC_RXSTAT n) e true).segEvt n 23

/-- R_A and the measured skew of a reply or claim whose copies have come; none where a B copy alone has no held skew (R175). -/
def State.roundTrip (s : State) (n : Nat) (held : Option Int) (r : SlotRx) : Option (Int × Option Int) :=
  let base : Int := (s.segDs n + 200 : Nat) * 32
  match r.a, r.b, held with
  | some a, some b, _ => some (a.arr - base, some (b.arr - a.arr))
  | some a, none, _ => some (a.arr - base, none)
  | none, some b, some k => some (b.arr - k - base, none)
  | _, _, _ => none

/-- Whether a round trip and a skew pass the limits of R175. -/
def State.rangeOk (s : State) (n : Nat) (ra : Int) (skew : Option Int) : Bool :=
  decide (ra ≤ 2 * s.segDlmax n * 32) && (match skew with
    | some k => decide ((k.natAbs : Int) ≤ ((s.segWin n : Int) - 1) * 32)
    | none => true)

/-- A measured round trip and skew are held for a node (R175, R192). -/
def State.holdRange (s : State) (n k : Nat) (ra : Int) (skew : Option Int) : State :=
  let s := s.wr (Reg.TRN_NODE_RTT n k) (wordI ra)
  match skew with
  | some x => (s.setNode n k { s.node n k with skew := some x }).setFld (Reg.TRN_NODE_STAT n k) 23 12 (wrapN 12 (clampI (-2048) 2047 x))
  | none => s

/-- The copy of a slot that was chosen: the earlier arrival, A before B (R153). -/
def SlotRx.chosen (r : SlotRx) : Option Copy :=
  match r.a, r.b with
  | some a, some b => some (if a.arr ≤ b.arr then a else b)
  | some a, none => some a
  | none, b => b

/-- The reply window of a link cycle is evaluated for the request under way (R175, R176, R183). -/
def State.takeReply (s : State) (n : Nat) (r : SlotRx) : State :=
  match r.chosen with
  | none => s
  | some x =>
    let h := hdrOf x.bytes
    let p := h.payload
    let use (k tag : Nat) (f : Int → State → State) : State :=
      match s.roundTrip n (s.node n k).skew r with
      | none => s
      | some (ra, skew) =>
        if h.addr ≠ k ∨ byteAt p 0 ≠ 3 ∨ byteAt p 1 ≠ tag ∨ leAt p 2 2 ≠ 0xFFF0 ∨ h.len < 8 then s
        else
          let s := s.setSeg n { s.seg n with req := none }
          let s := s.holdRange n k ra skew
          if s.rangeOk n ra skew then f ra s else s.refuseNode n k
    let sHeld := leAt p 4 4
    match (s.seg n).req with
    | some (.first k tag) => use k tag (fun ra s =>
        let s := (s.setNode n k { s.node n k with rA := ra }).nodeTo n k nRANGING
        s.setSeg n { s.seg n with second := (s.seg n).second.filter (fun j => j != k) ++ [k] })
    | some (.second k so tag) => use k tag (fun ra s =>
        if sgn 32 sHeld = so ∧ (ra - (s.node n k).rA).natAbs ≤ 32 then
          ((s.wr (Reg.TRN_NODE_SOFF n k) (wordI so)).setNode n k { s.node n k with setMiss := 0, setTick := s.tb.tick }).nodeTo n k nSET
        else s.nodeTo n k nABSENT)
    | some (.correct k none tag) => use k tag (fun _ s => s.wr (Reg.TRN_NODE_SOFF n k) (word sHeld))
    | some (.correct k (some so) tag) => use k tag (fun _ s =>
        if sgn 32 sHeld = so then
          ((s.wr (Reg.TRN_NODE_SOFF n k) (wordI so)).setNode n k { s.node n k with resid := [], corrDue := false, corrS := none }).setFld
            (Reg.TRN_NODE_RES n k) 31 16 0
        else s)
    | _ => s

/-- Axis a has position p of command slot k as its destination (R20). -/
def State.routedTo (s : State) (n k p a : Nat) : Bool :=
  let r := s.lawRoute a
  !wBit r 14 && wFld r 13 10 == n && wFld r 9 5 == k && wFld r 4 3 == p

/-- The axis that routes to position p of command slot k (R160, R190): an enabled one, else one whose law is not enabled and that the image
routes there. An axis without law, route word and release routes nowhere (log entry 68). -/
def State.slotDest (s : State) (n k p : Nat) : Option Nat :=
  match lowest 256 (fun a => s.bit (Reg.LAW_CFG a) 31 && s.routedTo n k p a) with
  | some a => some a
  | none => lowest 256 (fun a => (s.lawRoute a != 0 || (s.axis a).released) && s.routedTo n k p a)

/-- A spare slot is open while UNUSED with no grant pending (R189). -/
def State.slotOpen (s : State) (n k : Nat) : Bool :=
  s.slotKind n k == 2 && s.nodeState n k == nUNUSED && !(s.seg n).grants.any (fun x => x.1 == k)

/-- The first claim of the reply window is judged (R190). -/
def State.takeClaim (s : State) (n : Nat) (c : Word) (r : SlotRx) : State :=
  match (s.seg n).req, r.chosen with
  | some .claim, some x =>
    let h := hdrOf x.bytes
    let p := h.payload
    let k := h.slot
    let s := s.setSeg n { s.seg n with req := none }
    let refuse := ((s.wr (Reg.TRN_CLAIMLO n) (word (leAt p 0 4))).wr (Reg.TRN_CLAIMHI n) (word (leAt p 4 4))).segEvt n 24
    match s.roundTrip n (s.node n k).skew r with
    | none => refuse
    | some (ra, skew) =>
      if leAt p 8 4 = (s.rd (Reg.TRN_SDIG n)).toNat ∧ s.slotOpen n k ∧ h.addr = k
          ∧ byteAt p 14 % 8 ≤ countN 4 (fun q => (s.slotDest n k q).isSome) ∧ s.rangeOk n ra skew then
        let s := (s.holdRange n k ra skew).setNode n k { s.node n k with rA := ra, skew := match skew with | some v => some v | none => (s.node n k).skew }
        let s := s.nodeTo n k nRANGING
        let g := s.seg n
        -- its second request goes in the next link cycle that is no multiple of 8: it comes first (R190)
        let s := s.setSeg n { g with grants := (k, c, leAt p 0 4) :: g.grants, second := k :: g.second.filter (fun j => j != k) }
        ((s.showGrant n ((s.seg n).cyc.getD c)).segEvt n 25).record ⟨6, 6, false, false, 32 * n + k, k, 0⟩
      else refuse
  | _, _ => s

/-- An accepted frame in the reply window (R175, R190); judged at once when both copies have come. -/
def State.replyFrame (s : State) (n ch : Nat) (c : Word) (t : Int) (h : Hdr) (b : List Byte) : State :=
  let key := if h.type = 6 then 0x300 else 0x201
  let old := s.slotRx n key c
  if h.type == 6 && (match old.chosen with | some x => x.bytes != b | none => false) then s
  else
    let r := s.keepCopy n key ch c ⟨t, b⟩
    let s := r.2
    let x := s.slotRx n key c
    if x.a.isSome && x.b.isSome && !x.closed then
      let s := s.setSlotRx n key { x with closed := true }
      if h.type = 6 then s.takeClaim n c x else s.takeReply n x
    else s

/-- A sync of another head, or of this head's own HID, is accepted (R185, R187, R188). -/
def State.otherSync (s : State) (n hid : Nat) : State :=
  let s := ((s.setBit (Reg.TRN_SSTAT n) 11 true).setFld (Reg.TRN_SSTAT n) 10 8 hid).segEvt n 31
  if s.trn.silence ≠ 0 then s
  else if hid = s.headId n then { s with trn := { s.trn with silence := 5 } }
  else if hid < s.headId n ∧ (List.range 12).any s.segSends = true then { s with trn := { s.trn with silence := 4 } }
  else s

/-- A port receives a frame whole (R152 to R154, R165, R325). A port in loopback receives nothing but what its own transmitter last
sent. -/
def frameReceive (p : Port) (f : RxFrame) (s : State) : State :=
  let n := p.seg
  let ch := if p.chB then 1 else 0
  if !s.bit (Reg.TRN_PCFG n ch) 31 || (s.loops n ch && f.bytes != (s.seg n).tx) then s
  else
    let v := s.frameCheck n f
    let s := s.capPortRecord (2 * n + ch) f.arrival v.1 f.bytes
    if v.1 ≠ 0 then s.frameFail n ch v.1
    else
      let h := hdrOf f.bytes
      let b := f.bytes.take (8 + h.len)
      let at0 := match v.2 with
        | some x => x.2.2.toNat
        | none => f.arrival
      let s := (s.inc (Reg.TRN_PRXOK n ch)).wr (Reg.TRN_PLAST n ch) (mkFld 31 22 h.slot ||| mkFld 21 0 at0)
      match v.2 with
      | none => if s.loops n ch then s else s.otherSync n h.hid
      | some (.fb k, c, t) => if g : k < 32 then s.feedbackFrame n ⟨k, g⟩ ch c t h b else s
      | some (.us, c, t) =>
        let r := s.keepCopy n 0x200 ch c ⟨t, b⟩
        if r.1 then r.2.svcReceive n h (s.slotFresh n 0x200 c) else r.2
      | some (.reply, c, t) => s.replyFrame n ch c t h b

/-- The axes of slot k that are due in cycle c hold for want of a frame (R27, R48). -/
def State.missHolds (s : State) (n : Fin 12) (k : Fin 32) (c : Word) : State :=
  if s.lawsRun then s.each ((List.range 256).filter (fun a => s.triggeredBy a (.slot n k) && s.due a c)) (fun a s => s.holdMiss a) else s

/-- No frame in a slot of a segment that has fallen silent: its laws receive no feedback and hold, once in each device cycle (R27, R187,
R188, R341); without segment cycles the node states stand (log entry 69). -/
def State.silentMissing (s : State) (n : Fin 12) (k : Fin 32) : State :=
  let r := s.slotRx n k s.tb.cyc
  if s.nodeState n k == nUNUSED || r.a.isSome || r.b.isSome || r.closed then s
  else (s.setSlotRx n k { r with closed := true }).missHolds n k s.tb.cyc

/-- No accepted frame by the slot's reference end (R27, R182). -/
def feedbackMissing (n : Fin 12) (k : Fin 32) (s : State) : State :=
  if s.segSilent n then s.silentMissing n k
  else match (s.seg n).cyc with
  | none => s
  | some c =>
    let r := s.slotRx n k c
    if !s.segSends n || s.nodeState n k == nUNUSED || r.a.isSome || r.b.isSome || r.closed then s
    else
      let s := s.setSlotRx n k { r with closed := true }
      let st := s.nodeState n k
      let open0 := (if c = s.tb.cyc then s.tick0 else s.tick0 - s.tb.len) + s.slotNom n k
      if st = nIN then
        let s := s.missHolds n k c
        let m := s.fld (Reg.TRN_NODE_STAT n k) 25 24 + 1
        let s := s.setFld (Reg.TRN_NODE_STAT n k) 25 24 m
        if m < 3 then s
        else
          let s := (s.dropRanging n k).setNode n k { s.node n k with outCyc := some c, corrDue := false, corrS := none }
          ((s.nodeTo n k nOUT).setBit (Reg.TRN_NODE_STAT n k) 1 true).segEvt n 27
      else if st = nSET ∧ (s.node n k).setTick + s.segWin n < open0 then
        let m := (s.node n k).setMiss + 1
        let s := s.setNode n k { s.node n k with setMiss := m }
        if m < 4 then s else s.nodeTo n k nABSENT
      else s

/-! ## Sync (R157, R166, R186, R190, R202) -/

/-- Payload of a sync of cycle c (R157). -/
def State.syncPayload (s : State) (n : Nat) (c : Word) : List Byte :=
  let t := s.tb
  let cold := decide (0 < s.fld (Reg.TRN_SSTAT n) 28 24)
  let g := match (s.seg n).grants with
    | (k, _, id) :: _ => leBytes 2 (0x8000 + k) ++ [byte k, 0] ++ leBytes 4 id
    | [] => List.replicate 8 0
  leBytes 4 c.toNat ++ leBytes 4 (s.rd (Reg.TRN_SDIG n)).toNat
    ++ bytesOf ((List.range 8).map (fun i => s.rd (Reg.SAF_TOK i)))
    ++ leBytes 8 t.t0Sec ++ leBytes 4 t.t0Ns ++ leBytes 2 t.t0Frac
    ++ [byte (s.segHid n + (if s.bit (Reg.TRN_SCFG n) 30 then 8 else 0) + (if cold then 16 else 0) + (if t.t0Valid && !t.stepped then 32 else 0)),
        byte (s.fld (Reg.TRN_SOFS n) 31 29)] ++ g

/-- A grant whose last sync has gone lapses unless its node is IN; TRN_GRANT.LEFT counts the syncs left (R190). -/
def State.grantStep (s : State) (n : Nat) (c : Word) : State :=
  let old := (s.seg n).grants.filter (fun x => decide (8 < (c - x.2.1).toNat))
  let s := s.each old (fun x s => ((s.dropRanging n x.1).endGrant n x.1).nodeTo n x.1 nUNUSED)
  if (s.seg n).grants.isEmpty then s else s.showGrant n c

/-- A link cycle takes TRN_SCFG.CLAIM and TRK (R192). -/
def State.takeScfg (s : State) (n : Nat) : State :=
  s.setSeg n { s.seg n with claimOn := s.bit (Reg.TRN_SCFG n) 29, trk := s.fld (Reg.TRN_SCFG n) 6 0 }

/-- The containers of segment cycle c stand as they are in place at tick O: those that Garnet wrote for it follow its states at tick 0
and carry the next counter, the others stay as sent before (R30, R233). -/
def State.placeContainers (s : State) (n : Nat) (c : Word) : State :=
  s.each (List.range 32) (fun k s =>
    let x := s.node n k
    if x.contCyc = some c then
      let cnt := if x.cont.isEmpty then 0 else (leAt x.cont 4 2 + 1) % 65536
      s.setNode n k { x with cont := s.container n k cnt, contCyc := none }
    else s)

/-- At tick O the head sends the sync that begins segment cycle c, c the device's cycle (R166). -/
def syncSend (n : Fin 12) (s : State) : State :=
  let c := s.tb.cyc
  if !s.segSends n || !s.tb.running || (s.seg n).cyc == some c then s
  else
    let s := (s.when (c.toNat % 2 == 0) (fun s => s.takeScfg n)).grantStep n c
    let s := (s.setSeg n { s.seg n with cyc := some c, prev := (s.seg n).cyc }).placeContainers n c
    let s := s.sendFrame n 1 63 0x3FF c (s.syncPayload n c)
    let k := s.fld (Reg.TRN_SSTAT n) 28 24
    if k = 0 then s
    else
      let s := s.setFld (Reg.TRN_SSTAT n) 28 24 (k - 1)
      if k = 1 then s.setFld (Reg.TRN_SSTAT n) 31 29 3 else s

/-- The segment cycle for which a container may be written now: the interval opens at the slot's release in the cycle before it; before the
first sync it is the device's cycle (R30). -/
def State.contFor (s : State) (n k : Nat) : Option Word :=
  match (s.seg n).cyc with
  | some c => if (s.node n k).relCyc = some c then some (c + 1) else none
  | none => some s.tb.cyc

/-- Garnet writes a node's container for the next segment cycle (R30, R233). -/
def garnetContainerWrite (n : Fin 12) (k : Fin 32) (s : State) : State :=
  if !s.saf.g.live || !s.saf.loaded || s.nodeState n k == nUNUSED then s
  else match s.contFor n k with
    | some c => s.setNode n k { s.node n k with contCyc := some c }
    | none => s

/-! ## Release instants and command frames (R25, R160, R182) -/

/-- The axis field of position p of slot k in cycle c: AKIND, whether it repeats an earlier release, and its bytes (R160, R161). -/
def State.axisField (s : State) (n k p : Nat) (c : Word) : Nat × Bool × List Byte :=
  match s.slotDest n k p with
  | none => (3, false, List.replicate 8 0)
  | some a =>
    let x := s.axis a
    (s.fld (Reg.LAW_CFG a) 30 28 % 4, !(x.released && s.rd (Reg.LAW_REL_CYC a) == c), if x.released then leBytes 8 x.cmd.toNat else List.replicate 8 0)

/-- Payload of the command frame of node k for segment cycle c (R160). -/
def State.commandPayload (s : State) (n k : Nat) (c : Word) : List Byte :=
  let num := (List.range 4).foldl (fun m p => if (s.slotDest n k p).isSome then p + 1 else m) 0
  let f := (List.range num).map (fun p => s.axisField n k p c)
  let kinds := (List.range 4).foldl (fun m p => m + (match f[p]? with | some x => x.1 | none => if p < num then 3 else 0) * 4 ^ p) 0
  let reps := (List.range 4).foldl (fun m p => m + (match f[p]? with | some x => if x.2.1 then 2 ^ p else 0 | none => 0)) 0
  let cont := (s.node n k).cont
  let sc := if cont.isEmpty then (List.range 12).map (Config.noContainer n k) else cont
  sc ++ [byte kinds, byte reps, 0, 0] ++ (f.map (fun x => x.2.2)).flatten

/-- The command frame of node k leaves at the slot's release instant, for an IN node or one that went OUT in this very cycle. -/
def State.commandFrame (s : State) (n k : Nat) : State :=
  match (s.seg n).cyc with
  | none => s
  | some c =>
    let x := s.node n k
    if !s.segSends n || !(s.nodeState n k == nIN || (s.nodeState n k == nOUT && x.outCyc == some c)) then s
    else
      let s := s.sendFrame n 3 k (0x100 + k) c (s.commandPayload n k c)
      let cnt := (leAt x.cont 4 2, s.tb.tick)
      s.setNode n k { x with sentCnt := cnt :: x.sentCnt.filter (fun p => decide (s.tb.tick ≤ p.2 + 8000000)) }

/-- A feedback slot is past: single-channel losses, and the residual of a frame that came on channel B alone (R154, R183). -/
def State.closeSlot (s : State) (n k : Nat) : State :=
  match (s.seg n).cyc with
  | none => s
  | some c =>
    let r := s.slotRx n k c
    if r.closed then s
    else
      let s := (s.setSlotRx n k { r with closed := true }).countLoss n r
      match r.a, r.b, (s.node n k).skew with
      | none, some b, some sk => if s.nodeState n k = nIN then s.residual n k (b.arr - sk - 32 * s.slotNom n k) else s
      | _, _, _ => s

/-- The release instant of a trigger: jobs release, and a slot's command frame leaves with what they released; from then on Garnet may write
the slot's next container (R22, R25, R30, R167). -/
def releaseInstant (t : Trigger) (s : State) : State :=
  let s := s.releaseJobs t
  match t with
  | .slot n k =>
    let s := (s.closeSlot n k).commandFrame n k
    s.setNode n k { s.node n k with relCyc := (s.seg n).cyc }
  | .group _ => s

/-! ## Downstream service (R173, R178 to R180) -/

/-- Payload of a range request (R173). -/
def State.rangeRequest (s : State) (n k tag : Nat) (soff : Option Int) (dly : Option Int) : List Byte :=
  [4, byte tag] ++ leBytes 2 0xFFF0
    ++ leBytes 4 (match soff with | some x => wrapN 32 x | none => 0x80000000)
    ++ leBytes 4 (match dly with | some x => wrapN 32 x | none => 0xFFFFFFFF)
    ++ leBytes 4 (s.rd (Reg.TRN_SPAN n)).toNat
    ++ leBytes 4 (wrapN 32 (((s.segUs n : Int) - s.slotNom n k) * 32))

/-- A broadcast claim request carries no offset, delay, span or service offset. -/
def claimRequest (tag : Nat) : List Byte :=
  [4, byte tag] ++ leBytes 2 0xFFF0 ++ leBytes 4 0x80000000 ++ leBytes 4 0xFFFFFFFF ++ leBytes 4 0xFFFFFFFF ++ leBytes 4 0x80000000

/-- The S that the head holds for a node, none for 0x8000_0000. -/
def State.soffHeld (s : State) (n k : Nat) : Option Int :=
  let w := s.rd (Reg.TRN_NODE_SOFF n k)
  if w = 0x80000000 then none else some (s32 w)

/-- A request that got no usable reply: a failed confirmation returns the node to ABSENT (R176, R182). -/
def State.lapseReq (s : State) (n : Nat) : State :=
  match (s.seg n).req with
  | none => s
  | some q =>
    let s := s.setSeg n { s.seg n with req := none }
    match q with
    | .second k _ _ => if s.nodeState n k = nRANGING then s.nodeTo n k nABSENT else s
    | _ => s

/-- The node slot whose turn of the round robin comes next (R178). -/
def State.nextRange (s : State) (n : Nat) : Option Nat :=
  let ok (k : Nat) : Bool := (s.slotKind n k == 1 || s.slotKind n k == 2)
    && (s.nodeState n k == nABSENT || s.nodeState n k == nOUT || s.nodeState n k == nREFUSED)
  (lowest 32 (fun i => ok (((s.seg n).rr + i) % 32))).map (fun i => ((s.seg n).rr + i) % 32)

/-- The link message of an even segment cycle c (R178, R183, R190). -/
def State.linkMessage (s : State) (n : Nat) (c : Word) : State :=
  let tag := c.toNat % 256
  let send (s : State) (k : Nat) (q : LinkReq) (p : List Byte) : State :=
    (s.sendFrame n 5 k 0x201 c p).setSeg n { (s.sendFrame n 5 k 0x201 c p).seg n with req := some q }
  let second := (s.seg n).second.find? (fun k =>
    s.nodeState n k == nRANGING && !((s.seg n).grants.any (fun x => x.1 == k) && c.toNat % 8 == 0))
  match lowest 32 (fun k => (s.node n k).corrDue && s.nodeState n k == nIN) with
  | some k =>
    let x := s.node n k
    let s := s.setBit (Reg.TRN_NODE_STAT n k) 2 true
    match s.soffHeld n k with
    | none => send s k (.correct k none tag) (s.rangeRequest n k tag none none)
    | some h =>
      let so := x.corrS.getD (rneDiv (16 * h - x.resid.foldl (fun a r => a + r) 0) 16)
      let s := s.setNode n k { x with corrS := some so }
      send s k (.correct k (some so) tag) (s.rangeRequest n k tag (some so) none)
  | none =>
    if c.toNat % 8 = 0 ∧ (s.seg n).claimOn ∧ (List.range 32).any (s.slotOpen n) then send s 63 .claim (claimRequest tag)
    else match second with
      | some k =>
        let ra := (s.node n k).rA
        let so := ((s.slotNom n k : Int) - s.segOfs n) * 32 - ra
        let s := s.setSeg n { s.seg n with second := (s.seg n).second.filter (fun j => j != k) }
        send s k (.second k so tag) (s.rangeRequest n k tag (some so) (some (rneDiv ra 2)))
      | none =>
        match s.nextRange n with
        | some k =>
          let s := s.setSeg n { s.seg n with rr := (k + 1) % 32 }
          send s k (.first k tag) (s.rangeRequest n k tag none none)
        | none => s

/-- At DS the head sends the downstream service message that applies; a GO of the same tick waits for the next firmware cycle (R178 to
R180). -/
def downstreamServiceSend (n : Fin 12) (s : State) : State :=
  match (s.seg n).cyc with
  | none => s
  | some c =>
    if !s.segSends n then s
    else if c.toNat % 2 = 1 then
      match (s.seg n).msg with
      | none => s
      | some (a, p, t) =>
        if t = s.tb.tick then s
        else
        let s := s.sendFrame n 5 a 0x201 c p
        ((s.setSeg n { s.seg n with msg := none }).setBit (Reg.TRN_SVC_TXCTL n) 30 false).segEvt n 20
    else (s.lapseReq n).linkMessage n c

/-- Copies of a slot that came in cycle c and are still to be judged. -/
def State.unjudged (s : State) (n key : Nat) (c : Word) : Bool :=
  let r := s.slotRx n key c
  (r.a.isSome || r.b.isSome) && !r.closed

/-- A slot is judged at the close of its window: losses, then f (R154). -/
def State.closeRx (s : State) (n key : Nat) (c : Word) (f : SlotRx → State → State) : State :=
  let r := s.slotRx n key c
  if s.unjudged n key c then f r ((s.setSlotRx n key { r with closed := true }).countLoss n r) else s

/-- The service window of cycle c closes: the reply window of a link cycle, or the upstream service window of a firmware cycle (R154, R175,
R176, R190). -/
def State.closeService (s : State) (n : Nat) (c : Word) : State :=
  if c.toNat % 2 = 1 then s.closeRx n 0x200 c (fun _ s => s)
  else ((s.closeRx n 0x201 c (fun r s => s.takeReply n r)).closeRx n 0x300 c (fun r s => s.takeClaim n c r)).lapseReq n

/-- Whether the service window of cycle c has something left to judge; a link request belongs to the last link cycle. -/
def State.serviceOpen (s : State) (n : Nat) (c : Word) : Bool :=
  if c.toNat % 2 = 1 then s.unjudged n 0x200 c
  else s.unjudged n 0x201 c || s.unjudged n 0x300 c || (s.seg n).req.isSome

/-- A service window is past: that of the cycle before the running one where it is still to be judged, for it may reach past the next sync
(R169, R191), else that of the running cycle. -/
def replyWindowClose (n : Fin 12) (s : State) : State :=
  match (s.seg n).cyc, (s.seg n).prev with
  | none, _ => s
  | some c, none => s.closeService n c
  | some c, some p => if p + 1 = c ∧ s.serviceOpen n p = true then s.closeService n p else s.closeService n c

/-- TRN_SVC_TXCTL (R180). -/
def State.svcTxctl (s : State) (n : Nat) (v : Word) : State :=
  let busy := s.bit (Reg.TRN_SVC_TXCTL n) 30
  let s := s.wr (Reg.TRN_SVC_TXCTL n) ((s.rd (Reg.TRN_SVC_TXCTL n) &&& bitW 30) ||| (v &&& (maskW 29 24 ||| maskW 22 16)))
  if !wBit v 31 || busy then s
  else
    let len := wFld v 22 16
    let p := bytesOf ((List.range 16).map (fun i => s.rd (Reg.TRN_SVC_TXD n i)))
    if len < 4 ∨ 64 < len ∨ leAt p 2 2 = 0xFFF0 then s.segEvt n 21
    else (s.setSeg n { s.seg n with msg := some (wFld v 29 24, p.take len, s.tb.tick) }).setBit (Reg.TRN_SVC_TXCTL n) 30 true

/-! ## Ports (R146) -/

def portSet (b : Nat) (p : Port) (s : State) : State :=
  let ch := if p.chB then 1 else 0
  if s.bit (Reg.TRN_PCFG p.seg ch) 31 then s.setBit (Reg.TRN_PSTAT p.seg ch) b true else s
def portDrop (b ev : Nat) (p : Port) (s : State) : State :=
  let ch := if p.chB then 1 else 0
  if s.bit (Reg.TRN_PSTAT p.seg ch) b then (s.setBit (Reg.TRN_PSTAT p.seg ch) b false).portEvt p.seg ch ev else s
def portSyncLost (p : Port) (s : State) : State := portDrop 30 14 p s
def portSignalLost (p : Port) (s : State) : State := portDrop 31 15 p s
def portSyncAcquired (p : Port) (s : State) : State := portSet 30 p s
def portSignalDetected (p : Port) (s : State) : State := portSet 31 p s

/-! ## Listen, coldstart, silence (R185 to R188) -/

/-- Entry into LISTEN: enabled segments listen, and no other head has been heard yet (R185). -/
def State.enterListen (s : State) : State :=
  let s := s.each (List.range 12) (fun n s =>
    ((s.setFld (Reg.TRN_SSTAT n) 31 29 (if s.segEn n then 1 else 0)).setBit (Reg.TRN_SSTAT n) 11 false).setFld (Reg.TRN_SSTAT n) 28 24 0)
  { s with trn := { s.trn with silence := 0, cold := none, listenAt := s.tb.tick }, pair := { s.pair with heard := none } }

/-- The listen time in ticks: two cycles and 8 µs for each unit of HID (R185). -/
def State.listenTime (s : State) : Nat := 2 * s.tb.len + 3200 * s.headId 0

/-- The listen time ends; the head coldstarts at the next tick 0 unless another head was heard on any port (R185). -/
def listenTimeout (s : State) : State :=
  if s.mode ≠ mLISTEN ∨ (List.range 12).any (fun n => s.bit (Reg.TRN_SSTAT n) 11) ∨ s.tb.tick < s.trn.listenAt + s.listenTime then s
  else { s with trn := { s.trn with cold := some false } }

/-- The coldstart of every enabled segment at a tick 0 (R182, R186). -/
def State.coldStart (s : State) : State :=
  let s := { s with trn := { s.trn with cold := none } }
  s.each ((List.range 12).filter s.segEn) (fun n s =>
    let s := (s.setFld (Reg.TRN_SSTAT n) 31 29 2).setFld (Reg.TRN_SSTAT n) 28 24 16
    let s := ((s.setSeg n { tx := (s.seg n).tx, msg := (s.seg n).msg }).takeScfg n).wr (Reg.TRN_GRANT n) 0
    s.each (List.range 32) (fun k s =>
      let x := s.node n k
      let s := s.setNode n k { skew := x.skew, cont := x.cont, sentCnt := x.sentCnt }
      let s := (s.setFld (Reg.TRN_NODE_STAT n k) 25 24 0).setFld (Reg.TRN_NODE_RES n k) 31 16 0
      s.nodeTo n k (if s.slotKind n k = 1 then nABSENT else nUNUSED)))

/-- Every segment stops sending: STATE 0 off, 4 YIELD, 5 CLASH (R187, R188, R356). -/
def State.silenceAll (s : State) (st : Nat) : State :=
  let s := { s with trn := { s.trn with silence := 0, cold := none } }
  s.each ((List.range 12).filter s.segEn) (fun n s =>
    let s := (s.setFld (Reg.TRN_SSTAT n) 31 29 st).setFld (Reg.TRN_SSTAT n) 28 24 0
    let s := s.setSeg n { s.seg n with req := none, second := [] }
    if st = 4 then s.segEvt n 30 else if st = 5 then s.segEvt n 29 else s)

/-- Tick 0: a YIELD or CLASH takes effect (R187, R188). -/
def State.trnTick0 (s : State) : State := if s.trn.silence = 0 then s else s.silenceAll s.trn.silence

/-- Every node slot of every enabled segment is IN (R353). -/
def State.allIn (s : State) : Bool :=
  (List.range 12).all (fun n => !s.segEn n || (List.range 32).all (fun k => s.slotKind n k != 1 || s.nodeState n k == nIN))

/-! ## Digest and schedule (R168, R191) -/

/-- The schedule digest of the loaded registers (R168). -/
def State.schedDigest (s : State) (n : Nat) : Nat :=
  crc32c (bytesOf ((List.range 32).map (fun k => s.rd (Reg.TRN_SLOT n k)) ++ [s.rd (Reg.TRN_SOFS n), s.rd (Reg.TRN_SSVC n), s.rd (Reg.TRN_SDSV n)]))

/-- Whether intervals (begin, end) overlap in pairs. -/
def overlaps : List (Nat × Nat) → Bool
  | [] => false
  | x :: t => t.any (fun y => decide (x.1 < y.2 ∧ y.1 < x.2)) || overlaps t

/-- Frame time of LEN in fifths of a tick (R147). -/
def wire5 (len : Nat) : Nat := (24 + len) * 16

/-- The first of conditions 1 to 4 of R191 that the loaded schedule of segment n fails, 0 when it passes. Times are in fifths of a tick. -/
def State.schedCheck (s : State) (n : Nat) : Nat :=
  let used := (List.range 32).filter (fun k => s.slotKind n k == 1 || s.slotKind n k == 2)
  let w := s.segWin n
  let cmdLen (k : Nat) : Nat := 16 + 8 * (List.range 4).foldl (fun m p => if (s.slotDest n k p).isSome then p + 1 else m) 0
  let down := [(5 * s.segOfs n, 5 * s.segOfs n + wire5 64), (5 * s.segDs n, 5 * s.segDs n + wire5 64)]
    ++ used.map (fun k => (5 * s.slotRel n k, 5 * s.slotRel n k + wire5 (cmdLen k)))
  let iv (lo hi len : Nat) : Nat × Nat := (5 * (lo - w), 5 * (hi + w) + wire5 len)
  let up := used.map (fun k => iv (s.slotNom n k) (s.slotNom n k) (s.slotLen n k))
  let odd := up ++ [iv (s.segUs n) (s.segUs n) 64]
  let even := up ++ [iv (s.segDs n + 200) (s.segDs n + 200 + 2 * s.segDlmax n) 16]
  let last (l : List (Nat × Nat)) : Nat := l.foldl (fun m x => max m x.2) 0
  let first (l : List (Nat × Nat)) : Nat := l.foldl (fun m x => min m x.1) (5 * 2 ^ 20)
  let len := clenTicks (s.fld Reg.TB_CFG 2 0)
  let cyc := 5 * len
  if overlaps down then 1
  else if overlaps odd || overlaps even then 2
  else if cyc + first down < last down ∨ cyc + first even < last odd ∨ cyc + first odd < last even then 3
  else if 4095 < s.segDlmax n ∨ len ≤ s.segOfs n ∨ s.segUs n < w ∨ used.any (fun k => decide (s.slotNom n k < w)) then 4
  else 0

/-! ## The commands without register writes -/

def execSyncSend (n : Fin 12) (s : State) : Host.Outcome State Fault Refusal := .next (syncSend n s)
def execGarnetContainerWrite (n : Fin 12) (k : Fin 32) (s : State) : Host.Outcome State Fault Refusal := .next (garnetContainerWrite n k s)
def execFeedbackMissing (n : Fin 12) (k : Fin 32) (s : State) : Host.Outcome State Fault Refusal := .next (feedbackMissing n k s)
def execReleaseInstant (t : Trigger) (s : State) : Host.Outcome State Fault Refusal := .next (releaseInstant t s)
def execDownstreamServiceSend (n : Fin 12) (s : State) : Host.Outcome State Fault Refusal := .next (downstreamServiceSend n s)
def execReplyWindowClose (n : Fin 12) (s : State) : Host.Outcome State Fault Refusal := .next (replyWindowClose n s)
def execListenTimeout (s : State) : Host.Outcome State Fault Refusal := .next (listenTimeout s)
def execPortSyncLost (p : Port) (s : State) : Host.Outcome State Fault Refusal := .next (portSyncLost p s)
def execPortSignalLost (p : Port) (s : State) : Host.Outcome State Fault Refusal := .next (portSignalLost p s)
def execPortSyncAcquired (p : Port) (s : State) : Host.Outcome State Fault Refusal := .next (portSyncAcquired p s)
def execPortSignalDetected (p : Port) (s : State) : Host.Outcome State Fault Refusal := .next (portSignalDetected p s)

end Sys2Proof.Machine
end

