-- ==== Sys2Proof/Machine/GalCheck.lean ====
section
/-! DEFINITION. The checks of the law programs (R76), of the lane plan, the job counts and release before use (R77, R19, R20, R28), and
the lane tests of CONFIGURE (R84). -/

namespace Sys2Proof.Machine

/-! ## Law programs -/

/-- A failure of the program check: word and code. -/
abbrev ProgErr := Nat × Nat

/-- What a word breaks by itself: a reserved opcode, field or operand code, or CSTR or RA outside a body (R66 to R71, R76 code 1). -/
def wordBad (w : Word) (inBody : Bool) : Bool :=
  let op := wFld w 31 29
  let src (k : Nat) : Bool := decide (0x18 ≤ k ∧ k ≤ 0x1E)
  decide (6 ≤ op) || (op == opNOP && wFld w 27 0 != 0)
    || (op == opMAC && (wBit w 0 || src (wFld w 16 12) || src (wFld w 8 4) || (!inBody && wFld w 27 25 != 0)))
    || ((op == opSTX || op == opSTU || op == opLIM) && (wFld w 26 6 != 0 || (!inBody && wBit w 27)))
    || (op == opLIM && wFld w 2 0 != 0)
    || (op == opREP && (wFld w 28 13 != 0 || wFld w 7 4 != 0))

/-- Words are walked in order; body: the REP word and the last word of the body being walked. The answer is the E word or the first
failure of codes 1, 2 and 4. -/
def progWalk (word : Nat → Word) : Nat → Nat → Option (Nat × Nat) → Nat ⊕ ProgErr
  | 0, _, _ => .inr (103, 2)
  | f + 1, i, body =>
    let w := word i
    if wordBad w body.isSome then .inr (i, 1)
    else match body with
      | some (r, last) =>
        if wFld w 31 29 = opREP then .inr (r, 4)
        else if wBit w 28 then (if i = last then .inr (i, 2) else .inr (r, 4))
        else progWalk word f (i + 1) (if i = last then none else body)
      | none =>
        if wFld w 31 29 = opREP then progWalk word f (i + 1) (some (i, i + wFld w 12 8 + 1))
        else if wBit w 28 then .inl i
        else progWalk word f (i + 1) none

/-- The execution of a walked program: word number and iteration of each step up to the E word e (R70, R71, R75). -/
def progSteps (word : Nat → Word) (e : Nat) : Nat → Nat → List (Nat × Nat)
  | 0, _ => []
  | f + 1, i =>
    if e < i then []
    else
      let w := word i
      if wFld w 31 29 = opREP then
        let len := wFld w 12 8 + 1
        (i, 0) :: ((List.range (wFld w 3 0 + 1)).flatMap (fun r => (List.range len).map (fun b => (i + 1 + b, r)))
          ++ progSteps word e f (i + 1 + len))
      else (i, 0) :: progSteps word e f (i + 1)

/-- What the check of the unrolled program has seen: steps so far, the step of the last MAC into each accumulator, of STU and LIM per
output, and the state words stored. -/
structure ProgSeen where
  n : Nat := 0
  mac : List (Option Nat) := List.replicate 8 none
  stu : List (Option Nat) := [none, none]
  lim : List (Option Nat) := [none, none]
  stx : List Nat := []

/-- The entry of a list of step numbers. -/
def stepAt (l : List (Option Nat)) (k : Nat) : Option Nat := (l[k]?).getD none

/-- One step of the unrolled program: the failing code of 5 to 0xA, or what is seen after it (R72, R76). -/
def progStep (w : Word) (r : Nat) (p : ProgSeen) : Nat ⊕ ProgSeen :=
  let op := wFld w 31 29
  let ra := if wBit w 27 then r else 0
  let q := { p with n := p.n + 1 }
  if op = opMAC then
    let s0 := wFld w 8 4
    let s1 := wFld w 16 12
    let badW (s : Nat) : Bool := (s == 0x16 || s == 0x17) && (match stepAt p.lim (s - 0x16) with
      | some t => decide (p.n < t + 2)
      | none => true)
    if 46 < wFld w 22 17 + r * wFld w 26 25 then .inl 5
    else if badW s0 || badW s1 then .inl 9
    else
      let m := if s0 = 31 then p.mac else setAt p.mac ((wFld w 3 1 + ra) % 8) (some p.n)
      .inr { q with mac := if s1 = 31 then m else setAt m ((wFld w 11 9 + ra) % 8) (some p.n) }
  else if op = opSTX ∨ op = opSTU ∨ op = opLIM then
    let i := wFld w 5 3 + ra
    let a := (wFld w 2 0 + ra) % 8
    let near := match stepAt p.mac a with
      | some t => decide (p.n < t + 4)
      | none => false
    if (if op = opSTX then 5 else 1) < i then .inl 6
    else if op ≠ opLIM ∧ near = true then .inl 7
    else if op = opLIM ∧ (stepAt p.stu i).isNone then .inl 8
    else if op = opSTX then (if p.stx.contains i then .inl 10 else .inr { q with stx := i :: p.stx })
    else if op = opSTU then (if (stepAt p.stu i).isSome then .inl 10 else .inr { q with stu := setAt p.stu i (some p.n) })
    else if (stepAt p.lim i).isSome then .inl 10 else .inr { q with lim := setAt p.lim i (some p.n) }
  else .inr q

/-- The first failure of the unrolled program. -/
def progRun (word : Nat → Word) : List (Nat × Nat) → ProgSeen → ProgErr ⊕ ProgSeen
  | [], p => .inr p
  | (i, r) :: t, p => match progStep (word i) r p with
    | .inl c => .inl (i, c)
    | .inr q => progRun word t q

/-- The check of one program: its first failure, or its GAL_PROG_INFO (R76). -/
def progCheck (word : Nat → Word) : ProgErr ⊕ Word :=
  match progWalk word 104 0 none with
  | .inr e => .inl e
  | .inl e =>
    let st := progSteps word e 104 0
    match st[104]? with
    | some x => .inl (x.1, 3)
    | none => match progRun word st {} with
      | .inl x => .inl x
      | .inr p =>
        let out (j : Nat) : Bool := (stepAt p.stu j).isSome && (stepAt p.lim j).isSome
        .inr (bitW 31 ||| mkBit 25 (out 1) ||| mkBit 24 (out 0) ||| mkFld 22 16 st.length ||| mkFld 6 0 (e + 1))

/-- A program slot whose words are all 0 (R74). -/
def State.progEmpty (s : State) (p : Nat) : Bool := (List.range 104).all (fun w => s.progWord p w == 0)

/-- The check of the program slots in order, up to the first failure, then of the axes (R76). -/
def State.progChecks (s : State) : List Nat → State × Bool
  | [] =>
    match lowest 256 (fun a => s.bit (Reg.LAW_CFG a) 31 &&
        (let i := s.rd (Reg.GAL_PROG_INFO (s.progOf a))
         !wBit i 31 || wFld i 25 24 % 2 ^ s.fld (Reg.LAW_CFG a) 16 15 != 2 ^ s.fld (Reg.LAW_CFG a) 16 15 - 1)) with
    | some a => (s.wr Reg.GAL_CHK_ERR (mkFld 31 28 (s.progOf a) ||| mkFld 15 8 a ||| 0x0B), false)
    | none => (s, true)
  | p :: t =>
    if s.progEmpty p then s.progChecks t
    else match progCheck (s.progWord p) with
      | .inl (w, c) => (s.wr Reg.GAL_CHK_ERR (mkFld 31 28 p ||| mkFld 22 16 w ||| mkFld 7 0 c), false)
      | .inr i => (s.wr (Reg.GAL_PROG_INFO p) i).progChecks t

/-- The whole program check (R76). -/
def State.checkPrograms (s : State) : State × Bool :=
  let s := (s.each (List.range 16) (fun p s => s.wr (Reg.GAL_PROG_INFO p) 0)).wr Reg.GAL_CHK_ERR 0
  s.progChecks (List.range 16)

/-! ## The lane plan -/

/-- Update points of group g in cycle c of the divider pattern, as cycle ticks (R128, R129). -/
def State.planUpdates (s : State) (g c : Nat) : List Nat :=
  ((List.range (s.pwmK g)).filter (fun i => (c * s.pwmK g + i) % s.pwmN g == 0)).map
    (fun i => s.fld (Reg.PWM_GRP_PHASE g) 16 0 + i * (2 * s.pwmPer g))

/-- Each way axis a's trigger can come in cycle c: earliest end, rounded down to its tick, and reference end (R20, R22, R23, R77). -/
def State.planTriggers (s : State) (a c : Nat) : List (Nat × Nat) :=
  let r := s.lawRoute a
  let n := wFld r 25 22
  if wBit r 26 then (s.planUpdates n c).map (fun t => (t, t))
  else
    let k := wFld r 21 17
    [(s.slotNom n k - s.segWin n + (24 + s.slotLen n k) * 16 / 5, s.refEnd n k)]

/-- Axis a is due in cycle c of the divider pattern (R18). -/
def State.planDue (s : State) (a c : Nat) : Bool := s.due a (word c)

/-- The jobs of the divider pattern: axis, first and last tick of its interval, from tick 0 of cycle 0 (R77). -/
def State.planJobs (s : State) (len : Nat) : List (Nat × Nat × Nat) :=
  (List.range 8).flatMap (fun c => (List.range 256).flatMap (fun a =>
    if s.planDue a c then (s.planTriggers a c).map (fun t => (a, c * len + t.1, c * len + t.2 + 80)) else []))

/-- How long before tick t a job's interval began, if it holds t; intervals wrap over the pattern of p ticks (R77). -/
def planHolds (p t : Nat) (j : Nat × Nat × Nat) : Option Nat :=
  let d := (t + p - j.2.1 % p) % p
  if d ≤ j.2.2 - j.2.1 then some d else none

/-- The peak of overlapping jobs and its first tick. -/
def planPeak (p : Nat) (js : List (Nat × Nat × Nat)) : Nat × Nat :=
  (0 :: js.map (fun j => j.2.1 % p)).foldl (fun b t =>
    let n := (js.filter (fun j => (planHolds p t j).isSome)).length
    if b.1 < n ∨ (n = b.1 ∧ t < b.2) then (n, t) else b) (0, 0)

/-- The first tick where more than 16 jobs overlap, and the axis of the job that made it so (R77 code 1). -/
def planOver (p : Nat) (js : List (Nat × Nat × Nat)) : Option Nat :=
  let ov := (0 :: js.map (fun j => j.2.1 % p)).filter (fun t => decide (16 < (js.filter (fun j => (planHolds p t j).isSome)).length))
  match ov with
  | [] => none
  | t :: ts =>
    let t := ts.foldl min t
    (js.foldl (fun (b : Option (Nat × Nat)) j => match planHolds p t j, b with
      | some d, none => some (d, j.1)
      | some d, some (e, x) => if d < e ∨ (d = e ∧ x < j.1) then some (d, j.1) else b
      | none, _ => b) none).map (fun x => x.2)

/-- The lowest axis due in the first cycle with more jobs than R19 allows (R77 code 2). -/
def State.planCount (s : State) : Option Nat :=
  let lim := if s.fld Reg.TB_CFG 2 0 = 0 then 128 else 256
  let jobs (c : Nat) : Nat := ((List.range 256).filter (fun a => s.planDue a c)).foldl (fun m a => m + (s.planTriggers a c).length) 0
  (lowest 8 (fun c => decide (lim < jobs c))).bind (fun c => lowest 256 (fun a => s.planDue a c))

/-- The release of axis a reaches its destination in time in cycle c (R20). -/
def State.planInTime (s : State) (len a c : Nat) : Bool :=
  let r := s.lawRoute a
  let n := wFld r 13 10
  (s.planTriggers a c).all (fun t =>
    if !wBit r 14 then decide (t.2 + 80 ≤ s.slotRel n (wFld r 9 5))
    else
      let upd := (List.range 25).flatMap (fun i => (s.planUpdates n (c + i)).map (fun u => i * len + u))
      match upd.filter (fun u => decide (t.2 < u)) with
      | [] => true
      | u :: us => decide (t.2 + 80 < us.foldl min u))

/-- The lane plan check (R77): GAL_PLAN and GAL_PLAN_ERR. -/
def State.checkPlan (s : State) : State × Bool :=
  let len := clenTicks (s.fld Reg.TB_CFG 2 0)
  let js := s.planJobs len
  let pk := planPeak (8 * len) js
  let err := match planOver (8 * len) js with
    | some a => some (1, a)
    | none => match s.planCount with
      | some a => some (2, a)
      | none => (lowest 256 (fun a => (List.range 8).any (fun c => s.planDue a c && !s.planInTime len a c))).map (fun a => (3, a))
  let s := s.wr Reg.GAL_PLAN (mkBit 31 err.isNone ||| bitW 30 ||| mkFld 28 26 (pk.2 / len) ||| mkFld 25 17 pk.1 ||| mkFld 16 0 (pk.2 % len))
  (s.wr Reg.GAL_PLAN_ERR (match err with | some (c, a) => mkFld 31 24 c ||| mkFld 7 0 a | none => 0), err.isNone)

/-- A write of GAL_CHK: START is acted on in MAINTENANCE (R76). -/
def State.galChkStart (s : State) (v : Word) : State :=
  if wBit v 31 && s.mode == mMAINTENANCE then s.setBit Reg.GAL_CHK 30 true else s

/-- The checks finish and report (R76, R77). -/
def galChkDone (s : State) : State :=
  if !s.bit Reg.GAL_CHK 30 then s
  else
    let r := s.checkPrograms
    let q := r.1.checkPlan
    q.1.wr Reg.GAL_CHK (bitW 29 ||| mkBit 28 (r.2 && q.2))

/-! ## Lane tests -/

/-- One lane's test job: whether its results were as expected, and its duration in 0.25 ns units; a lane that fails is failed (R84). -/
def State.laneTest (s : State) (n : Nat) (ok : Bool) (dur : Nat) : State :=
  if 3 ≤ (s.lane n).state then s
  else
    let s := s.wr (Reg.GAL_LTEST n) (mkBit 31 ok ||| mkFld 15 0 dur)
    if ok then s else ((s.galEvt 26).setLane n { s.lane n with markTrend := (s.lane n).trend }).laneState n 4 3

/-- A spare takes the place of a lane that failed its test, where one remains (R82, R84). -/
def State.laneTestSpare (s : State) (n : Nat) : State :=
  match s.spareLane with
  | some _ => s.laneSpareIn n
  | none => (s.galEvt 30).record ⟨1, 3, true, false, n, 0xFFFF, wrapN 16 (s.lane n).markTrend⟩

/-- A lane that was marked when power was lost is replaced though it passed its test, where a spare remains (R56). -/
def State.markedSpare (s : State) (n : Nat) : State :=
  if (s.lane n).state = 2 ∧ s.spareLane.isSome = true then s.laneSpareIn n else s

/-- The lane tests of flight 5 (R84), and the replacement of the lanes that fail or come marked (R56); tests: the outcome and duration of
each lane. The count is of the lanes that passed. -/
def State.laneTests (s : State) (tests : List (Bool × Nat)) : State × Nat :=
  let t (n : Nat) : Bool × Nat := (tests[n]?).getD (false, 0)
  let pass := countN 18 (fun n => decide ((s.lane n).state < 3) && (t n).1)
  let bad := (List.range 18).filter (fun n => ((s.lane n).state == 0 || (s.lane n).state == 2) && !(t n).1)
  let s := s.each (List.range 18) (fun n s => s.laneTest n (t n).1 (t n).2)
  ((s.each bad (fun n s => s.laneTestSpare n)).each (List.range 18) (fun n s => s.markedSpare n), pass)

def execGalChkDone (s : State) : Host.Outcome State Fault Refusal := .next (galChkDone s)

end Sys2Proof.Machine
end

