-- ==== Sys2Proof/Machine/Mbx.lean ====
section
/-! DEFINITION. The mailboxes (R314 to R319): bindings, doorbells, descriptors, reset bits, wake mode and the blocking wait. -/

namespace Sys2Proof.Machine

/-- Waiting cores return from MBX_WAIT or TSU_TAKE where something they wait for now holds (R267, R319). -/
def State.mbxSettle (s : State) : State :=
  s.each (List.range 10) (fun c s =>
    match (s.core c).wait with
    | .mbx =>
      let r := mkBit 29 (s.irqAt c) ||| s.mbxBits (coreMid c)
      if r ≠ 0 then s.endWait c r else s
    | _ => s.wakeCore c)

/-- A change of channel n's doorbells or masks: a PCI Express host gets its vector when the channel goes from no unmasked bit to at
least one, and waiting cores see it (R315, R319). -/
def State.chanChange (s : State) (n : Nat) (f : State → State) : State :=
  let t := f s
  let h := t.fld (Reg.MBX_CH_BIND n) 4 0 - 16
  let t := if !s.belled n && t.belled n && (List.range 4).any (fun h => t.receives n (16 + h)) &&
        (match t.landPort h with | some p => decide (p < 2) | none => false)
    then { t with hst := { t.hst with msi := Table.set (fun _ => none) t.hst.msi h (some n) } } else t
  t.mbxSettle

/-- Set bits in channel n's doorbell register. -/
def State.ring (s : State) (n : Nat) (bits : Word) : State :=
  if bits = 0 then s else s.chanChange n (fun s => s.orBits (Reg.MBX_CH_DB n) bits)

/-- Channel n is bound with m as sender. -/
def State.sends (s : State) (n m : Nat) : Bool := s.bit (Reg.MBX_CH_BIND n) 31 && s.fld (Reg.MBX_CH_BIND n) 20 16 == m

/-- A write allowed to the named side and to MID 0; any other is ignored and sets MIDREF (R315). -/
def State.bySide (s : State) (ok : Bool) (m : Nat) (f : State → State) : State :=
  if m = 0 ∨ ok then f s else s.orBits Reg.MBX_EVT (bitW 30)

/-- Wake mode: a doorbell to an application core also powers it (R318). -/
def State.wakeMode (s : State) (n : Nat) : State :=
  let b := s.rd (Reg.MBX_CH_BIND n)
  let r := wFld b 4 0
  let md := s.mode
  if wBit b 30 && decide (1 ≤ r ∧ r ≤ 9) && (md == mBOOT || md == mMINIMAL || md == mCONFIGURE || md == mMAINTENANCE)
      && ((s.core (r - 1)).state == 0 || (s.core (r - 1)).state == 2) then s.setBit Reg.TSU_PWR (r - 1) true else s

/-- A write of MBX_CHc_DBSET (R315, R318). -/
def State.dbSet (s : State) (m n : Nat) (v : Word) : State :=
  s.bySide (s.sends n m) m (fun s =>
    let bits := v &&& maskW 29 0
    if bits = 0 then s else (s.ring n bits).wakeMode n)

/-- A write of MBX_CHc_DB (R315). -/
def State.dbClear (s : State) (m n : Nat) (v : Word) : State :=
  s.bySide (s.receives n m) m (fun s => s.chanChange n (fun s => s.clrBits (Reg.MBX_CH_DB n) v))

/-- A write of MBX_CHc_MASK (R315). -/
def State.dbMask (s : State) (m n : Nat) (v : Word) : State :=
  s.bySide (s.receives n m) m (fun s => s.chanChange n (fun s => s.wr (Reg.MBX_CH_MASK n) v))

/-- A write of MBX_CHc_DESCLO stages the offset (R316). -/
def State.descStage (s : State) (m n : Nat) (v : Word) : State :=
  s.bySide (s.sends n m) m (fun s =>
    { s with hst := { s.hst with stg := Table.set (fun _ => 0) s.hst.stg n (v &&& maskW 22 0) } })

/-- Channel n's descriptor is no longer waiting to be read. -/
def State.unpost (s : State) (n : Nat) : State :=
  { s with hst := { s.hst with posted := s.hst.posted.filter (fun c => c != n) } }

/-- A write of MBX_CHc_DESCHI posts the descriptor, or is refused while FULL is set (R316). -/
def State.descPost (s : State) (m n : Nat) (v : Word) : State :=
  s.bySide (s.sends n m) m (fun s =>
    if s.bit (Reg.MBX_CH_STAT n) 31 then (s.setBit (Reg.MBX_CH_STAT n) 30 true).orBits Reg.MBX_EVT (bitW 29)
    else
      let s := (s.wr (Reg.MBX_CH_DESCLO n) (Table.get (fun _ => 0) s.hst.stg n)).wr (Reg.MBX_CH_DESCHI n) v
      let s := s.unpost n
      let s := { s with hst := { s.hst with posted := s.hst.posted ++ [n] } }
      ((s.setBit (Reg.MBX_CH_STAT n) 31 true).incFld (Reg.MBX_CH_STAT n) 15 0).mbxSettle)

/-- A write of MBX_CHc_ACK (R316). -/
def State.descAck (s : State) (m n : Nat) (v : Word) : State :=
  s.bySide (s.receives n m) m (fun s => if wBit v 0 then ((s.unpost n).setBit (Reg.MBX_CH_STAT n) 31 false).mbxSettle else s)

/-- Discard a channel's doorbells, descriptor and FULL (R314). -/
def State.chanEmpty (s : State) (n : Nat) : State :=
  let s := (s.wr (Reg.MBX_CH_DB n) 0).setBit (Reg.MBX_CH_STAT n) 31 false
  let s := (s.wr (Reg.MBX_CH_DESCLO n) 0).wr (Reg.MBX_CH_DESCHI n) 0
  let s := s.unpost n
  { s with hst := { s.hst with stg := Table.erase s.hst.stg n } }

/-- Sender and receiver that a binding may name (R314). -/
def bindOk (snd rcv : Nat) : Bool :=
  decide ((snd ≤ 9 ∨ snd = 13 ∨ (16 ≤ snd ∧ snd ≤ 19)) ∧ (rcv ≤ 9 ∨ (16 ≤ rcv ∧ rcv ≤ 19)) ∧ snd ≠ rcv)

/-- A write of MBX_CHc_BIND by MID 0 (R314). -/
def State.bind (s : State) (n : Nat) (v : Word) : State :=
  if !bindOk (wFld v 20 16) (wFld v 4 0) then s.orBits Reg.MBX_EVT (bitW 31)
  else
    let old := s.rd (Reg.MBX_CH_BIND n)
    let s := if old ≠ 0 ∧ (wFld old 20 16 ≠ wFld v 20 16 ∨ wFld old 4 0 ≠ wFld v 4 0) then (s.chanEmpty n).orBits Reg.MBX_EVT (bitW 28)
      else s
    s.chanChange n (fun s => s.wr (Reg.MBX_CH_BIND n) (v &&& 0xC01F001F))

/-- Doorbell reset bits: 31 in the channels that name m as sender, 30 in those that name it as receiver (R317). -/
def State.masterReset (s : State) (m : Nat) : State :=
  s.each (List.range 64) (fun n s => s.ring n (mkBit 31 (s.sends n m) ||| mkBit 30 (s.receives n m)))

end Sys2Proof.Machine
end

