-- ==== Sys2Proof/Machine/Land.lean ====
section
/-! DEFINITION. Landings (R302 to R312): cycle images and their buffers, the latch, staged set-points and commits, and the reset of a
landing's host (R290). -/

namespace Sys2Proof.Machine

/-- The landing is enabled; its visible axes in ascending order; NVIS; the size of an image buffer (R302, R303). -/
def State.landEn (s : State) (h : Nat) : Bool := s.bit (Reg.HST_LAND_CFG h) 31
def State.visible (s : State) (h a : Nat) : Bool := s.bit (Reg.HST_LAND_AX h (a / 32)) (a % 32)
def State.landAxes (s : State) (h : Nat) : List Nat := (List.range 256).filter (s.visible h)
def State.nvis (s : State) (h : Nat) : Nat := s.fld (Reg.HST_LAND_CFG h) 24 16
def State.imgSize (s : State) (h : Nat) : Nat := 64 * (1 + s.nvis h)

/-! ## Cycle images -/

/-- The header of the image of cycle n (R304), composed at tick 0 of cycle n + 1. -/
def State.imgHeader (s : State) (h : Nat) (n : Word) : List Byte :=
  let l := s.land h
  let fl := mkBit 0 l.failover ||| mkBit 1 (s.mode == mDEGRADED) ||| mkBit 2 s.hst.spareIn ||| mkBit 3 s.tb.t0Valid ||| mkBit 4 l.applied
    ||| (s.resv 512 &&& maskW 15 5)
  bytesOf [n, word s.tb.t0Sec, word s.tb.t0Ns] ++ leBytes 2 s.tb.t0Frac ++ leBytes 2 (s.resv 513).toNat ++ leBytes 2 (s.nvis h)
    ++ leBytes 2 fl.toNat ++ [byte s.mode] ++ leBytes 3 (s.resv 514).toNat
    ++ leBytes 2 (s.rd Reg.PAIR_FOCNT).toNat ++ leBytes 2 (wFld (s.preg 64) 31 16) ++ leBytes 4 l.cmtCyc.toNat
    ++ bytesOf ((List.range 8).map (fun i => s.resv (515 + i)))

/-- The lowest-numbered buffer that is neither newest nor pinned (R306). -/
def nextBuf (newest : Nat) (pinned : Option Nat) : Nat := (lowest 3 (fun b => b != newest && pinned != some b)).getD 0

/-- A write of the host block into the Hall: not checked by the windows, in whole 64-bit units (R286, R303, R430). -/
def State.hallBlock (s : State) (o : Nat) (bs : List Byte) : State :=
  if 0x800000 < o + bs.length then s
  else
    let s := s.hallWrite o bs
    { s with hall := { s.hall with bad := s.hall.bad.filter (fun u => !(decide (o / 8 ≤ u ∧ 8 * u < o + bs.length))) } }

/-- At tick 0 of cycle n + 1 the image of cycle n is completed in landing h's buffer (R303 to R306). -/
def State.imgComplete (s : State) (n : Word) (h : Nat) : State :=
  if !s.landEn h then s
  else
    let l := s.land h
    let bytes := s.imgHeader h n ++ ((s.landAxes h).take (s.nvis h)).flatMap (fun a => s.axisRecord a n)
    let s := (s.hallBlock (s.fld (Reg.HST_LAND_IMG h) 22 0 + l.wbuf * s.imgSize h) bytes).takeFree
    s.setLand h { l with newest := some (l.wbuf, n), wbuf := nextBuf l.wbuf l.pinned, applied := false }

/-- Every landing's image, from the first tick 0 after CONFIGURE on (R306). -/
def State.imgTick0 (s : State) (n : Word) : State :=
  if s.fld Reg.SYS_BOOT 31 28 = 15 then s.each (List.range 4) (fun h s => s.imgComplete n h) else s

/-- A read of HST_IMG_LATCH by MID m (R307). -/
def State.imgLatch (s : State) (m : Nat) : State × Word :=
  match hostOf m with
  | none => (s, 0)
  | some h => match (s.land h).newest with
    | none => (s, 0)
    | some (b, n) => (s.setLand h { s.land h with pinned := some b }, bitW 31 ||| mkFld 25 24 b ||| mkFld 15 0 n.toNat)

/-- A write of HST_IMG_RELEASE by MID m (R307, R308). -/
def State.imgRelease (s : State) (m : Nat) (v : Word) : State :=
  match hostOf m with
  | none => s
  | some h =>
    let l := s.land h
    s.setLand h { l with pinned := if wBit v 0 then none else l.pinned, failover := l.failover && !wBit v 1 }

/-- HST_IMG_STAT as MID m sees it (R320). -/
def State.imgStat (s : State) (m : Nat) : Word :=
  match hostOf m with
  | none => 0
  | some h =>
    let l := s.land h
    mkBit 31 l.pinned.isSome ||| mkFld 29 28 (l.pinned.getD 0) ||| mkFld 27 26 (match l.newest with | some x => x.1 | none => 0)
      ||| mkFld 25 24 l.wbuf ||| mkFld 15 0 (match l.newest with | some x => x.2.toNat | none => 0)

/-! ## Staged set-points and commits -/

/-- A commit of MID m is pending (R311). -/
def State.cmtPending (s : State) (h : Nat) : Bool := (s.land h).commit.isSome

/-- A write of HST_STG_a or a mark by MID m (R309, R311). -/
def State.stgWrite (s : State) (m a : Nat) (v : Word) : State :=
  match hostOf m with
  | none => s
  | some h => if s.cmtPending h then s.setBit (midKey m Reg.HST_COMMIT_STAT) 27 true else s.wr (midKey m a) v

/-- A write of HST_COMMIT by MID m: CANCEL wins over ARM (R310, R311). -/
def State.commitWrite (s : State) (m : Nat) (v : Word) : State :=
  match hostOf m with
  | none => s
  | some h =>
    if wBit v 30 then (s.setLand h { s.land h with commit := none }).setBit (midKey m Reg.HST_COMMIT_STAT) 31 false
    else if wBit v 31 then
      let t := s.rd (midKey m Reg.HST_COMMIT_CYC)
      (s.setLand h { s.land h with commit := some (t, decide (sdiff t s.tb.cyc ≤ 0)) }).setBit (midKey m Reg.HST_COMMIT_STAT) 31 true
    else s

/-- The axes a landing has marked. -/
def State.marked (s : State) (h : Nat) : List Nat :=
  (List.range 256).filter (fun a => s.bit (midKey (16 + h) (Reg.HST_STG_MARK (a / 32))) (a % 32))

/-- The marked axes that the landing sees; the other marks are dropped (R312). -/
def State.commitAxes (s : State) (h : Nat) : List Nat := (s.marked h).filter (s.visible h)

/-- A landing's commit is applied at this tick 0: marked visible axes take their staged words (R310, R312); both: the axes that another
landing's commit of this tick 0 marks as well. -/
def State.commitApply (s : State) (h : Nat) (t : Word) (late : Bool) (both : List Nat) : State :=
  let m := 16 + h
  let marks := s.marked h
  let vis := s.commitAxes h
  let s := s.each vis (fun a s =>
    let w (j : Nat) : Word := s.rd (midKey m (Reg.HST_STG_a a j))
    (((s.wr (Reg.LAW_POS_REF a) (w 0)).wr (Reg.LAW_VEL_REF a) (w 1)).wr (Reg.LAW_CUR_REF a) (w 2)).wr (Reg.LAW_FF a) (w 3))
  let s := s.each (List.range 8) (fun i s => s.wr (midKey m (Reg.HST_STG_MARK i)) 0)
  let st := s.rd (midKey m Reg.HST_COMMIT_STAT)
  let st := wSetFld (wSetBit (wSetBit st 31 false) 26 true) 15 0 s.cycLo
  let st := st ||| mkBit 29 (late || decide (0 < sdiff s.tb.cyc t)) ||| mkBit 25 (vis.any both.contains) ||| mkBit 24 (vis.length != marks.length)
  (s.wr (midKey m Reg.HST_COMMIT_STAT) st).setLand h { s.land h with commit := none, applied := true, cmtCyc := t }

/-- The commits due at tick 0, in ascending landing order (R310, R312). -/
def State.commitTick0 (s : State) : State :=
  let due := (List.range 4).filterMap (fun h => match (s.land h).commit with
    | some (t, late) => if late || decide (0 ≤ sdiff s.tb.cyc t) then some (h, t, late) else none
    | none => none)
  let marks := due.map (fun d => (d.1, s.commitAxes d.1))
  s.each due (fun d s =>
    s.commitApply d.1 d.2.1 d.2.2 ((marks.filter (fun x => x.1 != d.1)).flatMap (fun x => x.2)))

/-! ## Reset of a host (R290, R317) -/

/-- Reset of landing h's host: its pin is released, its commit cancelled, the reset bits set. -/
def State.resetHost (s : State) (h : Nat) : State :=
  let s := s.setLand h { s.land h with pinned := none, commit := none }
  let s := (s.setBit (midKey (16 + h) Reg.HST_COMMIT_STAT) 31 false).orBits Reg.HST_EVT (bitW 27)
  s.masterReset (16 + h)

/-- The hosts of every landing of endpoint p are reset (R290). -/
def State.resetHosts (s : State) (p : Nat) : State :=
  s.each ((List.range 4).filter (fun k => s.landPort k == some p)) (fun k s => s.resetHost k)

/-- A function level reset, a hot reset, or the loss of a link that was up, at endpoint p, whether the endpoint presents functions or not (R290, R320). -/
def hostReset (p : Nat) (r : HostReset) (s : State) : State :=
  match r with
  | .function h => if s.landPort h == some p then s.resetHost h else s
  | .hot => s.resetHosts p
  | .linkDown =>
    if s.bit (Reg.HST_PCIE_STAT p) 31 then
      (((s.setBit (Reg.HST_PCIE_STAT p) 31 false).clrBits (Reg.HST_PCIE_STAT p) (maskW 29 28 ||| maskW 25 24)).orBits Reg.HST_EVT
        (bitW 26)).resetHosts p
    else s

/-- A PCI Express endpoint trains its link (R289). -/
def pcieLinkUp (p speed width : Nat) (s : State) : State :=
  if s.mode = mOFF ∨ s.mode = mRESET ∨ speed = 0 ∨ !(width == 1 || width == 2) then s
  else
    let n := countN 4 (fun h => s.landPort h == some p)
    s.wr (Reg.HST_PCIE_STAT p) (bitW 31 ||| mkFld 29 28 speed ||| mkFld 25 24 width ||| mkFld 18 16 n)

/-- An Ethernet port's link comes up or goes down (R291, R320). -/
def ethernetLinkUp (e : Nat) (s : State) : State := if s.bit (Reg.HST_ETH_CFG e) 31 then s.setBit (Reg.HST_ETH_CFG e) 28 true else s
def ethernetLinkDown (e : Nat) (s : State) : State :=
  if s.bit (Reg.HST_ETH_CFG e) 28 then (s.setBit (Reg.HST_ETH_CFG e) 28 false).orBits Reg.HST_EVT (bitW 26) else s

def execHostReset (p : Fin 2) (r : HostReset) (s : State) : Host.Outcome State Fault Refusal := .next (hostReset p r s)
def execPcieLinkUp (p : Fin 2) (speed width : Fin 4) (s : State) : Host.Outcome State Fault Refusal := .next (pcieLinkUp p speed width s)
def execEthernetLinkUp (e : Fin 2) (s : State) : Host.Outcome State Fault Refusal := .next (ethernetLinkUp e s)
def execEthernetLinkDown (e : Fin 2) (s : State) : Host.Outcome State Fault Refusal := .next (ethernetLinkDown e s)

end Sys2Proof.Machine
end

