-- ==== Sys2Proof/Machine/TimeBase.lean ====
section
/-! DEFINITION. The time base and network time: lock and loss of the reference (R193 to R195), the increment (R196 to R198), setting and
stepping (R201, R202), the servo (R203 to R205), PPS_IN (R206) and the Ethernet timestamps (R208 to R210). -/

namespace Sys2Proof.Machine

/-- k ticks pass: the tick counter and network time advance (R193, R196). -/
def State.ticks (s : State) (k : Nat) : State :=
  { s with tb := { s.tb.setNet (s.tb.net + k * s.inc32) with tick := s.tb.tick + k } }

/-- SLOCK clears (R195, R203 to R205). -/
def State.unlockServo (s : State) : State :=
  if s.bit Reg.TB_STAT 28 then (s.setBit Reg.TB_STAT 28 false).tbEvt 27 else s

/-- The time base stops: TVALID and SLOCK clear (R195). -/
def State.tbStop (s : State) : State := (s.setBit Reg.TB_STAT 29 false).unlockServo

/-- The PLL locks for the first time since RESET; ticks count from 0 (R193). -/
def pllLock (s : State) : State :=
  if s.tb.locked || s.mode == mOFF then s
  else { s.orBits Reg.TB_STAT (bitW 31 ||| bitW 30) with tb := { s.tb with locked := true, tick := 0 } }

/-- The reference is lost (R194). -/
def referenceLost (s : State) : State :=
  if s.tb.lost || s.mode == mOFF then s
  else
    let s := { s.clrBits Reg.TB_STAT (bitW 31 ||| bitW 30) with tb := { s.tb with lost := true } }
    s.tbStop.tbEvt 31

/-- The reference returns and the PLL locks again (R194). -/
def referenceReturn (s : State) : State :=
  if !s.tb.lost then s
  else { s.orBits Reg.TB_STAT ((if s.tb.locked then bitW 31 else 0) ||| bitW 30) with tb := { s.tb with lost := false } }

/-- A debug halt stops the time base and freezes the carriers (R141, R195). -/
def debugHalt (s : State) : State :=
  if s.tb.halted then s else { s.tbStop with tb := { s.tb with halted := true } }

/-- The halt ends (R141). -/
def freezeEnd (s : State) : State := { s with tb := { s.tb with halted := false } }

/-- TB_SNAP.GO (R200). -/
def State.snapGo (s : State) (v : Word) : State :=
  if !wBit v 31 then s
  else
    let t := s.tb
    let s := (((s.wr Reg.TB_SNAP_TLO (word t.tick)).wr Reg.TB_SNAP_THI (word (t.tick / 2 ^ 32))).wr Reg.TB_SNAP_CYC t.cyc).wr
      Reg.TB_SNAP_CTICK (word t.ctick)
    (((s.wr Reg.TB_SNAP_SLO (word t.sec)).wr Reg.TB_SNAP_SHI (word (t.sec / 2 ^ 32))).wr Reg.TB_SNAP_NS (word t.ns)).wr
      Reg.TB_SNAP_FRAC (word (t.frac / 65536))

/-- An absolute STEP is captured; it discards the offset steps pending before it (R201). -/
def State.stepCapture (s : State) : State :=
  let ns := (s.rd Reg.TB_SET_NS).toNat
  if 1000000000 ≤ ns then s.tbEvt 29
  else
    let sec := (s.rd Reg.TB_SET_SHI).toNat * 2 ^ 32 + (s.rd Reg.TB_SET_SLO).toNat
    ({ s with tb := { s.tb with stepAbs := some (sec, ns, s.fld Reg.TB_SET_FRAC 15 0), ofs := 0, ofsPend := false } }).setBit Reg.TB_STAT 26 true

/-- An offset step in units of 2^-16 ns is added to those pending (R201, R204). -/
def State.addOffset (s : State) (o : Int) : State :=
  ({ s with tb := { s.tb with ofs := s.tb.ofs + o, ofsPend := true } }).setBit Reg.TB_STAT 26 true

/-- A write of TB_CTRL: STEP, then ADJ; TVCLR (R200, R201). -/
def State.tbCtrl (s : State) (v : Word) : State :=
  let s := s.when (wBit v 31) State.stepCapture
  let s := s.when (wBit v 30) (fun s => s.addOffset (s32 (s.rd Reg.TB_ADJ_NS) * 65536))
  s.when (wBit v 29) (fun s => s.setBit Reg.TB_STAT 29 false)

/-- A measurement arrives for the servo (R203). -/
def State.measured (s : State) (o : Int) : State :=
  if s.mode = mMINIMAL then s else { s with tb := { s.tb with meas := s.tb.meas ++ [o], measAt := s.tb.tick } }

/-- A write of TB_OFS_FRAC (R203). -/
def State.ofsFrac (s : State) (v : Word) : State :=
  if s.fld Reg.TB_SRV_CFG 31 30 ≠ 1 then s.tbEvt 28
  else
    let s := s.setFld Reg.TB_OFS_FRAC 15 0 (wFld v 15 0)
    s.measured (s32 (s.rd Reg.TB_OFS_NS) * 65536 + wFld v 15 0)

/-- A write of TB_SRV_CFG: a change of SRC discards waiting measurements and clears SLOCK (R203). -/
def State.srvCfg (s : State) (v : Word) : State :=
  let old := s.fld Reg.TB_SRV_CFG 31 30
  let s := s.wr Reg.TB_SRV_CFG (v &&& (maskW 31 30 ||| maskW 25 0))
  if old = wFld v 31 30 then s else ({ s with tb := { s.tb with meas := [], measAt := s.tb.tick } }).unlockServo

/-- The limit of RATE and of the integrator (R196, R204). -/
def rateLim (i : Int) : Int := clampI (-2147483) 2147483 i

/-- The servo processes one measurement (R204). -/
def servoMeasurement (s : State) : State :=
  if s.mode = mMINIMAL then s
  else match s.tb.meas with
  | [] => s
  | o :: rest =>
    let s := { s with tb := { s.tb with meas := rest } }
    let s := (((s.wr Reg.TB_LAST_NS (wordI (o / 65536))).wr Reg.TB_LAST_FRAC (word (o % 65536).toNat)).inc Reg.TB_MEAS_CNT).setBit
      Reg.TB_STAT 27 false
    let stepth : Int := s.fld Reg.TB_SRV_LIM 31 16 * 65536
    let lockth : Int := s.fld Reg.TB_SRV_LIM 15 0 * 65536
    let s := if stepth ≠ 0 ∧ stepth ≤ o.natAbs then s.addOffset o
      else
        let i := rateLim (s32 (s.rd Reg.TB_RATE_I) + rneDiv (s.fld Reg.TB_SRV_GAIN 15 0 * o) (2 ^ s.fld Reg.TB_SRV_CFG 20 16))
        let p := rneDiv (s.fld Reg.TB_SRV_GAIN 31 16 * o) (2 ^ s.fld Reg.TB_SRV_CFG 25 21)
        { s.wr Reg.TB_RATE_I (wordI i) with tb := { s.tb with ratePend := some (rateLim (i + p)) } }
    let s : State := if (o.natAbs : Int) < lockth then { s with tb := { s.tb with good := s.tb.good + 1 } }
      else ({ s with tb := { s.tb with good := 0 } }).unlockServo
    if 4 ≤ s.tb.good then s.orBits Reg.TB_STAT (bitW 28 ||| bitW 29) else s

/-- No measurement has arrived for HOLDT × 1,048,576 ticks (R205). -/
def holdover (s : State) : State :=
  if s.mode = mMINIMAL ∨ s.fld Reg.TB_SRV_CFG 31 30 = 0 ∨ s.fld Reg.TB_SRV_CFG 15 0 = 0 ∨ s.bit Reg.TB_STAT 27
      ∨ s.tb.tick < s.tb.measAt + s.fld Reg.TB_SRV_CFG 15 0 * 1048576 then s
  else
    let s := ((s.setBit Reg.TB_STAT 27 true).tbEvt 26).unlockServo
    { s with tb := { s.tb with ratePend := some (s32 (s.rd Reg.TB_RATE_I)) } }

/-- A write of TB_PPS_CFG; the first edge after EN is set is always accepted (R206). -/
def State.ppsCfg (s : State) (v : Word) : State :=
  let s := s.wr Reg.TB_PPS_CFG (v &&& maskW 31 30)
  if wBit v 31 then s else { s with tb := { s.tb with lastPps := none } }

/-- An edge of PPS_IN (R206). -/
def ppsEdge (rising : Bool) (fine : Nat) (stable : Bool) (s : State) : State :=
  if !s.bit Reg.TB_PPS_CFG 31 || rising == s.bit Reg.TB_PPS_CFG 30 || !stable then s
  else if (match s.tb.lastPps with
      | some t => decide (s.tb.tick < t + 360000000)
      | none => false) then s.tbEvt 25
  else
    let n := s.netAt fine - s.fld Reg.TB_PPS_CMP 15 0 * 2 ^ 32
    let st := stampOf n
    let s := { s with tb := { s.tb with lastPps := some s.tb.tick } }
    let s := (((s.wr Reg.TB_PPS_SLO (word st.1)).wr Reg.TB_PPS_NS (word st.2.1)).wr Reg.TB_PPS_FRAC (word st.2.2)).inc Reg.TB_PPS_CNT
    let s := s.capEventAt 4 0 0 s.tb.cyc (s.tb.ctick * 32 + fine)
    if s.fld Reg.TB_SRV_CFG 31 30 = 2 then
      let f : Int := st.2.1 * 65536 + st.2.2
      let o := if f < 500000000 * 65536 then -f else 1000000000 * 65536 - f
      s.measured o
    else s

/-- Tick 0 of a new cycle: RATE changes and network time is stepped, T0 is taken, and a newly loaded cycle length begins (R198, R201,
R202, R207, R434). -/
def State.tbTick0 (s : State) : State :=
  let s := match s.tb.ratePend with
    | some r => { s.wr Reg.TB_RATE (wordI r) with tb := { s.tb with ratePend := none } }
    | none => s
  let stepped := s.tb.stepAbs.isSome || s.tb.ofsPend
  let s := match s.tb.stepAbs with
    | some (sec, ns, fr) => { s.setBit Reg.TB_STAT 29 true with tb := { s.tb with sec := sec % 2 ^ 64, ns := ns, frac := fr * 65536 } }
    | none => s
  let t := if s.tb.ofsPend then s.tb.setNet (s.tb.net + s.tb.ofs * 65536) else s.tb
  let s := { s with tb := { t with stepAbs := none, ofs := 0, ofsPend := false, stepped := stepped, t0Sec := t.sec, t0Ns := t.ns,
                                   t0Frac := t.frac / 65536, t0Valid := s.bit Reg.TB_STAT 29, len := clenTicks (s.fld Reg.TB_CFG 2 0) } }
  if stepped then (s.setBit Reg.TB_STAT 26 false).tbEvt 30 else s

/-! ## Ethernet timestamps (R208 to R210) -/

/-- The transmit queue of port e. -/
def State.txq (s : State) (e : Nat) : List TxStamp := if e = 0 then s.tb.txq0 else s.tb.txq1
def State.setTxq (s : State) (e : Nat) (q : List TxStamp) : State :=
  if e = 0 then { s with tb := { s.tb with txq0 := q } } else { s with tb := { s.tb with txq1 := q } }

/-- A transmitted event message enters its port's queue (R209). -/
def State.txStamp (s : State) (e id fine : Nat) : State :=
  if !s.bit (Reg.TB_ETH_CFG e) 31 then s
  else if 8 ≤ (s.txq e).length then ((s.setBit (Reg.TB_ETH_TXQSTAT e) 31 true).inc (Reg.TB_ETH_TXOVF e)).tbEvt 24
  else
    let st := stampOf (s.netAt (fine + sgn 12 (s.fld (Reg.TB_ETH_CFG e) 23 12)))
    s.setTxq e (s.txq e ++ [⟨id, st.1, st.2.1, st.2.2⟩])

/-- The stamp record of a received event message (R210). -/
def State.rxStamp (s : State) (e id fine : Nat) : List Byte :=
  let st := stampOf (s.netAt (fine + sgn 12 (s.fld (Reg.TB_ETH_CFG e) 11 0)))
  leBytes 4 st.1 ++ leBytes 4 st.2.1 ++ leBytes 2 st.2.2 ++ leBytes 2 id

/-- TXQPOP.POP (R209). -/
def State.txqPop (s : State) (e : Nat) (v : Word) : State := if wBit v 0 then s.setTxq e ((s.txq e).drop 1) else s

/-- TB_ETHe_TXQ0 to TXQ2 and the count (R209). -/
def State.txqView (s : State) (e k : Nat) : Word :=
  match s.txq e with
  | [] => 0
  | t :: _ => if k = 0 then mkFld 31 16 t.id ||| mkFld 15 0 t.frac else if k = 1 then bitW 31 ||| mkFld 29 0 t.ns else word t.sec

/-- One tick passes while no command waits, if the time base runs and tick 0 of the next cycle is not reached by it. -/
def State.idleTick (s : State) : State :=
  if s.tb.running && decide (s.tb.ctick + 1 < s.tb.len) then
    let s := s.ticks 1
    { s with tb := { s.tb with ctick := s.tb.ctick + 1 } }
  else s

/-! ## The commands without register writes -/

def execPllLock (s : State) : Host.Outcome State Fault Refusal := .next (pllLock s)
def execReferenceLost (s : State) : Host.Outcome State Fault Refusal := .next (referenceLost s)
def execReferenceReturn (s : State) : Host.Outcome State Fault Refusal := .next (referenceReturn s)
def execDebugHalt (s : State) : Host.Outcome State Fault Refusal := .next (debugHalt s)
def execFreezeEnd (s : State) : Host.Outcome State Fault Refusal := .next (freezeEnd s)
def execServoMeasurement (s : State) : Host.Outcome State Fault Refusal := .next (servoMeasurement s)
def execHoldover (s : State) : Host.Outcome State Fault Refusal := .next (holdover s)
def execPpsEdge (rising : Bool) (fine : Fin 32) (stable : Bool) (s : State) : Host.Outcome State Fault Refusal :=
  .next (ppsEdge rising fine stable s)

end Sys2Proof.Machine
end

