-- ==== Sys2Proof/Machine/Pair.lean ====
section
/-! DEFINITION. Active and standby pairs (R381 to R399): partner frames and beacons, lease, time steering, what the standby receives, checkpoints
and the refresh stream, takeover. -/

namespace Sys2Proof.Machine

def State.pairEn (s : State) : Bool := s.bit Reg.PAIR_CFG 31
def State.pairRole (s : State) : Nat := s.fld Reg.PAIR_STAT 31 29
def State.pairEvt (s : State) (i : Nat) : State := s.orBits Reg.PAIR_EVT (bitW i)
def State.lease (s : State) : Nat := s.fld Reg.PAIR_LEASE 22 0

/-! ## Partner frames (R382) -/

/-- Header, payload and CRC of a partner frame. -/
def pairFrame (type seq : Nat) (p : List Byte) : List Byte :=
  let b := [byte type, 1] ++ leBytes 2 p.length ++ leBytes 4 seq ++ p
  b ++ leBytes 4 (crc32 b)

/-- A frame leaves on the partner link under its type's next sequence number. -/
def State.pairSend (s : State) (type : Nat) (p : List Byte) : State :=
  let q := Table.get (fun _ => 0) s.pair.seqs type
  { s with pair := { s.pair with tx := pairFrame type q p, seqs := Table.set (fun _ => 0) s.pair.seqs type ((q + 1) % 2 ^ 32) } }

/-- A stamp of eight bytes (R383), of network time in 2^-32 ns; and its value in 2^-16 ns, modulo 2^16 s. -/
def stampBytes (n : Int) : List Byte :=
  let t := stampOf n
  leBytes 4 t.2.1 ++ leBytes 2 t.2.2 ++ leBytes 2 t.1
def stampSpan : Nat := 65536 * 1000000000 * 65536
def stampVal (b : List Byte) : Int := (leAt b 6 2 * 1000000000 + leAt b 0 4 % 2 ^ 30) * 65536 + leAt b 4 2

/-- A difference of stamps, the shorter way round. -/
def stampDiff (a b : Int) : Int :=
  let d := (a - b) % stampSpan
  if 2 * d < stampSpan then d else d - stampSpan

/-! ## Health, beacons and the lease (R383, R386, R387) -/

/-- Lane-late events of every lane so far. -/
def State.laneLates (s : State) : Nat := (List.range 18).foldl (fun m n => m + (s.rd (Reg.GAL_LLATE n)).toNat) 0

/-- The health inputs: ROOT, GARNET, LANES, MODE in bits 0 to 3 (R387). -/
def State.health (s : State) : Nat :=
  let k := s.fld Reg.PAIR_CFG 23 16
  let md := s.mode
  let lost := s.saf.g.lost || s.saf.b.lost || s.saf.rootLost
  let ok := (md == mINTEGRATE || md == mRUN || md == mDEGRADED || md == mSAFESTOP) && !(md == mSAFESTOP && lost) && !s.pair.yield
  (mkBit 0 (!s.sys.wdog) ||| mkBit 1 (!s.saf.g.lost) ||| mkBit 2 (k == 0 || decide (s.pair.lateRun < k)) ||| mkBit 3 ok).toNat

/-- A beacon is due: the first at a tick 0, the others BPER ticks apart (R383). -/
def State.beaconDue (s : State) : Bool :=
  match s.pair.sentAt with
  | none => s.tb.ctick == 0
  | some t => decide (t < s.tb.tick) && (s.tb.tick - t) % s.fld Reg.PAIR_BPER 16 0 == 0

/-- A beacon is sent; with ROLE 1 and every health bit set it renews the lease (R383, R386). -/
def beaconSend (fine : Nat) (s : State) : State :=
  if !s.pairEn || !s.beaconDue then s
  else
    let h := s.health
    let role := s.pairRole
    let q := Table.get (fun _ => 0) s.pair.seqs 1
    let n := s.netAt fine
    let (rx, rs) := match s.pair.rxStamp with
      | some (q, t) => (stampBytes (t * 65536), q)
      | none => (List.replicate 8 (0xFF : Byte), 0xFFFFFFFF)
    let p := [byte role, byte h] ++ leBytes 2 (s.resv 520).toNat ++ leBytes 4 s.tb.cyc.toNat ++ leBytes 4 s.tb.ctick ++ stampBytes n ++ rx
      ++ leBytes 4 rs
    let s := (s.takeFree.pairSend 1 p).setFld Reg.PAIR_STAT 23 20 h
    let s := { s with pair := { s.pair with sent := (q, stampVal (stampBytes n)) :: s.pair.sent, sentAt := some s.tb.tick } }
    if role = 1 ∧ h = 15 then { s with pair := { s.pair with leaseEnd := some (s.tb.tick + s.lease) } } else s

/-- MID 0 yields: MODE clears at the next beacon (R398). -/
def State.pairCtrl (s : State) (v : Word) : State :=
  if wBit v 31 && s.pairRole == 1 then { s with pair := { s.pair with yield := true } } else s

/-- The lease of an active has ended, seen at a tick 0 (R388). -/
def leaseLapse (s : State) : State :=
  match s.pair.leaseEnd with
  | some t =>
    if s.pairRole ≠ 1 ∨ s.tb.ctick ≠ 0 ∨ s.tb.tick < t then s
    else
      let s := s.each ((List.range 12).filter s.segEn) (fun n s =>
        (s.setFld (Reg.TRN_SSTAT n) 31 29 4).setSeg n { s.seg n with req := none, second := [] })
      let s := (s.pwmStopAll.each (List.range 8) (fun g s => s.stopCause g 2)).stoEvery 2
      let s := { s with trn := { s.trn with silence := 0, cold := none }, saf := { s.saf with xdem := 255 },
                        pair := { s.pair with leaseEnd := none } }
      (s.setFld Reg.PAIR_STAT 31 29 3).pairEvt 30
  | none => s

/-! ## Time steering (R389) -/

/-- The link delay in fine ticks (a fine tick is 5,120 units of 2^-16 ns) and the offset in 2^-16 ns, from the stamps of a pair of
beacons: t1 and t2 sent and received, t3 and t4 of this unit's own beacon. -/
def linkDelay (t1 t2 t3 t4 : Int) : Int := rneDiv (stampDiff t2 t1 + stampDiff t4 t3) 10240
def linkOffset (t1 t2 t3 t4 : Int) : Int := rneDiv (stampDiff t1 t2 + stampDiff t4 t3) 2

/-- A difference of places in a cycle of l fine ticks, the shorter way round. -/
def phaseDiff (l e : Int) : Int := if 2 * (e % l) < l then e % l else e % l - l

/-- A beacon says where the active stands: the counter is taken, and the place kept for the comparisons at tick 0 (R389). -/
def State.steer (s : State) (cyc : Word) (ctick fine : Nat) : State :=
  let l : Int := 32 * s.tb.len
  let a : Int := 32 * ctick + (s.rd Reg.PAIR_DLY).toNat
  let own : Int := 32 * s.tb.ctick + fine
  { s with tb := { s.tb with cyc := cyc + wordI ((a + phaseDiff l (own - a) - own) / l) },
           pair := { s.pair with ref := some ⟨32 * ctick, 32 * s.tb.tick + fine⟩ } }

/-- At a tick 0: this unit's place in its cycle, 0, against the active's CTICK plus the link delay as time has run on since (R389). -/
def State.phaseNow (s : State) : Option Int :=
  s.pair.ref.map (fun r =>
    phaseDiff (32 * s.tb.len) (-((r.pos + (s.rd Reg.PAIR_DLY).toNat + 32 * s.tb.tick : Nat) - r.at' : Int)))

/-- A beacon arrives (R383, R384, R387, R389). -/
def State.beaconReceive (s : State) (seq fine : Nat) (p : List Byte) : State :=
  let n := s.netAt fine
  let t2 := stampVal (stampBytes n)
  let h := byteAt p 1 % 16
  let s := (s.setFld Reg.PAIR_STAT 19 16 h).when (decide (h ≠ 15)) (fun s => s.pairEvt 25)
  let s := { s with pair := { s.pair with beaconAt := some s.tb.tick, heard := some (byteAt p 0), rxStamp := some (seq, n / 65536) } }
  if s.mode ≠ mSTANDBY then s
  else
    let rxt := (p.drop 20).take 8
    let own := s.pair.sent.find? (fun x => x.1 == leAt p 28 4)
    let s := match own with
      | some (q, t3) =>
        if rxt = List.replicate 8 (0xFF : Byte) then s
        else
          let t1 := stampVal ((p.drop 12).take 8)
          let t4 := stampVal rxt
          let s := s.wr Reg.PAIR_DLY (wordI (linkDelay t1 t2 t3 t4))
          let s := { s with pair := { s.pair with sent := s.pair.sent.filter (fun x => decide (q ≤ x.1)) } }
          if s.fld Reg.TB_SRV_CFG 31 30 = 3 then
            s.measured (linkOffset t1 t2 t3 t4)
          else s
      | none => s
    s.steer (word (leAt p 4 4)) (leAt p 8 4) fine

/-! ## Checkpoints and the refresh stream (R391, R392) -/

/-- Read words of the Hall with MID 13; none where any is refused or fails (R293). -/
def State.dmaRead (s : State) (o : Nat) : Nat → Option (List Byte) × State
  | 0 => (some [], s)
  | k + 1 =>
    match s.hallLoad 13 o 4 with
    | (none, s) => (none, s)
    | (some b, s) => match s.dmaRead (o + 4) k with
      | (none, s) => (none, s)
      | (some t, s) => (some (b ++ t), s)

/-- Write words of the Hall with MID 13, each refused word keeping its contents; the flag says that none was refused (R293). -/
def State.dmaWrite (s : State) (o : Nat) : List Word → Bool × State
  | [] => (true, s)
  | w :: t =>
    let r := s.hallStore 13 o (leBytes 4 w.toNat)
    let q := r.2.dmaWrite (o + 4) t
    (r.1 && q.1, q.2)

/-- Axis a in a checkpoint (R391). -/
def State.cpAxis (s : State) (a : Nat) : List Byte :=
  let c := s.axis a
  bytesOf [c.snap.pos, c.snap.vel, c.snap.cur, c.snap.ff, s.rd (Reg.LAW_CTRL a)] ++ c.x.flatMap (fun x => leBytes 2 x)
    ++ leBytes 4 (s.rd (Reg.LAW_REL_CYC a)).toNat ++ leBytes 2 (wrapN 16 c.sign) ++ leBytes 2 c.hold ++ bytesOf [s.resv 530, s.resv 531]

/-- The active takes a checkpoint at tick 0 of each 64th cycle; its first chunk takes the next SEQ that is a multiple of 64, also where
the checkpoint before it was cut off (R391, R293; log entry 79). -/
def State.checkpointTake (s : State) : State :=
  if s.pairRole ≠ 1 ∨ s.tb.cyc.toNat % 64 ≠ 0 ∨ s.sys.guard then s
  else
    let (fw, s) := s.dmaRead (s.fld Reg.PAIR_FWCP 22 0) 11184
    match fw with
    | none => (s.pairEvt 24).pairEvt 27
    | some fw =>
      let axes := (List.range 256).flatMap s.cpAxis
      let srcs := (List.range 16).flatMap (fun i => bytesOf [s.resv (540 + 4 * i), s.resv (541 + 4 * i), s.resv (542 + 4 * i), s.resv (543 + 4 * i)])
        ++ (List.range 512).flatMap (fun r => bytesOf [s.rd (Reg.SRC_ORGLO (16 + r)), s.rd (Reg.SRC_ORGHI (16 + r)),
          s.rd (Reg.SRC_LIMLO (16 + r)), s.rd (Reg.SRC_LIMHI (16 + r))])
      let body := axes ++ srcs ++ fw
      let head := leBytes 4 s.tb.cyc.toNat ++ leBytes 4 s.tb.t0Sec ++ leBytes 4 s.tb.t0Ns ++ leBytes 2 s.tb.t0Frac ++ leBytes 2 (s.resv 604).toNat
        ++ (List.range 11).flatMap (fun i => leBytes 4 (s.resv (605 + i)).toNat) ++ leBytes 4 (crc32 body)
      let q := Table.get (fun _ => 0) s.pair.seqs 2
      { s.takeFree with pair := { s.pair with out := head ++ body, outAt := 0,
                                              seqs := Table.set (fun _ => 0) s.pair.seqs 2 ((q + 63) / 64 * 64 % 2 ^ 32) } }

/-- The next chunk of the checkpoint is sent (R391). -/
def checkpointChunkSend (s : State) : State :=
  if s.pairRole ≠ 1 ∨ s.pair.out.isEmpty ∨ s.sys.guard then s
  else
    let i := s.pair.outAt
    let s1 := s.pairSend 2 ((s.pair.out.drop (1024 * i)).take 1024)
    if i < 63 then { s1 with pair := { s1.pair with outAt := i + 1 } }
    else ({ s1 with pair := { s1.pair with out := [], outAt := 0 } }.wr Reg.PAIR_CPCYC (word (leAt s.pair.out 0 4))).inc Reg.PAIR_CPCNT

/-- A checkpoint chunk arrives at the standby: chunk i of a checkpoint carries SEQ i modulo 64 (R391). -/
def State.chunkReceive (s : State) (seq : Nat) (p : List Byte) : State :=
  if s.mode ≠ mSTANDBY ∨ s.sys.guard then s
  else
    let q := s.pair
    let first := seq % 64 == 0
    let cont := !first && decide (seq = q.inSeq + 1 ∧ q.inp.length = 1024 * (seq % 64))
    let s := if (first && !q.inp.isEmpty) || (!first && !cont && !q.inp.isEmpty) then s.pairEvt 27 else s
    if !first && !cont then { s with pair := { s.pair with inp := [] } }
    else
      let b := (if first then [] else q.inp) ++ p
      if b.length ≠ 65536 then { s with pair := { s.pair with inp := b, inSeq := seq } }
      else
        let s := { s with pair := { s.pair with inp := [] } }
        if crc32 (b.drop 64) ≠ leAt b 60 4 then s.pairEvt 27
        else
          (({ s with pair := { s.pair with held := b } }.setBit Reg.PAIR_STAT 25 true).wr Reg.PAIR_CPCYC (word (leAt b 0 4))).inc Reg.PAIR_CPCNT

/-- Learner region: Hall offset, and its length in refresh chunks of 1,024 bytes (R85, R392). -/
def State.lrnBase (s : State) : Nat := s.fld Reg.LRN_REGION 22 16 * 65536
def State.lrnChunks (s : State) : Nat := s.fld Reg.LRN_REGION 5 0 * 64

/-- A refresh chunk is sent: a bank swapped since, else the next chunk of the learner region (R392, R293). -/
def refreshChunkSend (s : State) : State :=
  if s.pairRole ≠ 1 then s
  else match s.pair.banks with
    | a :: rest => { s with pair := { s.pair with banks := rest } }.pairSend 3 (bytesOf ((List.range 51).map (fun w => s.rd (Reg.LAW_ACT_BANK a w))))
    | [] =>
      if s.lrnChunks = 0 then s
      else
        let i := s.pair.lrnAt % s.lrnChunks
        let (b, s) := s.dmaRead (s.lrnBase + 1024 * i) 256
        let s := { s with pair := { s.pair with lrnAt := (i + 1) % s.lrnChunks } }
        match b with
        | some b => s.pairSend 3 b
        | none => s.pairEvt 24

/-- A refresh chunk arrives at the standby: the bank of an axis, or a chunk of the learner region (R392, R293). -/
def State.refreshReceive (s : State) (bank : Option (Fin 256)) (i : Nat) (p : List Byte) : State :=
  if s.mode ≠ mSTANDBY then s
  else match bank with
    | some a => s.each (List.range 51) (fun w s => s.wr (Reg.LAW_ACT_BANK a w) (word (leAt p (4 * w) 4)))
    | none =>
      let ws := wordsOf 256 p
      if s.lrnChunks ≤ i then s
      else if (List.range 256).all (fun k => s.allowed 13 (hallBase + s.lrnBase + 1024 * i + 4 * k) 4 true && !s.hallBad (s.lrnBase + 1024 * i + 4 * k)) then
        let s := (s.dmaWrite (s.lrnBase + 1024 * i) ws).2
        let got := s.pair.got.filter (fun x => x != i) ++ [i]
        if got.length = s.lrnChunks then { s with pair := { s.pair with got := [] } }.setBit Reg.PAIR_STAT 24 true
        else { s with pair := { s.pair with got := got } }
      else
        -- the first refused word is recorded, and the chunk is discarded whole
        let s := match (List.range 256).find? (fun k => !s.allowed 13 (hallBase + s.lrnBase + 1024 * i + 4 * k) 4 true
            || s.hallBad (s.lrnBase + 1024 * i + 4 * k)) with
          | some k =>
            let o := s.lrnBase + 1024 * i + 4 * k
            if !s.allowed 13 (hallBase + o) 4 true then s.deny 13 (hallBase + o) true 1 else s.hallUncorr o
          | none => s
        { s with pair := { s.pair with got := [] } }.pairEvt 24

/-- A span report carries PAIR_SPAN0 to PAIR_SPAN11 (R390). -/
def spanReportSend (s : State) : State :=
  if s.pairRole ≠ 2 then s else s.pairSend 4 (bytesOf ((List.range 12).map (fun n => s.rd (Reg.PAIR_SPAN n))))

/-- A partner frame is received whole; bank and chunk name what a refresh chunk holds (R382). -/
def partnerFrameReceive (codeOk : Bool) (b : List Byte) (fine : Nat) (bank : Option (Fin 256)) (chunk : Nat) (s : State) : State :=
  if !s.pairEn || !s.bit Reg.PAIR_STAT 28 then s
  else
    let len := leAt b 2 2
    if !codeOk || b.length != 12 + len || decide (1024 < len) || byteAt b 1 != 1 || crc32 (b.take (8 + len)) != leAt b (8 + len) 4 then
      s.inc Reg.PAIR_ERRCNT
    else
      let seq := leAt b 4 4
      let p := (b.drop 8).take len
      match byteAt b 0 with
      | 1 => s.beaconReceive seq fine p
      | 2 => s.chunkReceive seq p
      | 3 => s.refreshReceive bank chunk p
      | 4 => if s.pairRole = 1 then s.each (List.range 12) (fun n s => s.wr (Reg.PAIR_SPAN n) (word (leAt p (4 * n) 4))) else s
      | _ => s

/-- The partner link comes up within its delay limit, or is lost (R382). -/
def partnerLinkUp (s : State) : State := if s.pairEn then s.setBit Reg.PAIR_STAT 28 true else s
def partnerLinkLost (s : State) : State := s.setBit Reg.PAIR_STAT 28 false

/-! ## What the standby hears on the segments (R390) -/

/-- A partner sync on port A gives a sample of the line span; the mean of 16 is shown. -/
def State.spanSample (s : State) (n arr : Nat) : State :=
  let t : Int := (arr : Int) - 32 * s.segOfs n - s32 (s.rd Reg.PAIR_PHASE)
  let l := (t :: Table.get (fun _ => []) s.pair.spans n).take 16
  let s := { s with pair := { s.pair with spans := Table.set (fun _ => []) s.pair.spans n l } }
  if l.length = 16 then s.wr (Reg.PAIR_SPAN n) (wordI (rneDiv (l.foldl (· + ·) 0) 16)) else s

/-- A frame received in STANDBY: the partner's syncs and feedback frames, checked under orders 1 to 4 of R152 without a window. -/
def standbyFrame (p : Port) (f : RxFrame) (s : State) : State :=
  let n := p.seg
  let ch := if p.chB then 1 else 0
  if !s.bit (Reg.TRN_PCFG n ch) 31 then s
  else
    let b := f.bytes
    let h := hdrOf b
    let cyc := if h.cyc = s.tb.cyc.toNat % 65536 then some s.tb.cyc
      else if h.cyc = (s.tb.cyc - 1).toNat % 65536 then some (s.tb.cyc - 1) else none
    let order :=
      if !f.codeOk || b.length != 12 + byteAt b 6 then 1
      else if crc32 (b.take (8 + h.len)) ≠ leAt b (8 + h.len) 4 then 2
      else if h.ver ≠ 1 ∨ !h.allowed ∨ h.seg ≠ n.val ∨ h.hid = s.segHid n ∨ (h.type ≠ 1 ∧ h.type ≠ 2) ∨ cyc = none
          ∨ (h.type = 1 ∧ cyc ≠ some s.tb.cyc) then 3
      else if h.type = 2 ∧ !(h.len == s.slotLen n h.slot && byteAt h.payload 4 == (s.slotMasks n h.slot).1
        && byteAt h.payload 5 == (s.slotMasks n h.slot).2
        && byteAt h.payload 6 == (if g : h.slot < 32 then s.slotCmask n ⟨h.slot, g⟩ else 0)) then 4
      else 0
    let s := s.capPortRecord (2 * n + ch) f.arrival order b
    if order ≠ 0 then s.frameFail n ch order
    else
      let s := (s.inc (Reg.TRN_PRXOK n ch)).wr (Reg.TRN_PLAST n ch) (mkFld 31 22 h.slot ||| mkFld 21 0 f.arrival)
      if h.type = 1 then
        let s := s.otherSync n h.hid
        let s := { s with pair := { s.pair with syncAt := some s.tb.tick } }
        if ch = 0 then s.spanSample n f.arrival else s
      else match cyc with
        | some c =>
          let r := s.keepCopy n h.slot ch c ⟨f.arrival, b.take (8 + h.len)⟩
          if r.1 then r.2.takeRecords n h.slot h.payload (if c = s.tb.cyc then s.tick0 else s.tick0 - s.tb.len) c else r.2
        | none => s

/-! ## Takeover (R393, R394) -/

/-- Ticks since an instant, from the start where there was none. -/
def State.since (s : State) (t : Option Nat) : Nat := s.tb.tick - t.getD 0

/-- PAIR_ABS (R399). -/
def State.pairAbs (s : State) : Nat := min (s.since s.pair.beaconAt) (s.since s.pair.syncAt)

/-- The absence that R393 asks for. -/
def State.absentFor (s : State) : Nat := s.lease + 200000

/-- The standby takes over at a tick 0, once, unless it holds no checkpoint (R393, R394). -/
def takeover (s : State) : State :=
  if s.mode ≠ mSTANDBY ∨ s.tb.ctick ≠ 0 ∨ s.pair.loading ∨ s.trn.cold.isSome ∨ s.pairAbs < s.absentFor then s
  else if !s.bit Reg.PAIR_STAT 25 then s.pairEvt 28
  else
    let age := (s.tb.cyc - s.rd Reg.PAIR_CPCYC).toNat
    let s := (s.pairEvt 31).incFld Reg.PAIR_FOCNT 15 0
    let s := (s.wr Reg.PAIR_TKCYC s.tb.cyc).wr Reg.PAIR_TKSTAT (mkFld 31 16 (min 65535 age) ||| mkBit 15 (s.bit Reg.PAIR_STAT 24))
    { s with pair := { s.pair with loading := true } }

/-- The checkpoint's part of axis a is loaded (R394). -/
def State.cpLoadAxis (s : State) (b : List Byte) (a : Nat) : State :=
  let o := 0x40 + 48 * a
  let w (i : Nat) : Word := word (leAt b (o + 4 * i) 4)
  let x := (List.range 6).map (fun i => leAt b (o + 20 + 2 * i) 2)
  let s := ((((s.wr (Reg.LAW_POS_REF a) (w 0)).wr (Reg.LAW_VEL_REF a) (w 1)).wr (Reg.LAW_CUR_REF a) (w 2)).wr (Reg.LAW_FF a) (w 3)).wr
    (Reg.LAW_CTRL a) (w 4)
  let s := (((s.wr (Reg.LAW_X01 a) (packX x 0)).wr (Reg.LAW_X23 a) (packX x 2)).wr (Reg.LAW_X45 a) (packX x 4)).wr (Reg.LAW_REL_CYC a) (w 8)
  s.setAxis a { s.axis a with x := x, sign := sgn 16 (leAt b (o + 36) 2), hold := leAt b (o + 38) 2 }

/-- The checkpoint's part of remote source n is loaded, and its position is current (R394). -/
def State.cpLoadSource (s : State) (b : List Byte) (n : Nat) : State :=
  let o := 0x3040 + 16 * n
  let w (i : Nat) : Word := word (leAt b (o + 4 * i) 4)
  let s := (((s.wr (Reg.SRC_ORGLO n) (w 0)).wr (Reg.SRC_ORGHI n) (w 1)).wr (Reg.SRC_LIMLO n) (w 2)).wr (Reg.SRC_LIMHI n) (w 3)
  let s := s.setSource n { s.source n with org := ((w 1).toNat * 2 ^ 32 + (w 0).toNat) % 2 ^ 48, orgNew := none,
                                           limLo := s32 (w 2), limHi := s32 (w 3), limNew := none }
  if s.bit (Reg.SRC_STAT n) 24 then s.reportAt n else s

/-- The load completes: the new active coldstarts at the next tick 0, with its counter running on (R394, R293). -/
def takeoverLoadDone (s : State) : State :=
  if !s.pair.loading then s
  else
    let b := s.pair.held
    let s := { s with pair := { s.pair with loading := false } }
    let s := s.each (List.range 256) (fun a s => s.cpLoadAxis b a)
    let s := s.each (List.range' 16 512) (fun n s => s.cpLoadSource b n)
    let r := s.dmaWrite (s.fld Reg.PAIR_FWCP 22 0) (wordsOf 11184 (b.drop 0x5140))
    let s := if r.1 then r.2 else (r.2.pairEvt 24).pairEvt 27
    { s with trn := { s.trn with cold := some true } }

/-! ## Tick 0 -/

/-- A unit in LISTEN that has accepted the partner's sync, or one in INTEGRATE silent under R187, that has received a beacon with
ROLE 1 (R384). -/
def State.standbyDue (s : State) : Bool :=
  let segs := (List.range 12).filter s.segEn
  s.pairEn && s.pair.heard == some 1
    && ((s.mode == mLISTEN && segs.any (fun n => s.bit (Reg.TRN_SSTAT n) 11))
      || (s.mode == mINTEGRATE && !segs.isEmpty && segs.all (fun n => s.segState n == 4)))

/-- Entry into STANDBY (R384, R390, R392). -/
def State.enterStandby (s : State) : State :=
  let s := s.each ((List.range 12).filter s.segEn) (fun n s => s.setFld (Reg.TRN_SSTAT n) 31 29 1)
  let s := (s.setFld Reg.PAIR_STAT 31 29 2).clrBits Reg.PAIR_STAT (bitW 26 ||| bitW 24)
  { s with trn := { s.trn with silence := 0, cold := none },
           pair := { s.pair with got := [], lockRun := 0, ref := none, syncAt := some s.tb.tick, leaseEnd := none } }

/-- The cycle that begins is lengthened by the whole-tick part of a phase d, at most 16 ticks either way; the residual is kept (R389). -/
def State.steerCycle (s : State) (d : Int) : State :=
  let w := clampI (-16) 16 (d.tdiv 32)
  let r := d - 32 * w
  let run := if -32 ≤ r ∧ r ≤ 32 then min 16 (s.pair.lockRun + 1) else 0
  let s : State := { s with tb := { s.tb with len := ((s.tb.len : Int) + w).toNat }, pair := { s.pair with lockRun := run } }
  (s.wr Reg.PAIR_PHASE (wordI r)).setBit Reg.PAIR_STAT 26 (decide (16 ≤ run))

/-- The pair's part of tick 0 (R384, R387, R389, R393). -/
def State.pairTick0 (s : State) : State :=
  if !s.pairEn then s
  else
    let sum := s.laneLates
    let s := { s with pair := { s.pair with lateRun := if sum = s.pair.lateSum then 0 else min 255 (s.pair.lateRun + 1), lateSum := sum } }
    let s := if s.mode = mLISTEN ∧ s.pair.heard = none ∧ (List.range 12).any (fun n => s.segEn n && s.bit (Reg.TRN_SSTAT n) 11)
      then s.pairEvt 26 else s
    if s.mode ≠ mSTANDBY then s
    else
      let s : State := match s.phaseNow with
        | none => s
        | some d => s.steerCycle d
      let noB := decide (s.absentFor ≤ s.since s.pair.beaconAt)
      let noS := decide (s.absentFor ≤ s.since s.pair.syncAt)
      let s := s.when (noB && !noS) (fun s => s.pairEvt 29)
      s.when (noB && noS && !s.bit Reg.PAIR_STAT 25) (fun s => s.pairEvt 28)

/-- PAIR_STAT: PEER shows a beacon within the last LEASE ticks (R399). -/
def State.pairStat (s : State) : Word :=
  wSetBit (s.rd Reg.PAIR_STAT) 27 (s.pair.beaconAt.isSome && decide (s.since s.pair.beaconAt ≤ s.lease))

/-! ## The commands without register writes -/

def execFrameReceive (p : Port) (f : RxFrame) (s : State) : Host.Outcome State Fault Refusal :=
  .next (if s.mode == mSTANDBY then standbyFrame p f s else frameReceive p f s)
def execBeaconSend (fine : Fin 32) (s : State) : Host.Outcome State Fault Refusal := .next (beaconSend fine s)
def execPartnerFrameReceive (codeOk : Bool) (b : List Byte) (fine : Fin 32) (bank : Option (Fin 256)) (chunk : Fin 2048) (s : State) :
    Host.Outcome State Fault Refusal := .next (partnerFrameReceive codeOk b fine bank chunk s)
def execCheckpointChunkSend (s : State) : Host.Outcome State Fault Refusal := .next (checkpointChunkSend s)
def execRefreshChunkSend (s : State) : Host.Outcome State Fault Refusal := .next (refreshChunkSend s)
def execLeaseLapse (s : State) : Host.Outcome State Fault Refusal := .next (leaseLapse s)
def execTakeover (s : State) : Host.Outcome State Fault Refusal := .next (takeover s)
def execTakeoverLoadDone (s : State) : Host.Outcome State Fault Refusal := .next (takeoverLoadDone s)
def execSpanReportSend (s : State) : Host.Outcome State Fault Refusal := .next (spanReportSend s)
def execPartnerLinkUp (s : State) : Host.Outcome State Fault Refusal := .next (partnerLinkUp s)
def execPartnerLinkLost (s : State) : Host.Outcome State Fault Refusal := .next (partnerLinkLost s)

end Sys2Proof.Machine
end

