-- ==== Sys2Proof/Machine/Flash.lean ====
section
/-! DEFINITION. The boot flash and the Pleum image (R360 to R370): slots, header, section table, the checks of flights 2 and 3. -/

namespace Sys2Proof.Machine

/-- A byte of the flash; an erased one reads 0xFF (R364). -/
def State.flashByte (s : State) (a : Nat) : Byte := Table.get (fun _ => 0xFF) s.pv.flash a

/-- n bytes of slot sl from offset o (R361). -/
def State.slotBytes (s : State) (sl o n : Nat) : List Byte := (List.range n).map (fun i => s.flashByte (0x1000000 * sl + o + i))

/-- A little-endian field of slot sl. -/
def State.slotFld (s : State) (sl o n : Nat) : Nat := leNat (s.slotBytes sl o n)

def State.nsec (s : State) (sl : Nat) : Nat := s.slotFld sl 6 2
def State.imgLen (s : State) (sl : Nat) : Nat := s.slotFld sl 8 4
def State.imgSigned (s : State) (sl : Nat) : Bool := s.slotFld sl 15 1 % 2 == 1

/-- An entry of the section table (R363). -/
structure Section where
  num : Nat
  type : Nat
  param : Nat
  offset : Nat
  length : Nat
  scrc : Nat

/-- The section table of slot sl. -/
def State.sections (s : State) (sl : Nat) : List Section :=
  (List.range (s.nsec sl)).map (fun i =>
    let o := 256 + 16 * i
    ⟨i, s.slotFld sl o 2, s.slotFld sl (o + 2) 2, s.slotFld sl (o + 4) 4, s.slotFld sl (o + 8) 4, s.slotFld sl (o + 12) 4⟩)

/-- The bytes of a section. -/
def State.secBytes (s : State) (sl : Nat) (x : Section) : List Byte := s.slotBytes sl x.offset x.length

/-- No two sections overlap, and no two of types 2 and 3 share TYPE and PARAM (R364). -/
def secsApart : List Section → Bool
  | [] => true
  | x :: t => t.all (fun y => decide (x.offset + x.length ≤ y.offset ∨ y.offset + y.length ≤ x.offset)
      && !((x.type == 2 || x.type == 3) && x.type == y.type && x.param == y.param)) && secsApart t

/-- Flight 2 accepts the header and the table (R362 to R364). -/
def State.headerOk (s : State) (sl : Nat) : Bool :=
  let ns := s.nsec sl
  let len := s.imgLen sl
  s.slotFld sl 0 4 == 0x55454C50 && s.slotFld sl 4 2 == 1 && s.slotFld sl 12 2 == 0x2564 && decide (s.slotFld sl 14 1 ≤ 1)
    && decide (3 ≤ ns ∧ ns ≤ 255 ∧ len % 4 = 0 ∧ len ≤ 0x1000000 ∧ 256 + 16 * ns ≤ len)
    && s.slotFld sl 28 4 == crc32 (s.slotBytes sl 0 28 ++ s.slotBytes sl 256 (16 * ns))
    && (let t := s.sections sl
        t.all (fun x => decide (x.offset % 4 = 0 ∧ 256 + 16 * ns ≤ x.offset ∧ x.length % 4 = 0 ∧ 4 ≤ x.length ∧ x.offset + x.length ≤ len))
          && secsApart t && [5, 6, 7].all (fun ty => (t.filter (fun x => x.type == ty)).length == 1))

/-- DIGEST as computed (R365). -/
def State.digest (s : State) (sl : Nat) : List Byte := sha256 (s.slotBytes sl 0 32 ++ s.slotBytes sl 160 (s.imgLen sl - 160))

/-- A key hash is programmed (R369). -/
def State.keyed (s : State) : Bool := s.sys.kh0 != 0 || s.sys.kh1 != 0

/-- The signature check after DIGEST: none where it passes or where the image boots unsigned, else the DETAIL of cause 0x05; the flag
says that a signature was checked and passed (R370). -/
def State.sigCheck (s : State) (sl : Nat) : Option Nat × Bool :=
  let sigreq := wBit s.sys.fuse 30
  if !s.keyed then (if sigreq then some 2 else none, false)
  else if !s.imgSigned sl then (if sigreq then some 1 else none, false)
  else
    let key := s.slotBytes sl 64 32
    let h := leNat (sha256 key)
    let m0 := s.sys.kh0 != 0 && h == s.sys.kh0
    let m1 := s.sys.kh1 != 0 && h == s.sys.kh1
    if !m1 && m0 && wBit s.sys.fuse 29 then (some 4, false)
    else if !m1 && !m0 then (some 2, false)
    else if edVerify key (s.slotBytes sl 96 64) (s.slotBytes sl 32 32) then (none, true) else (some 3, false)

/-- The checks of flight 3: the first failure as code and DETAIL (R365, R370). -/
def State.flight3 (s : State) (sl : Nat) : Option (Nat × Nat) × Bool :=
  match (s.sections sl).find? (fun x => crc32 (s.secBytes sl x) != x.scrc) with
  | some x => (some (3, x.num), false)
  | none =>
    if s.digest sl ≠ s.slotBytes sl 32 32 then (some (4, 0), false)
    else match s.sigCheck sl with
      | (some d, _) => (some (5, d), false)
      | (none, ok) => (none, ok)

/-- The cause record of SYS_BOOT_CAUSE (R359). -/
def causeWord (code flight slot detail : Nat) : Word := mkFld 31 16 detail ||| mkFld 12 12 slot ||| mkFld 11 8 flight ||| mkFld 7 0 code

/-- The checks of flights 2 and 3 on a slot, as VERIFY runs them: none, or the cause record of the failure (R364, R365, R371); flash:
the flash answers. -/
def State.verify (s : State) (flash : Bool) (sl : Nat) : Option Word :=
  if !flash then some (causeWord 1 2 sl 0)
  else if !s.headerOk sl then some (causeWord 2 2 sl 0)
  else match (s.flight3 sl).1 with
    | some (c, d) => some (causeWord c 3 sl d)
    | none => none

end Sys2Proof.Machine
end

