-- ==== Sys2Proof/Machine/Tsu.lean ====
section
/-! DEFINITION. The task scheduler (R262 to R275): submission, eligibility, taking, completion and release of jobs, flows, interrupt
routes and the cores' power domains. -/

namespace Sys2Proof.Machine

/-- Jobs of level k queued and not yet given (R281). -/
def State.lvlQueued (s : State) (k : Nat) : Nat :=
  if k = 7 then s.law.jobs.length
  else (s.tsu.jobs.filter (fun j => j.level == k && match j.st with | .queued _ => true | _ => false)).length

/-- TSU_STAT.FREE follows the pool of 1,792 entries, MINFREE its minimum (R262, R281). -/
def State.tsuFree (s : State) : State :=
  let f := 1792 - s.tsu.jobs.length
  (s.setFld Reg.TSU_STAT 10 0 f).setFld Reg.TSU_STAT 26 16 (min f (s.fld Reg.TSU_STAT 26 16))

/-- The unreleased jobs of a flow, oldest first (R269). -/
def State.flowJobs (s : State) (f : Nat) : List TsuJob := s.tsu.jobs.filter (fun j => j.flow == some f)

/-- The job lies inside its flow's window (R269). -/
def State.inFlowWindow (s : State) (j : TsuJob) : Bool :=
  match j.flow with
  | none => true
  | some f => match s.flowJobs f with
    | [] => true
    | h :: _ => decide ((j.seq + 65536 - h.seq) % 65536 < 32)

/-- The free handles of the pool (R262). -/
def State.freeHandles (s : State) : List Nat := (List.range' 256 1792).filter (fun h => s.tsu.jobs.all (fun j => j.handle ≠ h))

/-- The refusal codes that apply to a submission (R265). -/
def State.submitCodes (s : State) (m : Nat) (v : Word) : List Nat :=
  let res := (s.rd (midKey m Reg.TSU_SUB_RES)).toNat
  let lvl := wFld v 26 24
  (if s.freeHandles.isEmpty then [1] else []) ++ (if lvl = 7 then [2] else [])
    ++ (if wBit v 31 && (s.flowJobs (wFld v 5 0)).any (fun j => j.level ≠ lvl) then [3] else [])
    ++ (if res = 0xFFFFFFFF ∨ (res % 4 = 0 ∧ hallBase ≤ res ∧ res + 4 ≤ hallBase + 0x800000) then [] else [4])

/-- A job takes its place among those submitted before: of two that were submitted in one tick the one with the lower MID comes first, in its flow
as well (R266, R269). -/
def insertJob (j : TsuJob) : List TsuJob → List TsuJob
  | [] => [j]
  | k :: t =>
    if k.at' = j.at' ∧ j.mid < k.mid then
      match (k :: t).find? (fun x => x.flow.isSome && x.flow == j.flow) with
      | some x => { j with seq := x.seq } :: (k :: t).map (fun y => if y.flow == j.flow then { y with seq := (y.seq + 1) % 65536 } else y)
      | none => j :: k :: t
    else k :: insertJob j t

/-- A write of TSU_SUB_CTL by MID m (R264 to R266). -/
def State.submit (s : State) (m : Nat) (v : Word) : State :=
  match s.submitCodes m v with
  | [] =>
    let h := s.pick 256 s.freeHandles
    let s := s.takeFree
    let flow := if wBit v 31 then some (wFld v 5 0) else none
    let seq := match flow with
      | some f => Table.get (fun _ => 0) s.tsu.flowSeq f
      | none => 0
    let j : TsuJob := ⟨h, wFld v 26 24, flow, seq, wBit v 30, s.rd (midKey m Reg.TSU_SUB_ARG), s.rd (midKey m Reg.TSU_SUB_ENTRY),
      s.rd (midKey m Reg.TSU_SUB_RES), m, s.tb.tick, s.tb.tick + 8, .queued false⟩
    let s := s.setTsuJobs (insertJob j s.tsu.jobs)
    let s := match flow with
      | some f => { s with tsu := { s.tsu with flowSeq := Table.set (fun _ => 0) s.tsu.flowSeq f ((seq + 1) % 65536) } }
      | none => s
    ((s.wr (midKey m Reg.TSU_SUB_STAT) (bitW 31 ||| mkFld 10 0 h)).tsuFree).lvlPeak j.level (s.lvlQueued j.level)
  | c :: cs =>
    let code := s.pick c (c :: cs)
    let s := s.takeFree
    ((s.wr (midKey m Reg.TSU_SUB_STAT) (mkFld 26 24 code)).inc Reg.TSU_REFCNT).tsuEvt 31

/-- The job a core holds (R268). -/
def State.heldJob (s : State) (c : Nat) : Option TsuJob := s.tsu.jobs.find? (fun j => j.st == .held c)

/-- Replace a job's progress. -/
def State.jobSt (s : State) (h : Nat) (st : JobState) : State :=
  s.setTsuJobs (s.tsu.jobs.map (fun j => if j.handle = h then { j with st := st } else j))

/-- TSU_TAKE as it shows a given job (R281). -/
def takeWord (j : TsuJob) : Word :=
  bitW 31 ||| mkFld 26 24 j.level ||| mkBit 22 j.flow.isSome ||| mkFld 21 16 (j.flow.getD 0) ||| mkFld 10 0 j.handle

/-- The core is given the job; its read of TSU_TAKE returns it (R267). -/
def State.giveJob (s : State) (c : Nat) (j : TsuJob) : State :=
  let s := (s.jobSt j.handle (.held c)).endWait c (takeWord j)
  let s := s.setCore c { s.core c with tookAt := s.tb.tick }
  ((s.setBit (Reg.TSU_CORE_STAT c) 26 true).setFld (Reg.TSU_CORE_STAT c) 10 0 j.handle).inc (Reg.TSU_CORE_JOBS c)

/-- The core admits jobs of level k (R267). -/
def State.admits (s : State) (c k : Nat) : Bool := decide (k < 7) && s.bit (Reg.TSU_CORE_CFG c) (16 + k)

/-- A core that can be given a job: active, and powered (R271, R275). -/
def State.coreServes (s : State) (c : Nat) : Bool := (s.core c).state == 0 && s.bit Reg.TSU_PWR c

/-- The eligible job of the highest level the core admits, earliest in its level's order (R267). -/
def State.bestJob (s : State) (c : Nat) : Option TsuJob :=
  ([6, 5, 4, 3, 2, 1, 0].filter (s.admits c)).findSome? (fun k => s.tsu.jobs.find? (fun j => j.level == k && j.st == .queued true))

/-- The core waits in TSU_TAKE, or did until an interrupt ended its wait in this tick (R267). -/
def State.waitsTake (s : State) (c : Nat) : Bool :=
  (s.core c).wait == .take || ((s.core c).woke == some s.tb.tick && (s.heldJob c).isNone)

/-- The core that has waited longest in TSU_TAKE among those that admit level k; of those that began in one tick the lowest-numbered one
(R267). -/
def State.longestWaiter (s : State) (k : Nat) : Option Nat :=
  let w := (List.range 9).filter (fun c => s.waitsTake c && s.coreServes c && s.admits c k)
  w.foldl (fun b c => match b with
    | none => some c
    | some d => if (s.core c).waitAt < (s.core d).waitAt then some c else some d) none

/-- A waiting core that comes to admit a job that is already eligible is given it (R267). -/
def State.offerJob (s : State) (c : Nat) : State :=
  if (s.core c).wait == .take && s.coreServes c then
    match s.bestJob c with
    | some j => s.giveJob c j
    | none => s
  else s

/-- A submitted job becomes eligible, no earlier than 8 ticks after its submission or after the release that brought it inside its flow's window, and
is given to the core that has waited longest (R266, R267, R269). -/
def jobEligible (h : Nat) (s : State) : State :=
  match s.tsu.jobs.find? (fun j => j.handle == h && j.st == .queued false) with
  | none => s
  | some j =>
    if !s.inFlowWindow j || decide (s.tb.tick < j.due) then s
    else
      let s := s.jobSt h (.queued true)
      match s.longestWaiter j.level with
      | some c => s.giveJob c j
      | none => s

/-- A core begins to wait (R267, R319): an interrupt that reaches it ends the wait. -/
def State.beginWait (s : State) (c : Nat) (w : CoreWait) : State :=
  let s := s.setCore c { s.core c with wait := w, waitAt := s.tb.tick, woke := none }
  (s.when (decide (w = .take)) (fun s => s.setBit (Reg.TSU_CORE_STAT c) 27 true)).wakeCore c

/-- A read of MBX_WAIT by MID m (R319). -/
def State.mbxRead (s : State) (m : Nat) : State × Word :=
  let sel := s.rd (midKey m Reg.MBX_WAITSEL)
  let r := s.mbxBits m
  if 9 < m ∨ !(wBit sel 30 || wBit sel 31) then (s, r)
  else
    let c := midCore m
    let r := r ||| mkBit 29 (s.irqAt c)
    if r ≠ 0 then (s, r) else (s.beginWait c .mbx, 0)

/-- A read of MID m returns bytes: to a core, or in the completion of a PCI Express host. -/
def State.readBytes (s : State) (m : Nat) (bs : List Byte) : State :=
  if m ≤ 9 then s.setCore (midCore m) { s.core (midCore m) with readRes := word (leNat bs) } else s.complete m (.data bs)

/-- A read of MID m returns a word. -/
def State.readBy (s : State) (m : Nat) (v : Word) : State := s.readBytes m (leBytes 4 v.toNat)

/-- A read of TSU_TAKE by MID m (R267). -/
def State.takeRead (s : State) (m : Nat) : State :=
  if m = 0 ∨ 9 < m then s.readBy m 0
  else
    let c := m - 1
    if (s.heldJob c).isSome then (s.readBy m (bitW 29)).tsuEvt 30
    else match (if s.coreServes c then s.bestJob c else none) with
      | some j => s.giveJob c j
      | none => s.beginWait c .take

/-- The core stops holding its job (R268). -/
def State.dropHold (s : State) (c : Nat) : State := (s.setBit (Reg.TSU_CORE_STAT c) 26 false).setFld (Reg.TSU_CORE_STAT c) 10 0 0

/-- A write of TSU_DONE by MID m (R268). -/
def State.doneWrite (s : State) (m : Nat) (res : Word) : State :=
  if m = 0 ∨ 9 < m then s.tsuEvt 30
  else match s.heldJob (m - 1) with
    | none => s.tsuEvt 30
    | some j => (s.jobSt j.handle (.done (m - 1) res)).dropHold (m - 1)

/-- The release of a done job: its result is written, its entry freed and the release notified (R268, R430). -/
def State.releaseTsu (s : State) (j : TsuJob) (c : Nat) (res : Word) : State :=
  let s := if j.res = 0xFFFFFFFF then s
    else
      let r := s.hallStore (coreMid c) (j.res.toNat - hallBase) (leBytes 4 res.toNat)
      if r.1 then r.2 else r.2.tsuEvt 29
  let out := s.tsu.jobs.filter (fun k => k.flow.isSome && k.flow == j.flow && !s.inFlowWindow k)
  let s := (s.setTsuJobs (s.tsu.jobs.filter (fun k => k.handle ≠ j.handle))).tsuFree
  let s := s.setTsuJobs (s.tsu.jobs.map (fun k =>
    if out.any (fun o => o.handle == k.handle) && s.inFlowWindow k then { k with due := s.tb.tick + 8 } else k))
  let s := match j.flow with
    | some f => s.setFld (Reg.TSU_FLOW f) 15 0 (s.fld (Reg.TSU_FLOW f) 15 0 + 1)
    | none => s
  if !j.notify then s
  else match j.flow with
    | some f => s.orBits (if f < 32 then Reg.TSU_RELFLOW0 else Reg.TSU_RELFLOW1) (bitW (f % 32))
    | none => s.tsuEvt 25

/-- A done job outside any flow is released (R268). -/
def jobRelease (h : Nat) (s : State) : State :=
  match s.tsu.jobs.find? (fun j => j.handle == h) with
  | some j => match j.flow, j.st with
    | none, .done c res => s.releaseTsu j c res
    | _, _ => s
  | none => s

/-- The oldest unreleased job of a flow is released, if it is done (R270). -/
def flowRelease (f : Nat) (s : State) : State :=
  match s.flowJobs f with
  | j :: _ => match j.st with
    | .done c res => s.releaseTsu j c res
    | _ => s
  | [] => s

/-- A core has held its job for longer than JTMO (R268). -/
def jobTimeout (c : Nat) (s : State) : State :=
  let jtmo := s.fld (Reg.TSU_CORE_CFG c) 15 0
  if (s.heldJob c).isSome && decide (jtmo ≠ 0 ∧ (s.core c).tookAt + 4096 * jtmo < s.tb.tick) then (s.setBit (Reg.TSU_CORE_STAT c) 25 true).tsuEvt 28 else s

/-- A safety edge held in TSU_IRQLOST goes to the core its source is routed to, once that core can receive it (R274). -/
def State.lostEdge (s : State) : State :=
  let r := s.route 17
  if s.bit Reg.TSU_IRQLOST 17 && decide (r < 9) && s.coreUsable r then
    ((s.setBit Reg.TSU_IRQLOST 17 false).setCore r { s.core r with safIrq := true }).wakeCore r
  else s

/-- A new route of source n takes effect (R274). -/
def routeChange (n : Nat) (s : State) : State :=
  let r := routeOf (s.fld (Reg.TSU_ROUTE n) 3 0)
  let s := { s with tsu := { s.tsu with routes := Table.set (fun _ => 15) s.tsu.routes n r } }
  if n = 17 then s.lostEdge else if n ≤ 20 then s.irqSettle n else s

/-- Every level source that is asserted is delivered, or held in TSU_IRQLOST, as the cores now stand (R274). -/
def State.irqSettleAll (s : State) : State := s.each (List.range 21) (fun n s => if n = 17 then s else s.irqSettle n)

/-- A core is switched off: it leaves waiting (R275). -/
def State.coreOff (s : State) (c : Nat) : State :=
  let s := (s.setBit Reg.TSU_PWR c false).clrBits (Reg.TSU_CORE_STAT c) (bitW 28 ||| bitW 27)
  s.setCore c { s.core c with wait := .none, woke := none }

/-- A write of TSU_PWR by MID 0; sources routed to a core that it switches are delivered or held anew (R274, R275). -/
def State.pwrWrite (s : State) (v : Word) : State :=
  (s.each (List.range 9) (fun c s =>
    if wBit v c then s.setBit Reg.TSU_PWR c true
    else if !s.bit Reg.TSU_PWR c then s
    else if (s.heldJob c).isSome then s.tsuEvt 27
    else s.coreOff c)).irqSettleAll

/-- A core starts at its entry point (R275, R317). -/
def State.startCore (s : State) (c : Nat) : State :=
  ((s.setBit (Reg.TSU_CORE_STAT c) 28 true).setCore c { s.core c with pc := (s.core c).entry }).masterReset (c + 1)

/-- A powered core becomes usable (R275); a spare core that is loaded is held stopped (R402), and in MINIMAL the application cores are off, whatever
their bits in TSU_PWR (R355). -/
def corePowerUp (c : Nat) (s : State) : State :=
  if !s.bit Reg.TSU_PWR c || s.bit (Reg.TSU_CORE_STAT c) 28 || (s.core c).state == 1 || decide (s.mode = mMINIMAL) then s
  else (s.startCore c).lostEdge

/-- TSU_FLOWf: level and count of the unreleased jobs (R281). -/
def State.flowView (s : State) (f : Nat) : Word :=
  let l := s.flowJobs f
  mkFld 30 28 (match l with | j :: _ => j.level | [] => 0) ||| mkFld 27 16 l.length ||| mkFld 15 0 (s.fld (Reg.TSU_FLOW f) 15 0)

/-- TSU_CUR_ARG and TSU_CUR_ENTRY as MID m sees them (R268). -/
def State.curView (s : State) (m : Nat) (entry : Bool) : Word :=
  if m = 0 ∨ 9 < m then 0
  else match s.heldJob (m - 1) with
    | some j => if entry then j.entry else j.arg
    | none => 0

/-! ## The commands without register accesses -/

def execJobEligible (h : Fin 2048) (s : State) : Host.Outcome State Fault Refusal := .next (jobEligible h s)
def execJobRelease (h : Fin 2048) (s : State) : Host.Outcome State Fault Refusal := .next (jobRelease h s)
def execFlowRelease (f : Fin 64) (s : State) : Host.Outcome State Fault Refusal := .next (flowRelease f s)
def execJobTimeout (c : Fin 9) (s : State) : Host.Outcome State Fault Refusal := .next (jobTimeout c s)
def execRouteChange (n : Fin 32) (s : State) : Host.Outcome State Fault Refusal := .next (routeChange n s)
def execCorePowerUp (c : Fin 9) (s : State) : Host.Outcome State Fault Refusal := .next (corePowerUp c s)

end Sys2Proof.Machine
end

