-- ==== Sys2Proof/Machine/Spare.lean ====
section
/-! DEFINITION. Spare capacity (R400 to R408): application cores, Hall rows and capture DRAM rows, and the trend period. Lanes, persistent words
and slots are brought in by their own blocks. -/

namespace Sys2Proof.Machine

/-! ## Cores (R401, R402) -/

/-- The spare core that no marked core waits for. -/
def State.spareCore (s : State) : Option Nat :=
  if s.spr.swap.isSome then none else lowest 9 (fun c => (s.core c).state == 1)

/-- Errors of a core's local memory in the trend period. -/
def State.coreCor (s : State) (c : Nat) : Nat := Table.get (fun _ => 0) s.spr.coreCor c

/-- An active core is marked; causes 1 and 4 mark none where no spare core remains (R401). At the marking the spare core is powered and
held stopped (R402). -/
def State.markCore (s : State) (c cause : Nat) (forced : Bool) : State :=
  if (s.core c).state ≠ 0 then s
  else match s.spareCore with
    | none =>
      let s := if cause = 2 then (s.coreState c 2 2).orBits Reg.SPR_EVT (bitW 29) else s
      s.record ⟨2, cause, true, forced, c, 0xFFFF, s.coreCor c⟩
    | some k =>
      let s := ((s.coreState c 2 cause).orBits Reg.SPR_EVT (bitW 29 ||| mkBit 28 (cause == 4))).setBit Reg.TSU_PWR k true
      { s with spr := { s.spr with swap := some ⟨c, cause, forced, false, s.coreCor c⟩ } }

/-- An error of a core's local memory: corrected, or uncorrectable (R401, R407). -/
def coreMemoryError (c : Nat) (unc : Bool) (s : State) : State :=
  if unc then s.markCore c 4 false
  else
    let n := min 65535 (s.coreCor c + 1)
    let s := { s with spr := { s.spr with coreCor := Table.set (fun _ => 0) s.spr.coreCor c n } }
    if s.fld Reg.SPR_CFG 23 16 ≤ n then s.markCore c 1 false else s

/-- A core fails its power-up check in flight 5: it becomes failed (R401). -/
def State.coreCheckFailed (s : State) (c : Nat) : State := if (s.core c).state ≤ 2 then s.coreState c 4 3 else s

/-- A write of SPR_CTRL by MID 0 (R401, R402, R408). -/
def State.sprCtrl (s : State) (v : Word) : State :=
  if wBit v 31 && decide (wFld v 3 0 < 9) then s.markCore (wFld v 3 0) 2 (wBit v 30) else s

/-- The local memory that a core-memory section gives (R366). -/
def memTable (bs : List Byte) : Table Byte := Table.setRange (fun _ => 0) [] 0 (bs.take 65536)

/-- The spare core becomes failed, and the marked core stays marked (R402). -/
def State.spareFailed (s : State) (w : CoreSwap) (k : Nat) : State :=
  let s := (s.coreState k 4 (s.core k).cause).orBits Reg.SPR_EVT (bitW 27)
  { s with spr := { s.spr with swap := none } }.record ⟨2, w.cause, true, w.forced, w.core, 0xFFFF, w.trend⟩

/-- The Root core finishes loading the spare core from the marked core's section of the booted slot; read: the flash answers (R402). -/
def spareCoreLoaded (read : Bool) (s : State) : State :=
  match s.spr.swap, lowest 9 (fun c => (s.core c).state == 1) with
  | some w, some k =>
    if w.loaded then s
    else
      let sl := s.fld Reg.SYS_BOOT 27 27
      match (if read then (s.sections sl).find? (fun x => x.type == 2 && x.param == w.core) else none) with
      | some x =>
        let bs := s.secBytes sl x
        if crc32 bs = x.scrc then
          { s.setCore k { s.core k with lmem := memTable bs, entry := (s.core w.core).entry } with
            spr := { s.spr with swap := some { w with loaded := true } } }
        else s.spareFailed w k
      | none => s.spareFailed w k
  | _, _ => s

/-- Bindings of MID a now name MID b (R402). -/
def State.rebind (s : State) (a b : Nat) : State :=
  s.each (List.range 64) (fun n s =>
    let r := Reg.MBX_CH_BIND n
    let s := if s.fld r 20 16 = a ∧ s.rd r ≠ 0 then s.setFld r 20 16 b else s
    if s.fld r 4 0 = a ∧ s.rd r ≠ 0 then s.setFld r 4 0 b else s)

/-- At tick 0: the spare core takes the place of a marked core that waits with no job, or at once under FORCE (R402). -/
def State.coreTick0 (s : State) : State :=
  match s.spr.swap, lowest 9 (fun c => (s.core c).state == 1) with
  | some w, some k =>
    let c := w.core
    let job := s.heldJob c
    if !w.loaded || !(w.forced || ((s.core c).wait == .take && job.isNone)) then s
    else
      let s := match job with
        | some j => (s.jobSt j.handle (.done c 0xFFFFFFFF)).dropHold c
        | none => s
      let s := (s.coreOff c).coreState c 3 w.cause
      let s := s.coreState k 0 (s.core k).cause
      let s := (s.wr (Reg.TSU_CORE_CFG k) (s.rd (Reg.TSU_CORE_CFG c))).wr (Reg.TSU_CORE_IRQE k) (s.rd (Reg.TSU_CORE_IRQE c))
      let s := (s.rebind (c + 1) (k + 1)).startCore k
      let s := s.each (List.range 32) (fun n s =>
        let s := if s.fld (Reg.TSU_ROUTE n) 3 0 = c then s.setFld (Reg.TSU_ROUTE n) 3 0 k else s
        if s.route n = c then
          let s := { s with tsu := { s.tsu with routes := Table.set (fun _ => 15) s.tsu.routes n k } }
          if n = 17 then s.lostEdge else if n ≤ 20 then s.irqSettle n else s
        else s)
      { s with spr := { s.spr with swap := none }, hst := { s.hst with spareIn := true } }.record ⟨2, w.cause, false, w.forced, c, k, w.trend⟩
  | _, _ => s

/-! ## Hall rows (R403, R404) -/

/-- The copy of the first marked row into its spare completes (R404). -/
def hallRowCopyDone (s : State) : State :=
  if s.spr.marked.isEmpty then s else { s with spr := { s.spr with copied := true } }

/-- The map write of a copied row; it waits while the guard is engaged (R404). -/
def hallMapDone (s : State) : State :=
  match s.spr.marked, s.hallSpare with
  | m :: _, some k =>
    if !s.spr.copied || s.spr.mapped || s.sys.guard then s
    else { s with spr := { s.spr with mapped := true },
                  pv := { s.pv with hmap := Table.set (fun _ => 0) s.pv.hmap k (bitW 31 ||| mkFld 12 0 m.row) } }
  | _, _ => s

/-- The spare row that a Hall row was mapped to last. -/
def State.spareOf (s : State) (r : Nat) : Nat :=
  (List.range 256).foldl (fun b k => if wBit (s.hmap k) 31 && wFld (s.hmap k) 12 0 == r then k else b) 0

/-- At tick 0 accesses to a mapped row go to its spare (R404). -/
def State.hallTick0 (s : State) : State :=
  match s.spr.marked with
  | m :: rest =>
    if !s.spr.mapped then s
    else
      let s := { s with spr := { s.spr with marked := rest, copied := false, mapped := false }, hst := { s.hst with spareIn := true } }
      s.record ⟨3, m.cause, false, false, m.row, s.spareOf m.row, m.count⟩
  | [] => s

/-! ## Capture DRAM rows (R405) -/

/-- Correction count of a capture DRAM row. -/
def State.drowCnt (s : State) (r : Nat) : Nat := Table.get (fun _ => 0) s.spr.drowCnt r

/-- A row enters the repair list, unless it is in it or no spare row remains. -/
def State.dramRepair (s : State) (r cause : Nat) : State :=
  if s.pv.dramPend.any (fun x => x.1 == r) then s
  else if s.pv.dramSpares ≤ s.pv.dramPend.length then s.record ⟨5, cause, true, false, r, 0xFFFF, s.drowCnt r⟩
  else
    { s with pv := { s.pv with dramPend := s.pv.dramPend ++ [(r, cause, s.drowCnt r)] } }.orBits Reg.SPR_EVT
      (bitW 29 ||| mkBit 28 (cause == 4))

/-- The in-band ECC's finding of a read at a DRAM offset: 1 a corrected error, 2 an uncorrectable one; host: a host reads (R403, R405). -/
def State.dramEcc (s : State) (host : Bool) (o err : Nat) : State :=
  let r := o / 2048
  if err = 1 then
    let n := min 255 (s.drowCnt r + 1)
    let s := { s with spr := { s.spr with drowCnt := Table.set (fun _ => 0) s.spr.drowCnt r n, dramCor := min 65535 (s.spr.dramCor + 1),
                                          dramMax := max s.spr.dramMax n } }
    if s.fld Reg.SPR_CFG 15 8 ≤ n then s.dramRepair r 1 else s
  else if err = 2 then
    (s.when host (fun s => s.setFld Reg.SPR_DSTAT 31 24 (min 255 (s.fld Reg.SPR_DSTAT 31 24 + 1)))).dramRepair r 4
  else s

/-- Flight 0 repairs the listed rows for good (R405). -/
def State.dramRepairAll (s : State) : State :=
  let l := s.pv.dramPend
  let s := { s with pv := { s.pv with dramPend := [] } }
  s.each l (fun x s =>
    let k := 64 - s.pv.dramSpares
    { s with pv := { s.pv with dramSpares := s.pv.dramSpares - 1 } }.record ⟨5, x.2.1, false, false, x.1, k, x.2.2⟩)

/-! ## The trend period (R407) -/

/-- Every count of a table halves (R403). -/
def halved (t : Table Nat) : Table Nat := (t.map (fun e => (e.1, e.2 / 2))).filter (fun e => e.2 != 0)

/-- The greatest count of a table. -/
def highest (t : Table Nat) : Nat := t.foldl (fun m e => max m e.2) 0

/-- The tick counter has reached a further multiple of 2^40: the trend words are written and new period values start; the highest row counts of
the new period start at the halved counts (R403, R407). -/
def trendPeriodEnd (s : State) : State :=
  if s.tb.tick / 2 ^ 40 ≤ s.spr.period then s else
  let put (n hi lo : Nat) (s : State) : State := (s.pregWrite (208 + n) (mkFld 31 16 hi ||| mkFld 15 0 lo)).1
  let s := s.each (List.range 18) (fun n s =>
    let t := (s.lane n).trend
    put n (wrapN 16 (min (hiS (s.preg (208 + n))) t)) (wrapN 16 t) s)
  let s := s.each (List.range 9) (fun c s =>
    put (18 + c) (min 65535 (wFld (s.preg (226 + c)) 31 16 + s.coreCor c)) (s.coreCor c) s)
  let s := put 27 s.spr.hallMax s.spr.hallCor s
  let s := put 28 s.spr.dramMax s.spr.dramCor s
  let s := s.each (List.range 18) (fun n s => s.setLane n { s.lane n with trend := 32767 })
  { s with spr := { s.spr with rowCnt := halved s.spr.rowCnt, drowCnt := halved s.spr.drowCnt, coreCor := [], hallCor := 0, dramCor := 0,
                               hallMax := highest (halved s.spr.rowCnt), dramMax := highest (halved s.spr.drowCnt),
                               period := s.tb.tick / 2 ^ 40 } }

/-- Refused state writes are repeated (R406). -/
def stateWriteRetry (s : State) : State :=
  let l := s.spr.retry
  s.each l (fun n s =>
    if n < 32 then
      let k := n - 8
      let s := { s with spr := { s.spr with retry := s.spr.retry.filter (fun x => x != n) } }
      s.pregKeep n (laneWord (s.lane k))
    else
      let s := { s with spr := { s.spr with retry := s.spr.retry.filter (fun x => x != n) } }
      s.pregKeep n (mkFld 31 29 (s.core (n - 32)).state))

/-- SPR_STAT (R408). -/
def State.sprStat (s : State) : Word :=
  mkBit 31 (!s.spr.marked.isEmpty && !s.spr.mapped) ||| mkBit 30 s.spr.mapped ||| mkBit 29 s.spr.swap.isSome
    ||| mkFld 28 16 (match s.spr.marked with | m :: _ => m.row | [] => 0) ||| mkFld 15 0 (s.fld Reg.SPR_STAT 15 0)

def execCoreMemoryError (c : Fin 9) (unc : Bool) (s : State) : Host.Outcome State Fault Refusal := .next (coreMemoryError c unc s)
def execSpareCoreLoaded (read : Bool) (s : State) : Host.Outcome State Fault Refusal := .next (spareCoreLoaded read s)
def execHallRowCopyDone (s : State) : Host.Outcome State Fault Refusal := .next (hallRowCopyDone s)
def execHallMapDone (s : State) : Host.Outcome State Fault Refusal := .next (hallMapDone s)
def execTrendPeriodEnd (s : State) : Host.Outcome State Fault Refusal := .next (trendPeriodEnd s)
def execStateWriteRetry (s : State) : Host.Outcome State Fault Refusal := .next (stateWriteRetry s)

end Sys2Proof.Machine
end

