-- ==== Sys2Proof/Machine/Modes.lean ====
section
/-! DEFINITION. The operating modes (R339 to R358): RESET and its sources, requests of MID 0, the persistent attempt counter, the
NV-write guard, and MINIMAL. -/

namespace Sys2Proof.Machine

/-! ## SYS_MODE -/

/-- SYS_MODE changes: it shows the cycle, the previous mode and the mode, and SYS_EVT.MODECHG is set; on a change to a mode without laws
the PWM groups stop (R340, R341, R359). -/
def State.setMode (s : State) (m : Nat) : State :=
  if s.mode = m then s
  else
    let s := (s.wr Reg.SYS_MODE (mkFld 31 16 s.cycLo ||| mkFld 7 4 s.mode ||| mkFld 3 0 m)).orBits Reg.SYS_EVT (bitW 31)
    if s.lawsRun then s else s.pwmStopAll

/-- The flight in progress, 15 once flight 5 has passed (R349). -/
def State.flight (s : State) : Nat := s.fld Reg.SYS_BOOT 31 28
def State.setFlight (s : State) (n : Nat) : State := s.setFld Reg.SYS_BOOT 31 28 n

/-- The slot of this start: 0 A, 1 B. -/
def State.slot (s : State) : Nat := s.fld Reg.SYS_BOOT 27 27

/-- SYS_RUNT: milliseconds in RUN without a break (R354). -/
def State.runMs (s : State) : Nat := if s.mode = mRUN then min 4294967295 ((s.tb.tick - s.sys.runTick) / 400000) else 0

/-! ## RESET (R343 to R346) -/

/-- Lane n as its persistent word holds it; GAL_LSTATEn reads the stored code, and codes 5 to 7 act as failed (R56, R379). -/
def State.laneFromWord (s : State) (n : Nat) : State :=
  let w := s.preg (8 + n)
  s.setLane n { state := wFld w 31 29, cause := wFld w 27 24, cycLo := wFld w 15 0 }

/-- Core c as its persistent word holds it (R271, R379). -/
def State.coreFromWord (s : State) (c : Nat) : State := s.setCore c { state := min 4 (wFld (s.preg (32 + c)) 31 29) }

/-- Every field takes its reset value; the persistent store and the Hall are kept, and capture DRAM becomes undefined (R8, R344). -/
def State.fresh (s : State) (cause active : Word) : State :=
  let t : State := { pending := s.pending, free := s.free + 1, pv := s.pv, hall := s.hall, cap := { epoch := s.free },
                     sys := { guard := s.sys.guard, active := active } }
  let t := t.each (List.range 18) (fun n t => t.laneFromWord n)
  let t := t.each (List.range 9) (fun c t => t.coreFromWord c)
  t.wr Reg.SYS_RST_CAUSE cause

/-- A reset source acts: the device enters RESET, or the source is recorded as well; held: it stays active until it is released (R343). -/
def State.enterReset (s : State) (bit : Nat) (held : Bool) : State :=
  if s.mode = mOFF then s
  else if s.mode = mRESET then
    { s.orBits Reg.SYS_RST_CAUSE (bitW bit) with sys := { s.sys with active := s.sys.active ||| mkBit bit held } }
  else s.fresh (bitW bit) (mkBit bit held)

/-- PORn is asserted (R341). -/
def porAssert (s : State) : State := if s.mode = mOFF then s else (s.fresh 0 0).wr Reg.SYS_MODE 0

/-- PORn is released (R341, R343). -/
def porRelease (s : State) : State := if s.mode = mOFF then s.fresh (bitW 31) 0 else s

def resetnAssert (s : State) : State := s.enterReset 30 true
def vio33Low (s : State) : State := s.enterReset 29 true

/-- RESETn has been held until the reset timer reached 5 s: one write of the long-press flag, which the guard may refuse (R345). -/
def longPress (s : State) : State :=
  if s.mode = mRESET ∧ wBit s.sys.active 30 then
    ((s.orBits Reg.SYS_RST_CAUSE (bitW 24)).pregWrite 0 (wSetBit (s.preg 0) 31 true)).1
  else s

/-- The Root watchdog expires: the Root heartbeat stops (R343). -/
def watchdogExpire (s : State) : State :=
  if s.mode = mOFF ∨ s.mode = mRESET then s else { s with sys := { s.sys with wdog := true } }

/-- 10 ms after the expiry (R343). -/
def watchdogReset (s : State) : State := if s.sys.wdog then s.enterReset 28 false else s

/-- The reference has been lost for 100 ms, in a mode from BOOT onward (R194, R343, R358). -/
def refclkReset (s : State) : State := if s.tb.lost && decide (mBOOT ≤ s.mode) then s.enterReset 25 false else s

/-- The last active source releases (R344). -/
def resetSourceRelease (s : State) : State := { s with sys := { s.sys with active := 0 } }

/-- Flight 0 clears the Hall with its ECC (R344, R349). -/
def State.clearHall (s : State) : State := { s with hall := {} }

/-- Flight 0 reads the fuses (R349, R369). -/
def State.readFuses (s : State) : State :=
  { s with sys := { s.sys with fuse := s.pv.fuse, kh0 := s.pv.kh0, kh1 := s.pv.kh1 } }

/-- The reset extension ends, no earlier than the PLL's lock; flight 0 of BOOT clears the Hall, reads the fuses and repairs the listed
DRAM rows, and flight 1 is next (R344, R349, R369, R405). -/
def resetExtensionEnd (s : State) : State :=
  if s.mode = mRESET ∧ s.sys.active = 0 ∧ s.tb.running = true then (((s.setMode mBOOT).clearHall.readFuses).dramRepairAll).setFlight 1
  else s

/-! ## Requests of MID 0 (R348, R354, R356) -/

/-- Some group is RELEASED or in SS1 in either channel (R356). -/
def State.groupOn (s : State) : Bool := [false, true].any (fun b => (s.saf? b).grps.any SafGrp.on)

/-- The attempt counter is cleared; a refused clear is repeated (R354). -/
def State.attClear (s : State) : State :=
  let r := s.pregWrite 0 (wSetFld (s.preg 0) 3 0 0)
  { r.1 with sys := { r.1.sys with attRetry := !r.2 } }

/-- A write of SYS_CTRL with SWRST (R348). -/
def State.softReset (s : State) (v : Word) : State :=
  if wFld v 15 8 ≠ 0xC3 ∨ s.anyReleased = true then s.orBits Reg.SYS_EVT (bitW 29) else s.enterReset 27 false

/-- A write of SYS_CTRL with MGO (R356, R357). -/
def State.modeRequest (s : State) (m : Nat) : State :=
  if m = mMAINTENANCE ∧ (s.mode = mLISTEN ∨ s.mode = mINTEGRATE ∨ s.mode = mSTANDBY ∨ (s.mode = mRUN ∧ s.groupOn = false)) then
    s.reqMode mMAINTENANCE
  else if m = mLISTEN ∧ s.mode = mMAINTENANCE then s.reqMode mCONFIGURE
  else s.orBits Reg.SYS_EVT (bitW 30)

/-- A write of SYS_CTRL by MID 0: MREQ is stored; a software reset that is accepted ends it, else the mode request and the attempt clear
follow (R348, R354, R356). -/
def State.sysCtrl (s : State) (v : Word) : State :=
  let s := s.setFld Reg.SYS_CTRL 3 0 (wFld v 3 0)
  if wBit v 31 && wFld v 15 8 == 0xC3 && !s.anyReleased then s.softReset v
  else
    let s := s.when (wBit v 31) (fun s => s.softReset v)
    let s := s.when (wBit v 30) (fun s => s.modeRequest (wFld v 3 0))
    s.when (wBit v 29) State.attClear

/-- SYS_RUNT reaches 60,000 ms (R354). -/
def runTimeClear (s : State) : State := if s.mode = mRUN ∧ 60000 ≤ s.runMs then s.attClear else s

/-- A refused clear of the attempt counter is repeated (R354). -/
def attClearRetry (s : State) : State := if s.sys.attRetry then s.attClear else s

/-- The NV-write guard (R376). -/
def nvGuardEngage (s : State) : State := { s with sys := { s.sys with guard := true } }
def nvGuardRelease (s : State) : State := { s with sys := { s.sys with guard := false } }

/-! ## Windows (R287) -/

/-- A write of a window's CTRL puts its four values in force (R285, R287). -/
def State.winApply (s : State) (k : Nat) : State :=
  let z := s.fld (Reg.PRT_WIN_CTRL k) 5 0
  s.setWin k { base := (s.rd (Reg.PRT_WIN_BASE k)).toNat / 2 ^ z * 2 ^ z, size := z,
               valid := s.bit (Reg.PRT_WIN_CTRL k) 31 && decide (12 ≤ z ∧ z ≤ 32),
               rmask := s.rd (Reg.PRT_WIN_RMASK k), wmask := s.rd (Reg.PRT_WIN_WMASK k) }

/-- The Root core writes a window whole. -/
def State.winPut (s : State) (k base size : Nat) (rmask wmask : Word) : State :=
  let s := (s.wr (Reg.PRT_WIN_BASE k) (word base)).wr (Reg.PRT_WIN_CTRL k) (bitW 31 ||| word size)
  ((s.wr (Reg.PRT_WIN_RMASK k) rmask).wr (Reg.PRT_WIN_WMASK k) wmask).winApply k

/-! ## Failures of a start, and MINIMAL (R350, R355) -/

/-- A flight fails: the cause is stored and logged, and the device enters RESET (R350). -/
def State.bootFail (s : State) (cause : Word) : State := (((s.pregWrite 2 cause).1).logRecord cause).enterReset 26 false

/-- Recovery port e and its landing 2 + e from the persistent words (R355, R379). -/
def State.recoveryPort (s : State) (e : Nat) : State :=
  let w (i : Nat) : Word := s.preg (48 + 8 * e + i)
  let s := (s.wr (Reg.HST_ETH_CFG e) (bitW 31 ||| ((w 5 >>> 1) &&& maskW 30 29) ||| mkFld 15 0 (wFld (w 4) 15 0))).wr (Reg.HST_ETH_MACLO e) (w 0)
  let s := (s.wr (Reg.HST_ETH_MACHI e) (w 1 &&& maskW 15 0)).wr (Reg.HST_ETH_IP4 e) (w 2)
  (s.wr (Reg.HST_LAND_PEER (2 + e)) (w 3)).wr (Reg.HST_LAND_PPORT (2 + e)) (word (wFld (w 4) 31 16))

/-- What the Root core sets up in MINIMAL: landings, ports, windows and mailboxes (R355). -/
def State.setUpMinimal (s : State) : State :=
  let s := s.each (List.range 4) (fun h s => s.wr (Reg.HST_LAND_CFG h) (bitW 31 ||| mkFld 29 28 h))
  let s := s.each (List.range 2) (fun e s => s.recoveryPort e)
  let s := ((s.winPut 0 0x40000000 16 0xF0000 0).winPut 1 0x40040000 16 0xF0000 0).winPut 2 0x40200000 16 0xF0000 0
  let s := s.each (List.range 4) (fun h s => s.winPut (3 + h) (hallBase + 0x40000 * h) 18 (bitW (16 + h)) (bitW (16 + h)))
  s.each (List.range 4) (fun h s =>
    (s.wr (Reg.MBX_CH_BIND h) (bitW 31 ||| mkFld 20 16 (16 + h))).wr (Reg.MBX_CH_BIND (4 + h)) (bitW 31 ||| mkFld 4 0 (16 + h)))

/-- Entry into MINIMAL: the cause is stored and logged, then the Root core sets it up (R349, R355, R380). -/
def State.enterMinimal (s : State) (cause : Word) : State :=
  let s := ((s.pregWrite 2 cause).1).logRecord cause
  let s := (s.setMode mMINIMAL).setBit Reg.SYS_BOOT 26 true
  { s with hst := { s.hst with pciIds := (List.range 8).map Config.bootPciId } }.setUpMinimal

def execPorAssert (s : State) : Host.Outcome State Fault Refusal := .next (porAssert s)
def execPorRelease (s : State) : Host.Outcome State Fault Refusal := .next (porRelease s)
def execResetnAssert (s : State) : Host.Outcome State Fault Refusal := .next (resetnAssert s)
def execLongPress (s : State) : Host.Outcome State Fault Refusal := .next (longPress s)
def execVio33Low (s : State) : Host.Outcome State Fault Refusal := .next (vio33Low s)
def execWatchdogExpire (s : State) : Host.Outcome State Fault Refusal := .next (watchdogExpire s)
def execWatchdogReset (s : State) : Host.Outcome State Fault Refusal := .next (watchdogReset s)
def execRefclkReset (s : State) : Host.Outcome State Fault Refusal := .next (refclkReset s)
def execResetSourceRelease (s : State) : Host.Outcome State Fault Refusal := .next (resetSourceRelease s)
def execResetExtensionEnd (s : State) : Host.Outcome State Fault Refusal := .next (resetExtensionEnd s)
def execRunTimeClear (s : State) : Host.Outcome State Fault Refusal := .next (runTimeClear s)
def execAttClearRetry (s : State) : Host.Outcome State Fault Refusal := .next (attClearRetry s)
def execNvGuardEngage (s : State) : Host.Outcome State Fault Refusal := .next (nvGuardEngage s)
def execNvGuardRelease (s : State) : Host.Outcome State Fault Refusal := .next (nvGuardRelease s)

end Sys2Proof.Machine
end

