-- ==== Sys2Proof/Machine/Bus.lean ====
section
/-! DEFINITION. Register accesses over the bus (R3 to R7, R283 to R287): what a write of each register does, and what a read returns. -/

namespace Sys2Proof.Machine

/-! ## Access codes (R6, R7) -/

/-- An ignored write to an LK register is counted. -/
def State.lkDeny (s : State) (m : Nat) : State :=
  s.wr Reg.SYS_LK_DENY (mkFld 28 24 m ||| mkFld 23 0 (s.fld Reg.SYS_LK_DENY 23 0 + 1))

/-- The fields of a row that some write can change. -/
def RegRow.writable (r : RegRow) : Nat := r.rw ||| r.w1c ||| r.w1s ||| r.wo

/-- The LK rule for a write of v by MID m: what is left of the write, if anything is. A register of LK fields alone ignores the write; beside
other fields the LK fields stay unchanged, and the write counts only where it would have changed one (R6, R7). -/
def State.lkFilter (s : State) (m a : Nat) (r : RegRow) (v : Word) : Option Word × State :=
  let lk := r.lk &&& r.writable
  if m = 0 ∨ lk = 0 then (some v, s)
  else if lk = r.writable then (none, s.lkDeny m)
  else
    let old := s.rd a
    let bad := decide (v &&& word (lk &&& (r.w1c ||| r.w1s ||| r.wo)) ≠ 0 ∨ (v ^^^ old) &&& word (lk &&& r.rw) ≠ 0)
    (some ((v &&& ~~~ word lk) ||| (old &&& word (lk &&& r.rw))), if bad then s.lkDeny m else s)

/-- The plain effect of a write: RW fields take the value, W1C bits clear, the rest stays (R6). -/
def State.putReg (s : State) (a : Nat) (r : RegRow) (v : Word) : State :=
  s.wr a (((s.rd a &&& ~~~ word r.rw) ||| (v &&& word r.rw)) &&& ~~~ (v &&& word r.w1c))

/-- A register that can be written only in CONFIGURE and MAINTENANCE. -/
def State.putOpen (s : State) (a : Nat) (r : RegRow) (v : Word) : State := if s.imageOpen then s.putReg a r v else s

/-- The interrupt source whose event or enable register is at address a (R273). -/
def irqSource (a : Nat) : Option Nat :=
  if a = Reg.GAL_EVT ∨ a = Reg.GAL_IEN then some 0
  else if a = Reg.LRN_EVT ∨ a = Reg.LRN_IEN then some 1
  else if a = Reg.FBK_EVT ∨ a = Reg.FBK_IEN then some 2
  else if a = Reg.PWM_EVT ∨ a = Reg.PWM_IEN then some 3
  else if a = Reg.TB_EVT ∨ a = Reg.TB_IEN then some 16
  else if a = Reg.FIO_EVT ∨ a = Reg.FIO_IEN then some 18
  else if a = Reg.CAP_EVT ∨ a = Reg.CAP_IEN then some 19
  else if a = Reg.TSU_EVT ∨ a = Reg.TSU_IEN ∨ a = Reg.TSU_IRQLOST then some 20
  else if 0x40020000 ≤ a ∧ a < 0x4002C000 then
    let o := a % 0x1000
    if o = 0x018 ∨ o = 0x01C ∨ o = 0x804 ∨ o = 0x808 ∨ o = 0x904 ∨ o = 0x908 ∨ o = 0xA0C ∨ o = 0xA10 then some ((a - 0x40020000) / 0x1000 + 4)
    else none
  else none

/-- After a write the level of the register's source is delivered again; what is held in TSU_IRQLOST stands again while it lasts (R6, R273,
R274). -/
def State.settleAt (s : State) (a : Nat) : State :=
  match irqSource a with
  | some n => if n = 20 then s.each (List.range 21) (fun k s => if k = 17 then s else s.irqSettle k) else s.irqSettle n
  | none => s

/-- The W1C bits of the register at address a whose conditions are present now: a source at a soft limit, a delay line out of calibration, the
diagnostics of an output, the field supply, the link to the field die, an enabled input edge, and a lost reference (R6; log entry 74). -/
def State.standing (s : State) (a : Nat) : Word :=
  let limited (n : Nat) : Bool := s.bit (Reg.SRC_STAT n) 28 || s.bit (Reg.SRC_STAT n) 29
  if a = Reg.FBK_EVT then mkBit 31 ((List.range 576).any limited)
  else if 0x40074000 ≤ a ∧ a < 0x4007D000 ∧ a % 0x40 = 0 then mkBit 15 (limited ((a - 0x40074000) / 0x40))
  else if a = Reg.PWM_EVT then mkBit 30 ((List.range 8).any (fun g => s.bit (Reg.PWM_GRP_STAT g) 26))
  else if a = Reg.TB_EVT then mkBit 31 s.tb.lost
  else if a = Reg.FIO_EVT then
    mkBit 31 (s.bit Reg.FIO_STAT 30) ||| mkBit 30 (s.fio.vfld == 2) ||| mkBit 29 (s.bit Reg.FIO_STAT 28 && !s.bit Reg.FIO_STAT 27)
      ||| mkBit 26 (decide (((s.rd Reg.FIO_DI_RISE &&& 0xFFFF) <<< 16 ||| (s.rd Reg.FIO_DI_FALL &&& 0xFFFF)) &&& s.rd Reg.FIO_DI_IEN ≠ 0))
  else if 0x400E0140 ≤ a ∧ a < 0x400E01C0 ∧ a % 0x10 = 4 then s.fio.standing ((a - 0x400E0140) / 0x10)
  else 0

/-- The bits that a write cleared while their conditions are present are set again in the same tick (R6). -/
def State.restand (s : State) (a : Nat) (r : RegRow) (v : Word) : State := s.orBits a (v &&& word r.w1c &&& s.standing a)

/-- A register without an effect of its own. -/
def State.putPlain (s : State) (a : Nat) (r : RegRow) (v : Word) : State := ((s.putReg a r v).restand a r v).settleAt a

/-! ## Writes, block by block -/

/-- SYS (R359). -/
def State.sysWrite (s : State) (a : Nat) (r : RegRow) (v : Word) : State := if a = Reg.SYS_CTRL then s.sysCtrl v else s.putPlain a r v

/-- TB (R211). -/
def State.tbWrite (s : State) (a : Nat) (r : RegRow) (v : Word) : State :=
  if a = Reg.TB_SNAP then s.snapGo v
  else if a = Reg.TB_CTRL then s.tbCtrl v
  else if a = Reg.TB_OFS_FRAC then s.ofsFrac v
  else if a = Reg.TB_SRV_CFG then s.srvCfg v
  else if a = Reg.TB_PPS_CFG then s.ppsCfg v
  else if a = Reg.TB_ETH_TXQPOP 0 then s.txqPop 0 v
  else if a = Reg.TB_ETH_TXQPOP 1 then s.txqPop 1 v
  else s.putPlain a r v

/-- TRN (R165, R180, R192). -/
def State.trnWrite (s : State) (a : Nat) (r : RegRow) (v : Word) : State :=
  let n := (a - 0x40020000) / 0x1000
  let o := a % 0x1000
  if o = 0x800 ∨ o = 0x900 then s.putOpen a r v
  else if o = 0x030 then s.svcTxctl n v
  else s.putPlain a r v

/-- GAL_CTRL (R78, R83). -/
def State.galCtrl (s : State) (v : Word) : State :=
  let s := s.setFld Reg.GAL_CTRL 4 0 (wFld v 4 0)
  let s := s.when (wBit v 30) State.minClr
  s.when (wBit v 31) (fun s => s.retireLane (wFld v 4 0))

/-- GAL (R74, R76, R84). -/
def State.galWrite (s : State) (a : Nat) (r : RegRow) (v : Word) : State :=
  if a = Reg.GAL_CTRL then s.galCtrl v
  else if a = Reg.GAL_CHK then s.galChkStart v
  else if Reg.GAL_PROG 0 ≤ a then s.putOpen a r v
  else s.putPlain a r v

/-- LRN_CTRL: UHOLD, IOFF and ZERO (R90, R95, R96). -/
def State.lrnCtrl (s : State) (n : Nat) (v : Word) : State :=
  (s.setFld (Reg.LRN_CTRL n) 1 0 (wFld v 1 0)).when (wBit v 2) (fun s => s.lrnZeroReq n)

/-- LRN (R99). -/
def State.lrnBlockWrite (s : State) (a : Nat) (r : RegRow) (v : Word) : State :=
  if a < 0x40061000 then s.putPlain a r v
  else
    let o := a % 0x40
    if o < 0x10 then s.putOpen a r v
    else if o = 0x1C then s.lrnCtrl ((a - 0x40061000) / 0x40) v
    else s.putPlain a r v

/-- FBK (R102, R113, R125). -/
def State.fbkWrite (s : State) (a : Nat) (r : RegRow) (v : Word) : State :=
  let cfg (n : Nat) : State := if s.imageOpen then (s.putReg a r v).bindSource n else s
  if a = Reg.FBK_DSMCLK then s.dsmClk (fun s => s.putOpen a r v)
  else if 0x40070400 ≤ a ∧ a < 0x40071000 then s.putOpen a r v
  else if a < 0x40071000 then s.putPlain a r v
  else if a < 0x40072000 then (if a % 0x20 < 0x14 then cfg ((a - 0x40071000) / 0x20) else s.putOpen a r v)
  else if a < 0x40074000 then cfg (16 + (a - 0x40072000) / 4)
  else if a < 0x4007D000 then
    let n := (a - 0x40074000) / 0x40
    if a % 0x40 = 0x18 then s.originPair n v else if a % 0x40 = 0x20 then s.limitPair n v else s.putPlain a r v
  else if a < 0x4007E000 then (if a % 0x10 = 0 then s.putOpen a r v else s.putPlain a r v)
  else
    let m := (a - 0x4007E000) / 0x20
    if a % 0x20 = 0x00 then s.ptCfg m (fun s => s.putOpen a r v)
    else if a % 0x20 = 0x04 then (s.putReg a r v).ptMul m
    else if a % 0x20 = 0x08 ∨ a % 0x20 = 0x0C then (s.putOpen a r v).ptZ m
    else s.putPlain a r v

/-- PWM (R130 to R132, R140, R142). -/
def State.pwmWrite (s : State) (a : Nat) (r : RegRow) (v : Word) : State :=
  if a = Reg.PWM_START then s.eachGrp v (fun g s => s.pwmStart1 g)
  else if a = Reg.PWM_STOP then s.eachGrp v (fun g s => s.pwmStop1 g)
  else if a = Reg.PWM_LOADALL then s.when (wBit v 0) State.loadAll
  else if a = Reg.PWM_EVT then (((s.putReg a r v).restand a r v).tripHold).settleAt a
  else if a < 0x40080100 then s.putPlain a r v
  else
    let g := (a - 0x40080100) / 0x40
    let o := a % 0x40
    if o ≤ 0x08 then s.grpCfgWrite g a (word r.rw) v
    else if o = 0x0C then s.grpCtrlWrite g v
    else if o = 0x10 then s.dtWrite g v
    else if o = 0x1C then s.shadowWrite g false v
    else if o = 0x20 then s.shadowWrite g true v
    else if o = 0x2C then (s.putReg a r v).tripHold
    else s.putPlain a r v

/-- TSU, by MID m (R264 to R275, R281). -/
def State.tsuWrite (s : State) (m a : Nat) (r : RegRow) (v : Word) : State :=
  if a = Reg.TSU_PWR then s.pwrWrite v
  else if a = Reg.TSU_SUB_ARG ∨ a = Reg.TSU_SUB_ENTRY ∨ a = Reg.TSU_SUB_RES then s.wr (midKey m a) v
  else if a = Reg.TSU_SUB_CTL then s.submit m v
  else if a = Reg.TSU_DONE then s.doneWrite m v
  else if 0x40090200 ≤ a ∧ a < 0x40090400 then
    let c := (a - 0x40090200) / 0x20
    let o := a % 0x20
    if o = 0x08 then s.setCore c { s.core c with safIrq := (s.core c).safIrq && !wBit v 17 }
    else if o = 0x0C then (s.putReg a r v).wakeCore c
    else if o = 0x00 then (s.putReg a r v).offerJob c
    else s.putReg a r v
  else s.putPlain a r v

/-- MBX, by MID m (R314 to R319). -/
def State.mbxWrite (s : State) (m a : Nat) (r : RegRow) (v : Word) : State :=
  if a = Reg.MBX_WAITSEL then s.wr (midKey m a) (v &&& word r.rw)
  else if a < 0x400A0100 then s.putPlain a r v
  else
    let n := (a - 0x400A0100) / 0x20
    let o := a % 0x20
    if o = 0x00 then s.bind n v
    else if o = 0x04 then s.dbClear m n v
    else if o = 0x08 then s.dbSet m n v
    else if o = 0x0C then s.dbMask m n v
    else if o = 0x10 then s.descStage m n v
    else if o = 0x14 then s.descPost m n v
    else if o = 0x1C then s.descAck m n v
    else s.putPlain a r v

/-- The per-MID registers of HST (R309, R320). -/
def State.hostWrite (s : State) (m a : Nat) (r : RegRow) (v : Word) : State :=
  match hostOf m with
  | none => s
  | some _ =>
    if a = Reg.HST_IMG_RELEASE then s.imgRelease m v
    else if a = Reg.HST_COMMIT then s.commitWrite m v
    else if a = Reg.HST_COMMIT_CYC then s.wr (midKey m a) v
    else if a = Reg.HST_COMMIT_STAT then s.wr (midKey m a) (s.rd (midKey m a) &&& ~~~ (v &&& word r.w1c))
    else if Reg.HST_STG_MARK 0 ≤ a then s.stgWrite m a v
    else s

/-- HST, by MID m (R320). -/
def State.hstWrite (s : State) (m a : Nat) (r : RegRow) (v : Word) : State :=
  if 0x400B0800 ≤ a then s.hostWrite m a r v
  else if r.img ≠ 0 then s.putOpen a r v
  else s.putPlain a r v

/-- PRT (R287). -/
def State.prtWrite (s : State) (a : Nat) (r : RegRow) (v : Word) : State :=
  let s := s.putPlain a r v
  if 0x400C0100 ≤ a ∧ a % 0x10 = 0x04 then s.winApply ((a - 0x400C0100) / 0x10) else s

/-- CAP (R329 to R338). -/
def State.capBlockWrite (s : State) (a : Nat) (r : RegRow) (v : Word) : State :=
  if a < 0x400D0100 then s.putPlain a r v
  else if a < 0x400D0500 then
    let n := (a - 0x400D0100) / 0x40
    let o := a % 0x40
    if o < 0x20 then s.capCfgWrite n a (word r.rw) v
    else if o = 0x20 then s.capCtrl n v
    else s.putPlain a r v
  else if 0x400D0800 ≤ a ∧ a < 0x400D0A00 then s.capCfgWrite ((a - 0x400D0800) / 0x20) a (word r.rw) v
  else s.putPlain a r v

/-- FIO (R249 to R261). -/
def State.fioWrite (s : State) (a : Nat) (r : RegRow) (v : Word) : State :=
  if a = Reg.FIO_CTRL then s.fioCtrl v
  else if a = Reg.FIO_DO_CMD then s.doCmd v
  else if a = Reg.FIO_DO_SET then s.doSet v
  else if a = Reg.FIO_DO_CLR then s.doClr v
  else if a = Reg.FIO_DO_UNLATCH then s.doUnlatch v
  else if (0x400E0040 ≤ a ∧ a < 0x400E0080) ∨ a = Reg.FIO_DO_CFG ∨ a = Reg.FIO_DO_SAFE ∨ (0x400E0140 ≤ a ∧ a % 0x10 = 0) then
    s.fioCfgWrite a (word r.rw) v
  else
    let again := decide (0x400E0140 ≤ a ∧ v &&& word r.w1c &&& s.standing a ≠ 0)
    (s.putPlain a r v).when again (fun s => s.fioEvt 27)

/-- LAW (R50, R51, R53). -/
def State.lawWrite (s : State) (a : Nat) (r : RegRow) (v : Word) : State :=
  let n := (a - 0x40100000) / 0x400
  let o := a % 0x400
  if o < 0x20 then s.putOpen a r v
  else if o = 0xC0 then s.stgCtrl n v
  else if o = 0xCC ∨ o = 0xD0 ∨ o = 0xD4 then s.stagedWrite n a true v
  else if 0x100 ≤ o ∧ o < 0x200 then s.stagedWrite n a false (v &&& word r.rw)
  else s.putPlain a r v

/-- A write of persistent word n by MID m: words 0 to 511 are LK (R376, R379). -/
def State.pregBusWrite (s : State) (m n : Nat) (v : Word) : State :=
  if n < 512 ∧ m ≠ 0 then s.lkDeny m else (s.pregWrite n v).1

/-- PREG, by MID m (R375, R380). -/
def State.pregBlockWrite (s : State) (m a : Nat) (r : RegRow) (v : Word) : State :=
  if a < 0x40202000 then s.pregBusWrite m ((a - 0x40200000) / 4) v else s.putPlain a r v

/-- The effect of a write of v by MID m that LK and the windows allow, in the register at address a (R282). -/
def State.blockWrite (s : State) (m a : Nat) (r : RegRow) (v : Word) : State :=
  match a / 65536 with
  | 0x4000 => s.sysWrite a r v
  | 0x4001 => s.tbWrite a r v
  | 0x4002 => s.trnWrite a r v
  | 0x4003 => if a = Reg.PAIR_CTRL then s.pairCtrl v else s.putPlain a r v
  | 0x4004 => if a = Reg.SPR_CTRL then s.sprCtrl v else s.putPlain a r v
  | 0x4005 => s.galWrite a r v
  | 0x4006 => s.lrnBlockWrite a r v
  | 0x4007 => s.fbkWrite a r v
  | 0x4008 => s.pwmWrite a r v
  | 0x4009 => s.tsuWrite m a r v
  | 0x400A => s.mbxWrite m a r v
  | 0x400B => s.hstWrite m a r v
  | 0x400C => s.prtWrite a r v
  | 0x400D => s.capBlockWrite a r v
  | 0x400E => s.fioWrite a r v
  | 0x400F => s
  | 0x4020 => s.pregBlockWrite m a r v
  | _ => s.lawWrite a r v

/-- A register write that the windows allow: LK, then its effect; an offset that is not listed ignores it (R5 to R7). -/
def State.regWrite (s : State) (m a : Nat) (v : Word) : State :=
  match regRow? a with
  | none => s
  | some r =>
    if a / 65536 = 0x4020 then s.pregBlockWrite m a r v
    else match s.lkFilter m a r v with
      | (some v, s) => s.blockWrite m a r v
      | (none, s) => s

/-- A core whose access is refused takes an access-fault exception (R284, R376, R430). -/
def State.coreFault (s : State) (m : Nat) : State :=
  if m ≤ 9 then s.setCore (midCore m) { s.core (midCore m) with exc := some .accessFault } else s

/-- An access of MID m is refused: recorded, and answered; a PCI Express host's read is completed with Completer Abort, or, outside every region,
with Unsupported Request, and its write is discarded (R284). -/
def State.refuse (s : State) (m a : Nat) (write : Bool) (kind : Nat) : State :=
  let s := (s.deny m a write kind).coreFault m
  if write then s else s.complete m (if kind = 2 then .unsupported else .abort)

/-- Whether a register write of MID m at address a is refused by the NV-write guard (R376). -/
def State.guardRefuses (s : State) (m a : Nat) : Bool :=
  s.sys.guard && decide (0x40200000 ≤ a ∧ a < 0x40202000) && (m == 0 || decide (0x40200800 ≤ a))

/-- A register write that the windows allow; one that the guard refuses answers as one refused by the windows, unrecorded (R376). -/
def State.guardedWrite (s : State) (m a : Nat) (v : Word) : State :=
  let t := s.regWrite m a v
  if s.guardRefuses m a then t.coreFault m else t

/-- A register write of n bytes by MID m at address a (R3, R283 to R285). -/
def State.busWrite (s : State) (m a n : Nat) (v : Word) : State :=
  if !s.issues m a true then s
  else match s.busCheck m a n true with
  | some k => s.refuse m a true k
  | none => s.guardedWrite m a v

/-- An aligned 32-bit access of MID m to a listed register, whose effect is f where the windows allow it (R283 to R285). -/
def State.regAccess (s : State) (m a : Nat) (write : Bool) (f : State → State) : State :=
  if !s.issues m a write then s else if s.allowed m a 4 write then f s else s.refuse m a write 1

/-- The same for a register of LK fields alone (R6). -/
def State.lkAccess (s : State) (m a : Nat) (f : State → State) : State :=
  s.regAccess m a true (fun s => if m = 0 then f s else s.lkDeny m)

/-! ## Reads -/

/-- GAL_STAT: lanes in service, spare lanes, the lowest marked lane (R84). -/
def State.galStat (s : State) : Word :=
  let st (n : Nat) : Nat := (s.lane n).state
  mkFld 28 24 (countN 18 (fun n => st n == 0 || st n == 2)) ||| mkFld 20 16 (countN 18 (fun n => st n == 1))
    ||| mkFld 12 8 ((lowest 18 (fun n => st n == 2)).getD 31) ||| (s.rd Reg.GAL_STAT &&& maskW 4 0)

/-- SPR_RES0 and SPR_RES1 (R408). -/
def State.sprRes0 (s : State) : Word :=
  mkFld 25 24 (countN 18 (fun n => (s.lane n).state == 1)) ||| mkFld 16 16 (countN 9 (fun c => (s.core c).state == 1)) ||| mkFld 8 0 s.hallSpares
def State.sprRes1 (s : State) : Word :=
  let open' := (List.range 12).foldl (fun k n => if s.segEn n then k + countN 32 (s.slotOpen n) else k) 0
  mkFld 31 23 s.pv.spares ||| mkFld 22 16 s.pv.dramSpares ||| mkFld 6 0 open'

/-- Fuse flags as PREG_FUSE shows them (R369). -/
def State.fuseView (s : State) : Word :=
  (s.sys.fuse &&& maskW 31 29) ||| mkBit 28 (s.sys.kh1 != 0) ||| mkBit 27 (s.sys.kh0 != 0)

/-- What a listed register shows to MID m, where it shows more than the value it holds. -/
def State.blockView (s : State) (m a : Nat) : Option Word :=
  match a / 65536 with
  | 0x4000 =>
    if a = Reg.SYS_BOOT then some (wSetFld (s.rd a) 19 16 (wFld (s.preg 0) 3 0))
    else if a = Reg.SYS_BOOT_CAUSE then some (s.preg 2)
    else if a = Reg.SYS_RUNT then some (word s.runMs)
    else none
  | 0x4001 =>
    if a = Reg.TB_CYC then some s.tb.cyc
    else if a = Reg.TB_CTICK then some (word s.tb.ctick)
    else if 0x40010100 ≤ a then
      let e := (a - 0x40010100) / 0x40
      let o := a % 0x40
      if o = 0x04 ∨ o = 0x08 ∨ o = 0x0C then some (s.txqView e (o / 4 - 1))
      else if o = 0x14 then some (wSetFld (s.rd a) 3 0 (s.txq e).length)
      else none
    else none
  | 0x4003 => if a = Reg.PAIR_STAT then some s.pairStat else if a = Reg.PAIR_ABS then some (word s.pairAbs) else none
  | 0x4004 =>
    if a = Reg.SPR_RES0 then some s.sprRes0
    else if a = Reg.SPR_RES1 then some s.sprRes1
    else if a = Reg.SPR_STAT then some s.sprStat
    else if a = Reg.SPR_LOG then some (s.preg 64)
    else if a = Reg.SPR_SPCNT then some (word (wFld (s.preg 64) 31 16))
    else if a = Reg.SPR_DSTAT then some (wSetFld (s.rd a) 6 0 s.pv.dramPend.length)
    else if 0x40040100 ≤ a ∧ a < 0x40040400 then some (s.preg (80 + (a - 0x40040100) / 4))
    else if 0x40040400 ≤ a ∧ a < 0x40040800 then some (s.preg (208 + (a - 0x40040400) / 4))
    else if 0x40040800 ≤ a then some (s.hmap ((a - 0x40040800) / 4))
    else none
  | 0x4005 =>
    if a = Reg.GAL_STAT then some s.galStat
    else if 0x40050100 ≤ a ∧ a < 0x40058000 ∧ a % 0x20 = 0 then
      let l := s.lane ((a - 0x40050100) / 0x20)
      some (Machine.laneWord l ||| mkBit 16 l.job.isSome)
    else none
  | 0x4009 =>
    if a = Reg.TSU_SUB_ARG ∨ a = Reg.TSU_SUB_ENTRY ∨ a = Reg.TSU_SUB_RES ∨ a = Reg.TSU_SUB_STAT then some (s.rd (midKey m a))
    else if a = Reg.TSU_CUR_ARG then some (s.curView m false)
    else if a = Reg.TSU_CUR_ENTRY then some (s.curView m true)
    else if 0x40090040 ≤ a ∧ a < 0x40090060 then some (wSetFld (s.rd a) 10 0 (s.lvlQueued ((a - 0x40090040) / 4)))
    else if 0x40090200 ≤ a ∧ a < 0x40090400 then
      let c := (a - 0x40090200) / 0x20
      if a % 0x20 = 0x04 then some (wSetFld (s.rd a) 31 29 (s.core c).state)
      else if a % 0x20 = 0x08 then some (s.irqp c)
      else none
    else if 0x40091000 ≤ a then some (s.flowView ((a - 0x40091000) / 0x10))
    else none
  | 0x400A => if a = Reg.MBX_WAITSEL then some (s.rd (midKey m a)) else none
  | 0x400B =>
    if a = Reg.HST_IMG_STAT then some (s.imgStat m)
    else if 0x400B0810 ≤ a then some (if (hostOf m).isSome then s.rd (midKey m a) else 0)
    else none
  | 0x400D => if a = Reg.CAP_STAT then some s.capStat else none
  | 0x400F =>
    if a = Reg.SAF_STAT then some s.safStat
    else if a = Reg.SAF_IN then some s.safIn
    else if a = Reg.SAF_INDEM then some s.safIndem
    else if a = Reg.SAF_DEGT then some s.safDegt
    else if a = Reg.SAF_GRPSUM then some s.safGrpsum
    else if 0x400F0040 ≤ a ∧ a < 0x400F0080 then some (s.safGrpView ((a - 0x400F0040) / 4))
    else if 0x400F0100 ≤ a ∧ a < 0x400F0400 then some (s.safSls ((a - 0x400F0100) / 4))
    else none
  | 0x4020 =>
    if a < 0x40202000 then some (s.preg ((a - 0x40200000) / 4))
    else if a < 0x40208000 then some (s.wear ((a - 0x40204000) / 4))
    else if a = Reg.PREG_STAT then some (mkBit 31 s.sys.guard ||| mkFld 8 0 s.pv.spares)
    else if a = Reg.PREG_FUSE then some s.fuseView
    else if 0x40208020 ≤ a ∧ a < 0x40208040 then some (word (s.sys.kh0 >>> (8 * (a - 0x40208020))))
    else if 0x40208040 ≤ a then some (word (s.sys.kh1 >>> (8 * (a - 0x40208040))))
    else none
  | _ => none

/-- What a read of the register at address a returns to MID m, without the effects of the read: write-only bits read 0, reserved bits
anything, an offset that is not listed 0 (R4 to R6). -/
def State.regView (s : State) (m a : Nat) : Word :=
  match regRow? a with
  | none => 0
  | some r =>
    let shown := word (r.rw ||| r.w1c ||| r.ro)
    (((s.blockView m a).getD (s.rd a)) &&& shown) ||| (Config.reservedBits a s.free &&& ~~~ (shown ||| word r.writable))

/-- A read of a register by MID m: the value and the effects (R267, R307, R319). -/
def State.regRead (s : State) (m a : Nat) : State × Word :=
  if a = Reg.HST_IMG_LATCH then s.imgLatch m
  else if a = Reg.MBX_WAIT then s.mbxRead m
  else if a = Reg.TSU_TAKE then (s.takeRead m, if 1 ≤ m ∧ m ≤ 9 then ((s.takeRead m).core (m - 1)).readRes else 0)
  else (s.takeFree, s.regView m a)

/-! ## Memories -/

/-- What became of a bus access: done, or refused with a kind of PRT_DENY (1 windows, 2 outside every region, 3 size or alignment; R284), or failed
on an uncorrectable memory error (R430). -/
inductive BusRes where
  | done
  | refused (kind : Nat)
  | uncorr
  deriving DecidableEq, Repr

/-- n bytes of capture DRAM at an offset as a read returns them; of a word with an uncorrectable error the part returns what it read, which the
model leaves free (R405). -/
def State.dramData (s : State) (o n err : Nat) : List Byte :=
  if err = 2 then (leBytes 4 (s.resv 656).toNat ++ leBytes 4 (s.resv 657).toNat).take n else (List.range n).map (fun i => s.dramByte (o + i))

/-- An aligned 32-bit read by MID m anywhere in the address space (R3, R284, R405, R430, R431). -/
def State.busRead32 (s : State) (m a : Nat) : BusRes × Word × State :=
  match s.busCheck m a 4 false with
  | some k => (.refused k, 0, s.deny m a false k)
  | none =>
    if hallBase ≤ a ∧ a < hallBase + 0x800000 then
      if s.hallBad (a - hallBase) then (.uncorr, 0, s.hallUncorr (a - hallBase)) else (.done, s.hallWord (a - hallBase), s)
    else if dramBase ≤ a then
      let o := a - dramBase
      let e := Config.dramEcc s.free o % 3
      (.done, word (leNat (s.dramData o 4 e)), s.takeFree.dramEcc (decide (16 ≤ m)) o e)
    else if a < 0x10000 then (.done, word (leNat ((List.range 4).map (fun i => Config.bootRom (a + i)))), s)
    else
      let r := s.regRead m a
      (.done, r.2, r.1)

/-- Write bytes of capture DRAM. -/
def State.dramWrite (s : State) (a : Nat) (bs : List Byte) : State :=
  { s with cap := { s.cap with dram := (bs.foldl (fun (t : Nat × Table Byte) b => (t.1 + 1, Table.put t.2 t.1 b)) (a - dramBase, s.cap.dram)).2 } }

/-- An aligned 32-bit write by MID m anywhere in the address space; a write that the guard refuses answers as one refused by the windows. -/
def State.busWrite32 (s : State) (m a : Nat) (v : Word) : BusRes × State :=
  match s.busCheck m a 4 true with
  | some k => (.refused k, s.deny m a true k)
  | none =>
    if hallBase ≤ a ∧ a < hallBase + 0x800000 then
      if s.hallBad (a - hallBase) then (.uncorr, s.hallUncorr (a - hallBase)) else (.done, s.hallWrite (a - hallBase) (leBytes 4 v.toNat))
    else if dramBase ≤ a then (.done, s.dramWrite a (leBytes 4 v.toNat))
    else (if s.guardRefuses m a then .refused 1 else .done, s.regWrite m a v)

end Sys2Proof.Machine
end

