-- ==== Sys2Proof/Machine/Access.lean ====
section
/-! DEFINITION. Accesses to the memories: the Hall with its ECC units (R3, R430), reads of capture DRAM (R405, R432), and writes of the
persistent words (R375, R376). -/

namespace Sys2Proof.Machine

/-- The access meets an uncorrectable error in the unit of Hall offset o: the row is marked and the access fails; a PCI Express host's read is
completed with Completer Abort (R403, R430). -/
def State.hallFail (s : State) (m o : Nat) (write : Bool) : State :=
  let s := ({ s with hall := { s.hall with bad := if s.hallBad o then s.hall.bad else o / 8 :: s.hall.bad } }.hallUncorr o).coreFault m
  if write then s else s.complete m .abort

/-- An access of MID m to the Hall that nothing refuses, n bytes from offset o; bs: the bytes written, none for a read; err: what the ECC
finds where the unit is read: 1 a corrected error, 2 a new uncorrectable one (R403, R430). -/
def State.hallUnit (s : State) (m o n : Nat) (bs : Option (List Byte)) (err : Nat) : State :=
  match bs with
  | some b =>
    if n = 8 then (s.hallStore m o b).2
    else if s.hallBad o || err == 2 then s.hallFail m o true
    else (s.when (err == 1) (fun s => s.hallCorrected o)).hallWrite o b
  | none =>
    if s.hallBad o || err == 2 then s.hallFail m o false
    else (s.when (err == 1) (fun s => s.hallCorrected o)).readBytes m (s.hallBytes o n)

/-- An aligned access of 2^size bytes at an address of the Hall (R3, R284, R430). -/
def hallAccess (m : Nat) (a : Word) (size : Nat) (bs : Option (List Byte)) (err : Nat) (s : State) : State :=
  let n := 2 ^ size
  if a.toNat < hallBase ∨ hallBase + 0x800000 ≤ a.toNat ∨ s.issues m a.toNat bs.isSome = false then s
  else match s.busCheck m a.toNat n bs.isSome with
    | some k => s.refuse m a.toNat bs.isSome k
    | none => s.hallUnit m (a.toNat - hallBase) n (bs.map (fun b => (b ++ List.replicate n 0).take n)) err

/-- A read of 2^size bytes of capture DRAM: data are returned whatever the in-band ECC finds (R289, R405, R432). -/
def captureDramRead (m : Nat) (a : Word) (size err : Nat) (s : State) : State :=
  let n := 2 ^ size
  if a.toNat < dramBase ∨ dramBase + 0x8000000 ≤ a.toNat ∨ s.issues m a.toNat false = false then s
  else match s.busCheck m a.toNat n false with
    | some k => s.refuse m a.toNat false k
    | none =>
      let o := a.toNat - dramBase
      (s.takeFree.dramEcc (decide (16 ≤ m)) o err).readBytes m (s.dramData o n err)

/-- A write of persistent word n by MID m; one that the guard refuses answers as one refused by the windows, unrecorded (R375, R376). -/
def persistentWrite (m n : Nat) (v : Word) (s : State) : State :=
  s.regAccess m (Reg.PREG_W n) true (fun s => s.guardedWrite m (Reg.PREG_W n) v)

/-- A register write of 2^size bytes (R3, R5 to R7, R284). -/
def registerWrite (m : Nat) (a : Word) (size : Nat) (v : Word) (s : State) : State := s.busWrite m a.toNat (2 ^ size) v

def execHallAccess (m : Fin 32) (a : Word) (size : Fin 4) (bs : Option (List Byte)) (err : Fin 3) (s : State) : Host.Outcome State Fault Refusal :=
  .next (hallAccess m a size bs err s)
def execCaptureDramRead (m : Fin 32) (a : Word) (size : Fin 4) (err : Fin 3) (s : State) : Host.Outcome State Fault Refusal :=
  .next (captureDramRead m a size err s)
def execPersistentWrite (m : Fin 32) (n : Fin 2048) (v : Word) (s : State) : Host.Outcome State Fault Refusal := .next (persistentWrite m n v s)
def execRegisterWrite (m : Fin 32) (a : Word) (size : Fin 4) (v : Word) (s : State) : Host.Outcome State Fault Refusal :=
  .next (registerWrite m a size v s)

end Sys2Proof.Machine
end

