-- ==== Sys2Proof/Machine/ImageRules.lean ====
section
/-! DEFINITION. Check 6 of flight 5: the image rules of R433, block by block in ascending base address. A block either keeps its rules
or breaks one; which of its rules breaks first shows nowhere. -/

namespace Sys2Proof.Machine

/-- The cycle length that TB_CFG names (R17). -/
def State.clen (s : State) : Nat := clenTicks (s.fld Reg.TB_CFG 2 0)

/-- TB (R17). -/
def State.tbRules (s : State) : Bool := decide (s.fld Reg.TB_CFG 2 0 ≤ 4)

/-- A segment's rules (R167, R183 and the ranges of its fields). -/
def State.segRules (s : State) (n : Nat) : Bool :=
  let trk := s.fld (Reg.TRN_SCFG n) 6 0
  let used := (List.range 32).filter (fun k => s.slotKind n k ≠ 0)
  s.fld (Reg.TRN_SOFS n) 31 29 == s.fld Reg.TB_CFG 2 0 && decide (1 ≤ s.segWin n ∧ 8 ≤ trk ∧ trk ≤ 95 ∧ trk < 32 * s.segWin n)
    && used.all (fun k => s.slotKind n k != 3 && decide (8 ≤ s.slotLen n k ∧ s.slotLen n k ≤ 64))
    && decide ((used.filter (fun k => s.slotKind n k == 2)).length ≤ 8)

/-- TRN: one HID in every segment, and no reserved loopback in a port that runs. -/
def State.trnRules (s : State) : Bool :=
  let segs := (List.range 12).filter s.segEn
  segs.all (fun n => s.segRules n && segs.all (fun m => s.segHid m == s.segHid n))
    && (List.range 12).all (fun n => [0, 1].all (fun c => !s.bit (Reg.TRN_PCFG n c) 31 || decide (s.fld (Reg.TRN_PCFG n c) 27 26 ≤ 1)))

/-- PAIR (R383, R386, R391). -/
def State.pairRules (s : State) : Bool :=
  !s.pairEn || (decide (200000 ≤ s.fld Reg.PAIR_LEASE 22 0 ∧ s.fld Reg.PAIR_LEASE 22 0 ≤ 6400000
      ∧ 4 * s.fld Reg.PAIR_BPER 16 0 ≤ s.fld Reg.PAIR_LEASE 22 0 ∧ s.fld Reg.PAIR_FWCP 5 0 = 0))

/-- SPR: three thresholds from 1 to 255. -/
def State.sprRules (s : State) : Bool :=
  decide (s.fld Reg.SPR_CFG 31 24 ≠ 0 ∧ s.fld Reg.SPR_CFG 23 16 ≠ 0 ∧ s.fld Reg.SPR_CFG 15 8 ≠ 0)

/-- An enabled learner's rules (R85, R87). -/
def State.learnerRules (s : State) (a : Nat) : Bool :=
  let bytes := 2 * s.lrnBins a
  let off := s.fld (Reg.LRN_TBL a) 20 0
  let per := (s.rd (Reg.LRN_PER a)).toNat
  let src := s.fld (Reg.LRN_CFG a) 30 29
  decide (s.fld (Reg.LRN_CFG a) 28 27 ≠ 3 ∧ off % bytes = 0 ∧ off + bytes ≤ 65536 * s.fld Reg.LRN_REGION 5 0)
    && (src == 1 || decide (s.lrnBins a ≤ per ∧ per ≤ 2 ^ 31))
    && (src != 1 || s.fld (Reg.LAW_ECOMM a) 21 16 != 0x3F)
    && decide (s.fld (Reg.LRN_CFG a) 26 25 < s.fld (Reg.LAW_CFG a) 19 17)

/-- No two intervals of a list share a point. -/
def disjoint : List (Nat × Nat) → Bool
  | [] => true
  | x :: t => t.all (fun y => decide (x.2 ≤ y.1 ∨ y.2 ≤ x.1)) && disjoint t

/-- LRN. -/
def State.lrnRules (s : State) : Bool :=
  let on := (List.range 256).filter s.lrnOn
  decide (s.fld Reg.LRN_REGION 5 0 ≤ 32 ∧ s.fld Reg.LRN_REGION 22 16 + s.fld Reg.LRN_REGION 5 0 ≤ 128)
    && on.all s.learnerRules
    && disjoint (on.map (fun a => (s.fld (Reg.LRN_TBL a) 20 0, s.fld (Reg.LRN_TBL a) 20 0 + 2 * s.lrnBins a)))

/-- An enabled axis's sources against its trigger (R101). -/
def State.axisSrcRules (s : State) (a : Nat) : Bool :=
  let r := s.rd (Reg.LAW_ROUTE a)
  let p := s.primary a
  let x := s.secondary a
  let ctx := s.rd (Reg.FBK_RCTX (x - 16))
  (!wBit r 26 || decide (p < 16))
    && (x == 0x3FF || (!wBit r 26 && decide (16 ≤ x ∧ x < 528) && wBit ctx 31 && wFld ctx 29 26 == wFld r 25 22 && wFld ctx 25 21 == wFld r 21 17))

/-- The standstill timeout of a source lies from 1 (R117). -/
def State.sstOk (s : State) (n : Nat) : Bool := s.fld (Reg.SRC_SST n) 27 0 != 0

/-- A local channel's rules (R103, R107, R108). -/
def State.chanRules (s : State) (n : Nat) : Bool :=
  let m := s.fld (Reg.FBK_CH_CFG n) 31 29
  let posw := s.fld (Reg.FBK_CH_SER0 n) 29 24
  let nb := s.fld (Reg.FBK_CH_SER0 n) 21 16
  let hp := s.fld (Reg.FBK_CH_SER0 n) 10 0
  m == 0 || (decide (m ≤ 4) && s.sstOk n
    && (!s.bit (Reg.FBK_CH_SMP n) 31 || decide (s.fld (Reg.FBK_CH_SMP n) 16 0 < s.clen))
    && (decide (m < 3) || decide (8 ≤ posw ∧ posw ≤ 32 ∧ 1 ≤ nb ∧ nb ≤ 40 ∧ 20 ≤ hp ∧ hp ≤ 2000))
    && (m != 3 || decide (s.fld (Reg.FBK_CH_SER1 n) 31 26 ≤ 39))
    && (m != 4 || nb == posw + 2))

/-- A pass-through output's rules (R120, R121). -/
def State.ptRules (s : State) (m : Nat) : Bool :=
  let c := s.rd (Reg.FBK_PT_CFG m)
  let src := wFld c 25 16
  let zper := s.fld (Reg.FBK_PT_ZPER m) 23 0
  match wFld c 31 30 with
  | 0 => true
  | 1 => decide (src < 16)
  | 2 => (decide (src < 528) || src == 0x3FF) && decide (2 ≤ wFld c 7 0) && (zper == 0 || decide (s.fld (Reg.FBK_PT_ZOFS m) 23 0 < zper))
  | _ => false

/-- The payload bytes that the image binds to feedback slot k of segment n (R159). -/
def State.slotBytesNeeded (s : State) (n : Fin 12) (k : Fin 32) : Nat :=
  let m := s.slotMasks n k
  8 + (List.range 8).foldl (fun t r => t + (if m.1.testBit r then (if m.2.testBit r then 8 else 4) else 0)) 0
    + (List.range 4).foldl (fun t p => t + 2 * (s.slotCmask n k / 4 ^ p % 4)) 0

/-- FBK. -/
def State.fbkRules (s : State) : Bool :=
  s.lawAxes.all (fun a => s.axisSrcRules a) && (List.range 16).all s.chanRules
    && (List.range 512).all (fun r => !s.bit (Reg.FBK_RCTX r) 31 || (decide (s.fld (Reg.FBK_RCTX r) 29 26 ≤ 11) && s.sstOk (16 + r)))
    && (!s.bit Reg.FBK_DSMCLK 31 || decide (8 ≤ s.fld Reg.FBK_DSMCLK 5 0 ∧ s.fld Reg.FBK_DSMCLK 5 0 ≤ 40))
    && (List.range 24).all (fun i => !s.bit (Reg.FBK_DSM_CFG i) 31 || decide (16 ≤ s.fld (Reg.FBK_DSM_CFG i) 8 0 ∧ s.fld (Reg.FBK_DSM_CFG i) 8 0 ≤ 256))
    && (List.range 8).all s.ptRules
    && (List.finRange 12).all (fun n => !s.segEn n || (List.finRange 32).all (fun k =>
        (s.slotKind n k != 1 && s.slotKind n k != 2) || (s.slotBytesNeeded n k == s.slotLen n k && decide (s.slotBytesNeeded n k ≤ 64))))

/-- A PWM group's rules, where it is locked or an enabled axis names it (R21, R127 to R129, R132, R135, R136, R138, R142). -/
def State.grpRules (s : State) (g : Nat) : Bool :=
  let tr := s.grpTriggers g
  let ds := s.grpDests g
  let adaptive := !s.bit (Reg.PWM_GRP_CFG g) 21
  (!s.pwmLock g && tr.isEmpty && ds.isEmpty) ||
    (s.grpOk g s.clen && s.fld (Reg.PWM_GRP_DT g) 23 16 != 0
      && (!adaptive || (decide (1 ≤ s.fld (Reg.PWM_GRP_DT g) 7 0 ∧ s.fld (Reg.PWM_GRP_DT g) 7 0 ≤ s.fld (Reg.PWM_GRP_DT g) 23 16) && s.fld (Reg.PWM_GRP_DTADJ g) 23 16 != 0))
      && !(s.bit (Reg.PWM_GRP_CTRL g) 31 && !s.bit (Reg.PWM_GRP_CFG g) 14))

/-- PWM. -/
def State.pwmRules (s : State) : Bool := (List.range 8).all s.grpRules

/-- HST: alignments of the rings and of the image areas, and the number of visible axes (R292, R303). -/
def State.hstRules (s : State) : Bool :=
  (List.range 2).all (fun e => !s.bit (Reg.HST_ETH_CFG e) 31 ||
      decide (s.fld (Reg.HST_ETH_RXRING e) 10 0 = 0 ∧ s.fld (Reg.HST_ETH_TXRING e) 10 0 = 0))
    && (List.range 4).all (fun h => !s.bit (Reg.HST_LAND_CFG h) 31 ||
      decide (s.fld (Reg.HST_LAND_CFG h) 24 16 ≤ 256 ∧ s.fld (Reg.HST_LAND_IMG h) 5 0 = 0))

/-- The output whose channel registers serve output n (R251). -/
def State.doMaster (s : State) (n : Nat) : Nat :=
  match (if n < 4 then s.fld Reg.FIO_DO_CFG 31 30 else s.fld Reg.FIO_DO_CFG 29 28) with
  | 1 => n / 2 * 2
  | 2 => n / 4 * 4
  | _ => n

/-- FIO (R252, R261). -/
def State.fioRules (s : State) : Bool :=
  (List.range 16).all (fun n => s.fld (Reg.FIO_DI_CFG n) 25 16 != 0 && s.fld (Reg.FIO_DI_CFG n) 7 0 != 0)
    && decide (s.fld Reg.FIO_DO_CFG 31 30 ≠ 3 ∧ s.fld Reg.FIO_DO_CFG 29 28 ≠ 3 ∧ 1 ≤ s.fld Reg.FIO_DO_CFG 6 0 ∧ s.fld Reg.FIO_DO_CFG 6 0 ≤ 100)
    && (List.range 8).all (fun n => s.doMaster n != n || s.fld (Reg.FIO_DO_CH_CFG n) 15 8 != 0)

/-- Wide states: bit i only with i + 1 below NX and bit i - 1 clear (R37). -/
def wideOk (wide nx : Nat) : Bool :=
  (List.range 6).all (fun i => !wide.testBit i || (decide (i + 1 < nx) && (i == 0 || !wide.testBit (i - 1))))

/-- The trigger of a law with phase currents delivers them: the delta-sigma inputs of a local one run; a feedback slot is a node's, and its
position sends the currents of the law's own Clarke mode (R41, R101, R159). -/
def State.currentsOk (s : State) (a : Nat) : Bool :=
  let g := s.fld (Reg.LAW_ROUTE a) 25 22
  let cl := s.fld (Reg.LAW_ECOMM a) 31 30
  if cl = 2 then true
  else if s.bit (Reg.LAW_ROUTE a) 26 then
    s.bit Reg.FBK_DSMCLK 31 && (List.range (if cl = 0 then 3 else 2)).all (fun i => s.bit (Reg.FBK_DSM_CFG (3 * g + i)) 31)
  else if h : g < 12 then
    let k : Fin 32 := Fin.ofNat 32 (s.fld (Reg.LAW_ROUTE a) 21 17)
    s.segEn g && (s.slotKind g k == 1 || s.slotKind g k == 2)
      && s.slotClarke ⟨g, h⟩ k (s.fld (Reg.LAW_ROUTE a) 16 15) == (if cl = 0 then 3 else 2)
  else false

/-- A code that names a source (R100). -/
def srcCode (c : Nat) : Bool := decide (c < 528)

/-- An enabled axis's rules (R18, R34, R37, R39, R41, R42, R44 to R47, R51, R100). -/
def State.axisRules (s : State) (a : Nat) : Bool :=
  let c := s.rd (Reg.LAW_CFG a)
  let r := s.rd (Reg.LAW_ROUTE a)
  let e := s.rd (Reg.LAW_ECOMM a)
  let kind := wFld c 30 28
  let nx := wFld c 22 20
  let ne := wFld c 19 17
  let nu := wFld c 16 15
  let linj := wFld c 8 6
  let esrc := wFld e 21 16
  let md := (s.rd (Reg.LAW_MODULO a)).toNat
  decide (kind ≤ 2 ∧ nx ≤ 6 ∧ ne ≤ 4 ∧ 1 ≤ nu ∧ nu ≤ 2 ∧ wFld r 29 27 < s.divider a) && wideOk (wFld c 14 9) nx
    && decide (linj ≠ 7 ∧ (1 ≤ linj → linj ≤ 4 → linj ≤ ne) ∧ (5 ≤ linj → linj - 5 < nu))
    && decide (wFld r 25 22 ≤ (if wBit r 26 then 7 else 11) ∧ wFld r 13 10 ≤ (if wBit r 14 then 7 else 11))
    && decide (wFld e 31 30 ≠ 3 ∧ (wFld e 31 30 = 2 → ne ≤ 2)) && s.currentsOk a
    && (esrc == 0x3F || (decide (esrc ≤ 0x11) && decide (2 ≤ (s.rd (Reg.LAW_ECPR a)).toNat)))
    && (!s.bit (Reg.LAW_ESCALE a) 31 || decide (2 ≤ md ∧ md ≤ 2 ^ 31))
    && (kind != 0 || decide (s.fld (Reg.LAW_EVEC a) 31 16 ≤ 0x49E7)) && (!wBit r 14 || kind == 0)
    && srcCode (s.primary a) && (srcCode (s.secondary a) || s.secondary a == 0x3FF)
    && !ulimBad (s.rd (Reg.LAW_ACT_BANK a 49)) && (nu != 2 || !ulimBad (s.rd (Reg.LAW_ACT_BANK a 50)))

/-- LAW. -/
def State.lawRules (s : State) : Bool := s.lawAxes.all (fun a => s.axisRules a)

/-- The high half of the base of the first block that breaks its rules (R351, R433). Blocks not listed have no field that can break
one. -/
def State.imageRules (s : State) : Option Nat :=
  if !s.tbRules then some 0x4001
  else if !s.trnRules then some 0x4002
  else if !s.pairRules then some 0x4003
  else if !s.sprRules then some 0x4004
  else if !s.lrnRules then some 0x4006
  else if !s.fbkRules then some 0x4007
  else if !s.pwmRules then some 0x4008
  else if !s.hstRules then some 0x400B
  else if !s.fioRules then some 0x400E
  else if !s.lawRules then some 0x4010
  else none

end Sys2Proof.Machine
end

