-- ==== Sys2Proof/Machine/Boot.lean ====
section
/-! DEFINITION. The boot flights 1 to 5 (R349 to R353, R366 to R368) and the checks on leaving MAINTENANCE (R357). -/

namespace Sys2Proof.Machine

/-! ## Flights 1 to 3 -/

/-- Flight 1 has run: STARTS advances (R379, R380). -/
def State.countStart (s : State) : State := (s.pregWrite 1 (s.preg 1 + 1)).1

/-- Flight 1: long-press flag, attempt counter, slot; while the guard refuses the counter's write the flight waits (R349). -/
def bootFlight1 (s : State) : State :=
  if s.mode ≠ mBOOT ∨ s.flight ≠ 1 then s
  else
    let w := s.preg 0
    let att := wFld w 3 0
    if wBit w 31 then (((s.countStart).pregWrite 0 (wSetBit w 31 false)).1).enterMinimal (causeWord 0x21 1 0 0)
    else if 6 ≤ att then (s.countStart).enterMinimal (causeWord 0x20 1 0 0)
    else if s.sys.guard then s.pregRefuse
    else
      let s := ((s.countStart).pregWrite 0 (wSetFld w 3 0 (att + 1))).1
      (s.setBit Reg.SYS_BOOT 27 (decide (3 < att + 1))).setFlight 2

/-- Flight 2; flash: the flash answers with the required profile (R360, R364). -/
def bootFlight2 (flash : Bool) (s : State) : State :=
  if s.mode ≠ mBOOT ∨ s.flight ≠ 2 then s
  else if !flash then s.bootFail (causeWord 1 2 s.slot 0)
  else if !s.headerOk s.slot then s.bootFail (causeWord 2 2 s.slot 0)
  else s.setFlight 3

/-- Flight 3: CRCs, digest and signature; CONFIGURE begins (R365, R370). -/
def bootFlight3 (s : State) : State :=
  if s.mode ≠ mBOOT ∨ s.flight ≠ 3 then s
  else match s.flight3 s.slot with
    | (some (c, d), _) => s.bootFail (causeWord c 3 s.slot d)
    | (none, signed) => ((s.setBit Reg.SYS_BOOT 25 signed).setMode mCONFIGURE).setFlight 4

/-! ## Flight 4 (R366 to R368) -/

/-- The registers of the view that only a host has: MID 0 cannot write them (R309, R320). -/
def hostOnly (a : Nat) : Bool := decide (0x400B0800 ≤ a ∧ a < 0x400C0000)

/-- A record of the image: a write by MID 0 that also reaches the read-only fields with Reset "image"; none where it is refused (R367). -/
def State.recordWrite (s : State) (a : Nat) (v : Word) : Option State :=
  if a % 4 ≠ 0 ∨ !inRegion a 4 ∨ a < 0x40000000 ∨ 0x80000000 ≤ a ∨ a / 65536 = 0x400F ∨ a / 65536 = 0x4020 then none
  else match regRow? a with
    | none => some s
    | some r =>
      if (r.img = 0 ∧ r.writable = 0) ∨ hostOnly a then none
      else
        let ro := word (r.img &&& (0xFFFFFFFF ^^^ r.rw))
        let s := s.wr a ((s.rd a &&& ~~~ ro) ||| (v &&& ro))
        some (if r.writable = 0 then s else s.regWrite 0 a v)

/-- The records of a section, in order, while CONFIGURE lasts (R367). -/
def State.recordsLoad (s : State) : Nat → List Byte → Bool × State
  | 0, _ => (true, s)
  | k + 1, b =>
    if s.mode ≠ mCONFIGURE then (true, s)
    else match s.recordWrite (leAt b 0 4) (word (leAt b 4 4)) with
      | none => (false, s)
      | some t => t.recordsLoad k (b.drop 8)

/-- Load one section; the flag is false where it cannot be loaded (R366). -/
def State.loadSection (s : State) (sl : Nat) (x : Section) : Bool × State :=
  let b := s.secBytes sl x
  match x.type with
  | 1 => s.recordsLoad (x.length / 8) b
  | 2 =>
    if 9 ≤ x.param ∨ 65536 < x.length then (false, s)
    else (true, s.setCore x.param { s.core x.param with lmem := memTable b, entry := Config.coreEntry (s.preg 1).toNat x.param })
  | 3 =>
    if 16 ≤ x.param ∨ 416 < x.length then (false, s)
    else (true, s.each (List.range 104) (fun i s => s.wr (Reg.GAL_PROG (128 * x.param + i)) (word (leAt b (4 * i) 4))))
  | 4 =>
    let o := leAt b 0 4
    if 0x800000 < o + (x.length - 4) then (false, s) else (true, s.hallWrite o (b.drop 4))
  | 5 => (true, s.safLoad b)
  | 6 => (true, { s with hst := { s.hst with pciIds := b.take 8 } })
  | 7 => (true, { s with sys := { s.sys with fw := b } })
  | _ => (true, s)

/-- Load sections in table order while CONFIGURE lasts; the number of the section that failed, if one did. -/
def State.loadAllSections (s : State) (sl : Nat) : List Section → Option Nat × State
  | [] => (none, s)
  | x :: t =>
    if s.mode ≠ mCONFIGURE then (none, s)
    else
      let r := s.loadSection sl x
      if r.1 then r.2.loadAllSections sl t else (some x.num, r.2)

/-- A section type of R366. -/
def knownType (t : Nat) : Bool := decide ((1 ≤ t ∧ t ≤ 7) ∨ 0x8000 ≤ t)

/-- The end of flight 4: the routes of the image are in force, every source starts, and the active cores that the image names are powered
(R102, R274, R275). -/
def State.loaded (s : State) (secs : List Section) : State :=
  let s := s.each (List.range 32) (fun n s =>
    { s with tsu := { s.tsu with routes := Table.set (fun _ => 15) s.tsu.routes n (routeOf (s.fld (Reg.TSU_ROUTE n) 3 0)) } })
  let s := s.each (List.range 528) (fun n s => s.startSource n)
  (s.each (List.range 9) (fun c s =>
    s.when ((s.core c).state == 0 && secs.any (fun x => x.type == 2 && x.param == c)) (fun s => s.setBit Reg.TSU_PWR c true))).irqSettleAll

/-- Flight 4. -/
def bootFlight4 (s : State) : State :=
  if s.mode ≠ mCONFIGURE ∨ s.flight ≠ 4 then s
  else
    let sl := s.slot
    let secs := s.sections sl
    match secs.find? (fun x => !knownType x.type) with
    | some x => s.bootFail (causeWord 7 4 sl x.num)
    | none =>
      match s.loadAllSections sl secs with
      | (some k, s) => s.bootFail (causeWord 6 4 sl k)
      | (none, s) => if s.mode ≠ mCONFIGURE then s else (s.loaded secs).setFlight 5

/-! ## Flight 5 (R351) and the checks of R357 -/

/-- GAL_CHK after a check has finished: DONE, and PASS where it passed (R76, R77). -/
def State.checkEnds (s : State) (ok : Bool) : State := s.wr Reg.GAL_CHK ((s.rd Reg.GAL_CHK &&& bitW 30) ||| bitW 29 ||| mkBit 28 ok)

/-- Checks 2 to 6 of R351: the first failure as cause code and DETAIL. -/
def State.flight5 (s : State) : Option (Nat × Nat) × State :=
  let r := s.checkPrograms
  if !r.2 then (some (0x11, r.1.fld Reg.GAL_CHK_ERR 7 0), r.1.checkEnds false)
  else
    let q := r.1.checkPlan
    let s := q.1.checkEnds q.2
    if !q.2 then (some (0x12, s.fld Reg.GAL_PLAN_ERR 31 24), s)
    else
      let segs := (List.range 12).filter s.segEn
      match segs.find? (fun n => s.schedDigest n != (s.rd (Reg.TRN_SDIG n)).toNat) with
      | some n => (some (0x13, n), s)
      | none => match segs.find? (fun n => s.schedCheck n != 0) with
        | some n => (some (0x14, 16 * n + s.schedCheck n), s)
        | none => (s.imageRules.map (fun b => (0x15, b)), s)

/-- CONFIGURE ends: every learner starts with no sign (R94), and a source whose binding was written in MAINTENANCE starts again
(R102). -/
def State.configureEnds (s : State) : State :=
  (s.each (List.range 256) (fun a s => s.setAxis a { s.axis a with sign := 0 })).each (List.range 528) (fun n s => if (s.source n).rebind then s.startSource n else s)

/-- Flight 5 has passed: LISTEN, or SAFE STOP where its reaction is pending (R341, R352, R353). -/
def State.flight5Passed (s : State) : State :=
  let s := (s.configureEnds).setFlight 15
  if s.sys.stopPend then { s with sys := { s.sys with stopPend := false } }.setMode mSAFESTOP else (s.setMode mLISTEN).enterListen

/-- The power-up checks of the cores in flight 5; the interrupts of a core that fails find it so (R274, R401). -/
def State.coreChecks (s : State) (cores : List Bool) : State :=
  (s.each ((List.range 9).filter (fun c => cores[c]? == some false)) (fun c s => s.coreCheckFailed c)).irqSettleAll

/-- Flight 5; tests: the result and the duration of each lane's test; cores: the result of each core's power-up check (R351, R401). -/
def bootFlight5 (tests : List (Bool × Nat)) (cores : List Bool) (s : State) : State :=
  if s.mode ≠ mCONFIGURE ∨ s.flight ≠ 5 then s
  else
    let r := (s.coreChecks cores).laneTests tests
    if r.2 < 16 then r.1.bootFail (causeWord 0x10 5 s.slot r.2)
    else match r.1.flight5 with
      | (some (c, d), t) => t.bootFail (causeWord c 5 s.slot d)
      | (none, t) => t.flight5Passed

/-- The checks of a CONFIGURE entered from MAINTENANCE (R357). -/
def maintenanceCheck (s : State) : State :=
  if s.mode ≠ mCONFIGURE ∨ s.flight ≠ 15 then s
  else match s.flight5 with
    | (none, t) => t.flight5Passed
    | (some (c, d), t) =>
      let t := (((t.pregWrite 2 (causeWord c 5 s.slot d)).1).configureEnds).setMode mMAINTENANCE
      if t.sys.stopPend then { t with sys := { t.sys with stopPend := false } }.reqSafeStop else t

def execBootFlight1 (s : State) : Host.Outcome State Fault Refusal := .next (bootFlight1 s)
def execBootFlight2 (flash : Bool) (s : State) : Host.Outcome State Fault Refusal := .next (bootFlight2 flash s)
def execBootFlight3 (s : State) : Host.Outcome State Fault Refusal := .next (bootFlight3 s)
def execBootFlight4 (s : State) : Host.Outcome State Fault Refusal := .next (bootFlight4 s)
def execBootFlight5 (x : PowerUpTests) (s : State) : Host.Outcome State Fault Refusal :=
  .next (bootFlight5 x.lanes x.cores s)
def execMaintenanceCheck (s : State) : Host.Outcome State Fault Refusal := .next (maintenanceCheck s)

end Sys2Proof.Machine
end

