-- ==== Sys2Proof/Machine/Cycle.lean ====
section
/-! DEFINITION. Tick 0 of a device cycle (R17): the completion of the cycle that ends, the snapshot of the one that begins (R29), and the
changes that take effect at a tick 0, the modes among them (R341, R353). -/

namespace Sys2Proof.Machine

/-- The snapshot of axis a at tick 0; the one before it stays for jobs of a segment cycle that runs on (R29, R49, R95). -/
def State.snapshot (s : State) (a : Nat) : State :=
  let c := s.axis a
  s.setAxis a { c with
    prev := c.snap, swapped := false,
    snap := { cyc := s.tb.cyc, pos := s.rd (Reg.LAW_POS_REF a), vel := s.rd (Reg.LAW_VEL_REF a), cur := s.rd (Reg.LAW_CUR_REF a),
              ff := s.rd (Reg.LAW_FF a), sfrz := s.bit (Reg.LAW_CTRL a) 0, gain := s.rd (Reg.LRN_GAIN a), filt := s.rd (Reg.LRN_FILT a),
              win := s.rd (Reg.LRN_WIN a), uhold := s.bit (Reg.LRN_CTRL a) 0, ioff := s.bit (Reg.LRN_CTRL a) 1 } }

/-- A pending change of mode takes effect (R130, R185, R341, R356). -/
def State.modeTick0 (s : State) : State :=
  match s.sys.pend with
  | none => s
  | some m =>
    let s := { s with sys := { s.sys with pend := none } }.setMode m
    s.when (decide (m = mMAINTENANCE)) (fun s => s.silenceAll 0)

/-- A unit that was due at the end of the cycle before enters STANDBY (R384). -/
def State.standbyTick0 (s : State) (due : Bool) : State := if due && s.standbyDue then (s.setMode mSTANDBY).enterStandby else s

/-- The earliest sync of a cycle: the least schedule offset of an enabled segment, tick 0 where none is enabled. -/
def State.firstSync (s : State) : Nat :=
  match (List.range 12).filter s.segEn with
  | [] => 0
  | n :: t => t.foldl (fun m k => min m (s.segOfs k)) (s.segOfs n)

/-- The coldstart of the cycle that begins; after a takeover the cycle counter runs on, and the landings show FAILOVER (R185, R308, R341,
R353, R394). -/
def State.coldTick0 (s : State) : State :=
  match s.trn.cold with
  | none => s
  | some tk =>
    if s.mode ≠ mLISTEN ∧ !(tk && s.mode == mSTANDBY) then { s with trn := { s.trn with cold := none } }
    else
      let s := s.coldStart.setMode mINTEGRATE
      let s := { s with sys := { s.sys with intTick := s.tb.tick + s.firstSync } }
      let s := s.when s.pairEn (fun s => s.setFld Reg.PAIR_STAT 31 29 1)
      s.when tk (fun s => s.each (List.range 4) (fun h s => s.setLand h { s.land h with failover := true }))

/-- INTEGRATE ends at the first tick 0 after its entry at which every node slot is IN or INTMAX has passed (R353). -/
def State.integrateTick0 (s : State) : State :=
  if s.mode ≠ mINTEGRATE then s
  else if s.allIn || decide (s.sys.intTick + 400000 * s.fld Reg.SYS_INTCFG 15 0 ≤ s.tb.tick) || s.fld Reg.SYS_INTCFG 15 0 == 0 then
    let s := if s.allIn then s else s.orBits Reg.SYS_EVT (bitW 28)
    { s.setMode mRUN with sys := { s.sys with runTick := s.tb.tick } }
  else s

/-- The counter of the cycle that follows the running one: a coldstart that follows no takeover starts it at 0 (R17, R185). -/
def State.nextCyc (s : State) : Word :=
  if s.trn.cold == some false && s.mode == mLISTEN && s.trn.silence == 0 then 0 else s.tb.cyc + 1

/-- The end of cycle n: images and axis records are completed, and RFLAGS start afresh (R305, R306, R324). -/
def State.cycleEnd (s : State) : State :=
  let n := s.tb.cyc
  let s := (s.imgTick0 n).capTick0 n s.nextCyc
  let s := s.each (List.range 256) (fun a s => s.rflagsClear a)
  { s with hst := { s.hst with spareIn := false } }

/-- The cycle counter advances; a coldstart that follows no takeover starts it at 0 (R17, R185, R434). -/
def State.nextCycle (s : State) : State :=
  { s with tb := { s.tb with ctick := 0, cyc := s.nextCyc } }.tbTick0

/-- The destination of an axis that is not due receives its last released command again (R18); a command slot reads it from the axis (R160).
The instant within the cycle is the model's choice, tick 0 (log entry 67). -/
def State.resend (s : State) (a : Nat) : State :=
  if s.lawsRun && s.bit (Reg.LAW_CFG a) 31 && !s.due a s.tb.cyc then s.redeliver a else s

/-- What the axes take at tick 0: commits, then the snapshot, then swaps, then the learners (R29, R51, R95, R310). -/
def State.axesTick0 (s : State) : State :=
  let s := s.commitTick0
  let s := s.each (List.range 256) (fun a s => s.snapshot a)
  let s := s.each (List.range 256) (fun a s => s.swapTick0 a)
  let s := s.each (List.range 256) (fun a s => s.lrnTick0 a)
  s.each (List.range 528) (fun n s => s.setSource n { s.source n with fresh := false })

/-- What the units do at tick 0 (R31, R79 to R82, R187, R389, R402, R404). -/
def State.unitsTick0 (s : State) : State := s.safTick0.laneTick0.coreTick0.hallTick0.trnTick0.pairTick0

/-- The changes of mode at tick 0: INTEGRATE is left no earlier than the tick 0 after the one that enters it; due says that a role was
taken before this tick 0, so that a head that falls silent at it enters STANDBY at the next. -/
def State.modesTick0 (s : State) (due : Bool) : State := (s.modeTick0.standbyTick0 due).integrateTick0.coldTick0

/-- Stopped groups: the axes they trigger that are due in the cycle hold (R130). -/
def State.stopsTick0 (s : State) : State :=
  s.each (List.finRange 8) (fun g s =>
    let s := s.setGrp g { s.grp g with held := false }
    if s.pwmRun g || (s.grp g).startPend then s else s.stopHolds g)

/-- Tick 0, while the time base runs: the rest of the running cycle passes, and the next one begins (R17). -/
def cycleStart (s : State) : State :=
  if !s.tb.running then s
  else
    let s := (s.ticks (s.tb.len - s.tb.ctick)).cycleEnd.nextCycle
    let due := s.standbyDue
    (((s.axesTick0.unitsTick0.modesTick0 due).stopsTick0).each (List.range 256) (fun a s => s.resend a)).checkpointTake

def execCycleStart (s : State) : Host.Outcome State Fault Refusal := .next (cycleStart s)

end Sys2Proof.Machine
end

