-- ==== Sys2Proof/Machine/Ethernet.lean ====
section
/-! DEFINITION. The Ethernet ports and the Zhevu host protocol (R291 to R301): reception, the rings of MID 13, datagrams, their commands and
NOTIFY. -/

namespace Sys2Proof.Machine

/-! ## Frames -/

/-- The big-endian number in bytes i .. i+k-1 of a list. -/
def beAt (l : List Byte) (i k : Nat) : Nat := beNat ((l.drop i).take k)

/-- The ones' complement sum of 16-bit big-endian words, an odd last byte padded with 0. -/
def onesSum : List Byte → Nat
  | [] => 0
  | [a] => a.toNat * 256
  | a :: b :: t => a.toNat * 256 + b.toNat + onesSum t

/-- Whether a ones' complement sum is that of data with a good checksum. -/
def sumGood (n : Nat) : Bool := n % 65535 == 0 && n != 0

/-- Where the Ethertype of a frame stands after one or two 0x8100 tags, or none. -/
def typeAt (b : List Byte) : Nat :=
  if beAt b 12 2 ≠ 0x8100 then 12 else if beAt b 16 2 ≠ 0x8100 then 16 else 20

/-- Where the UDP header of an IPv6 packet starts, from a next-header value and the header it stands before: hop-by-hop options, routing headers,
destination options and a first fragment are passed over. The first argument bounds their number. -/
def udp6 (b : List Byte) : Nat → Nat → Nat → Option Nat
  | 0, _, _ => none
  | f + 1, nh, p =>
    if nh = 17 then some p
    else if nh = 0 ∨ nh = 43 ∨ nh = 60 then udp6 b f (byteAt b p) (p + 8 * (byteAt b (p + 1) + 1))
    else if nh = 44 ∧ beAt b (p + 2) 2 / 8 = 0 then udp6 b f (byteAt b p) (p + 8)
    else none

/-- Where the UDP header of a frame starts, over IPv4 or IPv6; of a fragmented packet only the first fragment has one. -/
def udpAt (b : List Byte) : Option Nat :=
  let p := typeAt b + 2
  let t := beAt b (typeAt b) 2
  if t = 0x0800 ∧ byteAt b p / 16 = 4 ∧ byteAt b (p + 9) = 17 ∧ beAt b (p + 6) 2 % 0x2000 = 0 then some (p + 4 * (byteAt b p % 16))
  else if t = 0x86DD ∧ byteAt b p / 16 = 6 then udp6 b 64 (byteAt b (p + 6)) (p + 40)
  else none

/-- Where the PTP message of an event message's frame starts (R208): after Ethertype 0x88F7 with at most two tags, or after UDP port 319. -/
def ptpAt (b : List Byte) : Option Nat :=
  if beAt b (typeAt b) 2 = 0x88F7 then some (typeAt b + 2)
  else match udpAt b with
    | some u => if beAt b (u + 2) 2 = 319 then some (u + 8) else none
    | none => none

/-- The identifier of an event message: messageType and sequenceId[11:0] (R208). -/
def eventId (b : List Byte) : Option Nat :=
  match ptpAt b with
  | some p =>
    if p + 34 ≤ b.length ∧ byteAt b p % 16 < 4 ∧ byteAt b (p + 1) % 16 = 2 then
      some (byteAt b p % 16 * 4096 + beAt b (p + 30) 2 % 4096)
    else none
  | none => none

/-- A frame that carries a tag. -/
def tagged (b : List Byte) : Bool := beAt b 12 2 == 0x8100

/-- A pause frame (R291). -/
def pauseFrame (b : List Byte) : Bool := beAt b 12 2 == 0x8808 && beAt b 14 2 == 1

/-- What an untagged IPv4 UDP frame to the port's address and ZPORT holds: source address and port, source MAC address, payload (R294). -/
structure Udp where
  src : Nat
  port : Nat
  mac : List Byte
  data : List Byte
  deriving DecidableEq, Repr

/-- The first five conditions of a Zhevu datagram (R294). -/
def State.zhevuUdp (s : State) (e : Nat) (b : List Byte) : Option Udp :=
  let tot := beAt b 16 2
  let ul := beAt b 38 2
  let ip := (b.drop 14).take 20
  let udp := (b.drop 34).take ul
  let sum := onesSum udp + onesSum ((b.drop 26).take 8) + 17 + ul
  if beAt b 12 2 = 0x0800 ∧ byteAt b 14 = 0x45 ∧ tot + 14 ≤ b.length ∧ 8 ≤ ul ∧ ul + 20 ≤ tot ∧ sumGood (onesSum ip)
      ∧ beAt b 20 2 % 0x4000 = 0 ∧ byteAt b 23 = 17 ∧ beAt b 30 4 = (s.rd (Reg.HST_ETH_IP4 e)).toNat
      ∧ beAt b 36 2 = s.fld (Reg.HST_ETH_CFG e) 15 0 ∧ (beAt b 40 2 = 0 ∨ sumGood sum) then
    some ⟨beAt b 26 4, beAt b 34 2, (b.drop 6).take 6, udp.drop 8⟩
  else none

/-- Whether landing h of port e has the sender as its peer. In MINIMAL a peer address of 0 is that of the first sender of HELLO, and a peer
port of 0 any port (R294, R379). -/
def State.peerOf (s : State) (e : Nat) (u : Udp) (h : Nat) : Bool :=
  let peer := (s.rd (Reg.HST_LAND_PEER h)).toNat
  let port := s.fld (Reg.HST_LAND_PPORT h) 15 0
  let mini := s.mode == mMINIMAL
  s.landPort h == some (2 + e)
    && (peer == u.src || (mini && peer == 0 && (byteAt u.data 3).testBit 2)) && (port == u.port || (mini && port == 0))

/-! ## Commands (R296, R297) -/

/-- A command of a request: OP, NW, ADDR, the DATA of a WRITE or DOORBELL, and whether it is malformed. -/
structure ZCmd where
  op : Nat
  nw : Nat
  addr : Nat
  data : List Word
  bad : Bool

/-- The commands of a request, n at most: one that is cut short, or of which no byte is left, is malformed and the last; its fields that no byte
gives are those of pad (log entry 53). -/
def zCmds (pad : List Byte) : Nat → List Byte → List ZCmd
  | 0, _ => []
  | n + 1, b =>
    if b.length < 8 then
      let c := b ++ pad.drop b.length
      [⟨byteAt c 0, leAt c 2 2, leAt c 4 4, [], true⟩]
    else
      let op := byteAt b 0
      let nw := leAt b 2 2
      let len := if op = 2 ∨ op = 3 then 4 * nw else 0
      let ok := (op == 1 || op == 2 || op == 3) && decide (1 ≤ nw ∧ nw ≤ 256) && (op != 3 || nw == 1)
      if ok && decide (b.length < 8 + len) then [⟨op, nw, leAt b 4 4, [], true⟩]
      else if ok then ⟨op, nw, leAt b 4 4, wordsOf (len / 4) (b.drop 8), false⟩ :: zCmds pad n (b.drop (8 + len))
      else ⟨op, nw, leAt b 4 4, [], true⟩ :: zCmds pad n (b.drop 8)

/-- A command's part of a response. -/
def ZCmd.answer (c : ZCmd) (stat : Nat) (data : List Word) : List Byte :=
  [byte c.op, byte stat] ++ leBytes 2 c.nw ++ leBytes 4 c.addr ++ bytesOf data

/-- The bytes of a response to executed commands. -/
def zLength (cs : List ZCmd) : Nat := 8 + (cs.map (fun c => 8 + (if c.op = 1 then 4 * c.nw else 0))).foldl (· + ·) 0

/-- STAT of what became of an access (R297). -/
def BusRes.stat : BusRes → Nat
  | .done => 0
  | .refused 1 => 1
  | .refused 2 => 2
  | .refused _ => 3
  | .uncorr => 7

/-- Words of the response that no access has read: free. -/
def State.freeWords (s : State) (n : Nat) : List Word := (List.range n).map (fun i => s.resv (1024 + i))

/-- READ: nw aligned word reads by MID m (R296): STAT, the words, of which those not read are free. -/
def State.zRead (s : State) (m : Nat) : Nat → Nat → Nat × List Word × State
  | 0, _ => (0, [], s)
  | k + 1, a =>
    let r := s.busRead32 m a
    if r.1 = .done then
      let t := r.2.2.zRead m k (a + 4)
      (t.1, r.2.1 :: t.2.1, t.2.2)
    else (r.1.stat, r.2.2.freeWords (k + 1), r.2.2.takeFree)

/-- WRITE: aligned word writes by MID m (R296). -/
def State.zWrite (s : State) (m a : Nat) : List Word → Nat × State
  | [] => (0, s)
  | w :: t =>
    let r := s.busWrite32 m a w
    if r.1 = .done then r.2.zWrite m (a + 4) t else (r.1.stat, r.2)

/-- DOORBELL: a write of MBX_CHc_DBSET by MID m (R296, R297). -/
def State.zDoorbell (s : State) (m ch : Nat) (bits : Word) : Nat × State :=
  let a := Reg.MBX_CH_DBSET ch
  if !s.allowed m a 4 true then (1, s.deny m a true 1)
  else (if s.sends ch m then 0 else 6, s.dbSet m ch bits)

/-- One command by MID m: its STAT, its part of the response, and the state (R296, R297). -/
def State.zExec (s : State) (m : Nat) (c : ZCmd) : Nat × List Byte × State :=
  if c.op = 1 then
    let r := s.zRead m c.nw c.addr
    (r.1, c.answer r.1 r.2.1, r.2.2)
  else if c.op = 2 then
    let r := s.zWrite m c.addr c.data
    (r.1, c.answer r.1 [], r.2)
  else
    let r := s.zDoorbell m (c.addr % 64) ((c.data[0]?).getD 0)
    (r.1, c.answer r.1 [], r.2)

/-- Commands in order up to the first that fails; those after it are not executed (R297). -/
def State.zRun (s : State) (m : Nat) : List ZCmd → List Byte × State
  | [] => ([], s)
  | c :: t =>
    let r := s.zExec m c
    if r.1 = 0 then
      let q := r.2.2.zRun m t
      (r.2.1 ++ q.1, q.2)
    else
      let s := r.2.2
      (r.2.1 ++ t.flatMap (fun d => d.answer 5 (if d.op = 1 then s.freeWords d.nw else [])), s.takeFree)

/-- The answers of a request that executes nothing: the first malformed command 0x04, all others 0x05 (R297). -/
def zRefuse : Bool → List ZCmd → List Byte
  | _, [] => []
  | seen, c :: t => c.answer (if c.bad && !seen then 4 else 5) [] ++ zRefuse (seen || c.bad) t

/-! ## Datagrams (R295, R298 to R300) -/

/-- The Ethernet port of a landing (R302). -/
def State.landEth (s : State) (h : Nat) : Option Nat :=
  match s.landPort h with
  | some p => if 2 ≤ p then some (p - 2) else none
  | none => none

/-- A datagram leaves for landing h's host, from the port's own address and ZPORT to where the last request came from (R294, R301). -/
def State.zSend (s : State) (h : Nat) (b : List Byte) : State :=
  match s.landEth h, (s.land h).peer with
  | some e, some p =>
    let d : Datagram := ⟨(s.rd (Reg.HST_ETH_IP4 e)).toNat, s.fld (Reg.HST_ETH_CFG e) 15 0, p, b⟩
    { s with hst := { s.hst with zhevuTx := Table.set (fun _ => none) s.hst.zhevuTx h (some d) } }
  | _, _ => s

/-- The header of a response: the request's, with RESP set. -/
def zHeader (b : List Byte) : List Byte := [byteAt b 0, byteAt b 1, byteAt b 2].map byte ++ [byte (byteAt b 3 ||| 1)] ++ (b.drop 4).take 4

/-- A request of landing h that is checked and executed (R297, R298). -/
def State.zRequest (s : State) (h : Nat) (b : List Byte) : State :=
  let cs := zCmds (leBytes 4 (s.resv 658).toNat ++ leBytes 4 (s.resv 659).toNat) (byteAt b 7) (b.drop 8)
  if cs.any (fun c => c.bad) || decide (1472 < b.length ∨ 1472 < zLength cs) then
    s.takeFree.zSend h (zHeader b ++ zRefuse false cs)
  else
    let r := s.zRun (16 + h) cs
    let resp := zHeader b ++ r.1
    (r.2.setLand h { r.2.land h with kept := some (leAt b 4 2, b.length, resp) }).zSend h resp

/-- A datagram's payload arrives for landing h: dropped, answered again, or executed; HELLO resets the host first (R295, R298, R300). -/
def State.zTake (s : State) (h : Nat) (u : Udp) : State :=
  let b := u.data
  if leAt b 0 2 ≠ 0x5A56 ∨ byteAt b 2 ≠ 1 ∨ byteAt b 6 ≠ h ∨ byteAt b 7 = 0 ∨ 32 < byteAt b 7 ∨ b.length < 8 then s.orBits Reg.HST_EVT (bitW 31)
  else
    let s := if s.mode = mMINIMAL ∧ s.rd (Reg.HST_LAND_PEER h) = 0 then s.wr (Reg.HST_LAND_PEER h) (word u.src) else s
    let s := s.setLand h { s.land h with peer := some ⟨u.src, u.port, u.mac⟩ }
    let hello := (byteAt b 3).testBit 2
    match (s.land h).kept with
    | some (q, l, r) =>
      if !hello && q == leAt b 4 2 && l == b.length then s.zSend h r
      else (if hello then s.resetHost h else s).zRequest h b
    | none => (if hello then s.resetHost h else s).zRequest h b

/-- A frame that is a Zhevu datagram is executed; one sent to ZPORT by any other sender is dropped (R291, R294). -/
def State.zFrame (s : State) (e : Nat) (u : Udp) : State :=
  match lowest 4 (s.peerOf e u) with
  | some h => s.zTake h u
  | none => s.orBits Reg.HST_EVT (bitW 30)

/-- A Zhevu datagram arrives at port e. -/
def zhevuDatagram (e : Nat) (b : List Byte) (s : State) : State :=
  if !s.bit (Reg.HST_ETH_CFG e) 31 then s
  else match s.zhevuUdp e b with
    | some u => s.zFrame e u
    | none => s

/-- One command of landing h's host, on an Ethernet port, by itself; its part of the response is sent. -/
def State.zAlone (s : State) (h : Nat) (c : ZCmd) : State :=
  if (s.landEth h).isSome then
    let r := s.zExec (16 + h) c
    r.2.2.zSend h r.2.1
  else s

def zhevuRead (h : Nat) (addr : Word) (nw : Nat) (s : State) : State := s.zAlone h ⟨1, nw, addr.toNat, [], false⟩
def zhevuWrite (h : Nat) (addr : Word) (data : List Word) (s : State) : State := s.zAlone h ⟨2, data.length, addr.toNat, data, false⟩
def zhevuDoorbell (h ch : Nat) (bits : Word) (s : State) : State := s.zAlone h ⟨3, 1, ch, [bits], false⟩

/-- A NOTIFY datagram tells a Zhevu host of channel ch's unmasked doorbells (R301). -/
def zhevuNotify (ch : Nat) (s : State) : State :=
  match lowest 4 (fun h => s.receives ch (16 + h) && s.belled ch && (s.land h).peer.isSome && (s.landEth h).isSome) with
  | some h =>
    let l := s.land h
    let bits := s.rd (Reg.MBX_CH_DB ch) &&& ~~~ s.rd (Reg.MBX_CH_MASK ch)
    (s.setLand h { l with notifySeq := (l.notifySeq + 1) % 65536 }).zSend h
      ([0x56, 0x5A, 1, 3] ++ leBytes 2 l.notifySeq ++ [byte h, 1, 3, 0] ++ leBytes 2 1 ++ leBytes 4 ch ++ bytesOf [bits])
  | none => s

/-! ## The rings (R292, R293) -/

/-- The port rings bit i of RXCH where that channel is bound with MID 13 as sender. -/
def State.ringBell (s : State) (e i : Nat) : State :=
  let ch := s.fld (Reg.HST_ETH_CFG e) 21 16
  if s.sends ch 13 then (s.ring ch (bitW i)).wakeMode ch else s

/-- Write words of a slot with MID 13, up to the first that fails. -/
def State.slotWrite (s : State) (o : Nat) : List Word → Bool × State
  | [] => (true, s)
  | w :: t =>
    let r := s.hallStore 13 o (leBytes 4 w.toNat)
    if r.1 then r.2.slotWrite (o + 4) t else (false, r.2)

/-- A good frame goes to the port's receive ring, in whole words (R210, R292). -/
def State.ringFrame (s : State) (e : Nat) (b : List Byte) (fine : Nat) : State :=
  let ptr := Reg.HST_ETH_RXPTR e
  let head := s.fld ptr 21 16
  if (head + 1) % 64 = s.fld ptr 5 0 then s.orBits Reg.HST_EVT (bitW (29 - e))
  else
    let stamp := match eventId b with
      | some id => if s.bit (Reg.TB_ETH_CFG e) 30 then some (s.rxStamp e id fine) else none
      | none => none
    let fl := (mkBit 0 stamp.isSome ||| mkBit 1 (tagged b) ||| (s.resv 640 &&& maskW 15 2)).toNat
    let rec' := stamp.getD (bytesOf [s.resv 641, s.resv 642, s.resv 643])
    let bytes := leBytes 2 b.length ++ leBytes 2 fl ++ rec' ++ b ++ leBytes 3 (s.resv 644).toNat
    let s := s.takeFree
    let r := s.slotWrite (s.fld (Reg.HST_ETH_RXRING e) 22 0 + 2048 * head) (wordsOf ((19 + b.length) / 4) bytes)
    if r.1 then (r.2.setFld ptr 21 16 (head + 1)).ringBell e 0 else r.2.orBits Reg.HST_EVT (bitW 25)

/-- A MAC receives a frame (R291). -/
def ethernetReceive (e : Nat) (b : List Byte) (fcsOk : Bool) (fine : Nat) (s : State) : State :=
  if !s.bit (Reg.HST_ETH_CFG e) 31 || !fcsOk || decide (1518 < b.length) || pauseFrame b then s
  else match s.zhevuUdp e b with
    | some u => s.zFrame e u
    | none => s.ringFrame e b fine

/-- A port sends the slot at HEAD (R209, R292, R293). -/
def ethernetTransmit (e fine : Nat) (s : State) : State :=
  let ptr := Reg.HST_ETH_TXPTR e
  let head := s.fld ptr 21 16
  if !s.bit (Reg.HST_ETH_CFG e) 31 || head == s.fld ptr 5 0 then s
  else
    let o := s.fld (Reg.HST_ETH_TXRING e) 22 0 + 2048 * head
    let next (s : State) : State := (s.setFld ptr 21 16 (head + 1)).ringBell e 1
    match s.hallLoad 13 o 4 with
    | (none, s) => (next s).orBits Reg.HST_EVT (bitW 25)
    | (some h, s) =>
      let len := min (leAt h 0 2) 2032
      match s.dmaRead (o + 16) ((len + 3) / 4) with
      | (none, s) => (next s).orBits Reg.HST_EVT (bitW 25)
      | (some b, s) =>
        let f := b.take len
        let f := f ++ List.replicate (60 - f.length) 0
        let s := { s with hst := { s.hst with ethTx := Table.set (fun _ => []) s.hst.ethTx e (f ++ leBytes 4 (crc32 f)) } }
        let s := match eventId f with
          | some id => s.txStamp e id fine
          | none => s
        next s

def execEthernetReceive (e : Fin 2) (b : List Byte) (fcsOk : Bool) (fine : Fin 32) (s : State) : Host.Outcome State Fault Refusal :=
  .next (ethernetReceive e b fcsOk fine s)
def execEthernetTransmit (e : Fin 2) (fine : Fin 32) (s : State) : Host.Outcome State Fault Refusal := .next (ethernetTransmit e fine s)
def execZhevuDatagram (e : Fin 2) (b : List Byte) (s : State) : Host.Outcome State Fault Refusal := .next (zhevuDatagram e b s)
def execZhevuRead (h : Fin 4) (addr : Word) (nw : Fin 257) (s : State) : Host.Outcome State Fault Refusal := .next (zhevuRead h addr nw s)
def execZhevuWrite (h : Fin 4) (addr : Word) (data : List Word) (s : State) : Host.Outcome State Fault Refusal :=
  .next (zhevuWrite h addr data s)
def execZhevuDoorbell (h : Fin 4) (ch : Fin 64) (bits : Word) (s : State) : Host.Outcome State Fault Refusal := .next (zhevuDoorbell h ch bits s)
def execZhevuNotify (ch : Fin 64) (s : State) : Host.Outcome State Fault Refusal := .next (zhevuNotify ch s)

end Sys2Proof.Machine
end

