-- ==== Sys2Proof/Machine/Mx.lean ====
section
/-! DEFINITION. The Mx extension of the cores (R276 to R280): its twelve instructions and their encodings, the hardware loop, the exposed
pipeline and the save area. The RV32 base around it is no command: MxCtx says what it did. -/

namespace Sys2Proof.Machine

/-! ## A core's registers -/

/-- Register i of a core; x0 reads 0. -/
def Core.reg (c : Core) (i : Nat) : Word := if i = 0 then 0 else Table.get (fun _ => 0) c.x i

/-- Register i of a core takes v; x0 discards it. -/
def Core.setReg (c : Core) (i : Nat) (v : Word) : Core := if i = 0 then c else { c with x := Table.set (fun _ => 0) c.x i v }

def Core.acc (c : Core) (a : Bool) : Acc := if a then c.a1 else c.a0
def Core.hist (c : Core) (a : Bool) : List (Acc × Nat) := if a then c.h1 else c.h0

/-- A write of accumulator a; the value before it stays visible for two instructions (R279). -/
def Core.setAcc (c : Core) (a : Bool) (v : Acc) : Core :=
  if a then { c with a1 := v, h1 := (c.a1, 0) :: c.h1 } else { c with a0 := v, h0 := (c.a0, 0) :: c.h0 }

/-- A core that executes instructions: the Root core outside OFF and RESET, an application core that has started; a blocking
read holds either (R267, R272, R275, R319). -/
def State.coreRuns (s : State) (c : Nat) : Bool :=
  (s.core c).wait == .none && (if c = 9 then decide (mBOOT ≤ s.mode) else s.bit (Reg.TSU_CORE_STAT c) 28)

/-! ## Program order (R278, R279) -/

/-- Completion of the instruction at LE (R278). -/
def Core.loopEnd (c : Core) : Core := if c.lc = 0 then c else { c with lc := c.lc - 1 }

def Core.loopEnds (c : Core) : Nat → Core
  | 0 => c
  | k + 1 => c.loopEnd.loopEnds k

/-- Old values grow k instructions older and are gone after two. -/
def age (h : List (Acc × Nat)) (k : Nat) : List (Acc × Nat) := (h.map (fun e => (e.1, e.2 + k))).filter (fun e => decide (e.2 ≤ 2))

/-- A core comes to an Mx instruction: what MxCtx says happened since the last one. -/
def Core.arrive (c : Core) (x : MxCtx) : Core :=
  let c := x.xs.foldl (fun c e => c.setReg e.1 e.2) (c.loopEnds x.ends)
  let c := if x.entry then { c with h0 := [], h1 := [] } else c
  { c with h0 := age c.h0 (1 + x.gap), h1 := age c.h1 (1 + x.gap), pc := x.pc }

/-- An Mx instruction completes: the next pc, and the loop's test where it stood at LE (R278). -/
def Core.complete (c : Core) : Core :=
  if c.lc ≠ 0 ∧ c.pc = c.le then { c.loopEnd with pc := if c.lc = 1 then c.pc + 4 else c.ls } else { c with pc := c.pc + 4 }

/-- An instruction that raises an exception changes nothing else; its entry waits for the accumulator writes (R279). -/
def Core.raise (c : Core) (e : CoreExc) : Core := { c with exc := some e, epc := c.pc, h0 := [], h1 := [] }

/-- An Mx instruction whose effect is f runs on core k. -/
def State.mxRun (s : State) (k : Nat) (x : MxCtx) (f : Core → Core) : State :=
  if s.coreRuns k then s.setCore k (f ((s.core k).arrive x)).complete else s

/-! ## Accumulators (R276, R277) -/

/-- A[a] += p. -/
def Core.macc (c : Core) (a : Bool) (p : Int) : Core := c.setAcc a ((c.acc a).add p)

/-- The accumulator a reader sees on core k: the new value, or one that a write placed first or second before it replaced (R279). -/
def State.mxSee (s : State) (c : Core) (a : Bool) : Acc := s.pick (c.acc a) (c.acc a :: (c.hist a).map Prod.fst)

/-- A reader of accumulator a on core k: rd takes f of what it sees. -/
def State.mxReader (s : State) (k : Nat) (x : MxCtx) (rd : Nat) (a : Bool) (f : Acc → Word) : State :=
  if s.coreRuns k then
    let c := (s.core k).arrive x
    (s.setCore k (c.setReg rd (f (s.mxSee c a))).complete).takeFree
  else s

/-- Bits [31:0] of an accumulator, and its high word: bits [39:32] and the sticky bit (R277). -/
def Acc.low (a : Acc) : Word := wordI a.val
def Acc.high (a : Acc) : Word := mkBit 31 a.st ||| word (wrapN 40 a.val >>> 32)

/-- The accumulator that a low and a high word give (R277). -/
def accOf (lo hi : Word) : Acc := { val := sgn 40 (wFld hi 7 0 * 2 ^ 32 + lo.toNat), st := wBit hi 31 }

def mxMac (k : Nat) (x : MxCtx) (a : Bool) (rs1 rs2 : Nat) (s : State) : State :=
  s.mxRun k x (fun c => c.macc a (loS (c.reg rs1) * loS (c.reg rs2)))
def mxMac2 (k : Nat) (x : MxCtx) (rs1 rs2 : Nat) (s : State) : State :=
  s.mxRun k x (fun c => (c.macc false (loS (c.reg rs1) * loS (c.reg rs2))).macc true (hiS (c.reg rs1) * hiS (c.reg rs2)))
def mxMacx2 (k : Nat) (x : MxCtx) (rs1 rs2 : Nat) (s : State) : State :=
  s.mxRun k x (fun c => (c.macc false (loS (c.reg rs1) * hiS (c.reg rs2))).macc true (hiS (c.reg rs1) * loS (c.reg rs2)))
def mxClr (k : Nat) (x : MxCtx) (a : Bool) (s : State) : State := s.mxRun k x (fun c => c.setAcc a {})
def mxClr2 (k : Nat) (x : MxCtx) (s : State) : State := s.mxRun k x (fun c => (c.setAcc false {}).setAcc true {})
def mxWr (k : Nat) (x : MxCtx) (a : Bool) (rs1 rs2 : Nat) (s : State) : State :=
  s.mxRun k x (fun c => c.setAcc a (accOf (c.reg rs1) (c.reg rs2)))

def mxRd (k : Nat) (x : MxCtx) (rd : Nat) (a : Bool) (sh : Nat) (s : State) : State :=
  s.mxReader k x rd a (fun v => wordI (store16 v (sgn 4 sh) false 0))
def mxRdw (k : Nat) (x : MxCtx) (rd : Nat) (a : Bool) (s : State) : State := s.mxReader k x rd a Acc.low
def mxRdh (k : Nat) (x : MxCtx) (rd : Nat) (a : Bool) (s : State) : State := s.mxReader k x rd a Acc.high

/-! ## The loop (R278) -/

/-- mx.loop: an error where a loop is active or LE lies below LS; a count of 0 goes on after the instruction at LE, whose length the
choice len gives. -/
def Core.loop (c : Core) (rs1 imm len : Nat) : Core :=
  let ls := c.pc + 4
  let le := c.pc + word (2 * imm)
  if c.lc ≠ 0 ∨ le < ls then c.raise .illegal
  else if c.reg rs1 = 0 then { c with ls := ls, le := le, pc := le + word len }
  else { c with lc := c.reg rs1, ls := ls, le := le, pc := ls }

def mxLoop (k : Nat) (x : MxCtx) (rs1 imm : Nat) (s : State) : State :=
  if s.coreRuns k then (s.setCore k (((s.core k).arrive x).loop rs1 imm (s.pick 4 [2, 4]))).takeFree else s

/-! ## The save area (R280) -/

/-- A local-memory word of a core. -/
def Core.lword (c : Core) (o : Nat) : Word :=
  word (leNat ((List.range 4).map (fun i => Table.get (fun _ => 0) c.lmem ((o + i) % 65536))))

/-- Bytes written into a core's local memory. -/
def Core.lstore (c : Core) (o : Nat) (bs : List Byte) : Core :=
  { c with lmem := (bs.foldl (fun (t : Nat × Table Byte) b => (t.1 + 1, Table.set (fun _ => 0) t.2 (t.1 % 65536) b)) (o, c.lmem)).2 }

/-- The words of the save area; r is the reserved one. -/
def Core.saved (c : Core) (r : Word) : List Word := [c.a0.low, c.a0.high, c.a1.low, c.a1.high, c.lc, c.ls, c.le, r]

/-- The Mx state that the words of a save area give. -/
def Core.restored (c : Core) (w : List Word) : Core :=
  let at' (i : Nat) : Word := (w[i]?).getD 0
  { c with a0 := accOf (at' 0) (at' 1), a1 := accOf (at' 2) (at' 3), lc := at' 4, ls := at' 5, le := at' 6, h0 := [], h1 := [] }

/-- A bus access of core k failed: an access-fault exception (R284). -/
def BusRes.failed (r : BusRes) : Bool := r != .done

/-- Words written over the bus by MID m, up to the first that is refused. -/
def State.busStore (s : State) (m a : Nat) : List Word → Bool × State
  | [] => (true, s)
  | w :: ws =>
    let r := s.busWrite32 m a w
    if r.1.failed then (false, r.2) else r.2.busStore m (a + 4) ws

/-- k words read over the bus by MID m, up to the first that is refused. -/
def State.busLoad (s : State) (m a : Nat) : Nat → Option (List Word) × State
  | 0 => (some [], s)
  | k + 1 =>
    let r := s.busRead32 m a
    if r.1.failed then (none, r.2.2)
    else
      let t := r.2.2.busLoad m (a + 4) k
      (t.1.map (r.2.1 :: ·), t.2)

/-- mx.save on core k (R277, R279, R280). -/
def mxSave (k : Nat) (x : MxCtx) (rs1 : Nat) (loc : Bool) (s : State) : State :=
  if !s.coreRuns k then s
  else
    let c := (s.core k).arrive x
    let a := (c.reg rs1).toNat
    let w := c.saved (s.resv 20)
    let done (c : Core) : Core := { c with lc := 0, h0 := [], h1 := [] }.complete
    if a % 8 ≠ 0 then s.setCore k (c.raise .misaligned)
    else if loc then (s.setCore k (done (c.lstore a (bytesOf w)))).takeFree
    else
      let r := (s.setCore k c).takeFree.busStore (coreMid k) a w
      r.2.setCore k (if r.1 then done (r.2.core k) else (r.2.core k).raise .accessFault)

/-- mx.restore on core k (R277, R279, R280). -/
def mxRestore (k : Nat) (x : MxCtx) (rs1 : Nat) (loc : Bool) (s : State) : State :=
  if !s.coreRuns k then s
  else
    let c := (s.core k).arrive x
    let a := (c.reg rs1).toNat
    if a % 8 ≠ 0 then s.setCore k (c.raise .misaligned)
    else if loc then s.setCore k (c.restored ((List.range 7).map (fun i => c.lword (a + 4 * i)))).complete
    else
      let r := (s.setCore k c).busLoad (coreMid k) a 7
      r.2.setCore k (match r.1 with
        | some w => ((r.2.core k).restored w).complete
        | none => (r.2.core k).raise .accessFault)

/-! ## Encodings (R277) -/

/-- The operations of the Mx extension. -/
inductive MxOp where
  | mac (a : Bool) (rs1 rs2 : Nat)
  | mac2 (rs1 rs2 : Nat)
  | macx2 (rs1 rs2 : Nat)
  | clr (a : Bool)
  | clr2
  | rd (rd : Nat) (a : Bool) (sh : Nat)
  | rdw (rd : Nat) (a : Bool)
  | rdh (rd : Nat) (a : Bool)
  | wr (a : Bool) (rs1 rs2 : Nat)
  | loop (rs1 imm : Nat)
  | save (rs1 : Nat)
  | restore (rs1 : Nat)
  deriving DecidableEq, Repr

/-- A word of the custom-0 opcode space, the Mx extension's (R277). -/
def isMx (w : Word) : Bool := wFld w 6 0 == 0x0B

/-- The operation that a word spells, by funct3 and funct7 or imm; fields that an operation does not use are 0. Any other combination spells none
(R277). -/
def mxDecode (w : Word) : Option MxOp :=
  let f7 := wFld w 31 25
  let imm := wFld w 31 20
  let rs2 := wFld w 24 20
  let rs1 := wFld w 19 15
  let rd := wFld w 11 7
  if !isMx w then none
  else match wFld w 14 12 with
    | 0 =>
      if rd ≠ 0 then none
      else match f7 with
        | 0 => some (.mac false rs1 rs2)
        | 1 => some (.mac true rs1 rs2)
        | 2 => some (.mac2 rs1 rs2)
        | 3 => some (.macx2 rs1 rs2)
        | _ => none
    | 1 =>
      if rd ≠ 0 ∨ rs1 ≠ 0 ∨ rs2 ≠ 0 then none
      else match f7 with
        | 0 => some (.clr false)
        | 1 => some (.clr true)
        | 2 => some .clr2
        | _ => none
    | 2 => if rs1 ≠ 0 ∨ 32 ≤ imm then none else some (.rd rd (wBit w 24) (imm % 16))
    | 3 => if rs1 ≠ 0 ∨ 4 ≤ imm then none else some (if wBit w 21 then .rdh rd (wBit w 20) else .rdw rd (wBit w 20))
    | 4 => if rd ≠ 0 ∨ 2 ≤ f7 then none else some (.wr (wBit w 25) rs1 rs2)
    | 5 => if rd ≠ 0 then none else some (.loop rs1 imm)
    | 6 =>
      if rd ≠ 0 ∨ rs2 ≠ 0 then none
      else match f7 with
        | 0 => some (.save rs1)
        | 1 => some (.restore rs1)
        | _ => none
    | _ => none

/-- Core k comes to the word of x, given as the operation op with effect f. A word of the Mx extension that spells no operation raises an
illegal-instruction exception; at the word of another operation, or one outside the extension, op does not occur (R277). -/
def mxIssue (k : Nat) (x : MxCtx) (op : MxOp) (f : State → State) (s : State) : State :=
  match mxDecode x.word with
  | some o => if o = op then f s else s
  | none => if isMx x.word && s.coreRuns k then s.setCore k (((s.core k).arrive x).raise .illegal) else s

/-! ## The commands -/

def execMxMac (k : Fin 10) (x : MxCtx) (a : Bool) (rs1 rs2 : Fin 32) (s : State) : Host.Outcome State Fault Refusal :=
  .next (mxIssue k x (.mac a rs1 rs2) (mxMac k x a rs1 rs2) s)
def execMxMac2 (k : Fin 10) (x : MxCtx) (rs1 rs2 : Fin 32) (s : State) : Host.Outcome State Fault Refusal :=
  .next (mxIssue k x (.mac2 rs1 rs2) (mxMac2 k x rs1 rs2) s)
def execMxMacx2 (k : Fin 10) (x : MxCtx) (rs1 rs2 : Fin 32) (s : State) : Host.Outcome State Fault Refusal :=
  .next (mxIssue k x (.macx2 rs1 rs2) (mxMacx2 k x rs1 rs2) s)
def execMxClr (k : Fin 10) (x : MxCtx) (a : Bool) (s : State) : Host.Outcome State Fault Refusal :=
  .next (mxIssue k x (.clr a) (mxClr k x a) s)
def execMxClr2 (k : Fin 10) (x : MxCtx) (s : State) : Host.Outcome State Fault Refusal :=
  .next (mxIssue k x .clr2 (mxClr2 k x) s)
def execMxRd (k : Fin 10) (x : MxCtx) (rd : Fin 32) (a : Bool) (sh : Fin 16) (s : State) : Host.Outcome State Fault Refusal :=
  .next (mxIssue k x (.rd rd a sh) (mxRd k x rd a sh) s)
def execMxRdw (k : Fin 10) (x : MxCtx) (rd : Fin 32) (a : Bool) (s : State) : Host.Outcome State Fault Refusal :=
  .next (mxIssue k x (.rdw rd a) (mxRdw k x rd a) s)
def execMxRdh (k : Fin 10) (x : MxCtx) (rd : Fin 32) (a : Bool) (s : State) : Host.Outcome State Fault Refusal :=
  .next (mxIssue k x (.rdh rd a) (mxRdh k x rd a) s)
def execMxWr (k : Fin 10) (x : MxCtx) (a : Bool) (rs1 rs2 : Fin 32) (s : State) : Host.Outcome State Fault Refusal :=
  .next (mxIssue k x (.wr a rs1 rs2) (mxWr k x a rs1 rs2) s)
def execMxLoop (k : Fin 10) (x : MxCtx) (rs1 : Fin 32) (imm : Fin 4096) (s : State) : Host.Outcome State Fault Refusal :=
  .next (mxIssue k x (.loop rs1 imm) (mxLoop k x rs1 imm) s)
def execMxSave (k : Fin 10) (x : MxCtx) (rs1 : Fin 32) (loc : Bool) (s : State) : Host.Outcome State Fault Refusal :=
  .next (mxIssue k x (.save rs1) (mxSave k x rs1 loc) s)
def execMxRestore (k : Fin 10) (x : MxCtx) (rs1 : Fin 32) (loc : Bool) (s : State) : Host.Outcome State Fault Refusal :=
  .next (mxIssue k x (.restore rs1) (mxRestore k x rs1 loc) s)

end Sys2Proof.Machine
end

