-- ==== Sys2Proof/Machine/Rows.lean ====
section
/-! DEFINITION. The commands that are an access to one register: each checks the windows, and LK where the register has LK fields alone,
and then has the effect that Bus.lean gives every write or read of that register (R3, R6, R284, R285). -/

namespace Sys2Proof.Machine

/-- A write of register a by MID m with effect f. -/
def State.wrReg (s : State) (m a : Nat) (f : State → State) : Host.Outcome State Fault Refusal := .next (s.regAccess m a true f)

/-- A write of an LK register. -/
def State.wrLk (s : State) (m a : Nat) (f : State → State) : Host.Outcome State Fault Refusal := .next (s.lkAccess m a f)

/-- A read of register a by MID m whose effect is f; a core gets the value. -/
def State.rdReg (s : State) (m a : Nat) (f : State → State × Word) : Host.Outcome State Fault Refusal :=
  .next (s.regAccess m a false (fun s => (f s).1.readBy m (f s).2))

/-! ## LAW and LRN (R51, R53, R95, R96) -/

def execLawStgArm (m : Fin 32) (a : Fin 256) (v : Word) (s : State) : Host.Outcome State Fault Refusal :=
  s.wrReg m (Reg.LAW_STG_CTRL a) (fun s => s.stgCtrl a v)
def execLawStgCancel (m : Fin 32) (a : Fin 256) (v : Word) (s : State) : Host.Outcome State Fault Refusal :=
  s.wrReg m (Reg.LAW_STG_CTRL a) (fun s => s.stgCtrl a v)
def execLawStgCopy (m : Fin 32) (a : Fin 256) (v : Word) (s : State) : Host.Outcome State Fault Refusal :=
  s.wrReg m (Reg.LAW_STG_CTRL a) (fun s => s.stgCtrl a v)
def execLrnZero (m : Fin 32) (a : Fin 256) (v : Word) (s : State) : Host.Outcome State Fault Refusal :=
  s.wrReg m (Reg.LRN_CTRL a) (fun s => s.lrnCtrl a v)
def execLrnUhold (m : Fin 32) (a : Fin 256) (v : Word) (s : State) : Host.Outcome State Fault Refusal :=
  s.wrReg m (Reg.LRN_CTRL a) (fun s => s.lrnCtrl a v)
def execLrnIoff (m : Fin 32) (a : Fin 256) (v : Word) (s : State) : Host.Outcome State Fault Refusal :=
  s.wrReg m (Reg.LRN_CTRL a) (fun s => s.lrnCtrl a v)

/-! ## GAL (R76, R78, R83) -/

/-- GAL_CTRL holds LK fields beside MINCLR (R7). -/
def State.galCtrlBy (s : State) (m : Nat) (v : Word) : State := s.regWrite m Reg.GAL_CTRL v

def execGalRetire (m : Fin 32) (v : Word) (s : State) : Host.Outcome State Fault Refusal := s.wrReg m Reg.GAL_CTRL (fun s => s.galCtrlBy m v)
def execGalMinclr (m : Fin 32) (v : Word) (s : State) : Host.Outcome State Fault Refusal := s.wrReg m Reg.GAL_CTRL (fun s => s.galCtrlBy m v)
def execGalChkStart (m : Fin 32) (v : Word) (s : State) : Host.Outcome State Fault Refusal := s.wrReg m Reg.GAL_CHK (fun s => s.galChkStart v)

/-! ## FBK (R113) -/

def execOriginPairWrite (m : Fin 32) (n : Fin 528) (v : Word) (s : State) : Host.Outcome State Fault Refusal :=
  s.wrReg m (Reg.SRC_ORGHI n) (fun s => s.originPair n v)
def execLimitPairWrite (m : Fin 32) (n : Fin 528) (v : Word) (s : State) : Host.Outcome State Fault Refusal :=
  s.wrReg m (Reg.SRC_LIMHI n) (fun s => s.limitPair n v)

/-! ## PWM (R130 to R132, R142) -/

def execPwmStart (m : Fin 32) (v : Word) (s : State) : Host.Outcome State Fault Refusal :=
  s.wrReg m Reg.PWM_START (fun s => s.eachGrp v (fun g s => s.pwmStart1 g))
def execPwmStop (m : Fin 32) (v : Word) (s : State) : Host.Outcome State Fault Refusal :=
  s.wrReg m Reg.PWM_STOP (fun s => s.eachGrp v (fun g s => s.pwmStop1 g))
def execPwmLoadall (m : Fin 32) (v : Word) (s : State) : Host.Outcome State Fault Refusal :=
  s.wrReg m Reg.PWM_LOADALL (fun s => s.when (wBit v 0) State.loadAll)
def execShadowWrite (m : Fin 32) (g : Fin 8) (second : Bool) (v : Word) (s : State) : Host.Outcome State Fault Refusal :=
  s.wrReg m (if second then Reg.PWM_GRP_SHDW2 g else Reg.PWM_GRP_SHDW01 g) (fun s => s.shadowWrite g second v)
def execDeadTimeWrite (m : Fin 32) (g : Fin 8) (v : Word) (s : State) : Host.Outcome State Fault Refusal :=
  s.wrReg m (Reg.PWM_GRP_DT g) (fun s => s.dtWrite g v)

/-! ## TRN (R180) and TB (R197, R201, R202, R205, R209) -/

def execSvcGo (m : Fin 32) (n : Fin 12) (v : Word) (s : State) : Host.Outcome State Fault Refusal :=
  s.wrReg m (Reg.TRN_SVC_TXCTL n) (fun s => s.svcTxctl n v)
def execSnapGo (m : Fin 32) (v : Word) (s : State) : Host.Outcome State Fault Refusal := s.wrReg m Reg.TB_SNAP (fun s => s.snapGo v)
def execTbStep (m : Fin 32) (v : Word) (s : State) : Host.Outcome State Fault Refusal := s.wrReg m Reg.TB_CTRL (fun s => s.tbCtrl v)
def execTbAdj (m : Fin 32) (v : Word) (s : State) : Host.Outcome State Fault Refusal := s.wrReg m Reg.TB_CTRL (fun s => s.tbCtrl v)
def execTbTvclr (m : Fin 32) (v : Word) (s : State) : Host.Outcome State Fault Refusal := s.wrReg m Reg.TB_CTRL (fun s => s.tbCtrl v)
def execFirmwareOffset (m : Fin 32) (v : Word) (s : State) : Host.Outcome State Fault Refusal := s.wrReg m Reg.TB_OFS_FRAC (fun s => s.ofsFrac v)
def execTxqPop (m : Fin 32) (e : Fin 2) (v : Word) (s : State) : Host.Outcome State Fault Refusal :=
  s.wrReg m (Reg.TB_ETH_TXQPOP e) (fun s => s.txqPop e v)

/-! ## FIO (R250, R252, R258, R260) -/

def execFioDoCmd (m : Fin 32) (v : Word) (s : State) : Host.Outcome State Fault Refusal := s.wrReg m Reg.FIO_DO_CMD (fun s => s.doCmd v)
def execFioDoSet (m : Fin 32) (v : Word) (s : State) : Host.Outcome State Fault Refusal := s.wrReg m Reg.FIO_DO_SET (fun s => s.doSet v)
def execFioDoClr (m : Fin 32) (v : Word) (s : State) : Host.Outcome State Fault Refusal := s.wrReg m Reg.FIO_DO_CLR (fun s => s.doClr v)
def execFioDoUnlatch (m : Fin 32) (v : Word) (s : State) : Host.Outcome State Fault Refusal :=
  s.wrReg m Reg.FIO_DO_UNLATCH (fun s => s.doUnlatch v)
def execFioResume (m : Fin 32) (v : Word) (s : State) : Host.Outcome State Fault Refusal := s.wrReg m Reg.FIO_CTRL (fun s => s.fioCtrl v)
def execFioReen (m : Fin 32) (v : Word) (s : State) : Host.Outcome State Fault Refusal := s.wrReg m Reg.FIO_CTRL (fun s => s.fioCtrl v)

/-! ## TSU (R264 to R268, R275) -/

def execSubmit (m : Fin 32) (v : Word) (s : State) : Host.Outcome State Fault Refusal := s.wrReg m Reg.TSU_SUB_CTL (fun s => s.submit m v)
/-- The read's value comes with the job, at once or later (R267). -/
def execTake (m : Fin 32) (s : State) : Host.Outcome State Fault Refusal := .next (s.regAccess m Reg.TSU_TAKE false (fun s => s.takeRead m))
def execDone (m : Fin 32) (res : Word) (s : State) : Host.Outcome State Fault Refusal := s.wrReg m Reg.TSU_DONE (fun s => s.doneWrite m res)
def execTsuPwrWrite (m : Fin 32) (v : Word) (s : State) : Host.Outcome State Fault Refusal := s.wrLk m Reg.TSU_PWR (fun s => s.pwrWrite v)

/-! ## HST and PRT (R285, R287, R307 to R310) -/

/-- PRT_WINk_CTRL is LK, and its write puts the window's four values in force. -/
def execWindowApply (m k : Fin 32) (v : Word) (s : State) : Host.Outcome State Fault Refusal :=
  s.wrLk m (Reg.PRT_WIN_CTRL k) (fun s => (s.wr (Reg.PRT_WIN_CTRL k) (v &&& 0x8000003F)).winApply k)
def execImageLatch (m : Fin 32) (s : State) : Host.Outcome State Fault Refusal := s.rdReg m Reg.HST_IMG_LATCH (fun s => s.imgLatch m)
def execImageRelease (m : Fin 32) (v : Word) (s : State) : Host.Outcome State Fault Refusal :=
  s.wrReg m Reg.HST_IMG_RELEASE (fun s => s.imgRelease m v)
def execFailoverAck (m : Fin 32) (v : Word) (s : State) : Host.Outcome State Fault Refusal :=
  s.wrReg m Reg.HST_IMG_RELEASE (fun s => s.imgRelease m v)
def execCommitArm (m : Fin 32) (v : Word) (s : State) : Host.Outcome State Fault Refusal := s.wrReg m Reg.HST_COMMIT (fun s => s.commitWrite m v)
def execCommitCancel (m : Fin 32) (v : Word) (s : State) : Host.Outcome State Fault Refusal :=
  s.wrReg m Reg.HST_COMMIT (fun s => s.commitWrite m v)

/-! ## MBX (R314 to R319) -/

def execMbxBind (m : Fin 32) (n : Fin 64) (v : Word) (s : State) : Host.Outcome State Fault Refusal :=
  s.wrLk m (Reg.MBX_CH_BIND n) (fun s => s.bind n v)
def execDoorbellSet (m : Fin 32) (n : Fin 64) (v : Word) (s : State) : Host.Outcome State Fault Refusal :=
  s.wrReg m (Reg.MBX_CH_DBSET n) (fun s => s.dbSet m n v)
def execDoorbellClear (m : Fin 32) (n : Fin 64) (v : Word) (s : State) : Host.Outcome State Fault Refusal :=
  s.wrReg m (Reg.MBX_CH_DB n) (fun s => s.dbClear m n v)
def execDescriptorPost (m : Fin 32) (n : Fin 64) (v : Word) (s : State) : Host.Outcome State Fault Refusal :=
  s.wrReg m (Reg.MBX_CH_DESCHI n) (fun s => s.descPost m n v)
def execDescriptorAck (m : Fin 32) (n : Fin 64) (v : Word) (s : State) : Host.Outcome State Fault Refusal :=
  s.wrReg m (Reg.MBX_CH_ACK n) (fun s => s.descAck m n v)
def execMbxWait (m : Fin 32) (s : State) : Host.Outcome State Fault Refusal := s.rdReg m Reg.MBX_WAIT (fun s => s.mbxRead m)

/-! ## CAP (R329, R330, R335) -/

def execCaptureArm (m : Fin 32) (n : Fin 16) (v : Word) (s : State) : Host.Outcome State Fault Refusal :=
  s.wrReg m (Reg.CAP_S_CTRL n) (fun s => s.capCtrl n v)
def execCaptureStop (m : Fin 32) (n : Fin 16) (v : Word) (s : State) : Host.Outcome State Fault Refusal :=
  s.wrReg m (Reg.CAP_S_CTRL n) (fun s => s.capCtrl n v)
def execCaptureTrig (m : Fin 32) (n : Fin 16) (v : Word) (s : State) : Host.Outcome State Fault Refusal :=
  s.wrReg m (Reg.CAP_S_CTRL n) (fun s => s.capCtrl n v)
def execCaptureRelease (m : Fin 32) (n : Fin 16) (v : Word) (s : State) : Host.Outcome State Fault Refusal :=
  s.wrReg m (Reg.CAP_S_CTRL n) (fun s => s.capCtrl n v)

/-! ## SYS, PAIR and SPR (R348, R354, R356, R398, R401, R402) -/

def execSwrst (m : Fin 32) (v : Word) (s : State) : Host.Outcome State Fault Refusal := s.wrLk m Reg.SYS_CTRL (fun s => s.sysCtrl v)
def execMgo (m : Fin 32) (v : Word) (s : State) : Host.Outcome State Fault Refusal := s.wrLk m Reg.SYS_CTRL (fun s => s.sysCtrl v)
def execAttclr (m : Fin 32) (v : Word) (s : State) : Host.Outcome State Fault Refusal := s.wrLk m Reg.SYS_CTRL (fun s => s.sysCtrl v)
def execPairYield (m : Fin 32) (v : Word) (s : State) : Host.Outcome State Fault Refusal := s.wrLk m Reg.PAIR_CTRL (fun s => s.pairCtrl v)
def execSprCretire (m : Fin 32) (v : Word) (s : State) : Host.Outcome State Fault Refusal := s.wrLk m Reg.SPR_CTRL (fun s => s.sprCtrl v)
def execSprForce (m : Fin 32) (v : Word) (s : State) : Host.Outcome State Fault Refusal := s.wrLk m Reg.SPR_CTRL (fun s => s.sprCtrl v)

end Sys2Proof.Machine
end

