-- ==== Sys2Proof/Machine/Update.lean ====
section
/-! DEFINITION. The update messages that the Root core serves (R371 to R374): a Hall block named by the descriptor of a channel to MID 0,
answered by an 8-byte block on the channel back to that host. -/

namespace Sys2Proof.Machine

/-! ## The flash -/

/-- A slot's bytes from offset o on, n of them, are erased. -/
def State.flashErase (s : State) (sl o n : Nat) : State :=
  let b := 0x1000000 * sl + o
  { s with pv := { s.pv with flash := Table.keep (fun a => !decide (b ≤ a ∧ a < b + n)) s.pv.flash } }

/-- One byte is programmed: what a byte that was not erased then holds is free (R371). -/
def State.flashProgram (s : State) (a : Nat) (b : Byte) : State :=
  let v := if s.flashByte a = 0xFF then b else Config.flashByte s.free a
  { s with pv := { s.pv with flash := Table.set (fun _ => 0xFF) s.pv.flash a v } }

/-- Bytes are programmed from an address on. -/
def State.flashWrite (s : State) (a : Nat) : List Byte → State
  | [] => s
  | b :: t => (s.flashProgram a b).flashWrite (a + 1) t

/-- A slot has passed VERIFY in this start, with no write to it since (R373). -/
def State.verified (s : State) (sl : Nat) : Bool := if sl = 0 then s.sys.verA else s.sys.verB
def State.setVerified (s : State) (sl : Nat) (b : Bool) : State :=
  { s with sys := if sl = 0 then { s.sys with verA := b } else { s.sys with verB := b } }

/-! ## Messages and answers (R371, R372) -/

/-- Byte i of the message that channel ch's descriptor names, and n of its bytes as a number. -/
def State.msgFld (s : State) (ch i n : Nat) : Nat := leNat (s.hallBytes (s.fld (Reg.MBX_CH_DESCLO ch) 22 0 + i) n)

/-- A posted message to MID 0 on channel ch with operation op, while the Root core runs. -/
def State.hasMessage (s : State) (ch op : Nat) : Bool :=
  decide (mBOOT ≤ s.mode) && s.receives ch 0 && s.bit (Reg.MBX_CH_STAT ch) 31 && s.fld (Reg.MBX_CH_DESCHI ch) 31 16 == op
    && s.msgFld ch 0 1 == op

/-- The answer is stored in the Hall and posted on the channel back, and its bell rung; rec: the cause record of status 0x05. -/
def State.answer (s : State) (ch op status : Nat) (rec : Word) (x : UpdAns) : State :=
  let o := 8 * x.unit.val
  let w := if status = 5 then rec else s.resv 21
  let s := (s.takeFree.hallWrite o ([byte op, byte status] ++ leBytes 2 (s.resv 22).toNat ++ leBytes 4 w.toNat)).descAck 0 ch 1
  let s := (s.descStage 0 x.back (word o)).descPost 0 x.back (mkFld 31 16 op ||| mkFld 15 0 8)
  s.dbSet 0 x.back x.bell

/-- Channel n leads from MID 0 back to the host that sends on channel ch (R371). -/
def State.answersOn (s : State) (ch n : Nat) : Bool := s.sends n 0 && s.receives n (s.fld (Reg.MBX_CH_BIND ch) 20 16)

/-- The next update message to serve: the first posted of those that a channel back can answer (R371, R372). -/
def State.nextMessage (s : State) : Option Nat :=
  s.hst.posted.find? (fun c => (List.range' 1 6).any (fun op => s.hasMessage c op) && (List.range 64).any (fun n => s.answersOn c n))

/-- Serve a message that is next: an answer of 0x06 outside MINIMAL and MAINTENANCE, else what f answers: status, cause record and state (R371). -/
def State.serve (s : State) (ch op : Nat) (x : UpdAns) (f : State → Nat × Word × State) : State :=
  if s.nextMessage != some ch || !s.hasMessage ch op || !s.answersOn ch x.back then s
  else if s.mode ≠ mMINIMAL ∧ s.mode ≠ mMAINTENANCE then s.answer ch op 6 0 x
  else
    let r := f s
    r.2.2.answer ch op r.1 r.2.1 x

/-- The other slot is verified, or FORCE lifts the condition in MINIMAL (R373). -/
def State.mayChange (s : State) (ch sl : Nat) : Bool :=
  s.verified (1 - sl) || (s.mode == mMINIMAL && s.msgFld ch 2 1 % 2 == 1)

/-- An operation on the flash of slot sl in c commands, whose first k do g k: refused by R373 or the guard, else made as far as it gets; a
guard that stops it stands engaged. The flag says whether it ended (R372). -/
def State.flashOp (s : State) (ch sl c : Nat) (x : UpdAns) (g : Nat → State → State) : Nat × Bool × State :=
  if !s.mayChange ch sl then (2, false, s)
  else if s.sys.guard then (1, false, s)
  else
    let s := s.takeFree.setVerified sl false
    match x.cut with
    | some (k, true) => (1, false, { g (min k c) s with sys := { (g (min k c) s).sys with guard := true } })
    | some (k, false) => (4, false, g (min k c) s)
    | none => (0, true, g c s)

/-! ## The operations (R371, R373, R374) -/

/-- ERASE, in 64 KB sectors. -/
def updateErase (ch : Nat) (x : UpdAns) (s : State) : State :=
  s.serve ch 1 x (fun s =>
    let sl := s.msgFld ch 1 1
    if 1 < sl then (3, 0, s)
    else
      let r := s.flashOp ch sl 256 x (fun k s => s.flashErase sl 0 (0x10000 * k))
      (r.1, 0, r.2.2))

/-- WRITE, in 256-byte pages. -/
def updateWrite (ch : Nat) (x : UpdAns) (s : State) : State :=
  s.serve ch 2 x (fun s =>
    let sl := s.msgFld ch 1 1
    let o := s.msgFld ch 4 4
    let n := s.msgFld ch 8 4
    if 1 < sl ∨ o % 256 ≠ 0 ∨ n = 0 ∨ 65536 < n ∨ 0x1000000 < o + n ∨ 0x800000 < s.fld (Reg.MBX_CH_DESCLO ch) 22 0 + 12 + n then (3, 0, s)
    else
      let d := s.hallBytes (s.fld (Reg.MBX_CH_DESCLO ch) 22 0 + 12) n
      let r := s.flashOp ch sl ((n + 255) / 256) x (fun k s => s.flashWrite (0x1000000 * sl + o) (d.take (256 * k)))
      (r.1, 0, r.2.2))

/-- VERIFY; flash: the flash answers. -/
def updateVerify (ch : Nat) (x : UpdAns) (flash : Bool) (s : State) : State :=
  s.serve ch 3 x (fun s =>
    let sl := s.msgFld ch 1 1
    if 1 < sl then (3, 0, s)
    else match s.verify flash sl with
      | some c => (5, c, s)
      | none => (0, 0, s.setVerified sl true))

/-- COPY of the other slot into slot sl, then the checks: 256 sectors are erased, then 65,536 pages are programmed. -/
def updateCopy (ch : Nat) (x : UpdAns) (flash : Bool) (s : State) : State :=
  s.serve ch 4 x (fun s =>
    let sl := s.msgFld ch 1 1
    if 1 < sl then (3, 0, s)
    else
      let src := s.pv.flash.filter (fun e => e.1 / 0x1000000 == 1 - sl)
      let r := s.flashOp ch sl (256 + 65536) x (fun k s =>
        (src.filter (fun e => decide (e.1 % 0x1000000 < 256 * (k - 256)))).foldl
          (fun s e => s.flashProgram (0x1000000 * sl + e.1 % 0x1000000) e.2) (s.flashErase sl 0 (0x10000 * min k 256)))
      if !r.2.1 then (r.1, 0, r.2.2)
      else match r.2.2.verify flash sl with
        | some c => (5, c, r.2.2)
        | none => (0, 0, r.2.2.setVerified sl true))

/-- FUSE: refused when FLOCK is programmed; a fuse once programmed stays (R369, R374). -/
def updateFuse (ch : Nat) (x : UpdAns) (s : State) : State :=
  s.serve ch 5 x (fun s =>
    if wBit s.pv.fuse 31 then (7, 0, s)
    else (0, 0, { s with pv := { s.pv with fuse := s.pv.fuse ||| (word (s.msgFld ch 12 4) &&& maskW 31 29),
                                           kh0 := s.pv.kh0 ||| s.msgFld ch 16 32, kh1 := s.pv.kh1 ||| s.msgFld ch 48 32 } }))

/-- SETREC: words 48 to 63 (R374, R379). -/
def updateSetrec (ch : Nat) (x : UpdAns) (s : State) : State :=
  s.serve ch 6 x (fun s =>
    if s.sys.guard then (1, 0, s.pregRefuse)
    else (0, 0, s.each (List.range 16) (fun i t => (t.pregWrite (48 + i) (word (s.msgFld ch (12 + 4 * i) 4))).1)))

def execUpdateErase (ch : Fin 64) (x : UpdAns) (s : State) : Host.Outcome State Fault Refusal := .next (updateErase ch x s)
def execUpdateWrite (ch : Fin 64) (x : UpdAns) (s : State) : Host.Outcome State Fault Refusal := .next (updateWrite ch x s)
def execUpdateVerify (ch : Fin 64) (x : UpdAns) (flash : Bool) (s : State) : Host.Outcome State Fault Refusal := .next (updateVerify ch x flash s)
def execUpdateCopy (ch : Fin 64) (x : UpdAns) (flash : Bool) (s : State) : Host.Outcome State Fault Refusal := .next (updateCopy ch x flash s)
def execUpdateFuse (ch : Fin 64) (x : UpdAns) (s : State) : Host.Outcome State Fault Refusal := .next (updateFuse ch x s)
def execUpdateSetrec (ch : Fin 64) (x : UpdAns) (s : State) : Host.Outcome State Fault Refusal := .next (updateSetrec ch x s)

end Sys2Proof.Machine
end

