-- ==== Sys2Proof/Machine/Dispatch.lean ====
section
/-! DEFINITION. One arm per command: a direct call of its meaning. -/

namespace Sys2Proof.Machine

def exec (i : Instr) (s : State) : Host.Outcome State Fault Refusal :=
  match i with
  | .cycleStart => Sys2Proof.Machine.execCycleStart s
  | .deferredSwap axis => Sys2Proof.Machine.execDeferredSwap axis s
  | .syncSend seg => Sys2Proof.Machine.execSyncSend seg s
  | .garnetContainerWrite seg k => Sys2Proof.Machine.execGarnetContainerWrite seg k s
  | .frameReceive port frame => Sys2Proof.Machine.execFrameReceive port frame s
  | .feedbackMissing seg k => Sys2Proof.Machine.execFeedbackMissing seg k s
  | .lawJobDispatch => Sys2Proof.Machine.execLawJobDispatch s
  | .nop lane => Sys2Proof.Machine.execNop lane s
  | .mac lane => Sys2Proof.Machine.execMac lane s
  | .stx lane => Sys2Proof.Machine.execStx lane s
  | .stu lane => Sys2Proof.Machine.execStu lane s
  | .lim lane => Sys2Proof.Machine.execLim lane s
  | .rep lane => Sys2Proof.Machine.execRep lane s
  | .lawJobComplete lane stamp => Sys2Proof.Machine.execLawJobComplete lane stamp s
  | .releaseInstant t => Sys2Proof.Machine.execReleaseInstant t s
  | .lawStgArm mid axis v => Sys2Proof.Machine.execLawStgArm mid axis v s
  | .lawStgCancel mid axis v => Sys2Proof.Machine.execLawStgCancel mid axis v s
  | .lawStgCopy mid axis v => Sys2Proof.Machine.execLawStgCopy mid axis v s
  | .lawStgCopyDone axis => Sys2Proof.Machine.execLawStgCopyDone axis s
  | .galRetire mid v => Sys2Proof.Machine.execGalRetire mid v s
  | .galMinclr mid v => Sys2Proof.Machine.execGalMinclr mid v s
  | .galChkStart mid v => Sys2Proof.Machine.execGalChkStart mid v s
  | .galChkDone => Sys2Proof.Machine.execGalChkDone s
  | .lrnZero mid axis v => Sys2Proof.Machine.execLrnZero mid axis v s
  | .lrnZeroDone axis => Sys2Proof.Machine.execLrnZeroDone axis s
  | .lrnUhold mid axis v => Sys2Proof.Machine.execLrnUhold mid axis v s
  | .lrnIoff mid axis v => Sys2Proof.Machine.execLrnIoff mid axis v s
  | .quadratureCount ch tick a b => Sys2Proof.Machine.execQuadratureCount ch tick a b s
  | .pulseCount ch a b => Sys2Proof.Machine.execPulseCount ch a b s
  | .indexEvent z => Sys2Proof.Machine.execIndexEvent z s
  | .feedbackSample ch tick => Sys2Proof.Machine.execFeedbackSample ch tick s
  | .serialReadStart ch tick => Sys2Proof.Machine.execSerialReadStart ch tick s
  | .serialReadDone ch data => Sys2Proof.Machine.execSerialReadDone ch data s
  | .ackTimeout ch => Sys2Proof.Machine.execAckTimeout ch s
  | .originPairWrite mid src v => Sys2Proof.Machine.execOriginPairWrite mid src v s
  | .limitPairWrite mid src v => Sys2Proof.Machine.execLimitPairWrite mid src v s
  | .passThroughReemit pt a b z => Sys2Proof.Machine.execPassThroughReemit pt a b z s
  | .emulationEdge pt => Sys2Proof.Machine.execEmulationEdge pt s
  | .carrierValley g tick y => Sys2Proof.Machine.execCarrierValley g tick y s
  | .carrierPeak g => Sys2Proof.Machine.execCarrierPeak g s
  | .commandedEdge g x => Sys2Proof.Machine.execCommandedEdge g x s
  | .deadTimeEnd g x => Sys2Proof.Machine.execDeadTimeEnd g x s
  | .senseTransition g x level fine => Sys2Proof.Machine.execSenseTransition g x level fine s
  | .senseWindowClose g x => Sys2Proof.Machine.execSenseWindowClose g x s
  | .pwmStart mid v => Sys2Proof.Machine.execPwmStart mid v s
  | .pwmStop mid v => Sys2Proof.Machine.execPwmStop mid v s
  | .pwmLoadall mid v => Sys2Proof.Machine.execPwmLoadall mid v s
  | .shadowWrite mid g second v => Sys2Proof.Machine.execShadowWrite mid g second v s
  | .deadTimeWrite mid g v => Sys2Proof.Machine.execDeadTimeWrite mid g v s
  | .tripActive g => Sys2Proof.Machine.execTripActive g s
  | .tripInactive g => Sys2Proof.Machine.execTripInactive g s
  | .delayLineError g => Sys2Proof.Machine.execDelayLineError g s
  | .debugHalt => Sys2Proof.Machine.execDebugHalt s
  | .freezeEnd => Sys2Proof.Machine.execFreezeEnd s
  | .portSyncLost port => Sys2Proof.Machine.execPortSyncLost port s
  | .portSignalLost port => Sys2Proof.Machine.execPortSignalLost port s
  | .downstreamServiceSend seg => Sys2Proof.Machine.execDownstreamServiceSend seg s
  | .replyWindowClose seg => Sys2Proof.Machine.execReplyWindowClose seg s
  | .svcGo mid seg v => Sys2Proof.Machine.execSvcGo mid seg v s
  | .listenTimeout => Sys2Proof.Machine.execListenTimeout s
  | .pllLock => Sys2Proof.Machine.execPllLock s
  | .referenceLost => Sys2Proof.Machine.execReferenceLost s
  | .referenceReturn => Sys2Proof.Machine.execReferenceReturn s
  | .refclkReset => Sys2Proof.Machine.execRefclkReset s
  | .snapGo mid v => Sys2Proof.Machine.execSnapGo mid v s
  | .tbStep mid v => Sys2Proof.Machine.execTbStep mid v s
  | .tbAdj mid v => Sys2Proof.Machine.execTbAdj mid v s
  | .tbTvclr mid v => Sys2Proof.Machine.execTbTvclr mid v s
  | .firmwareOffset mid v => Sys2Proof.Machine.execFirmwareOffset mid v s
  | .servoMeasurement => Sys2Proof.Machine.execServoMeasurement s
  | .holdover => Sys2Proof.Machine.execHoldover s
  | .ppsEdge rising fine stable => Sys2Proof.Machine.execPpsEdge rising fine stable s
  | .txqPop mid e v => Sys2Proof.Machine.execTxqPop mid e v s
  | .safetySample bas a b di15 => Sys2Proof.Machine.execSafetySample bas a b di15 s
  | .discrepancyFault bas k => Sys2Proof.Machine.execDiscrepancyFault bas k s
  | .testPulse tp1 made => Sys2Proof.Machine.execTestPulse tp1 made s
  | .heartbeatLost garnet => Sys2Proof.Machine.execHeartbeatLost garnet s
  | .rootHeartbeatLost => Sys2Proof.Machine.execRootHeartbeatLost s
  | .lockstepMismatch => Sys2Proof.Machine.execLockstepMismatch s
  | .slsRampEnd bas g => Sys2Proof.Machine.execSlsRampEnd bas g s
  | .slsWindow => Sys2Proof.Machine.execSlsWindow s
  | .slsokMissing g => Sys2Proof.Machine.execSlsokMissing g s
  | .switchPowerupRead bas v => Sys2Proof.Machine.execSwitchPowerupRead bas v s
  | .switchRuntimeRead bas v => Sys2Proof.Machine.execSwitchRuntimeRead bas v s
  | .restartDelay bas g => Sys2Proof.Machine.execRestartDelay bas g s
  | .restartPulse bas => Sys2Proof.Machine.execRestartPulse bas s
  | .stoConfirm bas g => Sys2Proof.Machine.execStoConfirm bas g s
  | .ss1TimerEnd bas g => Sys2Proof.Machine.execSs1TimerEnd bas g s
  | .nodeAckStale seg k => Sys2Proof.Machine.execNodeAckStale seg k s
  | .readbackMismatch stog g => Sys2Proof.Machine.execReadbackMismatch stog g s
  | .releaseMismatch g => Sys2Proof.Machine.execReleaseMismatch g s
  | .degradedLimit bas => Sys2Proof.Machine.execDegradedLimit bas s
  | .fioOutputFrame arrived => Sys2Proof.Machine.execFioOutputFrame arrived s
  | .fioInputFrame rb lim cur vfld => Sys2Proof.Machine.execFioInputFrame rb lim cur vfld s
  | .diSample n high => Sys2Proof.Machine.execDiSample n high s
  | .fioDoCmd mid v => Sys2Proof.Machine.execFioDoCmd mid v s
  | .fioDoSet mid v => Sys2Proof.Machine.execFioDoSet mid v s
  | .fioDoClr mid v => Sys2Proof.Machine.execFioDoClr mid v s
  | .overloadCutoff n => Sys2Proof.Machine.execOverloadCutoff n s
  | .thermalCutoff n => Sys2Proof.Machine.execThermalCutoff n s
  | .outputRetry n => Sys2Proof.Machine.execOutputRetry n s
  | .retryCountClear n => Sys2Proof.Machine.execRetryCountClear n s
  | .fioDoUnlatch mid v => Sys2Proof.Machine.execFioDoUnlatch mid v s
  | .outputDiagnostic n d => Sys2Proof.Machine.execOutputDiagnostic n d s
  | .readbackHigh n drivers => Sys2Proof.Machine.execReadbackHigh n drivers s
  | .silenceTimeout => Sys2Proof.Machine.execSilenceTimeout s
  | .fioResume mid v => Sys2Proof.Machine.execFioResume mid v s
  | .fioReen mid v => Sys2Proof.Machine.execFioReen mid v s
  | .vfldWarn => Sys2Proof.Machine.execVfldWarn s
  | .vfldSag => Sys2Proof.Machine.execVfldSag s
  | .vfldRecover => Sys2Proof.Machine.execVfldRecover s
  | .submit mid v => Sys2Proof.Machine.execSubmit mid v s
  | .jobEligible handle => Sys2Proof.Machine.execJobEligible handle s
  | .take mid => Sys2Proof.Machine.execTake mid s
  | .done mid res => Sys2Proof.Machine.execDone mid res s
  | .jobRelease handle => Sys2Proof.Machine.execJobRelease handle s
  | .flowRelease flow => Sys2Proof.Machine.execFlowRelease flow s
  | .jobTimeout core => Sys2Proof.Machine.execJobTimeout core s
  | .routeChange src => Sys2Proof.Machine.execRouteChange src s
  | .tsuPwrWrite mid v => Sys2Proof.Machine.execTsuPwrWrite mid v s
  | .corePowerUp core => Sys2Proof.Machine.execCorePowerUp core s
  | .mxMac core ctx a rs1 rs2 => Sys2Proof.Machine.execMxMac core ctx a rs1 rs2 s
  | .mxMac2 core ctx rs1 rs2 => Sys2Proof.Machine.execMxMac2 core ctx rs1 rs2 s
  | .mxMacx2 core ctx rs1 rs2 => Sys2Proof.Machine.execMxMacx2 core ctx rs1 rs2 s
  | .mxClr core ctx a => Sys2Proof.Machine.execMxClr core ctx a s
  | .mxClr2 core ctx => Sys2Proof.Machine.execMxClr2 core ctx s
  | .mxRd core ctx rd a sh => Sys2Proof.Machine.execMxRd core ctx rd a sh s
  | .mxRdw core ctx rd a => Sys2Proof.Machine.execMxRdw core ctx rd a s
  | .mxRdh core ctx rd a => Sys2Proof.Machine.execMxRdh core ctx rd a s
  | .mxWr core ctx a rs1 rs2 => Sys2Proof.Machine.execMxWr core ctx a rs1 rs2 s
  | .mxLoop core ctx rs1 imm => Sys2Proof.Machine.execMxLoop core ctx rs1 imm s
  | .mxSave core ctx rs1 loc => Sys2Proof.Machine.execMxSave core ctx rs1 loc s
  | .mxRestore core ctx rs1 loc => Sys2Proof.Machine.execMxRestore core ctx rs1 loc s
  | .windowApply mid win v => Sys2Proof.Machine.execWindowApply mid win v s
  | .hostReset p r => Sys2Proof.Machine.execHostReset p r s
  | .ethernetReceive e bytes fcsOk fine => Sys2Proof.Machine.execEthernetReceive e bytes fcsOk fine s
  | .ethernetTransmit e fine => Sys2Proof.Machine.execEthernetTransmit e fine s
  | .zhevuDatagram e bytes => Sys2Proof.Machine.execZhevuDatagram e bytes s
  | .zhevuRead land addr nw => Sys2Proof.Machine.execZhevuRead land addr nw s
  | .zhevuWrite land addr data => Sys2Proof.Machine.execZhevuWrite land addr data s
  | .zhevuDoorbell land ch bits => Sys2Proof.Machine.execZhevuDoorbell land ch bits s
  | .zhevuNotify ch => Sys2Proof.Machine.execZhevuNotify ch s
  | .imageLatch mid => Sys2Proof.Machine.execImageLatch mid s
  | .imageRelease mid v => Sys2Proof.Machine.execImageRelease mid v s
  | .failoverAck mid v => Sys2Proof.Machine.execFailoverAck mid v s
  | .commitArm mid v => Sys2Proof.Machine.execCommitArm mid v s
  | .commitCancel mid v => Sys2Proof.Machine.execCommitCancel mid v s
  | .mbxBind mid ch v => Sys2Proof.Machine.execMbxBind mid ch v s
  | .doorbellSet mid ch v => Sys2Proof.Machine.execDoorbellSet mid ch v s
  | .doorbellClear mid ch v => Sys2Proof.Machine.execDoorbellClear mid ch v s
  | .descriptorPost mid ch v => Sys2Proof.Machine.execDescriptorPost mid ch v s
  | .descriptorAck mid ch v => Sys2Proof.Machine.execDescriptorAck mid ch v s
  | .mbxWait mid => Sys2Proof.Machine.execMbxWait mid s
  | .captureArm mid n v => Sys2Proof.Machine.execCaptureArm mid n v s
  | .captureStop mid n v => Sys2Proof.Machine.execCaptureStop mid n v s
  | .captureTrig mid n v => Sys2Proof.Machine.execCaptureTrig mid n v s
  | .captureRelease mid n v => Sys2Proof.Machine.execCaptureRelease mid n v s
  | .eventRecord => Sys2Proof.Machine.execEventRecord s
  | .captureRearm n => Sys2Proof.Machine.execCaptureRearm n s
  | .dramRefresh => Sys2Proof.Machine.execDramRefresh s
  | .captureDramRead mid addr size err => Sys2Proof.Machine.execCaptureDramRead mid addr size err s
  | .porAssert => Sys2Proof.Machine.execPorAssert s
  | .porRelease => Sys2Proof.Machine.execPorRelease s
  | .resetnAssert => Sys2Proof.Machine.execResetnAssert s
  | .longPress => Sys2Proof.Machine.execLongPress s
  | .vio33Low => Sys2Proof.Machine.execVio33Low s
  | .watchdogExpire => Sys2Proof.Machine.execWatchdogExpire s
  | .watchdogReset => Sys2Proof.Machine.execWatchdogReset s
  | .resetSourceRelease => Sys2Proof.Machine.execResetSourceRelease s
  | .resetExtensionEnd => Sys2Proof.Machine.execResetExtensionEnd s
  | .bootFlight1 => Sys2Proof.Machine.execBootFlight1 s
  | .bootFlight2 flash => Sys2Proof.Machine.execBootFlight2 flash s
  | .bootFlight3 => Sys2Proof.Machine.execBootFlight3 s
  | .bootFlight4 => Sys2Proof.Machine.execBootFlight4 s
  | .bootFlight5 tests => Sys2Proof.Machine.execBootFlight5 tests s
  | .maintenanceCheck => Sys2Proof.Machine.execMaintenanceCheck s
  | .swrst mid v => Sys2Proof.Machine.execSwrst mid v s
  | .mgo mid v => Sys2Proof.Machine.execMgo mid v s
  | .attclr mid v => Sys2Proof.Machine.execAttclr mid v s
  | .runTimeClear => Sys2Proof.Machine.execRunTimeClear s
  | .attClearRetry => Sys2Proof.Machine.execAttClearRetry s
  | .updateErase ch ans => Sys2Proof.Machine.execUpdateErase ch ans s
  | .updateWrite ch ans => Sys2Proof.Machine.execUpdateWrite ch ans s
  | .updateVerify ch ans flash => Sys2Proof.Machine.execUpdateVerify ch ans flash s
  | .updateCopy ch ans flash => Sys2Proof.Machine.execUpdateCopy ch ans flash s
  | .updateFuse ch ans => Sys2Proof.Machine.execUpdateFuse ch ans s
  | .updateSetrec ch ans => Sys2Proof.Machine.execUpdateSetrec ch ans s
  | .persistentWrite mid n v => Sys2Proof.Machine.execPersistentWrite mid n v s
  | .nvGuardEngage => Sys2Proof.Machine.execNvGuardEngage s
  | .nvGuardRelease => Sys2Proof.Machine.execNvGuardRelease s
  | .beaconSend fine => Sys2Proof.Machine.execBeaconSend fine s
  | .partnerFrameReceive codeOk bytes fine bank chunk => Sys2Proof.Machine.execPartnerFrameReceive codeOk bytes fine bank chunk s
  | .checkpointChunkSend => Sys2Proof.Machine.execCheckpointChunkSend s
  | .refreshChunkSend => Sys2Proof.Machine.execRefreshChunkSend s
  | .leaseLapse => Sys2Proof.Machine.execLeaseLapse s
  | .takeover => Sys2Proof.Machine.execTakeover s
  | .takeoverLoadDone => Sys2Proof.Machine.execTakeoverLoadDone s
  | .pairYield mid v => Sys2Proof.Machine.execPairYield mid v s
  | .coreMemoryError c unc => Sys2Proof.Machine.execCoreMemoryError c unc s
  | .sprCretire mid v => Sys2Proof.Machine.execSprCretire mid v s
  | .sprForce mid v => Sys2Proof.Machine.execSprForce mid v s
  | .hallAccess mid addr size write err => Sys2Proof.Machine.execHallAccess mid addr size write err s
  | .hallRowCopyDone => Sys2Proof.Machine.execHallRowCopyDone s
  | .hallMapDone => Sys2Proof.Machine.execHallMapDone s
  | .trendPeriodEnd => Sys2Proof.Machine.execTrendPeriodEnd s
  | .stateWriteRetry => Sys2Proof.Machine.execStateWriteRetry s
  | .registerWrite mid addr size v => Sys2Proof.Machine.execRegisterWrite mid addr size v s
  | .portSyncAcquired port => Sys2Proof.Machine.execPortSyncAcquired port s
  | .portSignalDetected port => Sys2Proof.Machine.execPortSignalDetected port s
  | .partnerLinkUp => Sys2Proof.Machine.execPartnerLinkUp s
  | .partnerLinkLost => Sys2Proof.Machine.execPartnerLinkLost s
  | .ethernetLinkUp e => Sys2Proof.Machine.execEthernetLinkUp e s
  | .ethernetLinkDown e => Sys2Proof.Machine.execEthernetLinkDown e s
  | .pcieLinkUp p speed width => Sys2Proof.Machine.execPcieLinkUp p speed width s
  | .basaltSelfCheckFail => Sys2Proof.Machine.execBasaltSelfCheckFail s
  | .stobOverload g => Sys2Proof.Machine.execStobOverload g s
  | .delayLineRecalibrated g => Sys2Proof.Machine.execDelayLineRecalibrated g s
  | .spanReportSend => Sys2Proof.Machine.execSpanReportSend s
  | .spareCoreLoaded read => Sys2Proof.Machine.execSpareCoreLoaded read s

end Sys2Proof.Machine
end

