-- ==== Sys2Proof/Safety.lean ====
section
/-! DEFINITION. What a good state is, and what two states share, in the terms the statements use. -/

namespace Sys2Proof.Machine

/-- Every memory and every register table is in its canonical form: keys strictly rising, nothing listed that an unlisted key reads as; the
capture DRAM, whose unlisted bytes are unknown, lists keys strictly rising (R86, R361, R375, R432). -/
structure State.Canonical (s : State) : Prop where
  regs : Table.wf resetOf s.regs = true
  hall : Table.wf (fun _ => (0 : Byte)) s.hall.bytes = true
  words : Table.wf pregFactory s.pv.words = true
  wear : Table.wf (fun _ => (0 : Word)) s.pv.wear = true
  hmap : Table.wf (fun _ => (0 : Word)) s.pv.hmap = true
  flash : Table.wf (fun _ => (0xFF : Byte)) s.pv.flash = true
  dram : Table.rising 0 s.cap.dram = true

/-- The lists of a job on a lane have the lengths of R62, R68, R69: eight accumulators, six state words, two outputs. -/
structure LaneJob.Shaped (j : LaneJob) : Prop where
  acc : j.acc.length = 8
  xNew : j.xNew.length = 6
  u : j.u.length = 2
  us : j.us.length = 2
  w : j.w.length = 2

/-- The lists of the field die have an entry for each of sixteen inputs (R246) or of eight outputs (R250). -/
structure FioBlock.Shaped (f : FioBlock) : Prop where
  cnt : f.cnt.length = 16
  cls : f.cls.length = 8
  flags : f.flags.length = 8
  cond : f.cond.length = 8
  ext : f.ext.length = 8

/-- The lists that stand for a fixed number of things have that many entries: eight inputs and eight groups in each safety channel (R212), those
of the field die, three phases in each PWM group (R126), the lists of a job on a lane (R62, R68, R69). -/
structure State.Shaped (s : State) : Prop where
  gIn : s.saf.g.inputs.length = 8
  bIn : s.saf.b.inputs.length = 8
  gGrp : s.saf.g.grps.length = 8
  bGrp : s.saf.b.grps.length = 8
  fio : s.fio.Shaped
  ph : ∀ e ∈ s.pwm, e.2.ph.length = 3
  lane : ∀ e ∈ s.law.lanes, ∀ j, e.2.job = some j → j.Shaped

/-! ## Who may act -/

/-- A master of MID m issues a 32-bit access at address a, and the windows admit it (R283, R285, R286). -/
abbrev State.may (s : State) (m a : Nat) (write : Bool) : Prop := s.issues m a write = true ∧ s.allowed m a 4 write = true

/-! ## What two states share -/

/-- Every register outside l holds in t what it holds in s. -/
def State.RegsBut (s t : State) (l : List Nat) : Prop := ∀ a, a ∉ l → t.rd a = s.rd a

/-- t is s but for the registers of l. -/
structure State.OnlyRegs (s t : State) (l : List Nat) : Prop where
  rest : { t with regs := s.regs } = s
  regs : s.RegsBut t l

/-- The registers that the delivery of an interrupt may change: TSU_IRQLOST, TSU_EVT and the wait bit of TSU_COREc_STAT (R267, R273, R274). -/
def deliveryRegs : List Nat := Reg.TSU_IRQLOST :: Reg.TSU_EVT :: (List.range 9).map Reg.TSU_CORE_STAT

/-- t is s but for the registers of l and what the delivery of interrupts changes: its registers, and cores that end a wait (R267, R273). -/
structure State.OnlyRaised (s t : State) (l : List Nat) : Prop where
  rest : { t with regs := s.regs, tsu := { t.tsu with cores := s.tsu.cores } } = s
  regs : s.RegsBut t (l ++ deliveryRegs)

/-- What a session's trigger changes beside CAP_EVT and the lost count, where a record of the same tick takes it: the trigger's place, its status, and
its charge (R330, R333 to R335). -/
def triggerRegs (n : Nat) : List Nat :=
  [Reg.CAP_S_LOST n, Reg.CAP_S_STAT n, Reg.CAP_S_TPTR n, Reg.CAP_S_PREACT n, Reg.CAP_S_CHG n]

/-- The registers that the notice of an event may change: those of interrupt delivery, and what the capture engine counts, shows and raises
(R328, R332, R333). -/
def noticeRegs : List Nat := Reg.CAP_EVT :: Reg.CAP_BWSUM :: ((List.range 16).flatMap triggerRegs ++ deliveryRegs)

/-- Every byte of the capture DRAM is as before, but for FLAGS.TRIG of records that take a trigger, bit 0 of a byte (R323, R333). -/
def State.DramMarked (s t : State) : Prop :=
  ∀ a, Table.find? t.cap.dram a = Table.find? s.cap.dram a
    ∨ Table.find? t.cap.dram a = some ((Table.find? s.cap.dram a).getD 0 ||| 1)

/-- The Hall and the persistent store with the flash are the same in both, and the capture DRAM but for trigger flags. -/
structure State.SameStore (s t : State) : Prop where
  hall : t.hall = s.hall
  pv : t.pv = s.pv
  dram : s.DramMarked t

/-- t is s but for the registers of l and what the notice of events changes: its registers, waiting cores, the queue and sessions of
the capture engine, and the trigger flags of records. -/
structure State.OnlyNoticed (s t : State) (l : List Nat) : Prop where
  rest : { t with regs := s.regs, tsu := { t.tsu with cores := s.tsu.cores },
                  cap := { t.cap with queue := s.cap.queue, sess := s.cap.sess, dram := s.cap.dram } } = s
  regs : s.RegsBut t (l ++ noticeRegs)
  dram : s.DramMarked t

/-- The registers that a stop or a fault of the safety unit may change beside those of its notice: SAF_EVTSEQ, SAF_FLT and the causes in SAF_GRPg (R244). -/
def safetyRegs : List Nat := Reg.SAF_EVTSEQ :: Reg.SAF_FLT :: ((List.range 8).map Reg.SAF_GRP ++ noticeRegs)

/-- t is s but for the registers of l and what a safety event changes: the safety unit, the mode that is pending, the safety registers, and
the notice of the event. -/
structure State.OnlySafety (s t : State) (l : List Nat) : Prop where
  rest : { t with regs := s.regs, saf := s.saf, sys := { t.sys with pend := s.sys.pend, stopPend := s.sys.stopPend },
                  tsu := { t.tsu with cores := s.tsu.cores },
                  cap := { t.cap with queue := s.cap.queue, sess := s.cap.sess, dram := s.cap.dram } } = s
  regs : s.RegsBut t (l ++ safetyRegs)
  dram : s.DramMarked t

/-- What RESET leaves of s (R8, R344): every register holds its value after RESET but SYS_RST_CAUSE, which shows the cause; the block state
behind the registers starts afresh; the queue, the persistent store, the Hall (cleared later, in flight 0) and the guard are kept;
lanes and cores take the states of their persistent words. -/
structure State.ResetFrom (s t : State) (cause active : Word) : Prop where
  cause : t.rd Reg.SYS_RST_CAUSE = cause
  regs : ∀ a, a ≠ Reg.SYS_RST_CAUSE → t.rd a = resetOf a
  kept : t.pending = s.pending ∧ t.pv = s.pv ∧ t.hall = s.hall
  sys : t.sys = { guard := s.sys.guard, active := active }
  afresh : t.tb = {} ∧ t.fbk = {} ∧ t.trn = {} ∧ t.hst = {} ∧ t.pwm = [] ∧ t.saf = {} ∧ t.fio = {} ∧ t.spr = {} ∧ t.pair = {}
  capture : t.cap.queue = [] ∧ t.cap.sess = [] ∧ t.cap.dram = []
  jobs : t.law.jobs = [] ∧ t.law.axes = [] ∧ t.tsu.jobs = []
  lanes : ∀ n, n < 18 → (t.lane n).state = wFld (s.preg (8 + n)) 31 29 ∧ (t.lane n).job = none
  cores : ∀ c, c < 9 → (t.core c).state = min 4 (wFld (s.preg (32 + c)) 31 29) ∧ (t.core c).x = []

/-- The Hall, the persistent store with the flash, and the written bytes of the capture DRAM are the same in both. -/
structure State.SameMemory (s t : State) : Prop where
  hall : t.hall = s.hall
  pv : t.pv = s.pv
  dram : t.cap.dram = s.cap.dram

/-- The Mx commands of core k, each with its operation. -/
def mxCommands (k : Fin 10) (x : MxCtx) (a l : Bool) (r1 r2 : Fin 32) (sh : Fin 16) (imm : Fin 4096) : List (MxOp × Instr) :=
  [(.mac a r1 r2, .mxMac k x a r1 r2), (.mac2 r1 r2, .mxMac2 k x r1 r2), (.macx2 r1 r2, .mxMacx2 k x r1 r2), (.clr a, .mxClr k x a),
   (.clr2, .mxClr2 k x), (.rd r1 a sh, .mxRd k x r1 a sh), (.rdw r1 a, .mxRdw k x r1 a), (.rdh r1 a, .mxRdh k x r1 a),
   (.wr a r1 r2, .mxWr k x a r1 r2), (.loop r1 imm, .mxLoop k x r1 imm), (.save r1, .mxSave k x r1 l), (.restore r1, .mxRestore k x r1 l)]

end Sys2Proof.Machine
end

