-- ==== Sys2Proof/Certificates/Slice0/Obligations.lean ====
section
/-! DEFINITION. The statements for the provers. Commands of one shape are grouped: each statement says, for each command it names, when the
command takes its effect, what the effect is, and what stays as it was. -/

open Sys2Proof Sys2Proof.Machine

/-- A step with a command in front is that command's meaning on the state with the rest of the queue (the queue is the model's own). -/
def Obligations.StepRunsFront : Prop :=
  ∀ (s : State) (c : Instr) (rest : List Instr), s.pending = c :: rest → step s = exec c { s with pending := rest }

/-- While no command waits, one tick passes (the model's choice, log entry 1): network time advances by INC = 2.5 ns + RATE (R196); a time base that does not
run stands still (R194, R195). -/
def Obligations.IdleTick : Prop :=
  (∀ s : State, s.pending = [] → s.tb.running = true → s.tb.ctick + 1 < s.tb.len → s.tb.frac < 2 ^ 32 → s.tb.ns < 1000000000 →
    0 ≤ s.tb.net + s.inc32 → s.tb.net + s.inc32 < ((2 ^ 64 * secU : Nat) : Int) →
    ∃ t, step s = .next t ∧ { t with tb := s.tb } = s ∧ t.tb.tick = s.tb.tick + 1 ∧ t.tb.ctick = s.tb.ctick + 1 ∧ t.tb.cyc = s.tb.cyc
      ∧ t.tb.net = s.tb.net + 10737418240 + s32 (s.rd Reg.TB_RATE) ∧ t.tb.frac < 2 ^ 32 ∧ t.tb.ns < 1000000000)
  ∧ ∀ s : State, s.pending = [] → s.tb.running = false → step s = .next s

/-- The base case of CanonicalKept and of ShapeKept. -/
def Obligations.InvariantsAtReset : Prop := State.reset.Canonical ∧ State.reset.Shaped

/-- From every state whose memories and register table are in canonical form, reachable or not, every step answers a state where they still are: each command
reads and writes cells one at a time, and none leaves two values for one address. -/
def Obligations.CanonicalKept : Prop :=
  ∀ s : State, s.Canonical → ∃ t, step s = .next t ∧ t.Canonical

/-- The queue is first in, first out, and only step takes from it: no command's effect adds, drops or reorders waiting commands (the model's own queue). -/
def Obligations.QueueInOrder : Prop :=
  ∀ s : State, ∃ t, step s = .next t ∧ t.pending = s.pending.tail

/-- R283 to R286 for REGISTER_WRITE: without a window that allows it the write has no effect but the record of its refusal; MID 0 is exempt. A MID that
issues no access there does nothing. -/
def Obligations.RegisterAccessGate : Prop :=
  (∀ (s : State) (m : Fin 32) (a v : Word), s.issues m a.toNat true = true → a.toNat % 4 = 0 → 0x40000000 ≤ a.toNat → a.toNat < 0x40100000 →
    s.allowed m a.toNat 4 true = false →
    ∃ t, exec (.registerWrite m a 2 v) s = .next t ∧ (m.val ≠ 0)
      ∧ t.rd Reg.PRT_DCNT = s.rd Reg.PRT_DCNT + 1
      ∧ (s.bit Reg.PRT_DENY 31 = false →
          t.fld Reg.PRT_DENY 31 31 = 1 ∧ t.fld Reg.PRT_DENY 30 30 = 1 ∧ t.fld Reg.PRT_DENY 20 16 = m.val ∧ t.fld Reg.PRT_DENY 9 8 = 1
            ∧ t.rd Reg.PRT_DADDR = a)
      ∧ (s.bit Reg.PRT_DENY 31 = true → t.rd Reg.PRT_DENY = s.rd Reg.PRT_DENY ∧ t.rd Reg.PRT_DADDR = s.rd Reg.PRT_DADDR)
      ∧ s.RegsBut t [Reg.PRT_DCNT, Reg.PRT_DENY, Reg.PRT_DADDR] ∧ s.SameMemory t
      ∧ (m.val ≤ 9 → (t.core (midCore m)).exc = some .accessFault) ∧ (10 ≤ m.val → t.tsu = s.tsu))
  ∧ (∀ (s : State) (a n : Nat) (w : Bool), s.allowed 0 a n w = true)
  ∧ (∀ (s : State) (m : Fin 32) (a v : Word), s.issues m a.toNat true = true → a.toNat % 4 = 0 → inRegion a.toNat 4 = false →
    s.bit Reg.PRT_DENY 31 = false →
    ∃ t, exec (.registerWrite m a 2 v) s = .next t ∧ t.fld Reg.PRT_DENY 9 8 = 2 ∧ t.rd Reg.PRT_DADDR = a
      ∧ s.RegsBut t [Reg.PRT_DCNT, Reg.PRT_DENY, Reg.PRT_DADDR] ∧ s.SameMemory t)
  ∧ (∀ (s : State) (m : Fin 32) (a v : Word) (z : Fin 4), s.issues m a.toNat true = false → exec (.registerWrite m a z v) s = .next s)
  ∧ ∀ (s : State) (m : Fin 32) (a : Nat) (w : Bool), m.val = 14 ∨ m.val = 15 ∨ 20 ≤ m.val ∨ (m.val = 12 ∧ w = true) → s.issues m a w = false

/-- The premise State.Shaped of the statements on SAF, FIO, PWM and the lanes rules out states that no run reaches: every step keeps it. -/
def Obligations.ShapeKept : Prop :=
  ∀ s : State, s.Shaped → ∃ t, step s = .next t ∧ t.Shaped

/-- R193 to R195 and R141. PLL_LOCK acts once after RESET, REFERENCE_LOST on a reference that is present, REFERENCE_RETURN on one that is lost. -/
def Obligations.ReferenceAndHalt : Prop :=
  (∀ s : State, s.tb.locked = false → s.mode ≠ mOFF →
    ∃ t, exec .pllLock s = .next t ∧ State.OnlyRegs { s with tb := { s.tb with locked := true, tick := 0 } } t [Reg.TB_STAT]
      ∧ t.rd Reg.TB_STAT = s.rd Reg.TB_STAT ||| (bitW 31 ||| bitW 30))
  ∧ (∀ s : State, s.tb.lost = false → s.mode ≠ mOFF →
    ∃ t, exec .referenceLost s = .next t ∧ State.OnlyRaised { s with tb := { s.tb with lost := true } } t [Reg.TB_STAT, Reg.TB_EVT]
      ∧ t.tb.running = false
      ∧ t.rd Reg.TB_STAT = s.rd Reg.TB_STAT &&& ~~~ (bitW 31 ||| bitW 30 ||| bitW 29 ||| bitW 28)
      ∧ t.rd Reg.TB_EVT = s.rd Reg.TB_EVT ||| (bitW 31 ||| mkBit 27 (s.bit Reg.TB_STAT 28)))
  ∧ (∀ s : State, s.tb.lost = true →
    ∃ t, exec .referenceReturn s = .next t ∧ State.OnlyRegs { s with tb := { s.tb with lost := false } } t [Reg.TB_STAT]
      ∧ t.rd Reg.TB_STAT = s.rd Reg.TB_STAT ||| (mkBit 31 s.tb.locked ||| bitW 30))
  ∧ (∀ s : State, s.tb.halted = false →
    ∃ t, exec .debugHalt s = .next t ∧ State.OnlyRaised { s with tb := { s.tb with halted := true } } t [Reg.TB_STAT, Reg.TB_EVT]
      ∧ t.tb.running = false
      ∧ t.rd Reg.TB_STAT = s.rd Reg.TB_STAT &&& ~~~ (bitW 29 ||| bitW 28)
      ∧ t.rd Reg.TB_EVT = s.rd Reg.TB_EVT ||| mkBit 27 (s.bit Reg.TB_STAT 28))
  ∧ ∀ s : State, exec .freezeEnd s = .next { s with tb := { s.tb with halted := false } }

/-- R200 and R201, for every MID that the windows allow. STEP acts before ADJ where one write sets both, as the model orders them (log entry 21). -/
def Obligations.NetworkTimeSetting : Prop :=
  (∀ (s : State) (m : Fin 32) (v : Word), s.may m Reg.TB_SNAP true → wBit v 31 = true →
    ∃ t, exec (.snapGo m v) s = .next t
      ∧ t.rd Reg.TB_SNAP_TLO = word s.tb.tick ∧ t.rd Reg.TB_SNAP_THI = word (s.tb.tick / 2 ^ 32) ∧ t.rd Reg.TB_SNAP_CYC = s.tb.cyc
      ∧ t.rd Reg.TB_SNAP_CTICK = word s.tb.ctick ∧ t.rd Reg.TB_SNAP_SLO = word s.tb.sec ∧ t.rd Reg.TB_SNAP_SHI = word (s.tb.sec / 2 ^ 32)
      ∧ t.rd Reg.TB_SNAP_NS = word s.tb.ns ∧ t.rd Reg.TB_SNAP_FRAC = word (s.tb.frac / 65536)
      ∧ s.OnlyRegs t [Reg.TB_SNAP_TLO, Reg.TB_SNAP_THI, Reg.TB_SNAP_CYC, Reg.TB_SNAP_CTICK, Reg.TB_SNAP_SLO, Reg.TB_SNAP_SHI, Reg.TB_SNAP_NS,
          Reg.TB_SNAP_FRAC])
  ∧ (∀ (s : State) (m : Fin 32) (v : Word), s.may m Reg.TB_CTRL true → wBit v 31 = true → (s.rd Reg.TB_SET_NS).toNat < 1000000000 →
    ∃ t, exec (.tbStep m v) s = .next t
      ∧ t.tb.stepAbs = some ((s.rd Reg.TB_SET_SHI).toNat * 2 ^ 32 + (s.rd Reg.TB_SET_SLO).toNat, (s.rd Reg.TB_SET_NS).toNat, s.fld Reg.TB_SET_FRAC 15 0)
      ∧ t.tb.ofs = (if wBit v 30 then s32 (s.rd Reg.TB_ADJ_NS) * 65536 else 0) ∧ t.tb.ofsPend = wBit v 30
      ∧ t.bit Reg.TB_STAT 26 = true
      ∧ State.OnlyRegs { s with tb := { s.tb with stepAbs := t.tb.stepAbs, ofs := t.tb.ofs, ofsPend := t.tb.ofsPend } } t [Reg.TB_STAT])
  ∧ (∀ (s : State) (m : Fin 32) (v : Word), s.may m Reg.TB_CTRL true → wBit v 31 = true → wBit v 30 = false → wBit v 29 = false →
    1000000000 ≤ (s.rd Reg.TB_SET_NS).toNat →
    ∃ t, exec (.tbStep m v) s = .next t ∧ t.rd Reg.TB_EVT = s.rd Reg.TB_EVT ||| bitW 29 ∧ s.OnlyRaised t [Reg.TB_EVT])
  ∧ (∀ (s : State) (m : Fin 32) (v : Word), s.may m Reg.TB_CTRL true → wBit v 31 = false → wBit v 30 = true →
    ∃ t, exec (.tbAdj m v) s = .next t
      ∧ t.tb = { s.tb with ofs := s.tb.ofs + s32 (s.rd Reg.TB_ADJ_NS) * 65536, ofsPend := true } ∧ t.bit Reg.TB_STAT 26 = true
      ∧ State.OnlyRegs { s with tb := t.tb } t [Reg.TB_STAT])
  ∧ ∀ (s : State) (m : Fin 32) (v : Word), s.may m Reg.TB_CTRL true → wBit v 31 = false → wBit v 30 = false → wBit v 29 = true →
    ∃ t, exec (.tbTvclr m v) s = .next t ∧ t.rd Reg.TB_STAT = s.rd Reg.TB_STAT &&& ~~~ bitW 29 ∧ s.OnlyRegs t [Reg.TB_STAT]

/-- R203 to R205: i' = lim(i + KI·o / 2^KISH), RATE = lim(i' + KP·o / 2^KPSH), both with convergent rounding, unless |o| reaches a STEPTH that is not 0.
The servo rests in MINIMAL (R355). -/
def Obligations.ClockServo : Prop :=
  (∀ (s : State) (m : Fin 32) (v : Word), s.may m Reg.TB_OFS_FRAC true → s.fld Reg.TB_SRV_CFG 31 30 = 1 →
    (s.mode ≠ mMINIMAL →
      ∃ t, exec (.firmwareOffset m v) s = .next t ∧ t.tb.meas = s.tb.meas ++ [s32 (s.rd Reg.TB_OFS_NS) * 65536 + (v.toNat % 65536 : Nat)]
        ∧ State.OnlyRegs { s with tb := { s.tb with meas := t.tb.meas, measAt := s.tb.tick } } t [Reg.TB_OFS_FRAC])
    ∧ (s.mode = mMINIMAL → ∃ t, exec (.firmwareOffset m v) s = .next t ∧ s.OnlyRegs t [Reg.TB_OFS_FRAC]))
  ∧ (∀ (s : State) (m : Fin 32) (v : Word), s.may m Reg.TB_OFS_FRAC true → s.fld Reg.TB_SRV_CFG 31 30 ≠ 1 →
    ∃ t, exec (.firmwareOffset m v) s = .next t ∧ t.rd Reg.TB_EVT = s.rd Reg.TB_EVT ||| bitW 28 ∧ s.OnlyRaised t [Reg.TB_EVT])
  ∧ (∀ (s : State) (o : Int) (rest : List Int), s.mode ≠ mMINIMAL → s.tb.meas = o :: rest →
    ∃ t, exec .servoMeasurement s = .next t ∧ t.tb.meas = rest ∧ t.rd Reg.TB_LAST_NS = wordI (o / 65536)
      ∧ t.rd Reg.TB_LAST_FRAC = word (o % 65536).toNat ∧ t.rd Reg.TB_MEAS_CNT = s.rd Reg.TB_MEAS_CNT + 1 ∧ t.bit Reg.TB_STAT 27 = false
      ∧ (s.fld Reg.TB_SRV_LIM 31 16 ≠ 0 ∧ s.fld Reg.TB_SRV_LIM 31 16 * 65536 ≤ o.natAbs →
          t.tb.ofs = s.tb.ofs + o ∧ t.tb.ofsPend = true ∧ t.tb.ratePend = s.tb.ratePend ∧ t.rd Reg.TB_RATE_I = s.rd Reg.TB_RATE_I)
      ∧ (s.fld Reg.TB_SRV_LIM 31 16 = 0 ∨ o.natAbs < s.fld Reg.TB_SRV_LIM 31 16 * 65536 →
          ∀ i : Int, i = clampI (-2147483) 2147483
              (s32 (s.rd Reg.TB_RATE_I) + rneDiv (s.fld Reg.TB_SRV_GAIN 15 0 * o) (2 ^ s.fld Reg.TB_SRV_CFG 20 16)) →
            t.rd Reg.TB_RATE_I = wordI i ∧ t.tb.ofs = s.tb.ofs
              ∧ t.tb.ratePend = some (clampI (-2147483) 2147483
                  (i + rneDiv (s.fld Reg.TB_SRV_GAIN 31 16 * o) (2 ^ s.fld Reg.TB_SRV_CFG 25 21))))
      ∧ (s.fld Reg.TB_SRV_LIM 15 0 * 65536 ≤ o.natAbs → t.tb.good = 0 ∧ t.bit Reg.TB_STAT 28 = false)
      ∧ (o.natAbs < s.fld Reg.TB_SRV_LIM 15 0 * 65536 → t.tb.good = s.tb.good + 1
          ∧ (3 ≤ s.tb.good → t.bit Reg.TB_STAT 28 = true ∧ t.bit Reg.TB_STAT 29 = true))
      ∧ State.OnlyRaised { s with tb := t.tb } t [Reg.TB_LAST_NS, Reg.TB_LAST_FRAC, Reg.TB_MEAS_CNT, Reg.TB_STAT, Reg.TB_RATE_I, Reg.TB_EVT])
  ∧ ∀ s : State, s.mode ≠ mMINIMAL → s.fld Reg.TB_SRV_CFG 31 30 ≠ 0 → s.fld Reg.TB_SRV_CFG 15 0 ≠ 0 → s.bit Reg.TB_STAT 27 = false →
    s.tb.measAt + s.fld Reg.TB_SRV_CFG 15 0 * 1048576 ≤ s.tb.tick →
    ∃ t, exec .holdover s = .next t ∧ t.bit Reg.TB_STAT 27 = true ∧ t.bit Reg.TB_STAT 28 = false
      ∧ t.tb = { s.tb with ratePend := some (s32 (s.rd Reg.TB_RATE_I)) } ∧ t.bit Reg.TB_EVT 26 = true
      ∧ State.OnlyRaised { s with tb := t.tb } t [Reg.TB_STAT, Reg.TB_EVT]

/-- R206 and R209. The edge stands fine fine-ticks past the present tick; its stamp is network time there less PPS_CMP (R197, R206). -/
def Obligations.PpsAndTransmitStamps : Prop :=
  (∀ (s : State) (rising : Bool) (fine : Fin 32), s.bit Reg.TB_PPS_CFG 31 = true → s.bit Reg.TB_PPS_CFG 30 = !rising →
    (∀ l, s.tb.lastPps = some l → l + 360000000 ≤ s.tb.tick) →
    ∃ t, exec (.ppsEdge rising fine true) s = .next t
      ∧ (∀ q, q = stampOf (s.tb.net + (fine.val : Int) * s.inc32 / 32 - s.fld Reg.TB_PPS_CMP 15 0 * 2 ^ 32) →
          t.rd Reg.TB_PPS_SLO = word q.1 ∧ t.rd Reg.TB_PPS_NS = word q.2.1 ∧ t.rd Reg.TB_PPS_FRAC = word q.2.2)
      ∧ t.rd Reg.TB_PPS_CNT = s.rd Reg.TB_PPS_CNT + 1 ∧ t.tb.lastPps = some s.tb.tick
      ∧ (s.fld Reg.TB_SRV_CFG 31 30 ≠ 2 → t.tb.meas = s.tb.meas) ∧ (s.fld Reg.TB_SRV_CFG 31 30 = 2 → s.mode ≠ mMINIMAL → t.tb.meas.length = s.tb.meas.length + 1)
      ∧ State.OnlyNoticed { s with tb := t.tb } t [Reg.TB_PPS_SLO, Reg.TB_PPS_NS, Reg.TB_PPS_FRAC, Reg.TB_PPS_CNT])
  ∧ (∀ (s : State) (rising : Bool) (fine : Fin 32) (l : Nat), s.bit Reg.TB_PPS_CFG 31 = true → s.bit Reg.TB_PPS_CFG 30 = !rising →
    s.tb.lastPps = some l → s.tb.tick < l + 360000000 →
    ∃ t, exec (.ppsEdge rising fine true) s = .next t ∧ t.rd Reg.TB_EVT = s.rd Reg.TB_EVT ||| bitW 25 ∧ s.OnlyRaised t [Reg.TB_EVT])
  ∧ (∀ (s : State) (rising stable : Bool) (fine : Fin 32), s.bit Reg.TB_PPS_CFG 31 = false ∨ s.bit Reg.TB_PPS_CFG 30 = rising ∨ stable = false →
    exec (.ppsEdge rising fine stable) s = .next s)
  ∧ ∀ (s : State) (m : Fin 32) (e : Fin 2) (v : Word), s.may m (Reg.TB_ETH_TXQPOP e) true → wBit v 0 = true →
    ∃ t, exec (.txqPop m e v) s = .next t ∧ t.txq e = (s.txq e).tail ∧ t.txq (1 - e) = s.txq (1 - e) ∧ s.RegsBut t []
      ∧ { t with tb := { t.tb with txq0 := s.tb.txq0, txq1 := s.tb.txq1 } } = s

/-- R8, R343, R344 (see State.ResetFrom). A held source keeps its bit of the active set until it is released. -/
def Obligations.ResetSources : Prop :=
  (∀ s : State, s.mode ≠ mOFF → s.mode ≠ mRESET →
    (∃ t, exec .resetnAssert s = .next t ∧ s.ResetFrom t (bitW 30) (bitW 30))
    ∧ (∃ t, exec .vio33Low s = .next t ∧ s.ResetFrom t (bitW 29) (bitW 29))
    ∧ (s.sys.wdog = true → ∃ t, exec .watchdogReset s = .next t ∧ s.ResetFrom t (bitW 28) 0)
    ∧ (s.tb.lost = true → mBOOT ≤ s.mode → ∃ t, exec .refclkReset s = .next t ∧ s.ResetFrom t (bitW 25) 0)
    ∧ exec .watchdogExpire s = .next { s with sys := { s.sys with wdog := true } })
  ∧ (∀ s : State, s.mode = mRESET →
    (∃ t, exec .resetnAssert s = .next t ∧ t.rd Reg.SYS_RST_CAUSE = s.rd Reg.SYS_RST_CAUSE ||| bitW 30
        ∧ State.OnlyRegs { s with sys := { s.sys with active := s.sys.active ||| bitW 30 } } t [Reg.SYS_RST_CAUSE])
    ∧ (∃ t, exec .vio33Low s = .next t ∧ t.rd Reg.SYS_RST_CAUSE = s.rd Reg.SYS_RST_CAUSE ||| bitW 29
        ∧ State.OnlyRegs { s with sys := { s.sys with active := s.sys.active ||| bitW 29 } } t [Reg.SYS_RST_CAUSE]))
  ∧ (∀ s : State, s.mode ≠ mOFF → ∃ t, exec .porAssert s = .next t ∧ t.mode = mOFF ∧ t.pv = s.pv ∧ t.hall = s.hall ∧ t.pending = s.pending
        ∧ ∀ a, a ≠ Reg.SYS_RST_CAUSE → a ≠ Reg.SYS_MODE → t.rd a = resetOf a)
  ∧ (∀ s : State, s.mode = mOFF → ∃ t, exec .porRelease s = .next t ∧ s.ResetFrom t (bitW 31) 0)
  ∧ ∀ s : State, exec .resetSourceRelease s = .next { s with sys := { s.sys with active := 0 } }

/-- R344, R349 (flight 0), R359. The DRAM rows listed for repair are repaired in the same flight (R405), which may write persistent words; the flash and the fuses
are not written. -/
def Obligations.ResetEndsInBoot : Prop :=
  (∀ s : State, s.mode = mRESET → s.sys.active = 0 → s.tb.running = true →
    ∃ t, exec .resetExtensionEnd s = .next t ∧ t.mode = mBOOT ∧ t.fld Reg.SYS_MODE 7 4 = mRESET ∧ t.flight = 1
      ∧ t.hall.bytes = [] ∧ t.hall.bad = [] ∧ t.sys.fuse = s.pv.fuse ∧ t.sys.kh0 = s.pv.kh0 ∧ t.sys.kh1 = s.pv.kh1
      ∧ t.pv.flash = s.pv.flash ∧ t.pv.fuse = s.pv.fuse ∧ t.tb = s.tb ∧ t.pending = s.pending)
  ∧ ∀ s : State, s.mode = mRESET → s.sys.active ≠ 0 ∨ s.tb.running = false → exec .resetExtensionEnd s = .next s

/-- R349, R350, with the guard released, so that the persistent writes are made. Persistent word 0 holds ATT in bits [3:0] and the long-press flag in bit 31, word 2
the cause (R379). -/
def Obligations.BootFlights1To3 : Prop :=
  (∀ s : State, s.mode = mBOOT → s.flight = 1 → s.sys.guard = false →
    ∃ t, exec .bootFlight1 s = .next t ∧ t.pending = s.pending ∧ t.hall = s.hall ∧ t.pv.flash = s.pv.flash ∧ t.pv.fuse = s.pv.fuse
      ∧ (wBit (s.preg 0) 31 = true → t.mode = mMINIMAL ∧ wBit (t.preg 0) 31 = false ∧ wFld (t.preg 0) 3 0 = wFld (s.preg 0) 3 0
          ∧ t.preg 2 = causeWord 0x21 1 0 0 ∧ t.bit Reg.SYS_BOOT 26 = true)
      ∧ (wBit (s.preg 0) 31 = false → 6 ≤ wFld (s.preg 0) 3 0 → t.mode = mMINIMAL ∧ t.preg 0 = s.preg 0 ∧ t.preg 2 = causeWord 0x20 1 0 0)
      ∧ (wBit (s.preg 0) 31 = false → wFld (s.preg 0) 3 0 < 6 → t.mode = mBOOT ∧ t.flight = 2
          ∧ wFld (t.preg 0) 3 0 = wFld (s.preg 0) 3 0 + 1 ∧ t.slot = (if wFld (s.preg 0) 3 0 < 3 then 0 else 1)))
  ∧ (∀ s : State, s.mode = mBOOT → s.flight = 2 → s.headerOk s.slot = true →
    ∃ t, exec (.bootFlight2 true) s = .next t ∧ t.flight = 3 ∧ s.OnlyRegs t [Reg.SYS_BOOT])
  ∧ (∀ (s : State) (f : Bool), s.mode = mBOOT → s.flight = 2 → s.sys.guard = false → (f && s.headerOk s.slot) = false →
    ∃ t, exec (.bootFlight2 f) s = .next t ∧ t.mode = mRESET ∧ t.rd Reg.SYS_RST_CAUSE = bitW 26
      ∧ t.preg 2 = causeWord (if f then 2 else 1) 2 s.slot 0 ∧ t.pv.flash = s.pv.flash)
  ∧ (∀ (s : State) (signed : Bool), s.mode = mBOOT → s.flight = 3 → s.flight3 s.slot = (none, signed) →
    ∃ t, exec .bootFlight3 s = .next t ∧ t.mode = mCONFIGURE ∧ t.flight = 4 ∧ t.bit Reg.SYS_BOOT 25 = signed ∧ s.SameMemory t)
  ∧ ∀ (s : State) (c d : Nat) (g : Bool), s.mode = mBOOT → s.flight = 3 → s.sys.guard = false → s.flight3 s.slot = (some (c, d), g) →
    ∃ t, exec .bootFlight3 s = .next t ∧ t.mode = mRESET ∧ t.rd Reg.SYS_RST_CAUSE = bitW 26 ∧ t.preg 2 = causeWord c 3 s.slot d

/-- R350 to R353, R357, R366. The loader and the checks are the model's functions of the image and the registers. -/
def Obligations.BootFlights4And5 : Prop :=
  (∀ s u : State, s.mode = mCONFIGURE → s.flight = 4 → (∀ x ∈ s.sections s.slot, knownType x.type = true) →
    s.loadAllSections s.slot (s.sections s.slot) = (none, u) → u.mode = mCONFIGURE →
    ∃ t, exec .bootFlight4 s = .next t ∧ t.mode = mCONFIGURE ∧ t.flight = 5
      ∧ (∀ n, n < 32 → t.route n = routeOf (u.fld (Reg.TSU_ROUTE n) 3 0)) ∧ t.pv = u.pv ∧ t.hall = u.hall)
  ∧ (∀ (s : State) (x : Section), s.mode = mCONFIGURE → s.flight = 4 → s.sys.guard = false →
    (s.sections s.slot).find? (fun x => !knownType x.type) = some x →
    ∃ t, exec .bootFlight4 s = .next t ∧ t.mode = mRESET ∧ t.rd Reg.SYS_RST_CAUSE = bitW 26 ∧ t.preg 2 = causeWord 7 4 s.slot x.num)
  ∧ (∀ (s u : State) (l : List (Bool × Nat)) (cores : List Bool), s.mode = mCONFIGURE → s.flight = 5 → 16 ≤ ((s.coreChecks cores).laneTests l).2 →
    ((s.coreChecks cores).laneTests l).1.flight5 = (none, u) → u.mode = mCONFIGURE →
    ∃ t, exec (.bootFlight5 ⟨l, cores⟩) s = .next t ∧ t.flight = 15 ∧ t.mode = (if u.sys.stopPend then mSAFESTOP else mLISTEN))
  ∧ (∀ (s u : State) (l : List (Bool × Nat)) (cores : List Bool), s.mode = mCONFIGURE → s.flight = 5 → u = ((s.coreChecks cores).laneTests l).1 →
    ((s.coreChecks cores).laneTests l).2 < 16 → u.sys.guard = false → u.mode = mCONFIGURE →
    ∃ t, exec (.bootFlight5 ⟨l, cores⟩) s = .next t ∧ t.mode = mRESET ∧ t.rd Reg.SYS_RST_CAUSE = bitW 26)
  ∧ ∀ s u : State, s.mode = mCONFIGURE → s.flight = 15 → u.mode = mCONFIGURE → u.sys.stopPend = false →
    (s.flight5 = (none, u) → ∃ t, exec .maintenanceCheck s = .next t ∧ t.mode = mLISTEN ∧ t.flight = 15)
    ∧ ∀ c d, s.flight5 = (some (c, d), u) → u.sys.guard = false →
        ∃ t, exec .maintenanceCheck s = .next t ∧ t.mode = mMAINTENANCE ∧ t.preg 2 = causeWord c 5 s.slot d

/-- R348, R354, R356 and, for other masters, R6. -/
def Obligations.RequestsOfMid0 : Prop :=
  (∀ (s : State) (v : Word), wBit v 31 = true → s.mode ≠ mOFF → s.mode ≠ mRESET →
    (wFld v 15 8 = 0xC3 → s.anyReleased = false → ∃ t, exec (.swrst 0 v) s = .next t ∧ s.ResetFrom t (bitW 27) 0)
    ∧ (wFld v 15 8 ≠ 0xC3 ∨ s.anyReleased = true → wBit v 30 = false → wBit v 29 = false →
        ∃ t, exec (.swrst 0 v) s = .next t ∧ t.rd Reg.SYS_EVT = s.rd Reg.SYS_EVT ||| bitW 29 ∧ s.OnlyRegs t [Reg.SYS_EVT, Reg.SYS_CTRL]))
  ∧ (∀ (s : State) (v : Word), wBit v 31 = false → wBit v 30 = true → wBit v 29 = false →
    (wFld v 3 0 = mMAINTENANCE → s.mode = mLISTEN ∨ s.mode = mINTEGRATE ∨ s.mode = mSTANDBY ∨ (s.mode = mRUN ∧ s.groupOn = false) →
        s.sys.pend ≠ some mSAFESTOP → s.sys.pend ≠ some mDEGRADED →
        ∃ t, exec (.mgo 0 v) s = .next t
          ∧ State.OnlyRegs { s with sys := { s.sys with pend := some mMAINTENANCE } } t [Reg.SYS_CTRL])
    ∧ (wFld v 3 0 = mMAINTENANCE → s.mode = mRUN → s.groupOn = true →
        ∃ t, exec (.mgo 0 v) s = .next t ∧ t.rd Reg.SYS_EVT = s.rd Reg.SYS_EVT ||| bitW 30 ∧ s.OnlyRegs t [Reg.SYS_EVT, Reg.SYS_CTRL])
    ∧ (wFld v 3 0 ≠ mMAINTENANCE → wFld v 3 0 ≠ mLISTEN →
        ∃ t, exec (.mgo 0 v) s = .next t ∧ t.rd Reg.SYS_EVT = s.rd Reg.SYS_EVT ||| bitW 30 ∧ s.OnlyRegs t [Reg.SYS_EVT, Reg.SYS_CTRL])
    ∧ (wFld v 3 0 = mLISTEN → s.mode = mMAINTENANCE → s.sys.pend ≠ some mSAFESTOP → s.sys.pend ≠ some mDEGRADED →
        ∃ t, exec (.mgo 0 v) s = .next t
          ∧ State.OnlyRegs { s with sys := { s.sys with pend := some mCONFIGURE } } t [Reg.SYS_CTRL]))
  ∧ (∀ (s : State) (v : Word), wBit v 31 = false → wBit v 30 = false → wBit v 29 = true →
    ∃ t, exec (.attclr 0 v) s = .next t ∧ t.sys.attRetry = s.sys.guard
      ∧ (s.sys.guard = false → t.preg 0 = wSetFld (s.preg 0) 3 0 0) ∧ (s.sys.guard = true → t.pv = s.pv))
  ∧ (∀ s : State, s.mode = mRUN → 60000 ≤ s.runMs → s.sys.guard = false →
    ∃ t, exec .runTimeClear s = .next t ∧ t.preg 0 = wSetFld (s.preg 0) 3 0 0 ∧ t.sys.attRetry = false ∧ t.hall = s.hall ∧ t.tb = s.tb)
  ∧ (∀ s : State, s.sys.attRetry = true → s.sys.guard = false →
    ∃ t, exec .attClearRetry s = .next t ∧ t.preg 0 = wSetFld (s.preg 0) 3 0 0 ∧ t.sys.attRetry = false ∧ t.hall = s.hall ∧ t.tb = s.tb)
  ∧ ∀ (s : State) (m : Fin 32) (v : Word), m ≠ 0 → s.may m Reg.SYS_CTRL true →
    ∃ t, exec (.swrst m v) s = .next t ∧ t.fld Reg.SYS_LK_DENY 28 24 = m.val
      ∧ t.fld Reg.SYS_LK_DENY 23 0 = (s.fld Reg.SYS_LK_DENY 23 0 + 1) % 2 ^ 24 ∧ s.OnlyRegs t [Reg.SYS_LK_DENY]

/-- R345, R375, R376. Words 64 and 80 to 207 hold the log of spare records that the same write may add to where it remaps its word (R378, R406). -/
def Obligations.NvWriteGuard : Prop :=
  (∀ s : State, exec .nvGuardEngage s = .next { s with sys := { s.sys with guard := true } })
  ∧ (∀ s : State, exec .nvGuardRelease s = .next { s with sys := { s.sys with guard := false } })
  ∧ (∀ (s : State) (m : Fin 32) (n : Fin 2048) (v : Word), s.may m (Reg.PREG_W n) true → m = 0 ∨ 512 ≤ n.val → s.sys.guard = false → n.val ≠ 64 →
    (n.val < 80 ∨ 208 ≤ n.val) →
    ∃ t, exec (.persistentWrite m n v) s = .next t ∧ t.preg n = v
      ∧ (∀ k, k ≠ n.val → k ≠ 64 → (k < 80 ∨ 208 ≤ k) → t.preg k = s.preg k)
      ∧ t.hall = s.hall ∧ t.pv.flash = s.pv.flash ∧ t.tb = s.tb
      ∧ s.RegsBut t (Reg.PREG_EVT :: Reg.SPR_EVT :: noticeRegs))
  ∧ (∀ (s : State) (m : Fin 32) (n : Fin 2048) (v : Word), s.may m (Reg.PREG_W n) true → m = 0 ∨ 512 ≤ n.val → s.sys.guard = true →
    ∃ t, exec (.persistentWrite m n v) s = .next t ∧ t.pv = s.pv ∧ t.rd Reg.PREG_EVT = s.rd Reg.PREG_EVT ||| bitW 31
      ∧ t.rd Reg.PREG_GCNT = s.rd Reg.PREG_GCNT + 1 ∧ s.RegsBut t [Reg.PREG_EVT, Reg.PREG_GCNT] ∧ s.SameMemory t
      ∧ (m.val ≤ 9 → (t.core (midCore m)).exc = some .accessFault))
  ∧ (∀ (s : State) (m : Fin 32) (n : Fin 2048) (v : Word), s.may m (Reg.PREG_W n) true → m ≠ 0 → n.val < 512 →
    ∃ t, exec (.persistentWrite m n v) s = .next t ∧ t.fld Reg.SYS_LK_DENY 28 24 = m.val ∧ s.OnlyRegs t [Reg.SYS_LK_DENY])
  ∧ (∀ s : State, s.mode = mRESET → wBit s.sys.active 30 = true →
    ∃ t, exec .longPress s = .next t ∧ t.bit Reg.SYS_RST_CAUSE 24 = true ∧ t.mode = mRESET
      ∧ (s.sys.guard = false → wBit (t.preg 0) 31 = true ∧ wFld (t.preg 0) 3 0 = wFld (s.preg 0) 3 0)
      ∧ (s.sys.guard = true → t.pv = s.pv))
  ∧ ∀ s : State, s.mode ≠ mRESET ∨ wBit s.sys.active 30 = false → exec .longPress s = .next s

/-- R5 to R7. The blocks SYS and TB stand for all: every block treats a register without an effect of its own so. TB_EVT.REFLOST stands again while the
reference is lost (R6). -/
def Obligations.AccessCodes : Prop :=
  (∀ (s : State) (m : Fin 32) (a v : Word) (r : RegRow), s.issues m a.toNat true = true → s.busCheck m a.toNat 4 true = none →
    regRow? a.toNat = some r → (m = 0 ∨ r.lk &&& r.writable = 0) →
    (a.toNat / 65536 = 0x4000 ∧ a.toNat ≠ Reg.SYS_CTRL
      ∨ a.toNat / 65536 = 0x4001 ∧ a.toNat ∉ [Reg.TB_SNAP, Reg.TB_CTRL, Reg.TB_OFS_FRAC, Reg.TB_SRV_CFG, Reg.TB_PPS_CFG, Reg.TB_ETH_TXQPOP 0,
          Reg.TB_ETH_TXQPOP 1]) →
    ∃ t, exec (.registerWrite m a 2 v) s = .next t
      ∧ t.rd a.toNat = (((s.rd a.toNat &&& ~~~ word r.rw) ||| (v &&& word r.rw)) &&& ~~~ (v &&& word r.w1c))
          ||| (v &&& word r.w1c &&& mkBit 31 (a.toNat == Reg.TB_EVT && s.tb.lost))
      ∧ s.OnlyRaised t [a.toNat])
  ∧ (∀ (s : State) (m : Fin 32) (a v : Word) (r : RegRow), s.issues m a.toNat true = true → s.busCheck m a.toNat 4 true = none →
    regRow? a.toNat = some r → m ≠ 0 → a.toNat / 65536 ≠ 0x4020 → r.lk &&& r.writable = r.writable → r.writable ≠ 0 →
    ∃ t, exec (.registerWrite m a 2 v) s = .next t ∧ t.fld Reg.SYS_LK_DENY 28 24 = m.val
      ∧ t.fld Reg.SYS_LK_DENY 23 0 = (s.fld Reg.SYS_LK_DENY 23 0 + 1) % 2 ^ 24 ∧ s.OnlyRegs t [Reg.SYS_LK_DENY])
  ∧ ∀ (s : State) (m : Fin 32) (a v : Word), s.busCheck m a.toNat 4 true = none → regRow? a.toNat = none → s.guardRefuses m a.toNat = false →
    exec (.registerWrite m a 2 v) s = .next s

/-- R218, R219, R221, R222, R224, R229. A channel is live when its switches are read and it is not lost. -/
def Obligations.SafetySampling : Prop :=
  (∀ (s : State) (bas : Bool) (a b : Byte) (d : Bool), s.Shaped → (s.saf? bas).live = true →
    ∃ t, exec (.safetySample bas a b d) s = .next t
      ∧ (∀ k, k < 8 → ∀ x y v,
          (x = ((s.saf? bas).input k).a ∧ y = ((t.saf? bas).input k).a ∧ v = (if (s.saf? bas).holdA = 0 then (s.seen a).testBit k else x.last))
            ∨ (x = ((s.saf? bas).input k).b ∧ y = ((t.saf? bas).input k).b ∧ v = (if (s.saf? bas).holdB = 0 then (s.seen b).testBit k else x.last)) →
          (v = x.cand → (s.saf? bas).filter ≤ x.cnt + 1 → y.filt = some v)
            ∧ (v = x.cand → x.cnt + 1 < (s.saf? bas).filter → y.filt = x.filt ∧ y.cnt = x.cnt + 1)
            ∧ (v ≠ x.cand → y.filt = x.filt ∧ y.cnt = 1) ∧ y.cand = v)
      ∧ (t.saf? bas).holdA = (s.saf? bas).holdA - 1 ∧ (t.saf? bas).holdB = (s.saf? bas).holdB - 1
      ∧ (∀ g, g < 8 → (s.safGrp bas g).state = gRELEASED → (t.saf? bas).demanded g = true → (bas && s.saf.xdem.testBit g) = false →
          (t.safGrp bas g).state = (if (s.saf? bas).ss1Of = 0 then gSTO else gSS1))
      ∧ ((s.saf? bas).holdA = 0 → (s.saf? bas).holdB = 0 → ∀ g, (t.safGrp (!bas) g).state = (s.safGrp (!bas) g).state)
      ∧ s.OnlySafety t [])
  ∧ (∀ (s : State) (tp1 made : Bool), s.fio.vfld ≠ 2 → s.saf.b.live = false ∨ made = true →
    ∃ t, exec (.testPulse tp1 made) s = .next t ∧ { t with saf := s.saf } = s
      ∧ (tp1 = false → t.saf.g.holdA = 6 ∧ t.saf.b.holdA = 6 ∧ t.saf.g.holdB = s.saf.g.holdB ∧ t.saf.b.holdB = s.saf.b.holdB)
      ∧ (tp1 = true → t.saf.g.holdB = 6 ∧ t.saf.b.holdB = 6 ∧ t.saf.g.holdA = s.saf.g.holdA ∧ t.saf.b.holdA = s.saf.b.holdA)
      ∧ (made = true → t.saf.tpBad.testBit (if tp1 then 1 else 0) = false))
  ∧ (∀ (s : State) (tp1 : Bool), s.Shaped → s.fio.vfld ≠ 2 → s.saf.b.live = true → s.saf.psusp = false →
    s.saf.tpBad.testBit (if tp1 then 1 else 0) = false →
    ∃ t, exec (.testPulse tp1 false) s = .next t ∧ t.saf.tpBad.testBit (if tp1 then 1 else 0) = true
      ∧ (s.saf.state = 0 → s.fld Reg.SAF_FLT 31 24 = 0 → t.fld Reg.SAF_FLT 31 24 = 0x11 ∧ t.fld Reg.SAF_FLT 23 22 = 2)
      ∧ (tp1 = false → t.saf.g.holdA = 6 ∧ t.saf.b.holdA = 6) ∧ (tp1 = true → t.saf.g.holdB = 6 ∧ t.saf.b.holdB = 6) ∧ s.OnlySafety t [])
  ∧ (∀ (s : State) (tp1 made : Bool), s.fio.vfld = 2 → exec (.testPulse tp1 made) s = .next { s with saf := { s.saf with psusp := true } })
  ∧ (∀ (s : State) (bas : Bool) (k : Fin 8) (n : Nat), ((s.saf? bas).input k).diffFor = some n → n < (s.saf? bas).discSteps →
    exec (.discrepancyFault bas k) s = .next s)
  ∧ ∀ (s : State) (bas : Bool) (k : Fin 8) (n : Nat), s.Shaped → (s.saf? bas).live = true →
    ((s.saf? bas).input k).diffFor = some n → (s.saf? bas).discSteps ≤ n →
    ∃ t, exec (.discrepancyFault bas k) s = .next t ∧ ((t.saf? bas).input k).disc = true ∧ t.rd Reg.SAF_EVTSEQ = s.rd Reg.SAF_EVTSEQ + 1
      ∧ t.saf? (!bas) = s.saf? (!bas) ∧ s.OnlySafety t []

/-- R225 to R229, R232, R239. -/
def Obligations.SafetyGroupStates : Prop :=
  (∀ (s : State) (bas : Bool) (g : Fin 8), s.Shaped → (s.saf? bas).live = true → (s.saf? bas).rst = false → (s.safGrp bas g).state = gREADY →
    s.restartOk bas g = true →
    ∃ t, exec (.restartDelay bas g) s = .next t ∧ (t.safGrp bas g).state = gRELEASED
      ∧ (if bas then t.saf.stob.testBit g else t.saf.stog.testBit g) = true
      ∧ (∀ k, k ≠ g.val → (t.safGrp bas k).state = (s.safGrp bas k).state) ∧ t.saf? (!bas) = s.saf? (!bas) ∧ s.OnlySafety t [])
  ∧ (∀ (s : State) (bas : Bool), s.Shaped → (s.saf? bas).live = true → (s.saf? bas).rst = true → (s.saf? bas).di.filt = some false →
    ∃ t, exec (.restartPulse bas) s = .next t
      ∧ (∀ g, g < 8 → (s.safGrp bas g).state = gREADY → (s.safGrp bas g).pulse = true → s.restartOk bas g = true → (t.safGrp bas g).state = gRELEASED)
      ∧ (∀ g, g < 8 → (s.safGrp bas g).pulse = false ∨ (s.safGrp bas g).state ≠ gREADY → (t.safGrp bas g).state = (s.safGrp bas g).state)
      ∧ t.saf? (!bas) = s.saf? (!bas) ∧ s.OnlySafety t [])
  ∧ (∀ (s : State) (bas : Bool) (g : Fin 8), s.Shaped → (s.saf? bas).live = true → (s.safGrp bas g).state = gSTO → s.stoRb bas g = false →
    ∃ t, exec (.stoConfirm bas g) s = .next t
      ∧ (t.safGrp bas g).state = (if s.grpTested (s.saf? bas) g then gSTOPPED else gNOSTART)
      ∧ (∀ k, k ≠ g.val → (t.safGrp bas k).state = (s.safGrp bas k).state) ∧ s.OnlySafety t [])
  ∧ (∀ (s : State) (bas : Bool) (g : Fin 8), s.Shaped → (s.saf? bas).live = true → (s.safGrp bas g).state = gSS1 →
    ∃ t, exec (.ss1TimerEnd bas g) s = .next t ∧ (t.safGrp bas g).state = gSTO
      ∧ (if bas then t.saf.stob.testBit g else t.saf.stog.testBit g) = false
      ∧ (∀ k, k ≠ g.val → (t.safGrp bas k).state = (s.safGrp bas k).state) ∧ t.saf? (!bas) = s.saf? (!bas) ∧ s.OnlySafety t [])
  ∧ (∀ (s : State) (bas : Bool), s.Shaped → (s.saf? bas).live = true → (s.saf? bas).degr = true → s.saf.state = 1 →
    ∃ t, exec (.degradedLimit bas) s = .next t ∧ (t.saf? bas).degr = false
      ∧ (∀ g, g < 8 → (s.safGrp bas g).state = gRELEASED → (t.safGrp bas g).state = gSTO ∨ (t.safGrp bas g).state = gSS1)
      ∧ s.OnlySafety t [])
  ∧ (∀ (s : State) (bas : Bool) (g : Fin 8), s.Shaped → (s.saf? bas).live = true → (s.safGrp bas g).ramp = true →
    ∃ t, exec (.slsRampEnd bas g) s = .next t ∧ (t.safGrp bas g).ramp = false
      ∧ ((bas && !s.saf.slsok.testBit g && (s.safGrp bas g).on) = true → (t.safGrp bas g).state = gSTO ∧ (t.safGrp bas g).fallback = true)
      ∧ ((bas && !s.saf.slsok.testBit g && (s.safGrp bas g).on) = false → (t.safGrp bas g).state = (s.safGrp bas g).state ∧ t.regs = s.regs)
      ∧ s.OnlySafety t [])
  ∧ ∀ (s : State) (g : Fin 8), s.Shaped → s.saf.b.live = true → (s.safGrp true g).req = true → (s.safGrp true g).ramp = false →
    (s.safGrp true g).on = true →
    ∃ t, exec (.slsokMissing g) s = .next t ∧ (t.safGrp true g).state = gSTO ∧ (t.safGrp true g).fallback = true
      ∧ t.saf.stob.testBit g = false ∧ t.saf.g = s.saf.g ∧ s.OnlySafety t []

/-- R213, R238, R240, R244. -/
def Obligations.SafetyLossFaults : Prop :=
  (∀ (s : State), s.Shaped → s.saf.g.lost = false → s.saf.g.run = true →
    (s.saf.b.lost = false → ∃ t, exec (.heartbeatLost true) s = .next t ∧ t.saf.g.lost = true ∧ t.saf.state = 2
        ∧ (s.saf.b.live = true → ∀ g, g < 8 → (t.safGrp true g).state = gSTO)
        ∧ (s.saf.state = 0 → s.fld Reg.SAF_FLT 31 24 = 0 → t.fld Reg.SAF_FLT 31 24 = 0x30 ∧ t.fld Reg.SAF_FLT 23 22 = 2)
        ∧ s.OnlySafety t [])
    ∧ ∃ t, exec .lockstepMismatch s = .next t ∧ t.saf.g.lost = true ∧ t.saf.state = 2
        ∧ (s.saf.b.live = true → ∀ g, g < 8 → (t.safGrp true g).state = gSTO)
        ∧ (s.saf.state = 0 → s.fld Reg.SAF_FLT 31 24 = 0 → t.fld Reg.SAF_FLT 31 24 = 0x31 ∧ t.fld Reg.SAF_FLT 23 22 = 1)
        ∧ s.OnlySafety t [])
  ∧ (∀ (s : State), s.Shaped → s.saf.b.lost = false → s.saf.b.run = true →
    (s.saf.g.lost = false → ∃ t, exec (.heartbeatLost false) s = .next t ∧ t.saf.b.lost = true ∧ t.saf.state = 2
        ∧ (s.saf.g.live = true → ∀ g, g < 8 → (t.safGrp false g).state = gSTO)
        ∧ (s.saf.state = 0 → s.fld Reg.SAF_FLT 31 24 = 0 → t.fld Reg.SAF_FLT 31 24 = 0x32 ∧ t.fld Reg.SAF_FLT 23 22 = 1)
        ∧ s.OnlySafety t [])
    ∧ ∃ t, exec .basaltSelfCheckFail s = .next t ∧ t.saf.b.lost = true ∧ t.saf.state = 2
        ∧ (s.saf.g.live = true → ∀ g, g < 8 → (t.safGrp false g).state = gSTO)
        ∧ (s.saf.state = 0 → s.fld Reg.SAF_FLT 31 24 = 0 → t.fld Reg.SAF_FLT 31 24 = 0x32 ∧ t.fld Reg.SAF_FLT 23 22 = 1)
        ∧ s.OnlySafety t [])
  ∧ ∀ (s : State), s.Shaped → s.saf.rootLost = false → s.saf.b.live = true →
    ∃ t, exec .rootHeartbeatLost s = .next t ∧ t.saf.rootLost = true ∧ t.saf.state = 2
      ∧ (∀ bas g, (s.saf? bas).live = true → g < 8 → (t.safGrp bas g).state = gSTO)
      ∧ (s.saf.state = 0 → s.fld Reg.SAF_FLT 31 24 = 0 → t.fld Reg.SAF_FLT 31 24 = 0x33 ∧ t.fld Reg.SAF_FLT 23 22 = 2)
      ∧ s.OnlySafety t []

/-- R238, R239, R422. Each is stated for the first fault; outside RUN the reaction is SAFE STOP (R238). -/
def Obligations.SafetySingleFaults : Prop :=
  (∀ (s : State) (g : Fin 8), s.Shaped → s.saf.state = 0 → s.fld Reg.SAF_FLT 31 24 = 0 → s.saf.g.live = true → s.saf.loaded = true →
    ∃ t, exec (.readbackMismatch true g) s = .next t ∧ t.saf.rbErrG.testBit g = true ∧ t.fld Reg.SAF_FLT 31 24 = 0x13 ∧ t.fld Reg.SAF_FLT 21 19 = g.val
      ∧ t.saf.state = (if s.mode = mRUN then 1 else 2) ∧ s.OnlySafety t [])
  ∧ (∀ (s : State) (g : Fin 8), s.Shaped → s.saf.state = 0 → s.fld Reg.SAF_FLT 31 24 = 0 → s.saf.g.live = true → s.saf.b.live = true → s.fio.vfld ≠ 2 →
    ∃ t, exec (.readbackMismatch false g) s = .next t ∧ t.saf.rbErrB.testBit g = true ∧ t.fld Reg.SAF_FLT 31 24 = 0x12 ∧ t.fld Reg.SAF_FLT 23 22 = 3
      ∧ t.fld Reg.SAF_FLT 21 19 = g.val ∧ t.saf.state = (if s.mode = mRUN then 1 else 2)
      ∧ (s.mode = mRUN → s.sys.pend = none → t.sys.pend = some mDEGRADED) ∧ (s.mode = mLISTEN → t.sys.pend = some mSAFESTOP) ∧ s.OnlySafety t [])
  ∧ (∀ (s : State) (g : Fin 8), s.Shaped → s.saf.state = 0 → s.fld Reg.SAF_FLT 31 24 = 0 → s.saf.g.live = true → s.saf.b.live = true →
    ((s.safGrp false g).state = gRELEASED ∧ (s.safGrp true g).state ≠ gRELEASED) ∨ ((s.safGrp false g).state ≠ gRELEASED ∧ (s.safGrp true g).state = gRELEASED) →
    ∃ t, exec (.releaseMismatch g) s = .next t ∧ t.fld Reg.SAF_FLT 31 24 = 0x14 ∧ t.fld Reg.SAF_FLT 21 19 = g.val
      ∧ t.saf.state = (if s.mode = mRUN then 1 else 2) ∧ s.OnlySafety t [])
  ∧ (∀ (s : State) (g : Fin 8), s.saf.stob.testBit g = true → s.saf.ovl.testBit g = false → s.fio.vfld = 2 →
    exec (.stobOverload g) s = .next { s with saf := { s.saf with ovl := maskBit s.saf.ovl g true } })
  ∧ ∀ (s : State) (g : Fin 8), s.Shaped → s.saf.state = 0 → s.fld Reg.SAF_FLT 31 24 = 0 → s.saf.g.live = true → s.saf.b.live = true →
    s.saf.stob.testBit g = true → s.saf.ovl.testBit g = false → s.fio.vfld ≠ 2 →
    ∃ t, exec (.stobOverload g) s = .next t ∧ t.saf.ovl.testBit g = true ∧ t.fld Reg.SAF_FLT 31 24 = 0x12
      ∧ t.saf.state = (if s.mode = mRUN then 1 else 2) ∧ (t.stoRb true g = (s.saf.rbErrB.testBit g && s.saf.rbLvlB.testBit g)) ∧ s.OnlySafety t []

/-- R158, R216. The last of the four power-up reads compares; each read before it is kept. -/
def Obligations.SafetySwitches : Prop :=
  (∀ (s : State) (bas : Bool) (v : BitVec 16), s.Shaped → s.mode = mRESET → (s.saf? bas).reads = [v.toNat] → (s.saf? !bas).reads = [v.toNat, v.toNat] →
    (s.saf? !bas).sw = v.toNat → v.toNat / 4 % 4 ≠ 3 →
    ∃ t, exec (.switchPowerupRead bas v) s = .next t ∧ t.saf.swok = true ∧ t.saf.g.run = true ∧ t.saf.b.run = true
      ∧ t.saf.g.bad = false ∧ t.saf.b.bad = false ∧ t.rd Reg.SAF_SWCFG = word (v.toNat * 65537) ∧ (∀ k, k < 8 → t.rd (Reg.SAF_TOK k) ≠ 0)
      ∧ s.RegsBut t (Reg.SAF_SWCFG :: (List.range 8).map Reg.SAF_TOK) ∧ s.SameMemory t ∧ t.sys = s.sys)
  ∧ (∀ (s : State) (bas : Bool) (v : BitVec 16), s.Shaped → s.mode = mRESET → (s.saf? bas).reads.length = 1 → (s.saf? !bas).reads.length = 2 →
    (s.saf? !bas).sw ≠ v.toNat → s.saf.state = 0 → s.fld Reg.SAF_FLT 31 24 = 0 →
    ∃ t, exec (.switchPowerupRead bas v) s = .next t ∧ t.saf.swok = false ∧ t.saf.g.bad = true ∧ t.saf.b.bad = true
      ∧ t.fld Reg.SAF_FLT 31 24 = 0x20 ∧ t.fld Reg.SAF_FLT 23 22 = 3 ∧ t.saf.state = 2 ∧ t.sys.stopPend = true ∧ s.SameStore t)
  ∧ (∀ (s : State) (bas : Bool) (v : BitVec 16), s.mode = mRESET →
    (s.saf? bas).reads = [] ∨ ((s.saf? bas).reads.length = 1 ∧ (s.saf? !bas).reads.length < 2) →
    exec (.switchPowerupRead bas v) s = .next (s.setSaf bas { s.saf? bas with reads := (s.saf? bas).reads ++ [v.toNat], sw := v.toNat }))
  ∧ (∀ (s : State) (bas : Bool) (v : BitVec 16), s.Shaped → (s.saf? bas).live = true → s.saf.swok = true → v.toNat ≠ (s.saf? bas).sw → s.saf.state = 0 →
    s.fld Reg.SAF_FLT 31 24 = 0 →
    ∃ t, exec (.switchRuntimeRead bas v) s = .next t ∧ t.saf.swok = false ∧ t.fld Reg.SAF_FLT 31 24 = 0x21
      ∧ t.fld Reg.SAF_FLT 23 22 = (if bas then 2 else 1) ∧ t.saf.state = 2 ∧ s.OnlySafety t [])
  ∧ ∀ (s : State) (bas : Bool) (v : BitVec 16), v.toNat = (s.saf? bas).sw → exec (.switchRuntimeRead bas v) s = .next s

/-- R231, R232, R237, R244. The change of an axis's accumulator in the window is taken modulo 2^48 (R9). -/
def Obligations.SafeSpeedAndAcks : Prop :=
  (∀ (s : State) (d : Nat → Int), s.Shaped → s.saf.g.live = true →
    (∀ a, d a = sgn 48 (wrapN 48 (s.axisRaw a - Table.get (fun _ => 0) s.saf.prevRaw a))) →
    ∃ t, exec .slsWindow s = .next t
      ∧ (∀ a, a < 256 → t.rd (Reg.SAF_AXSPD a) = wordI (sat32 (d a * 256000)))
      ∧ (∀ g, g < 8 → (∀ a, a < 256 → s.axisGrp a = some g → (d a).natAbs ≤ s.slsLimit a g) →
          t.saf.slsok.testBit g = (s.safGrp false g).req ∧ (t.safGrp false g).state = (s.safGrp false g).state)
      ∧ (∀ g, g < 8 → (s.safGrp false g).req = false → t.saf.slsok.testBit g = false)
      ∧ (∀ g, g < 8 → (s.safGrp false g).req = false ∨ (s.safGrp false g).ramp = true → (t.safGrp false g).state = (s.safGrp false g).state)
      ∧ (∀ g a, g < 8 → a < 256 → (s.safGrp false g).req = true → (s.safGrp false g).ramp = false → (s.safGrp false g).on = true →
          s.axisGrp a = some g → s.slsLimit a g < (d a).natAbs →
          (t.safGrp false g).state = gSTO ∧ t.saf.xdem.testBit g = true ∧ t.saf.slsok.testBit g = false)
      ∧ s.OnlySafety t ((List.range 256).map Reg.SAF_AXSPD))
  ∧ (∀ s : State, s.saf.g.live = false → exec .slsWindow s = .next s)
  ∧ ∀ (s : State) (n : Fin 12) (k : Fin 32), s.Shaped → s.saf.g.live = true → s.fld (Reg.TRN_NODE_STAT n k) 31 29 = 4 →
    (s.node n k).nstat.testBit 4 = true →
    (∀ p ∈ (s.node n k).sentCnt, p.1 = (s.node n k).sack → p.2 + 8000000 < s.tb.tick) →
    ∃ t, exec (.nodeAckStale n k) s = .next t ∧ t.bit (Reg.SAF_NACK n) k = true ∧ (t.safGrp false (s.nodeGrp n k)).state = gSTO
      ∧ t.saf.xdem.testBit (s.nodeGrp n k) = true ∧ t.saf.state = s.saf.state ∧ t.saf.b = s.saf.b ∧ s.OnlySafety t [Reg.SAF_NACK n]

/-- R245, R246, R248, R249, R251, R256, R258, R260, R342. FioBlock.want is what an output is to be: its safe state under silence, else its set's
command. The inputs read low while VFLD is below 16 V (R416). -/
def Obligations.FieldFramesAndInputs : Prop :=
  (∀ s : State, mRESET < s.mode →
    ∃ t, exec (.fioOutputFrame true) s = .next t ∧ t.fio.cmd = s.fld Reg.FIO_DO_CMD 7 0 ∧ t.fio.cfg = s.fioCfg ∧ t.bit Reg.FIO_STAT 27 = true
      ∧ t.fio.safe = s.bit Reg.FIO_STAT 28
      ∧ (∀ n, n < 8 → s.bit Reg.FIO_STAT 28 = false ∨ t.fio.parSet n = [n] →
          t.doOn n = (t.fio.want n && !s.bit Reg.FIO_STAT 29 && s.fioEnabled && (t.fio.parSet n).all (fun m => !t.doWait m && !t.doLatch m)))
      ∧ (∀ n, s.bit Reg.FIO_STAT 28 = false → t.fio.want n = t.fio.cmd.testBit (t.fio.master n))
      ∧ State.OnlyRegs { s with fio := t.fio } t (Reg.FIO_STAT :: (List.range 8).map Reg.FIO_DO_CH_STAT))
  ∧ (∀ (s : State) (b : Bool), b = false ∨ s.mode ≤ mRESET → exec (.fioOutputFrame b) s = .next s)
  ∧ (∀ (s : State) (rb lim : BitVec 8) (cur : List (BitVec 16)) (vfld : BitVec 16), s.bit Reg.FIO_STAT 27 = true →
    ∃ t, exec (.fioInputFrame rb lim cur vfld) s = .next t
      ∧ t.fld Reg.FIO_DI_STAT 31 16 = s.fio.raw % 65536 ∧ t.fld Reg.FIO_DI_STAT 15 0 = s.fio.filt % 65536 ∧ t.rd Reg.FIO_VFLD = word vfld.toNat
      ∧ (∀ n, n < 8 → t.bit (Reg.FIO_DO_CH_STAT n) 30 = rb.getLsbD n ∧ t.bit (Reg.FIO_DO_CH_STAT n) 29 = lim.getLsbD n
            ∧ t.rd (Reg.FIO_DO_CH_CUR n) = word (((cur[n]?).getD 0).toNat) ∧ t.doOn n = s.doOn n)
      ∧ (∀ n i, n < 8 → 10 ≤ i → i ≤ 15 → (natAt s.fio.flags n).testBit i = true → t.bit (Reg.FIO_DO_CH_STAT n) i = true ∧ t.bit Reg.FIO_EVT 27 = true)
      ∧ (∀ n, n < 8 → (natAt s.fio.flags n).testBit 10 = true → t.fld (Reg.FIO_DO_CH_STAT n) 26 24 = natAt s.fio.ext n % 8)
      ∧ (∀ n, n < 16 → s.fio.rise.testBit n = true → t.bit Reg.FIO_DI_RISE n = true)
      ∧ (∀ n, n < 16 → s.fio.fall.testBit n = true → t.bit Reg.FIO_DI_FALL n = true)
      ∧ t.fio.rise = 0 ∧ t.fio.fall = 0 ∧ t.fio.flags = List.replicate 8 0 ∧ t.hall = s.hall ∧ t.pv = s.pv ∧ t.tb = s.tb
      ∧ ∀ a, a / 65536 ≠ 0x400D → a / 65536 ≠ 0x400E → a ∉ deliveryRegs → t.rd a = s.rd a)
  ∧ (∀ (s : State) (rb lim : BitVec 8) (cur : List (BitVec 16)) (vfld : BitVec 16), s.bit Reg.FIO_STAT 27 = false →
    ∃ t, exec (.fioInputFrame rb lim cur vfld) s = .next t ∧ { t with fio := s.fio } = s ∧ t.fio.rb = rb.toNat ∧ t.fio.flags = s.fio.flags)
  ∧ ∀ (s : State) (n : Fin 16) (high v : Bool), s.Shaped → v = (high && s.fio.vfld != 2) →
    ∃ t, exec (.diSample n high) s = .next t ∧ { t with fio := s.fio } = s
      ∧ (∀ c c', s.fio.cnt[n.val]? = some c → t.fio.cnt[n.val]? = some c' →
          c' = (if v then min (wFld (s.fio.word n) 7 0) (c + 1) else c - 1)
          ∧ (wFld (s.fio.word n) 7 0 ≠ 0 → t.fio.filt.testBit n = (if v = true ∧ c' = wFld (s.fio.word n) 7 0 then true
              else if v = false ∧ c' = 0 then false else s.fio.filt.testBit n)))
      ∧ t.fio.raw.testBit n = v
      ∧ (∀ k, k ≠ n.val → t.fio.filt.testBit k = s.fio.filt.testBit k ∧ t.fio.cnt[k]? = s.fio.cnt[k]?)
      ∧ t.fio.cmd = s.fio.cmd ∧ t.fio.cfg = s.fio.cfg

/-- R246, R251, R252, R258, R260. -/
def Obligations.FieldCommands : Prop :=
  (∀ (s : State) (m : Fin 32) (v : Word), s.may m Reg.FIO_DO_CMD true →
    ∃ t, exec (.fioDoCmd m v) s = .next t ∧ t.rd Reg.FIO_DO_CMD = v &&& 0xFF ∧ s.OnlyRegs t [Reg.FIO_DO_CMD])
  ∧ (∀ (s : State) (m : Fin 32) (v : Word), s.may m Reg.FIO_DO_SET true →
    ∃ t, exec (.fioDoSet m v) s = .next t ∧ (∀ n, n < 8 → t.bit Reg.FIO_DO_CMD n = (s.bit Reg.FIO_DO_CMD n || wBit v n))
      ∧ s.OnlyRegs t [Reg.FIO_DO_CMD])
  ∧ (∀ (s : State) (m : Fin 32) (v : Word), s.may m Reg.FIO_DO_CLR true →
    ∃ t, exec (.fioDoClr m v) s = .next t ∧ (∀ n, n < 8 → t.bit Reg.FIO_DO_CMD n = (s.bit Reg.FIO_DO_CMD n && !wBit v n))
      ∧ s.OnlyRegs t [Reg.FIO_DO_CMD])
  ∧ (∀ (s : State) (m : Fin 32) (v : Word), s.may m Reg.FIO_DO_UNLATCH true →
    ∃ t, exec (.fioDoUnlatch m v) s = .next t
      ∧ (∀ n, n < 8 → wBit v (s.fio.master n) = true → t.doLatch n = false ∧ t.fld (Reg.FIO_DO_CH_STAT n) 23 20 = 0)
      ∧ (∀ n, n < 8 → wBit v (s.fio.master n) = false → t.rd (Reg.FIO_DO_CH_STAT n) = s.rd (Reg.FIO_DO_CH_STAT n))
      ∧ s.OnlyRegs t ((List.range 8).map Reg.FIO_DO_CH_STAT))
  ∧ ∀ (s : State) (m : Fin 32) (v : Word) (c : Instr), s.may m Reg.FIO_CTRL true → c = .fioResume m v ∨ c = .fioReen m v →
    ∃ t, exec c s = .next t
      ∧ t.rd Reg.FIO_STAT = s.rd Reg.FIO_STAT &&& ~~~ (mkBit 29 (wBit v 31 && s.bit Reg.FIO_STAT 31) ||| mkBit 28 (wBit v 30))
      ∧ (wBit v 31 = true → s.bit Reg.FIO_STAT 31 = false → t.rd Reg.FIO_EVT = s.rd Reg.FIO_EVT ||| bitW 28)
      ∧ (wBit v 31 = false ∨ s.bit Reg.FIO_STAT 31 = true → s.OnlyRegs t [Reg.FIO_STAT])
      ∧ s.OnlyRaised t [Reg.FIO_STAT, Reg.FIO_EVT]

/-- R245, R251 to R256. n is always one of its own paralleled set. A diagnostic flag waits on the field die for the next input frame. -/
def Obligations.FieldProtection : Prop :=
  (∀ (s : State) (n : Fin 8), s.Shaped → s.doOn n = true →
    (wFld (s.fio.chCfg (s.fio.master n)) 23 16 ≠ 0 →
      ∃ t, exec (.overloadCutoff n) s = .next t ∧ (∀ m ∈ s.fio.parSet n, t.doOn m = false) ∧ (natAt t.fio.flags n).testBit 15 = true
        ∧ (wFld (s.fio.chCfg (s.fio.master n)) 7 4 ≠ 15 ∧ s.fld (Reg.FIO_DO_CH_STAT n) 23 20 = wFld (s.fio.chCfg (s.fio.master n)) 7 4 →
            t.doLatch n = true ∧ t.doWait n = s.doWait n)
        ∧ (wFld (s.fio.chCfg (s.fio.master n)) 7 4 = 15 ∨ s.fld (Reg.FIO_DO_CH_STAT n) 23 20 ≠ wFld (s.fio.chCfg (s.fio.master n)) 7 4 →
            t.doWait n = true ∧ t.doLatch n = s.doLatch n)
        ∧ State.OnlyRegs { s with fio := { s.fio with flags := t.fio.flags } } t ((s.fio.parSet n).map Reg.FIO_DO_CH_STAT))
    ∧ ∃ t, exec (.thermalCutoff n) s = .next t ∧ (∀ m ∈ s.fio.parSet n, t.doOn m = false) ∧ (natAt t.fio.flags n).testBit 14 = true
        ∧ (t.doWait n = true ∨ t.doLatch n = true)
        ∧ State.OnlyRegs { s with fio := { s.fio with flags := t.fio.flags } } t ((s.fio.parSet n).map Reg.FIO_DO_CH_STAT))
  ∧ (∀ (s : State) (n : Fin 8), s.doWait n = true → s.bit Reg.FIO_STAT 29 = false → s.fio.want n = true →
    ∃ t, exec (.outputRetry n) s = .next t ∧ t.doWait n = false
      ∧ t.fld (Reg.FIO_DO_CH_STAT n) 23 20 = min 15 (s.fld (Reg.FIO_DO_CH_STAT n) 23 20 + 1)
      ∧ (s.fio.parSet n = [n.val] → s.fio.off = false → s.fioEnabled = true → s.doLatch n = false → t.doOn n = true)
      ∧ s.OnlyRegs t ((s.fio.parSet n).map Reg.FIO_DO_CH_STAT))
  ∧ (∀ (s : State) (n : Fin 8), s.doOn n = true →
    ∃ t, exec (.retryCountClear n) s = .next t ∧ t.fld (Reg.FIO_DO_CH_STAT n) 23 20 = 0 ∧ t.doOn n = true
      ∧ s.OnlyRegs t [Reg.FIO_DO_CH_STAT n])
  ∧ (∀ (s : State) (n : Fin 8) (d : BitVec 8), s.Shaped → s.fio.want n = false → s.fio.rb.testBit n = false →
    ∃ t, exec (.readbackHigh n d) s = .next t ∧ t.bit (Reg.FIO_DO_CH_STAT n) 30 = true ∧ t.fio.rb.testBit n = true
      ∧ (d = 0 → t.fio.driver n = none)
      ∧ (∀ i, d.getLsbD i = true → s.doOn i = true → (s.fio.parSet n).contains i = false →
          (∀ j, j < i → d.getLsbD j = true → s.doOn j = false ∨ (s.fio.parSet n).contains j = true) → t.fio.driver n = some i)
      ∧ State.OnlyRegs { s with fio := t.fio } t [Reg.FIO_DO_CH_STAT n])
  ∧ (∀ (s : State) (n : Fin 8) (k : Fin 4), s.Shaped →
    (k = 0 ∧ s.fio.want n = true ∧ wFld (s.fio.chCfg (s.fio.master n)) 30 25 ≠ 0)
      ∨ (k = 1 ∧ s.fio.want n = false ∧ wBit (s.fio.chCfg (s.fio.master n)) 31 = true ∧ s.fio.master n = n.val)
      ∨ (k = 2 ∧ s.fio.want n = false ∧ s.fio.rb.testBit n = true ∧ s.fio.driver n = none)
      ∨ (k = 3 ∧ s.fio.want n = false ∧ s.fio.rb.testBit n = true ∧ s.fio.driver n ≠ none) →
    ∃ t, exec (.outputDiagnostic n ⟨k, true⟩) s = .next t ∧ (natAt t.fio.flags n).testBit (diagBit k) = true
      ∧ (natAt t.fio.cond n).testBit (diagBit k) = true ∧ (k = 3 → s.fio.driver n = some (natAt t.fio.ext n)) ∧ { t with fio := s.fio } = s)
  ∧ ∀ (s : State) (n : Fin 8) (k : Fin 4), s.Shaped →
    ∃ t, exec (.outputDiagnostic n ⟨k, false⟩) s = .next t ∧ (natAt t.fio.cond n).testBit (diagBit k) = false
      ∧ { t with fio := { t.fio with cond := s.fio.cond } } = s

/-- R257 to R260, R416. The safe states are stated for outputs that are not paralleled. -/
def Obligations.FieldSupplyAndSilence : Prop :=
  (∀ s : State, mRESET < s.mode → s.bit Reg.FIO_STAT 28 = false ∨ s.bit Reg.FIO_STAT 27 = true →
    ∃ t, exec .silenceTimeout s = .next t ∧ t.bit Reg.FIO_STAT 28 = true ∧ t.bit Reg.FIO_STAT 27 = false ∧ t.bit Reg.FIO_EVT 29 = true
      ∧ (∀ n, n < 8 → s.fio.parSet n = [n] →
          t.doOn n = ((if wFld (s.fio.word 17) (2 * n + 1) (2 * n) = 1 then true
              else if wFld (s.fio.word 17) (2 * n + 1) (2 * n) = 2 then s.doOn n else false)
            && !s.fio.off && s.fioEnabled && !s.doWait n && !s.doLatch n))
      ∧ State.OnlyRaised { s with fio := t.fio } t (Reg.FIO_STAT :: Reg.FIO_EVT :: (List.range 8).map Reg.FIO_DO_CH_STAT))
  ∧ (∀ s : State, s.mode ≤ mRESET → exec .silenceTimeout s = .next s)
  ∧ (∀ s : State,
    ∃ t, exec .vfldWarn s = .next t ∧ t.bit Reg.FIO_STAT 31 = false ∧ t.bit Reg.FIO_STAT 30 = true ∧ t.bit Reg.FIO_STAT 29 = s.bit Reg.FIO_STAT 29
      ∧ (s.bit Reg.FIO_STAT 30 = false → t.bit Reg.FIO_EVT 31 = true) ∧ (s.bit Reg.FIO_STAT 30 = true → t.rd Reg.FIO_EVT = s.rd Reg.FIO_EVT)
      ∧ State.OnlyRaised { s with fio := { s.fio with vfld := 0 } } t [Reg.FIO_STAT, Reg.FIO_EVT])
  ∧ (∀ s : State,
    ∃ t, exec .vfldSag s = .next t ∧ t.bit Reg.FIO_STAT 29 = true ∧ t.bit Reg.FIO_STAT 30 = true ∧ t.bit Reg.FIO_STAT 31 = false
      ∧ t.bit Reg.FIO_EVT 30 = true ∧ (∀ n, n < 8 → t.doOn n = false) ∧ t.saf = { s.saf with psusp := true }
      ∧ State.OnlyRaised { s with fio := t.fio, saf := t.saf } t (Reg.FIO_STAT :: Reg.FIO_EVT :: (List.range 8).map Reg.FIO_DO_CH_STAT))
  ∧ ∀ s : State,
    ∃ t, exec .vfldRecover s = .next t ∧ t.bit Reg.FIO_STAT 31 = true ∧ t.bit Reg.FIO_STAT 30 = false ∧ t.bit Reg.FIO_STAT 29 = s.bit Reg.FIO_STAT 29
      ∧ State.OnlyRegs { s with fio := { s.fio with vfld := 1 } } t [Reg.FIO_STAT]

/-- R130, R132, R140. A start in a group with TRMODE = 1 is ignored while its trip acts; that a stop cancels a start that waits is
the model's reading (log entry 41). -/
def Obligations.PwmStartAndStop : Prop :=
  (∀ (s : State) (m : Fin 32) (v : Word), s.may m Reg.PWM_START true →
    ∃ t, exec (.pwmStart m v) s = .next t
      ∧ (∀ g, g < 8 → wBit v g = true → s.pwmRun g = false → (s.grp g).startPend = false → s.grpOk g s.tb.len = true →
          (s.bit (Reg.PWM_GRP_CFG g) 20 && s.tripped g) = false →
          t.grp g = { s.grp g with startPend := true, stopPend := false, trStop := false, startAt := s.tb.tick })
      ∧ (∀ g, g < 8 → wBit v g = true → s.pwmRun g = false → (s.grp g).startPend = false → s.grpOk g s.tb.len = false →
          t.bit (Reg.PWM_GRP_STAT g) 9 = true ∧ t.grp g = s.grp g)
      ∧ (∀ g, g < 8 → s.pwmRun g = true ∨ (s.grp g).startPend = true ∨ (s.bit (Reg.PWM_GRP_CFG g) 20 && s.tripped g) = true → t.grp g = s.grp g)
      ∧ (∀ g, g < 8 → wBit v g = false → t.grp g = s.grp g ∧ t.rd (Reg.PWM_GRP_STAT g) = s.rd (Reg.PWM_GRP_STAT g))
      ∧ State.OnlyRegs { s with pwm := t.pwm } t ((List.range 8).map Reg.PWM_GRP_STAT))
  ∧ (∀ (s : State) (m : Fin 32) (v : Word), s.may m Reg.PWM_STOP true →
    ∃ t, exec (.pwmStop m v) s = .next t
      ∧ (∀ g, g < 8 → wBit v g = true → s.pwmRun g = true → (s.grp g).stopPend = false →
          t.grp g = { s.grp g with stopPend := true, stopAt := s.tb.tick })
      ∧ (∀ g, g < 8 → wBit v g = true → s.pwmRun g = true → (s.grp g).stopPend = true → t.grp g = s.grp g)
      ∧ (∀ g, g < 8 → wBit v g = true → s.pwmRun g = false → (s.grp g).startPend = true →
          t.grp g = { s.grp g with startPend := false, held := (t.grp g).held })
      ∧ (∀ g, g < 8 → wBit v g = false ∨ (s.pwmRun g = false ∧ (s.grp g).startPend = false) → t.grp g = s.grp g)
      ∧ { t with pwm := s.pwm, regs := s.regs } = s
      ∧ ((∀ g, g < 8 → wBit v g = true → s.pwmRun g = true ∨ (s.grp g).startPend = false) → t.regs = s.regs))
  ∧ (∀ (s : State) (m : Fin 32) (v : Word), s.may m Reg.PWM_LOADALL true → wBit v 0 = true →
    ∃ t, exec (.pwmLoadall m v) s = .next t
      ∧ (∀ g, g < 8 → t.bit (Reg.PWM_GRP_STAT g) 29 = (s.bit (Reg.PWM_GRP_STAT g) 29 || s.bit (Reg.PWM_GRP_CTRL g) 31))
      ∧ s.OnlyRegs t ((List.range 8).map Reg.PWM_GRP_STAT))
  ∧ ∀ (s : State) (m : Fin 32) (v : Word), s.may m Reg.PWM_LOADALL true → wBit v 0 = false → exec (.pwmLoadall m v) s = .next s

/-- R131, R134, R142. PWM_GRP_CFG.SRC is bit 14. -/
def Obligations.PwmShadowAndDeadTime : Prop :=
  (∀ (s : State) (m : Fin 32) (g : Fin 8) (v : Word), s.bit (Reg.PWM_GRP_CFG g) 14 = true →
    (s.may m (Reg.PWM_GRP_SHDW01 g) true →
      ∃ t, exec (.shadowWrite m g false v) s = .next t ∧ t.rd (Reg.PWM_GRP_SHDW01 g) = v ∧ t.bit (Reg.PWM_GRP_STAT g) 30 = true
        ∧ s.OnlyRegs t [Reg.PWM_GRP_SHDW01 g, Reg.PWM_GRP_STAT g])
    ∧ (s.may m (Reg.PWM_GRP_SHDW2 g) true →
      ∃ t, exec (.shadowWrite m g true v) s = .next t ∧ t.rd (Reg.PWM_GRP_SHDW2 g) = v &&& 0xFFFF ∧ t.bit (Reg.PWM_GRP_STAT g) 30 = true
        ∧ s.OnlyRegs t [Reg.PWM_GRP_SHDW2 g, Reg.PWM_GRP_STAT g]))
  ∧ (∀ (s : State) (m : Fin 32) (g : Fin 8) (b : Bool) (v : Word), s.bit (Reg.PWM_GRP_CFG g) 14 = false →
    s.may m (if b then Reg.PWM_GRP_SHDW2 g else Reg.PWM_GRP_SHDW01 g) true → exec (.shadowWrite m g b v) s = .next s)
  ∧ (∀ (s : State) (m : Fin 32) (g : Fin 8) (v : Word), s.may m (Reg.PWM_GRP_DT g) true →
    (wFld v 7 0 ≠ 0 → wFld v 7 0 ≤ wFld v 23 16 →
      ∃ t, exec (.deadTimeWrite m g v) s = .next t ∧ t.rd (Reg.PWM_GRP_DT g) = v &&& 0x00FF00FF ∧ s.OnlyRegs t [Reg.PWM_GRP_DT g])
    ∧ (wFld v 7 0 = 0 ∨ wFld v 23 16 < wFld v 7 0 →
      ∃ t, exec (.deadTimeWrite m g v) s = .next t ∧ t.bit (Reg.PWM_GRP_STAT g) 9 = true ∧ s.OnlyRegs t [Reg.PWM_GRP_STAT g]))
  ∧ ∀ (s : State) (g : Fin 8),
    (∃ t, exec (.delayLineError g) s = .next t ∧ t.bit (Reg.PWM_GRP_STAT g) 26 = true ∧ t.bit Reg.PWM_EVT 30 = true
      ∧ s.OnlyRaised t [Reg.PWM_GRP_STAT g, Reg.PWM_EVT])
    ∧ ∃ t, exec (.delayLineRecalibrated g) s = .next t ∧ t.bit (Reg.PWM_GRP_STAT g) 26 = false ∧ s.OnlyRegs t [Reg.PWM_GRP_STAT g]

/-- R127 to R132, R135, R137. The index of the valley is j; an update point is one where N divides j (R129). A write of the valley's own tick acts at a
later valley (R130). -/
def Obligations.PwmCarrier : Prop :=
  (∀ (s : State) (g : Fin 8) (tick j : Nat) (u v w : DsmLine), s.Shaped → s.valleyIndex g tick = some j → s.tb.running = true →
    (s.pwmRun g = false → (s.grp g).startPend = true → (s.grp g).startAt < s.tick0 + tick → j % s.pwmN g = 0 →
      ∃ t, exec (.carrierValley g tick ⟨u, v, w⟩) s = .next t ∧ t.pwmRun g = true ∧ (t.grp g).startPend = false ∧ (t.grp g).j = j
        ∧ (∀ x, x < 3 → t.deadTimes g x = ⟨s.fld (Reg.PWM_GRP_DT g) 23 16 * 32, s.fld (Reg.PWM_GRP_DT g) 23 16 * 32⟩)
        ∧ (∀ k, k ≠ g.val → t.grp k = s.grp k) ∧ s.SameMemory t)
    ∧ (s.pwmRun g = true → (s.grp g).stopPend = false ∨ s.tick0 + tick ≤ (s.grp g).stopAt →
      ∃ t, exec (.carrierValley g tick ⟨u, v, w⟩) s = .next t ∧ t.pwmRun g = true ∧ (t.grp g).j = j ∧ (t.grp g).valley = (s.tick0 + tick) * 32
        ∧ (t.grp g).down = false
        ∧ (j % s.pwmN g ≠ 0 → t.rd (Reg.PWM_GRP_ACT01 g) = s.rd (Reg.PWM_GRP_ACT01 g) ∧ t.rd (Reg.PWM_GRP_ACT2 g) = s.rd (Reg.PWM_GRP_ACT2 g))
        ∧ (j % s.pwmN g = 0 → s.bit (Reg.PWM_GRP_STAT g) 30 = true → s.bit (Reg.PWM_GRP_CTRL g) 31 = false →
            t.rd (Reg.PWM_GRP_ACT01 g) = s.rd (Reg.PWM_GRP_SHDW01 g) ∧ t.rd (Reg.PWM_GRP_ACT2 g) = s.rd (Reg.PWM_GRP_SHDW2 g))
        ∧ (j % s.pwmN g = 0 → s.bit (Reg.PWM_GRP_STAT g) 30 = true → s.bit (Reg.PWM_GRP_STAT g) 29 = false → s.bit (Reg.PWM_GRP_CTRL g) 31 = true →
            t.rd (Reg.PWM_GRP_ACT01 g) = s.rd (Reg.PWM_GRP_ACT01 g))
        ∧ (∀ k, k ≠ g.val → t.grp k = s.grp k) ∧ s.SameMemory t)
    ∧ (s.pwmRun g = true → (s.grp g).stopPend = true → (s.grp g).stopAt < s.tick0 + tick →
      ∃ t, exec (.carrierValley g tick ⟨u, v, w⟩) s = .next t ∧ t.pwmRun g = false ∧ t.bit (Reg.PWM_GRP_STAT g) 30 = false
        ∧ (∀ x, x < 3 → (t.phase g x).sw = 0 ∧ (t.phase g x).next = 0 ∧ (t.phase g x).sense = (s.phase g x).sense)
        ∧ (∀ k, k ≠ g.val → t.grp k = s.grp k) ∧ s.SameMemory t))
  ∧ (∀ (s : State) (g : Fin 8) (tick : Nat), s.Shaped → s.pwmRun g = true → s.tb.running = true → (s.grp g).down = false →
    (s.tick0 + tick) * 32 = (s.grp g).valley + s.halfF g →
    ∃ t, exec (.carrierPeak ⟨g, tick⟩) s = .next t ∧ (t.grp g).down = true ∧ (∀ k, k ≠ g.val → t.grp k = s.grp k) ∧ s.SameMemory t
      ∧ (s.bit (Reg.PWM_GRP_STAT g) 27 = false → (s.grp g).blank = false → ∀ x, x < 3 → ∀ off, off = 2 * (s.halfF g - cmpOf (s.actDuty g x) (s.halfF g)) →
          ((s.phase g x).cmd = true ∨ (s.phase g x).rise = true → off ≠ 0 → (s.deadTimes g x).f + s.mpwF g ≤ off → (t.phase g x).fall = true)
          ∧ (off < (s.deadTimes g x).f + s.mpwF g → t.phase g x = s.phase g x)))
  ∧ (∀ (s : State) (g : Fin 8) (tick : Nat), (s.tick0 + tick) * 32 ≠ (s.grp g).valley + s.halfF g → exec (.carrierPeak ⟨g, tick⟩) s = .next s)
  ∧ ∀ (s : State) (g : Fin 8) (tick : Nat) (u v w : DsmLine), s.tb.running = false ∨ s.valleyIndex g tick = none →
    exec (.carrierValley g tick ⟨u, v, w⟩) s = .next s

/-- R133 to R136, R138. Times in fine ticks: o is the commanded edge, not before the switch that is on has had its minimum pulse; each computed edge is
placed on a whole tick while the delay line is off its calibration, the model's reading (log entry 81). -/
def Obligations.PwmEdges : Prop :=
  (∀ (s : State) (g : Fin 8) (x : Fin 3) (up : Bool) (ideal o off due : Nat), s.Shaped → s.pwmRun g = true → s.tb.running = true →
    (s.phase g x).next = 0 → (s.phase g x).rise = up → (up = false → (s.phase g x).fall = true) →
    ideal = (if up then (s.grp g).valley + s.halfF g - cmpOf (s.actDuty g x) (s.halfF g)
      else (s.grp g).valley + s.halfF g + cmpOf (s.actDuty g x) (s.halfF g)) →
    o = (if (s.phase g x).sw = 0 then ideal else max ideal ((s.phase g x).since + s.mpwF g)) →
    off = placed (s.bit (Reg.PWM_GRP_STAT g) 26) o →
    due = placed (s.bit (Reg.PWM_GRP_STAT g) 26) (o + (if up then (s.deadTimes g x).r else (s.deadTimes g x).f)) →
    ∃ t, exec (.commandedEdge g x) s = .next t ∧ (t.phase g x).cmd = up ∧ (t.phase g x).sw = 0 ∧ (t.phase g x).next = (if up then 2 else 1)
      ∧ (t.phase g x).due = due ∧ (up = true → (t.phase g x).rise = false) ∧ (up = false → (t.phase g x).fall = false)
      ∧ ((s.adaptive g && (s.phase g x).sw != 0) = true → (t.phase g x).win = some (up, off, due, max (off + s.dtMaxF g) (due + 512), false))
      ∧ ((s.adaptive g && (s.phase g x).sw != 0) = false → (t.phase g x).win = none)
      ∧ (∀ k, k < 3 → k ≠ x.val → t.phase g k = s.phase g k) ∧ (∀ k, k ≠ g.val → t.grp k = s.grp k) ∧ { t with pwm := s.pwm } = s)
  ∧ (∀ (s : State) (g : Fin 8) (x : Fin 3), s.Shaped → (s.phase g x).next ≠ 0 → s.tb.running = true →
    ∃ t, exec (.deadTimeEnd g x) s = .next t ∧ t.phase g x = { s.phase g x with sw := (s.phase g x).next, since := (s.phase g x).due, next := 0 }
      ∧ (∀ k, k < 3 → k ≠ x.val → t.phase g k = s.phase g k) ∧ (∀ k, k ≠ g.val → t.grp k = s.grp k) ∧ { t with pwm := s.pwm } = s)
  ∧ (∀ (s : State) (g : Fin 8) (x : Fin 3) (level : Bool) (fine : Nat), s.Shaped → (s.phase g x).sense ≠ level →
    ∃ t, exec (.senseTransition g x level fine) s = .next t ∧ (t.phase g x).sense = level
      ∧ ((s.phase g x).win = none → { t with pwm := s.pwm } = s)
      ∧ (∀ up off on close seen, (s.phase g x).win = some (up, off, on, close, seen) →
          (seen = true ∨ level ≠ up ∨ s.tick0 * 32 + fine < off ∨ close ≤ s.tick0 * 32 + fine →
            { t with pwm := s.pwm } = s ∧ (t.phase g x).win = (s.phase g x).win)
          ∧ (seen = false → level = up → off ≤ s.tick0 * 32 + fine → s.tick0 * 32 + fine < close →
              (t.phase g x).win = some (up, off, on, close, true)
              ∧ (on ≤ s.tick0 * 32 + fine → { t with pwm := s.pwm } = s)
              ∧ (s.tick0 * 32 + fine < on → ∀ cur tgt, cur = (if up then (s.deadTimes g x).r else (s.deadTimes g x).f) →
                  tgt = max (wFld (s.grp g).dt 7 0 * 32)
                    (min (wFld (s.grp g).dt 23 16 * 32) (s.tick0 * 32 + fine - off + wFld (s.grp g).adj 7 0)) →
                  (cur ≤ tgt → (if up then (t.deadTimes g x).r else (t.deadTimes g x).f) = min tgt (cur + wFld (s.grp g).adj 23 16))
                  ∧ (tgt < cur → (if up then (t.deadTimes g x).r else (t.deadTimes g x).f) = max tgt (cur - wFld (s.grp g).adj 23 16))
                  ∧ (if up then (t.deadTimes g x).f = (s.deadTimes g x).f else (t.deadTimes g x).r = (s.deadTimes g x).r))))
      ∧ State.OnlyRegs { s with pwm := t.pwm } t [dtReg g x])
  ∧ (∀ (s : State) (g : Fin 8) (x : Fin 3) (level : Bool) (fine : Nat), (s.phase g x).sense = level →
    exec (.senseTransition g x level fine) s = .next s)
  ∧ (∀ (s : State) (g : Fin 8) (x : Fin 3) (up seen : Bool) (off on close : Nat), s.Shaped → (s.phase g x).win = some (up, off, on, close, seen) →
    ∃ t, exec (.senseWindowClose g x) s = .next t ∧ (t.phase g x).win = none
      ∧ (seen = false → t.bit (Reg.PWM_GRP_STAT g) (12 - x) = true ∧ t.bit Reg.PWM_EVT (8 + g) = true
          ∧ (if up then (t.deadTimes g x).r else (t.deadTimes g x).f) = s.dtMaxF g)
      ∧ (seen = true → { t with pwm := s.pwm } = s)
      ∧ State.OnlyRaised { s with pwm := t.pwm } t [dtReg g x, Reg.PWM_GRP_STAT g, Reg.PWM_EVT])
  ∧ ∀ (s : State) (g : Fin 8) (x : Fin 3), (s.phase g x).win = none → exec (.senseWindowClose g x) s = .next s

/-- R139 to R141. PWM_GRP_CFG.TRALL is bit 19, TRMODE bit 20, the filter bits [18:15]; PWM_GRP_CNT counts cut periods in bits [31:16]. While the carriers are
frozen a filtered trip input changes nothing. -/
def Obligations.PwmTrips : Prop :=
  (∀ (s : State) (g : Fin 8), s.Shaped → s.tb.running = true ∨ s.fld (Reg.PWM_GRP_CFG g) 18 15 = 0 → s.bit (Reg.PWM_GRP_STAT g) 28 = false →
    ∃ t, exec (.tripActive (some g)) s = .next t ∧ t.bit (Reg.PWM_GRP_STAT g) 28 = true ∧ t.bit (Reg.PWM_GRP_STAT g) 15 = true ∧ t.bit Reg.PWM_EVT g = true
      ∧ (s.pwmRun g = true → t.bit (Reg.PWM_GRP_STAT g) 27 = true ∧ (∀ x, x < 3 → (t.phase g x).sw = 0 ∧ (t.phase g x).next = 0)
          ∧ (t.grp g).stopPend = ((s.grp g).stopPend || s.bit (Reg.PWM_GRP_CFG g) 20)
          ∧ t.fld (Reg.PWM_GRP_CNT g) 31 16 = (if (s.grp g).cutDone then s.fld (Reg.PWM_GRP_CNT g) 31 16 else (s.fld (Reg.PWM_GRP_CNT g) 31 16 + 1) % 65536))
      ∧ (s.pwmRun g = false → s.bit (Reg.PWM_GRP_CFG g) 20 = true → (s.grp g).startPend = true →
          (t.grp g).startPend = false ∧ t.bit (Reg.PWM_GRP_STAT g) 13 = true)
      ∧ (∀ k, k ≠ g.val → t.grp k = s.grp k) ∧ s.SameStore t)
  ∧ (∀ s : State, s.Shaped → s.tb.running = true ∨ s.fld Reg.PWM_TRALL 3 0 = 0 → s.bit Reg.PWM_TRALL 31 = false →
    ∃ t, exec (.tripActive none) s = .next t ∧ t.bit Reg.PWM_TRALL 31 = true ∧ t.bit Reg.PWM_EVT 31 = true
      ∧ (∀ g, g < 8 → s.bit (Reg.PWM_GRP_CFG g) 19 = true → t.bit (Reg.PWM_GRP_STAT g) 14 = true
          ∧ (s.pwmRun g = true → ∀ x, x < 3 → (t.phase g x).sw = 0 ∧ (t.phase g x).next = 0))
      ∧ (∀ g, g < 8 → s.bit (Reg.PWM_GRP_CFG g) 19 = false → t.grp g = s.grp g ∧ t.bit (Reg.PWM_GRP_STAT g) 14 = s.bit (Reg.PWM_GRP_STAT g) 14
          ∧ t.bit (Reg.PWM_GRP_STAT g) 27 = s.bit (Reg.PWM_GRP_STAT g) 27) ∧ s.SameStore t)
  ∧ (∀ s : State,
    (∀ g : Fin 8, s.tb.running = true ∨ s.fld (Reg.PWM_GRP_CFG g) 18 15 = 0 →
      ∃ t, exec (.tripInactive (some g)) s = .next t ∧ t.rd (Reg.PWM_GRP_STAT g) = s.rd (Reg.PWM_GRP_STAT g) &&& ~~~ bitW 28
        ∧ s.OnlyRegs t [Reg.PWM_GRP_STAT g])
    ∧ (s.tb.running = true ∨ s.fld Reg.PWM_TRALL 3 0 = 0 →
      ∃ t, exec (.tripInactive none) s = .next t ∧ t.rd Reg.PWM_TRALL = s.rd Reg.PWM_TRALL &&& ~~~ bitW 31 ∧ s.OnlyRegs t [Reg.PWM_TRALL]))
  ∧ ∀ s : State, s.tb.running = false →
    (∀ g : Fin 8, s.fld (Reg.PWM_GRP_CFG g) 18 15 ≠ 0 → exec (.tripActive (some g)) s = .next s ∧ exec (.tripInactive (some g)) s = .next s)
    ∧ (s.fld Reg.PWM_TRALL 3 0 ≠ 0 → exec (.tripActive none) s = .next s ∧ exec (.tripInactive none) s = .next s)

/-- R262, R264 to R268. The handle and, where several cases refuse, the code are the part's choice (log entry 18). -/
def Obligations.SchedulerSubmission : Prop :=
  (∀ (s : State) (m : Fin 32) (v : Word), s.may m Reg.TSU_SUB_CTL true →
    (s.submitCodes m v = [] →
      ∃ t h, exec (.submit m v) s = .next t ∧ h ∈ s.freeHandles
        ∧ (∃ j l₁ l₂, s.tsu.jobs = l₁ ++ l₂ ∧ t.tsu.jobs.map (fun k => { k with seq := 0 }) = (l₁ ++ j :: l₂).map (fun k => { k with seq := 0 })
            ∧ (∀ k ∈ l₁, k.at' = s.tb.tick → k.mid ≤ m) ∧ (∀ k, l₂.head? = some k → k.at' = s.tb.tick ∧ m < k.mid)
            ∧ j.handle = h ∧ j.level = wFld v 26 24 ∧ j.flow = (if wBit v 31 then some (wFld v 5 0) else none)
            ∧ j.arg = s.rd (midKey m Reg.TSU_SUB_ARG) ∧ j.entry = s.rd (midKey m Reg.TSU_SUB_ENTRY) ∧ j.res = s.rd (midKey m Reg.TSU_SUB_RES)
            ∧ j.mid = m.val ∧ j.notify = wBit v 30 ∧ j.st = .queued false ∧ j.at' = s.tb.tick ∧ j.due = s.tb.tick + 8)
        ∧ t.bit (midKey m Reg.TSU_SUB_STAT) 31 = true ∧ t.fld (midKey m Reg.TSU_SUB_STAT) 10 0 = h ∧ s.SameMemory t ∧ t.tsu.cores = s.tsu.cores
        ∧ s.RegsBut t (midKey m Reg.TSU_SUB_STAT :: Reg.TSU_STAT :: (List.range 8).map Reg.TSU_LVL))
    ∧ (s.submitCodes m v ≠ [] →
      ∃ t c, exec (.submit m v) s = .next t ∧ c ∈ s.submitCodes m v ∧ t.tsu.jobs = s.tsu.jobs
        ∧ t.fld (midKey m Reg.TSU_SUB_STAT) 26 24 = c ∧ t.bit (midKey m Reg.TSU_SUB_STAT) 31 = false
        ∧ t.rd Reg.TSU_REFCNT = s.rd Reg.TSU_REFCNT + 1 ∧ t.bit Reg.TSU_EVT 31 = true ∧ s.SameMemory t
        ∧ s.RegsBut t (midKey m Reg.TSU_SUB_STAT :: Reg.TSU_REFCNT :: deliveryRegs)))
  ∧ (∀ (s : State) (h : Fin 2048) (j : TsuJob), s.tsu.jobs.find? (fun k => k.handle == h.val && k.st == .queued false) = some j → s.inFlowWindow j = true →
    j.due ≤ s.tb.tick →
    (s.longestWaiter j.level = none →
      ∃ t, exec (.jobEligible h) s = .next t ∧ (∀ k ∈ t.tsu.jobs, k.handle = h.val → k.st = .queued true) ∧ s.RegsBut t []
        ∧ { t with tsu := { t.tsu with jobs := s.tsu.jobs } } = s)
    ∧ ∀ c, s.longestWaiter j.level = some c →
      ∃ t, exec (.jobEligible h) s = .next t ∧ (∀ k ∈ t.tsu.jobs, k.handle = h.val → k.st = .held c) ∧ (t.core c).wait = .none
        ∧ (t.core c).readRes = takeWord j ∧ s.OnlyRegs { t with tsu := s.tsu } [Reg.TSU_CORE_STAT c, Reg.TSU_CORE_JOBS c])
  ∧ (∀ (s : State) (h : Fin 2048) (j : TsuJob), s.tsu.jobs.find? (fun k => k.handle == h.val && k.st == .queued false) = some j →
    s.inFlowWindow j = false ∨ s.tb.tick < j.due → exec (.jobEligible h) s = .next s)
  ∧ (∀ (s : State) (m : Fin 32), m.val = 0 ∨ 9 < m.val → s.may m Reg.TSU_TAKE false →
    ∃ t, exec (.take m) s = .next t ∧ t.tsu.jobs = s.tsu.jobs ∧ t.regs = s.regs ∧ s.SameMemory t)
  ∧ (∀ (s : State) (m : Fin 32), 1 ≤ m.val → m.val ≤ 9 → s.may m Reg.TSU_TAKE false →
    (∀ j, s.heldJob (m - 1) = some j → (s.core (m - 1)).wait = .none → ∃ t, exec (.take m) s = .next t ∧ (t.core (m - 1)).readRes = bitW 29 ∧ t.bit Reg.TSU_EVT 30 = true
        ∧ t.tsu.jobs = s.tsu.jobs ∧ s.RegsBut t deliveryRegs)
    ∧ (∀ j, s.heldJob (m - 1) = none → s.coreServes (m - 1) = true → s.bestJob (m - 1) = some j →
        ∃ t, exec (.take m) s = .next t ∧ (t.core (m - 1)).readRes = takeWord j ∧ (∀ k ∈ t.tsu.jobs, k.handle = j.handle → k.st = .held (m - 1))
          ∧ (∀ k, k.handle ≠ j.handle → (k ∈ t.tsu.jobs ↔ k ∈ s.tsu.jobs)) ∧ t.bit (Reg.TSU_CORE_STAT (m - 1)) 26 = true
          ∧ t.rd (Reg.TSU_CORE_JOBS (m - 1)) = s.rd (Reg.TSU_CORE_JOBS (m - 1)) + 1
          ∧ s.RegsBut t [Reg.TSU_CORE_STAT (m - 1), Reg.TSU_CORE_JOBS (m - 1)] ∧ s.SameMemory t)
    ∧ (s.heldJob (m - 1) = none → s.coreServes (m - 1) = false ∨ s.bestJob (m - 1) = none → s.irqAt (m - 1) = true →
        ∃ t, exec (.take m) s = .next t ∧ (t.core (m - 1)).wait = .none ∧ (t.core (m - 1)).readRes = bitW 30 ∧ t.tsu.jobs = s.tsu.jobs
          ∧ s.RegsBut t [Reg.TSU_CORE_STAT (m - 1)] ∧ s.SameMemory t)
    ∧ (s.heldJob (m - 1) = none → s.coreServes (m - 1) = false ∨ s.bestJob (m - 1) = none → s.irqAt (m - 1) = false →
        ∃ t, exec (.take m) s = .next t ∧ (t.core (m - 1)).wait = .take ∧ t.bit (Reg.TSU_CORE_STAT (m - 1)) 27 = true
          ∧ t.tsu.jobs = s.tsu.jobs ∧ s.RegsBut t [Reg.TSU_CORE_STAT (m - 1)] ∧ s.SameMemory t))
  ∧ ∀ (s : State) (m : Fin 32) (res : Word), s.may m Reg.TSU_DONE true →
    (∀ j, 1 ≤ m.val → m.val ≤ 9 → s.heldJob (m - 1) = some j →
        ∃ t, exec (.done m res) s = .next t ∧ (∀ k ∈ t.tsu.jobs, k.handle = j.handle → k.st = .done (m - 1) res)
          ∧ (∀ k, k.handle ≠ j.handle → (k ∈ t.tsu.jobs ↔ k ∈ s.tsu.jobs)) ∧ t.bit (Reg.TSU_CORE_STAT (m - 1)) 26 = false
          ∧ s.RegsBut t [Reg.TSU_CORE_STAT (m - 1)] ∧ s.SameMemory t)
    ∧ (m.val = 0 ∨ 9 < m.val ∨ s.heldJob (m - 1) = none →
        ∃ t, exec (.done m res) s = .next t ∧ t.bit Reg.TSU_EVT 30 = true ∧ t.tsu.jobs = s.tsu.jobs ∧ s.RegsBut t deliveryRegs ∧ s.SameMemory t)

/-- R268 to R270. The address stored to is the job's RES. -/
def Obligations.SchedulerRelease : Prop :=
  (∀ (s : State) (h : Fin 2048) (j : TsuJob) (c : Nat) (res : Word), s.tsu.jobs.find? (fun k => k.handle == h.val) = some j → j.flow = none →
    j.st = .done c res →
    (j.res = 0xFFFFFFFF →
      ∃ t, exec (.jobRelease h) s = .next t ∧ (∀ k ∈ t.tsu.jobs, k.handle ≠ h.val) ∧ (∀ k, k.handle ≠ h.val → (k ∈ t.tsu.jobs ↔ k ∈ s.tsu.jobs))
        ∧ (j.notify = true → t.bit Reg.TSU_EVT 25 = true) ∧ s.RegsBut t (Reg.TSU_STAT :: deliveryRegs) ∧ s.SameMemory t)
    ∧ (j.res ≠ 0xFFFFFFFF → hallBase ≤ j.res.toNat → j.res.toNat + 4 ≤ hallBase + 0x800000 → s.allowed (coreMid c) j.res.toNat 4 true = true →
        s.hallBad (j.res.toNat - hallBase) = false →
        ∃ t, exec (.jobRelease h) s = .next t ∧ (∀ k ∈ t.tsu.jobs, k.handle ≠ h.val) ∧ t.hallWord (j.res.toNat - hallBase) = res
          ∧ (∀ o, o < j.res.toNat - hallBase ∨ j.res.toNat - hallBase + 4 ≤ o → t.hallByte o = s.hallByte o)
          ∧ s.RegsBut t (Reg.TSU_STAT :: deliveryRegs) ∧ t.hall.bad = s.hall.bad ∧ t.pv = s.pv ∧ t.cap.dram = s.cap.dram)
    ∧ (j.res ≠ 0xFFFFFFFF → hallBase ≤ j.res.toNat → j.res.toNat + 4 ≤ hallBase + 0x800000 → s.allowed (coreMid c) j.res.toNat 4 true = false →
        ∃ t, exec (.jobRelease h) s = .next t ∧ (∀ k ∈ t.tsu.jobs, k.handle ≠ h.val) ∧ t.bit Reg.TSU_EVT 29 = true ∧ s.SameMemory t
          ∧ s.RegsBut t (Reg.TSU_STAT :: Reg.PRT_DCNT :: Reg.PRT_DENY :: Reg.PRT_DADDR :: deliveryRegs)))
  ∧ (∀ (s : State) (f : Fin 64) (j : TsuJob) (l : List TsuJob) (c : Nat) (res : Word), s.flowJobs f = j :: l → j.st = .done c res → j.res = 0xFFFFFFFF →
    ∃ t, exec (.flowRelease f) s = .next t
      ∧ t.tsu.jobs.map (fun k => { k with due := 0 }) = (s.tsu.jobs.filter (fun k => k.handle ≠ j.handle)).map (fun k => { k with due := 0 })
      ∧ t.fld (Reg.TSU_FLOW f) 15 0 = (s.fld (Reg.TSU_FLOW f) 15 0 + 1) % 65536
      ∧ (j.notify = true → t.bit (if f.val < 32 then Reg.TSU_RELFLOW0 else Reg.TSU_RELFLOW1) (f % 32) = true)
      ∧ s.RegsBut t [Reg.TSU_STAT, Reg.TSU_FLOW f, Reg.TSU_RELFLOW0, Reg.TSU_RELFLOW1] ∧ s.SameMemory t)
  ∧ (∀ (s : State) (f : Fin 64) (j : TsuJob) (l : List TsuJob), s.flowJobs f = j :: l → (∀ c res, j.st ≠ .done c res) →
    exec (.flowRelease f) s = .next s)
  ∧ (∀ (s : State) (f : Fin 64) (j : TsuJob) (l : List TsuJob) (c : Nat) (res : Word), s.flowJobs f = j :: l → j.st = .done c res → j.res ≠ 0xFFFFFFFF →
    hallBase ≤ j.res.toNat → j.res.toNat + 4 ≤ hallBase + 0x800000 → s.allowed (coreMid c) j.res.toNat 4 true = true →
    s.hallBad (j.res.toNat - hallBase) = false →
    ∃ t, exec (.flowRelease f) s = .next t ∧ (∀ k ∈ t.tsu.jobs, k.handle ≠ j.handle) ∧ t.hallWord (j.res.toNat - hallBase) = res
      ∧ (∀ o, o < j.res.toNat - hallBase ∨ j.res.toNat - hallBase + 4 ≤ o → t.hallByte o = s.hallByte o)
      ∧ s.RegsBut t [Reg.TSU_STAT, Reg.TSU_FLOW f, Reg.TSU_RELFLOW0, Reg.TSU_RELFLOW1])
  ∧ (∀ (s : State) (c : Fin 9), s.tb.tick ≤ (s.core c).tookAt + 4096 * s.fld (Reg.TSU_CORE_CFG c) 15 0 → exec (.jobTimeout c) s = .next s)
  ∧ ∀ (s : State) (c : Fin 9) (j : TsuJob), s.heldJob c = some j → s.fld (Reg.TSU_CORE_CFG c) 15 0 ≠ 0 →
    (s.core c).tookAt + 4096 * s.fld (Reg.TSU_CORE_CFG c) 15 0 < s.tb.tick →
    ∃ t, exec (.jobTimeout c) s = .next t ∧ t.bit (Reg.TSU_CORE_STAT c) 25 = true ∧ t.bit Reg.TSU_EVT 28 = true ∧ t.tsu.jobs = s.tsu.jobs
      ∧ s.OnlyRaised t []

/-- R274, R275, R317. -/
def Obligations.RoutesAndPower : Prop :=
  (∀ (s : State) (n : Fin 32),
    ∃ t, exec (.routeChange n) s = .next t ∧ t.route n = routeOf (s.fld (Reg.TSU_ROUTE n) 3 0) ∧ (∀ k, k ≠ n.val → t.route k = s.route k)
      ∧ State.OnlyRaised { s with tsu := { s.tsu with routes := t.tsu.routes } } t [])
  ∧ (∀ (s : State) (v : Word),
    ∃ t, exec (.tsuPwrWrite 0 v) s = .next t
      ∧ (∀ c, c < 9 → wBit v c = true → t.bit Reg.TSU_PWR c = true)
      ∧ (∀ c, c < 9 → wBit v c = false → s.heldJob c = none → t.bit Reg.TSU_PWR c = false)
      ∧ (∀ c, c < 9 → wBit v c = false → s.heldJob c ≠ none → t.bit Reg.TSU_PWR c = s.bit Reg.TSU_PWR c)
      ∧ (∀ c, c < 9 → wBit v c = false → s.heldJob c ≠ none → s.bit Reg.TSU_PWR c = true → t.bit Reg.TSU_EVT 27 = true)
      ∧ t.tsu.jobs = s.tsu.jobs ∧ s.OnlyRaised t [Reg.TSU_PWR])
  ∧ (∀ (s : State) (m : Fin 32) (v : Word), m ≠ 0 → s.may m Reg.TSU_PWR true →
    ∃ t, exec (.tsuPwrWrite m v) s = .next t ∧ t.fld Reg.SYS_LK_DENY 28 24 = m.val ∧ s.OnlyRegs t [Reg.SYS_LK_DENY])
  ∧ ∀ (s : State) (c : Fin 9), s.bit Reg.TSU_PWR c = true → s.bit (Reg.TSU_CORE_STAT c) 28 = false → (s.core c).state ≠ 1 →
    s.mode ≠ mMINIMAL →
    ∃ t, exec (.corePowerUp c) s = .next t ∧ t.bit (Reg.TSU_CORE_STAT c) 28 = true ∧ (t.core c).pc = (s.core c).entry
      ∧ (∀ n, n < 64 → s.sends n (c + 1) = true → t.bit (Reg.MBX_CH_DB n) 31 = true)
      ∧ (∀ n, n < 64 → s.receives n (c + 1) = true → t.bit (Reg.MBX_CH_DB n) 30 = true)
      ∧ s.RegsBut t (deliveryRegs ++ (List.range 64).map Reg.MBX_CH_DB) ∧ s.SameMemory t ∧ t.tsu.jobs = s.tsu.jobs

/-- R314, R315. A binding that names another sender or receiver empties the channel first. -/
def Obligations.MailboxBindingsAndBells : Prop :=
  (∀ (s : State) (n : Fin 64) (v : Word),
    (bindOk (wFld v 20 16) (wFld v 4 0) = true →
      ∃ t, exec (.mbxBind 0 n v) s = .next t ∧ t.rd (Reg.MBX_CH_BIND n) = v &&& 0xC01F001F
        ∧ (s.rd (Reg.MBX_CH_BIND n) ≠ 0 → s.fld (Reg.MBX_CH_BIND n) 20 16 ≠ wFld v 20 16 ∨ s.fld (Reg.MBX_CH_BIND n) 4 0 ≠ wFld v 4 0 →
            t.rd (Reg.MBX_CH_DB n) = 0 ∧ t.bit (Reg.MBX_CH_STAT n) 31 = false ∧ t.rd (Reg.MBX_CH_DESCHI n) = 0 ∧ t.bit Reg.MBX_EVT 28 = true)
        ∧ s.RegsBut t ([Reg.MBX_CH_BIND n, Reg.MBX_CH_DB n, Reg.MBX_CH_STAT n, Reg.MBX_CH_DESCLO n, Reg.MBX_CH_DESCHI n, Reg.MBX_EVT] ++ deliveryRegs)
        ∧ s.SameMemory t)
    ∧ (bindOk (wFld v 20 16) (wFld v 4 0) = false →
      ∃ t, exec (.mbxBind 0 n v) s = .next t ∧ t.rd Reg.MBX_EVT = s.rd Reg.MBX_EVT ||| bitW 31 ∧ s.OnlyRegs t [Reg.MBX_EVT]))
  ∧ (∀ (s : State) (m : Fin 32) (n : Fin 64) (v : Word), s.may m (Reg.MBX_CH_DBSET n) true →
    (m = 0 ∨ s.sends n m = true →
      ∃ t, exec (.doorbellSet m n v) s = .next t ∧ t.rd (Reg.MBX_CH_DB n) = s.rd (Reg.MBX_CH_DB n) ||| (v &&& maskW 29 0)
        ∧ s.RegsBut t (Reg.MBX_CH_DB n :: Reg.TSU_PWR :: deliveryRegs) ∧ s.SameMemory t)
    ∧ (m ≠ 0 → s.sends n m = false →
      ∃ t, exec (.doorbellSet m n v) s = .next t ∧ t.rd Reg.MBX_EVT = s.rd Reg.MBX_EVT ||| bitW 30 ∧ s.OnlyRegs t [Reg.MBX_EVT]))
  ∧ ∀ (s : State) (m : Fin 32) (n : Fin 64) (v : Word), s.may m (Reg.MBX_CH_DB n) true →
    (m = 0 ∨ s.receives n m = true →
      ∃ t, exec (.doorbellClear m n v) s = .next t ∧ t.rd (Reg.MBX_CH_DB n) = s.rd (Reg.MBX_CH_DB n) &&& ~~~ v
        ∧ s.RegsBut t (Reg.MBX_CH_DB n :: deliveryRegs) ∧ s.SameMemory t)
    ∧ (m ≠ 0 → s.receives n m = false →
      ∃ t, exec (.doorbellClear m n v) s = .next t ∧ t.rd Reg.MBX_EVT = s.rd Reg.MBX_EVT ||| bitW 30 ∧ s.OnlyRegs t [Reg.MBX_EVT])

/-- R316, R319. -/
def Obligations.MailboxDescriptors : Prop :=
  (∀ (s : State) (m : Fin 32) (n : Fin 64) (v : Word), s.may m (Reg.MBX_CH_DESCHI n) true → m = 0 ∨ s.sends n m = true →
    (s.bit (Reg.MBX_CH_STAT n) 31 = false →
      ∃ t, exec (.descriptorPost m n v) s = .next t ∧ t.bit (Reg.MBX_CH_STAT n) 31 = true ∧ t.rd (Reg.MBX_CH_DESCHI n) = v
        ∧ t.rd (Reg.MBX_CH_DESCLO n) = Table.get (fun _ => 0) s.hst.stg n
        ∧ t.fld (Reg.MBX_CH_STAT n) 15 0 = (s.fld (Reg.MBX_CH_STAT n) 15 0 + 1) % 65536
        ∧ State.OnlyRaised { s with hst := { s.hst with posted := s.hst.posted.filter (fun c => c != n.val) ++ [n.val] } } t
            [Reg.MBX_CH_STAT n, Reg.MBX_CH_DESCLO n, Reg.MBX_CH_DESCHI n])
    ∧ (s.bit (Reg.MBX_CH_STAT n) 31 = true →
      ∃ t, exec (.descriptorPost m n v) s = .next t ∧ t.bit (Reg.MBX_CH_STAT n) 30 = true ∧ t.bit Reg.MBX_EVT 29 = true
        ∧ t.bit (Reg.MBX_CH_STAT n) 31 = true ∧ s.OnlyRegs t [Reg.MBX_CH_STAT n, Reg.MBX_EVT]))
  ∧ (∀ (s : State) (m : Fin 32) (n : Fin 64) (v : Word), s.may m (Reg.MBX_CH_ACK n) true → m = 0 ∨ s.receives n m = true → wBit v 0 = true →
    ∃ t, exec (.descriptorAck m n v) s = .next t ∧ t.bit (Reg.MBX_CH_STAT n) 31 = false
      ∧ t.fld (Reg.MBX_CH_STAT n) 15 0 = s.fld (Reg.MBX_CH_STAT n) 15 0
      ∧ State.OnlyRaised { s with hst := { s.hst with posted := s.hst.posted.filter (fun c => c != n.val) } } t [Reg.MBX_CH_STAT n])
  ∧ (∀ (s : State) (m : Fin 32) (n : Fin 64) (v : Word), m ≠ 0 →
    (s.may m (Reg.MBX_CH_DESCHI n) true → s.sends n m = false →
      ∃ t, exec (.descriptorPost m n v) s = .next t ∧ t.rd Reg.MBX_EVT = s.rd Reg.MBX_EVT ||| bitW 30 ∧ s.OnlyRegs t [Reg.MBX_EVT])
    ∧ (s.may m (Reg.MBX_CH_ACK n) true → s.receives n m = false →
      ∃ t, exec (.descriptorAck m n v) s = .next t ∧ t.rd Reg.MBX_EVT = s.rd Reg.MBX_EVT ||| bitW 30 ∧ s.OnlyRegs t [Reg.MBX_EVT]))
  ∧ (∀ (s : State) (m : Fin 32), s.may m Reg.MBX_WAIT false → 9 < m.val →
    ∃ t, exec (.mbxWait m) s = .next t ∧ { t with hst := s.hst } = s
      ∧ ∀ h : Fin 4, m.val = 16 + h.val → (s.pcieFunction h).isSome = true → (t.land h).cpl = some (.data (leBytes 4 (s.mbxBits m).toNat)))
  ∧ (∀ (s : State) (m : Fin 32), s.may m Reg.MBX_WAIT false → m.val ≤ 9 → s.mbxBits m ≠ 0 →
    ∃ t, exec (.mbxWait m) s = .next t ∧ (t.core (midCore m)).wait = (s.core (midCore m)).wait
      ∧ (t.core (midCore m)).readRes &&& ~~~ bitW 29 = s.mbxBits m &&& ~~~ bitW 29 ∧ { t with tsu := s.tsu } = s)
  ∧ (∀ (s : State) (m : Fin 32), s.may m Reg.MBX_WAIT false → m.val ≤ 9 → s.mbxBits m = 0 → s.irqAt (midCore m) = true →
    s.bit (midKey m Reg.MBX_WAITSEL) 30 = true ∨ s.bit (midKey m Reg.MBX_WAITSEL) 31 = true →
    ∃ t, exec (.mbxWait m) s = .next t ∧ (t.core (midCore m)).readRes = bitW 29 ∧ (t.core (midCore m)).wait = (s.core (midCore m)).wait
      ∧ { t with tsu := s.tsu } = s)
  ∧ ∀ (s : State) (m : Fin 32), s.may m Reg.MBX_WAIT false → m.val ≤ 9 → s.mbxBits m = 0 → s.irqAt (midCore m) = false →
    s.bit (midKey m Reg.MBX_WAITSEL) 30 = true ∨ s.bit (midKey m Reg.MBX_WAITSEL) 31 = true →
    ∃ t, exec (.mbxWait m) s = .next t ∧ (t.core (midCore m)).wait = .mbx ∧ t.regs = s.regs ∧ t.tsu.jobs = s.tsu.jobs ∧ s.SameMemory t

/-- R329, R330, R331, R333 to R336. CTRL bits: 31 ARM, 30 STOP, 29 TRIG, 28 RELEASE. An ARM that replaces a self-rearm on its way is judged without that
session's own charge; a record of the trigger's own tick is the trigger record. -/
def Obligations.CaptureControl : Prop :=
  (∀ (s u : State) (m : Fin 32) (n : Fin 16) (v : Word), s.may m (Reg.CAP_S_CTRL n) true → s.mode ≠ mMINIMAL → wFld v 31 28 = 8 → s.capActive n = false →
    u = (if (s.session n).again then s.capFree n else s) →
    (u.capCheck n = 0 →
      ∃ t, exec (.captureArm m n v) s = .next t ∧ t.capState n = 1 ∧ t.rd (Reg.CAP_S_CHG n) = word (s.capCharge n)
        ∧ t.rd Reg.CAP_BWSUM = u.rd Reg.CAP_BWSUM + word (s.capCharge n) ∧ t.rd (Reg.CAP_S_WPTR n) = 0 ∧ (t.session n).recs = 0
        ∧ (t.session n).trig = none ∧ (t.session n).again = false ∧ (∀ k, k ≠ n.val → t.session k = s.session k) ∧ s.SameMemory t
        ∧ s.RegsBut t [Reg.CAP_S_CHG n, Reg.CAP_BWSUM, Reg.CAP_S_STAT n, Reg.CAP_S_DMAX n, Reg.CAP_S_DEAD n, Reg.CAP_S_WPTR n])
    ∧ (u.capCheck n ≠ 0 →
      ∃ t, exec (.captureArm m n v) s = .next t ∧ t.fld (Reg.CAP_S_STAT n) 18 16 = u.capCheck n ∧ t.capState n = s.capState n
        ∧ t.bit Reg.CAP_EVT n = true ∧ s.OnlyRaised t [Reg.CAP_S_STAT n, Reg.CAP_EVT]))
  ∧ (∀ (s : State) (m : Fin 32) (n : Fin 16) (v : Word), s.may m (Reg.CAP_S_CTRL n) true → wFld v 31 28 = 8 → s.capActive n = true →
    exec (.captureArm m n v) s = .next s)
  ∧ (∀ (s : State) (m : Fin 32) (n : Fin 16) (v : Word), s.may m (Reg.CAP_S_CTRL n) true → s.mode ≠ mMINIMAL → wFld v 31 28 = 4 →
    ∃ t, exec (.captureStop m n v) s = .next t ∧ t.capState n = 0 ∧ (t.session n).trig = none ∧ (t.session n).again = false
      ∧ (s.capActive n = true ∨ (s.session n).again = true →
          t.rd (Reg.CAP_S_CHG n) = 0 ∧ t.rd Reg.CAP_BWSUM = s.rd Reg.CAP_BWSUM - s.rd (Reg.CAP_S_CHG n))
      ∧ (s.capActive n = false → (s.session n).again = false → s.RegsBut t [Reg.CAP_S_STAT n])
      ∧ s.SameMemory t ∧ s.RegsBut t [Reg.CAP_S_CHG n, Reg.CAP_BWSUM, Reg.CAP_S_STAT n])
  ∧ (∀ (s : State) (m : Fin 32) (n : Fin 16) (v : Word), s.may m (Reg.CAP_S_CTRL n) true → s.mode ≠ mMINIMAL → wFld v 31 28 = 2 → s.capState n = 1 →
    ¬ (8388608 < (s.session n).size ∧ (s.session n).before s.tb.tick < (s.rd (Reg.CAP_S_PRE n)).toNat) →
    ∃ t, exec (.captureTrig m n v) s = .next t ∧ s.OnlyNoticed t []
      ∧ ((∀ x, (s.session n).last = some x → x.1 ≠ s.tb.tick) → t.capState n = 2 ∧ (t.session n).trig = some s.tb.tick)
      ∧ (∀ p k, (s.session n).last = some (s.tb.tick, p, k) →
          t.rd (Reg.CAP_S_TPTR n) = word p ∧ t.rd (Reg.CAP_S_PREACT n) = word (min (s.rd (Reg.CAP_S_PRE n)).toNat k) ∧ (t.session n).trig = none))
  ∧ (∀ (s : State) (m : Fin 32) (n : Fin 16) (v : Word), s.may m (Reg.CAP_S_CTRL n) true → s.mode ≠ mMINIMAL → wFld v 31 28 = 2 → s.capState n = 1 →
    8388608 < (s.session n).size → (s.session n).before s.tb.tick < (s.rd (Reg.CAP_S_PRE n)).toNat →
    ∃ t, exec (.captureTrig m n v) s = .next t ∧ t.capState n = 1
      ∧ t.fld (Reg.CAP_S_STAT n) 15 0 = (s.fld (Reg.CAP_S_STAT n) 15 0 + 1) % 65536 ∧ s.OnlyRegs t [Reg.CAP_S_STAT n])
  ∧ ∀ (s : State) (m : Fin 32) (n : Fin 16) (v : Word) (h : Nat) (rest : List Nat), s.may m (Reg.CAP_S_CTRL n) true → s.mode ≠ mMINIMAL →
    wFld v 31 28 = 1 → (s.session n).order = h :: rest → h < 2 →
    ∃ t, exec (.captureRelease m n v) s = .next t ∧ t.bit (Reg.CAP_S_STAT n) (27 + h) = false ∧ (t.session n).order = rest
      ∧ (s.capState n = 5 → (t.session n).again = true) ∧ s.SameMemory t ∧ s.OnlyRegs { t with cap := s.cap } [Reg.CAP_S_STAT n]

/-- R321, R323, R328, R331, R336, R405, R432. The record is stated for one session, without a wrap and with no trigger waiting. -/
def Obligations.CaptureRecords : Prop :=
  (∀ s : State, exec .dramRefresh s = .next s)
  ∧ (∀ (s : State) (e : CapEvt) (rest : List CapEvt) (n p : Nat), s.cap.queue = e :: rest → e.dest = [n] → n < 16 → s.capWants e.kind n = true → s.capState n = 1 →
    (s.session n).trig = none → p = (s.rd (Reg.CAP_S_WPTR n)).toNat → p + 32 < (s.session n).base + (s.session n).size →
    s.capRefused (dramBase + s.fld (Reg.CAP_S_BASE n) 26 0 + p) 32 = none →
    ∃ t, exec .eventRecord s = .next t ∧ t.cap.queue = rest ∧ t.rd (Reg.CAP_S_WPTR n) = word (p + 32) ∧ (t.session n).recs = (s.session n).recs + 1
      ∧ t.dramByte (s.fld (Reg.CAP_S_BASE n) 26 0 + p) = 32 ∧ t.dramByte (s.fld (Reg.CAP_S_BASE n) 26 0 + p + 2) = 4
      ∧ t.dramByte (s.fld (Reg.CAP_S_BASE n) 26 0 + p + 16) = byte e.kind ∧ t.dramByte (s.fld (Reg.CAP_S_BASE n) 26 0 + p + 17) = byte e.obj
      ∧ (∀ o, o < s.fld (Reg.CAP_S_BASE n) 26 0 + p ∨ s.fld (Reg.CAP_S_BASE n) 26 0 + p + 32 ≤ o → t.dramByte o = s.dramByte o)
      ∧ t.hall = s.hall ∧ t.pv = s.pv ∧ s.RegsBut t [Reg.CAP_S_WPTR n])
  ∧ (∀ s : State, s.cap.queue = [] → exec .eventRecord s = .next s)
  ∧ (∀ (s : State) (n : Fin 16), (s.session n).again = true → s.capState n = 3 ∨ s.capState n = 5 → s.capSplit n = false →
    ∃ t, exec (.captureRearm n) s = .next t ∧ t.capState n = 1 ∧ t.rd (Reg.CAP_S_WPTR n) = 0 ∧ (t.session n).recs = 0 ∧ (t.session n).again = false
      ∧ s.SameMemory t ∧ s.RegsBut t [Reg.CAP_S_STAT n, Reg.CAP_S_WPTR n, Reg.CAP_S_DEAD n, Reg.CAP_S_DMAX n])
  ∧ (∀ (s : State) (n : Fin 16) (h d : Nat), (s.session n).again = true → s.capState n = 3 ∨ s.capState n = 5 → s.capSplit n = true →
    h = 1 - s.fld (Reg.CAP_S_STAT n) 26 26 → (s.session n).doneTick = some d →
    ∃ t, exec (.captureRearm n) s = .next t ∧ t.capState n = 1 ∧ t.fld (Reg.CAP_S_STAT n) 26 26 = h
      ∧ t.rd (Reg.CAP_S_WPTR n) = word (h * (s.session n).size) ∧ (t.session n).recs = 0 ∧ (t.session n).again = false
      ∧ t.rd (Reg.CAP_S_DEAD n) = word (min 0xFFFFFFFF (s.tb.tick - d))
      ∧ t.rd (Reg.CAP_S_DMAX n) = word (max (min 0xFFFFFFFF (s.tb.tick - d)) (s.rd (Reg.CAP_S_DMAX n)).toNat)
      ∧ s.SameMemory t ∧ s.RegsBut t [Reg.CAP_S_STAT n, Reg.CAP_S_WPTR n, Reg.CAP_S_DEAD n, Reg.CAP_S_DMAX n])
  ∧ (∀ (s : State) (m : Fin 32) (a : Word), m.val ≤ 9 → s.busCheck m a.toNat 4 false = none → dramBase ≤ a.toNat → a.toNat < dramBase + 0x8000000 →
    ∃ t, exec (.captureDramRead m a 2 0) s = .next t
      ∧ (t.core (midCore m)).readRes = word (leNat ((List.range 4).map (fun i => s.dramByte (a.toNat - dramBase + i))))
      ∧ { t with tsu := s.tsu, free := s.free } = s)
  ∧ (∀ (s : State) (m : Fin 32) (a : Word) (h : Nat), hostOf m = some h → (s.pcieFunction h).isSome = true → s.issues m a.toNat false = true →
    s.busCheck m a.toNat 4 false = none → dramBase ≤ a.toNat → a.toNat < dramBase + 0x8000000 →
    ∃ t, exec (.captureDramRead m a 2 0) s = .next t
      ∧ (t.land h).cpl = some (.data ((List.range 4).map (fun i => s.dramByte (a.toNat - dramBase + i))))
      ∧ { t with hst := s.hst, free := s.free } = s)
  ∧ ∀ (s : State) (m : Fin 32) (a : Word) (k h : Nat), hostOf m = some h → (s.pcieFunction h).isSome = true → s.issues m a.toNat false = true →
    s.busCheck m a.toNat 4 false = some k → dramBase ≤ a.toNat → a.toNat < dramBase + 0x8000000 →
    ∃ t, exec (.captureDramRead m a 2 0) s = .next t
      ∧ (t.land h).cpl = some (if k = 2 then .unsupported else .abort) ∧ t.rd Reg.PRT_DCNT = s.rd Reg.PRT_DCNT + 1

/-- R30, R157, R166, R169, R186, R190, R192. TRN_SSTAT: 31:29 STATE (3 RUN), 28:24 the syncs of the coldstart left; TRN_GRANT: 31 pending, 7:4 LEFT.
A link cycle is an even one. -/
def Obligations.SegmentSync : Prop :=
  (∀ (s : State) (n : Fin 12), s.segSends n = true → s.tb.running = true → (s.seg n).cyc ≠ some s.tb.cyc →
    (∀ x ∈ (s.seg n).grants, (s.tb.cyc - x.2.1).toNat ≤ 8) →
    ∃ t, exec (.syncSend n) s = .next t ∧ (t.seg n).cyc = some s.tb.cyc ∧ (t.seg n).prev = (s.seg n).cyc ∧ (t.seg n).rx = (s.seg n).rx
      ∧ (t.seg n).grants = (s.seg n).grants
      ∧ (t.seg n).tx = frameBytes 1 63 n 0x3FF (s.tb.cyc.toNat % 65536) (s.segHid n) (s.syncPayload n s.tb.cyc)
      ∧ (∀ ch, ch < 2 → t.rd (Reg.TRN_PTX n ch) = s.rd (Reg.TRN_PTX n ch) + (if s.bit (Reg.TRN_PCFG n ch) 31 then 1 else 0))
      ∧ t.fld (Reg.TRN_SSTAT n) 28 24 = s.fld (Reg.TRN_SSTAT n) 28 24 - 1
      ∧ t.segState n = (if s.fld (Reg.TRN_SSTAT n) 28 24 = 1 then 3 else s.segState n)
      ∧ ((s.seg n).grants = [] → t.rd (Reg.TRN_GRANT n) = s.rd (Reg.TRN_GRANT n))
      ∧ (∀ k c0 id rest, (s.seg n).grants = (k, c0, id) :: rest → t.rd (Reg.TRN_GRANT n) = bitW 31 ||| mkFld 7 4 (8 - (s.tb.cyc - c0).toNat))
      ∧ (s.tb.cyc.toNat % 2 = 0 → (t.seg n).claimOn = s.bit (Reg.TRN_SCFG n) 29 ∧ (t.seg n).trk = s.fld (Reg.TRN_SCFG n) 6 0)
      ∧ (s.tb.cyc.toNat % 2 = 1 → (t.seg n).claimOn = (s.seg n).claimOn ∧ (t.seg n).trk = (s.seg n).trk)
      ∧ (∀ k, k < 32 → (s.node n k).contCyc ≠ some s.tb.cyc → t.node n k = s.node n k)
      ∧ { t with trn := s.trn, regs := s.regs } = s ∧ s.RegsBut t [Reg.TRN_PTX n 0, Reg.TRN_PTX n 1, Reg.TRN_SSTAT n, Reg.TRN_GRANT n])
  ∧ (∀ (s : State) (n : Fin 12) (k : Nat) (c0 : Word) (id : Nat), s.segSends n = true → s.tb.running = true → (s.seg n).cyc ≠ some s.tb.cyc → k < 32 →
    (s.seg n).grants = [(k, c0, id)] → 8 < (s.tb.cyc - c0).toNat →
    ∃ t, exec (.syncSend n) s = .next t ∧ (t.seg n).grants = [] ∧ t.nodeState n k = nUNUSED ∧ t.rd (Reg.TRN_GRANT n) = 0)
  ∧ (∀ (s : State) (n : Fin 12), s.segSends n = false ∨ s.tb.running = false ∨ (s.seg n).cyc = some s.tb.cyc → exec (.syncSend n) s = .next s)
  ∧ (∀ (s : State) (n : Fin 12) (k : Fin 32) (c : Word), s.saf.g.live = true → s.saf.loaded = true → s.nodeState n k ≠ nUNUSED →
    ((s.seg n).cyc = none ∧ c = s.tb.cyc) ∨ ((s.seg n).cyc = some (c - 1) ∧ (s.node n k).relCyc = some (c - 1)) →
    ∃ t, exec (.garnetContainerWrite n k) s = .next t ∧ (t.node n k).contCyc = some c
      ∧ (∀ m j, (m, j) ≠ (n.val, k.val) → j < 32 → t.node m j = s.node m j) ∧ { t with trn := s.trn } = s)
  ∧ (∀ (s : State) (n : Fin 12) (k : Fin 32) (c : Word), (s.seg n).cyc = some c → (s.node n k).relCyc ≠ some c → exec (.garnetContainerWrite n k) s = .next s)
  ∧ ∀ (s : State) (n : Fin 12) (k : Fin 32), s.saf.g.live = false ∨ s.saf.loaded = false ∨ s.nodeState n k = nUNUSED →
    exec (.garnetContainerWrite n k) s = .next s

/-- R147, R150, R152, R165, R185, R187, R188. ch: 0 channel A, 1 channel B; silence 4 YIELD and 5 CLASH take effect at the next tick 0. In STANDBY
a unit listens instead (PairUnit). A port in near-end loopback hears its own transmitter alone. -/
def Obligations.FrameChecks : Prop :=
  (∀ (s : State) (p : Port) (f : RxFrame), s.bit (Reg.TRN_PCFG p.seg (if p.chB then 1 else 0)) 31 = false → exec (.frameReceive p f) s = .next s)
  ∧ (∀ (s : State) (n : Fin 12) (b : Bool) (f : RxFrame), s.loops n (if b then 1 else 0) = true → f.bytes ≠ (s.seg n).tx →
    exec (.frameReceive ⟨n, b⟩ f) s = .next s)
  ∧ ∀ (s : State) (n : Fin 12) (b : Bool) (ch : Nat) (f : RxFrame), ch = (if b then 1 else 0) → s.mode ≠ mSTANDBY →
    s.bit (Reg.TRN_PCFG n ch) 31 = true → s.loops n ch = false →
    (∀ m, m < 16 → (s.capOn m && s.capKind m == 1 && s.bit (Reg.CAP_S_SRC m) (2 * n + ch)) = false) →
    (f.codeOk = false → ∃ t, exec (.frameReceive ⟨n, b⟩ f) s = .next t ∧ t.rd (Reg.TRN_PCODE n ch) = s.rd (Reg.TRN_PCODE n ch) + 1
      ∧ t.bit (Reg.TRN_PSTAT n ch) 13 = true ∧ s.OnlyRaised t [Reg.TRN_PCODE n ch, Reg.TRN_PSTAT n ch])
    ∧ (f.codeOk = true → f.bytes.length = 12 + byteAt f.bytes 6 → crc32 (f.bytes.take (8 + byteAt f.bytes 6)) ≠ leAt f.bytes (8 + byteAt f.bytes 6) 4 →
      ∃ t, exec (.frameReceive ⟨n, b⟩ f) s = .next t ∧ t.rd (Reg.TRN_PCRC n ch) = s.rd (Reg.TRN_PCRC n ch) + 1
        ∧ t.bit (Reg.TRN_PSTAT n ch) 12 = true ∧ s.OnlyRaised t [Reg.TRN_PCRC n ch, Reg.TRN_PSTAT n ch])
    ∧ (f.codeOk = true → f.bytes.length = 12 + byteAt f.bytes 6 → crc32 (f.bytes.take (8 + byteAt f.bytes 6)) = leAt f.bytes (8 + byteAt f.bytes 6) 4 →
      ((hdrOf f.bytes).ver ≠ 1 ∨ (hdrOf f.bytes).allowed = false ∨ (hdrOf f.bytes).seg ≠ n.val →
        ∃ t, exec (.frameReceive ⟨n, b⟩ f) s = .next t ∧ t.rd (Reg.TRN_PHDR n ch) = s.rd (Reg.TRN_PHDR n ch) + 1
          ∧ t.bit (Reg.TRN_PSTAT n ch) 11 = true ∧ s.OnlyRaised t [Reg.TRN_PHDR n ch, Reg.TRN_PSTAT n ch])
      ∧ ((hdrOf f.bytes).ver = 1 → (hdrOf f.bytes).allowed = true → (hdrOf f.bytes).seg = n.val → (hdrOf f.bytes).type = 1 →
        ∃ t, exec (.frameReceive ⟨n, b⟩ f) s = .next t ∧ t.rd (Reg.TRN_PRXOK n ch) = s.rd (Reg.TRN_PRXOK n ch) + 1
          ∧ t.fld (Reg.TRN_PLAST n ch) 31 22 = 0x3FF ∧ t.bit (Reg.TRN_SSTAT n) 11 = true ∧ t.fld (Reg.TRN_SSTAT n) 10 8 = (hdrOf f.bytes).hid
          ∧ t.bit (Reg.TRN_SEVT n) 31 = true
          ∧ t.trn = { s.trn with silence :=
              if s.trn.silence ≠ 0 then s.trn.silence
              else if (hdrOf f.bytes).hid = s.headId n then 5
              else if (hdrOf f.bytes).hid < s.headId n ∧ (List.range 12).any s.segSends = true then 4 else 0 }
          ∧ { t with trn := s.trn, regs := s.regs, tsu := { t.tsu with cores := s.tsu.cores } } = s
          ∧ s.RegsBut t ([Reg.TRN_PRXOK n ch, Reg.TRN_PLAST n ch, Reg.TRN_SSTAT n, Reg.TRN_SEVT n] ++ deliveryRegs)))

/-- R20, R27, R153, R154, R159, R182, R187, R188. TRN_NODEk_STAT: 25:24 absences in a row, 1 went OUT; frameCheck answers 0 where a frame passes
every check. On a segment that fell silent the laws hold, and the node states stand, the model's reading (log entry 69). -/
def Obligations.FeedbackFrames : Prop :=
  (∀ (s : State) (n : Fin 12) (b : Bool) (ch : Nat) (f : RxFrame) (k : Fin 32) (c : Word) (at0 : Int), ch = (if b then 1 else 0) →
    s.mode ≠ mSTANDBY → s.bit (Reg.TRN_PCFG n ch) 31 = true → s.loops n ch = false → s.frameCheck n f = (0, some (.fb k, c, at0)) →
    (∀ m, m < 16 → (s.capOn m && s.capKind m == 1 && s.bit (Reg.CAP_S_SRC m) (2 * n + ch)) = false) →
    ((s.slotRx n k c).a = none → (s.slotRx n k c).b = none →
      ∃ t, exec (.frameReceive ⟨n, b⟩ f) s = .next t ∧ t.nodeState n k = nIN ∧ t.fld (Reg.TRN_NODE_STAT n k) 25 24 = 0
        ∧ (t.node n k).nstat = byteAt (hdrOf f.bytes).payload 0 ∧ (t.node n k).nerr = byteAt (hdrOf f.bytes).payload 1
        ∧ (t.node n k).sack = leAt (hdrOf f.bytes).payload 2 2
        ∧ t.rd (Reg.TRN_PRXOK n ch) = s.rd (Reg.TRN_PRXOK n ch) + 1
        ∧ (s.nodeState n k ≠ nIN → t.bit (Reg.TRN_SEVT n) 28 = true)
        ∧ (∀ q, q ∈ s.law.jobs → q ∈ t.law.jobs)
        ∧ (∀ a, a < 256 → s.lawsRun = true → s.triggeredBy a (.slot n k) = true → s.due a c = true → s.bit (Reg.GAL_PROG_INFO (s.progOf a)) 31 = true →
            (⟨a, c, s.slotRel n k, false⟩ : LawJob) ∈ t.law.jobs)
        ∧ (s.lawsRun = false → t.law.jobs = s.law.jobs) ∧ t.law.lanes = s.law.lanes ∧ t.pwm = s.pwm ∧ s.SameMemory t)
    ∧ (∀ y, (if b then (s.slotRx n k c).b else (s.slotRx n k c).a) = none → (if b then (s.slotRx n k c).a else (s.slotRx n k c).b) = some y →
      y.bytes ≠ f.bytes.take (8 + (hdrOf f.bytes).len) →
      (y.arr < at0 ∨ (y.arr = at0 ∧ b = true) →
        ∃ t, exec (.frameReceive ⟨n, b⟩ f) s = .next t ∧ t.rd (Reg.TRN_ABMIS n) = s.rd (Reg.TRN_ABMIS n) + 1 ∧ t.bit (Reg.TRN_ABEVT n) 31 = true
          ∧ t.law = s.law ∧ t.fbk = s.fbk ∧ s.SameMemory t
          ∧ s.RegsBut t ([Reg.TRN_PRXOK n ch, Reg.TRN_PLAST n ch, Reg.TRN_ABMIS n, Reg.TRN_ABEVT n, Reg.TRN_NODE_RES n k] ++ deliveryRegs))
      ∧ (at0 < y.arr ∨ (y.arr = at0 ∧ b = false) →
        ∃ t, exec (.frameReceive ⟨n, b⟩ f) s = .next t ∧ t.rd (Reg.TRN_ABMIS n) = s.rd (Reg.TRN_ABMIS n) + 1 ∧ t.bit (Reg.TRN_ABEVT n) 31 = true
          ∧ t.rd (abReg n ch) = s.rd (abReg n ch) + 1 ∧ t.rd (abReg n (1 - ch)) = s.rd (abReg n (1 - ch)) - 1
          ∧ (t.node n k).nstat = byteAt (hdrOf f.bytes).payload 0 ∧ (t.node n k).nerr = byteAt (hdrOf f.bytes).payload 1
          ∧ (t.node n k).sack = leAt (hdrOf f.bytes).payload 2 2 ∧ t.law.jobs = s.law.jobs ∧ s.SameMemory t)))
  ∧ (∀ (s : State) (n : Fin 12) (k : Fin 32) (c : Word), (s.seg n).cyc = some c → s.segSends n = true → (s.slotRx n k c).a = none → (s.slotRx n k c).b = none →
    (s.slotRx n k c).closed = false → s.nodeState n k = nIN →
    ∃ t, exec (.feedbackMissing n k) s = .next t
      ∧ (∀ a, a < 256 → t.rd (Reg.LAW_MISS_CNT a)
          = s.rd (Reg.LAW_MISS_CNT a) + (if s.lawsRun && s.triggeredBy a (.slot n k) && s.due a c then 1 else 0))
      ∧ (∀ a, a < 256 → s.lawsRun = true → s.triggeredBy a (.slot n k) = true → s.due a c = true → t.bit (Reg.LAW_STAT a) 30 = true)
      ∧ (s.fld (Reg.TRN_NODE_STAT n k) 25 24 < 2 → t.nodeState n k = nIN ∧ t.fld (Reg.TRN_NODE_STAT n k) 25 24 = s.fld (Reg.TRN_NODE_STAT n k) 25 24 + 1)
      ∧ (s.fld (Reg.TRN_NODE_STAT n k) 25 24 = 2 → t.nodeState n k = nOUT ∧ t.bit (Reg.TRN_NODE_STAT n k) 1 = true ∧ t.bit (Reg.TRN_SEVT n) 27 = true)
      ∧ t.law.jobs = s.law.jobs ∧ t.fbk = s.fbk ∧ s.SameStore t)
  ∧ (∀ (s : State) (n : Fin 12) (k : Fin 32), s.segSilent n = true → (s.slotRx n k s.tb.cyc).a = none → (s.slotRx n k s.tb.cyc).b = none →
    (s.slotRx n k s.tb.cyc).closed = false → s.nodeState n k ≠ nUNUSED →
    ∃ t, exec (.feedbackMissing n k) s = .next t ∧ (∀ j, j < 32 → t.nodeState n j = s.nodeState n j) ∧ (t.slotRx n k s.tb.cyc).closed = true
      ∧ (∀ a, a < 256 → t.rd (Reg.LAW_MISS_CNT a)
          = s.rd (Reg.LAW_MISS_CNT a) + (if s.lawsRun && s.triggeredBy a (.slot n k) && s.due a s.tb.cyc then 1 else 0))
      ∧ (∀ a, a < 256 → s.lawsRun = true → s.triggeredBy a (.slot n k) = true → s.due a s.tb.cyc = true → t.bit (Reg.LAW_STAT a) 30 = true)
      ∧ t.law.jobs = s.law.jobs ∧ t.fbk = s.fbk ∧ s.SameStore t)
  ∧ ∀ (s : State) (n : Fin 12) (k : Fin 32) (c : Word), (s.seg n).cyc = some c → s.segSilent n = false →
    s.segSends n = false ∨ s.nodeState n k = nUNUSED ∨ (s.slotRx n k c).a.isSome ∨ (s.slotRx n k c).b.isSome ∨ (s.slotRx n k c).closed = true →
    exec (.feedbackMissing n k) s = .next s

/-- R154, R165, R169, R173 to R176, R178 to R180, R190. TRN_SVC_TXCTL: 31 GO, 30 BUSY, 29:24 ADDR, 22:16 LEN; TRN_SEVT: 21 refused message, 20 sent.
A window may close after the next sync: q is the cycle of the service window that closes. -/
def Obligations.ServiceMessages : Prop :=
  (∀ (s : State) (m : Fin 32) (n : Fin 12) (v : Word), s.may m (Reg.TRN_SVC_TXCTL n) true →
    (wBit v 31 = true → s.bit (Reg.TRN_SVC_TXCTL n) 30 = false →
      (4 ≤ wFld v 22 16 → wFld v 22 16 ≤ 64 → wFld (s.rd (Reg.TRN_SVC_TXD n 0)) 31 16 ≠ 0xFFF0 →
        ∃ t, exec (.svcGo m n v) s = .next t
          ∧ (t.seg n).msg = some (wFld v 29 24, (bytesOf ((List.range 16).map (fun i => s.rd (Reg.TRN_SVC_TXD n i)))).take (wFld v 22 16), s.tb.tick)
          ∧ t.bit (Reg.TRN_SVC_TXCTL n) 30 = true ∧ s.OnlyRegs { t with trn := s.trn } [Reg.TRN_SVC_TXCTL n])
      ∧ (wFld v 22 16 < 4 ∨ 64 < wFld v 22 16 ∨ wFld (s.rd (Reg.TRN_SVC_TXD n 0)) 31 16 = 0xFFF0 →
        ∃ t, exec (.svcGo m n v) s = .next t ∧ t.bit (Reg.TRN_SEVT n) 21 = true ∧ t.bit (Reg.TRN_SVC_TXCTL n) 30 = false
          ∧ s.OnlyRaised t [Reg.TRN_SVC_TXCTL n, Reg.TRN_SEVT n]))
    ∧ (wBit v 31 = false ∨ s.bit (Reg.TRN_SVC_TXCTL n) 30 = true →
        ∃ t, exec (.svcGo m n v) s = .next t ∧ s.OnlyRegs t [Reg.TRN_SVC_TXCTL n]
          ∧ t.bit (Reg.TRN_SVC_TXCTL n) 30 = s.bit (Reg.TRN_SVC_TXCTL n) 30))
  ∧ (∀ (s : State) (n : Fin 12) (c : Word), (s.seg n).cyc = some c → s.segSends n = true →
    (c.toNat % 2 = 1 → ∀ a p t0, (s.seg n).msg = some (a, p, t0) →
      (t0 = s.tb.tick → exec (.downstreamServiceSend n) s = .next s)
      ∧ (t0 ≠ s.tb.tick → ∃ t, exec (.downstreamServiceSend n) s = .next t ∧ (t.seg n).msg = none ∧ t.bit (Reg.TRN_SVC_TXCTL n) 30 = false ∧ t.bit (Reg.TRN_SEVT n) 20 = true
        ∧ (t.seg n).tx = frameBytes 5 a n 0x201 (c.toNat % 65536) (s.segHid n) p
        ∧ s.OnlyRaised { t with trn := s.trn } [Reg.TRN_PTX n 0, Reg.TRN_PTX n 1, Reg.TRN_SVC_TXCTL n, Reg.TRN_SEVT n]))
    ∧ (c.toNat % 2 = 1 → (s.seg n).msg = none → exec (.downstreamServiceSend n) s = .next s)
    ∧ (c.toNat % 8 = 0 → (s.seg n).req = none → (∀ k, k < 32 → (s.node n k).corrDue = false) → (s.seg n).claimOn = true →
      (∃ k, k < 32 ∧ s.slotOpen n k = true) →
      ∃ t, exec (.downstreamServiceSend n) s = .next t ∧ (t.seg n).req = some .claim
        ∧ (t.seg n).tx = frameBytes 5 63 n 0x201 (c.toNat % 65536) (s.segHid n) (claimRequest (c.toNat % 256))
        ∧ s.OnlyRegs { t with trn := s.trn } [Reg.TRN_PTX n 0, Reg.TRN_PTX n 1])
    ∧ (c.toNat % 2 = 0 → c.toNat % 8 ≠ 0 → (s.seg n).req = none → (∀ k, k < 32 → (s.node n k).corrDue = false) →
      ∀ k rest, (s.seg n).second = k :: rest → k < 32 → s.nodeState n k = nRANGING →
      ∃ t, exec (.downstreamServiceSend n) s = .next t
        ∧ (t.seg n).req = some (.second k (((s.slotNom n k : Int) - s.segOfs n) * 32 - (s.node n k).rA) (c.toNat % 256))
        ∧ (t.seg n).tx = frameBytes 5 k n 0x201 (c.toNat % 65536) (s.segHid n) (s.rangeRequest n k (c.toNat % 256)
            (some (((s.slotNom n k : Int) - s.segOfs n) * 32 - (s.node n k).rA)) (some (rneDiv (s.node n k).rA 2)))
        ∧ s.OnlyRegs { t with trn := s.trn } [Reg.TRN_PTX n 0, Reg.TRN_PTX n 1])
    ∧ (c.toNat % 2 = 0 → (s.seg n).req = none → (s.seg n).second = [] → (∀ k, k < 32 → (s.node n k).corrDue = false) →
      (c.toNat % 8 ≠ 0 ∨ (s.seg n).claimOn = false) →
      (∀ k, s.nextRange n = some k →
        ∃ t, exec (.downstreamServiceSend n) s = .next t ∧ (t.seg n).req = some (.first k (c.toNat % 256)) ∧ (t.seg n).rr = (k + 1) % 32
          ∧ (t.seg n).tx = frameBytes 5 k n 0x201 (c.toNat % 65536) (s.segHid n) (s.rangeRequest n k (c.toNat % 256) none none)
          ∧ s.OnlyRegs { t with trn := s.trn } [Reg.TRN_PTX n 0, Reg.TRN_PTX n 1])
      ∧ (s.nextRange n = none → exec (.downstreamServiceSend n) s = .next s)))
  ∧ (∀ (s : State) (n : Fin 12) (c q : Word) (k tag : Nat) (x : Copy), (s.seg n).cyc = some c →
    (q = c ∧ ∀ p, (s.seg n).prev = some p → p + 1 ≠ c ∨ s.serviceOpen n p = false) ∨ ((s.seg n).prev = some q ∧ q + 1 = c) →
    q.toNat % 2 = 0 → k < 32 → (s.seg n).req = some (.first k tag) →
    s.slotRx n 0x201 q = { cyc := q, a := some x } → (s.slotRx n 0x300 q).a = none → (s.slotRx n 0x300 q).b = none →
    (hdrOf x.bytes).addr = k → 8 ≤ (hdrOf x.bytes).len → byteAt (hdrOf x.bytes).payload 0 = 3 → byteAt (hdrOf x.bytes).payload 1 = tag →
    leAt (hdrOf x.bytes).payload 2 2 = 0xFFF0 → x.arr - ((s.segDs n + 200 : Nat) : Int) * 32 ≤ 2 * s.segDlmax n * 32 →
    ∃ t, exec (.replyWindowClose n) s = .next t ∧ t.nodeState n k = nRANGING ∧ (t.node n k).rA = x.arr - ((s.segDs n + 200 : Nat) : Int) * 32
      ∧ t.rd (Reg.TRN_NODE_RTT n k) = wordI (x.arr - ((s.segDs n + 200 : Nat) : Int) * 32) ∧ (t.seg n).req = none
      ∧ (t.seg n).second = (s.seg n).second.filter (fun j => j != k) ++ [k]
      ∧ t.rd (Reg.TRN_PLOSS n 1) = s.rd (Reg.TRN_PLOSS n 1) + (if s.bit (Reg.TRN_PCFG n 1) 31 then 1 else 0) ∧ t.bit (Reg.TRN_ABEVT n) 29 = true
      ∧ s.OnlyRaised { t with trn := s.trn } [Reg.TRN_PLOSS n 1, Reg.TRN_PSTAT n 1, Reg.TRN_ABEVT n, Reg.TRN_NODE_RTT n k, Reg.TRN_NODE_STAT n k, Reg.TRN_SSTAT n])
  ∧ ∀ (s : State) (n : Fin 12) (c q : Word) (k tag : Nat) (so : Int), (s.seg n).cyc = some c →
    (q = c ∧ ∀ p, (s.seg n).prev = some p → p + 1 ≠ c ∨ s.serviceOpen n p = false) ∨ ((s.seg n).prev = some q ∧ q + 1 = c) →
    q.toNat % 2 = 0 → k < 32 → (s.seg n).req = some (.second k so tag) →
    s.nodeState n k = nRANGING → (s.slotRx n 0x201 q).a = none → (s.slotRx n 0x201 q).b = none → (s.slotRx n 0x300 q).a = none → (s.slotRx n 0x300 q).b = none →
    ∃ t, exec (.replyWindowClose n) s = .next t ∧ (t.seg n).req = none ∧ t.nodeState n k = nABSENT
      ∧ s.OnlyRegs { t with trn := s.trn } [Reg.TRN_NODE_STAT n k, Reg.TRN_SSTAT n]

/-- R146, R165, R185. TRN_PSTAT: 31 signal, 30 sync, 15 signal lost, 14 sync lost. -/
def Obligations.PortsAndListen : Prop :=
  (∀ (s : State) (n : Fin 12) (b : Bool) (ch : Nat), ch = (if b then 1 else 0) →
    (s.bit (Reg.TRN_PCFG n ch) 31 = true →
      (∃ t, exec (.portSignalDetected ⟨n, b⟩) s = .next t ∧ t.bit (Reg.TRN_PSTAT n ch) 31 = true ∧ s.OnlyRegs t [Reg.TRN_PSTAT n ch])
      ∧ ∃ t, exec (.portSyncAcquired ⟨n, b⟩) s = .next t ∧ t.bit (Reg.TRN_PSTAT n ch) 30 = true ∧ s.OnlyRegs t [Reg.TRN_PSTAT n ch])
    ∧ (s.bit (Reg.TRN_PCFG n ch) 31 = false → exec (.portSignalDetected ⟨n, b⟩) s = .next s ∧ exec (.portSyncAcquired ⟨n, b⟩) s = .next s)
    ∧ (s.bit (Reg.TRN_PSTAT n ch) 31 = true → ∃ t, exec (.portSignalLost ⟨n, b⟩) s = .next t ∧ t.bit (Reg.TRN_PSTAT n ch) 31 = false
        ∧ t.bit (Reg.TRN_PSTAT n ch) 15 = true ∧ s.OnlyRaised t [Reg.TRN_PSTAT n ch])
    ∧ (s.bit (Reg.TRN_PSTAT n ch) 31 = false → exec (.portSignalLost ⟨n, b⟩) s = .next s)
    ∧ (s.bit (Reg.TRN_PSTAT n ch) 30 = true → ∃ t, exec (.portSyncLost ⟨n, b⟩) s = .next t ∧ t.bit (Reg.TRN_PSTAT n ch) 30 = false
        ∧ t.bit (Reg.TRN_PSTAT n ch) 14 = true ∧ s.OnlyRaised t [Reg.TRN_PSTAT n ch])
    ∧ (s.bit (Reg.TRN_PSTAT n ch) 30 = false → exec (.portSyncLost ⟨n, b⟩) s = .next s))
  ∧ (∀ s : State, s.mode = mLISTEN → (∀ n, n < 12 → s.bit (Reg.TRN_SSTAT n) 11 = false) →
    s.trn.listenAt + 2 * s.tb.len + 3200 * s.headId 0 ≤ s.tb.tick →
    ∃ t, exec .listenTimeout s = .next t ∧ t.trn = { s.trn with cold := some false } ∧ { t with trn := s.trn } = s)
  ∧ ∀ s : State, s.mode ≠ mLISTEN ∨ (∃ n, n < 12 ∧ s.bit (Reg.TRN_SSTAT n) 11 = true) ∨ s.tb.tick < s.trn.listenAt + 2 * s.tb.len + 3200 * s.headId 0 →
    exec .listenTimeout s = .next s

/-- R63, over the six instructions of a lane whose job has the lists of LaneJob.Shaped (an invariant, ShapeKept). src0 and src1 31 take no part;
two products into one accumulator are one exact sum (R59). -/
def Obligations.GuardOverflow : Prop :=
  ∀ (s : State) (n : Fin 18) (j : LaneJob) (w : Word), (s.lane n).job = some j → j.Shaped → j.ended = false → w = s.laneWord j →
  (wFld w 31 29 = opMAC → ∀ co, co = s.cbus j.axis (j.caddr w) →
    ∃ t i, exec (.mac n) s = .next t ∧ (t.lane n).job = some i
      ∧ ∀ k d0 d1, k < 8 → d0 = (wFld w 3 1 + if wBit w 27 then j.iter else 0) % 8 → d1 = (wFld w 11 9 + if wBit w 27 then j.iter else 0) % 8 →
        ∀ v0 v1 : Option Int,
          v0 = (if wFld w 8 4 ≠ 31 ∧ d0 = k then some (loS co * j.operand (wFld w 8 4) * ((4 ^ wFld w 24 23 : Nat) : Int)) else none) →
          v1 = (if wFld w 16 12 ≠ 31 ∧ d1 = k then some (hiS co * j.operand (wFld w 16 12) * ((4 ^ wFld w 24 23 : Nat) : Int)) else none) →
          (v0 = none → v1 = none → i.accAt k = j.accAt k)
          ∧ (¬ (v0 = none ∧ v1 = none) → ∀ x, x = (j.accAt k).val + v0.getD 0 + v1.getD 0 →
              (i.accAt k).val = sgn 40 (wrapN 40 x)
              ∧ ((i.accAt k).st = true ↔ ((j.accAt k).st = true ∨ x < -(2 ^ 39) ∨ 2 ^ 39 ≤ x))))
  ∧ (∀ c : Instr, c = .nop n ∧ wFld w 31 29 = opNOP ∨ c = .lim n ∧ wFld w 31 29 = opLIM ∨ c = .rep n ∧ wFld w 31 29 = opREP →
      ∃ t i, exec c s = .next t ∧ (t.lane n).job = some i ∧ i.acc = j.acc)
  ∧ ∀ c : Instr, c = .stx n ∧ wFld w 31 29 = opSTX ∨ c = .stu n ∧ wFld w 31 29 = opSTU →
      ∃ t i, exec c s = .next t ∧ (t.lane n).job = some i ∧ i.accAt (j.accOf w) = {} ∧ ∀ k, k < 8 → k ≠ j.accOf w → i.accAt k = j.accAt k

/-- R59, R60, R64 to R71. The next instruction of the lane's job j is w; the job has the lists of LaneJob.Shaped (ShapeKept). -/
def Obligations.LaneInstructions : Prop :=
  (∀ (s : State) (n : Fin 18), (s.lane n).job = none →
    exec (.nop n) s = .next s ∧ exec (.mac n) s = .next s ∧ exec (.stx n) s = .next s ∧ exec (.stu n) s = .next s ∧ exec (.lim n) s = .next s
      ∧ exec (.rep n) s = .next s)
  ∧ ∀ (s : State) (n : Fin 18) (j : LaneJob) (w : Word), (s.lane n).job = some j → j.Shaped → j.ended = false → w = s.laneWord j →
    (wFld w 31 29 = opNOP → ∃ t i, exec (.nop n) s = .next t ∧ (t.lane n).job = some i ∧ { i with pos := j.pos, inRep := j.inRep, repIter := j.repIter, ended := false } = j
        ∧ i.ended = wBit w 28 ∧ (wBit w 28 = false → j.inRep = false → i.pos = j.pos + 1) ∧ t = s.setLane n { s.lane n with job := some i })
    ∧ (wFld w 31 29 = opREP → ∃ t i, exec (.rep n) s = .next t ∧ t = s.setLane n { s.lane n with job := some i } ∧ i.inRep = true ∧ i.pos = j.pos + 1 ∧ i.repAt = j.pos + 1
        ∧ i.repLen = wFld w 12 8 + 1 ∧ i.repCnt = wFld w 3 0 + 1 ∧ i.repIter = 0 ∧ i.m = j.m ∧ i.acc = j.acc ∧ i.u = j.u ∧ i.us = j.us ∧ i.xNew = j.xNew)
    ∧ (wFld w 31 29 = opMAC → ∃ t i, exec (.mac n) s = .next t ∧ t = s.setLane n { s.lane n with job := some i } ∧ i.ended = wBit w 28 ∧ i.m = j.m ∧ i.u = j.u
        ∧ i.us = j.us ∧ i.w = j.w ∧ i.xNew = j.xNew ∧ i.acc.length = 8)
    ∧ (wFld w 31 29 = opSTX → j.idx w < j.nx → j.idx w < 6 → j.wideLow (j.idx w) = false → j.wide (j.idx w) = false → ∀ a, a = j.accAt (j.accOf w) →
        ∃ t i, exec (.stx n) s = .next t ∧ (t.lane n).job = some i ∧ i.ended = wBit w 28
          ∧ i.xNew[j.idx w]? = some (some (wrapN 16 (if a.st then (if a.val < 0 then -32768 else 32767)
              else sat16 (rneDiv (a.val * (2 ^ (j.shift (4 * j.idx w) + 8).toNat : Nat)
                + (if wBit j.rowSelf (j.idx w) then sgn 16 ((j.x[j.idx w]?).getD 0) * 2 ^ 23 else 0)) (2 ^ 23)))))
          ∧ (∀ k, k ≠ j.idx w → i.xNew[k]? = j.xNew[k]?)
          ∧ (a.st = false → t = s.setLane n { s.lane n with job := some i })
          ∧ (a.st = true → t.rd (Reg.LAW_NUMEVT j.axis) = s.rd (Reg.LAW_NUMEVT j.axis) + 1 ∧ t.bit (Reg.LAW_STAT j.axis) 29 = true
              ∧ t.rd Reg.GAL_GOV_CNT = s.rd Reg.GAL_GOV_CNT + 1 ∧ t.bit Reg.GAL_EVT 27 = true
              ∧ s.RegsBut t ([Reg.LAW_NUMEVT j.axis, Reg.LAW_STAT j.axis, Reg.GAL_GOV_CNT, Reg.GAL_EVT] ++ deliveryRegs)))
    ∧ (wFld w 31 29 = opSTX → j.idx w < j.nx → j.idx w < 5 → j.wideLow (j.idx w) = false → j.wide (j.idx w) = true →
        (j.accAt (j.accOf w)).st = false → ∀ v, v = wrapN 32 (sat32 (rneDiv ((j.accAt (j.accOf w)).val * (2 ^ (j.shift (4 * j.idx w) + 9).toNat : Nat)
            + (if wBit j.rowSelf (j.idx w) then sgn 32 ((j.x[j.idx w]?).getD 0 * 65536 + (j.x[j.idx w + 1]?).getD 0) * 2 ^ 8 else 0)) (2 ^ 8))) →
        ∃ t i, exec (.stx n) s = .next t ∧ t = s.setLane n { s.lane n with job := some i } ∧ i.xNew[j.idx w]? = some (some (v / 65536))
          ∧ i.xNew[j.idx w + 1]? = some (some (v % 65536)) ∧ ∀ k, k ≠ j.idx w → k ≠ j.idx w + 1 → i.xNew[k]? = j.xNew[k]?)
    ∧ (wFld w 31 29 = opSTX → j.nx ≤ j.idx w ∨ j.wideLow (j.idx w) = true →
        ∃ t i, exec (.stx n) s = .next t ∧ t = s.setLane n { s.lane n with job := some i } ∧ i.xNew = j.xNew)
    ∧ (wFld w 31 29 = opSTU → j.idx w < j.nu → j.idx w < 2 → (j.accAt (j.accOf w)).st = false →
        ∃ t i, exec (.stu n) s = .next t ∧ t = s.setLane n { s.lane n with job := some i } ∧ i.ended = wBit w 28
          ∧ intAt i.u (j.idx w) = sat16 (rneDiv ((j.accAt (j.accOf w)).val * (2 ^ (j.shift (24 + 4 * j.idx w) + 8).toNat : Nat)) (2 ^ 23))
          ∧ (∀ k, k ≠ j.idx w → intAt i.u k = intAt j.u k) ∧ i.us = j.us ∧ i.xNew = j.xNew)
    ∧ (wFld w 31 29 = opSTU → j.idx w < j.nu → j.idx w < 2 → (j.accAt (j.accOf w)).st = true →
        ∃ t i, exec (.stu n) s = .next t ∧ (t.lane n).job = some i ∧ intAt i.u (j.idx w) = (if (j.accAt (j.accOf w)).val < 0 then -32768 else 32767)
          ∧ t.rd (Reg.LAW_NUMEVT j.axis) = s.rd (Reg.LAW_NUMEVT j.axis) + 1 ∧ t.bit (Reg.LAW_STAT j.axis) 29 = true
          ∧ t.rd Reg.GAL_GOV_CNT = s.rd Reg.GAL_GOV_CNT + 1 ∧ t.bit Reg.GAL_EVT 27 = true)
    ∧ (wFld w 31 29 = opLIM → j.idx w < j.nu → j.idx w < 2 →
        ∀ u lo hi, u = intAt j.u (j.idx w) + (if j.linj = 5 + j.idx w then intAt j.m 9 else 0) → lo = loS (if j.idx w = 0 then j.ulim0 else j.ulim1) →
        hi = hiS (if j.idx w = 0 then j.ulim0 else j.ulim1) → lo ≤ hi →
        ∃ t i, exec (.lim n) s = .next t ∧ t = s.setLane n { s.lane n with job := some i } ∧ i.ended = wBit w 28
          ∧ (lo ≤ u → u ≤ hi → intAt i.us (j.idx w) = u ∧ intAt i.w (j.idx w) = 0 ∧ (if j.idx w = 0 then i.usat0 else i.usat1) = false)
          ∧ (u < lo → intAt i.us (j.idx w) = lo ∧ (if j.idx w = 0 then i.usat0 else i.usat1) = true)
          ∧ (hi < u → intAt i.us (j.idx w) = hi ∧ (if j.idx w = 0 then i.usat0 else i.usat1) = true)
          ∧ i.u = j.u ∧ i.acc = j.acc)

/-- R25, R26, R48, R49, R54, R57, R58, R62, R78. -/
def Obligations.JobsToRelease : Prop :=
  (∀ (s : State) (n : Nat) (q : LawJob) (rest : List LawJob), s.freeLane = some n → s.law.jobs = q :: rest →
    ∃ t j, exec .lawJobDispatch s = .next t ∧ t.law.jobs = rest ∧ (t.lane n).job = some j ∧ (∀ k, k ≠ n → t.lane k = s.lane k)
      ∧ j.axis = q.axis ∧ j.cyc = q.cyc ∧ j.rel = q.rel ∧ j.cfg = s.rd (Reg.LAW_CFG q.axis) ∧ j.ulim0 = s.rd (Reg.LAW_ACT_BANK q.axis 49)
      ∧ j.ulim1 = s.rd (Reg.LAW_ACT_BANK q.axis 50) ∧ j.x = (s.axis q.axis).x ∧ j.acc = List.replicate 8 {} ∧ j.pos = 0 ∧ j.ended = false ∧ j.latched = false
      ∧ t.rd (Reg.GAL_LJOBS n) = s.rd (Reg.GAL_LJOBS n) + 1 ∧ t.fld (Reg.GAL_LLAST n) 31 24 = q.axis % 256
      ∧ t.pwm = s.pwm ∧ t.trn = s.trn ∧ t.fbk = s.fbk ∧ t.hall.bytes = s.hall.bytes
      ∧ (s.lrnOn q.axis = false → s.SameMemory t ∧ s.RegsBut t [Reg.GAL_LJOBS n, Reg.GAL_LLAST n, Reg.GAL_STAT]))
  ∧ (∀ (s : State) (n : Nat), s.freeLane = some n → s.law.jobs = [] → exec .lawJobDispatch s = .next s)
  ∧ (∀ (s : State) (i : Nat), s.freeLane = none → s.law.jobs.findIdx? (fun j => !j.waited) = some i →
    ∃ t, exec .lawJobDispatch s = .next t ∧ t.law.jobs = s.law.jobs.modify i (fun j => { j with waited := true })
      ∧ t.rd Reg.GAL_DWAIT_CNT = s.rd Reg.GAL_DWAIT_CNT + 1 ∧ t.bit Reg.GAL_EVT 24 = true ∧ s.OnlyRaised { t with law := s.law } [Reg.GAL_DWAIT_CNT, Reg.GAL_EVT])
  ∧ (∀ (s : State) (n : Fin 18) (j : LaneJob) (stamp : Nat), (s.lane n).job = some j → j.ended = true → j.latched = false → j.held = false →
    ∀ slack, slack = clampI (-32768) 32767 ((((j.rel * 32 : Nat) : Int) - stamp) * 5 / 16) →
    (stamp < j.rel * 32 → ∃ t i, exec (.lawJobComplete n stamp) s = .next t ∧ (t.lane n).job = some i ∧ i.latched = true
        ∧ i.cmd = (j.frameOut (s.fld (Reg.LAW_EVEC j.axis) 31 16) (min (s.fld (Reg.LAW_ESCALE j.axis) 12 8) 24)).1
        ∧ hiS (t.rd (Reg.GAL_LSLK n)) = slack ∧ loS (t.rd (Reg.GAL_LSLK n)) = min (loS (s.rd (Reg.GAL_LSLK n))) slack
        ∧ t.fld (Reg.GAL_LRUN n) 12 0 = (if slack < 40 then min 4096 (s.fld (Reg.GAL_LRUN n) 12 0 + 1) else 0)
        ∧ (∀ k, k ≠ n.val → t.lane k = s.lane k) ∧ t.law.jobs = s.law.jobs ∧ s.OnlyRegs { t with law := s.law } [Reg.GAL_LSLK n, Reg.GAL_LRUN n])
    ∧ (j.rel * 32 ≤ stamp → ∃ t, exec (.lawJobComplete n stamp) s = .next t ∧ (t.lane n).job = none
        ∧ t.rd (Reg.LAW_LATE_CNT j.axis) = s.rd (Reg.LAW_LATE_CNT j.axis) + 1 ∧ t.bit (Reg.LAW_STAT j.axis) 31 = true
        ∧ t.rd (Reg.GAL_LLATE n) = s.rd (Reg.GAL_LLATE n) + 1 ∧ t.rd Reg.GAL_LATE_CNT = s.rd Reg.GAL_LATE_CNT + 1 ∧ t.bit Reg.GAL_EVT 28 = true
        ∧ (t.axis j.axis).x = (s.axis j.axis).x ∧ (t.axis j.axis).cmd = (s.axis j.axis).cmd ∧ (∀ k, k ≠ n.val → t.lane k = s.lane k)))
  ∧ ∀ (s : State) (r : Trigger) (n : Fin 18) (j : LaneJob), s.law.jobs = [] → (s.lane n).job = some j → (∀ k, k < 18 → k ≠ n.val → (s.lane k).job = none) →
    s.triggeredBy j.axis r = true → j.held = false → s.lawsRun = true →
    (j.latched = true → ∃ t, exec (.releaseInstant r) s = .next t ∧ (t.lane n).job = none ∧ (t.axis j.axis).cmd = j.cmd ∧ (t.axis j.axis).released = true
        ∧ (∀ i, i < 6 → (t.axis j.axis).x[i]? = (if j.sfrz then (s.axis j.axis).x[i]? else some (((j.xNew[i]?).getD none).getD (((s.axis j.axis).x[i]?).getD 0))))
        ∧ t.rd (Reg.LAW_REL_CYC j.axis) = j.cyc ∧ t.rd (Reg.LAW_OUT j.axis) = pack16 (intAt j.us 0) (intAt j.us 1)
        ∧ t.rd (Reg.LAW_ERR01 j.axis) = pack16 (intAt j.m 0) (intAt j.m 1) ∧ t.rd (Reg.LAW_X01 j.axis) = packX (t.axis j.axis).x 0
        ∧ t.rd (Reg.LAW_LATE_CNT j.axis) = s.rd (Reg.LAW_LATE_CNT j.axis) ∧ (∀ a, a ≠ j.axis → t.axis a = s.axis a)
        ∧ (j.learn.on = false → s.SameMemory t))
    ∧ (j.latched = false → ∃ t i, exec (.releaseInstant r) s = .next t ∧ (t.lane n).job = some i ∧ i.held = true ∧ { i with held := false } = j
        ∧ t.rd (Reg.LAW_LATE_CNT j.axis) = s.rd (Reg.LAW_LATE_CNT j.axis) + 1 ∧ t.bit (Reg.LAW_STAT j.axis) 31 = true
        ∧ (t.axis j.axis).x = (s.axis j.axis).x ∧ (t.axis j.axis).cmd = (s.axis j.axis).cmd ∧ t.rd (Reg.LAW_OUT j.axis) = s.rd (Reg.LAW_OUT j.axis))

/-- R45, R51 to R53. LAW_STG_CTRL: 31 ARM, 30 CANCEL, 29 COPY, 1:0 INIT; LAW_STG_STAT: 31 PENDING, 30 COPYING, 27 BUSY, 26 DONE, 25 REFUSED.
That COPY while a copy runs is ignored with BUSY is the model's choice (log entry 66). -/
def Obligations.CoefficientSwap : Prop :=
  (∀ (s : State) (m : Fin 32) (a : Fin 256) (v : Word), s.may m (Reg.LAW_STG_CTRL a) true →
    (wFld v 31 29 = 4 → s.bit (Reg.LAW_STG_STAT a) 30 = false →
      ∃ t, exec (.lawStgArm m a v) s = .next t ∧ t.bit (Reg.LAW_STG_STAT a) 31 = true
        ∧ (t.axis a).swap = some ⟨s.rd (Reg.LAW_STG_CYC a), wFld v 1 0, decide (sdiff (s.rd (Reg.LAW_STG_CYC a)) s.tb.cyc ≤ 0)⟩ ∧ (t.axis a).deferred = false
        ∧ (∀ b, b ≠ a.val → t.axis b = s.axis b) ∧ s.OnlyRegs { t with law := s.law } [Reg.LAW_STG_CTRL a, Reg.LAW_STG_STAT a])
    ∧ (wFld v 31 29 = 4 → s.bit (Reg.LAW_STG_STAT a) 30 = true →
      ∃ t, exec (.lawStgArm m a v) s = .next t ∧ t.bit (Reg.LAW_STG_STAT a) 27 = true ∧ t.law = s.law ∧ s.OnlyRegs t [Reg.LAW_STG_CTRL a, Reg.LAW_STG_STAT a])
    ∧ (wFld v 31 29 = 2 →
      ∃ t, exec (.lawStgCancel m a v) s = .next t ∧ t.bit (Reg.LAW_STG_STAT a) 31 = false ∧ (t.axis a).swap = none
        ∧ s.OnlyRegs { t with law := s.law } [Reg.LAW_STG_CTRL a, Reg.LAW_STG_STAT a])
    ∧ (wFld v 31 29 = 1 → s.bit (Reg.LAW_STG_STAT a) 31 = false → s.bit (Reg.LAW_STG_STAT a) 30 = false →
      ∃ t, exec (.lawStgCopy m a v) s = .next t ∧ t.bit (Reg.LAW_STG_STAT a) 30 = true ∧ s.OnlyRegs t [Reg.LAW_STG_CTRL a, Reg.LAW_STG_STAT a])
    ∧ (wFld v 31 29 = 1 → s.bit (Reg.LAW_STG_STAT a) 31 = true ∨ s.bit (Reg.LAW_STG_STAT a) 30 = true →
      ∃ t, exec (.lawStgCopy m a v) s = .next t ∧ t.bit (Reg.LAW_STG_STAT a) 27 = true ∧ t.bit (Reg.LAW_STG_STAT a) 30 = s.bit (Reg.LAW_STG_STAT a) 30
        ∧ s.OnlyRegs t [Reg.LAW_STG_CTRL a, Reg.LAW_STG_STAT a])
    ∧ (wFld v 31 29 = 5 → s.bit (Reg.LAW_STG_STAT a) 31 = true →
      ∃ t, exec (.lawStgArm m a v) s = .next t ∧ t.law = s.law ∧ t.bit (Reg.LAW_STG_STAT a) 31 = true ∧ t.bit (Reg.LAW_STG_STAT a) 27 = true
        ∧ t.bit (Reg.LAW_STG_STAT a) 30 = s.bit (Reg.LAW_STG_STAT a) 30 ∧ s.OnlyRegs t [Reg.LAW_STG_CTRL a, Reg.LAW_STG_STAT a])
    ∧ (wFld v 31 29 = 5 → s.bit (Reg.LAW_STG_STAT a) 31 = false → s.bit (Reg.LAW_STG_STAT a) 30 = false →
      ∃ t, exec (.lawStgArm m a v) s = .next t ∧ t.law = s.law ∧ t.bit (Reg.LAW_STG_STAT a) 31 = false ∧ t.bit (Reg.LAW_STG_STAT a) 30 = true
        ∧ t.bit (Reg.LAW_STG_STAT a) 27 = true ∧ s.OnlyRegs t [Reg.LAW_STG_CTRL a, Reg.LAW_STG_STAT a]))
  ∧ (∀ (s : State) (a : Fin 256), s.bit (Reg.LAW_STG_STAT a) 30 = true →
    ∃ t, exec (.lawStgCopyDone a) s = .next t ∧ t.bit (Reg.LAW_STG_STAT a) 30 = false
      ∧ (∀ w, w < 51 → t.rd (Reg.LAW_STG_BANK a w) = s.rd (Reg.LAW_ACT_BANK a w))
      ∧ s.OnlyRegs t (Reg.LAW_STG_STAT a :: (List.range 51).map (Reg.LAW_STG_BANK a)))
  ∧ (∀ (s : State) (a : Fin 256), s.bit (Reg.LAW_STG_STAT a) 30 = false → exec (.lawStgCopyDone a) s = .next s)
  ∧ (∀ (s : State) (a : Fin 256) (p : Swap), (s.axis a).swap = some p → (s.axis a).deferred = true → s.inFlight a = false →
    (ulimBad (s.rd (Reg.LAW_STG_BANK a 49)) = false → ulimBad (s.rd (Reg.LAW_STG_BANK a 50)) = false →
      ∃ t, exec (.deferredSwap a) s = .next t ∧ (t.axis a).swap = none ∧ (t.axis a).deferred = false
        ∧ (∀ w, w < 51 → t.rd (Reg.LAW_ACT_BANK a w) = s.rd (Reg.LAW_STG_BANK a w) ∧ t.rd (Reg.LAW_STG_BANK a w) = s.rd (Reg.LAW_ACT_BANK a w))
        ∧ t.bit (Reg.LAW_STG_STAT a) 31 = false ∧ t.bit (Reg.LAW_STG_STAT a) 26 = true ∧ t.fld (Reg.LAW_STG_STAT a) 15 0 = s.tb.cyc.toNat % 65536
        ∧ (t.axis a).x = (match p.init with
            | 1 => [0, 0, 0, 0, 0, 0]
            | 2 => [s.fld (Reg.LAW_INIT01 a) 15 0, s.fld (Reg.LAW_INIT01 a) 31 16, s.fld (Reg.LAW_INIT23 a) 15 0, s.fld (Reg.LAW_INIT23 a) 31 16,
                    s.fld (Reg.LAW_INIT45 a) 15 0, s.fld (Reg.LAW_INIT45 a) 31 16]
            | _ => (s.axis a).x)
        ∧ s.SameMemory t ∧ s.RegsBut t (Reg.LAW_STG_STAT a :: ((List.range 51).map (Reg.LAW_STG_BANK a) ++ (List.range 51).map (Reg.LAW_ACT_BANK a))))
    ∧ (ulimBad (s.rd (Reg.LAW_STG_BANK a 49)) = true ∨ ulimBad (s.rd (Reg.LAW_STG_BANK a 50)) = true →
      ∃ t, exec (.deferredSwap a) s = .next t ∧ (t.axis a).swap = none ∧ t.bit (Reg.LAW_STG_STAT a) 31 = false ∧ t.bit (Reg.LAW_STG_STAT a) 25 = true
        ∧ (t.axis a).x = (s.axis a).x ∧ s.OnlyRegs { t with law := s.law } [Reg.LAW_STG_STAT a]))
  ∧ ∀ (s : State) (a : Fin 256), (s.axis a).swap = none ∨ (s.axis a).deferred = false ∨ s.inFlight a = true → exec (.deferredSwap a) s = .next s

/-- R6, R76 to R78, R82, R83. Lane states: 0 active, 1 spare, 2 marked, 3 retired, 4 failed. GAL_CTRL: 31 RETIRE, 30 MINCLR, 4:0 LANE; GAL_CHK: 30 BUSY,
29 DONE, 28 PASS. -/
def Obligations.LaneRetirementAndChecks : Prop :=
  (∀ (s : State) (v : Word) (l : Nat), wBit v 31 = true → wBit v 30 = false → l = wFld v 4 0 → l < 18 →
    ((s.lane l).state = 0 → ∃ t, exec (.galRetire 0 v) s = .next t ∧ (t.lane l).state = 2 ∧ (t.lane l).cause = 2 ∧ (t.lane l).job = (s.lane l).job
      ∧ t.bit Reg.GAL_EVT 25 = true ∧ ((∀ k, k < 18 → (s.lane k).state ≠ 1) → t.bit Reg.GAL_EVT 30 = true)
      ∧ (∀ k, k ≠ l → t.lane k = s.lane k) ∧ t.hall = s.hall)
    ∧ ((s.lane l).state = 1 → ∃ t, exec (.galRetire 0 v) s = .next t ∧ (t.lane l).state = 3 ∧ (∀ k, k ≠ l → t.lane k = s.lane k) ∧ t.hall = s.hall)
    ∧ (2 ≤ (s.lane l).state → ∃ t, exec (.galRetire 0 v) s = .next t ∧ s.OnlyRegs t [Reg.GAL_CTRL]))
  ∧ (∀ (s : State) (m : Fin 32) (v : Word), m.val ≠ 0 → s.may m Reg.GAL_CTRL true → wBit v 31 = true → wBit v 30 = false →
    ∃ t, exec (.galRetire m v) s = .next t ∧ t.fld Reg.SYS_LK_DENY 28 24 = m.val ∧ t.fld Reg.SYS_LK_DENY 23 0 = (s.fld Reg.SYS_LK_DENY 23 0 + 1) % 2 ^ 24
      ∧ t.rd Reg.GAL_CTRL = s.rd Reg.GAL_CTRL ∧ s.OnlyRegs t [Reg.SYS_LK_DENY])
  ∧ (∀ (s : State) (m : Fin 32) (v : Word), s.may m Reg.GAL_CTRL true → wBit v 31 = false → wBit v 30 = true →
    ∃ t, exec (.galMinclr m v) s = .next t ∧ (∀ n, n < 18 → t.fld (Reg.GAL_LSLK n) 15 0 = 0x7FFF ∧ t.fld (Reg.GAL_LSLK n) 31 16 = s.fld (Reg.GAL_LSLK n) 31 16)
      ∧ t.fld Reg.GAL_STAT 4 0 = 0 ∧ s.OnlyRegs t (Reg.GAL_CTRL :: Reg.GAL_STAT :: Reg.SYS_LK_DENY :: (List.range 18).map Reg.GAL_LSLK))
  ∧ (∀ (s : State) (m : Fin 32) (v : Word), s.may m Reg.GAL_CHK true →
    (wBit v 31 = true → s.mode = mMAINTENANCE → ∃ t, exec (.galChkStart m v) s = .next t ∧ t.bit Reg.GAL_CHK 30 = true ∧ s.OnlyRegs t [Reg.GAL_CHK])
    ∧ (wBit v 31 = false ∨ s.mode ≠ mMAINTENANCE → exec (.galChkStart m v) s = .next s))
  ∧ (∀ s : State, s.bit Reg.GAL_CHK 30 = true →
    ∃ t, exec .galChkDone s = .next t ∧ t.fld Reg.GAL_CHK 31 29 = 1
      ∧ t.bit Reg.GAL_CHK 28 = (decide (t.rd Reg.GAL_CHK_ERR = 0) && t.bit Reg.GAL_PLAN 31)
      ∧ (t.bit Reg.GAL_CHK 28 = true → ∀ a, a < 256 → s.bit (Reg.LAW_CFG a) 31 = true → t.bit (Reg.GAL_PROG_INFO (s.progOf a)) 31 = true)
      ∧ s.OnlyRegs t (Reg.GAL_CHK :: Reg.GAL_CHK_ERR :: Reg.GAL_PLAN :: Reg.GAL_PLAN_ERR :: (List.range 16).map Reg.GAL_PROG_INFO))
  ∧ ∀ s : State, s.bit Reg.GAL_CHK 30 = false → exec .galChkDone s = .next s

/-- R85, R90, R95, R96. LRN_CTRL: 2 ZERO, 1 IOFF, 0 UHOLD; LRN_STAT: 29 a ZERO is requested or running. -/
def Obligations.LearnerControl : Prop :=
  (∀ (s : State) (m : Fin 32) (a : Fin 256) (v : Word), s.may m (Reg.LRN_CTRL a) true →
    (wBit v 2 = false →
      (∃ t, exec (.lrnUhold m a v) s = .next t ∧ t.fld (Reg.LRN_CTRL a) 1 0 = wFld v 1 0 ∧ s.OnlyRegs t [Reg.LRN_CTRL a])
      ∧ ∃ t, exec (.lrnIoff m a v) s = .next t ∧ t.fld (Reg.LRN_CTRL a) 1 0 = wFld v 1 0 ∧ s.OnlyRegs t [Reg.LRN_CTRL a])
    ∧ (wBit v 2 = true → s.lrnOn a = true → s.fld Reg.LRN_REGION 5 0 ≠ 0 →
      ∃ t, exec (.lrnZero m a v) s = .next t ∧ t.bit (Reg.LRN_STAT a) 29 = true ∧ t.fld (Reg.LRN_CTRL a) 1 0 = wFld v 1 0
        ∧ s.OnlyRegs t [Reg.LRN_CTRL a, Reg.LRN_STAT a])
    ∧ (wBit v 2 = true → s.lrnOn a = false ∨ s.fld Reg.LRN_REGION 5 0 = 0 →
      ∃ t, exec (.lrnZero m a v) s = .next t ∧ s.OnlyRegs t [Reg.LRN_CTRL a]))
  ∧ (∀ (s : State) (a : Fin 256), s.bit (Reg.LRN_STAT a) 29 = true → (s.axis a).zeroRun = true →
    (∀ i, i < s.lrnBins a / 4 → s.allowed 10 (hallBase + (s.lrnTable a + 8 * i)) 8 true = true) →
    ∃ t, exec (.lrnZeroDone a) s = .next t ∧ (∀ o, s.lrnTable a ≤ o → o < s.lrnTable a + 2 * s.lrnBins a → t.hallByte o = 0)
      ∧ (∀ o, o < s.lrnTable a ∨ s.lrnTable a + 2 * s.lrnBins a ≤ o → t.hallByte o = s.hallByte o)
      ∧ (t.axis a).zeroRun = false ∧ (t.axis a).sign = 0 ∧ (t.axis a).hold = (s.axis a).hold ∧ t.bit (Reg.LRN_STAT a) 29 = false ∧ t.bit Reg.LRN_EVT 28 = true
      ∧ (∀ b, b ≠ a.val → t.axis b = s.axis b) ∧ s.OnlyRaised { t with law := s.law, hall := s.hall } [Reg.LRN_STAT a, Reg.LRN_EVT])
  ∧ ∀ (s : State) (a : Fin 256), s.bit (Reg.LRN_STAT a) 29 = false ∨ (s.axis a).zeroRun = false → exec (.lrnZeroDone a) s = .next s

/-- R106. INV is bit 28, IQUAL bit 27 and FILT 25:22 of FBK_CHn_CFG; a level has passed the filter once it has been stable for FILT + 1 ticks, and b'
is the filtered level of B in the tick before the edge. SRC_IDXLO latches the low word of the count. -/
def Obligations.PulseDirection : Prop :=
  ∀ (s : State) (ch : Fin 16), s.chMode ch = 2 →
  (∀ (tick sa sb : Nat) (b b' : Bool), s.fld (Reg.FBK_CH_CFG ch) 25 22 < sa → b' = (if s.fld (Reg.FBK_CH_CFG ch) 25 22 < sb then b else (s.chan ch).b) →
    ∃ t, exec (.pulseCount ch ⟨tick, sa⟩ ⟨b, sb⟩) s = .next t
    ∧ (t.chan ch).cnt = (s.chan ch).cnt + (if b' = s.bit (Reg.FBK_CH_CFG ch) 28 then -1 else 1) ∧ (t.chan ch).b = b'
    ∧ (t.source ch).edges = (s.source ch).edges ++ [(((s.tick0 + tick : Nat) : Int), if b' = s.bit (Reg.FBK_CH_CFG ch) 28 then -1 else 1)]
    ∧ (∀ c, c ≠ ch.val → t.chan c = s.chan c ∧ t.source c = s.source c)
    ∧ s.OnlyNoticed { t with fbk := s.fbk } [Reg.SRC_STAT ch, Reg.SRC_DIRCYC ch, Reg.SRC_DIRFT ch, Reg.FBK_EVT])
  ∧ (∀ (tick sa sb : Nat) (b : Bool), sa ≤ s.fld (Reg.FBK_CH_CFG ch) 25 22 → exec (.pulseCount ch ⟨tick, sa⟩ ⟨b, sb⟩) s = .next s)
  ∧ (∀ tick sz : Nat, s.fld (Reg.FBK_CH_CFG ch) 25 22 < sz →
    ∃ t, exec (.indexEvent ⟨ch, tick, sz⟩) s = .next t ∧ t.bit (Reg.SRC_STAT ch) 13 = true ∧ t.rd (Reg.SRC_IDXLO ch) = wordI (s.chan ch).cnt
    ∧ (t.source ch).idxRaw = some (s.chan ch).cnt ∧ (t.chan ch).cnt = (s.chan ch).cnt
    ∧ s.OnlyNoticed { t with fbk := s.fbk } [Reg.SRC_STAT ch, Reg.SRC_IDXLO ch, Reg.SRC_IDXD ch, Reg.SRC_ECNT ch, Reg.FBK_EVT])
  ∧ ∀ tick sz : Nat, sz ≤ s.fld (Reg.FBK_CH_CFG ch) 25 22 → exec (.indexEvent ⟨ch, tick, sz⟩) s = .next s

/-- R103 to R105, R107 to R109, R111 to R113, R119, R120; the even spacing of emulated edges is the model's reading (log entry 73), and so is the bound on
the next read's start (log entry 82). FBK_CHn_CFG: 28 INV, 27 IQUAL, 26 Gray, 25:22 FILT; a' and b' are the filtered levels;
SRC_STAT: 29 below, 28 above, 24 valid, 13 index, 9 illegal transition, 8 CRC, 7 stale. -/
def Obligations.FeedbackChannels : Prop :=
  (∀ (s : State) (ch : Fin 16) (tick sa sb : Nat) (a b a' b' : Bool), a' = (if s.fld (Reg.FBK_CH_CFG ch) 25 22 < sa then a else (s.chan ch).a) →
    b' = (if s.fld (Reg.FBK_CH_CFG ch) 25 22 < sb then b else (s.chan ch).b) →
    (s.chMode ch ≠ 1 ∨ (a' = (s.chan ch).a ∧ b' = (s.chan ch).b) → exec (.quadratureCount ch tick ⟨a, sa⟩ ⟨b, sb⟩) s = .next s)
    ∧ (s.chMode ch = 1 → a' ≠ (s.chan ch).a → b' = (s.chan ch).b → ∃ t, exec (.quadratureCount ch tick ⟨a, sa⟩ ⟨b, sb⟩) s = .next t ∧ (t.chan ch).a = a' ∧ (t.chan ch).b = b'
        ∧ (t.chan ch).cnt = (s.chan ch).cnt + (if (a' != b') = s.bit (Reg.FBK_CH_CFG ch) 28 then -1 else 1)
        ∧ s.OnlyNoticed { t with fbk := s.fbk } [Reg.SRC_STAT ch, Reg.SRC_DIRCYC ch, Reg.SRC_DIRFT ch, Reg.FBK_EVT])
    ∧ (s.chMode ch = 1 → a' = (s.chan ch).a → b' ≠ (s.chan ch).b → ∃ t, exec (.quadratureCount ch tick ⟨a, sa⟩ ⟨b, sb⟩) s = .next t ∧ (t.chan ch).a = a' ∧ (t.chan ch).b = b'
        ∧ (t.chan ch).cnt = (s.chan ch).cnt + (if (a' == b') = s.bit (Reg.FBK_CH_CFG ch) 28 then -1 else 1)
        ∧ s.OnlyNoticed { t with fbk := s.fbk } [Reg.SRC_STAT ch, Reg.SRC_DIRCYC ch, Reg.SRC_DIRFT ch, Reg.FBK_EVT])
    ∧ (s.chMode ch = 1 → a' ≠ (s.chan ch).a → b' ≠ (s.chan ch).b → ∃ t, exec (.quadratureCount ch tick ⟨a, sa⟩ ⟨b, sb⟩) s = .next t ∧ (t.chan ch).cnt = (s.chan ch).cnt
        ∧ t.bit (Reg.SRC_STAT ch) 9 = true ∧ t.fld (Reg.SRC_ECNT ch) 15 0 = (s.fld (Reg.SRC_ECNT ch) 15 0 + 1) % 65536 ∧ t.bit Reg.FBK_EVT 27 = true
        ∧ s.OnlyRaised { t with fbk := s.fbk } [Reg.SRC_STAT ch, Reg.SRC_ECNT ch, Reg.FBK_EVT]))
  ∧ (∀ (s : State) (ch : Fin 16) (tick sz : Nat), s.chMode ch = 1 →
    (s.fld (Reg.FBK_CH_CFG ch) 25 22 < sz → s.bit (Reg.FBK_CH_CFG ch) 27 = false ∨ ((s.chan ch).a = true ∧ (s.chan ch).b = true) →
      ∃ t, exec (.indexEvent ⟨ch, tick, sz⟩) s = .next t ∧ t.bit (Reg.SRC_STAT ch) 13 = true ∧ t.rd (Reg.SRC_IDXLO ch) = wordI (s.chan ch).cnt)
    ∧ (sz ≤ s.fld (Reg.FBK_CH_CFG ch) 25 22 ∨ (s.bit (Reg.FBK_CH_CFG ch) 27 = true ∧ ((s.chan ch).a = false ∨ (s.chan ch).b = false)) →
      exec (.indexEvent ⟨ch, tick, sz⟩) s = .next s))
  ∧ (∀ (s : State) (ch : Fin 16) (tick : Nat), s.sampleInstant ch tick = false ∨ (s.chan ch).smpAt = some (s.tick0 + tick) →
    exec (.feedbackSample ch tick) s = .next s)
  ∧ (∀ (s : State) (ch : Fin 16) (tick : Nat), s.sampleInstant ch tick = true → (s.chan ch).smpAt ≠ some (s.tick0 + tick) →
    (s.chMode ch = 1 ∨ s.chMode ch = 2 → ∀ v lo hi, v = sgn 48 (wrapN 48 (sgn 48 (wrapN 48 (s.chan ch).cnt) - (s.source ch).orgNew.getD (s.source ch).org)) →
      (lo, hi) = (s.source ch).limNew.getD ((s.source ch).limLo, (s.source ch).limHi) → lo ≤ hi →
      ∃ t, exec (.feedbackSample ch tick) s = .next t ∧ t.raw ch = sgn 48 (wrapN 48 (s.chan ch).cnt)
        ∧ t.rd (Reg.SRC_POS ch) = wordI (if v < lo then lo else if hi < v then hi else v) ∧ t.bit (Reg.SRC_STAT ch) 29 = decide (v < lo)
        ∧ t.bit (Reg.SRC_STAT ch) 28 = decide (hi < v) ∧ t.bit (Reg.SRC_STAT ch) 24 = true ∧ (t.source ch).orgNew = none ∧ (t.source ch).limNew = none
        ∧ s.OnlyRaised { t with fbk := s.fbk } (Reg.SRC_RAWLO ch :: Reg.SRC_RAWHI ch :: Reg.SRC_POS ch :: Reg.SRC_SPD ch :: Reg.SRC_STAT ch :: Reg.FBK_EVT
            :: (List.range 8).map Reg.FBK_PT_STAT))
    ∧ (∀ v st, s.chMode ch = 3 ∨ s.chMode ch = 4 → (s.chan ch).ready = true → (s.chan ch).good = some (v, st) → s.bit (Reg.SRC_STAT ch) 24 = true →
      ∀ w d, w = s.fld (Reg.FBK_CH_SER0 ch) 29 24 → d = sgn w ((v + 2 ^ w - (s.source ch).vPrev % 2 ^ w) % 2 ^ w) →
      ∃ t, exec (.feedbackSample ch tick) s = .next t ∧ t.raw ch = sgn 48 (wrapN 48 (s.raw ch + d)) ∧ (t.source ch).vPrev = v ∧ (t.chan ch).ready = false)
    ∧ (s.chMode ch = 3 ∨ s.chMode ch = 4 → (s.chan ch).ready = false →
      ∃ t, exec (.feedbackSample ch tick) s = .next t ∧ t.bit (Reg.SRC_STAT ch) 7 = true ∧ t.bit Reg.FBK_EVT 25 = true
        ∧ s.OnlyRaised { t with fbk := s.fbk } [Reg.SRC_STAT ch, Reg.FBK_EVT]))
  ∧ (∀ (s : State) (ch : Fin 16) (tick : Nat), s.chMode ch = 3 ∨ s.chMode ch = 4 → s.sampleComes ch tick = true → (s.chan ch).reading = none →
    (s.chan ch).readFrom ≤ ((s.tick0 + tick : Nat) : Int) →
    ∃ t, exec (.serialReadStart ch tick) s = .next t ∧ (t.chan ch).reading = some ((s.tick0 + tick : Nat) : Int) ∧ (t.chan ch).ready = false
      ∧ (t.chan ch).good = (s.chan ch).good ∧ (t.chan ch).cnt = (s.chan ch).cnt
      ∧ (∀ c, c ≠ ch.val → t.chan c = s.chan c) ∧ { t with fbk := s.fbk } = s)
  ∧ (∀ (s : State) (ch : Fin 16) (tick : Nat), (s.chMode ch ≠ 3 ∧ s.chMode ch ≠ 4) ∨ s.sampleComes ch tick = false ∨ (s.chan ch).reading.isSome ∨
    ((s.tick0 + tick : Nat) : Int) < (s.chan ch).readFrom → exec (.serialReadStart ch tick) s = .next s)
  ∧ (∀ (s : State) (ch : Fin 16) (d : SerialData), (s.chan ch).reading = none ∨ d.bits.length ≠ s.fld (Reg.FBK_CH_SER0 ch) 21 16 →
    exec (.serialReadDone ch d) s = .next s)
  ∧ (∀ (s : State) (ch : Fin 16) (st : Int) (d : SerialData), (s.chan ch).reading = some st → d.bits.length = s.fld (Reg.FBK_CH_SER0 ch) 21 16 →
    (s.chMode ch = 3 → s.bit (Reg.FBK_CH_SER1 ch) 25 = false → ∀ f, f = (d.bits.drop (s.fld (Reg.FBK_CH_SER1 ch) 31 26)).take (s.fld (Reg.FBK_CH_SER0 ch) 29 24) →
      ∃ t, exec (.serialReadDone ch d) s = .next t ∧ (t.chan ch).ready = true ∧ (t.chan ch).reading = none
        ∧ (t.chan ch).good = some (bitsNat (if s.bit (Reg.FBK_CH_CFG ch) 26 then grayBits f false else f) 0, st) ∧ { t with fbk := s.fbk } = s)
    ∧ (s.chMode ch = 4 → crc8 d.bits 0 = d.crc → (d.bits[s.fld (Reg.FBK_CH_SER0 ch) 29 24]?).getD false = false →
      ∃ t, exec (.serialReadDone ch d) s = .next t ∧ (t.chan ch).ready = true ∧ (t.chan ch).reading = none
        ∧ (t.chan ch).good = some (bitsNat (d.bits.take (s.fld (Reg.FBK_CH_SER0 ch) 29 24)) 0, st)
        ∧ t.fld (Reg.FBK_CH_LSTAT ch) 15 0 = d.delay % 65536 ∧ s.OnlyRegs { t with fbk := s.fbk } [Reg.FBK_CH_LSTAT ch, Reg.SRC_STAT ch])
    ∧ (s.chMode ch = 4 → crc8 d.bits 0 ≠ d.crc →
      ∃ t, exec (.serialReadDone ch d) s = .next t ∧ t.bit (Reg.SRC_STAT ch) 8 = true ∧ t.bit Reg.FBK_EVT 26 = true ∧ (t.chan ch).reading = none
        ∧ (t.chan ch).good = (s.chan ch).good ∧ (t.chan ch).ready = (s.chan ch).ready
        ∧ s.OnlyRaised { t with fbk := s.fbk } [Reg.FBK_CH_LSTAT ch, Reg.SRC_STAT ch, Reg.SRC_ECNT ch, Reg.FBK_EVT])
    ∧ (s.chMode ch = 4 → ∃ t, exec (.ackTimeout ch) s = .next t ∧ t.bit (Reg.FBK_CH_LSTAT ch) 31 = true ∧ (t.chan ch).reading = none ∧ (t.chan ch).ready = false
        ∧ s.OnlyRegs { t with fbk := s.fbk } [Reg.FBK_CH_LSTAT ch]))
  ∧ (∀ (s : State) (m : Fin 32) (n : Fin 528) (v : Word), s.may m (Reg.SRC_ORGHI n) true →
    ∃ t, exec (.originPairWrite m n v) s = .next t ∧ (t.source n).orgNew = some (wFld v 15 0 * 2 ^ 32 + (s.rd (Reg.SRC_ORGLO n)).toNat)
      ∧ (t.source n).org = (s.source n).org ∧ s.OnlyRegs { t with fbk := s.fbk } [Reg.SRC_ORGHI n])
  ∧ (∀ (s : State) (m : Fin 32) (n : Fin 528) (v : Word), s.may m (Reg.SRC_LIMHI n) true →
    (s32 (s.rd (Reg.SRC_LIMLO n)) ≤ s32 v → ∃ t, exec (.limitPairWrite m n v) s = .next t ∧ t.rd (Reg.SRC_LIMHI n) = v
      ∧ (t.source n).limNew = some (s32 (s.rd (Reg.SRC_LIMLO n)), s32 v) ∧ s.OnlyRegs { t with fbk := s.fbk } [Reg.SRC_LIMHI n])
    ∧ (s32 v < s32 (s.rd (Reg.SRC_LIMLO n)) → ∃ t, exec (.limitPairWrite m n v) s = .next t ∧ t.bit Reg.FBK_EVT 22 = true ∧ t.fbk = s.fbk
      ∧ s.OnlyRaised t [Reg.FBK_EVT]))
  ∧ (∀ (s : State) (m : Fin 8) (a b z : Bool), s.fld (Reg.FBK_PT_CFG m) 31 30 = 1 →
    ∃ t, exec (.passThroughReemit m a b z) s = .next t ∧ (t.pout m).a = (if s.bit (Reg.FBK_PT_CFG m) 29 then b else a)
      ∧ (t.pout m).b = (if s.bit (Reg.FBK_PT_CFG m) 29 then a else b) ∧ (t.pout m).z = z ∧ (∀ k, k ≠ m.val → t.pout k = s.pout k) ∧ { t with fbk := s.fbk } = s)
  ∧ ∀ (s : State) (m : Fin 8) (tick : Nat) (due : Int), s.fld (Reg.FBK_PT_CFG m) 31 30 = 2 →
    due = max ((s.pout m).smpT + (s.pout m).done * (s.pout m).smpI / (s.pout m).smpN) (s.pout m).free →
    ((s.pout m).target ≠ (s.pout m).out → due ≤ ((s.tick0 + tick : Nat) : Int) → ∃ t, exec (.emulationEdge ⟨m, tick⟩) s = .next t
      ∧ (t.pout m).out = (s.pout m).out + (if (s.pout m).target < (s.pout m).out then -1 else 1) ∧ (t.pout m).target = (s.pout m).target
      ∧ (t.pout m).free = ((s.tick0 + tick : Nat) : Int) + s.fld (Reg.FBK_PT_CFG m) 7 0
      ∧ (∀ k, k ≠ m.val → t.pout k = s.pout k) ∧ s.OnlyRegs { t with fbk := s.fbk } [Reg.FBK_PT_STAT m])
    ∧ ((s.pout m).target = (s.pout m).out ∨ ((s.tick0 + tick : Nat) : Int) < due → exec (.emulationEdge ⟨m, tick⟩) s = .next s)

/-- R276 to R280. Core k comes to the word x.word at x.pc, and c is the core then, after what x says happened since its last Mx instruction. A reader sees
an accumulator, or within two instructions of a write a value before it: which one is free (R279, log entry 11), and so are the reserved word of the save
area and the place where a loop of count 0 goes on. -/
def Obligations.MxExtension : Prop :=
  (mxDecode 0x04D6000B = some (.mac2 12 13) ∧ mxDecode 0x0000250B = some (.rd 10 false 0) ∧ mxDecode 0x0800000B = none ∧ mxDecode 0x0000700B = none)
  ∧ (∀ (s : State) (k : Fin 10) (x : MxCtx) (a l : Bool) (r1 r2 : Fin 32) (sh : Fin 16) (imm : Fin 4096), ∀ c ∈ mxCommands k x a l r1 r2 sh imm,
    s.coreRuns k = false ∨ isMx x.word = false ∨ (∃ o, mxDecode x.word = some o ∧ o ≠ c.1) → exec c.2 s = .next s)
  ∧ (∀ (s : State) (k : Fin 10) (x : MxCtx) (a l : Bool) (r1 r2 : Fin 32) (sh : Fin 16) (imm : Fin 4096) (c : Core), s.coreRuns k = true →
    isMx x.word = true → mxDecode x.word = none → c = (s.core k).arrive x → ∀ i ∈ mxCommands k x a l r1 r2 sh imm,
    ∃ t, exec i.2 s = .next t ∧ (t.core k).exc = some .illegal ∧ (t.core k).epc = x.pc ∧ (t.core k).a0 = c.a0 ∧ (t.core k).a1 = c.a1 ∧ (t.core k).lc = c.lc
      ∧ (t.core k).x = c.x ∧ t = s.setCore k (t.core k))
  ∧ ∀ (s : State) (k : Fin 10) (x : MxCtx) (c : Core), s.coreRuns k = true → c = (s.core k).arrive x →
    (∀ (a : Bool) (r1 r2 : Fin 32) (e : Int), mxDecode x.word = some (.mac a r1 r2) → e = (c.acc a).val + loS (c.reg r1) * loS (c.reg r2) →
      ∃ t, exec (.mxMac k x a r1 r2) s = .next t ∧ ((t.core k).acc a).val = sgn 40 (wrapN 40 e)
        ∧ (((t.core k).acc a).st = true ↔ ((c.acc a).st = true ∨ e < -(2 ^ 39) ∨ 2 ^ 39 ≤ e)) ∧ (t.core k).acc (!a) = c.acc (!a) ∧ (t.core k).x = c.x
        ∧ t = s.setCore k (t.core k))
    ∧ (∀ r1 r2 : Fin 32, mxDecode x.word = some (.mac2 r1 r2) → ∃ t, exec (.mxMac2 k x r1 r2) s = .next t ∧ (t.core k).a0 = c.a0.add (loS (c.reg r1) * loS (c.reg r2))
        ∧ (t.core k).a1 = c.a1.add (hiS (c.reg r1) * hiS (c.reg r2)) ∧ (t.core k).x = c.x ∧ t = s.setCore k (t.core k))
    ∧ (∀ r1 r2 : Fin 32, mxDecode x.word = some (.macx2 r1 r2) → ∃ t, exec (.mxMacx2 k x r1 r2) s = .next t ∧ (t.core k).a0 = c.a0.add (loS (c.reg r1) * hiS (c.reg r2))
        ∧ (t.core k).a1 = c.a1.add (hiS (c.reg r1) * loS (c.reg r2)) ∧ (t.core k).x = c.x ∧ t = s.setCore k (t.core k))
    ∧ (∀ a : Bool, mxDecode x.word = some (.clr a) → ∃ t, exec (.mxClr k x a) s = .next t ∧ (t.core k).acc a = {} ∧ (t.core k).acc (!a) = c.acc (!a) ∧ (t.core k).x = c.x
        ∧ t = s.setCore k (t.core k))
    ∧ (mxDecode x.word = some .clr2 → ∃ t, exec (.mxClr2 k x) s = .next t ∧ (t.core k).a0 = {} ∧ (t.core k).a1 = {} ∧ (t.core k).x = c.x ∧ t = s.setCore k (t.core k))
    ∧ (∀ (a : Bool) (r1 r2 : Fin 32), mxDecode x.word = some (.wr a r1 r2) → ∃ t, exec (.mxWr k x a r1 r2) s = .next t
        ∧ (t.core k).acc a = { val := sgn 40 (wFld (c.reg r2) 7 0 * 2 ^ 32 + (c.reg r1).toNat), st := wBit (c.reg r2) 31 }
        ∧ (t.core k).acc (!a) = c.acc (!a) ∧ (t.core k).x = c.x ∧ t = s.setCore k (t.core k))
    ∧ (∀ (a : Bool) (rd : Fin 32) (sh : Fin 16), rd ≠ 0 →
        (mxDecode x.word = some (.rd rd a sh) → ∃ t v, exec (.mxRd k x rd a sh) s = .next t ∧ v ∈ c.acc a :: (c.hist a).map Prod.fst
          ∧ (t.core k).reg rd = wordI (if v.st then (if v.val < 0 then -32768 else 32767)
              else sat16 (rneDiv (v.val * (2 ^ (sgn 4 sh + 8).toNat : Nat)) (2 ^ 23)))
          ∧ (∀ i, i ≠ rd.val → (t.core k).reg i = c.reg i) ∧ (t.core k).a0 = c.a0 ∧ (t.core k).a1 = c.a1 ∧ { t with free := s.free } = s.setCore k (t.core k))
        ∧ (mxDecode x.word = some (.rdw rd a) → ∃ t v, exec (.mxRdw k x rd a) s = .next t ∧ v ∈ c.acc a :: (c.hist a).map Prod.fst ∧ (t.core k).reg rd = wordI v.val
          ∧ (t.core k).a0 = c.a0 ∧ (t.core k).a1 = c.a1 ∧ { t with free := s.free } = s.setCore k (t.core k))
        ∧ (mxDecode x.word = some (.rdh rd a) → ∃ t v, exec (.mxRdh k x rd a) s = .next t ∧ v ∈ c.acc a :: (c.hist a).map Prod.fst
          ∧ wBit ((t.core k).reg rd) 31 = v.st ∧ wFld ((t.core k).reg rd) 7 0 = wrapN 40 v.val / 2 ^ 32 ∧ wFld ((t.core k).reg rd) 30 8 = 0
          ∧ (t.core k).a0 = c.a0 ∧ (t.core k).a1 = c.a1 ∧ { t with free := s.free } = s.setCore k (t.core k)))
    ∧ (∀ (a : Bool) (sh : Fin 16) (i : Instr), (i = .mxRd k x 0 a sh ∧ mxDecode x.word = some (.rd 0 a sh)) ∨ (i = .mxRdw k x 0 a ∧ mxDecode x.word = some (.rdw 0 a))
          ∨ (i = .mxRdh k x 0 a ∧ mxDecode x.word = some (.rdh 0 a)) →
        ∃ t, exec i s = .next t ∧ (t.core k).x = c.x ∧ (t.core k).a0 = c.a0 ∧ (t.core k).a1 = c.a1 ∧ { t with free := s.free } = s.setCore k (t.core k))
    ∧ (∀ (r1 : Fin 32) (imm : Fin 4096) (ls le : Word), mxDecode x.word = some (.loop r1 imm) → ls = c.pc + 4 → le = c.pc + word (2 * imm) →
        (c.lc = 0 → ls ≤ le → c.reg r1 ≠ 0 → ∃ t, exec (.mxLoop k x r1 imm) s = .next t ∧ (t.core k).lc = c.reg r1 ∧ (t.core k).ls = ls ∧ (t.core k).le = le
            ∧ (t.core k).pc = ls ∧ (t.core k).x = c.x ∧ { t with free := s.free } = s.setCore k (t.core k))
        ∧ (c.lc = 0 → ls ≤ le → c.reg r1 = 0 → ∃ t, exec (.mxLoop k x r1 imm) s = .next t ∧ (t.core k).lc = 0
            ∧ ((t.core k).pc = le + 2 ∨ (t.core k).pc = le + 4) ∧ { t with free := s.free } = s.setCore k (t.core k))
        ∧ (c.lc ≠ 0 ∨ le < ls → ∃ t, exec (.mxLoop k x r1 imm) s = .next t ∧ (t.core k).exc = some .illegal ∧ (t.core k).epc = c.pc ∧ (t.core k).lc = c.lc
            ∧ { t with free := s.free } = s.setCore k (t.core k)))
    ∧ (∀ (r1 : Fin 32) (l : Bool) (a : Nat), a = (c.reg r1).toNat →
        (a % 8 ≠ 0 → ∀ i : Instr, (i = .mxSave k x r1 l ∧ mxDecode x.word = some (.save r1)) ∨ (i = .mxRestore k x r1 l ∧ mxDecode x.word = some (.restore r1)) → ∃ t, exec i s = .next t ∧ (t.core k).exc = some .misaligned ∧ (t.core k).epc = c.pc
            ∧ (t.core k).lc = c.lc ∧ (t.core k).a0 = c.a0 ∧ (t.core k).a1 = c.a1 ∧ t = s.setCore k (t.core k))
        ∧ (a % 8 = 0 → l = true →
            (mxDecode x.word = some (.save r1) → ∃ t, exec (.mxSave k x r1 l) s = .next t ∧ (t.core k).lc = 0 ∧ (∀ i, i < 7 → some ((t.core k).lword (a + 4 * i)) = (c.saved 0)[i]?)
              ∧ (t.core k).a0 = c.a0 ∧ (t.core k).a1 = c.a1 ∧ { t with free := s.free } = s.setCore k (t.core k))
            ∧ (mxDecode x.word = some (.restore r1) → ∃ t, exec (.mxRestore k x r1 l) s = .next t ∧ (t.core k).a0 = accOf (c.lword a) (c.lword (a + 4)) ∧ (t.core k).a1 = accOf (c.lword (a + 8)) (c.lword (a + 12))
              ∧ (t.core k).ls = c.lword (a + 20) ∧ (t.core k).le = c.lword (a + 24) ∧ (t.core k).x = c.x ∧ t = s.setCore k (t.core k)))
        ∧ (a % 8 = 0 → l = false →
            (((s.setCore k c).takeFree.busStore (coreMid k) a (c.saved (s.resv 20))).1 = true → mxDecode x.word = some (.save r1) →
              ∃ t, exec (.mxSave k x r1 l) s = .next t ∧ (t.core k).lc = 0
                ∧ t = ((s.setCore k c).takeFree.busStore (coreMid k) a (c.saved (s.resv 20))).2.setCore k (t.core k))
            ∧ (((s.setCore k c).takeFree.busStore (coreMid k) a (c.saved (s.resv 20))).1 = false → mxDecode x.word = some (.save r1) →
              ∃ t, exec (.mxSave k x r1 l) s = .next t ∧ (t.core k).exc = some .accessFault
                ∧ t = ((s.setCore k c).takeFree.busStore (coreMid k) a (c.saved (s.resv 20))).2.setCore k (t.core k))
            ∧ (∀ m, ((s.setCore k c).busLoad (coreMid k) a 7).1 = some m → mxDecode x.word = some (.restore r1) →
              ∃ t, exec (.mxRestore k x r1 l) s = .next t ∧ (t.core k).a0 = accOf ((m[0]?).getD 0) ((m[1]?).getD 0)
                ∧ (t.core k).a1 = accOf ((m[2]?).getD 0) ((m[3]?).getD 0)
                ∧ t = ((s.setCore k c).busLoad (coreMid k) a 7).2.setCore k (t.core k))
            ∧ (((s.setCore k c).busLoad (coreMid k) a 7).1 = none → mxDecode x.word = some (.restore r1) →
              ∃ t, exec (.mxRestore k x r1 l) s = .next t ∧ (t.core k).exc = some .accessFault
                ∧ t = ((s.setCore k c).busLoad (coreMid k) a 7).2.setCore k (t.core k))))

/-- R285, R287, R289, R290, R291, R307, R308, R310, R311, R320. Host h has MID 16 + h; a PCI Express host's read is completed with what the latch read
returns. -/
def Obligations.LandingsAndCommits : Prop :=
  (∀ (s : State) (k : Fin 32) (v : Word), ∃ t, exec (.windowApply 0 k v) s = .next t
    ∧ t.win k = { base := (s.rd (Reg.PRT_WIN_BASE k)).toNat / 2 ^ wFld v 5 0 * 2 ^ wFld v 5 0, size := wFld v 5 0,
                  valid := wBit v 31 && decide (12 ≤ wFld v 5 0 ∧ wFld v 5 0 ≤ 32), rmask := s.rd (Reg.PRT_WIN_RMASK k), wmask := s.rd (Reg.PRT_WIN_WMASK k) }
    ∧ (∀ j, j ≠ k.val → t.win j = s.win j) ∧ t.rd (Reg.PRT_WIN_CTRL k) = v &&& 0x8000003F ∧ s.OnlyRegs { t with hst := s.hst } [Reg.PRT_WIN_CTRL k])
  ∧ (∀ (s : State) (m k : Fin 32) (v : Word), m.val ≠ 0 → s.may m (Reg.PRT_WIN_CTRL k) true →
    ∃ t, exec (.windowApply m k v) s = .next t ∧ t.fld Reg.SYS_LK_DENY 28 24 = m.val ∧ s.OnlyRegs t [Reg.SYS_LK_DENY])
  ∧ (∀ (s : State) (m : Fin 32) (h : Fin 4), m.val = 16 + h.val →
    (s.may m Reg.HST_IMG_LATCH false →
      (∀ b n, (s.land h).newest = some (b, n) → ∃ t, exec (.imageLatch m) s = .next t ∧ (t.land h).pinned = some b
        ∧ (t.land h).cpl = (if (s.pcieFunction h).isSome then some (Completion.data (leBytes 4 (bitW 31 ||| mkFld 25 24 b ||| mkFld 15 0 n.toNat).toNat))
            else (s.land h).cpl)
        ∧ { t.land h with pinned := (s.land h).pinned, cpl := (s.land h).cpl } = s.land h ∧ (∀ k, k ≠ h.val → t.land k = s.land k) ∧ { t with hst := s.hst } = s)
      ∧ ((s.land h).newest = none → ∃ t, exec (.imageLatch m) s = .next t
        ∧ (t.land h).cpl = (if (s.pcieFunction h).isSome then some (Completion.data (leBytes 4 0)) else (s.land h).cpl)
        ∧ { t.land h with cpl := (s.land h).cpl } = s.land h ∧ (∀ k, k ≠ h.val → t.land k = s.land k) ∧ { t with hst := s.hst } = s))
    ∧ (∀ v, s.may m Reg.HST_IMG_RELEASE true → ∀ c ∈ [Instr.imageRelease m v, .failoverAck m v],
        ∃ t, exec c s = .next t ∧ t.land h = { s.land h with pinned := if wBit v 0 then none else (s.land h).pinned, failover := (s.land h).failover && !wBit v 1 }
          ∧ (∀ k, k ≠ h.val → t.land k = s.land k) ∧ { t with hst := s.hst } = s)
    ∧ (∀ v, s.may m Reg.HST_COMMIT true →
        (wBit v 31 = true → wBit v 30 = false → ∃ t, exec (.commitArm m v) s = .next t
          ∧ (t.land h).commit = some (s.rd (midKey m Reg.HST_COMMIT_CYC), decide (sdiff (s.rd (midKey m Reg.HST_COMMIT_CYC)) s.tb.cyc ≤ 0))
          ∧ t.bit (midKey m Reg.HST_COMMIT_STAT) 31 = true ∧ (∀ k, k ≠ h.val → t.land k = s.land k)
          ∧ s.OnlyRegs { t with hst := s.hst } [midKey m Reg.HST_COMMIT_STAT])
        ∧ (wBit v 30 = true → ∃ t, exec (.commitCancel m v) s = .next t ∧ (t.land h).commit = none ∧ t.bit (midKey m Reg.HST_COMMIT_STAT) 31 = false
          ∧ (∀ k, k ≠ h.val → t.land k = s.land k) ∧ s.OnlyRegs { t with hst := s.hst } [midKey m Reg.HST_COMMIT_STAT])))
  ∧ (∀ (s : State) (m : Fin 32) (v : Word), 20 ≤ m.val ∨ (10 ≤ m.val ∧ m.val < 16) →
      (s.issues m Reg.HST_IMG_LATCH false = false ∨ s.allowed m Reg.HST_IMG_LATCH 4 false = true → exec (.imageLatch m) s = .next s)
      ∧ (s.issues m Reg.HST_COMMIT true = false ∨ s.allowed m Reg.HST_COMMIT 4 true = true → exec (.commitArm m v) s = .next s))
  ∧ (∀ (s : State) (h : Fin 4) (p : Fin 2),
    (s.landPort h = some p.val → ∃ t, exec (.hostReset p (.function h)) s = .next t ∧ (t.land h).pinned = none ∧ (t.land h).commit = none
      ∧ t.bit Reg.HST_EVT 27 = true ∧ t.bit (midKey (16 + h) Reg.HST_COMMIT_STAT) 31 = false ∧ (∀ k, k ≠ h.val → t.land k = s.land k) ∧ s.SameMemory t)
    ∧ (s.landPort h ≠ some p.val → exec (.hostReset p (.function h)) s = .next s))
  ∧ (∀ (s : State) (p : Fin 2),
    (∃ t, exec (.hostReset p .hot) s = .next t ∧ (∀ k, k < 4 → s.landPort k = some p.val → (t.land k).pinned = none ∧ (t.land k).commit = none
          ∧ t.bit Reg.HST_EVT 27 = true)
      ∧ (∀ k, s.landPort k ≠ some p.val → t.land k = s.land k) ∧ t.rd (Reg.HST_PCIE_STAT p) = s.rd (Reg.HST_PCIE_STAT p) ∧ s.SameMemory t)
    ∧ (s.bit (Reg.HST_PCIE_STAT p) 31 = true →
      ∃ t, exec (.hostReset p .linkDown) s = .next t ∧ (∀ k, k < 4 → s.landPort k = some p.val → (t.land k).pinned = none ∧ (t.land k).commit = none
          ∧ t.bit Reg.HST_EVT 27 = true)
        ∧ (∀ k, s.landPort k ≠ some p.val → t.land k = s.land k) ∧ t.bit (Reg.HST_PCIE_STAT p) 31 = false ∧ t.fld (Reg.HST_PCIE_STAT p) 29 28 = 0
        ∧ t.fld (Reg.HST_PCIE_STAT p) 25 24 = 0 ∧ t.bit Reg.HST_EVT 26 = true ∧ s.SameMemory t)
    ∧ (s.bit (Reg.HST_PCIE_STAT p) 31 = false → exec (.hostReset p .linkDown) s = .next s))
  ∧ (∀ (s : State) (p : Fin 2) (sp w : Fin 4), s.mode ≠ mOFF → s.mode ≠ mRESET → sp.val ≠ 0 → w.val = 1 ∨ w.val = 2 →
    ∃ t, exec (.pcieLinkUp p sp w) s = .next t ∧ t.bit (Reg.HST_PCIE_STAT p) 31 = true ∧ t.fld (Reg.HST_PCIE_STAT p) 29 28 = sp.val
      ∧ t.fld (Reg.HST_PCIE_STAT p) 25 24 = w.val ∧ t.fld (Reg.HST_PCIE_STAT p) 18 16 = countN 4 (fun h => s.landPort h == some p.val)
      ∧ s.OnlyRegs t [Reg.HST_PCIE_STAT p])
  ∧ ∀ (s : State) (e : Fin 2),
    (s.bit (Reg.HST_ETH_CFG e) 31 = true → ∃ t, exec (.ethernetLinkUp e) s = .next t ∧ t.bit (Reg.HST_ETH_CFG e) 28 = true ∧ s.OnlyRegs t [Reg.HST_ETH_CFG e])
    ∧ (s.bit (Reg.HST_ETH_CFG e) 31 = false → exec (.ethernetLinkUp e) s = .next s)
    ∧ (s.bit (Reg.HST_ETH_CFG e) 28 = true → ∃ t, exec (.ethernetLinkDown e) s = .next t ∧ t.bit (Reg.HST_ETH_CFG e) 28 = false ∧ t.bit Reg.HST_EVT 26 = true
        ∧ s.OnlyRegs t [Reg.HST_ETH_CFG e, Reg.HST_EVT])
    ∧ (s.bit (Reg.HST_ETH_CFG e) 28 = false → exec (.ethernetLinkDown e) s = .next s)

/-- R291 to R299, R301. Host h has MID 16 + h; a slot of a ring is 2048 bytes with the frame from byte 16. A response goes to where the last request came
from, under the port's own address and ZPORT. -/
def Obligations.ZhevuAndEthernet : Prop :=
  (∀ (s : State) (h : Fin 4) (e : Nat) (p : ZPeer) (q : List Byte → Datagram), s.landEth h = some e → (s.land h).peer = some p →
    q = Datagram.mk (s.rd (Reg.HST_ETH_IP4 e)).toNat (s.fld (Reg.HST_ETH_CFG e) 15 0) p →
    (∀ (a : Word) (n : Fin 257), a.toNat % 4 = 0 → hallBase ≤ a.toNat → a.toNat + 4 * n ≤ hallBase + 0x800000 →
      (∀ i, i < n.val → s.allowed (16 + h) (a.toNat + 4 * i) 4 false = true ∧ s.hallBad (a.toNat - hallBase + 4 * i) = false) →
      ∃ t, exec (.zhevuRead h a n) s = .next t
        ∧ Table.get (fun _ => none) t.hst.zhevuTx h
            = some (q ([1, 0] ++ leBytes 2 n ++ leBytes 4 a.toNat ++ bytesOf ((List.range n).map (fun i => s.hallWord (a.toNat - hallBase + 4 * i)))))
        ∧ { t with hst := { t.hst with zhevuTx := s.hst.zhevuTx } } = s)
    ∧ (∀ (a : Word) (n : Fin 257), a.toNat % 4 ≠ 0 → 1 ≤ n.val →
      ∃ t d, exec (.zhevuRead h a n) s = .next t ∧ Table.get (fun _ => none) t.hst.zhevuTx h = some (q d) ∧ d.take 2 = [1, 3]
        ∧ t.rd Reg.PRT_DCNT = s.rd Reg.PRT_DCNT + 1
        ∧ s.OnlyRegs { t with free := s.free, hst := { t.hst with zhevuTx := s.hst.zhevuTx } } [Reg.PRT_DCNT, Reg.PRT_DENY, Reg.PRT_DADDR])
    ∧ (∀ (a : Word) (d : List Word), 1 ≤ d.length → d.length ≤ 256 → a.toNat % 4 = 0 → hallBase ≤ a.toNat → a.toNat + 4 * d.length ≤ hallBase + 0x800000 →
      ((∀ i, i < d.length → s.allowed (16 + h) (a.toNat + 4 * i) 4 true = true ∧ s.hallBad (a.toNat - hallBase + 4 * i) = false) →
        ∃ t, exec (.zhevuWrite h a d) s = .next t ∧ Table.get (fun _ => none) t.hst.zhevuTx h = some (q ([2, 0] ++ leBytes 2 d.length ++ leBytes 4 a.toNat))
          ∧ (∀ i, i < d.length → some (t.hallWord (a.toNat - hallBase + 4 * i)) = d[i]?)
          ∧ (∀ o, o < a.toNat - hallBase ∨ a.toNat - hallBase + 4 * d.length ≤ o → t.hallByte o = s.hallByte o)
          ∧ { t with hall := s.hall, hst := { t.hst with zhevuTx := s.hst.zhevuTx } } = s)
      ∧ (s.allowed (16 + h) a.toNat 4 true = false →
        ∃ t, exec (.zhevuWrite h a d) s = .next t ∧ Table.get (fun _ => none) t.hst.zhevuTx h = some (q ([2, 1] ++ leBytes 2 d.length ++ leBytes 4 a.toNat))
          ∧ t.rd Reg.PRT_DCNT = s.rd Reg.PRT_DCNT + 1 ∧ t.hall = s.hall
          ∧ s.OnlyRegs { t with hst := { t.hst with zhevuTx := s.hst.zhevuTx } } [Reg.PRT_DCNT, Reg.PRT_DENY, Reg.PRT_DADDR]))
    ∧ (∀ (ch : Fin 64) (b : Word),
      (s.allowed (16 + h) (Reg.MBX_CH_DBSET ch) 4 true = true → s.sends ch (16 + h) = true →
        ∃ t, exec (.zhevuDoorbell h ch b) s = .next t ∧ t.rd (Reg.MBX_CH_DB ch) = s.rd (Reg.MBX_CH_DB ch) ||| (b &&& maskW 29 0)
          ∧ Table.get (fun _ => none) t.hst.zhevuTx h = some (q ([3, 0] ++ leBytes 2 1 ++ leBytes 4 ch)) ∧ s.SameMemory t
          ∧ s.RegsBut t (Reg.MBX_CH_DB ch :: Reg.TSU_PWR :: deliveryRegs))
      ∧ (s.allowed (16 + h) (Reg.MBX_CH_DBSET ch) 4 true = true → s.sends ch (16 + h) = false →
        ∃ t, exec (.zhevuDoorbell h ch b) s = .next t ∧ t.bit Reg.MBX_EVT 30 = true
          ∧ Table.get (fun _ => none) t.hst.zhevuTx h = some (q ([3, 6] ++ leBytes 2 1 ++ leBytes 4 ch))
          ∧ s.OnlyRegs { t with hst := { t.hst with zhevuTx := s.hst.zhevuTx } } [Reg.MBX_EVT])
      ∧ (s.allowed (16 + h) (Reg.MBX_CH_DBSET ch) 4 true = false →
        ∃ t, exec (.zhevuDoorbell h ch b) s = .next t ∧ t.rd Reg.PRT_DCNT = s.rd Reg.PRT_DCNT + 1
          ∧ Table.get (fun _ => none) t.hst.zhevuTx h = some (q ([3, 1] ++ leBytes 2 1 ++ leBytes 4 ch))))
    ∧ ∀ ch : Fin 64, s.receives ch (16 + h) = true → s.belled ch = true →
      ∃ t, exec (.zhevuNotify ch) s = .next t ∧ Table.get (fun _ => none) t.hst.zhevuTx h
          = some (q ([0x56, 0x5A, 1, 3] ++ leBytes 2 (s.land h).notifySeq ++ [byte h, 1, 3, 0] ++ leBytes 2 1 ++ leBytes 4 ch
            ++ bytesOf [s.rd (Reg.MBX_CH_DB ch) &&& ~~~ s.rd (Reg.MBX_CH_MASK ch)]))
        ∧ (t.land h).notifySeq = ((s.land h).notifySeq + 1) % 65536 ∧ { t with hst := s.hst } = s)
  ∧ (∀ (s : State) (e : Fin 2) (b : List Byte) (u : Udp), s.bit (Reg.HST_ETH_CFG e) 31 = true → s.zhevuUdp e b = some u → b.length ≤ 1518 → pauseFrame b = false →
    ∀ c ∈ [Instr.zhevuDatagram e b, .ethernetReceive e b true 0],
    ((∀ h, h < 4 → s.peerOf e u h = false) → ∃ t, exec c s = .next t ∧ t.bit Reg.HST_EVT 30 = true ∧ s.OnlyRegs t [Reg.HST_EVT])
    ∧ (∀ h, lowest 4 (s.peerOf e u) = some h → s.mode ≠ mMINIMAL →
        leAt u.data 0 2 = 0x5A56 → byteAt u.data 2 = 1 → byteAt u.data 6 = h → 1 ≤ byteAt u.data 7 → byteAt u.data 7 ≤ 32 → 8 ≤ u.data.length →
        (byteAt u.data 3).testBit 2 = false → ∀ p : ZPeer, p = ⟨u.src, u.port, u.mac⟩ →
        (∀ r, (s.land h).kept = some (leAt u.data 4 2, u.data.length, r) →
          ∃ t, exec c s = .next t ∧ (t.land h).peer = some p ∧ { t with hst := s.hst } = s
            ∧ Table.get (fun _ => none) t.hst.zhevuTx h = some ⟨(s.rd (Reg.HST_ETH_IP4 e)).toNat, s.fld (Reg.HST_ETH_CFG e) 15 0, p, r⟩)
        ∧ (∀ cs, (s.land h).kept = none → cs = zCmds (leBytes 4 (s.resv 658).toNat ++ leBytes 4 (s.resv 659).toNat) (byteAt u.data 7) (u.data.drop 8) →
            (∃ x ∈ cs, x.bad = true) →
            ∃ t, exec c s = .next t ∧ { t with free := s.free, hst := s.hst } = s ∧ (t.land h).kept = none
              ∧ Table.get (fun _ => none) t.hst.zhevuTx h
                = some ⟨(s.rd (Reg.HST_ETH_IP4 e)).toNat, s.fld (Reg.HST_ETH_CFG e) 15 0, p, zHeader u.data ++ zRefuse false cs⟩)
        ∧ (∀ cs, (s.land h).kept = none → cs = zCmds (leBytes 4 (s.resv 658).toNat ++ leBytes 4 (s.resv 659).toNat) (byteAt u.data 7) (u.data.drop 8) →
            (∀ x ∈ cs, x.bad = false) → u.data.length ≤ 1472 → zLength cs ≤ 1472 → ∀ s1, s1 = s.setLand h { s.land h with peer := some p } →
            ∃ t, exec c s = .next t
              ∧ ((s1.zRun (16 + h) cs).2.landEth h = some e.val → ((s1.zRun (16 + h) cs).2.land h).peer = some p →
                  Table.get (fun _ => none) t.hst.zhevuTx h = some ⟨((s1.zRun (16 + h) cs).2.rd (Reg.HST_ETH_IP4 e)).toNat,
                    (s1.zRun (16 + h) cs).2.fld (Reg.HST_ETH_CFG e) 15 0, p, zHeader u.data ++ (s1.zRun (16 + h) cs).1⟩)
              ∧ (t.land h).kept = some (leAt u.data 4 2, u.data.length, zHeader u.data ++ (s1.zRun (16 + h) cs).1)
              ∧ t.hall = (s1.zRun (16 + h) cs).2.hall ∧ t.regs = (s1.zRun (16 + h) cs).2.regs ∧ t.law = (s1.zRun (16 + h) cs).2.law)))
  ∧ (∀ (s : State) (e : Fin 2) (b : List Byte) (ok : Bool) (f : Fin 32), s.bit (Reg.HST_ETH_CFG e) 31 = false ∨ ok = false ∨ 1518 < b.length ∨ pauseFrame b = true →
    exec (.ethernetReceive e b ok f) s = .next s)
  ∧ (∀ (s : State) (e : Fin 2) (b : List Byte) (f : Fin 32) (hd o : Nat), s.bit (Reg.HST_ETH_CFG e) 31 = true → b.length ≤ 1518 → pauseFrame b = false → s.zhevuUdp e b = none →
    hd = s.fld (Reg.HST_ETH_RXPTR e) 21 16 → o = s.fld (Reg.HST_ETH_RXRING e) 22 0 + 2048 * hd →
    ((hd + 1) % 64 = s.fld (Reg.HST_ETH_RXPTR e) 5 0 → ∃ t, exec (.ethernetReceive e b true f) s = .next t ∧ t.bit Reg.HST_EVT (29 - e) = true ∧ s.OnlyRegs t [Reg.HST_EVT])
    ∧ ((hd + 1) % 64 ≠ s.fld (Reg.HST_ETH_RXPTR e) 5 0 → o + 2048 ≤ 0x800000 →
      (∀ i, i < 512 → s.allowed 13 (hallBase + (o + 4 * i)) 4 true = true ∧ s.hallBad (o + 4 * i) = false) →
      ∃ t, exec (.ethernetReceive e b true f) s = .next t ∧ t.fld (Reg.HST_ETH_RXPTR e) 21 16 = (hd + 1) % 64 ∧ leNat (t.hallBytes o 2) = b.length
        ∧ t.hallBytes (o + 16) b.length = b ∧ (∀ x, x < o ∨ o + 2048 ≤ x → t.hallByte x = s.hallByte x) ∧ t.pv = s.pv ∧ t.law = s.law))
  ∧ ∀ (s : State) (e : Fin 2) (f : Fin 32) (hd o : Nat), s.bit (Reg.HST_ETH_CFG e) 31 = true → hd = s.fld (Reg.HST_ETH_TXPTR e) 21 16 →
    o = s.fld (Reg.HST_ETH_TXRING e) 22 0 + 2048 * hd →
    (hd = s.fld (Reg.HST_ETH_TXPTR e) 5 0 → exec (.ethernetTransmit e f) s = .next s)
    ∧ (hd ≠ s.fld (Reg.HST_ETH_TXPTR e) 5 0 → o + 2048 ≤ 0x800000 →
      (∀ i, i < 512 → s.allowed 13 (hallBase + (o + 4 * i)) 4 false = true ∧ s.hallBad (o + 4 * i) = false) →
      ∀ g, g = s.hallBytes (o + 16) (min (leNat (s.hallBytes o 2)) 2032) →
      ∃ t, exec (.ethernetTransmit e f) s = .next t ∧ t.fld (Reg.HST_ETH_TXPTR e) 21 16 = (hd + 1) % 64
        ∧ Table.get (fun _ => []) t.hst.ethTx e = g ++ List.replicate (60 - g.length) 0 ++ leBytes 4 (crc32 (g ++ List.replicate (60 - g.length) 0))
        ∧ s.SameMemory t)

/-- R371 to R374. The messages are served in the order of posting: the first posted of those that a channel back can answer. Operations 1 ERASE,
2 WRITE, 3 VERIFY, 4 COPY, 5 FUSE, 6 SETREC; the answer is written to the unit x names (the model's operand, log entry 55), status in byte 1. -/
def Obligations.UpdateMessages : Prop :=
  (∀ (s : State) (ch : Fin 64) (x : UpdAns) (f : Bool) (op : Nat) (c : Instr),
    (op, c) ∈ [(1, Instr.updateErase ch x), (2, .updateWrite ch x), (3, .updateVerify ch x f), (4, .updateCopy ch x f), (5, .updateFuse ch x), (6, .updateSetrec ch x)] →
    (s.nextMessage ≠ some ch.val ∨ s.hasMessage ch op = false ∨ s.answersOn ch x.back = false → exec c s = .next s)
    ∧ (s.nextMessage = some ch.val → s.hasMessage ch op = true → s.answersOn ch x.back = true → s.mode ≠ mMINIMAL → s.mode ≠ mMAINTENANCE →
        ∃ t, exec c s = .next t ∧ t.hallByte (8 * x.unit) = byte op ∧ t.hallByte (8 * x.unit + 1) = 6 ∧ t.pv = s.pv
          ∧ (∀ o, o < 8 * x.unit.val ∨ 8 * x.unit.val + 8 ≤ o → t.hallByte o = s.hallByte o)))
  ∧ (∀ (s : State) (ch : Fin 64) (x : UpdAns) (sl : Nat), s.nextMessage = some ch.val → s.hasMessage ch 1 = true → s.answersOn ch x.back = true → s.mode = mMINIMAL ∨ s.mode = mMAINTENANCE →
    sl = s.msgFld ch 1 1 →
    (1 < sl → ∃ t, exec (.updateErase ch x) s = .next t ∧ t.hallByte (8 * x.unit + 1) = 3 ∧ t.pv = s.pv)
    ∧ (sl ≤ 1 → s.mayChange ch sl = false → ∃ t, exec (.updateErase ch x) s = .next t ∧ t.hallByte (8 * x.unit + 1) = 2 ∧ t.pv = s.pv)
    ∧ (sl ≤ 1 → s.mayChange ch sl = true → s.sys.guard = true → ∃ t, exec (.updateErase ch x) s = .next t ∧ t.hallByte (8 * x.unit + 1) = 1 ∧ t.pv = s.pv)
    ∧ (sl ≤ 1 → s.mayChange ch sl = true → s.sys.guard = false → x.cut = none →
      ∃ t, exec (.updateErase ch x) s = .next t ∧ t.hallByte (8 * x.unit + 1) = 0 ∧ t.verified sl = false
        ∧ (∀ a, sl * 0x1000000 ≤ a → a < (sl + 1) * 0x1000000 → t.flashByte a = 0xFF)
        ∧ (∀ a, a < sl * 0x1000000 ∨ (sl + 1) * 0x1000000 ≤ a → t.flashByte a = s.flashByte a)
        ∧ (x.back ≠ ch → t.bit (Reg.MBX_CH_STAT ch) 31 = false))
    ∧ (sl ≤ 1 → s.mayChange ch sl = true → s.sys.guard = false → ∀ k g, x.cut = some (k, g) →
      ∃ t, exec (.updateErase ch x) s = .next t ∧ t.hallByte (8 * x.unit + 1) = (if g then 1 else 4) ∧ t.sys.guard = g ∧ t.verified sl = false
        ∧ (∀ a, a < sl * 0x1000000 ∨ sl * 0x1000000 + 0x10000 * min k 256 ≤ a → t.flashByte a = s.flashByte a)))
  ∧ (∀ (s : State) (ch : Fin 64) (x : UpdAns) (sl o n D : Nat), s.nextMessage = some ch.val → s.hasMessage ch 2 = true → s.answersOn ch x.back = true → s.mode = mMINIMAL ∨ s.mode = mMAINTENANCE →
    sl = s.msgFld ch 1 1 → o = s.msgFld ch 4 4 → n = s.msgFld ch 8 4 → D = s.fld (Reg.MBX_CH_DESCLO ch) 22 0 →
    (1 < sl ∨ o % 256 ≠ 0 ∨ n = 0 ∨ 65536 < n ∨ 0x1000000 < o + n → ∃ t, exec (.updateWrite ch x) s = .next t ∧ t.hallByte (8 * x.unit + 1) = 3 ∧ t.pv = s.pv)
    ∧ (sl ≤ 1 → o % 256 = 0 → 1 ≤ n → n ≤ 65536 → o + n ≤ 0x1000000 → D + 12 + n ≤ 0x800000 → s.mayChange ch sl = true → s.sys.guard = false → x.cut = none →
      ∃ t, exec (.updateWrite ch x) s = .next t ∧ t.hallByte (8 * x.unit + 1) = 0 ∧ t.verified sl = false
        ∧ (∀ i, i < n → s.flashByte (sl * 0x1000000 + o + i) = 0xFF → t.flashByte (sl * 0x1000000 + o + i) = s.hallByte (D + 12 + i))
        ∧ (∀ a, a < sl * 0x1000000 + o ∨ sl * 0x1000000 + o + n ≤ a → t.flashByte a = s.flashByte a)))
  ∧ (∀ (s : State) (ch : Fin 64) (x : UpdAns) (f : Bool) (sl : Nat), s.nextMessage = some ch.val → s.hasMessage ch 3 = true → s.answersOn ch x.back = true → s.mode = mMINIMAL ∨ s.mode = mMAINTENANCE →
    sl = s.msgFld ch 1 1 → sl ≤ 1 →
    (∀ c, s.verify f sl = some c → ∃ t, exec (.updateVerify ch x f) s = .next t ∧ t.hallByte (8 * x.unit + 1) = 5 ∧ leNat (t.hallBytes (8 * x.unit + 4) 4) = c.toNat
      ∧ t.pv = s.pv ∧ t.verified sl = s.verified sl)
    ∧ (s.verify f sl = none → ∃ t, exec (.updateVerify ch x f) s = .next t ∧ t.hallByte (8 * x.unit + 1) = 0 ∧ t.pv = s.pv ∧ t.verified sl = true
      ∧ t.verified (1 - sl) = s.verified (1 - sl)))
  ∧ (∀ (s : State) (ch : Fin 64) (x : UpdAns) (f : Bool) (sl : Nat), s.Canonical → s.nextMessage = some ch.val → s.hasMessage ch 4 = true → s.answersOn ch x.back = true →
    s.mode = mMINIMAL ∨ s.mode = mMAINTENANCE → sl = s.msgFld ch 1 1 → sl ≤ 1 → s.mayChange ch sl = true → s.sys.guard = false → x.cut = none →
    ∃ t, exec (.updateCopy ch x f) s = .next t
      ∧ (∀ i, i < 0x1000000 → t.flashByte (sl * 0x1000000 + i) = s.flashByte ((1 - sl) * 0x1000000 + i) ∧ t.flashByte ((1 - sl) * 0x1000000 + i) = s.flashByte ((1 - sl) * 0x1000000 + i))
      ∧ (t.verified sl = true ↔ t.hallByte (8 * x.unit + 1) = 0) ∧ (t.verified sl = false ↔ t.hallByte (8 * x.unit + 1) = 5))
  ∧ (∀ (s : State) (ch : Fin 64) (x : UpdAns), s.nextMessage = some ch.val → s.hasMessage ch 5 = true → s.answersOn ch x.back = true → s.mode = mMINIMAL ∨ s.mode = mMAINTENANCE →
    (wBit s.pv.fuse 31 = true → ∃ t, exec (.updateFuse ch x) s = .next t ∧ t.hallByte (8 * x.unit + 1) = 7 ∧ t.pv = s.pv)
    ∧ (wBit s.pv.fuse 31 = false → ∃ t, exec (.updateFuse ch x) s = .next t ∧ t.hallByte (8 * x.unit + 1) = 0
        ∧ t.pv.fuse = s.pv.fuse ||| (word (s.msgFld ch 12 4) &&& maskW 31 29) ∧ t.pv.kh0 = s.pv.kh0 ||| s.msgFld ch 16 32 ∧ t.pv.kh1 = s.pv.kh1 ||| s.msgFld ch 48 32
        ∧ t.pv.words = s.pv.words ∧ t.pv.flash = s.pv.flash))
  ∧ ∀ (s : State) (ch : Fin 64) (x : UpdAns), s.nextMessage = some ch.val → s.hasMessage ch 6 = true → s.answersOn ch x.back = true → s.mode = mMINIMAL ∨ s.mode = mMAINTENANCE →
    (s.sys.guard = true → ∃ t, exec (.updateSetrec ch x) s = .next t ∧ t.hallByte (8 * x.unit + 1) = 1 ∧ t.bit Reg.PREG_EVT 31 = true ∧ t.pv = s.pv)
    ∧ (s.sys.guard = false → ∃ t, exec (.updateSetrec ch x) s = .next t ∧ t.hallByte (8 * x.unit + 1) = 0
        ∧ (∀ i, i < 16 → t.preg (48 + i) = word (s.msgFld ch (12 + 4 * i) 4)) ∧ t.pv.flash = s.pv.flash)

/-- R152, R382, R383, R386, R388, R390 to R394, R398. A beacon is due at a tick 0 where none was sent, else a whole number of BPER ticks after the last
one. PAIR_STAT: 31:29 role (1 active, 2 standby, 3 yielded), 28 link, 25 checkpoint held, 23:20 and 19:16 health of
this unit and of the partner. -/
def Obligations.PairUnit : Prop :=
  (∀ s : State, (s.pairEn = true → ∃ t, exec .partnerLinkUp s = .next t ∧ t.bit Reg.PAIR_STAT 28 = true ∧ s.OnlyRegs t [Reg.PAIR_STAT])
    ∧ (s.pairEn = false → exec .partnerLinkUp s = .next s)
    ∧ ∃ t, exec .partnerLinkLost s = .next t ∧ t.bit Reg.PAIR_STAT 28 = false ∧ s.OnlyRegs t [Reg.PAIR_STAT])
  ∧ (∀ (s : State) (f : Fin 32), (s.pairEn = false ∨ s.beaconDue = false → exec (.beaconSend f) s = .next s)
    ∧ (s.beaconDue = true ↔ (s.pair.sentAt = none ∧ s.tb.ctick = 0)
        ∨ ∃ b, s.pair.sentAt = some b ∧ b < s.tb.tick ∧ (s.tb.tick - b) % s.fld Reg.PAIR_BPER 16 0 = 0)
    ∧ (s.pairEn = true → s.beaconDue = true → ∃ t, exec (.beaconSend f) s = .next t ∧ t.fld Reg.PAIR_STAT 23 20 = s.health
        ∧ t.pair.tx.take 8 = [1, 1, 32, 0] ++ leBytes 4 (Table.get (fun _ => 0) s.pair.seqs 1) ∧ t.pair.tx.length = 44 ∧ t.pair.sentAt = some s.tb.tick
        ∧ (s.pairRole = 1 → s.health = 15 → t.pair.leaseEnd = some (s.tb.tick + s.lease))
        ∧ (s.pairRole ≠ 1 ∨ s.health ≠ 15 → t.pair.leaseEnd = s.pair.leaseEnd)
        ∧ s.OnlyRegs { t with free := s.free, pair := s.pair } [Reg.PAIR_STAT]))
  ∧ (∀ (s : State) (e : Nat), s.pair.leaseEnd = some e → s.pairRole = 1 → s.tb.ctick = 0 → e ≤ s.tb.tick →
    ∃ t, exec .leaseLapse s = .next t ∧ t.pairRole = 3 ∧ t.bit Reg.PAIR_EVT 30 = true ∧ t.pair.leaseEnd = none ∧ t.saf.xdem = 255
      ∧ (∀ n, n < 12 → s.segEn n = true → t.segState n = 4) ∧ (∀ g, g < 8 → t.fld (Reg.SAF_GRP g) 23 20 = 2)
      ∧ s.SameStore t)
  ∧ (∀ s : State, s.pair.leaseEnd = none ∨ s.pairRole ≠ 1 ∨ s.tb.ctick ≠ 0 ∨ (∃ e, s.pair.leaseEnd = some e ∧ s.tb.tick < e) → exec .leaseLapse s = .next s)
  ∧ (∀ (s : State) (ok : Bool) (b : List Byte) (f : Fin 32) (k : Option (Fin 256)) (c : Fin 2048) (l : Nat), l = leAt b 2 2 →
    (s.pairEn = false ∨ s.bit Reg.PAIR_STAT 28 = false → exec (.partnerFrameReceive ok b f k c) s = .next s)
    ∧ (s.pairEn = true → s.bit Reg.PAIR_STAT 28 = true →
      (ok = false ∨ b.length ≠ 12 + l ∨ 1024 < l ∨ byteAt b 1 ≠ 1 ∨ crc32 (b.take (8 + l)) ≠ leAt b (8 + l) 4 →
        ∃ t, exec (.partnerFrameReceive ok b f k c) s = .next t ∧ t.rd Reg.PAIR_ERRCNT = s.rd Reg.PAIR_ERRCNT + 1 ∧ s.OnlyRegs t [Reg.PAIR_ERRCNT])
      ∧ (ok = true → b.length = 12 + l → l ≤ 1024 → byteAt b 1 = 1 → crc32 (b.take (8 + l)) = leAt b (8 + l) 4 →
        (byteAt b 0 = 1 → 32 ≤ l → ∃ t, exec (.partnerFrameReceive ok b f k c) s = .next t ∧ t.pair.beaconAt = some s.tb.tick ∧ t.pair.heard = some (byteAt b 8)
            ∧ t.fld Reg.PAIR_STAT 19 16 = byteAt b 9 % 16 ∧ (byteAt b 9 % 16 ≠ 15 → t.bit Reg.PAIR_EVT 25 = true) ∧ s.SameMemory t
            ∧ s.RegsBut t [Reg.PAIR_STAT, Reg.PAIR_EVT, Reg.PAIR_DLY])
        ∧ (byteAt b 0 = 2 → s.mode = mSTANDBY → s.sys.guard = false → l = 1024 → leAt b 4 4 % 64 = 63 → s.pair.inp.length = 64512 → leAt b 4 4 = s.pair.inSeq + 1 →
            ∀ p, p = s.pair.inp ++ (b.drop 8).take 1024 →
            (crc32 (p.drop 64) = leAt p 60 4 → ∃ t, exec (.partnerFrameReceive ok b f k c) s = .next t ∧ t.pair.held = p ∧ t.bit Reg.PAIR_STAT 25 = true
              ∧ t.rd Reg.PAIR_CPCYC = word (leAt p 0 4) ∧ t.rd Reg.PAIR_CPCNT = s.rd Reg.PAIR_CPCNT + 1
              ∧ s.OnlyRegs { t with pair := s.pair } [Reg.PAIR_STAT, Reg.PAIR_CPCYC, Reg.PAIR_CPCNT])
            ∧ (crc32 (p.drop 64) ≠ leAt p 60 4 → ∃ t, exec (.partnerFrameReceive ok b f k c) s = .next t ∧ t.pair.held = s.pair.held ∧ t.bit Reg.PAIR_EVT 27 = true
              ∧ s.OnlyRegs { t with pair := s.pair } [Reg.PAIR_EVT]))
        ∧ (byteAt b 0 = 3 → s.mode = mSTANDBY → ∀ a, k = some a → ∃ t, exec (.partnerFrameReceive ok b f k c) s = .next t
            ∧ (∀ w, w < 51 → t.rd (Reg.LAW_ACT_BANK a w) = word (leAt ((b.drop 8).take l) (4 * w) 4)) ∧ s.OnlyRegs t ((List.range 51).map (Reg.LAW_ACT_BANK a)))
        ∧ (byteAt b 0 = 4 → s.pairRole = 1 → ∃ t, exec (.partnerFrameReceive ok b f k c) s = .next t
            ∧ (∀ n, n < 12 → t.rd (Reg.PAIR_SPAN n) = word (leAt ((b.drop 8).take l) (4 * n) 4)) ∧ s.OnlyRegs t ((List.range 12).map Reg.PAIR_SPAN)))))
  ∧ (∀ s : State, (s.pairRole = 2 → ∃ t, exec .spanReportSend s = .next t
        ∧ t.pair.tx = pairFrame 4 (Table.get (fun _ => 0) s.pair.seqs 4) (bytesOf ((List.range 12).map (fun n => s.rd (Reg.PAIR_SPAN n)))) ∧ { t with pair := s.pair } = s)
    ∧ (s.pairRole ≠ 2 → exec .spanReportSend s = .next s))
  ∧ (∀ s : State, s.pairRole = 1 → s.sys.guard = false → s.pair.out ≠ [] →
    ∃ t, exec .checkpointChunkSend s = .next t
      ∧ t.pair.tx = pairFrame 2 (Table.get (fun _ => 0) s.pair.seqs 2) ((s.pair.out.drop (1024 * s.pair.outAt)).take 1024)
      ∧ (s.pair.outAt < 63 → t.pair.outAt = s.pair.outAt + 1 ∧ t.pair.out = s.pair.out ∧ { t with pair := s.pair } = s)
      ∧ (63 ≤ s.pair.outAt → t.pair.out = [] ∧ t.rd Reg.PAIR_CPCYC = word (leAt s.pair.out 0 4) ∧ t.rd Reg.PAIR_CPCNT = s.rd Reg.PAIR_CPCNT + 1))
  ∧ (∀ s : State, s.pairRole ≠ 1 ∨ s.pair.out = [] ∨ s.sys.guard = true → exec .checkpointChunkSend s = .next s)
  ∧ (∀ s : State, (s.pairRole ≠ 1 → exec .refreshChunkSend s = .next s)
    ∧ (∀ a l, s.pairRole = 1 → s.pair.banks = a :: l → ∃ t, exec .refreshChunkSend s = .next t ∧ t.pair.banks = l
        ∧ t.pair.tx = pairFrame 3 (Table.get (fun _ => 0) s.pair.seqs 3) (bytesOf ((List.range 51).map (fun w => s.rd (Reg.LAW_ACT_BANK a w))))
        ∧ { t with pair := s.pair } = s)
    ∧ (s.pairRole = 1 → s.pair.banks = [] → s.lrnChunks = 0 → exec .refreshChunkSend s = .next s))
  ∧ (∀ (s : State) (v : Word), wBit v 31 = true → s.pairRole = 1 → ∃ t, exec (.pairYield 0 v) s = .next t ∧ t = { s with pair := { s.pair with yield := true } })
  ∧ (∀ (s : State) (m : Fin 32) (v : Word), m.val ≠ 0 → s.may m Reg.PAIR_CTRL true →
    ∃ t, exec (.pairYield m v) s = .next t ∧ t.fld Reg.SYS_LK_DENY 28 24 = m.val ∧ s.OnlyRegs t [Reg.SYS_LK_DENY])
  ∧ (∀ (s : State) (n : Fin 12) (b : Bool) (ch : Nat) (f : RxFrame) (h : Hdr), ch = (if b then 1 else 0) → h = hdrOf f.bytes → s.mode = mSTANDBY →
      s.bit (Reg.TRN_PCFG n ch) 31 = true → (∀ m, m < 16 → (s.capOn m && s.capKind m == 1 && s.bit (Reg.CAP_S_SRC m) (2 * n + ch)) = false) →
      f.codeOk = true → f.bytes.length = 12 + byteAt f.bytes 6 → crc32 (f.bytes.take (8 + h.len)) = leAt f.bytes (8 + h.len) 4 →
      h.ver = 1 → h.allowed = true → h.seg = n.val → h.hid ≠ s.segHid n → h.type = 1 →
    (h.cyc = s.tb.cyc.toNat % 65536 → ∃ t, exec (.frameReceive ⟨n, b⟩ f) s = .next t ∧ t.rd (Reg.TRN_PRXOK n ch) = s.rd (Reg.TRN_PRXOK n ch) + 1
        ∧ t.pair.syncAt = some s.tb.tick ∧ t.bit (Reg.TRN_SSTAT n) 11 = true ∧ t.fld (Reg.TRN_SSTAT n) 10 8 = h.hid ∧ s.SameMemory t
        ∧ s.RegsBut t ([Reg.TRN_PRXOK n ch, Reg.TRN_PLAST n ch, Reg.TRN_SSTAT n, Reg.TRN_SEVT n, Reg.PAIR_SPAN n] ++ deliveryRegs)
        ∧ (ch = 1 → t.rd (Reg.PAIR_SPAN n) = s.rd (Reg.PAIR_SPAN n)))
    ∧ (h.cyc ≠ s.tb.cyc.toNat % 65536 → ∃ t, exec (.frameReceive ⟨n, b⟩ f) s = .next t ∧ t.rd (Reg.TRN_PHDR n ch) = s.rd (Reg.TRN_PHDR n ch) + 1
        ∧ t.bit (Reg.TRN_PSTAT n ch) 11 = true ∧ s.OnlyRaised t [Reg.TRN_PHDR n ch, Reg.TRN_PSTAT n ch]))
  ∧ (∀ s : State, s.mode = mSTANDBY → s.tb.ctick = 0 → s.trn.cold = none → s.pair.loading = false → s.lease + 200000 ≤ s.pairAbs →
    (s.bit Reg.PAIR_STAT 25 = true → ∃ t, exec .takeover s = .next t ∧ t.bit Reg.PAIR_EVT 31 = true ∧ t.fld Reg.PAIR_FOCNT 15 0 = (s.fld Reg.PAIR_FOCNT 15 0 + 1) % 65536
        ∧ t.rd Reg.PAIR_TKCYC = s.tb.cyc ∧ t.fld Reg.PAIR_TKSTAT 31 16 = min 65535 (s.tb.cyc - s.rd Reg.PAIR_CPCYC).toNat
        ∧ t.bit Reg.PAIR_TKSTAT 15 = s.bit Reg.PAIR_STAT 24 ∧ t.pair = { s.pair with loading := true }
        ∧ s.OnlyRegs { t with pair := s.pair } [Reg.PAIR_EVT, Reg.PAIR_FOCNT, Reg.PAIR_TKCYC, Reg.PAIR_TKSTAT])
    ∧ (s.bit Reg.PAIR_STAT 25 = false → ∃ t, exec .takeover s = .next t ∧ t.bit Reg.PAIR_EVT 28 = true ∧ s.OnlyRegs t [Reg.PAIR_EVT]))
  ∧ (∀ s : State, s.mode ≠ mSTANDBY ∨ s.tb.ctick ≠ 0 ∨ s.pair.loading = true ∨ s.trn.cold.isSome = true ∨ s.pairAbs < s.lease + 200000 → exec .takeover s = .next s)
  ∧ (∀ s : State, s.pair.loading = true → ∃ t, exec .takeoverLoadDone s = .next t ∧ t.trn.cold = some true ∧ t.pair.loading = false
      ∧ (∀ a, a < 256 → t.rd (Reg.LAW_POS_REF a) = word (leAt s.pair.held (0x40 + 48 * a) 4)
          ∧ (t.axis a).x = (List.range 6).map (fun i => leAt s.pair.held (0x40 + 48 * a + 20 + 2 * i) 2)))
  ∧ ∀ s : State, s.pair.loading = false → exec .takeoverLoadDone s = .next s

/-- R284, R285, R401 to R404, R406, R407, R430. SPR_EVT: 29 marked, 28 marked with cause 4; SPR_CTRL: 31 CRETIRE, 30 FORCE, 3:0 core. -/
def Obligations.SpareCapacity : Prop :=
  (∀ (s : State) (c : Fin 9),
    ((s.core c).state ≠ 0 → exec (.coreMemoryError c true) s = .next s)
    ∧ ((s.core c).state = 0 → ∀ k, s.spareCore = some k → ∃ t, exec (.coreMemoryError c true) s = .next t ∧ (t.core c).state = 2 ∧ (t.core c).cause = 4
        ∧ t.bit Reg.SPR_EVT 29 = true ∧ t.bit Reg.SPR_EVT 28 = true ∧ t.bit Reg.TSU_PWR k = true ∧ t.spr.swap = some ⟨c, 4, false, false, s.coreCor c⟩ ∧ t.hall = s.hall)
    ∧ (min 65535 (s.coreCor c + 1) < s.fld Reg.SPR_CFG 23 16 → ∃ t, exec (.coreMemoryError c false) s = .next t ∧ t.coreCor c = min 65535 (s.coreCor c + 1)
        ∧ { t with spr := s.spr } = s))
  ∧ (∀ (s : State) (v : Word) (l k : Nat), wBit v 31 = true → l = wFld v 3 0 → l < 9 → (s.core l).state = 0 → s.spareCore = some k →
    ∀ i ∈ [Instr.sprCretire 0 v, .sprForce 0 v], ∃ t, exec i s = .next t ∧ (t.core l).state = 2 ∧ (t.core l).cause = 2 ∧ t.bit Reg.SPR_EVT 29 = true
      ∧ t.spr.swap = some ⟨l, 2, wBit v 30, false, s.coreCor l⟩ ∧ t.hall = s.hall)
  ∧ (∀ (s : State) (m : Fin 32) (v : Word), m.val ≠ 0 → s.may m Reg.SPR_CTRL true → ∀ i ∈ [Instr.sprCretire m v, .sprForce m v],
    ∃ t, exec i s = .next t ∧ t.fld Reg.SYS_LK_DENY 28 24 = m.val ∧ s.OnlyRegs t [Reg.SYS_LK_DENY])
  ∧ (∀ (s : State) (r : Bool), s.spr.swap = none → exec (.spareCoreLoaded r) s = .next s)
  ∧ (∀ (s : State) (w : CoreSwap) (k : Nat), s.spr.swap = some w → w.loaded = false → lowest 9 (fun c => (s.core c).state == 1) = some k → k ≠ w.core →
    (∃ t, exec (.spareCoreLoaded false) s = .next t ∧ (t.core k).state = 4 ∧ t.spr.swap = none ∧ t.bit Reg.SPR_EVT 27 = true ∧ t.core w.core = s.core w.core)
    ∧ ∀ x, (s.sections (s.fld Reg.SYS_BOOT 27 27)).find? (fun x => x.type == 2 && x.param == w.core) = some x →
        crc32 (s.secBytes (s.fld Reg.SYS_BOOT 27 27) x) = x.scrc → ∃ t, exec (.spareCoreLoaded true) s = .next t ∧ t.spr.swap = some { w with loaded := true }
          ∧ (t.core k).lmem = memTable (s.secBytes (s.fld Reg.SYS_BOOT 27 27) x) ∧ (t.core k).state = 1 ∧ (∀ c, c ≠ k → t.core c = s.core c)
          ∧ t.regs = s.regs ∧ s.SameMemory t)
  ∧ (∀ (s : State) (m : Fin 32) (a : Word) (z : Fin 4), hallBase ≤ a.toNat → a.toNat < hallBase + 0x800000 →
    (∀ w : Option (List Byte), s.issues m a.toNat w.isSome = false → exec (.hallAccess m a z w 0) s = .next s)
    ∧ (a.toNat % 2 ^ z.val ≠ 0 → ∀ w : Option (List Byte), s.issues m a.toNat w.isSome = true → ∃ t, exec (.hallAccess m a z w 0) s = .next t ∧ t.rd Reg.PRT_DCNT = s.rd Reg.PRT_DCNT + 1
      ∧ (s.bit Reg.PRT_DENY 31 = false → t.fld Reg.PRT_DENY 9 8 = 3) ∧ t.hall = s.hall ∧ s.RegsBut t [Reg.PRT_DCNT, Reg.PRT_DENY, Reg.PRT_DADDR])
    ∧ (a.toNat % 2 ^ z.val = 0 → ∀ w : Option (List Byte), s.issues m a.toNat w.isSome = true → s.allowed m a.toNat (2 ^ z.val) w.isSome = false →
      ∃ t, exec (.hallAccess m a z w 0) s = .next t ∧ t.rd Reg.PRT_DCNT = s.rd Reg.PRT_DCNT + 1 ∧ t.hall = s.hall
        ∧ s.RegsBut t [Reg.PRT_DCNT, Reg.PRT_DENY, Reg.PRT_DADDR])
    ∧ (a.toNat % 2 ^ z.val = 0 → s.hallBad (a.toNat - hallBase) = true → s.issues m a.toNat false = true → s.allowed m a.toNat (2 ^ z.val) false = true →
      ∃ t, exec (.hallAccess m a z none 0) s = .next t ∧ t.hall = s.hall ∧ (m.val ≤ 9 → (t.core (midCore m)).exc = some .accessFault)
        ∧ ∀ h, hostOf m = some h → (s.pcieFunction h).isSome = true → (t.land h).cpl = some .abort)
    ∧ (a.toNat % 2 ^ z.val = 0 → s.hallBad (a.toNat - hallBase) = false →
      (s.issues m a.toNat false = true → s.allowed m a.toNat (2 ^ z.val) false = true →
        ∃ t, exec (.hallAccess m a z none 0) s = .next t ∧ { t with tsu := s.tsu, hst := s.hst } = s
        ∧ (m.val ≤ 9 → (t.core (midCore m)).readRes = word (leNat (s.hallBytes (a.toNat - hallBase) (2 ^ z.val))))
        ∧ ∀ h, hostOf m = some h → (s.pcieFunction h).isSome = true → (t.land h).cpl = some (.data (s.hallBytes (a.toNat - hallBase) (2 ^ z.val))))
      ∧ (s.issues m a.toNat true = true → s.allowed m a.toNat (2 ^ z.val) true = true → ∀ b, b.length = 2 ^ z.val → ∃ t, exec (.hallAccess m a z (some b) 0) s = .next t
        ∧ t.hallBytes (a.toNat - hallBase) (2 ^ z.val) = b
        ∧ (∀ o, o < a.toNat - hallBase ∨ a.toNat - hallBase + 2 ^ z.val ≤ o → t.hallByte o = s.hallByte o) ∧ { t with hall := s.hall } = s)))
  ∧ (∀ s : State, (s.spr.marked ≠ [] → ∃ t, exec .hallRowCopyDone s = .next t ∧ t.spr.copied = true ∧ { t with spr := s.spr } = s)
    ∧ (s.spr.marked = [] → exec .hallRowCopyDone s = .next s ∧ exec .hallMapDone s = .next s)
    ∧ (s.sys.guard = true → exec .hallMapDone s = .next s)
    ∧ (∀ r l k, s.spr.marked = r :: l → s.hallSpare = some k → s.spr.copied = true → s.spr.mapped = false → s.sys.guard = false →
      ∃ t, exec .hallMapDone s = .next t ∧ t.spr.mapped = true ∧ wBit (t.hmap k) 31 = true ∧ wFld (t.hmap k) 12 0 = r.row % 8192
        ∧ (∀ j, j ≠ k → t.hmap j = s.hmap j) ∧ t.regs = s.regs ∧ t.hall = s.hall))
  ∧ (∀ s : State, s.tb.tick / 2 ^ 40 ≤ s.spr.period → exec .trendPeriodEnd s = .next s)
  ∧ (∀ s : State, s.spr.period < s.tb.tick / 2 ^ 40 → ∃ t, exec .trendPeriodEnd s = .next t ∧ t.spr.period = s.tb.tick / 2 ^ 40
      ∧ t.spr.hallMax = highest (halved s.spr.rowCnt) ∧ t.spr.dramMax = highest (halved s.spr.drowCnt) ∧ (∀ c, c < 9 → t.coreCor c = 0) ∧ t.spr.hallCor = 0 ∧ t.spr.dramCor = 0 ∧ (∀ n, n < 18 → (t.lane n).trend = 32767)
      ∧ (s.sys.guard = false → ∀ n, n < 18 → t.preg (208 + n) = mkFld 31 16 (wrapN 16 (min (hiS (s.preg (208 + n))) (s.lane n).trend)) ||| mkFld 15 0 (wrapN 16 (s.lane n).trend))
      ∧ t.hall = s.hall)
  ∧ ∀ s : State, (s.spr.retry = [] → exec .stateWriteRetry s = .next s)
    ∧ (s.sys.guard = false → ∃ t, exec .stateWriteRetry s = .next t ∧ t.spr.retry = []
      ∧ (∀ n, n < 18 → 8 + n ∈ s.spr.retry → t.preg (8 + n) = laneWord (s.lane n)) ∧ t.hall = s.hall ∧ t.law = s.law)

/-- R17, R29, R49, R88, R185, R434. The snapshot is taken after the commits of this tick 0, and the registers it copies are not written after it. -/
def Obligations.CycleStart : Prop :=
  (∀ s : State, s.tb.running = false → exec .cycleStart s = .next s)
  ∧ ∀ s : State, s.tb.running = true →
    ∃ t, exec .cycleStart s = .next t ∧ t.tb.tick = s.tb.tick + (s.tb.len - s.tb.ctick) ∧ t.tb.ctick = 0
      ∧ t.tb.cyc = (if s.trn.cold = some false ∧ s.mode = mLISTEN ∧ s.trn.silence = 0 then 0 else s.tb.cyc + 1)
      ∧ (∀ a, a < 256 → (t.axis a).snap.cyc = t.tb.cyc ∧ (t.axis a).snap.pos = t.rd (Reg.LAW_POS_REF a) ∧ (t.axis a).snap.vel = t.rd (Reg.LAW_VEL_REF a)
          ∧ (t.axis a).snap.cur = t.rd (Reg.LAW_CUR_REF a) ∧ (t.axis a).snap.ff = t.rd (Reg.LAW_FF a) ∧ (t.axis a).snap.sfrz = t.bit (Reg.LAW_CTRL a) 0
          ∧ (t.axis a).prev = (s.axis a).snap)
      ∧ (∀ n, n < 528 → (t.source n).fresh = false)
      ∧ (∀ a, a < 256 → (∀ h, h < 4 → (s.land h).commit = none) → t.rd (Reg.LAW_POS_REF a) = s.rd (Reg.LAW_POS_REF a))
end

