-- ==== Sys2Proof/Laws/Bits.lean ====
section
/-! SUPPORT. Bits and fields of words: what a written bit or field reads as, and what it leaves alone. -/

namespace Sys2Proof.Machine

theorem getLsbD_word (n i : Nat) : (word n).getLsbD i = (decide (i < 32) && n.testBit i) := by rw [word, BitVec.getLsbD_ofNat]

@[simp] theorem getLsbD_bitW (i j : Nat) : (bitW i).getLsbD j = (decide (j < 32) && decide (i = j)) := by
  rw [bitW, getLsbD_word, Nat.testBit_two_pow]

theorem testBit_mask (hi lo i : Nat) (h : lo ≤ hi + 1) : (2 ^ (hi + 1) - 2 ^ lo).testBit i = (decide (lo ≤ i) && decide (i ≤ hi)) := by
  obtain ⟨k, hk⟩ := Nat.exists_eq_add_of_le h
  rw [hk, show 2 ^ (lo + k) - 2 ^ lo = 2 ^ lo * (2 ^ k - 1) by rw [Nat.mul_sub, ← pow_add, mul_one], Nat.testBit_two_pow_mul,
    Nat.testBit_two_pow_sub_one]
  by_cases hl : lo ≤ i
  · simp only [ge_iff_le, hl, decide_true, Bool.true_and, decide_eq_decide]; omega
  · simp [hl]

@[simp] theorem getLsbD_maskW (hi lo i : Nat) (h : lo ≤ hi + 1) :
    (maskW hi lo).getLsbD i = (decide (i < 32) && (decide (lo ≤ i) && decide (i ≤ hi))) := by
  rw [maskW, getLsbD_word, testBit_mask hi lo i h]

/-! ## Bits -/

theorem wBit_eq (w : Word) (i : Nat) : wBit w i = w.getLsbD i := rfl

@[simp] theorem wBit_or (v w : Word) (i : Nat) : wBit (v ||| w) i = (wBit v i || wBit w i) := by simp [wBit]
@[simp] theorem wBit_and (v w : Word) (i : Nat) : wBit (v &&& w) i = (wBit v i && wBit w i) := by simp [wBit]
theorem wBit_not (w : Word) {i : Nat} (h : i < 32) : wBit (~~~ w) i = !wBit w i := by simp [wBit, h]
theorem wBit_bitW (i j : Nat) : wBit (bitW i) j = (decide (j < 32) && decide (i = j)) := getLsbD_bitW i j
theorem wBit_mkBit (i j : Nat) (b : Bool) : wBit (mkBit i b) j = (b && (decide (j < 32) && decide (i = j))) := by
  cases b <;> simp [mkBit, wBit]

/-- A written bit reads as written. -/
theorem wBit_wSetBit_same (w : Word) {i : Nat} (h : i < 32) (b : Bool) : wBit (wSetBit w i b) i = b := by
  cases b <;> simp [wBit, wSetBit, h]

/-- A written bit leaves the other bits alone. -/
theorem wBit_wSetBit_other (w : Word) {i j : Nat} (h : i ≠ j) (b : Bool) : wBit (wSetBit w i b) j = wBit w j := by
  by_cases hj : j < 32
  · cases b <;> simp only [wBit, wSetBit, if_true, Bool.false_eq_true, if_false, BitVec.getLsbD_or, BitVec.getLsbD_and, BitVec.getLsbD_not,
      getLsbD_bitW, h, hj, decide_true, decide_false, Bool.and_false, Bool.or_false, Bool.not_false, Bool.and_true]
  · simp [wBit, BitVec.getLsbD_of_ge _ _ (Nat.le_of_not_lt hj)]

/-! ## Fields -/

theorem getLsbD_wSetFld (w : Word) (hi lo v i : Nat) (h : lo ≤ hi + 1) :
    (wSetFld w hi lo v).getLsbD i = (decide (i < 32) && if lo ≤ i ∧ i ≤ hi then v.testBit (i - lo) else w.getLsbD i) := by
  by_cases h32 : i < 32
  · by_cases hf : lo ≤ i ∧ i ≤ hi
    · simp only [wSetFld, BitVec.getLsbD_or, BitVec.getLsbD_and, BitVec.getLsbD_not, BitVec.getLsbD_shiftLeft, getLsbD_maskW _ _ _ h, getLsbD_word,
        h32, hf.1, hf.2, if_true, and_self, decide_true, Bool.and_self, Bool.not_true, Bool.and_false, Bool.false_or, Bool.true_and, Bool.and_true,
        show i - lo < 32 by omega, show (decide (i < lo)) = false by simpa using hf.1, Bool.not_false]
    · rw [if_neg hf]
      have : (decide (lo ≤ i) && decide (i ≤ hi)) = false := by simpa using hf
      simp only [wSetFld, BitVec.getLsbD_or, BitVec.getLsbD_and, BitVec.getLsbD_not, getLsbD_maskW _ _ _ h, h32, this, decide_true, Bool.and_false,
        Bool.or_false, Bool.true_and, Bool.not_false, Bool.and_true]
  · simp [BitVec.getLsbD_of_ge _ _ (Nat.le_of_not_lt h32), h32]

theorem testBit_wFld (w : Word) (hi lo i : Nat) : (wFld w hi lo).testBit i = (decide (i < hi + 1 - lo) && w.getLsbD (lo + i)) := by
  simp [wFld, Nat.testBit_mod_two_pow, Nat.testBit_shiftRight, BitVec.testBit_toNat]

/-- A written field reads as written, modulo its width. -/
theorem wFld_wSetFld_same (w : Word) {hi lo : Nat} (hl : lo ≤ hi) (h : hi < 32) (v : Nat) :
    wFld (wSetFld w hi lo v) hi lo = v % 2 ^ (hi + 1 - lo) := by
  apply Nat.eq_of_testBit_eq
  intro i
  rw [testBit_wFld, getLsbD_wSetFld _ _ _ _ _ (by omega), Nat.testBit_mod_two_pow]
  by_cases hi' : i < hi + 1 - lo
  · have : lo + i < 32 := by omega
    simp [hi', this, show lo + i ≤ hi by omega]
  · simp [hi']

/-- A written field leaves a field beside it alone. -/
theorem wFld_wSetFld_other (w : Word) {hi lo h2 l2 : Nat} (hl : lo ≤ hi) (hd : h2 < lo ∨ hi < l2) (v : Nat) :
    wFld (wSetFld w hi lo v) h2 l2 = wFld w h2 l2 := by
  apply Nat.eq_of_testBit_eq
  intro i
  rw [testBit_wFld, testBit_wFld, getLsbD_wSetFld _ _ _ _ _ (by omega)]
  by_cases h' : i < h2 + 1 - l2
  · rw [if_neg (by omega)]
    by_cases h32 : l2 + i < 32
    · simp [h', h32]
    · simp [h', h32, BitVec.getLsbD_of_ge _ _ (Nat.le_of_not_lt h32)]
  · simp [h']

/-- A field of one bit is that bit. -/
theorem wFld_one (w : Word) (i : Nat) : wFld w i i = (wBit w i).toNat := by
  apply Nat.eq_of_testBit_eq
  intro j
  rw [testBit_wFld, wBit]
  by_cases hj : j = 0
  · subst hj; cases w.getLsbD i <;> simp
  · rw [show decide (j < i + 1 - i) = false by simp; omega]
    cases w.getLsbD i <;> simp
    exact Nat.testBit_lt_two_pow (Nat.one_lt_two_pow hj)

theorem wFld_lt (w : Word) (hi lo : Nat) : wFld w hi lo < 2 ^ (hi + 1 - lo) := Nat.mod_lt _ (by positivity)

@[simp] theorem length_setAt {α : Type} : (l : List α) → (i : Nat) → (v : α) → (setAt l i v).length = l.length
  | [], _, _ => rfl
  | _ :: _, 0, _ => rfl
  | _ :: l, i + 1, v => congrArg (· + 1) (length_setAt l i v)

end Sys2Proof.Machine
end

