-- ==== Sys2Proof/Laws/Bytes.lean ====
section
/-! SUPPORT. Byte lists: a number read back from its bytes, a part read from a list, the range of a CRC. -/

namespace Sys2Proof.Machine

@[simp] theorem leBytes_length (k n : Nat) : (leBytes k n).length = k := by
  induction k generalizing n with
  | zero => rfl
  | succ k ih => simp [leBytes, ih]

/-- The number in its own k bytes, modulo their range. -/
theorem leNat_leBytes (k n : Nat) : leNat (leBytes k n) = n % 256 ^ k := by
  induction k generalizing n with
  | zero => simp [leBytes, leNat, Nat.mod_one]
  | succ k ih =>
    rw [leBytes, leNat, ih, show (byte n).toNat = n % 256 from BitVec.toNat_ofNat n 8, pow_succ', Nat.mod_mul]

theorem leNat_lt (l : List Byte) : leNat l < 256 ^ l.length := by
  induction l with
  | nil => simp [leNat]
  | cons b t ih =>
    have hb : b.toNat < 256 := b.isLt
    rw [leNat, List.length_cons, pow_succ']
    omega

/-- Bytes of the first part of a list. -/
theorem leAt_append_left (l m : List Byte) (i k : Nat) (h : i + k ≤ l.length) : leAt (l ++ m) i k = leAt l i k := by
  rw [leAt, leAt, List.drop_append_of_le_length (by omega), List.take_append_of_le_length (by simp; omega)]

/-- Bytes past the first part of a list. -/
theorem leAt_append_right (l m : List Byte) (i k : Nat) (h : l.length ≤ i) : leAt (l ++ m) i k = leAt m (i - l.length) k := by
  rw [leAt, leAt, List.drop_append, List.drop_of_length_le h, List.nil_append]

/-- A number laid down at the front of a list reads back. -/
theorem leAt_leBytes (k n : Nat) (m : List Byte) (h : n < 256 ^ k) : leAt (leBytes k n ++ m) 0 k = n := by
  rw [leAt_append_left _ _ _ _ (by simp), leAt, List.drop_zero, List.take_of_length_le (by simp), leNat_leBytes, Nat.mod_eq_of_lt h]

theorem crcSteps_lt (p k c : Nat) (hp : p < 2 ^ 32) (hc : c < 2 ^ 32) : crcSteps p k c < 2 ^ 32 := by
  induction k generalizing c with
  | zero => exact hc
  | succ k ih =>
    rw [crcSteps]
    apply ih
    split
    · exact Nat.xor_lt_two_pow (by omega) hp
    · omega

/-- A reflected 32-bit CRC is a 32-bit number. -/
theorem crcOf_lt (p : Nat) (hp : p < 2 ^ 32) (bs : List Byte) : crcOf p bs < 2 ^ 32 := by
  have h : ∀ (l : List Byte) (c : Nat), c < 2 ^ 32 → l.foldl (fun c b => crcSteps p 8 (c ^^^ b.toNat)) c < 2 ^ 32 := by
    intro l
    induction l with
    | nil => exact fun c h => h
    | cons b t ih =>
      intro c hc
      exact ih _ (crcSteps_lt p 8 _ hp (Nat.xor_lt_two_pow hc (lt_trans b.isLt (by norm_num))))
  exact Nat.xor_lt_two_pow (h bs _ (by norm_num)) (by norm_num)

theorem crc32_lt (bs : List Byte) : crc32 bs < 2 ^ 32 := crcOf_lt _ (by norm_num) bs
theorem crc32c_lt (bs : List Byte) : crc32c bs < 2 ^ 32 := crcOf_lt _ (by norm_num) bs

end Sys2Proof.Machine
end

