-- ==== Sys2Proof/Laws/Table.lean ====
section
/-! SUPPORT. Sparse tables: read after write, what a write leaves alone, and that every operation keeps the canonical form. -/

namespace Sys2Proof.Machine

variable {α : Type}

theorem Table.get_erase_same (d : Nat → α) (t : List (Nat × α)) (k : Nat) : Table.get d (Table.erase t k) k = d k := by
  induction t with
  | nil => rfl
  | cons p t ih =>
    obtain ⟨j, v⟩ := p
    by_cases h : j = k <;> simp [Table.erase, Table.get, h, ih]

theorem Table.get_erase_other (d : Nat → α) (t : List (Nat × α)) {j k : Nat} (h : j ≠ k) :
    Table.get d (Table.erase t k) j = Table.get d t j := by
  induction t with
  | nil => rfl
  | cons p t ih =>
    obtain ⟨i, v⟩ := p
    by_cases hi : i = k
    · subst hi; simp [Table.erase, Table.get, ih, Ne.symm h]
    · simp [Table.erase, Table.get, hi, ih]

/-- An entry put before the first larger key is read, where the key was not listed. -/
theorem Table.get_insert_same (d : Nat → α) (t : List (Nat × α)) (k : Nat) (v : α) (h : ∀ p ∈ t, p.1 ≠ k) :
    Table.get d (Table.insert t k v) k = v := by
  induction t with
  | nil => simp [Table.insert, Table.get]
  | cons p t ih =>
    obtain ⟨j, u⟩ := p
    have hj : j ≠ k := h (j, u) (by simp)
    by_cases hk : k < j
    · simp [Table.insert, Table.get, hk]
    · simp [Table.insert, Table.get, hk, hj, ih (fun q hq => h q (by simp [hq]))]

theorem Table.get_insert_other (d : Nat → α) (t : List (Nat × α)) {j k : Nat} (v : α) (h : j ≠ k) :
    Table.get d (Table.insert t k v) j = Table.get d t j := by
  induction t with
  | nil => simp [Table.insert, Table.get, Ne.symm h]
  | cons p t ih =>
    obtain ⟨i, u⟩ := p
    by_cases hk : k < i <;> simp [Table.insert, Table.get, hk, ih, Ne.symm h]

theorem Table.erase_not_mem (t : List (Nat × α)) (k : Nat) : ∀ p ∈ Table.erase t k, p.1 ≠ k := by
  induction t with
  | nil => simp [Table.erase]
  | cons p t ih =>
    obtain ⟨j, v⟩ := p
    by_cases h : j = k
    · simpa [Table.erase, h] using ih
    · intro q hq
      rcases (by simpa [Table.erase, h] using hq : q = (j, v) ∨ q ∈ Table.erase t k) with rfl | hq
      · exact h
      · exact ih q hq

/-- Read after write. -/
@[simp] theorem Table.get_set_same [DecidableEq α] (d : Nat → α) (t : List (Nat × α)) (k : Nat) (v : α) :
    Table.get d (Table.set d t k v) k = v := by
  unfold Table.set
  split
  · simp [Table.get_erase_same, *]
  · exact Table.get_insert_same d _ k v (Table.erase_not_mem t k)

/-- A write leaves every other key alone. -/
theorem Table.get_set_other [DecidableEq α] (d : Nat → α) (t : List (Nat × α)) {j k : Nat} (v : α) (h : j ≠ k) :
    Table.get d (Table.set d t k v) j = Table.get d t j := by
  unfold Table.set
  split
  · exact Table.get_erase_other d t h
  · rw [Table.get_insert_other d _ v h, Table.get_erase_other d t h]

theorem Table.get_set [DecidableEq α] (d : Nat → α) (t : List (Nat × α)) (j k : Nat) (v : α) :
    Table.get d (Table.set d t k v) j = if j = k then v else Table.get d t j := by
  split
  · simp [*]
  · exact Table.get_set_other d t v ‹_›

/-! ## The canonical form -/

theorem Table.rising_mono {b c : Nat} (h : b ≤ c) : (t : List (Nat × α)) → Table.rising c t = true → Table.rising b t = true
  | [], _ => rfl
  | (j, v) :: t, ht => by
    simp only [Table.rising, Bool.and_eq_true, decide_eq_true_eq] at ht ⊢
    exact ⟨h.trans ht.1, ht.2⟩

theorem Table.erase_rising (k : Nat) : (t : List (Nat × α)) → (b : Nat) → Table.rising b t = true → Table.rising b (Table.erase t k) = true
  | [], _, _ => rfl
  | (j, v) :: t, b, h => by
    simp only [Table.rising, Bool.and_eq_true, decide_eq_true_eq] at h
    have ih := Table.erase_rising k t (j + 1) h.2
    unfold Table.erase
    split
    · exact Table.rising_mono (by omega) _ ih
    · simp [Table.rising, h.1, ih]

theorem Table.insert_rising (k : Nat) (v : α) : (t : List (Nat × α)) → (b : Nat) → b ≤ k → (∀ p ∈ t, p.1 ≠ k) →
    Table.rising b t = true → Table.rising b (Table.insert t k v) = true
  | [], b, hb, _, _ => by simp [Table.insert, Table.rising, hb]
  | (j, u) :: t, b, hb, hn, h => by
    simp only [Table.rising, Bool.and_eq_true, decide_eq_true_eq] at h
    have hj : j ≠ k := hn (j, u) (by simp)
    unfold Table.insert
    split
    · rename_i hk
      simp only [Table.rising, Bool.and_eq_true, decide_eq_true_eq]
      exact ⟨hb, by omega, h.2⟩
    · simp only [Table.rising, Bool.and_eq_true, decide_eq_true_eq]
      exact ⟨h.1, Table.insert_rising k v t (j + 1) (by omega) (fun p hp => hn p (by simp [hp])) h.2⟩

theorem Table.mem_erase {t : List (Nat × α)} {k : Nat} {p : Nat × α} (h : p ∈ Table.erase t k) : p ∈ t := by
  induction t with
  | nil => simp [Table.erase] at h
  | cons q t ih =>
    obtain ⟨j, v⟩ := q
    unfold Table.erase at h
    split at h
    · exact List.mem_cons_of_mem _ (ih h)
    · rcases List.mem_cons.1 h with rfl | h
      · simp
      · exact List.mem_cons_of_mem _ (ih h)

theorem Table.mem_insert {t : List (Nat × α)} {k : Nat} {v : α} {p : Nat × α} (h : p ∈ Table.insert t k v) : p = (k, v) ∨ p ∈ t := by
  induction t with
  | nil => simpa [Table.insert] using h
  | cons q t ih =>
    obtain ⟨j, u⟩ := q
    unfold Table.insert at h
    split at h
    · simpa using h
    · rcases List.mem_cons.1 h with rfl | h
      · simp
      · rcases ih h with rfl | h
        · simp
        · simp [h]

/-- A write keeps the canonical form. -/
@[simp] theorem Table.wf_set [DecidableEq α] {d : Nat → α} {t : List (Nat × α)} (h : Table.wf d t = true) (k : Nat) (v : α) :
    Table.wf d (Table.set d t k v) = true := by
  simp only [Table.wf, Bool.and_eq_true, List.all_eq_true, decide_eq_true_eq] at h ⊢
  have he := Table.erase_rising k t 0 h.1
  unfold Table.set
  split
  · exact ⟨he, fun p hp => h.2 p (Table.mem_erase hp)⟩
  · refine ⟨Table.insert_rising k v _ 0 (by omega) (Table.erase_not_mem t k) he, fun p hp => ?_⟩
    rcases Table.mem_insert hp with rfl | hp
    · assumption
    · exact h.2 p (Table.mem_erase hp)

/-- Writing consecutive values keeps the canonical form. -/
@[simp] theorem Table.wf_setRange [DecidableEq α] {d : Nat → α} (vs : List α) {t : List (Nat × α)} (h : Table.wf d t = true) (k : Nat) :
    Table.wf d (Table.setRange d t k vs) = true := by
  induction vs generalizing t k with
  | nil => exact h
  | cons v vs ih => exact ih (Table.wf_set h k v) (k + 1)

/-- A listed write keeps the keys rising. -/
@[simp] theorem Table.rising_put {t : List (Nat × α)} (h : Table.rising 0 t = true) (k : Nat) (v : α) : Table.rising 0 (Table.put t k v) = true :=
  Table.insert_rising k v _ 0 (by omega) (Table.erase_not_mem t k) (Table.erase_rising k t 0 h)

theorem Table.find?_erase_other (t : List (Nat × α)) {j k : Nat} (h : j ≠ k) : Table.find? (Table.erase t k) j = Table.find? t j := by
  induction t with
  | nil => rfl
  | cons e t ih =>
    obtain ⟨i, v⟩ := e
    simp only [Table.erase]
    split
    · next hi => simp [Table.find?, hi, Ne.symm h, ih]
    · simp only [Table.find?, ih]

theorem Table.find?_insert_other (t : List (Nat × α)) {j k : Nat} (v : α) (h : j ≠ k) : Table.find? (Table.insert t k v) j = Table.find? t j := by
  induction t with
  | nil => simp [Table.insert, Table.find?, Ne.symm h]
  | cons e t ih =>
    obtain ⟨i, w⟩ := e
    simp only [Table.insert]
    split
    · simp [Table.find?, Ne.symm h]
    · simp only [Table.find?, ih]

theorem Table.find?_insert_same (t : List (Nat × α)) (k : Nat) (v : α) (h : ∀ p ∈ t, p.1 ≠ k) : Table.find? (Table.insert t k v) k = some v := by
  induction t with
  | nil => simp [Table.insert, Table.find?]
  | cons e t ih =>
    obtain ⟨i, w⟩ := e
    simp only [Table.insert]
    split
    · simp [Table.find?]
    · simp only [Table.find?, if_neg (h (i, w) (by simp)), ih fun p hp => h p (by simp [hp])]

/-- A cell after a write of cell k. -/
theorem Table.find?_put (t : List (Nat × α)) (j k : Nat) (v : α) : Table.find? (Table.put t k v) j = if j = k then some v else Table.find? t j := by
  split
  · next h => rw [h]; exact Table.find?_insert_same _ k v (Table.erase_not_mem t k)
  · next h => exact (Table.find?_insert_other _ v h).trans (Table.find?_erase_other t h)

theorem Table.rising_keep (p : Nat → Bool) : (t : List (Nat × α)) → (b : Nat) → Table.rising b t = true →
    Table.rising b (Table.keep p t) = true
  | [], _, _ => rfl
  | (j, v) :: t, b, h => by
    simp only [Table.rising, Bool.and_eq_true, decide_eq_true_eq] at h
    have ih := Table.rising_keep p t (j + 1) h.2
    unfold Table.keep at ih ⊢
    rw [List.filter_cons]
    split
    · simp [Table.rising, h.1, ih]
    · exact Table.rising_mono (by omega) _ ih

/-- Keeping some keys keeps the canonical form. -/
@[simp] theorem Table.wf_keep [DecidableEq α] {d : Nat → α} (p : Nat → Bool) {t : List (Nat × α)} (h : Table.wf d t = true) :
    Table.wf d (Table.keep p t) = true := by
  simp only [Table.wf, Bool.and_eq_true, List.all_eq_true, decide_eq_true_eq] at h ⊢
  exact ⟨Table.rising_keep p t 0 h.1, fun q hq => h.2 q (List.mem_of_mem_filter hq)⟩

/-- What a range write holds afterwards. -/
theorem Table.get_setRange_other [DecidableEq α] (d : Nat → α) (vs : List α) (t : List (Nat × α)) (k j : Nat)
    (h : j < k ∨ k + vs.length ≤ j) : Table.get d (Table.setRange d t k vs) j = Table.get d t j := by
  induction vs generalizing t k with
  | nil => rfl
  | cons v vs ih =>
    simp only [List.length_cons] at h
    rw [Table.setRange, ih _ _ (by omega), Table.get_set_other d t v (by omega)]

theorem Table.get_setRange_at [DecidableEq α] (d : Nat → α) (vs : List α) (t : List (Nat × α)) (k i : Nat) (h : i < vs.length) :
    Table.get d (Table.setRange d t k vs) (k + i) = vs[i] := by
  induction vs generalizing t k i with
  | nil => simp at h
  | cons v vs ih =>
    cases i with
    | zero => rw [Table.setRange, Table.get_setRange_other _ _ _ _ _ (by omega)]; simp
    | succ i =>
      simp only [List.length_cons] at h
      rw [Table.setRange, show k + (i + 1) = (k + 1) + i by omega, ih _ _ _ (by omega)]; rfl

end Sys2Proof.Machine
end

