-- ==== Sys2Proof/Laws/State.lean ====
section
/-! SUPPORT. What each update of the state changes: one lemma per field per update, and what the named reads see after it. -/

namespace Sys2Proof.Machine

/-! ## Fields after each update -/

@[simp] theorem State.wr_pending (s : State) (a : Nat) (v : Word) : (s.wr a v).pending = s.pending := rfl
@[simp] theorem State.wr_free (s : State) (a : Nat) (v : Word) : (s.wr a v).free = s.free := rfl
@[simp] theorem State.wr_tb (s : State) (a : Nat) (v : Word) : (s.wr a v).tb = s.tb := rfl
@[simp] theorem State.wr_law (s : State) (a : Nat) (v : Word) : (s.wr a v).law = s.law := rfl
@[simp] theorem State.wr_fbk (s : State) (a : Nat) (v : Word) : (s.wr a v).fbk = s.fbk := rfl
@[simp] theorem State.wr_trn (s : State) (a : Nat) (v : Word) : (s.wr a v).trn = s.trn := rfl
@[simp] theorem State.wr_tsu (s : State) (a : Nat) (v : Word) : (s.wr a v).tsu = s.tsu := rfl
@[simp] theorem State.wr_hst (s : State) (a : Nat) (v : Word) : (s.wr a v).hst = s.hst := rfl
@[simp] theorem State.wr_cap (s : State) (a : Nat) (v : Word) : (s.wr a v).cap = s.cap := rfl
@[simp] theorem State.wr_hall (s : State) (a : Nat) (v : Word) : (s.wr a v).hall = s.hall := rfl
@[simp] theorem State.wr_pwm (s : State) (a : Nat) (v : Word) : (s.wr a v).pwm = s.pwm := rfl
@[simp] theorem State.wr_saf (s : State) (a : Nat) (v : Word) : (s.wr a v).saf = s.saf := rfl
@[simp] theorem State.wr_fio (s : State) (a : Nat) (v : Word) : (s.wr a v).fio = s.fio := rfl
@[simp] theorem State.wr_spr (s : State) (a : Nat) (v : Word) : (s.wr a v).spr = s.spr := rfl
@[simp] theorem State.wr_pair (s : State) (a : Nat) (v : Word) : (s.wr a v).pair = s.pair := rfl
@[simp] theorem State.wr_sys (s : State) (a : Nat) (v : Word) : (s.wr a v).sys = s.sys := rfl
@[simp] theorem State.wr_pv (s : State) (a : Nat) (v : Word) : (s.wr a v).pv = s.pv := rfl

@[simp] theorem State.takeFree_pending (s : State) : (s.takeFree).pending = s.pending := rfl
@[simp] theorem State.takeFree_regs (s : State) : (s.takeFree).regs = s.regs := rfl
@[simp] theorem State.takeFree_tb (s : State) : (s.takeFree).tb = s.tb := rfl
@[simp] theorem State.takeFree_law (s : State) : (s.takeFree).law = s.law := rfl
@[simp] theorem State.takeFree_fbk (s : State) : (s.takeFree).fbk = s.fbk := rfl
@[simp] theorem State.takeFree_trn (s : State) : (s.takeFree).trn = s.trn := rfl
@[simp] theorem State.takeFree_tsu (s : State) : (s.takeFree).tsu = s.tsu := rfl
@[simp] theorem State.takeFree_hst (s : State) : (s.takeFree).hst = s.hst := rfl
@[simp] theorem State.takeFree_cap (s : State) : (s.takeFree).cap = s.cap := rfl
@[simp] theorem State.takeFree_hall (s : State) : (s.takeFree).hall = s.hall := rfl
@[simp] theorem State.takeFree_pwm (s : State) : (s.takeFree).pwm = s.pwm := rfl
@[simp] theorem State.takeFree_saf (s : State) : (s.takeFree).saf = s.saf := rfl
@[simp] theorem State.takeFree_fio (s : State) : (s.takeFree).fio = s.fio := rfl
@[simp] theorem State.takeFree_spr (s : State) : (s.takeFree).spr = s.spr := rfl
@[simp] theorem State.takeFree_pair (s : State) : (s.takeFree).pair = s.pair := rfl
@[simp] theorem State.takeFree_sys (s : State) : (s.takeFree).sys = s.sys := rfl
@[simp] theorem State.takeFree_pv (s : State) : (s.takeFree).pv = s.pv := rfl
@[simp] theorem State.takeFree_rd (s : State) (i : Nat) : (s.takeFree).rd i = s.rd i := rfl

@[simp] theorem State.setAxis_pending (s : State) (a : Nat) (c : AxisCtx) : (s.setAxis a c).pending = s.pending := rfl
@[simp] theorem State.setAxis_free (s : State) (a : Nat) (c : AxisCtx) : (s.setAxis a c).free = s.free := rfl
@[simp] theorem State.setAxis_regs (s : State) (a : Nat) (c : AxisCtx) : (s.setAxis a c).regs = s.regs := rfl
@[simp] theorem State.setAxis_tb (s : State) (a : Nat) (c : AxisCtx) : (s.setAxis a c).tb = s.tb := rfl
@[simp] theorem State.setAxis_fbk (s : State) (a : Nat) (c : AxisCtx) : (s.setAxis a c).fbk = s.fbk := rfl
@[simp] theorem State.setAxis_trn (s : State) (a : Nat) (c : AxisCtx) : (s.setAxis a c).trn = s.trn := rfl
@[simp] theorem State.setAxis_tsu (s : State) (a : Nat) (c : AxisCtx) : (s.setAxis a c).tsu = s.tsu := rfl
@[simp] theorem State.setAxis_hst (s : State) (a : Nat) (c : AxisCtx) : (s.setAxis a c).hst = s.hst := rfl
@[simp] theorem State.setAxis_cap (s : State) (a : Nat) (c : AxisCtx) : (s.setAxis a c).cap = s.cap := rfl
@[simp] theorem State.setAxis_hall (s : State) (a : Nat) (c : AxisCtx) : (s.setAxis a c).hall = s.hall := rfl
@[simp] theorem State.setAxis_pwm (s : State) (a : Nat) (c : AxisCtx) : (s.setAxis a c).pwm = s.pwm := rfl
@[simp] theorem State.setAxis_saf (s : State) (a : Nat) (c : AxisCtx) : (s.setAxis a c).saf = s.saf := rfl
@[simp] theorem State.setAxis_fio (s : State) (a : Nat) (c : AxisCtx) : (s.setAxis a c).fio = s.fio := rfl
@[simp] theorem State.setAxis_spr (s : State) (a : Nat) (c : AxisCtx) : (s.setAxis a c).spr = s.spr := rfl
@[simp] theorem State.setAxis_pair (s : State) (a : Nat) (c : AxisCtx) : (s.setAxis a c).pair = s.pair := rfl
@[simp] theorem State.setAxis_sys (s : State) (a : Nat) (c : AxisCtx) : (s.setAxis a c).sys = s.sys := rfl
@[simp] theorem State.setAxis_pv (s : State) (a : Nat) (c : AxisCtx) : (s.setAxis a c).pv = s.pv := rfl
@[simp] theorem State.setAxis_jobs (s : State) (a : Nat) (c : AxisCtx) : (s.setAxis a c).law.jobs = s.law.jobs := rfl
@[simp] theorem State.setAxis_lanes (s : State) (a : Nat) (c : AxisCtx) : (s.setAxis a c).law.lanes = s.law.lanes := rfl
@[simp] theorem State.setAxis_rd (s : State) (a : Nat) (c : AxisCtx) (i : Nat) : (s.setAxis a c).rd i = s.rd i := rfl

@[simp] theorem State.setLane_pending (s : State) (n : Nat) (c : Lane) : (s.setLane n c).pending = s.pending := rfl
@[simp] theorem State.setLane_free (s : State) (n : Nat) (c : Lane) : (s.setLane n c).free = s.free := rfl
@[simp] theorem State.setLane_regs (s : State) (n : Nat) (c : Lane) : (s.setLane n c).regs = s.regs := rfl
@[simp] theorem State.setLane_tb (s : State) (n : Nat) (c : Lane) : (s.setLane n c).tb = s.tb := rfl
@[simp] theorem State.setLane_fbk (s : State) (n : Nat) (c : Lane) : (s.setLane n c).fbk = s.fbk := rfl
@[simp] theorem State.setLane_trn (s : State) (n : Nat) (c : Lane) : (s.setLane n c).trn = s.trn := rfl
@[simp] theorem State.setLane_tsu (s : State) (n : Nat) (c : Lane) : (s.setLane n c).tsu = s.tsu := rfl
@[simp] theorem State.setLane_hst (s : State) (n : Nat) (c : Lane) : (s.setLane n c).hst = s.hst := rfl
@[simp] theorem State.setLane_cap (s : State) (n : Nat) (c : Lane) : (s.setLane n c).cap = s.cap := rfl
@[simp] theorem State.setLane_hall (s : State) (n : Nat) (c : Lane) : (s.setLane n c).hall = s.hall := rfl
@[simp] theorem State.setLane_pwm (s : State) (n : Nat) (c : Lane) : (s.setLane n c).pwm = s.pwm := rfl
@[simp] theorem State.setLane_saf (s : State) (n : Nat) (c : Lane) : (s.setLane n c).saf = s.saf := rfl
@[simp] theorem State.setLane_fio (s : State) (n : Nat) (c : Lane) : (s.setLane n c).fio = s.fio := rfl
@[simp] theorem State.setLane_spr (s : State) (n : Nat) (c : Lane) : (s.setLane n c).spr = s.spr := rfl
@[simp] theorem State.setLane_pair (s : State) (n : Nat) (c : Lane) : (s.setLane n c).pair = s.pair := rfl
@[simp] theorem State.setLane_sys (s : State) (n : Nat) (c : Lane) : (s.setLane n c).sys = s.sys := rfl
@[simp] theorem State.setLane_pv (s : State) (n : Nat) (c : Lane) : (s.setLane n c).pv = s.pv := rfl
@[simp] theorem State.setLane_axes (s : State) (n : Nat) (c : Lane) : (s.setLane n c).law.axes = s.law.axes := rfl
@[simp] theorem State.setLane_jobs (s : State) (n : Nat) (c : Lane) : (s.setLane n c).law.jobs = s.law.jobs := rfl
@[simp] theorem State.setLane_rd (s : State) (n : Nat) (c : Lane) (i : Nat) : (s.setLane n c).rd i = s.rd i := rfl

@[simp] theorem State.setLawJobs_pending (s : State) (j : List LawJob) : (s.setLawJobs j).pending = s.pending := rfl
@[simp] theorem State.setLawJobs_free (s : State) (j : List LawJob) : (s.setLawJobs j).free = s.free := rfl
@[simp] theorem State.setLawJobs_regs (s : State) (j : List LawJob) : (s.setLawJobs j).regs = s.regs := rfl
@[simp] theorem State.setLawJobs_tb (s : State) (j : List LawJob) : (s.setLawJobs j).tb = s.tb := rfl
@[simp] theorem State.setLawJobs_fbk (s : State) (j : List LawJob) : (s.setLawJobs j).fbk = s.fbk := rfl
@[simp] theorem State.setLawJobs_trn (s : State) (j : List LawJob) : (s.setLawJobs j).trn = s.trn := rfl
@[simp] theorem State.setLawJobs_tsu (s : State) (j : List LawJob) : (s.setLawJobs j).tsu = s.tsu := rfl
@[simp] theorem State.setLawJobs_hst (s : State) (j : List LawJob) : (s.setLawJobs j).hst = s.hst := rfl
@[simp] theorem State.setLawJobs_cap (s : State) (j : List LawJob) : (s.setLawJobs j).cap = s.cap := rfl
@[simp] theorem State.setLawJobs_hall (s : State) (j : List LawJob) : (s.setLawJobs j).hall = s.hall := rfl
@[simp] theorem State.setLawJobs_pwm (s : State) (j : List LawJob) : (s.setLawJobs j).pwm = s.pwm := rfl
@[simp] theorem State.setLawJobs_saf (s : State) (j : List LawJob) : (s.setLawJobs j).saf = s.saf := rfl
@[simp] theorem State.setLawJobs_fio (s : State) (j : List LawJob) : (s.setLawJobs j).fio = s.fio := rfl
@[simp] theorem State.setLawJobs_spr (s : State) (j : List LawJob) : (s.setLawJobs j).spr = s.spr := rfl
@[simp] theorem State.setLawJobs_pair (s : State) (j : List LawJob) : (s.setLawJobs j).pair = s.pair := rfl
@[simp] theorem State.setLawJobs_sys (s : State) (j : List LawJob) : (s.setLawJobs j).sys = s.sys := rfl
@[simp] theorem State.setLawJobs_pv (s : State) (j : List LawJob) : (s.setLawJobs j).pv = s.pv := rfl
@[simp] theorem State.setLawJobs_axes (s : State) (j : List LawJob) : (s.setLawJobs j).law.axes = s.law.axes := rfl
@[simp] theorem State.setLawJobs_lanes (s : State) (j : List LawJob) : (s.setLawJobs j).law.lanes = s.law.lanes := rfl
@[simp] theorem State.setLawJobs_rd (s : State) (j : List LawJob) (i : Nat) : (s.setLawJobs j).rd i = s.rd i := rfl

@[simp] theorem State.setSource_pending (s : State) (n : Nat) (c : Source) : (s.setSource n c).pending = s.pending := rfl
@[simp] theorem State.setSource_free (s : State) (n : Nat) (c : Source) : (s.setSource n c).free = s.free := rfl
@[simp] theorem State.setSource_regs (s : State) (n : Nat) (c : Source) : (s.setSource n c).regs = s.regs := rfl
@[simp] theorem State.setSource_tb (s : State) (n : Nat) (c : Source) : (s.setSource n c).tb = s.tb := rfl
@[simp] theorem State.setSource_law (s : State) (n : Nat) (c : Source) : (s.setSource n c).law = s.law := rfl
@[simp] theorem State.setSource_trn (s : State) (n : Nat) (c : Source) : (s.setSource n c).trn = s.trn := rfl
@[simp] theorem State.setSource_tsu (s : State) (n : Nat) (c : Source) : (s.setSource n c).tsu = s.tsu := rfl
@[simp] theorem State.setSource_hst (s : State) (n : Nat) (c : Source) : (s.setSource n c).hst = s.hst := rfl
@[simp] theorem State.setSource_cap (s : State) (n : Nat) (c : Source) : (s.setSource n c).cap = s.cap := rfl
@[simp] theorem State.setSource_hall (s : State) (n : Nat) (c : Source) : (s.setSource n c).hall = s.hall := rfl
@[simp] theorem State.setSource_pwm (s : State) (n : Nat) (c : Source) : (s.setSource n c).pwm = s.pwm := rfl
@[simp] theorem State.setSource_saf (s : State) (n : Nat) (c : Source) : (s.setSource n c).saf = s.saf := rfl
@[simp] theorem State.setSource_fio (s : State) (n : Nat) (c : Source) : (s.setSource n c).fio = s.fio := rfl
@[simp] theorem State.setSource_spr (s : State) (n : Nat) (c : Source) : (s.setSource n c).spr = s.spr := rfl
@[simp] theorem State.setSource_pair (s : State) (n : Nat) (c : Source) : (s.setSource n c).pair = s.pair := rfl
@[simp] theorem State.setSource_sys (s : State) (n : Nat) (c : Source) : (s.setSource n c).sys = s.sys := rfl
@[simp] theorem State.setSource_pv (s : State) (n : Nat) (c : Source) : (s.setSource n c).pv = s.pv := rfl
@[simp] theorem State.setSource_rd (s : State) (n : Nat) (c : Source) (i : Nat) : (s.setSource n c).rd i = s.rd i := rfl

@[simp] theorem State.setChan_pending (s : State) (n : Nat) (c : Channel) : (s.setChan n c).pending = s.pending := rfl
@[simp] theorem State.setChan_free (s : State) (n : Nat) (c : Channel) : (s.setChan n c).free = s.free := rfl
@[simp] theorem State.setChan_regs (s : State) (n : Nat) (c : Channel) : (s.setChan n c).regs = s.regs := rfl
@[simp] theorem State.setChan_tb (s : State) (n : Nat) (c : Channel) : (s.setChan n c).tb = s.tb := rfl
@[simp] theorem State.setChan_law (s : State) (n : Nat) (c : Channel) : (s.setChan n c).law = s.law := rfl
@[simp] theorem State.setChan_trn (s : State) (n : Nat) (c : Channel) : (s.setChan n c).trn = s.trn := rfl
@[simp] theorem State.setChan_tsu (s : State) (n : Nat) (c : Channel) : (s.setChan n c).tsu = s.tsu := rfl
@[simp] theorem State.setChan_hst (s : State) (n : Nat) (c : Channel) : (s.setChan n c).hst = s.hst := rfl
@[simp] theorem State.setChan_cap (s : State) (n : Nat) (c : Channel) : (s.setChan n c).cap = s.cap := rfl
@[simp] theorem State.setChan_hall (s : State) (n : Nat) (c : Channel) : (s.setChan n c).hall = s.hall := rfl
@[simp] theorem State.setChan_pwm (s : State) (n : Nat) (c : Channel) : (s.setChan n c).pwm = s.pwm := rfl
@[simp] theorem State.setChan_saf (s : State) (n : Nat) (c : Channel) : (s.setChan n c).saf = s.saf := rfl
@[simp] theorem State.setChan_fio (s : State) (n : Nat) (c : Channel) : (s.setChan n c).fio = s.fio := rfl
@[simp] theorem State.setChan_spr (s : State) (n : Nat) (c : Channel) : (s.setChan n c).spr = s.spr := rfl
@[simp] theorem State.setChan_pair (s : State) (n : Nat) (c : Channel) : (s.setChan n c).pair = s.pair := rfl
@[simp] theorem State.setChan_sys (s : State) (n : Nat) (c : Channel) : (s.setChan n c).sys = s.sys := rfl
@[simp] theorem State.setChan_pv (s : State) (n : Nat) (c : Channel) : (s.setChan n c).pv = s.pv := rfl
@[simp] theorem State.setChan_rd (s : State) (n : Nat) (c : Channel) (i : Nat) : (s.setChan n c).rd i = s.rd i := rfl

@[simp] theorem State.setPout_pending (s : State) (n : Nat) (c : PassOut) : (s.setPout n c).pending = s.pending := rfl
@[simp] theorem State.setPout_free (s : State) (n : Nat) (c : PassOut) : (s.setPout n c).free = s.free := rfl
@[simp] theorem State.setPout_regs (s : State) (n : Nat) (c : PassOut) : (s.setPout n c).regs = s.regs := rfl
@[simp] theorem State.setPout_tb (s : State) (n : Nat) (c : PassOut) : (s.setPout n c).tb = s.tb := rfl
@[simp] theorem State.setPout_law (s : State) (n : Nat) (c : PassOut) : (s.setPout n c).law = s.law := rfl
@[simp] theorem State.setPout_trn (s : State) (n : Nat) (c : PassOut) : (s.setPout n c).trn = s.trn := rfl
@[simp] theorem State.setPout_tsu (s : State) (n : Nat) (c : PassOut) : (s.setPout n c).tsu = s.tsu := rfl
@[simp] theorem State.setPout_hst (s : State) (n : Nat) (c : PassOut) : (s.setPout n c).hst = s.hst := rfl
@[simp] theorem State.setPout_cap (s : State) (n : Nat) (c : PassOut) : (s.setPout n c).cap = s.cap := rfl
@[simp] theorem State.setPout_hall (s : State) (n : Nat) (c : PassOut) : (s.setPout n c).hall = s.hall := rfl
@[simp] theorem State.setPout_pwm (s : State) (n : Nat) (c : PassOut) : (s.setPout n c).pwm = s.pwm := rfl
@[simp] theorem State.setPout_saf (s : State) (n : Nat) (c : PassOut) : (s.setPout n c).saf = s.saf := rfl
@[simp] theorem State.setPout_fio (s : State) (n : Nat) (c : PassOut) : (s.setPout n c).fio = s.fio := rfl
@[simp] theorem State.setPout_spr (s : State) (n : Nat) (c : PassOut) : (s.setPout n c).spr = s.spr := rfl
@[simp] theorem State.setPout_pair (s : State) (n : Nat) (c : PassOut) : (s.setPout n c).pair = s.pair := rfl
@[simp] theorem State.setPout_sys (s : State) (n : Nat) (c : PassOut) : (s.setPout n c).sys = s.sys := rfl
@[simp] theorem State.setPout_pv (s : State) (n : Nat) (c : PassOut) : (s.setPout n c).pv = s.pv := rfl
@[simp] theorem State.setPout_rd (s : State) (n : Nat) (c : PassOut) (i : Nat) : (s.setPout n c).rd i = s.rd i := rfl

@[simp] theorem State.setSeg_pending (s : State) (n : Nat) (c : SegCtx) : (s.setSeg n c).pending = s.pending := rfl
@[simp] theorem State.setSeg_free (s : State) (n : Nat) (c : SegCtx) : (s.setSeg n c).free = s.free := rfl
@[simp] theorem State.setSeg_regs (s : State) (n : Nat) (c : SegCtx) : (s.setSeg n c).regs = s.regs := rfl
@[simp] theorem State.setSeg_tb (s : State) (n : Nat) (c : SegCtx) : (s.setSeg n c).tb = s.tb := rfl
@[simp] theorem State.setSeg_law (s : State) (n : Nat) (c : SegCtx) : (s.setSeg n c).law = s.law := rfl
@[simp] theorem State.setSeg_fbk (s : State) (n : Nat) (c : SegCtx) : (s.setSeg n c).fbk = s.fbk := rfl
@[simp] theorem State.setSeg_tsu (s : State) (n : Nat) (c : SegCtx) : (s.setSeg n c).tsu = s.tsu := rfl
@[simp] theorem State.setSeg_hst (s : State) (n : Nat) (c : SegCtx) : (s.setSeg n c).hst = s.hst := rfl
@[simp] theorem State.setSeg_cap (s : State) (n : Nat) (c : SegCtx) : (s.setSeg n c).cap = s.cap := rfl
@[simp] theorem State.setSeg_hall (s : State) (n : Nat) (c : SegCtx) : (s.setSeg n c).hall = s.hall := rfl
@[simp] theorem State.setSeg_pwm (s : State) (n : Nat) (c : SegCtx) : (s.setSeg n c).pwm = s.pwm := rfl
@[simp] theorem State.setSeg_saf (s : State) (n : Nat) (c : SegCtx) : (s.setSeg n c).saf = s.saf := rfl
@[simp] theorem State.setSeg_fio (s : State) (n : Nat) (c : SegCtx) : (s.setSeg n c).fio = s.fio := rfl
@[simp] theorem State.setSeg_spr (s : State) (n : Nat) (c : SegCtx) : (s.setSeg n c).spr = s.spr := rfl
@[simp] theorem State.setSeg_pair (s : State) (n : Nat) (c : SegCtx) : (s.setSeg n c).pair = s.pair := rfl
@[simp] theorem State.setSeg_sys (s : State) (n : Nat) (c : SegCtx) : (s.setSeg n c).sys = s.sys := rfl
@[simp] theorem State.setSeg_pv (s : State) (n : Nat) (c : SegCtx) : (s.setSeg n c).pv = s.pv := rfl
@[simp] theorem State.setSeg_rd (s : State) (n : Nat) (c : SegCtx) (i : Nat) : (s.setSeg n c).rd i = s.rd i := rfl

@[simp] theorem State.setNode_pending (s : State) (n k : Nat) (c : NodeCtx) : (s.setNode n k c).pending = s.pending := rfl
@[simp] theorem State.setNode_free (s : State) (n k : Nat) (c : NodeCtx) : (s.setNode n k c).free = s.free := rfl
@[simp] theorem State.setNode_regs (s : State) (n k : Nat) (c : NodeCtx) : (s.setNode n k c).regs = s.regs := rfl
@[simp] theorem State.setNode_tb (s : State) (n k : Nat) (c : NodeCtx) : (s.setNode n k c).tb = s.tb := rfl
@[simp] theorem State.setNode_law (s : State) (n k : Nat) (c : NodeCtx) : (s.setNode n k c).law = s.law := rfl
@[simp] theorem State.setNode_fbk (s : State) (n k : Nat) (c : NodeCtx) : (s.setNode n k c).fbk = s.fbk := rfl
@[simp] theorem State.setNode_tsu (s : State) (n k : Nat) (c : NodeCtx) : (s.setNode n k c).tsu = s.tsu := rfl
@[simp] theorem State.setNode_hst (s : State) (n k : Nat) (c : NodeCtx) : (s.setNode n k c).hst = s.hst := rfl
@[simp] theorem State.setNode_cap (s : State) (n k : Nat) (c : NodeCtx) : (s.setNode n k c).cap = s.cap := rfl
@[simp] theorem State.setNode_hall (s : State) (n k : Nat) (c : NodeCtx) : (s.setNode n k c).hall = s.hall := rfl
@[simp] theorem State.setNode_pwm (s : State) (n k : Nat) (c : NodeCtx) : (s.setNode n k c).pwm = s.pwm := rfl
@[simp] theorem State.setNode_saf (s : State) (n k : Nat) (c : NodeCtx) : (s.setNode n k c).saf = s.saf := rfl
@[simp] theorem State.setNode_fio (s : State) (n k : Nat) (c : NodeCtx) : (s.setNode n k c).fio = s.fio := rfl
@[simp] theorem State.setNode_spr (s : State) (n k : Nat) (c : NodeCtx) : (s.setNode n k c).spr = s.spr := rfl
@[simp] theorem State.setNode_pair (s : State) (n k : Nat) (c : NodeCtx) : (s.setNode n k c).pair = s.pair := rfl
@[simp] theorem State.setNode_sys (s : State) (n k : Nat) (c : NodeCtx) : (s.setNode n k c).sys = s.sys := rfl
@[simp] theorem State.setNode_pv (s : State) (n k : Nat) (c : NodeCtx) : (s.setNode n k c).pv = s.pv := rfl
@[simp] theorem State.setNode_rd (s : State) (n k : Nat) (c : NodeCtx) (i : Nat) : (s.setNode n k c).rd i = s.rd i := rfl

@[simp] theorem State.setCore_pending (s : State) (n : Nat) (c : Core) : (s.setCore n c).pending = s.pending := rfl
@[simp] theorem State.setCore_free (s : State) (n : Nat) (c : Core) : (s.setCore n c).free = s.free := rfl
@[simp] theorem State.setCore_regs (s : State) (n : Nat) (c : Core) : (s.setCore n c).regs = s.regs := rfl
@[simp] theorem State.setCore_tb (s : State) (n : Nat) (c : Core) : (s.setCore n c).tb = s.tb := rfl
@[simp] theorem State.setCore_law (s : State) (n : Nat) (c : Core) : (s.setCore n c).law = s.law := rfl
@[simp] theorem State.setCore_fbk (s : State) (n : Nat) (c : Core) : (s.setCore n c).fbk = s.fbk := rfl
@[simp] theorem State.setCore_trn (s : State) (n : Nat) (c : Core) : (s.setCore n c).trn = s.trn := rfl
@[simp] theorem State.setCore_hst (s : State) (n : Nat) (c : Core) : (s.setCore n c).hst = s.hst := rfl
@[simp] theorem State.setCore_cap (s : State) (n : Nat) (c : Core) : (s.setCore n c).cap = s.cap := rfl
@[simp] theorem State.setCore_hall (s : State) (n : Nat) (c : Core) : (s.setCore n c).hall = s.hall := rfl
@[simp] theorem State.setCore_pwm (s : State) (n : Nat) (c : Core) : (s.setCore n c).pwm = s.pwm := rfl
@[simp] theorem State.setCore_saf (s : State) (n : Nat) (c : Core) : (s.setCore n c).saf = s.saf := rfl
@[simp] theorem State.setCore_fio (s : State) (n : Nat) (c : Core) : (s.setCore n c).fio = s.fio := rfl
@[simp] theorem State.setCore_spr (s : State) (n : Nat) (c : Core) : (s.setCore n c).spr = s.spr := rfl
@[simp] theorem State.setCore_pair (s : State) (n : Nat) (c : Core) : (s.setCore n c).pair = s.pair := rfl
@[simp] theorem State.setCore_sys (s : State) (n : Nat) (c : Core) : (s.setCore n c).sys = s.sys := rfl
@[simp] theorem State.setCore_pv (s : State) (n : Nat) (c : Core) : (s.setCore n c).pv = s.pv := rfl
@[simp] theorem State.setCore_rd (s : State) (n : Nat) (c : Core) (i : Nat) : (s.setCore n c).rd i = s.rd i := rfl

@[simp] theorem State.setTsuJobs_pending (s : State) (j : List TsuJob) : (s.setTsuJobs j).pending = s.pending := rfl
@[simp] theorem State.setTsuJobs_free (s : State) (j : List TsuJob) : (s.setTsuJobs j).free = s.free := rfl
@[simp] theorem State.setTsuJobs_regs (s : State) (j : List TsuJob) : (s.setTsuJobs j).regs = s.regs := rfl
@[simp] theorem State.setTsuJobs_tb (s : State) (j : List TsuJob) : (s.setTsuJobs j).tb = s.tb := rfl
@[simp] theorem State.setTsuJobs_law (s : State) (j : List TsuJob) : (s.setTsuJobs j).law = s.law := rfl
@[simp] theorem State.setTsuJobs_fbk (s : State) (j : List TsuJob) : (s.setTsuJobs j).fbk = s.fbk := rfl
@[simp] theorem State.setTsuJobs_trn (s : State) (j : List TsuJob) : (s.setTsuJobs j).trn = s.trn := rfl
@[simp] theorem State.setTsuJobs_hst (s : State) (j : List TsuJob) : (s.setTsuJobs j).hst = s.hst := rfl
@[simp] theorem State.setTsuJobs_cap (s : State) (j : List TsuJob) : (s.setTsuJobs j).cap = s.cap := rfl
@[simp] theorem State.setTsuJobs_hall (s : State) (j : List TsuJob) : (s.setTsuJobs j).hall = s.hall := rfl
@[simp] theorem State.setTsuJobs_pwm (s : State) (j : List TsuJob) : (s.setTsuJobs j).pwm = s.pwm := rfl
@[simp] theorem State.setTsuJobs_saf (s : State) (j : List TsuJob) : (s.setTsuJobs j).saf = s.saf := rfl
@[simp] theorem State.setTsuJobs_fio (s : State) (j : List TsuJob) : (s.setTsuJobs j).fio = s.fio := rfl
@[simp] theorem State.setTsuJobs_spr (s : State) (j : List TsuJob) : (s.setTsuJobs j).spr = s.spr := rfl
@[simp] theorem State.setTsuJobs_pair (s : State) (j : List TsuJob) : (s.setTsuJobs j).pair = s.pair := rfl
@[simp] theorem State.setTsuJobs_sys (s : State) (j : List TsuJob) : (s.setTsuJobs j).sys = s.sys := rfl
@[simp] theorem State.setTsuJobs_pv (s : State) (j : List TsuJob) : (s.setTsuJobs j).pv = s.pv := rfl
@[simp] theorem State.setTsuJobs_rd (s : State) (j : List TsuJob) (i : Nat) : (s.setTsuJobs j).rd i = s.rd i := rfl

@[simp] theorem State.setWin_pending (s : State) (k : Nat) (w : Window) : (s.setWin k w).pending = s.pending := rfl
@[simp] theorem State.setWin_free (s : State) (k : Nat) (w : Window) : (s.setWin k w).free = s.free := rfl
@[simp] theorem State.setWin_regs (s : State) (k : Nat) (w : Window) : (s.setWin k w).regs = s.regs := rfl
@[simp] theorem State.setWin_tb (s : State) (k : Nat) (w : Window) : (s.setWin k w).tb = s.tb := rfl
@[simp] theorem State.setWin_law (s : State) (k : Nat) (w : Window) : (s.setWin k w).law = s.law := rfl
@[simp] theorem State.setWin_fbk (s : State) (k : Nat) (w : Window) : (s.setWin k w).fbk = s.fbk := rfl
@[simp] theorem State.setWin_trn (s : State) (k : Nat) (w : Window) : (s.setWin k w).trn = s.trn := rfl
@[simp] theorem State.setWin_tsu (s : State) (k : Nat) (w : Window) : (s.setWin k w).tsu = s.tsu := rfl
@[simp] theorem State.setWin_cap (s : State) (k : Nat) (w : Window) : (s.setWin k w).cap = s.cap := rfl
@[simp] theorem State.setWin_hall (s : State) (k : Nat) (w : Window) : (s.setWin k w).hall = s.hall := rfl
@[simp] theorem State.setWin_pwm (s : State) (k : Nat) (w : Window) : (s.setWin k w).pwm = s.pwm := rfl
@[simp] theorem State.setWin_saf (s : State) (k : Nat) (w : Window) : (s.setWin k w).saf = s.saf := rfl
@[simp] theorem State.setWin_fio (s : State) (k : Nat) (w : Window) : (s.setWin k w).fio = s.fio := rfl
@[simp] theorem State.setWin_spr (s : State) (k : Nat) (w : Window) : (s.setWin k w).spr = s.spr := rfl
@[simp] theorem State.setWin_pair (s : State) (k : Nat) (w : Window) : (s.setWin k w).pair = s.pair := rfl
@[simp] theorem State.setWin_sys (s : State) (k : Nat) (w : Window) : (s.setWin k w).sys = s.sys := rfl
@[simp] theorem State.setWin_pv (s : State) (k : Nat) (w : Window) : (s.setWin k w).pv = s.pv := rfl
@[simp] theorem State.setWin_rd (s : State) (k : Nat) (w : Window) (i : Nat) : (s.setWin k w).rd i = s.rd i := rfl

@[simp] theorem State.setLand_pending (s : State) (h : Nat) (l : Land) : (s.setLand h l).pending = s.pending := rfl
@[simp] theorem State.setLand_free (s : State) (h : Nat) (l : Land) : (s.setLand h l).free = s.free := rfl
@[simp] theorem State.setLand_regs (s : State) (h : Nat) (l : Land) : (s.setLand h l).regs = s.regs := rfl
@[simp] theorem State.setLand_tb (s : State) (h : Nat) (l : Land) : (s.setLand h l).tb = s.tb := rfl
@[simp] theorem State.setLand_law (s : State) (h : Nat) (l : Land) : (s.setLand h l).law = s.law := rfl
@[simp] theorem State.setLand_fbk (s : State) (h : Nat) (l : Land) : (s.setLand h l).fbk = s.fbk := rfl
@[simp] theorem State.setLand_trn (s : State) (h : Nat) (l : Land) : (s.setLand h l).trn = s.trn := rfl
@[simp] theorem State.setLand_tsu (s : State) (h : Nat) (l : Land) : (s.setLand h l).tsu = s.tsu := rfl
@[simp] theorem State.setLand_cap (s : State) (h : Nat) (l : Land) : (s.setLand h l).cap = s.cap := rfl
@[simp] theorem State.setLand_hall (s : State) (h : Nat) (l : Land) : (s.setLand h l).hall = s.hall := rfl
@[simp] theorem State.setLand_pwm (s : State) (h : Nat) (l : Land) : (s.setLand h l).pwm = s.pwm := rfl
@[simp] theorem State.setLand_saf (s : State) (h : Nat) (l : Land) : (s.setLand h l).saf = s.saf := rfl
@[simp] theorem State.setLand_fio (s : State) (h : Nat) (l : Land) : (s.setLand h l).fio = s.fio := rfl
@[simp] theorem State.setLand_spr (s : State) (h : Nat) (l : Land) : (s.setLand h l).spr = s.spr := rfl
@[simp] theorem State.setLand_pair (s : State) (h : Nat) (l : Land) : (s.setLand h l).pair = s.pair := rfl
@[simp] theorem State.setLand_sys (s : State) (h : Nat) (l : Land) : (s.setLand h l).sys = s.sys := rfl
@[simp] theorem State.setLand_pv (s : State) (h : Nat) (l : Land) : (s.setLand h l).pv = s.pv := rfl
@[simp] theorem State.setLand_rd (s : State) (h : Nat) (l : Land) (i : Nat) : (s.setLand h l).rd i = s.rd i := rfl

@[simp] theorem State.setSession_pending (s : State) (n : Nat) (c : Session) : (s.setSession n c).pending = s.pending := rfl
@[simp] theorem State.setSession_free (s : State) (n : Nat) (c : Session) : (s.setSession n c).free = s.free := rfl
@[simp] theorem State.setSession_regs (s : State) (n : Nat) (c : Session) : (s.setSession n c).regs = s.regs := rfl
@[simp] theorem State.setSession_tb (s : State) (n : Nat) (c : Session) : (s.setSession n c).tb = s.tb := rfl
@[simp] theorem State.setSession_law (s : State) (n : Nat) (c : Session) : (s.setSession n c).law = s.law := rfl
@[simp] theorem State.setSession_fbk (s : State) (n : Nat) (c : Session) : (s.setSession n c).fbk = s.fbk := rfl
@[simp] theorem State.setSession_trn (s : State) (n : Nat) (c : Session) : (s.setSession n c).trn = s.trn := rfl
@[simp] theorem State.setSession_tsu (s : State) (n : Nat) (c : Session) : (s.setSession n c).tsu = s.tsu := rfl
@[simp] theorem State.setSession_hst (s : State) (n : Nat) (c : Session) : (s.setSession n c).hst = s.hst := rfl
@[simp] theorem State.setSession_hall (s : State) (n : Nat) (c : Session) : (s.setSession n c).hall = s.hall := rfl
@[simp] theorem State.setSession_pwm (s : State) (n : Nat) (c : Session) : (s.setSession n c).pwm = s.pwm := rfl
@[simp] theorem State.setSession_saf (s : State) (n : Nat) (c : Session) : (s.setSession n c).saf = s.saf := rfl
@[simp] theorem State.setSession_fio (s : State) (n : Nat) (c : Session) : (s.setSession n c).fio = s.fio := rfl
@[simp] theorem State.setSession_spr (s : State) (n : Nat) (c : Session) : (s.setSession n c).spr = s.spr := rfl
@[simp] theorem State.setSession_pair (s : State) (n : Nat) (c : Session) : (s.setSession n c).pair = s.pair := rfl
@[simp] theorem State.setSession_sys (s : State) (n : Nat) (c : Session) : (s.setSession n c).sys = s.sys := rfl
@[simp] theorem State.setSession_pv (s : State) (n : Nat) (c : Session) : (s.setSession n c).pv = s.pv := rfl
@[simp] theorem State.setSession_rd (s : State) (n : Nat) (c : Session) (i : Nat) : (s.setSession n c).rd i = s.rd i := rfl

@[simp] theorem State.hallWrite_pending (s : State) (o : Nat) (bs : List Byte) : (s.hallWrite o bs).pending = s.pending := rfl
@[simp] theorem State.hallWrite_free (s : State) (o : Nat) (bs : List Byte) : (s.hallWrite o bs).free = s.free := rfl
@[simp] theorem State.hallWrite_regs (s : State) (o : Nat) (bs : List Byte) : (s.hallWrite o bs).regs = s.regs := rfl
@[simp] theorem State.hallWrite_tb (s : State) (o : Nat) (bs : List Byte) : (s.hallWrite o bs).tb = s.tb := rfl
@[simp] theorem State.hallWrite_law (s : State) (o : Nat) (bs : List Byte) : (s.hallWrite o bs).law = s.law := rfl
@[simp] theorem State.hallWrite_fbk (s : State) (o : Nat) (bs : List Byte) : (s.hallWrite o bs).fbk = s.fbk := rfl
@[simp] theorem State.hallWrite_trn (s : State) (o : Nat) (bs : List Byte) : (s.hallWrite o bs).trn = s.trn := rfl
@[simp] theorem State.hallWrite_tsu (s : State) (o : Nat) (bs : List Byte) : (s.hallWrite o bs).tsu = s.tsu := rfl
@[simp] theorem State.hallWrite_hst (s : State) (o : Nat) (bs : List Byte) : (s.hallWrite o bs).hst = s.hst := rfl
@[simp] theorem State.hallWrite_cap (s : State) (o : Nat) (bs : List Byte) : (s.hallWrite o bs).cap = s.cap := rfl
@[simp] theorem State.hallWrite_pwm (s : State) (o : Nat) (bs : List Byte) : (s.hallWrite o bs).pwm = s.pwm := rfl
@[simp] theorem State.hallWrite_saf (s : State) (o : Nat) (bs : List Byte) : (s.hallWrite o bs).saf = s.saf := rfl
@[simp] theorem State.hallWrite_fio (s : State) (o : Nat) (bs : List Byte) : (s.hallWrite o bs).fio = s.fio := rfl
@[simp] theorem State.hallWrite_spr (s : State) (o : Nat) (bs : List Byte) : (s.hallWrite o bs).spr = s.spr := rfl
@[simp] theorem State.hallWrite_pair (s : State) (o : Nat) (bs : List Byte) : (s.hallWrite o bs).pair = s.pair := rfl
@[simp] theorem State.hallWrite_sys (s : State) (o : Nat) (bs : List Byte) : (s.hallWrite o bs).sys = s.sys := rfl
@[simp] theorem State.hallWrite_pv (s : State) (o : Nat) (bs : List Byte) : (s.hallWrite o bs).pv = s.pv := rfl
@[simp] theorem State.hallWrite_rd (s : State) (o : Nat) (bs : List Byte) (i : Nat) : (s.hallWrite o bs).rd i = s.rd i := rfl

/-! ## Registers -/

@[simp] theorem State.rd_wr_same (s : State) (a : Nat) (v : Word) : (s.wr a v).rd a = v := Table.get_set_same _ _ _ _

theorem State.rd_wr (s : State) (a i : Nat) (v : Word) : (s.wr a v).rd i = if i = a then v else s.rd i := Table.get_set _ _ _ _ _

/-- A register write leaves every other register alone. -/
theorem State.rd_wr_other (s : State) {a i : Nat} (v : Word) (h : i ≠ a) : (s.wr a v).rd i = s.rd i := Table.get_set_other _ _ _ h

theorem State.setFld_wr (s : State) (a hi lo v : Nat) : s.setFld a hi lo v = s.wr a (wSetFld (s.rd a) hi lo v) := rfl
theorem State.setBit_wr (s : State) (a i : Nat) (b : Bool) : s.setBit a i b = s.wr a (wSetBit (s.rd a) i b) := rfl
theorem State.orBits_wr (s : State) (a : Nat) (m : Word) : s.orBits a m = s.wr a (s.rd a ||| m) := rfl
theorem State.clrBits_wr (s : State) (a : Nat) (m : Word) : s.clrBits a m = s.wr a (s.rd a &&& ~~~ m) := rfl
theorem State.inc_wr (s : State) (a : Nat) : s.inc a = s.wr a (s.rd a + 1) := rfl
theorem State.incFld_wr (s : State) (a hi lo : Nat) : s.incFld a hi lo = s.wr a (wSetFld (s.rd a) hi lo (s.fld a hi lo + 1)) := rfl
@[simp] theorem State.when_true (s : State) (f : State → State) : s.when true f = f s := rfl
@[simp] theorem State.when_false (s : State) (f : State → State) : s.when false f = s := rfl
@[simp] theorem State.each_nil {α : Type} (s : State) (f : α → State → State) : s.each [] f = s := rfl
@[simp] theorem State.each_cons {α : Type} (s : State) (x : α) (l : List α) (f : α → State → State) :
    s.each (x :: l) f = (f x s).each l f := rfl

/-! ## Contexts read back -/

@[simp] theorem State.axis_setAxis_same (s : State) (a : Nat) (c : AxisCtx) : (s.setAxis a c).axis a = c := Table.get_set_same _ _ _ _
theorem State.axis_setAxis_other (s : State) (a : Nat) (c : AxisCtx) {j : Nat} (hj : j ≠ a) : (s.setAxis a c).axis j = s.axis j := Table.get_set_other _ _ _ hj
@[simp] theorem State.lane_setLane_same (s : State) (n : Nat) (c : Lane) : (s.setLane n c).lane n = c := Table.get_set_same _ _ _ _
theorem State.lane_setLane_other (s : State) (n : Nat) (c : Lane) {j : Nat} (hj : j ≠ n) : (s.setLane n c).lane j = s.lane j := Table.get_set_other _ _ _ hj
@[simp] theorem State.source_setSource_same (s : State) (n : Nat) (c : Source) : (s.setSource n c).source n = c := Table.get_set_same _ _ _ _
theorem State.source_setSource_other (s : State) (n : Nat) (c : Source) {j : Nat} (hj : j ≠ n) : (s.setSource n c).source j = s.source j := Table.get_set_other _ _ _ hj
@[simp] theorem State.chan_setChan_same (s : State) (n : Nat) (c : Channel) : (s.setChan n c).chan n = c := Table.get_set_same _ _ _ _
theorem State.chan_setChan_other (s : State) (n : Nat) (c : Channel) {j : Nat} (hj : j ≠ n) : (s.setChan n c).chan j = s.chan j := Table.get_set_other _ _ _ hj
@[simp] theorem State.pout_setPout_same (s : State) (n : Nat) (c : PassOut) : (s.setPout n c).pout n = c := Table.get_set_same _ _ _ _
theorem State.pout_setPout_other (s : State) (n : Nat) (c : PassOut) {j : Nat} (hj : j ≠ n) : (s.setPout n c).pout j = s.pout j := Table.get_set_other _ _ _ hj
@[simp] theorem State.seg_setSeg_same (s : State) (n : Nat) (c : SegCtx) : (s.setSeg n c).seg n = c := Table.get_set_same _ _ _ _
theorem State.seg_setSeg_other (s : State) (n : Nat) (c : SegCtx) {j : Nat} (hj : j ≠ n) : (s.setSeg n c).seg j = s.seg j := Table.get_set_other _ _ _ hj
@[simp] theorem State.core_setCore_same (s : State) (n : Nat) (c : Core) : (s.setCore n c).core n = c := Table.get_set_same _ _ _ _
theorem State.core_setCore_other (s : State) (n : Nat) (c : Core) {j : Nat} (hj : j ≠ n) : (s.setCore n c).core j = s.core j := Table.get_set_other _ _ _ hj
@[simp] theorem State.win_setWin_same (s : State) (k : Nat) (w : Window) : (s.setWin k w).win k = w := Table.get_set_same _ _ _ _
theorem State.win_setWin_other (s : State) (k : Nat) (w : Window) {j : Nat} (hj : j ≠ k) : (s.setWin k w).win j = s.win j := Table.get_set_other _ _ _ hj
@[simp] theorem State.land_setLand_same (s : State) (h : Nat) (l : Land) : (s.setLand h l).land h = l := Table.get_set_same _ _ _ _
theorem State.land_setLand_other (s : State) (h : Nat) (l : Land) {j : Nat} (hj : j ≠ h) : (s.setLand h l).land j = s.land j := Table.get_set_other _ _ _ hj
@[simp] theorem State.session_setSession_same (s : State) (n : Nat) (c : Session) : (s.setSession n c).session n = c := Table.get_set_same _ _ _ _
theorem State.session_setSession_other (s : State) (n : Nat) (c : Session) {j : Nat} (hj : j ≠ n) : (s.setSession n c).session j = s.session j := Table.get_set_other _ _ _ hj

/-! ## The Hall -/

/-- A byte outside a Hall write is unchanged. -/
theorem State.hallByte_hallWrite_other (s : State) (o : Nat) (bs : List Byte) {j : Nat} (h : j < o ∨ o + bs.length ≤ j) :
    (s.hallWrite o bs).hallByte j = s.hallByte j := Table.get_setRange_other _ _ _ _ _ h

/-- A byte inside a Hall write is the one written. -/
theorem State.hallByte_hallWrite_at (s : State) (o : Nat) (bs : List Byte) (i : Nat) (h : i < bs.length) :
    (s.hallWrite o bs).hallByte (o + i) = bs[i] := Table.get_setRange_at _ _ _ _ _ h

@[simp] theorem State.hallWrite_bad (s : State) (o : Nat) (bs : List Byte) : (s.hallWrite o bs).hall.bad = s.hall.bad := rfl

end Sys2Proof.Machine
end

