-- ==== Sys2Proof/Laws/Frames.lean ====
section
/-! SUPPORT. What shared operations leave alone: register writes, the delivery of interrupts, and the notice of events. -/

namespace Sys2Proof.Machine

variable {s t : State} {l : List Nat}

/-! ## Registers -/

theorem State.RegsBut.refl (s : State) (l : List Nat) : s.RegsBut s l := fun _ _ => rfl

theorem State.RegsBut.trans {u : State} (h : s.RegsBut t l) (k : t.RegsBut u l) : s.RegsBut u l := fun a ha => (k a ha).trans (h a ha)

theorem State.RegsBut.wr (h : s.RegsBut t l) {a : Nat} (ha : a ∈ l) (v : Word) : s.RegsBut (t.wr a v) l := by
  intro b hb
  have hn : b ≠ a := by rintro rfl; exact hb ha
  rw [State.rd_wr_other t v hn, h b hb]

theorem State.RegsBut.mono (h : s.RegsBut t l) {k : List Nat} (hk : ∀ a ∈ l, a ∈ k) : s.RegsBut t k := fun a ha => h a (fun e => ha (hk a e))

theorem State.OnlyRegs.refl (s : State) (l : List Nat) : s.OnlyRegs s l := ⟨rfl, .refl s l⟩

/-- A write of a register of l. -/
theorem State.OnlyRegs.wr (h : s.OnlyRegs t l) {a : Nat} (ha : a ∈ l) (v : Word) : s.OnlyRegs (t.wr a v) l := ⟨h.rest, h.regs.wr ha v⟩

/-! ## Interrupts -/

theorem State.OnlyRaised.refl (s : State) (l : List Nat) : s.OnlyRaised s l := ⟨rfl, .refl s _⟩

theorem State.OnlyRaised.of (h : s.OnlyRegs t l) : s.OnlyRaised t l := by
  refine ⟨?_, h.regs.mono (fun a ha => List.mem_append_left _ ha)⟩
  have := h.rest
  rw [← this]

theorem State.OnlyRaised.wr (h : s.OnlyRaised t l) {a : Nat} (ha : a ∈ l) (v : Word) : s.OnlyRaised (t.wr a v) l :=
  ⟨h.rest, h.regs.wr (List.mem_append_left _ ha) v⟩

theorem State.OnlyRaised.deliver (h : s.OnlyRaised t l) {a : Nat} (ha : a ∈ deliveryRegs) (v : Word) : s.OnlyRaised (t.wr a v) l :=
  ⟨h.rest, h.regs.wr (List.mem_append_right _ ha) v⟩

theorem State.OnlyRaised.setCore (h : s.OnlyRaised t l) (n : Nat) (c : Core) : s.OnlyRaised (t.setCore n c) l := ⟨h.rest, h.regs⟩

theorem mem_lost : Reg.TSU_IRQLOST ∈ deliveryRegs := by simp [deliveryRegs]
theorem mem_tsuEvt : Reg.TSU_EVT ∈ deliveryRegs := by simp [deliveryRegs]
theorem mem_coreStat {c : Nat} (h : c < 9) : Reg.TSU_CORE_STAT c ∈ deliveryRegs :=
  List.mem_cons_of_mem _ (List.mem_cons_of_mem _ (List.mem_map_of_mem (List.mem_range.2 h)))

theorem State.OnlyRaised.endWait (h : s.OnlyRaised t l) (c : Nat) (r : Word) : s.OnlyRaised (t.endWait c r) l := by
  unfold State.endWait
  by_cases hc : c < 9
  · simpa [hc, State.setBit] using (h.setCore c _).deliver (mem_coreStat hc) _
  · simpa [hc] using h.setCore c _

theorem State.OnlyRaised.wakeTake (h : s.OnlyRaised t l) (c : Nat) : s.OnlyRaised (t.wakeTake c) l := (h.endWait c _).setCore c _

theorem State.OnlyRaised.wakeCore (h : s.OnlyRaised t l) (c : Nat) : s.OnlyRaised (t.wakeCore c) l := by
  unfold State.wakeCore
  split
  · exact h
  · split
    · exact h.wakeTake c
    · exact h
  · split
    · exact h.endWait c _
    · exact h

theorem State.OnlyRaised.irqLost (h : s.OnlyRaised t l) (n : Nat) : s.OnlyRaised (t.irqLost n) l := by
  have h1 : s.OnlyRaised ((t.orBits Reg.TSU_IRQLOST (bitW n)).orBits Reg.TSU_EVT (bitW 26)) l := (h.deliver mem_lost _).deliver mem_tsuEvt _
  unfold State.irqLost
  dsimp only
  split
  · split
    · exact (h1.deliver mem_lost _).wakeCore _
    · exact h1.deliver mem_lost _
  · exact h1

/-- The delivery of a source's interrupt changes only what delivery may change. -/
theorem State.OnlyRaised.irqSettle (h : s.OnlyRaised t l) (n : Nat) : s.OnlyRaised (t.irqSettle n) l := by
  unfold State.irqSettle
  split
  · split
    · exact (h.deliver mem_lost _).wakeCore _
    · exact h.irqLost n
  · exact h

/-- Raising event bits changes their register and what delivery may change. -/
theorem State.OnlyRaised.raise (h : s.OnlyRaised t l) {e : Nat} (he : e ∈ l) (n : Nat) (m : Word) : s.OnlyRaised (t.raise n e m) l :=
  (h.wr he _).irqSettle n

/-- A register that is neither the raised one nor one of delivery is as before. -/
theorem State.rd_raise_other (s : State) (n e : Nat) (m : Word) {a : Nat} (ha : a ≠ e) (hd : a ∉ deliveryRegs) : (s.raise n e m).rd a = s.rd a :=
  ((State.OnlyRaised.refl s [e]).raise (by simp) n m).regs a (by simp [ha, hd])

/-- The raised bits are set in their register, beside those it holds. -/
theorem State.rd_raise_same (s : State) (n e : Nat) (m : Word) (hd : e ∉ deliveryRegs) : (s.raise n e m).rd e = s.rd e ||| m := by
  have h := ((State.OnlyRaised.refl (s.orBits e m) []).irqSettle n).regs e (by simpa using hd)
  exact h.trans (State.rd_wr_same s e _)

end Sys2Proof.Machine
end

