-- ==== Sys2Proof/Laws/Jobs.lean ====
section
/-! SUPPORT. What the lane instructions keep of a job: the lengths of its lists. -/

namespace Sys2Proof.Machine

theorem LaneJob.Shaped.advance {j : LaneJob} (h : j.Shaped) (w : Word) : (j.advance w).Shaped := by
  unfold LaneJob.advance; repeat' split
  all_goals exact { h with }

theorem LaneJob.Shaped.mac {j : LaneJob} (h : j.Shaped) (w co : Word) : (j.mac w co).Shaped := by
  unfold LaneJob.mac
  dsimp only
  repeat' split
  all_goals exact { h with acc := by simp [h.acc] }

theorem LaneJob.Shaped.clearAcc {j : LaneJob} (h : j.Shaped) (k : Nat) : (j.clearAcc k).Shaped := { h with acc := by simp [LaneJob.clearAcc, h.acc] }

theorem LaneJob.Shaped.stx {j : LaneJob} (h : j.Shaped) (w : Word) : (j.stx w).1.Shaped := by
  unfold LaneJob.stx
  dsimp only
  split
  · exact h.clearAcc _
  · split
    all_goals exact { h.clearAcc _ with xNew := by simp [h.xNew] }

theorem LaneJob.Shaped.stu {j : LaneJob} (h : j.Shaped) (w : Word) : (j.stu w).1.Shaped := by
  unfold LaneJob.stu
  dsimp only
  split
  · exact h.clearAcc _
  · exact { h.clearAcc _ with u := by simp [h.u] }

theorem LaneJob.Shaped.lim {j : LaneJob} (h : j.Shaped) (w : Word) : (j.lim w).Shaped := by
  unfold LaneJob.lim
  dsimp only
  split
  · exact h
  · exact { h with us := by simp [h.us], w := by simp [h.w] }

theorem State.startJob_shaped (s : State) (q : LawJob) : (s.startJob q).1.Shaped := by
  unfold State.startJob
  dsimp only
  exact ⟨rfl, rfl, rfl, rfl, rfl⟩

end Sys2Proof.Machine
end

