-- ==== Sys2Proof/Laws/Keep.lean ====
section
/-! SUPPORT. What an operation on the state keeps: the queue of commands, the canonical form of the tables, and the lengths of the lists that stand
for a fixed number of things. One lemma for each way of changing the state; the KeepBase and the files after it have one for each operation. -/

namespace Sys2Proof.Machine

/-- From s to t: the same commands wait, and the canonical form and the fixed lengths are kept. -/
structure State.Keep (s t : State) : Prop where
  queue : t.pending = s.pending
  canon : s.Canonical → t.Canonical
  shape : s.Shaped → t.Shaped

namespace State.Keep

variable {s t u : State}

theorem refl (s : State) : s.Keep s := ⟨rfl, id, id⟩

theorem trans (h : s.Keep t) (k : t.Keep u) : s.Keep u := ⟨k.queue.trans h.queue, k.canon ∘ h.canon, k.shape ∘ h.shape⟩

theorem wr (h : s.Keep t) (a : Nat) (v : Word) : s.Keep (t.wr a v) :=
  ⟨h.queue, fun c => { h.canon c with regs := Table.wf_set (h.canon c).regs a v }, fun c => { h.shape c with }⟩

/-- Blocks that hold no list of a fixed length and no canonical table. -/
theorem blocks (h : s.Keep t) (free : Nat) (tb : TimeBase) (fbk : FbkBlock) (trn : TrnBlock) (tsu : TsuBlock) (hst : HstBlock)
    (spr : SprBlock) (pair : PairBlock) (sys : SysBlock) :
    s.Keep { t with free := free, tb := tb, fbk := fbk, trn := trn, tsu := tsu, hst := hst, spr := spr, pair := pair, sys := sys } :=
  ⟨h.queue, fun c => { h.canon c with }, fun c => { h.shape c with }⟩

theorem withLaw (h : s.Keep t) (x : LawBlock) (e : x.lanes = t.law.lanes) : s.Keep { t with law := x } :=
  ⟨h.queue, fun c => { h.canon c with }, fun c => { h.shape c with lane := fun y hy => (h.shape c).lane y (e ▸ hy) }⟩

theorem withSaf (h : s.Keep t) (x : SafBlock)
    (e : s.Shaped → t.Shaped → x.g.inputs.length = 8 ∧ x.b.inputs.length = 8 ∧ x.g.grps.length = 8 ∧ x.b.grps.length = 8) :
    s.Keep { t with saf := x } :=
  ⟨h.queue, fun c => { h.canon c with }, fun c =>
    let e := e c (h.shape c)
    { h.shape c with gIn := e.1, bIn := e.2.1, gGrp := e.2.2.1, bGrp := e.2.2.2 }⟩

theorem withFio (h : s.Keep t) (x : FioBlock) (e : s.Shaped → t.Shaped → x.Shaped) : s.Keep { t with fio := x } :=
  ⟨h.queue, fun c => { h.canon c with }, fun c => { h.shape c with fio := e c (h.shape c) }⟩

theorem withHall (h : s.Keep t) (x : HallBlock)
    (e : Table.wf (fun _ => (0 : Byte)) t.hall.bytes = true → Table.wf (fun _ => (0 : Byte)) x.bytes = true) : s.Keep { t with hall := x } :=
  ⟨h.queue, fun c => { h.canon c with hall := e (h.canon c).hall }, fun c => { h.shape c with }⟩

theorem withCap (h : s.Keep t) (x : CapBlock) (e : Table.rising 0 t.cap.dram = true → Table.rising 0 x.dram = true) : s.Keep { t with cap := x } :=
  ⟨h.queue, fun c => { h.canon c with dram := e (h.canon c).dram }, fun c => { h.shape c with }⟩

theorem withPv (h : s.Keep t) (x : PvBlock)
    (e : t.Canonical → Table.wf pregFactory x.words = true ∧ Table.wf (fun _ => (0 : Word)) x.wear = true
      ∧ Table.wf (fun _ => (0 : Word)) x.hmap = true ∧ Table.wf (fun _ => (0xFF : Byte)) x.flash = true) : s.Keep { t with pv := x } :=
  ⟨h.queue, fun c => let e := e (h.canon c); { h.canon c with words := e.1, wear := e.2.1, hmap := e.2.2.1, flash := e.2.2.2 },
    fun c => { h.shape c with }⟩


theorem mem_set {α : Type} [DecidableEq α] {d : Nat → α} {l : List (Nat × α)} {k : Nat} {v : α} {e : Nat × α}
    (h : e ∈ Table.set d l k v) : e = (k, v) ∨ e ∈ l := by
  unfold Table.set at h
  split at h
  · exact .inr (Table.mem_erase h)
  · exact (Table.mem_insert h).imp_right Table.mem_erase

theorem setLane (h : s.Keep t) (n : Nat) (l : Lane) (e : s.Shaped → t.Shaped → ∀ j, l.job = some j → j.Shaped) : s.Keep (t.setLane n l) :=
  ⟨h.queue, fun c => { h.canon c with }, fun c => { h.shape c with
    lane := fun y hy => by
      rcases mem_set hy with rfl | hy
      · exact e c (h.shape c)
      · exact (h.shape c).lane y hy }⟩

/-- A job that a lane holds has the lengths of its lists. -/
theorem lane_job (c : t.Shaped) (n : Nat) {j : LaneJob} (h : (t.lane n).job = some j) : j.Shaped := by
  have g : ∀ l : Table Lane, (∀ e ∈ l, ∀ i, e.2.job = some i → i.Shaped) → ∀ i, (Table.get laneInit l n).job = some i → i.Shaped := by
    intro l hl
    induction l with
    | nil =>
      intro i hi
      simp only [Table.get, laneInit] at hi
      split at hi <;> cases hi
    | cons e l ih =>
      intro i hi
      simp only [Table.get] at hi
      split at hi
      · exact hl e (by simp) i hi
      · exact ih (fun e he => hl e (by simp [he])) i hi
  exact g _ c.lane j h

theorem emptyLane (h : s.Keep t) (n : Nat) (l : Lane) (e : l.job = none) : s.Keep (t.setLane n l) :=
  setLane h n l fun _ _ j hj => by rw [e] at hj; cases hj

theorem withPwm (h : s.Keep t) (x : Table PwmGrp) (e : s.Shaped → t.Shaped → ∀ y ∈ x, y.2.ph.length = 3) : s.Keep { t with pwm := x } :=
  ⟨h.queue, fun c => { h.canon c with }, fun c => { h.shape c with ph := e c (h.shape c) }⟩

/-! ## Control -/

theorem when (h : s.Keep t) (b : Bool) (f : State → State) (k : ∀ u, s.Keep u → s.Keep (f u)) : s.Keep (t.when b f) := by
  unfold State.when
  split
  · exact k t h
  · exact h

theorem foldl {α : Type} (f : State → α → State) (k : ∀ u x, s.Keep u → s.Keep (f u x)) :
    ∀ (l : List α) {t : State}, s.Keep t → s.Keep (l.foldl f t)
  | [], _, h => h
  | x :: l, t, h => foldl f k l (k t x h)

theorem each {α : Type} (h : s.Keep t) (l : List α) (f : α → State → State) (k : ∀ x u, s.Keep u → s.Keep (f x u)) : s.Keep (t.each l f) :=
  foldl _ (fun u x => k x u) l h

theorem ite {p : Prop} [Decidable p] {a b : State} (ha : p → s.Keep a) (hb : ¬ p → s.Keep b) : s.Keep (if p then a else b) := by
  split
  · exact ha ‹_›
  · exact hb ‹_›

theorem of_fst {α : Type} {v : State × α} {a : α} (e : v = (t, a)) (k : s.Keep v.1) : s.Keep t := by rw [e] at k; exact k

theorem of_snd {α : Type} {v : α × State} {a : α} (e : v = (a, t)) (k : s.Keep v.2) : s.Keep t := by rw [e] at k; exact k

theorem of_snd2 {α β : Type} {v : α × β × State} {a : α} {b : β} (e : v = (a, b, t)) (k : s.Keep v.2.2) : s.Keep t := by rw [e] at k; exact k

theorem of_some {v : Option State} (e : v = some t) (k : ∀ u, v = some u → s.Keep u) : s.Keep t := k t e

/-- A state on the way: what is kept up to it is kept up to what is made of it. -/
theorem bring (y : State) (h : s.Keep y) (k : s.Keep y → s.Keep u) : s.Keep u := k h

/-- A choice inside a pair's state. -/
theorem ite_fst {α : Type} {p : Prop} [Decidable p] {a b : State × α} (ha : p → s.Keep a.1) (hb : ¬ p → s.Keep b.1) :
    s.Keep (if p then a else b).1 := by
  split
  · exact ha ‹_›
  · exact hb ‹_›

theorem ite_snd {α : Type} {p : Prop} [Decidable p] {a b : α × State} (ha : p → s.Keep a.2) (hb : ¬ p → s.Keep b.2) :
    s.Keep (if p then a else b).2 := by
  split
  · exact ha ‹_›
  · exact hb ‹_›

end State.Keep
end Sys2Proof.Machine
end

