-- ==== Sys2Proof/Laws/KeepBase.lean ====
section
/-! SUPPORT. What the operations keep: registers and tables, events, the persistent store, the Hall. -/

namespace Sys2Proof.Machine.State.Keep

variable {s t u : State}

/-! ## Ops -/

theorem setFld (h : s.Keep t) (a hi lo v : Nat) : s.Keep (t.setFld a hi lo v) := by
  unfold State.setFld
  repeat' with_reducible first | exact h | apply wr

theorem setBit (h : s.Keep t) (a i : Nat) (b : Bool) : s.Keep (t.setBit a i b) := by
  unfold State.setBit
  repeat' with_reducible first | exact h | apply wr

theorem orBits (h : s.Keep t) (a : Nat) (m : Word) : s.Keep (t.orBits a m) := by
  unfold State.orBits
  repeat' with_reducible first | exact h | apply wr

theorem clrBits (h : s.Keep t) (a : Nat) (m : Word) : s.Keep (t.clrBits a m) := by
  unfold State.clrBits
  repeat' with_reducible first | exact h | apply wr

theorem inc (h : s.Keep t) (a : Nat) : s.Keep (t.inc a) := by
  unfold State.inc
  repeat' with_reducible first | exact h | apply wr

theorem incFld (h : s.Keep t) (a hi lo : Nat) : s.Keep (t.incFld a hi lo) := by
  unfold State.incFld
  repeat' with_reducible first | exact h | apply setFld

theorem takeFree (h : s.Keep t) : s.Keep t.takeFree := by
  unfold State.takeFree
  repeat' with_reducible first | exact h | refine blocks ?_ _ _ _ _ _ _ _ _ _

theorem lvlPeak (h : s.Keep t) (k n : Nat) : s.Keep (t.lvlPeak k n) := by
  unfold State.lvlPeak
  repeat' with_reducible first | exact h | apply setFld | refine ite (fun _ => ?_) (fun _ => ?_)

theorem setAxis (h : s.Keep t) (a : Nat) (c : AxisCtx) : s.Keep (t.setAxis a c) := by
  unfold State.setAxis
  repeat' first
    | with_reducible exact h
    | (extract_lets +onlyGivenNames y; subst y)
    | with_reducible refine withLaw ?_ _ (by rfl)

theorem setLawJobs (h : s.Keep t) (j : List LawJob) : s.Keep (t.setLawJobs j) := by
  unfold State.setLawJobs
  repeat' first
    | with_reducible exact h
    | (extract_lets +onlyGivenNames y; subst y)
    | with_reducible refine withLaw ?_ _ (by rfl)

theorem setSource (h : s.Keep t) (n : Nat) (c : Source) : s.Keep (t.setSource n c) := by
  unfold State.setSource
  repeat' first
    | with_reducible exact h
    | (extract_lets +onlyGivenNames y; clear_value y)
    | with_reducible refine blocks ?_ _ _ _ _ _ _ _ _ _

theorem setChan (h : s.Keep t) (n : Nat) (c : Channel) : s.Keep (t.setChan n c) := by
  unfold State.setChan
  repeat' first
    | with_reducible exact h
    | (extract_lets +onlyGivenNames y; clear_value y)
    | with_reducible refine blocks ?_ _ _ _ _ _ _ _ _ _

theorem setPout (h : s.Keep t) (n : Nat) (c : PassOut) : s.Keep (t.setPout n c) := by
  unfold State.setPout
  repeat' first
    | with_reducible exact h
    | (extract_lets +onlyGivenNames y; clear_value y)
    | with_reducible refine blocks ?_ _ _ _ _ _ _ _ _ _

theorem setSeg (h : s.Keep t) (n : Nat) (c : SegCtx) : s.Keep (t.setSeg n c) := by
  unfold State.setSeg
  repeat' first
    | with_reducible exact h
    | (extract_lets +onlyGivenNames y; clear_value y)
    | with_reducible refine blocks ?_ _ _ _ _ _ _ _ _ _

theorem setNode (h : s.Keep t) (n k : Nat) (c : NodeCtx) : s.Keep (t.setNode n k c) := by
  unfold State.setNode
  repeat' first
    | with_reducible exact h
    | (extract_lets +onlyGivenNames y; clear_value y)
    | with_reducible refine blocks ?_ _ _ _ _ _ _ _ _ _

theorem setCore (h : s.Keep t) (n : Nat) (c : Core) : s.Keep (t.setCore n c) := by
  unfold State.setCore
  repeat' first
    | with_reducible exact h
    | (extract_lets +onlyGivenNames y; clear_value y)
    | with_reducible refine blocks ?_ _ _ _ _ _ _ _ _ _

theorem setTsuJobs (h : s.Keep t) (j : List TsuJob) : s.Keep (t.setTsuJobs j) := by
  unfold State.setTsuJobs
  repeat' first
    | with_reducible exact h
    | (extract_lets +onlyGivenNames y; clear_value y)
    | with_reducible refine blocks ?_ _ _ _ _ _ _ _ _ _

theorem setWin (h : s.Keep t) (k : Nat) (w : Window) : s.Keep (t.setWin k w) := by
  unfold State.setWin
  repeat' first
    | with_reducible exact h
    | (extract_lets +onlyGivenNames y; clear_value y)
    | with_reducible refine blocks ?_ _ _ _ _ _ _ _ _ _

theorem setLand (h : s.Keep t) (h₁ : Nat) (l : Land) : s.Keep (t.setLand h₁ l) := by
  unfold State.setLand
  repeat' first
    | with_reducible exact h
    | (extract_lets +onlyGivenNames y; clear_value y)
    | with_reducible refine blocks ?_ _ _ _ _ _ _ _ _ _

theorem setSession (h : s.Keep t) (n : Nat) (c : Session) : s.Keep (t.setSession n c) := by
  unfold State.setSession
  repeat' first
    | with_reducible exact h
    | (extract_lets +onlyGivenNames y; subst y)
    | with_reducible refine withCap ?_ _ (fun c => c)

theorem deny (h : s.Keep t) (m a : Nat) (write : Bool) (kind : Nat) : s.Keep (t.deny m a write kind) := by
  unfold State.deny
  repeat' with_reducible first | exact h | apply inc | apply wr | refine ite (fun _ => ?_) (fun _ => ?_)

theorem hallWrite (h : s.Keep t) (o : Nat) (bs : List Byte) : s.Keep (t.hallWrite o bs) :=
  withHall h _ (fun c => Table.wf_setRange bs c o)

theorem hallPut (h : s.Keep t) (o : Nat) (w : Word) : s.Keep (t.hallPut o w) := by
  unfold State.hallPut
  repeat' with_reducible first | exact h | apply hallWrite

/-! ## Flags -/

theorem endWait (h : s.Keep t) (c : Nat) (res : Word) : s.Keep (t.endWait c res) := by
  unfold State.endWait
  repeat' with_reducible first | exact h | apply setBit | apply setCore | refine ite (fun _ => ?_) (fun _ => ?_)

theorem wakeTake (h : s.Keep t) (c : Nat) : s.Keep (t.wakeTake c) := by
  unfold State.wakeTake
  repeat' with_reducible first
    | exact h | assumption | apply endWait | apply setCore | refine ite (fun _ => ?_) (fun _ => ?_) | intro _

theorem wakeCore (h : s.Keep t) (c : Nat) : s.Keep (t.wakeCore c) := by
  unfold State.wakeCore
  repeat' first | with_reducible first | exact h | apply wakeTake | apply endWait | split

theorem irqLost (h : s.Keep t) (n : Nat) : s.Keep (t.irqLost n) := by
  unfold State.irqLost
  repeat' with_reducible first | exact h | apply clrBits | apply orBits | apply wakeCore | refine ite (fun _ => ?_) (fun _ => ?_)

theorem irqSettle (h : s.Keep t) (n : Nat) : s.Keep (t.irqSettle n) := by
  unfold State.irqSettle
  repeat' with_reducible first | exact h | apply clrBits | apply irqLost | apply wakeCore | refine ite (fun _ => ?_) (fun _ => ?_)

theorem raise (h : s.Keep t) (n evt : Nat) (m : Word) : s.Keep (t.raise n evt m) := by
  unfold State.raise
  repeat' with_reducible first | exact h | apply irqSettle | apply orBits

theorem galEvt (h : s.Keep t) (i : Nat) : s.Keep (t.galEvt i) := by
  unfold State.galEvt
  repeat' with_reducible first | exact h | apply raise

theorem lrnEvt (h : s.Keep t) (i : Nat) : s.Keep (t.lrnEvt i) := by
  unfold State.lrnEvt
  repeat' with_reducible first | exact h | apply raise

theorem fbkEvt (h : s.Keep t) (i : Nat) : s.Keep (t.fbkEvt i) := by
  unfold State.fbkEvt
  repeat' with_reducible first | exact h | apply raise

theorem pwmEvt (h : s.Keep t) (i : Nat) : s.Keep (t.pwmEvt i) := by
  unfold State.pwmEvt
  repeat' with_reducible first | exact h | apply raise

theorem tbEvt (h : s.Keep t) (i : Nat) : s.Keep (t.tbEvt i) := by
  unfold State.tbEvt
  repeat' with_reducible first | exact h | apply raise

theorem fioEvt (h : s.Keep t) (i : Nat) : s.Keep (t.fioEvt i) := by
  unfold State.fioEvt
  repeat' with_reducible first | exact h | apply raise

theorem tsuEvt (h : s.Keep t) (i : Nat) : s.Keep (t.tsuEvt i) := by
  unfold State.tsuEvt
  repeat' with_reducible first | exact h | apply raise

theorem capEvt (h : s.Keep t) (i : Nat) : s.Keep (t.capEvt i) := by
  unfold State.capEvt
  repeat' with_reducible first | exact h | apply raise

theorem portEvt (h : s.Keep t) (n ch i : Nat) : s.Keep (t.portEvt n ch i) := by
  unfold State.portEvt
  repeat' with_reducible first | exact h | apply raise

theorem abEvt (h : s.Keep t) (n i : Nat) : s.Keep (t.abEvt n i) := by
  unfold State.abEvt
  repeat' with_reducible first | exact h | apply raise

theorem segEvt (h : s.Keep t) (n i : Nat) : s.Keep (t.segEvt n i) := by
  unfold State.segEvt
  repeat' with_reducible first | exact h | apply raise

theorem capEventAt (h : s.Keep t) (k obj detail : Nat) (cyc : Word) (ft : Nat) : s.Keep (t.capEventAt k obj detail cyc ft) := by
  unfold State.capEventAt
  repeat' first
    | with_reducible first
        | exact h | assumption | apply capEvt | apply each | apply inc | apply setSession
        | refine ite (fun _ => ?_) (fun _ => ?_)
    | (extract_lets +onlyGivenNames y; subst y)
    | with_reducible first | refine withCap ?_ _ (fun c => c) | intro _

theorem capEvent (h : s.Keep t) (k obj detail : Nat) : s.Keep (t.capEvent k obj detail) := by
  unfold State.capEvent
  repeat' with_reducible first | exact h | apply capEventAt

theorem capFree (h : s.Keep t) (n : Nat) : s.Keep (t.capFree n) := by
  unfold State.capFree
  repeat' with_reducible first | exact h | apply wr

theorem capDone (h : s.Keep t) (n : Nat) : s.Keep (t.capDone n) := by
  unfold State.capDone
  repeat' with_reducible first
    | exact h | apply capEvt | apply capFree | apply setBit | apply setFld | apply setSession
    | refine ite (fun _ => ?_) (fun _ => ?_)

theorem capMark (h : s.Keep t) (n p k written : Nat) : s.Keep (t.capMark n p k written) := by
  unfold State.capMark
  repeat' with_reducible first
    | exact h | assumption | apply capDone | apply setSession | apply wr | refine ite (fun _ => ?_) (fun _ => ?_) | intro _

theorem capSame (h : s.Keep t) (n t₁ : Nat) : s.Keep (t.capSame n t₁) := by
  unfold State.capSame
  repeat' first
    | with_reducible first | exact h | apply capMark | refine ite (fun _ => ?_) (fun _ => ?_)
    | (extract_lets +onlyGivenNames y; subst y)
    | split
    | with_reducible refine withCap ?_ _ (fun c => Table.rising_put c _ _)

theorem capAccept (x : Nat) : ∀ (f : Nat) {t : State}, s.Keep t → ∀ n : Nat, s.Keep (State.capAccept x f t n)
  | 0, _, h => fun _ => h
  | f + 1, t, h => fun n => by
    unfold State.capAccept
    dsimp only
    repeat' first
      | exact h
      | with_reducible assumption
      | (with_reducible apply capAccept)
      | (with_reducible apply capSame)
      | (with_reducible apply setFld)
      | (with_reducible apply incFld)
      | (with_reducible apply setSession)
      | (with_reducible refine ite (fun _ => ?_) (fun _ => ?_))
      | (with_reducible apply foldl)
      | intro _

theorem capTrigger (h : s.Keep t) (n : Nat) : s.Keep (t.capTrigger n) := by
  unfold State.capTrigger
  repeat' with_reducible first | exact h | apply capAccept

theorem capCond (h : s.Keep t) (k : Nat) (sel : Word → Bool) : s.Keep (t.capCond k sel) := by
  unfold State.capCond
  repeat' with_reducible first | exact h | assumption | apply capTrigger | apply each | refine ite (fun _ => ?_) (fun _ => ?_) | intro _

theorem safetyEvent (h : s.Keep t) (obj detail : Nat) : s.Keep (t.safetyEvent obj detail) := by
  unfold State.safetyEvent
  repeat' with_reducible first
    | exact h | apply capCond | apply capEvent | apply endWait | apply inc | apply irqLost | apply setCore | apply wakeCore
    | refine ite (fun _ => ?_) (fun _ => ?_)

/-! ## LawMath -/

/-! ## Persist -/

theorem pushRec (h : s.Keep t) (r : SprRec) : s.Keep (t.pushRec r) := by
  unfold State.pushRec
  repeat' first
    | with_reducible first | exact h | apply capEvent | apply orBits | refine ite (fun _ => ?_) (fun _ => ?_)
    | (extract_lets +onlyGivenNames y; clear_value y)
    | with_reducible refine blocks ?_ _ _ _ _ _ _ _ _ _

theorem pregStore (h : s.Keep t) (n : Nat) (v wr : Word) : s.Keep (t.pregStore n v wr) :=
  withPv h _ (fun c => ⟨Table.wf_set c.words n v, Table.wf_set c.wear n wr, c.hmap, c.flash⟩)

theorem pregPut (h : s.Keep t) (n : Nat) (v : Word) : s.Keep (t.pregPut n v) := by
  unfold State.pregPut
  repeat' first
    | with_reducible first
        | exact h | apply orBits | apply pregStore | apply pushRec | apply takeFree | refine ite (fun _ => ?_) (fun _ => ?_)
    | (extract_lets +onlyGivenNames y; subst y)
    | with_reducible refine withPv ?_ _ (fun c => ⟨c.words, c.wear, c.hmap, c.flash⟩)

theorem pregRefuse (h : s.Keep t) : s.Keep t.pregRefuse := by
  unfold State.pregRefuse
  repeat' with_reducible first | exact h | apply inc | apply orBits

theorem pregMove (h : s.Keep t) (n : Nat) (v : Word) : s.Keep (t.pregMove n v) :=
  withPv h _ (fun c => ⟨Table.wf_set c.words n v, c.wear, c.hmap, c.flash⟩)

theorem recSwap (h : s.Keep t) (i j : Nat) : s.Keep (t.recSwap i j) := by
  unfold State.recSwap
  repeat' with_reducible first
    | exact h | assumption | apply each | apply pregMove | apply each | refine ite (fun _ => ?_) (fun _ => ?_) | intro _

theorem recSort : ∀ (k i : Nat) {t : State}, s.Keep t → s.Keep (t.recSort i k)
  | 0, _, _, h => h
  | k + 1, i, t, h => by
    unfold State.recSort
    exact ite (fun _ => recSort k _ (recSwap h _ _)) (fun _ => h)

theorem recPlace (h : s.Keep t) (i : Nat) : s.Keep (t.recPlace i) := by
  unfold State.recPlace
  extract_lets n
  exact recSort _ _ (blocks h _ _ _ _ _ _ _ _ _)

theorem writeRec (h : s.Keep t) : s.Keep t.writeRec := by
  unfold State.writeRec
  split
  · exact h
  · rename_i r rest _
    have h₁ : s.Keep { t with spr := { t.spr with recs := rest } } := blocks h _ _ _ _ _ _ _ _ _
    refine ite (fun _ => incFld (pregRefuse h₁) _ _ _) (fun _ => ?_)
    with_reducible exact recPlace (pregPut (pregPut (pregPut (pregPut (pregPut h₁ _ _) _ _) _ _) _ _) _ _) _

theorem drainRecs : ∀ (k : Nat) {t : State}, s.Keep t → s.Keep (t.drainRecs k)
  | 0, _, h => h
  | k + 1, t, h => by
    unfold State.drainRecs
    split
    · exact h
    · exact drainRecs k (writeRec h)

theorem pregWrite (h : s.Keep t) (n : Nat) (v : Word) : s.Keep (t.pregWrite n v).1 := by
  unfold State.pregWrite
  repeat' with_reducible first
    | exact h | apply drainRecs | apply pregPut | apply pregRefuse | refine ite_fst (fun _ => ?_) (fun _ => ?_)

theorem record (h : s.Keep t) (r : SprRec) : s.Keep (t.record r) := by
  unfold State.record
  repeat' with_reducible first | exact h | apply drainRecs | apply pushRec

theorem pregKeep (h : s.Keep t) (n : Nat) (v : Word) : s.Keep (t.pregKeep n v) := by
  unfold State.pregKeep
  repeat' first
    | with_reducible first | exact h | apply pregWrite | refine ite (fun _ => ?_) (fun _ => ?_)
    | (extract_lets +onlyGivenNames y; subst y)
    | with_reducible refine blocks ?_ _ _ _ _ _ _ _ _ _

theorem laneState (h : s.Keep t) (n st cause : Nat) : s.Keep (t.laneState n st cause) := by
  unfold State.laneState
  repeat' first
    | with_reducible first | exact h | apply pregKeep
    | (extract_lets +onlyGivenNames y; subst y)
    | with_reducible refine setLane ?_ _ _ ?_
    | exact fun _ c _ hj => lane_job c _ hj

theorem coreState (h : s.Keep t) (c st cause : Nat) : s.Keep (t.coreState c st cause) := by
  unfold State.coreState
  repeat' with_reducible first | exact h | apply pregKeep | apply setCore

theorem logRecord (h : s.Keep t) (cause : Word) : s.Keep (t.logRecord cause) := by
  unfold State.logRecord
  repeat' with_reducible first | exact h | apply drainRecs | apply pregPut | apply pregRefuse | refine ite (fun _ => ?_) (fun _ => ?_)

theorem markRow (h : s.Keep t) (r cause : Nat) : s.Keep (t.markRow r cause) := by
  unfold State.markRow
  repeat' first
    | with_reducible first | exact h | apply orBits | apply record | refine ite (fun _ => ?_) (fun _ => ?_)
    | (extract_lets +onlyGivenNames y; clear_value y)
    | with_reducible refine blocks ?_ _ _ _ _ _ _ _ _ _

theorem hallUncorr (h : s.Keep t) (o : Nat) : s.Keep (t.hallUncorr o) := by
  unfold State.hallUncorr
  repeat' with_reducible first | exact h | apply markRow

theorem hallCorrected (h : s.Keep t) (o : Nat) : s.Keep (t.hallCorrected o) := by
  unfold State.hallCorrected
  repeat' first
    | with_reducible first | exact h | apply markRow | refine ite (fun _ => ?_) (fun _ => ?_)
    | (extract_lets +onlyGivenNames y; clear_value y)
    | with_reducible refine blocks ?_ _ _ _ _ _ _ _ _ _

theorem hallLoad (h : s.Keep t) (m o n : Nat) : s.Keep (t.hallLoad m o n).2 := by
  unfold State.hallLoad
  repeat' with_reducible first | exact h | apply deny | apply hallUncorr | refine ite_snd (fun _ => ?_) (fun _ => ?_)

theorem hallStore (h : s.Keep t) (m o : Nat) (bs : List Byte) : s.Keep (t.hallStore m o bs).2 := by
  unfold State.hallStore
  repeat' first
    | with_reducible first
        | exact h | apply deny | apply hallUncorr | apply hallWrite | refine ite_snd (fun _ => ?_) (fun _ => ?_)
    | (extract_lets +onlyGivenNames y; subst y)
    | with_reducible refine withHall ?_ _ (fun c => c)

/-! ## Codes -/

theorem complete (h : s.Keep t) (m : Nat) (c : Completion) : s.Keep (t.complete m c) := by
  unfold State.complete
  repeat' first
    | with_reducible first
        | exact h | assumption | apply setLand | refine ite (fun _ => ?_) (fun _ => ?_)
    | (extract_lets +onlyGivenNames y; subst y)
    | split
    | with_reducible first | refine of_snd (by assumption) ?_ | refine of_fst (by assumption) ?_
        | refine blocks ?_ _ _ _ _ _ _ _ _ _ | intro _

end Sys2Proof.Machine.State.Keep
end

