-- ==== Sys2Proof/Laws/KeepLaw.lean ====
section
/-! SUPPORT. What the operations keep: feedback, the learner, the lanes. -/

namespace Sys2Proof.Machine.State.Keep

variable {s t u : State}

/-! ## Feedback -/

theorem setRaw (h : s.Keep t) (n : Nat) (v : Int) : s.Keep (t.setRaw n v) := by
  unfold State.setRaw
  repeat' with_reducible first | exact h | apply wr

theorem srcErr (h : s.Keep t) (n i e : Nat) : s.Keep (t.srcErr n i e) := by
  unfold State.srcErr
  repeat' with_reducible first | exact h | apply fbkEvt | apply incFld | apply setBit

theorem direction (h : s.Keep t) (n : Nat) (neg : Bool) (cyc : Word) (ft : Nat) : s.Keep (t.direction n neg cyc ft) := by
  unfold State.direction
  repeat' with_reducible first
    | exact h | apply capEventAt | apply fbkEvt | apply setBit | apply setSource | apply wr
    | refine ite (fun _ => ?_) (fun _ => ?_)

theorem countEdge (h : s.Keep t) (n : Nat) (t₁ d : Int) (cyc : Word) (ft : Nat) : s.Keep (t.countEdge n t₁ d cyc ft) := by
  unfold State.countEdge
  repeat' with_reducible first | exact h | apply direction | apply setSource

theorem indexAt (h : s.Keep t) (n : Nat) (rawAt : Int) (cyc : Word) (ft : Nat) : s.Keep (t.indexAt n rawAt cyc ft) := by
  unfold State.indexAt
  repeat' first
    | with_reducible first | exact h | apply capEventAt | apply capEvent | apply fbkEvt | apply incFld | apply setBit | apply setSource | apply wr
    | (extract_lets +onlyGivenNames y; subst y)
    | split

theorem speedAt (h : s.Keep t) (n : Nat) (t₁ : Int) : s.Keep (t.speedAt n t₁) := by
  unfold State.speedAt
  repeat' with_reducible first | exact h | apply setSource | apply wr

theorem reportAt (h : s.Keep t) (n : Nat) : s.Keep (t.reportAt n) := by
  unfold State.reportAt
  repeat' with_reducible first | exact h | apply fbkEvt | apply setSource | apply wr | refine ite (fun _ => ?_) (fun _ => ?_)

theorem ptShow (h : s.Keep t) (m : Nat) : s.Keep (t.ptShow m) := by
  unfold State.ptShow
  repeat' with_reducible first | exact h | apply setBit | apply setFld

theorem ptPins (h : s.Keep t) (m : Nat) : s.Keep (t.ptPins m) := by
  unfold State.ptPins
  repeat' with_reducible first | exact h | apply setPout

theorem ptBase (h : s.Keep t) (m : Nat) : s.Keep (t.ptBase m) := by
  unfold State.ptBase
  repeat' with_reducible first | exact h | apply ptShow | apply ptPins | apply setPout | refine ite (fun _ => ?_) (fun _ => ?_)

theorem ptRatio (h : s.Keep t) (m n : Nat) : s.Keep (t.ptRatio m n) := by
  unfold State.ptRatio
  repeat' with_reducible first
    | exact h | assumption | apply setPout | refine ite (fun _ => ?_) (fun _ => ?_) | intro _

theorem ptTarget (h : s.Keep t) (m n : Nat) (t₁ : Int) : s.Keep (t.ptTarget m n t₁) := by
  unfold State.ptTarget
  repeat' with_reducible first
    | exact h | apply ptPins | apply ptRatio | apply fbkEvt | apply ptBase | apply ptShow | apply setBit | apply setPout
    | refine ite (fun _ => ?_) (fun _ => ?_)

theorem sampled (h : s.Keep t) (n : Nat) (t₁ : Int) : s.Keep (t.sampled n t₁) := by
  unfold State.sampled
  repeat' with_reducible first | exact h | assumption | apply each | apply ptTarget | apply reportAt | apply speedAt | intro _

theorem adopt (h : s.Keep t) (n : Nat) : s.Keep (t.adopt n) := by
  unfold State.adopt
  repeat' with_reducible first
    | exact h | assumption | apply setSource | refine ite (fun _ => ?_) (fun _ => ?_) | intro _

theorem takeValue (h : s.Keep t) (n w v : Nat) (t₁ te : Int) (cyc : Word) (ft : Nat) : s.Keep (t.takeValue n w v t₁ te cyc ft) := by
  unfold State.takeValue
  repeat' with_reducible first
    | exact h | apply adopt | apply countEdge | apply sampled | apply setRaw | apply setSource | refine ite (fun _ => ?_) (fun _ => ?_)

theorem localCount (h : s.Keep t) (n tick : Nat) (d : Int) : s.Keep (t.localCount n tick d) := by
  unfold State.localCount
  repeat' with_reducible first | exact h | apply countEdge | apply setChan

theorem quadratureCount (h : s.Keep t) (ch tick : Nat) (a b : Bool) (sa sb : Nat) : s.Keep (Machine.quadratureCount ch tick a b sa sb t) := by
  unfold Machine.quadratureCount
  repeat' with_reducible first | exact h | apply chan | apply localCount | apply setChan | apply srcErr | refine ite (fun _ => ?_) (fun _ => ?_)

theorem pulseCount (h : s.Keep t) (ch tick : Nat) (b : Bool) (sa sb : Nat) : s.Keep (Machine.pulseCount ch tick b sa sb t) := by
  unfold Machine.pulseCount
  repeat' with_reducible first | exact h | apply chan | apply localCount | apply setChan | refine ite (fun _ => ?_) (fun _ => ?_)

theorem indexEvent (h : s.Keep t) (ch tick sz : Nat) : s.Keep (Machine.indexEvent ch tick sz t) := by
  unfold Machine.indexEvent
  repeat' with_reducible first | exact h | apply chan | apply indexAt | apply setChan | refine ite (fun _ => ?_) (fun _ => ?_)

theorem feedbackSample (h : s.Keep t) (ch tick : Nat) : s.Keep (Machine.feedbackSample ch tick t) := by
  unfold Machine.feedbackSample
  repeat' first
    | with_reducible first
        | exact h | assumption | apply adopt | apply chan | apply fbkEvt | apply sampled | apply setBit | apply setChan
        | apply setRaw | apply takeValue | refine ite (fun _ => ?_) (fun _ => ?_)
    | (extract_lets +onlyGivenNames y; subst y)
    | split
    | with_reducible first | refine of_snd (by assumption) ?_ | refine of_fst (by assumption) ?_
        | refine blocks ?_ _ _ _ _ _ _ _ _ _ | intro _

theorem serialReadStart (h : s.Keep t) (ch tick : Nat) : s.Keep (Machine.serialReadStart ch tick t) := by
  unfold Machine.serialReadStart
  repeat' with_reducible first | exact h | apply setChan | refine ite (fun _ => ?_) (fun _ => ?_)

theorem serialReadDone (h : s.Keep t) (ch : Nat) (d : SerialData) : s.Keep (Machine.serialReadDone ch d t) := by
  unfold Machine.serialReadDone
  repeat' first
    | with_reducible first | exact h | apply setBit | apply setChan | apply setFld | apply srcErr
    | (extract_lets +onlyGivenNames y; subst y)
    | split

theorem ackTimeout (h : s.Keep t) (ch : Nat) : s.Keep (Machine.ackTimeout ch t) := by
  unfold Machine.ackTimeout
  repeat' first
    | with_reducible first | exact h | apply setBit | apply setChan
    | (extract_lets +onlyGivenNames y; clear_value y)
    | split

theorem takeRecord (h : s.Keep t) (r : Nat) (full : Bool) (bs : List Byte) (base : Nat) (cyc : Word) : s.Keep (t.takeRecord r full bs base cyc) := by
  unfold State.takeRecord
  repeat' with_reducible first
    | exact h | apply adopt | apply countEdge | apply indexAt | apply sampled | apply setBit | apply setRaw | apply setSource
    | apply srcErr | apply takeValue | refine ite (fun _ => ?_) (fun _ => ?_)

theorem dsmResult (h : s.Keep t) (i : Nat) (l : DsmLine) (t₁ : Nat) : s.Keep (t.dsmResult i l t₁) := by
  unfold State.dsmResult
  repeat' first
    | with_reducible first
        | exact h | assumption | apply fbkEvt | apply setBit | apply setFld | apply takeFree
        | refine ite (fun _ => ?_) (fun _ => ?_)
    | (extract_lets +onlyGivenNames y; subst y)
    | split
    | with_reducible first | refine of_snd (by assumption) ?_ | refine of_fst (by assumption) ?_
        | refine blocks ?_ _ _ _ _ _ _ _ _ _ | intro _

theorem passThroughReemit (h : s.Keep t) (m : Nat) (a b z : Bool) : s.Keep (Machine.passThroughReemit m a b z t) := by
  unfold Machine.passThroughReemit
  repeat' with_reducible first | exact h | apply setChan | apply setPout | refine ite (fun _ => ?_) (fun _ => ?_)

theorem emulationEdge (h : s.Keep t) (m tick : Nat) : s.Keep (Machine.emulationEdge m tick t) := by
  unfold Machine.emulationEdge
  repeat' with_reducible first | exact h | apply ptPins | apply ptShow | apply setPout | refine ite (fun _ => ?_) (fun _ => ?_)

theorem originPair (h : s.Keep t) (n : Nat) (v : Word) : s.Keep (t.originPair n v) := by
  unfold State.originPair
  repeat' with_reducible first | exact h | apply setSource | apply wr

theorem limitPair (h : s.Keep t) (n : Nat) (v : Word) : s.Keep (t.limitPair n v) := by
  unfold State.limitPair
  repeat' with_reducible first | exact h | apply fbkEvt | apply setSource | apply wr | refine ite (fun _ => ?_) (fun _ => ?_)

theorem bindSource (h : s.Keep t) (n : Nat) : s.Keep (t.bindSource n) := by
  unfold State.bindSource
  repeat' with_reducible first | exact h | apply setSource | refine ite (fun _ => ?_) (fun _ => ?_)

theorem startSource (h : s.Keep t) (n : Nat) : s.Keep (t.startSource n) := by
  unfold State.startSource
  repeat' with_reducible first
    | exact h | apply setChan | apply setRaw | apply setSource | apply wr | refine ite (fun _ => ?_) (fun _ => ?_)

/-! ## Learner -/

theorem lrnDeny (h : s.Keep t) (a addr : Nat) (write : Bool) : s.Keep (t.lrnDeny a addr write) := by
  unfold State.lrnDeny
  repeat' with_reducible first | exact h | apply deny | apply lrnEvt | apply setBit

theorem lrnHallErr (h : s.Keep t) (a o : Nat) : s.Keep (t.lrnHallErr a o) := by
  unfold State.lrnHallErr
  repeat' with_reducible first | exact h | apply hallUncorr | apply lrnEvt | apply setBit

theorem lrnRead (h : s.Keep t) (a b : Nat) : s.Keep (t.lrnRead a b).2 := by
  unfold State.lrnRead
  repeat' with_reducible first | exact h | apply lrnDeny | apply lrnHallErr | refine ite_snd (fun _ => ?_) (fun _ => ?_)

theorem lrnWrite (h : s.Keep t) (a b : Nat) (v : Int) : s.Keep (t.lrnWrite a b v) := by
  unfold State.lrnWrite
  repeat' with_reducible first | exact h | apply hallWrite | apply lrnDeny | refine ite (fun _ => ?_) (fun _ => ?_)

theorem lrnCorrection (h : s.Keep t) (a bins num den : Nat) : s.Keep (t.lrnCorrection a bins num den).2.2 := by
  unfold State.lrnCorrection
  repeat' first
    | with_reducible first | exact h | apply lrnRead
    | (extract_lets +onlyGivenNames y; clear_value y)
    | split
    | with_reducible refine of_snd (by assumption) ?_

theorem lrnFrameIn (h : s.Keep t) (a : Nat) (cyc : Word) (raw : Int) (th : Nat) (spd : Int) (errs : List Int) (sats : List Bool) :
    s.Keep (t.lrnFrameIn a cyc raw th spd errs sats).2.2 := by
  unfold State.lrnFrameIn
  split
  · exact h
  · extract_lets cfg c sn bins
    split
    extract_lets num rv s₁ skip
    have h₁ : s.Keep s₁ := setAxis h _ _
    clear_value s₁
    split
    rename_i v fail s₂ e
    refine wr (t := s₂) ?_ _ _
    split at e
    · cases e
      exact h₁
    · exact of_snd2 e (lrnCorrection h₁ _ _ _ _)

theorem lrnBin (h : s.Keep t) (a b : Nat) (j : LearnJob) (lam d : Nat) : s.Keep (t.lrnBin a b j lam d) := by
  unfold State.lrnBin
  repeat' first
    | with_reducible first | exact h | apply lrnRead | apply lrnWrite
    | split
    | with_reducible refine of_snd (by assumption) ?_

theorem lrnEnd (h : s.Keep t) (a : Nat) (j : LearnJob) (late : Bool) : s.Keep (t.lrnEnd a j late) := by
  unfold State.lrnEnd
  repeat' with_reducible first
    | exact h | apply inc | apply lrnBin | apply setBit | apply setFld | refine ite (fun _ => ?_) (fun _ => ?_)

theorem lrnTick0 (h : s.Keep t) (a : Nat) : s.Keep (t.lrnTick0 a) := by
  unfold State.lrnTick0
  repeat' with_reducible first
    | exact h | apply lrnEvt | apply setAxis | apply setBit | apply wr | refine ite (fun _ => ?_) (fun _ => ?_)

theorem lrnZeroReq (h : s.Keep t) (a : Nat) : s.Keep (t.lrnZeroReq a) := by
  unfold State.lrnZeroReq
  repeat' with_reducible first | exact h | apply setBit | refine ite (fun _ => ?_) (fun _ => ?_)

theorem lrnZeroUnits (a : Nat) : ∀ (k : Nat) {t : State} (_ : s.Keep t) (o : Nat), s.Keep (t.lrnZeroUnits a k o)
  | 0, _, h, _ => h
  | k + 1, t, h, o => by
    unfold State.lrnZeroUnits
    split
    · dsimp only
      refine lrnZeroUnits a k ?_ _
      exact withHall (hallWrite h _ _) _ fun c => c
    · exact lrnZeroUnits a k (lrnDeny h _ _ _) _

theorem lrnZeroDone (h : s.Keep t) (a : Nat) : s.Keep (Machine.lrnZeroDone a t) := by
  unfold Machine.lrnZeroDone
  split
  · exact lrnEvt (setBit (setAxis (lrnZeroUnits a _ h _) _ _) _ _ _) _
  · exact h

/-! ## Lane -/

theorem queueJobs (h : s.Keep t) (t₁ : Trigger) (cyc : Word) (rel : Nat) : s.Keep (t.queueJobs t₁ cyc rel) := by
  unfold State.queueJobs
  repeat' with_reducible first | exact h | apply lvlPeak | apply setLawJobs | refine ite (fun _ => ?_) (fun _ => ?_)

theorem startJob (h : s.Keep t) (q : LawJob) : s.Keep (t.startJob q).2 := by
  unfold State.startJob
  repeat' with_reducible first | exact h | apply lrnFrameIn

/-- The job of a lane has its lengths in every state up to which they are kept. -/
theorem job (h : s.Keep t) {n : Nat} {j : LaneJob} (e : (t.lane n).job = some j) (c : s.Shaped) : j.Shaped := lane_job (h.shape c) n e

theorem lawJobDispatch (h : s.Keep t) : s.Keep (Machine.lawJobDispatch t) := by
  unfold Machine.lawJobDispatch
  split
  · split
    · exact h
    · rename_i n _ _ q rest _
      dsimp only
      have k := setLane (startJob (setLawJobs h rest) q) n
        { ((t.setLawJobs rest).startJob q).2.lane n with job := some ((t.setLawJobs rest).startJob q).1 }
        fun _ _ i hi => by cases hi; exact State.startJob_shaped _ _
      split
      · exact setFld (wr (inc k _) _ _) _ _ _ _
      · exact wr (inc k _) _ _
  · split
    · exact galEvt (inc (setLawJobs h _) _) _
    · exact h

theorem laneStep (h : s.Keep t) (n op : Nat) (f : LaneJob → Word → State → State)
    (k : ∀ j w u, s.Keep u → (s.Shaped → j.Shaped) → s.Keep (f j w u)) : s.Keep (t.laneStep n op f) := by
  unfold State.laneStep
  split
  · exact h
  · dsimp only
    split
    · exact h
    · exact k _ _ _ h (h.job ‹_›)

theorem putJob (h : s.Keep t) (n : Nat) (j : LaneJob) (e : s.Shaped → j.Shaped) : s.Keep (t.putJob n j) :=
  setLane h _ _ fun c _ i hi => by cases hi; exact e c

theorem forcedStore (h : s.Keep t) (a : Nat) : s.Keep (t.forcedStore a) := by
  unfold State.forcedStore
  repeat' with_reducible first | exact h | apply galEvt | apply inc | apply setAxis | apply setBit

theorem laneNop (h : s.Keep t) (n : Nat) : s.Keep (Machine.laneNop n t) :=
  laneStep h _ _ _ fun _ w _ h e => putJob h _ _ fun c => (e c).advance w

theorem laneMac (h : s.Keep t) (n : Nat) : s.Keep (Machine.laneMac n t) :=
  laneStep h _ _ _ fun _ w _ h e => putJob h _ _ fun c => ((e c).mac w _).advance w

theorem laneStx (h : s.Keep t) (n : Nat) : s.Keep (Machine.laneStx n t) :=
  laneStep h _ _ _ fun _ w _ h e => when (putJob h _ _ fun c => ((e c).stx w).advance w) _ _ fun _ h => forcedStore h _

theorem laneStu (h : s.Keep t) (n : Nat) : s.Keep (Machine.laneStu n t) :=
  laneStep h _ _ _ fun _ w _ h e => when (putJob h _ _ fun c => ((e c).stu w).advance w) _ _ fun _ h => forcedStore h _

theorem laneLim (h : s.Keep t) (n : Nat) : s.Keep (Machine.laneLim n t) :=
  laneStep h _ _ _ fun _ w _ h e => putJob h _ _ fun c => ((e c).lim w).advance w

theorem laneRep (h : s.Keep t) (n : Nat) : s.Keep (Machine.laneRep n t) :=
  laneStep h _ _ _ fun _ _ _ h e => putJob h _ _ fun c => { e c with }

theorem shadowRelease (h : s.Keep t) (g : Nat) (c : BitVec 64) : s.Keep (t.shadowRelease g c) := by
  unfold State.shadowRelease
  repeat' with_reducible first | exact h | apply setBit | apply wr | refine ite (fun _ => ?_) (fun _ => ?_)

theorem redeliver (h : s.Keep t) (a : Nat) : s.Keep (t.redeliver a) := by
  unfold State.redeliver
  repeat' with_reducible first | exact h | apply shadowRelease | refine ite (fun _ => ?_) (fun _ => ?_)

theorem holdLate (h : s.Keep t) (a : Nat) : s.Keep (t.holdLate a) := by
  unfold State.holdLate
  repeat' with_reducible first | exact h | apply capCond | apply inc | apply redeliver | apply setAxis | apply setBit

theorem holdMiss (h : s.Keep t) (a : Nat) : s.Keep (t.holdMiss a) := by
  unfold State.holdMiss
  repeat' with_reducible first | exact h | apply capCond | apply inc | apply redeliver | apply setAxis | apply setBit

theorem holdStop (h : s.Keep t) (a : Nat) : s.Keep (t.holdStop a) := by
  unfold State.holdStop
  repeat' with_reducible first | exact h | apply redeliver | apply setBit

theorem lateHold (h : s.Keep t) (n : Nat) (j : LaneJob) (e : s.Shaped → j.Shaped) : s.Keep (t.lateHold n j) := by
  unfold State.lateHold
  refine ite (fun _ => ?_) (fun _ => ?_)
  · exact h
  · have k := putJob h n { j with held := true } fun c => ⟨(e c).acc, (e c).xNew, (e c).u, (e c).us, (e c).w⟩
    exact holdLate (lrnEnd k j.axis j.learn true) j.axis

theorem slackRecord (h : s.Keep t) (n : Nat) (slack : Int) (late : Bool) : s.Keep (t.slackRecord n slack late) := by
  unfold State.slackRecord
  repeat' first
    | with_reducible first | exact h | apply setFld | apply wr
    | (extract_lets +onlyGivenNames y; subst y)
    | with_reducible refine setLane ?_ _ _ ?_
    | exact fun _ c _ hj => lane_job c _ hj

theorem lawJobComplete (h : s.Keep t) (n stamp : Nat) : s.Keep (Machine.lawJobComplete n stamp t) := by
  unfold Machine.lawJobComplete
  split
  · exact h
  · rename_i j hj
    split
    · exact h
    · extract_lets late slack s₁ c s₂
      have h₂ : s.Keep s₂ := setAxis (slackRecord h n slack late) _ _
      split
      · exact capEventAt (emptyLane (galEvt (inc (inc (lateHold h₂ n j (h.job hj)) _) _) _) _ _ rfl) _ _ _ _ _
      · exact putJob h₂ _ _ fun c => { h.job hj c with }

theorem releaseJob (h : s.Keep t) (n : Nat) (j : LaneJob) : s.Keep (t.releaseJob n j) := by
  unfold State.releaseJob
  extract_lets a c x s₁ s₂ s₃ s₄ d s₅ s₆ s₇ s₈ l s₉
  have h₅ : s.Keep s₅ := when (wr (wr (wr (wr (wr (wr (setAxis h _ _) _ _) _ _) _ _) _ _) _ _) _ _) _ _ fun _ h => takeFree h
  exact lrnEnd (redeliver (emptyLane (orBits (wr (wr (wr h₅ _ _) _ _) _ _) _ _) _ _ rfl) _) _ _ _

theorem withdraw (h : s.Keep t) (q : LawJob) : s.Keep (t.withdraw q) := by
  unfold State.withdraw
  repeat' with_reducible first
    | exact h | apply galEvt | apply holdLate | apply inc | apply setLawJobs | refine ite (fun _ => ?_) (fun _ => ?_)

theorem releaseJobs (h : s.Keep t) (g : Trigger) : s.Keep (t.releaseJobs g) := by
  unfold State.releaseJobs
  refine each (each h _ _ fun q u k => withdraw k q) _ _ fun n u k => ?_
  split
  · exact k
  · rename_i j hj
    split
    · exact k
    · split
      · split
        · exact emptyLane k _ _ rfl
        · exact putJob k _ _ fun c => { k.job hj c with }
      · split
        · exact releaseJob k _ _
        · exact lateHold k _ _ (k.job hj)

theorem markLane (h : s.Keep t) (n cause : Nat) : s.Keep (t.markLane n cause) := by
  unfold State.markLane
  repeat' first
    | with_reducible first | exact h | apply galEvt | apply laneState | apply record
    | (extract_lets +onlyGivenNames y; subst y)
    | split
    | with_reducible refine setLane ?_ _ _ ?_
    | exact fun _ c _ hj => lane_job c _ hj

theorem laneSpareIn (h : s.Keep t) (n : Nat) : s.Keep (t.laneSpareIn n) := by
  unfold State.laneSpareIn
  repeat' first
    | with_reducible first | exact h | apply galEvt | apply laneState | apply record
    | (extract_lets +onlyGivenNames y; clear_value y)
    | split

theorem laneTick0 (h : s.Keep t) : s.Keep t.laneTick0 := by
  unfold State.laneTick0
  repeat' first
    | with_reducible first | exact h | assumption | apply each | apply galEvt | apply laneSpareIn | apply markLane | apply setFld
    | (extract_lets +onlyGivenNames y; subst y)
    | split
    | with_reducible first | refine blocks ?_ _ _ _ _ _ _ _ _ _ | intro _

theorem retireLane (h : s.Keep t) (n : Nat) : s.Keep (t.retireLane n) := by
  unfold State.retireLane
  repeat' with_reducible first | exact h | apply laneState | apply markLane | refine ite (fun _ => ?_) (fun _ => ?_)

theorem minClr (h : s.Keep t) : s.Keep t.minClr := by
  unfold State.minClr
  repeat' with_reducible first | exact h | assumption | apply each | apply setFld | intro _

theorem swapNow (h : s.Keep t) (a : Nat) (p : Swap) : s.Keep (t.swapNow a p) := by
  unfold State.swapNow
  repeat' first
    | with_reducible first | exact h | assumption | apply each | apply setAxis | apply wr
    | (extract_lets +onlyGivenNames y; subst y)
    | split
    | with_reducible first | refine blocks ?_ _ _ _ _ _ _ _ _ _ | intro _

theorem swapTick0 (h : s.Keep t) (a : Nat) : s.Keep (t.swapTick0 a) := by
  unfold State.swapTick0
  repeat' first
    | with_reducible first | exact h | apply setAxis | apply setBit | apply swapNow
    | (extract_lets +onlyGivenNames y; subst y)
    | split

theorem deferredSwap (h : s.Keep t) (a : Nat) : s.Keep (Machine.deferredSwap a t) := by
  unfold Machine.deferredSwap
  repeat' first | with_reducible first | exact h | apply swapNow | split

theorem stgCtrl (h : s.Keep t) (a : Nat) (v : Word) : s.Keep (t.stgCtrl a v) := by
  unfold State.stgCtrl
  repeat' with_reducible first | exact h | apply setAxis | apply setBit | apply setFld | refine ite (fun _ => ?_) (fun _ => ?_)

theorem lawStgCopyDone (h : s.Keep t) (a : Nat) : s.Keep (Machine.lawStgCopyDone a t) := by
  unfold Machine.lawStgCopyDone
  repeat' with_reducible first
    | exact h | assumption | apply each | apply setBit | apply wr | refine ite (fun _ => ?_) (fun _ => ?_) | intro _

theorem stagedWrite (h : s.Keep t) (a reg : Nat) (init : Bool) (v : Word) : s.Keep (t.stagedWrite a reg init v) := by
  unfold State.stagedWrite
  repeat' with_reducible first | exact h | apply setBit | apply wr | refine ite (fun _ => ?_) (fun _ => ?_)

/-! ## Image -/

theorem rflagsClear (h : s.Keep t) (a : Nat) : s.Keep (t.rflagsClear a) := by
  unfold State.rflagsClear
  repeat' with_reducible first | exact h | apply setAxis

theorem dsmClk (h : s.Keep t) (f : State → State) (k : ∀ u, s.Keep u → s.Keep (f u)) : s.Keep (t.dsmClk f) := by
  unfold State.dsmClk
  refine ite (fun _ => ite (fun _ => k t h) (fun _ => ?_)) (fun _ => ?_)
  · exact blocks (k t h) _ _ _ _ _ _ _ _ _
  · exact blocks (k t h) _ _ _ _ _ _ _ _ _

theorem ptCfg (h : s.Keep t) (m : Nat) (f : State → State) (k : ∀ u, s.Keep u → s.Keep (f u)) : s.Keep (t.ptCfg m f) := by
  unfold State.ptCfg
  exact ite (fun _ => ptBase (k t h) m) (fun _ => k t h)

theorem ptMul (h : s.Keep t) (m : Nat) : s.Keep (t.ptMul m) := by
  unfold State.ptMul
  repeat' with_reducible first
    | exact h | assumption | apply setPout | refine ite (fun _ => ?_) (fun _ => ?_) | intro _

theorem ptZ (h : s.Keep t) (m : Nat) : s.Keep (t.ptZ m) := by
  unfold State.ptZ
  repeat' with_reducible first
    | exact h | assumption | apply ptPins | refine ite (fun _ => ?_) (fun _ => ?_) | intro _

end Sys2Proof.Machine.State.Keep
end

