-- ==== Sys2Proof/Laws/KeepSafety.lean ====
section
/-! SUPPORT. What the operations keep: the capture engine, the safety unit. -/

namespace Sys2Proof.Machine.State.Keep

variable {s t u : State}

/-! ## Capture -/

theorem capBegin (h : s.Keep t) (n off size : Nat) (self : Bool) : s.Keep (t.capBegin n off size self) := by
  unfold State.capBegin
  repeat' first
    | with_reducible first | exact h | apply setFld | apply setSession | apply wr
    | (extract_lets +onlyGivenNames y; subst y)
    | split

theorem capArm (h : s.Keep t) (n : Nat) : s.Keep (t.capArm n) := by
  unfold State.capArm
  repeat' with_reducible first
    | exact h | apply capBegin | apply capEvt | apply capFree | apply setFld | apply setSession | apply wr
    | refine ite (fun _ => ?_) (fun _ => ?_)

theorem capStop (h : s.Keep t) (n : Nat) : s.Keep (t.capStop n) := by
  unfold State.capStop
  repeat' with_reducible first | exact h | apply capFree | apply setFld | apply setSession | refine ite (fun _ => ?_) (fun _ => ?_)

theorem capRelease (h : s.Keep t) (n : Nat) : s.Keep (t.capRelease n) := by
  unfold State.capRelease
  repeat' first
    | with_reducible first | exact h | apply setBit | apply setSession
    | (extract_lets +onlyGivenNames y; subst y)
    | split

theorem capCtrl (h : s.Keep t) (n : Nat) (v : Word) : s.Keep (t.capCtrl n v) := by
  unfold State.capCtrl
  repeat' with_reducible first
    | exact h | assumption | apply capArm | apply capRelease | apply capStop | apply capTrigger | apply when | apply when
    | refine ite (fun _ => ?_) (fun _ => ?_) | intro _

theorem captureRearm (h : s.Keep t) (n : Nat) : s.Keep (Machine.captureRearm n t) := by
  unfold Machine.captureRearm
  repeat' with_reducible first | exact h | apply capBegin | apply setFld | refine ite (fun _ => ?_) (fun _ => ?_)

theorem ringPut_rising (buf base size : Nat) : ∀ (bs : List Byte) (p : Nat) {d : Table Byte}, Table.rising 0 d = true →
    Table.rising 0 (ringPut d buf base size p bs) = true
  | [], _, _, h => h
  | _ :: bs, _, _, h => ringPut_rising buf base size bs _ (Table.rising_put h _ _)

theorem capWrite (h : s.Keep t) (n type t₁ : Nat) (cyc : Word) (ft : Nat) (body : List Byte) :
    s.Keep (t.capWrite n type t₁ cyc ft body) := by
  unfold State.capWrite
  extract_lets c isTrig len flags rec0 s₀ buf p first refused x s₁ s₂ seen s₄ y s₅
  clear_value refused isTrig
  have h₀ : s.Keep s₀ := takeFree h
  split
  · exact capEvt (setSession (capFree (setBit (setFld (deny h₀ _ _ _ _) _ _ _ _) _ _ _) _) _ _) _
  · have h₄ : s.Keep s₄ := setSession (wr (withCap h₀ _ fun c => ringPut_rising _ _ _ _ _ c) _ _) _ _
    refine ite (fun _ => capMark h₄ _ _ _ _) fun _ => ite (fun _ => ?_) fun _ => h₄
    have h₅ : s.Keep s₅ := setSession h₄ _ _
    exact ite (fun _ => capDone h₅ _) fun _ => h₅

theorem capAxisRecord (h : s.Keep t) (n : Nat) (m : Word) : s.Keep (t.capAxisRecord n m) := by
  unfold State.capAxisRecord
  repeat' first
    | with_reducible first | exact h | apply capTrigger | apply capWrite | apply setSession
    | (extract_lets +onlyGivenNames y; subst y)
    | split

theorem capPortRecord (h : s.Keep t) (port arr result : Nat) (bs : List Byte) : s.Keep (t.capPortRecord port arr result bs) := by
  unfold State.capPortRecord
  repeat' first
    | with_reducible first | exact h | assumption | apply capWrite | apply each | refine ite (fun _ => ?_) (fun _ => ?_)
    | (extract_lets +onlyGivenNames y; clear_value y)
    | with_reducible intro _

theorem capFieldRecord (h : s.Keep t) (bits : List Nat) (body : List Byte) : s.Keep (t.capFieldRecord bits body) := by
  unfold State.capFieldRecord
  repeat' first
    | with_reducible first
        | exact h | assumption | apply capWrite | apply each | apply setSession | apply each
        | refine ite (fun _ => ?_) (fun _ => ?_)
    | (extract_lets +onlyGivenNames y; subst y)
    | split
    | with_reducible first | refine withCap ?_ _ (fun c => c) | refine withLaw ?_ _ (by rfl) | refine withHall ?_ _ (fun c => c) | refine blocks ?_ _ _ _ _ _ _ _ _ _ | intro _

theorem eventRecord (h : s.Keep t) : s.Keep (Machine.eventRecord t) := by
  unfold Machine.eventRecord
  repeat' first
    | with_reducible first | exact h | apply takeFree | assumption | apply capWrite | apply each
    | (extract_lets +onlyGivenNames y; subst y)
    | split
    | with_reducible first | refine withCap ?_ _ (fun c => c) | intro _

theorem capTick0 (h : s.Keep t) (n next : Word) : s.Keep (t.capTick0 n next) := by
  unfold State.capTick0
  repeat' with_reducible first
    | exact h | assumption | apply capAxisRecord | apply capTrigger | apply each | refine ite (fun _ => ?_) (fun _ => ?_)
    | intro _

theorem capCfgWrite (h : s.Keep t) (n reg : Nat) (m v : Word) : s.Keep (t.capCfgWrite n reg m v) := by
  unfold State.capCfgWrite
  repeat' with_reducible first | exact h | apply setBit | apply wr | refine ite (fun _ => ?_) (fun _ => ?_)

theorem dramRefresh (h : s.Keep t) : s.Keep (Machine.dramRefresh t) := by
  unfold Machine.dramRefresh
  repeat' with_reducible exact h

/-! ## Saf -/

/-- The lengths of a channel's lists. -/
theorem chan (c : t.Shaped) (b : Bool) : (t.saf? b).inputs.length = 8 ∧ (t.saf? b).grps.length = 8 := by
  unfold State.saf?
  split
  · exact ⟨c.bIn, c.bGrp⟩
  · exact ⟨c.gIn, c.gGrp⟩

theorem setSaf (h : s.Keep t) (bas : Bool) (x : SafChan) (e : s.Shaped → t.Shaped → x.inputs.length = 8 ∧ x.grps.length = 8) :
    s.Keep (t.setSaf bas x) := by
  unfold State.setSaf
  exact ite
    (fun _ => ⟨h.queue, fun c => { h.canon c with }, fun c => { h.shape c with bIn := (e c (h.shape c)).1, bGrp := (e c (h.shape c)).2 }⟩)
    fun _ => ⟨h.queue, fun c => { h.canon c with }, fun c => { h.shape c with gIn := (e c (h.shape c)).1, gGrp := (e c (h.shape c)).2 }⟩

theorem setSafGrp (h : s.Keep t) (bas : Bool) (g : Nat) (x : SafGrp) : s.Keep (t.setSafGrp bas g x) :=
  setSaf h _ _ fun _ c => by simp [chan c]

theorem reqMode (h : s.Keep t) (m : Nat) : s.Keep (t.reqMode m) := by
  unfold State.reqMode
  repeat' first
    | with_reducible first | exact h | refine ite (fun _ => ?_) (fun _ => ?_)
    | (extract_lets +onlyGivenNames y; clear_value y)
    | with_reducible refine blocks ?_ _ _ _ _ _ _ _ _ _

theorem reqSafeStop (h : s.Keep t) : s.Keep t.reqSafeStop := by
  unfold State.reqSafeStop
  repeat' first
    | with_reducible first | exact h | apply reqMode | refine ite (fun _ => ?_) (fun _ => ?_)
    | (extract_lets +onlyGivenNames y; clear_value y)
    | with_reducible refine blocks ?_ _ _ _ _ _ _ _ _ _

theorem grpTo (h : s.Keep t) (bas : Bool) (g st : Nat) : s.Keep (t.grpTo bas g st) := by
  unfold State.grpTo
  repeat' first
    | with_reducible first | exact h | apply safetyEvent | apply setSafGrp | refine ite (fun _ => ?_) (fun _ => ?_)
    | (extract_lets +onlyGivenNames y; subst y)
    | with_reducible refine withSaf ?_ _ (fun _ c => ⟨c.gIn, c.bIn, c.gGrp, c.bGrp⟩)

theorem stopCause (h : s.Keep t) (g c : Nat) : s.Keep (t.stopCause g c) := by
  unfold State.stopCause
  repeat' with_reducible first | exact h | apply setFld

theorem sto (h : s.Keep t) (bas : Bool) (g cause : Nat) : s.Keep (t.sto bas g cause) := by
  unfold State.sto
  repeat' with_reducible first | exact h | apply grpTo | apply stopCause | refine ite (fun _ => ?_) (fun _ => ?_)

theorem stopGrp (h : s.Keep t) (bas : Bool) (g cause : Nat) : s.Keep (t.stopGrp bas g cause) := by
  unfold State.stopGrp
  repeat' with_reducible first | exact h | apply grpTo | apply sto | apply stopCause | refine ite (fun _ => ?_) (fun _ => ?_)

theorem safeStopAll (h : s.Keep t) (lost : Bool) : s.Keep (t.safeStopAll lost) := by
  unfold State.safeStopAll
  repeat' with_reducible first
    | exact h | assumption | apply each | apply sto | apply stopGrp | refine ite (fun _ => ?_) (fun _ => ?_) | intro _

theorem fault (h : s.Keep t) (code bych obj : Nat) : s.Keep (t.fault code bych obj) := by
  unfold State.fault
  repeat' first
    | with_reducible first
        | exact h | assumption | apply each | apply reqMode | apply reqSafeStop | apply safeStopAll | apply safetyEvent
        | apply wr | refine ite (fun _ => ?_) (fun _ => ?_)
    | (extract_lets +onlyGivenNames y; subst y)
    | with_reducible first
        | refine setSaf ?_ _ _ (fun _ c => by simp [chan c, c.gIn, c.gGrp])
        | refine withSaf ?_ _ (fun _ c => ⟨c.gIn, c.bIn, c.gGrp, c.bGrp⟩) | intro _

theorem slsRequests (h : s.Keep t) (bas : Bool) : s.Keep (t.slsRequests bas) := by
  unfold State.slsRequests
  repeat' first
    | with_reducible first | exact h | assumption | apply each | apply setSafGrp | refine ite (fun _ => ?_) (fun _ => ?_)
    | (extract_lets +onlyGivenNames y; clear_value y)
    | with_reducible intro _

theorem sampleGrp (h : s.Keep t) (bas : Bool) (g : Nat) : s.Keep (t.sampleGrp bas g) := by
  unfold State.sampleGrp
  repeat' with_reducible first | exact h | apply grpTo | apply sto | apply stopGrp | refine ite (fun _ => ?_) (fun _ => ?_)

theorem dropXdem (h : s.Keep t) : s.Keep t.dropXdem := by
  unfold State.dropXdem
  repeat' first
    | with_reducible exact h
    | (extract_lets +onlyGivenNames y; subst y)
    | with_reducible refine withSaf ?_ _ (fun _ c => ⟨c.gIn, c.bIn, c.gGrp, c.bGrp⟩)

theorem pulseFault (h : s.Keep t) (bas : Bool) (k : Nat) (other : Contact) : s.Keep (t.pulseFault bas k other) := by
  unfold State.pulseFault
  repeat' with_reducible first
    | exact h | assumption | apply fault | apply orBits | apply safetyEvent | refine ite (fun _ => ?_) (fun _ => ?_) | intro _

theorem safetySample (h : s.Keep t) (bas : Bool) (a b : Byte) (di15 : Bool) : s.Keep (Machine.safetySample bas a b di15 t) := by
  unfold Machine.safetySample
  extract_lets c r di rose c₁ s₁ s₂ s₃ s₄
  refine ite (fun _ => h) fun _ => ?_
  have h₁ : s.Keep s₁ := setSaf h _ _ fun _ k => by
    simp only [c₁, c, r]
    split <;> simp [SafChan.markReady, State.sampleInputs, chan k]
  clear_value s₁
  have h₂ : s.Keep s₂ := each h₁ _ _ fun k u h => when (when h _ _ fun u h => pulseFault h _ _ _) _ _ fun u h => pulseFault h _ _ _
  have h₄ : s.Keep s₄ := each (slsRequests h₂ _) _ _ fun _ _ h => sampleGrp h _ _
  exact ite (fun _ => dropXdem h₄) fun _ => h₄

theorem discrepancyFault (h : s.Keep t) (bas : Bool) (k : Nat) : s.Keep (Machine.discrepancyFault bas k t) := by
  unfold Machine.discrepancyFault
  repeat' with_reducible first
    | exact h | apply safetyEvent | refine ite (fun _ => ?_) (fun _ => ?_)
    | refine setSaf ?_ _ _ (fun _ c => by simp [chan c, c.gIn, c.gGrp])

theorem testPulse (h : s.Keep t) (tp1 made : Bool) : s.Keep (Machine.testPulse tp1 made t) := by
  unfold Machine.testPulse
  refine ite (fun _ => withSaf h _ fun _ c => ⟨c.gIn, c.bIn, c.gGrp, c.bGrp⟩) fun _ => ?_
  extract_lets hold i susp new x s₁
  have hold_in (c : SafChan) : (hold c).inputs = c.inputs ∧ (hold c).grps = c.grps := by
    simp only [hold]
    split <;> exact ⟨rfl, rfl⟩
  have h₁ : s.Keep s₁ := withSaf h _ fun _ c => by simp [hold_in, c.gIn, c.bIn, c.gGrp, c.bGrp]
  exact ite (fun _ => fault h₁ _ _ _) fun _ => h₁

theorem seedToken (h : s.Keep t) (g : Nat) : s.Keep (t.seedToken g) := by
  unfold State.seedToken
  repeat' with_reducible first | exact h | apply takeFree | apply wr

theorem codeCheck (h : s.Keep t) : s.Keep t.codeCheck := by
  unfold State.codeCheck
  repeat' first
    | with_reducible first | exact h | apply fault | refine ite (fun _ => ?_) (fun _ => ?_)
    | (extract_lets +onlyGivenNames y; subst y)
    | with_reducible first
        | refine setSaf ?_ _ _ (fun _ c => by simp [chan c, c.gIn, c.gGrp])
        | refine withSaf ?_ _ (fun _ c => ⟨c.gIn, c.bIn, c.gGrp, c.bGrp⟩)

theorem switchPowerupRead (h : s.Keep t) (bas : Bool) (v : BitVec 16) : s.Keep (Machine.switchPowerupRead bas v t) := by
  unfold Machine.switchPowerupRead
  extract_lets c s₁ g b agree ok s₂ x s₃ s₄
  have h₁ : s.Keep s₁ := setSaf h _ _ fun _ k => chan k bas
  refine ite (fun _ => h) fun _ => ite (fun _ => h₁) fun _ => ?_
  have h₃ : s.Keep s₃ := withSaf (wr h₁ _ _) _ fun k _ =>
    have q := h₁.shape k
    ⟨q.gIn, q.bIn, q.gGrp, q.bGrp⟩
  have h₄ : s.Keep s₄ := each h₃ _ _ fun _ _ h => seedToken h _
  exact ite (fun _ => h₄) fun _ => fault h₄ _ _ _

theorem switchRuntimeRead (h : s.Keep t) (bas : Bool) (v : BitVec 16) : s.Keep (Machine.switchRuntimeRead bas v t) := by
  unfold Machine.switchRuntimeRead
  repeat' first
    | with_reducible first | exact h | apply fault | refine ite (fun _ => ?_) (fun _ => ?_)
    | (extract_lets +onlyGivenNames y; subst y)
    | with_reducible refine withSaf ?_ _ (fun _ c => ⟨c.gIn, c.bIn, c.gGrp, c.bGrp⟩)

theorem releaseGrp (h : s.Keep t) (bas : Bool) (g : Nat) : s.Keep (t.releaseGrp bas g) := by
  unfold State.releaseGrp
  repeat' first
    | with_reducible first | exact h | apply grpTo
    | (extract_lets +onlyGivenNames y; subst y)
    | with_reducible refine withSaf ?_ _ (fun _ c => ⟨c.gIn, c.bIn, c.gGrp, c.bGrp⟩)

theorem restartDelay (h : s.Keep t) (bas : Bool) (g : Nat) : s.Keep (Machine.restartDelay bas g t) := by
  unfold Machine.restartDelay
  repeat' with_reducible first | exact h | apply releaseGrp | refine ite (fun _ => ?_) (fun _ => ?_)

theorem restartPulse (h : s.Keep t) (bas : Bool) : s.Keep (Machine.restartPulse bas t) := by
  unfold Machine.restartPulse
  extract_lets c s₁ x
  have h₁ : s.Keep s₁ := each h _ _ fun _ _ h => ite (fun _ => releaseGrp h _ _) fun _ => h
  clear_value s₁
  exact ite (fun _ => h) fun _ => setSaf h₁ _ _ fun _ c => by simp [x, chan c]

theorem degradedEnd (h : s.Keep t) (bas : Bool) : s.Keep (t.degradedEnd bas) := by
  unfold State.degradedEnd
  repeat' with_reducible first | exact h | apply fault | refine ite (fun _ => ?_) (fun _ => ?_)

theorem stoConfirm (h : s.Keep t) (bas : Bool) (g : Nat) : s.Keep (Machine.stoConfirm bas g t) := by
  unfold Machine.stoConfirm
  repeat' with_reducible first | exact h | apply degradedEnd | apply grpTo | refine ite (fun _ => ?_) (fun _ => ?_)

theorem ss1TimerEnd (h : s.Keep t) (bas : Bool) (g : Nat) : s.Keep (Machine.ss1TimerEnd bas g t) := by
  unfold Machine.ss1TimerEnd
  repeat' with_reducible first | exact h | apply sto | refine ite (fun _ => ?_) (fun _ => ?_)

theorem degradedLimit (h : s.Keep t) (bas : Bool) : s.Keep (Machine.degradedLimit bas t) := by
  unfold Machine.degradedLimit
  repeat' with_reducible first
    | exact h | assumption | apply degradedEnd | apply each | apply stopGrp | refine ite (fun _ => ?_) (fun _ => ?_)
    | refine setSaf ?_ _ _ (fun _ c => by simp [chan c, c.gIn, c.gGrp]) | intro _

theorem loseChan (h : s.Keep t) (bas : Bool) (code bych : Nat) : s.Keep (t.loseChan bas code bych) := by
  unfold State.loseChan
  repeat' first
    | with_reducible first | exact h | apply fault | refine ite (fun _ => ?_) (fun _ => ?_)
    | (extract_lets +onlyGivenNames y; subst y)
    | with_reducible refine setSaf ?_ _ _ (fun _ c => by simp [chan c, c.gIn, c.gGrp])

theorem heartbeatLost (h : s.Keep t) (garnet : Bool) : s.Keep (Machine.heartbeatLost garnet t) := by
  unfold Machine.heartbeatLost
  repeat' with_reducible first | exact h | apply loseChan | refine ite (fun _ => ?_) (fun _ => ?_)

theorem lockstepMismatch (h : s.Keep t) : s.Keep (Machine.lockstepMismatch t) := by
  unfold Machine.lockstepMismatch
  repeat' with_reducible first | exact h | apply loseChan

theorem basaltSelfCheckFail (h : s.Keep t) : s.Keep (Machine.basaltSelfCheckFail t) := by
  unfold Machine.basaltSelfCheckFail
  repeat' with_reducible first | exact h | apply loseChan

theorem rootHeartbeatLost (h : s.Keep t) : s.Keep (Machine.rootHeartbeatLost t) := by
  unfold Machine.rootHeartbeatLost
  repeat' first
    | with_reducible first | exact h | apply fault | refine ite (fun _ => ?_) (fun _ => ?_)
    | (extract_lets +onlyGivenNames y; subst y)
    | with_reducible refine withSaf ?_ _ (fun _ c => ⟨c.gIn, c.bIn, c.gGrp, c.bGrp⟩)

theorem rbDiffers (h : s.Keep t) (bas : Bool) (g : Nat) : s.Keep (t.rbDiffers bas g) := by
  unfold State.rbDiffers
  repeat' first
    | with_reducible first
        | exact h | assumption | refine ite (fun _ => ?_) (fun _ => ?_)
    | (extract_lets +onlyGivenNames y; subst y)
    | split
    | with_reducible first | refine withSaf ?_ _ (fun _ c => ⟨c.gIn, c.bIn, c.gGrp, c.bGrp⟩) 
        | refine blocks ?_ _ _ _ _ _ _ _ _ _ | intro _

theorem readbackMismatch (h : s.Keep t) (stog : Bool) (g : Nat) : s.Keep (Machine.readbackMismatch stog g t) := by
  unfold Machine.readbackMismatch
  repeat' first
    | with_reducible first | exact h | apply loaded | apply rbDiffers | apply fault | refine ite (fun _ => ?_) (fun _ => ?_)
    | (extract_lets +onlyGivenNames y; subst y)
    | with_reducible refine withSaf ?_ _ (fun _ c => ⟨c.gIn, c.bIn, c.gGrp, c.bGrp⟩)

theorem stobOverload (h : s.Keep t) (g : Nat) : s.Keep (Machine.stobOverload g t) := by
  unfold Machine.stobOverload
  repeat' first
    | with_reducible first | exact h | apply fault | refine ite (fun _ => ?_) (fun _ => ?_)
    | (extract_lets +onlyGivenNames y; subst y)
    | with_reducible refine withSaf ?_ _ (fun _ c => ⟨c.gIn, c.bIn, c.gGrp, c.bGrp⟩)

theorem releaseMismatch (h : s.Keep t) (g : Nat) : s.Keep (Machine.releaseMismatch g t) := by
  unfold Machine.releaseMismatch
  repeat' with_reducible first | exact h | apply fault | refine ite (fun _ => ?_) (fun _ => ?_)

theorem slsRampEnd (h : s.Keep t) (bas : Bool) (g : Nat) : s.Keep (Machine.slsRampEnd bas g t) := by
  unfold Machine.slsRampEnd
  repeat' first
    | with_reducible first | exact h | apply setSafGrp | apply sto | refine ite (fun _ => ?_) (fun _ => ?_)
    | (extract_lets +onlyGivenNames y; subst y)
    | with_reducible refine withSaf ?_ _ (fun _ c => ⟨c.gIn, c.bIn, c.gGrp, c.bGrp⟩)

theorem slsokMissing (h : s.Keep t) (g : Nat) : s.Keep (Machine.slsokMissing g t) := by
  unfold Machine.slsokMissing
  repeat' first
    | with_reducible first | exact h | apply setSafGrp | apply sto | refine ite (fun _ => ?_) (fun _ => ?_)
    | (extract_lets +onlyGivenNames y; subst y)
    | with_reducible refine withSaf ?_ _ (fun _ c => ⟨c.gIn, c.bIn, c.gGrp, c.bGrp⟩)

theorem slsWindow (h : s.Keep t) : s.Keep (Machine.slsWindow t) := by
  unfold Machine.slsWindow
  repeat' first
    | with_reducible first | exact h | assumption | apply each | apply sto | apply wr | refine ite (fun _ => ?_) (fun _ => ?_)
    | (extract_lets +onlyGivenNames y; subst y)
    | with_reducible first | refine withSaf ?_ _ (fun _ c => ⟨c.gIn, c.bIn, c.gGrp, c.bGrp⟩) | intro _

theorem safTick0 (h : s.Keep t) : s.Keep t.safTick0 := by
  unfold State.safTick0
  repeat' first
    | with_reducible first | exact h | assumption | apply each | apply wr | refine ite (fun _ => ?_) (fun _ => ?_)
    | (extract_lets +onlyGivenNames y; subst y)
    | with_reducible first | refine withSaf ?_ _ (fun _ c => ⟨c.gIn, c.bIn, c.gGrp, c.bGrp⟩) | intro _

theorem nodeAckStale (h : s.Keep t) (n k : Nat) : s.Keep (Machine.nodeAckStale n k t) := by
  unfold Machine.nodeAckStale
  repeat' first
    | with_reducible first | exact h | apply safetyEvent | apply setBit | apply sto | refine ite (fun _ => ?_) (fun _ => ?_)
    | (extract_lets +onlyGivenNames y; subst y)
    | with_reducible refine withSaf ?_ _ (fun _ c => ⟨c.gIn, c.bIn, c.gGrp, c.bGrp⟩)

theorem safLoad (h : s.Keep t) (bs : List Byte) : s.Keep (t.safLoad bs) := by
  unfold State.safLoad
  repeat' first
    | with_reducible first | exact h | apply codeCheck
    | (extract_lets +onlyGivenNames y; subst y)
    | with_reducible refine withSaf ?_ _ (fun _ c => ⟨c.gIn, c.bIn, c.gGrp, c.bGrp⟩)

theorem stoEvery (h : s.Keep t) (cause : Nat) : s.Keep (t.stoEvery cause) := by
  unfold State.stoEvery
  repeat' with_reducible first | exact h | assumption | apply each | apply sto | intro _

end Sys2Proof.Machine.State.Keep
end

