-- ==== Sys2Proof/Laws/KeepLink.lean ====
section
/-! SUPPORT. What the operations keep: TORONE. -/

namespace Sys2Proof.Machine.State.Keep

variable {s t u : State}

/-! ## Torone -/

theorem nodeTo (h : s.Keep t) (n k st : Nat) : s.Keep (t.nodeTo n k st) := by
  unfold State.nodeTo
  repeat' with_reducible first | exact h | apply setFld

theorem sendFrame (h : s.Keep t) (n type addr slot : Nat) (cyc : Word) (payload : List Byte) :
    s.Keep (t.sendFrame n type addr slot cyc payload) := by
  unfold State.sendFrame
  repeat' with_reducible first
    | exact h | assumption | apply each | apply inc | apply setSeg | refine ite (fun _ => ?_) (fun _ => ?_) | intro _

theorem frameFail (h : s.Keep t) (n ch order : Nat) : s.Keep (t.frameFail n ch order) := by
  unfold State.frameFail
  repeat' first | with_reducible first | exact h | apply inc | apply portEvt | split

theorem setSlotRx (h : s.Keep t) (n key : Nat) (r : SlotRx) : s.Keep (t.setSlotRx n key r) := by
  unfold State.setSlotRx
  repeat' with_reducible first | exact h | apply setSeg

theorem keepCopy (h : s.Keep t) (n key ch : Nat) (c : Word) (x : Copy) : s.Keep (t.keepCopy n key ch c x).2 := by
  unfold State.keepCopy
  repeat' first
    | with_reducible first | exact h | apply wr | apply abEvt | apply inc | apply setSlotRx
    | (extract_lets +onlyGivenNames y; subst y)
    | split

theorem portLoss (h : s.Keep t) (n ch : Nat) : s.Keep (t.portLoss n ch) := by
  unfold State.portLoss
  repeat' with_reducible first
    | exact h | assumption | apply inc | apply portEvt | apply when | apply when | refine ite (fun _ => ?_) (fun _ => ?_)
    | intro _

theorem countLoss (h : s.Keep t) (n : Nat) (r : SlotRx) : s.Keep (t.countLoss n r) := by
  unfold State.countLoss
  repeat' first | with_reducible first | exact h | apply portLoss | apply abEvt | apply inc | apply portEvt | split

theorem dropRanging (h : s.Keep t) (n k : Nat) : s.Keep (t.dropRanging n k) := by
  unfold State.dropRanging
  repeat' with_reducible first | exact h | apply setNode | apply setSeg

theorem showGrant (h : s.Keep t) (n : Nat) (c : Word) : s.Keep (t.showGrant n c) := by
  unfold State.showGrant
  repeat' with_reducible first
    | exact h | assumption | apply wr | refine ite (fun _ => ?_) (fun _ => ?_) | intro _

theorem endGrant (h : s.Keep t) (n k : Nat) : s.Keep (t.endGrant n k) := by
  unfold State.endGrant
  repeat' first
    | with_reducible first | exact h | apply showGrant | apply setSeg | apply wr
    | (extract_lets +onlyGivenNames y; clear_value y)
    | split

theorem nodeIn (h : s.Keep t) (n k : Nat) : s.Keep (t.nodeIn n k) := by
  unfold State.nodeIn
  repeat' with_reducible first
    | exact h | apply dropRanging | apply endGrant | apply nodeTo | apply segEvt | apply setFld | apply setNode
    | refine ite (fun _ => ?_) (fun _ => ?_)

theorem residual (h : s.Keep t) (n k : Nat) (r : Int) : s.Keep (t.residual n k r) := by
  unfold State.residual
  repeat' with_reducible first | exact h | apply setNode | apply wr

theorem refuseNode (h : s.Keep t) (n k : Nat) : s.Keep (t.refuseNode n k) := by
  unfold State.refuseNode
  repeat' with_reducible first | exact h | apply dropRanging | apply nodeTo | apply segEvt | apply setBit

theorem takeRecords (h : s.Keep t) (n k : Nat) (p : List Byte) (base : Nat) (cyc : Word) : s.Keep (t.takeRecords n k p base cyc) := by
  unfold State.takeRecords
  repeat' first
    | with_reducible first | exact h | assumption | apply each | apply takeRecord
    | (extract_lets +onlyGivenNames y; clear_value y)
    | with_reducible intro _

theorem takeCurrents (h : s.Keep t) (n : Fin 12) (k : Fin 32) (p : List Byte) : s.Keep (t.takeCurrents n k p) := by
  unfold State.takeCurrents
  repeat' first
    | with_reducible first | exact h | assumption | apply each | apply setAxis | refine ite (fun _ => ?_) (fun _ => ?_)
    | (extract_lets +onlyGivenNames y; clear_value y)
    | with_reducible intro _

theorem feedbackFrame (h :
    s.Keep t) (n : Fin 12) (k : Fin 32) (ch : Nat) (c : Word) (t₁ : Int) (h₁ : Hdr) (b : List Byte) :
    s.Keep (t.feedbackFrame n k ch c t₁ h₁ b) := by
  unfold State.feedbackFrame
  repeat' with_reducible first
    | exact h | assumption | apply keepCopy | apply nodeIn | apply queueJobs | apply residual | apply setNode
    | apply takeCurrents | apply takeRecords | apply when | apply when | refine ite (fun _ => ?_) (fun _ => ?_) | intro _

theorem svcReceive (h : s.Keep t) (n : Nat) (h₁ : Hdr) (first : Bool) : s.Keep (t.svcReceive n h₁ first) := by
  unfold State.svcReceive
  repeat' first
    | with_reducible first | exact h | assumption | apply each | apply incFld | apply segEvt | apply setBit | apply wr
    | (extract_lets +onlyGivenNames y; clear_value y)
    | split
    | with_reducible intro _

theorem holdRange (h : s.Keep t) (n k : Nat) (ra : Int) (skew : Option Int) : s.Keep (t.holdRange n k ra skew) := by
  unfold State.holdRange
  repeat' first
    | with_reducible first | exact h | apply setFld | apply setNode | apply wr
    | (extract_lets +onlyGivenNames y; subst y)
    | split

theorem takeReply (h : s.Keep t) (n : Nat) (r : SlotRx) : s.Keep (t.takeReply n r) := by
  unfold State.takeReply
  repeat' first
    | with_reducible first
        | exact h | apply holdRange | apply nodeTo | apply refuseNode | apply setFld | apply setNode | apply setSeg
        | apply wr
    | (extract_lets +onlyGivenNames y; subst y)
    | split
    | dsimp -zeta only

theorem takeClaim (h : s.Keep t) (n : Nat) (c : Word) (r : SlotRx) : s.Keep (t.takeClaim n c r) := by
  unfold State.takeClaim
  repeat' first
    | with_reducible first
        | exact h | apply refuse | apply showGrant | apply holdRange | apply nodeTo | apply record | apply segEvt | apply setNode | apply setSeg | apply wr
    | (extract_lets +onlyGivenNames y; subst y)
    | split

theorem replyFrame (h : s.Keep t) (n ch : Nat) (c : Word) (t₁ : Int) (h₁ : Hdr) (b : List Byte) : s.Keep (t.replyFrame n ch c t₁ h₁ b) := by
  unfold State.replyFrame
  repeat' first
    | with_reducible first | exact h | apply keepCopy | apply setSlotRx | apply takeClaim | apply takeReply
    | (extract_lets +onlyGivenNames y; subst y)
    | split

theorem otherSync (h : s.Keep t) (n hid : Nat) : s.Keep (t.otherSync n hid) := by
  unfold State.otherSync
  repeat' first
    | with_reducible first | exact h | apply segEvt | apply setBit | apply setFld | refine ite (fun _ => ?_) (fun _ => ?_)
    | (extract_lets +onlyGivenNames y; clear_value y)
    | with_reducible refine blocks ?_ _ _ _ _ _ _ _ _ _

theorem frameReceive (h : s.Keep t) (p : Port) (f : RxFrame) : s.Keep (Machine.frameReceive p f t) := by
  unfold Machine.frameReceive
  repeat' first
    | with_reducible first
        | exact h | apply capPortRecord | apply feedbackFrame | apply frameFail | apply inc | apply keepCopy
        | apply otherSync | apply replyFrame | apply svcReceive | apply wr
    | (extract_lets +onlyGivenNames y; subst y)
    | split

theorem missHolds (h : s.Keep t) (n : Fin 12) (k : Fin 32) (c : Word) : s.Keep (t.missHolds n k c) := by
  unfold State.missHolds
  repeat' with_reducible first
    | exact h | assumption | apply each | apply holdMiss | apply each | refine ite (fun _ => ?_) (fun _ => ?_) | intro _

theorem silentMissing (h : s.Keep t) (n : Fin 12) (k : Fin 32) : s.Keep (t.silentMissing n k) := by
  unfold State.silentMissing
  repeat' with_reducible first
    | exact h | assumption | apply missHolds | apply setSlotRx | refine ite (fun _ => ?_) (fun _ => ?_) | intro _

theorem feedbackMissing (h : s.Keep t) (n : Fin 12) (k : Fin 32) : s.Keep (Machine.feedbackMissing n k t) := by
  unfold Machine.feedbackMissing
  repeat' first
    | with_reducible first
        | exact h | apply missHolds | apply silentMissing | assumption | apply dropRanging | apply each | apply holdMiss | apply nodeTo | apply segEvt | apply setBit
        | apply setFld | apply setNode | apply setSlotRx
    | (extract_lets +onlyGivenNames y; subst y)
    | split
    | with_reducible intro _

theorem grantStep (h : s.Keep t) (n : Nat) (c : Word) : s.Keep (t.grantStep n c) := by
  unfold State.grantStep
  repeat' with_reducible first
    | exact h | assumption | apply dropRanging | apply each | apply endGrant | apply nodeTo | apply showGrant | apply each
    | refine ite (fun _ => ?_) (fun _ => ?_) | intro _

theorem placeContainers (h : s.Keep t) (n : Nat) (c : Word) : s.Keep (t.placeContainers n c) := by
  unfold State.placeContainers
  repeat' first
    | with_reducible first | exact h | assumption | apply each | apply setNode | refine ite (fun _ => ?_) (fun _ => ?_)
    | (extract_lets +onlyGivenNames y; clear_value y)
    | with_reducible intro _

theorem takeScfg (h : s.Keep t) (n : Nat) : s.Keep (t.takeScfg n) := by
  unfold State.takeScfg
  repeat' with_reducible first
    | exact h | assumption | apply setSeg | refine ite (fun _ => ?_) (fun _ => ?_) | intro _

theorem syncSend (h : s.Keep t) (n : Fin 12) : s.Keep (Machine.syncSend n t) := by
  unfold Machine.syncSend
  repeat' with_reducible first
    | exact h | assumption | apply grantStep | apply placeContainers | apply sendFrame | apply setFld | apply setSeg
    | apply takeScfg | apply when | apply when | refine ite (fun _ => ?_) (fun _ => ?_) | intro _

theorem garnetContainerWrite (h : s.Keep t) (n : Fin 12) (k : Fin 32) : s.Keep (Machine.garnetContainerWrite n k t) := by
  unfold Machine.garnetContainerWrite
  repeat' first | with_reducible first | exact h | apply setNode | (extract_lets +onlyGivenNames y; clear_value y) | split

theorem commandFrame (h : s.Keep t) (n k : Nat) : s.Keep (t.commandFrame n k) := by
  unfold State.commandFrame
  repeat' first
    | with_reducible first | exact h | apply sendFrame | apply setNode
    | (extract_lets +onlyGivenNames y; subst y)
    | split

theorem closeSlot (h : s.Keep t) (n k : Nat) : s.Keep (t.closeSlot n k) := by
  unfold State.closeSlot
  repeat' first
    | with_reducible first | exact h | apply countLoss | apply residual | apply setSlotRx
    | (extract_lets +onlyGivenNames y; subst y)
    | split

theorem releaseInstant (h : s.Keep t) (t₁ : Trigger) : s.Keep (Machine.releaseInstant t₁ t) := by
  unfold Machine.releaseInstant
  repeat' first
    | with_reducible first | exact h | apply setNode | apply closeSlot | apply commandFrame | apply releaseJobs
    | (extract_lets +onlyGivenNames y; subst y)
    | split

theorem lapseReq (h : s.Keep t) (n : Nat) : s.Keep (t.lapseReq n) := by
  unfold State.lapseReq
  repeat' first
    | with_reducible first | exact h | apply nodeTo | apply setSeg
    | (extract_lets +onlyGivenNames y; subst y)
    | split

theorem linkMessage (h : s.Keep t) (n : Nat) (c : Word) : s.Keep (t.linkMessage n c) := by
  unfold State.linkMessage
  repeat' first
    | with_reducible first | exact h | apply sendFrame | apply setBit | apply setNode | apply setSeg
    | (extract_lets +onlyGivenNames y; subst y)
    | split

theorem downstreamServiceSend (h : s.Keep t) (n : Fin 12) : s.Keep (Machine.downstreamServiceSend n t) := by
  unfold Machine.downstreamServiceSend
  repeat' first
    | with_reducible first
        | exact h | apply lapseReq | apply linkMessage | apply segEvt | apply sendFrame | apply setBit | apply setSeg
    | split

theorem closeRx (h : s.Keep t) (n key : Nat) (c : Word) (f : SlotRx → State → State) (k : ∀ r u, s.Keep u → s.Keep (f r u)) :
    s.Keep (t.closeRx n key c f) := by
  unfold State.closeRx
  exact ite (fun _ => k _ _ (countLoss (setSlotRx h _ _ _) _ _)) (fun _ => h)

theorem closeService (h : s.Keep t) (n : Nat) (c : Word) : s.Keep (t.closeService n c) := by
  unfold State.closeService
  exact ite (fun _ => closeRx h _ _ _ _ fun _ _ h => h) fun _ =>
    lapseReq (closeRx (closeRx h _ _ _ _ fun _ _ h => takeReply h _ _) _ _ _ _ fun _ _ h => takeClaim h _ _ _) _

theorem replyWindowClose (h : s.Keep t) (n : Fin 12) : s.Keep (Machine.replyWindowClose n t) := by
  unfold Machine.replyWindowClose
  repeat' first
    | with_reducible first | exact h | apply closeService | apply countLoss | apply lapseReq | apply setSlotRx | apply takeClaim | apply takeReply
    | (extract_lets +onlyGivenNames y; subst y)
    | split
    | with_reducible refine ite (fun _ => ?_) (fun _ => ?_)

theorem svcTxctl (h : s.Keep t) (n : Nat) (v : Word) : s.Keep (t.svcTxctl n v) := by
  unfold State.svcTxctl
  repeat' with_reducible first | exact h | apply segEvt | apply setBit | apply setSeg | apply wr | refine ite (fun _ => ?_) (fun _ => ?_)

theorem portSet (h : s.Keep t) (b : Nat) (p : Port) : s.Keep (Machine.portSet b p t) := by
  unfold Machine.portSet
  repeat' with_reducible first | exact h | apply setBit | refine ite (fun _ => ?_) (fun _ => ?_)

theorem portDrop (h : s.Keep t) (b ev : Nat) (p : Port) : s.Keep (Machine.portDrop b ev p t) := by
  unfold Machine.portDrop
  repeat' with_reducible first | exact h | apply portEvt | apply setBit | refine ite (fun _ => ?_) (fun _ => ?_)

theorem portSyncLost (h : s.Keep t) (p : Port) : s.Keep (Machine.portSyncLost p t) := by
  unfold Machine.portSyncLost
  repeat' with_reducible first | exact h | apply portDrop

theorem portSignalLost (h : s.Keep t) (p : Port) : s.Keep (Machine.portSignalLost p t) := by
  unfold Machine.portSignalLost
  repeat' with_reducible first | exact h | apply portDrop

theorem portSyncAcquired (h : s.Keep t) (p : Port) : s.Keep (Machine.portSyncAcquired p t) := by
  unfold Machine.portSyncAcquired
  repeat' with_reducible first | exact h | apply portSet

theorem portSignalDetected (h : s.Keep t) (p : Port) : s.Keep (Machine.portSignalDetected p t) := by
  unfold Machine.portSignalDetected
  repeat' with_reducible first | exact h | apply portSet

theorem enterListen (h : s.Keep t) : s.Keep t.enterListen := by
  unfold State.enterListen
  repeat' first
    | with_reducible first | exact h | assumption | apply each | apply setBit | apply setFld
    | (extract_lets +onlyGivenNames y; subst y)
    | with_reducible first | refine blocks ?_ _ _ _ _ _ _ _ _ _ | intro _

theorem listenTimeout (h : s.Keep t) : s.Keep (Machine.listenTimeout t) := by
  unfold Machine.listenTimeout
  repeat' first
    | with_reducible first | exact h | refine ite (fun _ => ?_) (fun _ => ?_)
    | (extract_lets +onlyGivenNames y; clear_value y)
    | with_reducible refine blocks ?_ _ _ _ _ _ _ _ _ _

theorem coldStart (h : s.Keep t) : s.Keep t.coldStart := by
  unfold State.coldStart
  repeat' first
    | with_reducible first
        | exact h | apply takeScfg | assumption | apply each | apply nodeTo | apply setFld | apply setNode | apply setSeg | apply wr
    | (extract_lets +onlyGivenNames y; subst y)
    | with_reducible first | refine blocks ?_ _ _ _ _ _ _ _ _ _ | intro _

theorem silenceAll (h : s.Keep t) (st : Nat) : s.Keep (t.silenceAll st) := by
  unfold State.silenceAll
  repeat' first
    | with_reducible first
        | exact h | assumption | apply each | apply segEvt | apply setFld | apply setSeg
        | refine ite (fun _ => ?_) (fun _ => ?_)
    | (extract_lets +onlyGivenNames y; subst y)
    | with_reducible first | refine blocks ?_ _ _ _ _ _ _ _ _ _ | intro _

theorem trnTick0 (h : s.Keep t) : s.Keep t.trnTick0 := by
  unfold State.trnTick0
  repeat' with_reducible first | exact h | apply silenceAll | refine ite (fun _ => ?_) (fun _ => ?_)

end Sys2Proof.Machine.State.Keep
end

