-- ==== Sys2Proof/Laws/KeepDrive.lean ====
section
/-! SUPPORT. What the operations keep: PWM, the time base, the field inputs and outputs. -/

namespace Sys2Proof.Machine.State.Keep

variable {s t u : State}

/-! ## Pwm -/

theorem grp_ph (c : t.Shaped) (g : Nat) : (t.grp g).ph.length = 3 := by
  have k : ∀ l : Table PwmGrp, (∀ e ∈ l, e.2.ph.length = 3) → (Table.get (fun _ => ({} : PwmGrp)) l g).ph.length = 3 := by
    intro l hl
    induction l with
    | nil => rfl
    | cons e l ih =>
      simp only [Table.get]
      split
      · exact hl e (by simp)
      · exact ih fun e he => hl e (by simp [he])
  exact k _ c.ph

theorem setGrp (h : s.Keep t) (g : Nat) (x : PwmGrp) (e : s.Shaped → t.Shaped → x.ph.length = 3) : s.Keep (t.setGrp g x) :=
  withPwm h _ fun c k y hy => by
    rcases mem_set hy with rfl | hy
    · exact e c k
    · exact k.ph y hy

theorem stopHolds (h : s.Keep t) (g : Fin 8) : s.Keep (t.stopHolds g) := by
  unfold State.stopHolds
  repeat' first
    | with_reducible first | exact h | assumption | apply each | apply holdStop | refine ite (fun _ => ?_) (fun _ => ?_)
    | (extract_lets +onlyGivenNames y; subst y)
    | with_reducible first | refine setGrp ?_ _ _ (fun _ c => grp_ph c _) | intro _

theorem pwmStart1 (h : s.Keep t) (g : Nat) : s.Keep (t.pwmStart1 g) := by
  unfold State.pwmStart1
  repeat' first
    | with_reducible first | exact h | apply setBit | refine ite (fun _ => ?_) (fun _ => ?_)
    | (extract_lets +onlyGivenNames y; subst y)
    | with_reducible refine setGrp ?_ _ _ (fun _ c => grp_ph c _)

theorem stopAtValley (h : s.Keep t) (g : Nat) : s.Keep (t.stopAtValley g) := by
  unfold State.stopAtValley
  repeat' first
    | with_reducible first
        | exact h | assumption | refine ite (fun _ => ?_) (fun _ => ?_)
    | (extract_lets +onlyGivenNames y; subst y)
    | split
    | with_reducible first | refine setGrp ?_ _ _ (fun _ c => grp_ph c _) | refine setGrp ?_ _ _ (fun _ c => by simp [grp_ph c]) 
        | refine blocks ?_ _ _ _ _ _ _ _ _ _ | intro _

theorem pwmStop1 (h : s.Keep t) (g : Fin 8) : s.Keep (t.pwmStop1 g) := by
  unfold State.pwmStop1
  repeat' first
    | with_reducible first
        | exact h | assumption | apply stopAtValley | apply stopHolds | refine ite (fun _ => ?_) (fun _ => ?_)
    | (extract_lets +onlyGivenNames y; subst y)
    | split
    | with_reducible first | refine setGrp ?_ _ _ (fun _ c => grp_ph c _) | refine setGrp ?_ _ _ (fun _ c => by simp [grp_ph c]) 
        | refine blocks ?_ _ _ _ _ _ _ _ _ _ | intro _

theorem eachGrp (h : s.Keep t) (v : Word) (f : Fin 8 → State → State) (k : ∀ g u, s.Keep u → s.Keep (f g u)) : s.Keep (t.eachGrp v f) :=
  each h _ _ fun g u h => ite (fun _ => k g u h) fun _ => h

theorem pwmStopAll (h : s.Keep t) : s.Keep t.pwmStopAll := by
  unfold State.pwmStopAll
  repeat' with_reducible first | exact h | apply stopAtValley | assumption | apply each | apply pwmStop1 | intro _

theorem loadAll (h : s.Keep t) : s.Keep t.loadAll := by
  unfold State.loadAll
  repeat' with_reducible first | exact h | assumption | apply each | apply setBit | refine ite (fun _ => ?_) (fun _ => ?_) | intro _

theorem setPhase (h : s.Keep t) (g x : Nat) (p : Phase) : s.Keep (t.setPhase g x p) := by
  unfold State.setPhase
  repeat' first
    | with_reducible exact h
    | (extract_lets +onlyGivenNames y; subst y)
    | with_reducible refine setGrp ?_ _ _ (fun _ c => by simp [grp_ph c])

theorem swallow (h : s.Keep t) (g k : Nat) : s.Keep (t.swallow g k) := by
  unfold State.swallow
  repeat' with_reducible first | exact h | apply pwmEvt | apply setFld | refine ite (fun _ => ?_) (fun _ => ?_)

theorem killGrp (h : s.Keep t) (g : Nat) : s.Keep (t.killGrp g) := by
  unfold State.killGrp
  repeat' first
    | with_reducible exact h
    | (extract_lets +onlyGivenNames y; subst y)
    | with_reducible refine setGrp ?_ _ _ (fun _ c => by simp [grp_ph c])

theorem dtAllMax (h : s.Keep t) (g : Nat) : s.Keep (t.dtAllMax g) := by
  unfold State.dtAllMax
  repeat' with_reducible first | exact h | assumption | apply each | apply wr | intro _

theorem latchGrp (h : s.Keep t) (g : Nat) : s.Keep (t.latchGrp g) := by
  unfold State.latchGrp
  repeat' first
    | with_reducible first | exact h | apply dtAllMax | refine ite (fun _ => ?_) (fun _ => ?_)
    | (extract_lets +onlyGivenNames y; subst y)
    | with_reducible refine setGrp ?_ _ _ (fun _ c => grp_ph c _)

theorem takeShadow (h : s.Keep t) (g : Nat) : s.Keep (t.takeShadow g) := by
  unfold State.takeShadow
  repeat' first
    | with_reducible first | exact h | apply setBit | apply wr | refine ite (fun _ => ?_) (fun _ => ?_)
    | (extract_lets +onlyGivenNames y; subst y)
    | with_reducible refine setGrp ?_ _ _ (fun c _ => grp_ph (h.shape c) _)

theorem haltGrp (h : s.Keep t) (g : Fin 8) (upd : Bool) : s.Keep (t.haltGrp g upd) := by
  unfold State.haltGrp
  repeat' first
    | with_reducible first
        | exact h | apply stopHolds | apply wr | refine ite (fun _ => ?_) (fun _ => ?_)
        | refine setGrp ?_ _ _ (fun k _ => by simp [grp_ph (h.shape k)])
    | (extract_lets +onlyGivenNames y; subst y)

theorem newPeriod (h : s.Keep t) (g v : Nat) : s.Keep (t.newPeriod g v) := by
  unfold State.newPeriod
  repeat' first
    | with_reducible first
        | exact h | assumption | apply each | apply incFld | apply killGrp | apply setBit | apply setPhase | apply swallow
        | refine ite (fun _ => ?_) (fun _ => ?_)
    | (extract_lets +onlyGivenNames y; subst y)
    | with_reducible first | refine setGrp ?_ _ _ (fun c _ => grp_ph (h.shape c) _) | intro _

theorem strobe (h : s.Keep t) (g : Fin 8) (tick : Nat) : s.Keep (t.strobe g tick) := by
  unfold State.strobe
  repeat' first
    | with_reducible first | exact h | assumption | apply each | apply queueJobs | apply setAxis
    | (extract_lets +onlyGivenNames y; clear_value y)
    | with_reducible intro _

theorem dsmResults (h : s.Keep t) (g : Nat) (u₁ v w : DsmLine) (t₁ : Nat) : s.Keep (t.dsmResults g u₁ v w t₁) := by
  unfold State.dsmResults
  repeat' with_reducible first
    | exact h | assumption | apply dsmResult | refine ite (fun _ => ?_) (fun _ => ?_) | intro _

theorem carrierValley (h : s.Keep t) (g : Fin 8) (tick : Nat) (u₁ v w : DsmLine) : s.Keep (Machine.carrierValley g tick u₁ v w t) := by
  unfold Machine.carrierValley
  repeat' first
    | with_reducible first
        | exact h | assumption | apply dsmResults | apply dtAllMax | apply haltGrp | apply latchGrp | apply newPeriod
        | apply setBit | apply strobe | apply takeShadow | refine ite (fun _ => ?_) (fun _ => ?_)
    | (extract_lets +onlyGivenNames y; subst y)
    | split
    | with_reducible first | refine setGrp ?_ _ _ (fun _ c => grp_ph c _) | refine setGrp ?_ _ _ (fun _ c => by simp [grp_ph c]) 
        | refine blocks ?_ _ _ _ _ _ _ _ _ _ | intro _

theorem carrierPeak (h : s.Keep t) (g : Fin 8) (tick : Nat) : s.Keep (Machine.carrierPeak g tick t) := by
  unfold Machine.carrierPeak
  repeat' first
    | with_reducible first
        | exact h | assumption | apply each | apply setPhase | apply swallow | refine ite (fun _ => ?_) (fun _ => ?_)
    | (extract_lets +onlyGivenNames y; subst y)
    | with_reducible first | refine setGrp ?_ _ _ (fun _ c => grp_ph c _) | intro _

theorem commandedEdge (h : s.Keep t) (g : Fin 8) (x : Fin 3) : s.Keep (Machine.commandedEdge g x t) := by
  unfold Machine.commandedEdge
  repeat' with_reducible first | exact h | apply setPhase | refine ite (fun _ => ?_) (fun _ => ?_)

theorem deadTimeEnd (h : s.Keep t) (g : Fin 8) (x : Fin 3) : s.Keep (Machine.deadTimeEnd g x t) := by
  unfold Machine.deadTimeEnd
  repeat' with_reducible first | exact h | apply setPhase | refine ite (fun _ => ?_) (fun _ => ?_)

theorem setDead (h : s.Keep t) (g x : Nat) (rising : Bool) (v : Nat) : s.Keep (t.setDead g x rising v) := by
  unfold State.setDead
  repeat' with_reducible first | exact h | apply setFld | refine ite (fun _ => ?_) (fun _ => ?_)

theorem senseTransition (h : s.Keep t) (g : Fin 8) (x : Fin 3) (level : Bool) (fine : Nat) : s.Keep (Machine.senseTransition g x level fine t) := by
  unfold Machine.senseTransition
  repeat' first
    | with_reducible first | exact h | apply setDead | apply setPhase
    | (extract_lets +onlyGivenNames y; subst y)
    | split

theorem senseWindowClose (h : s.Keep t) (g : Fin 8) (x : Fin 3) : s.Keep (Machine.senseWindowClose g x t) := by
  unfold Machine.senseWindowClose
  repeat' first
    | with_reducible first | exact h | apply pwmEvt | apply setBit | apply setDead | apply setPhase
    | (extract_lets +onlyGivenNames y; subst y)
    | split

theorem cutGrp (h : s.Keep t) (g : Fin 8) : s.Keep (t.cutGrp g) := by
  unfold State.cutGrp
  repeat' first
    | with_reducible first
        | exact h | assumption | apply incFld | apply killGrp | apply pwmStop1 | apply setBit | apply stopAtValley
        | refine ite (fun _ => ?_) (fun _ => ?_)
    | (extract_lets +onlyGivenNames y; subst y)
    | split
    | with_reducible first | refine setGrp ?_ _ _ (fun _ c => grp_ph c _) | refine setGrp ?_ _ _ (fun _ c => by simp [grp_ph c]) 
        | refine blocks ?_ _ _ _ _ _ _ _ _ _ | intro _

theorem tripActive (h : s.Keep t) (input : Option (Fin 8)) : s.Keep (Machine.tripActive input t) := by
  unfold Machine.tripActive
  repeat' first
    | with_reducible first
        | exact h | assumption | apply capCond | apply capEvent | apply cutGrp | apply each | apply orBits | apply pwmEvt
        | apply setBit
    | (extract_lets +onlyGivenNames y; subst y)
    | split
    | with_reducible intro _

theorem tripInactive (h : s.Keep t) (input : Option (Fin 8)) : s.Keep (Machine.tripInactive input t) := by
  unfold Machine.tripInactive
  repeat' first | with_reducible first | exact h | apply setBit | split

theorem tripHold (h : s.Keep t) : s.Keep t.tripHold := by
  unfold State.tripHold
  repeat' with_reducible first
    | exact h | assumption | apply each | apply pwmEvt | apply setBit | refine ite (fun _ => ?_) (fun _ => ?_) | intro _

theorem delayLineError (h : s.Keep t) (g : Fin 8) : s.Keep (Machine.delayLineError g t) := by
  unfold Machine.delayLineError
  repeat' with_reducible first | exact h | apply pwmEvt | apply setBit

theorem delayLineRecalibrated (h : s.Keep t) (g : Fin 8) : s.Keep (Machine.delayLineRecalibrated g t) := by
  unfold Machine.delayLineRecalibrated
  repeat' with_reducible first | exact h | apply setBit

theorem dtWrite (h : s.Keep t) (g : Nat) (v : Word) : s.Keep (t.dtWrite g v) := by
  unfold State.dtWrite
  repeat' with_reducible first | exact h | apply setBit | apply wr | refine ite (fun _ => ?_) (fun _ => ?_)

theorem grpCtrlWrite (h : s.Keep t) (g : Nat) (v : Word) : s.Keep (t.grpCtrlWrite g v) := by
  unfold State.grpCtrlWrite
  repeat' first
    | with_reducible first | exact h | apply setBit | refine ite (fun _ => ?_) (fun _ => ?_)
    | (extract_lets +onlyGivenNames y; subst y)
    | with_reducible refine setGrp ?_ _ _ (fun _ c => grp_ph c _)

theorem shadowWrite (h : s.Keep t) (g : Nat) (second : Bool) (v : Word) : s.Keep (t.shadowWrite g second v) := by
  unfold State.shadowWrite
  repeat' with_reducible first | exact h | apply setBit | apply wr | refine ite (fun _ => ?_) (fun _ => ?_)

theorem grpCfgWrite (h : s.Keep t) (g reg : Nat) (m v : Word) : s.Keep (t.grpCfgWrite g reg m v) := by
  unfold State.grpCfgWrite
  repeat' with_reducible first | exact h | apply wr | refine ite (fun _ => ?_) (fun _ => ?_)

/-! ## TimeBase -/

theorem ticks (h : s.Keep t) (k : Nat) : s.Keep (t.ticks k) := by
  unfold State.ticks
  repeat' first
    | with_reducible exact h
    | (extract_lets +onlyGivenNames y; clear_value y)
    | with_reducible refine blocks ?_ _ _ _ _ _ _ _ _ _

theorem unlockServo (h : s.Keep t) : s.Keep t.unlockServo := by
  unfold State.unlockServo
  repeat' with_reducible first | exact h | apply setBit | apply tbEvt | refine ite (fun _ => ?_) (fun _ => ?_)

theorem tbStop (h : s.Keep t) : s.Keep t.tbStop := by
  unfold State.tbStop
  repeat' with_reducible first | exact h | apply setBit | apply unlockServo

theorem pllLock (h : s.Keep t) : s.Keep (Machine.pllLock t) := by
  unfold Machine.pllLock
  repeat' first
    | with_reducible first | exact h | apply orBits | refine ite (fun _ => ?_) (fun _ => ?_)
    | (extract_lets +onlyGivenNames y; subst y)
    | with_reducible refine blocks ?_ _ _ _ _ _ _ _ _ _

theorem referenceLost (h : s.Keep t) : s.Keep (Machine.referenceLost t) := by
  unfold Machine.referenceLost
  repeat' first
    | with_reducible first | exact h | apply clrBits | apply tbEvt | apply tbStop | refine ite (fun _ => ?_) (fun _ => ?_)
    | (extract_lets +onlyGivenNames y; subst y)
    | with_reducible refine blocks ?_ _ _ _ _ _ _ _ _ _

theorem referenceReturn (h : s.Keep t) : s.Keep (Machine.referenceReturn t) := by
  unfold Machine.referenceReturn
  repeat' first
    | with_reducible first | exact h | apply orBits | refine ite (fun _ => ?_) (fun _ => ?_)
    | (extract_lets +onlyGivenNames y; subst y)
    | with_reducible refine blocks ?_ _ _ _ _ _ _ _ _ _

theorem debugHalt (h : s.Keep t) : s.Keep (Machine.debugHalt t) := by
  unfold Machine.debugHalt
  repeat' first
    | with_reducible first | exact h | apply tbStop | refine ite (fun _ => ?_) (fun _ => ?_)
    | (extract_lets +onlyGivenNames y; subst y)
    | with_reducible refine blocks ?_ _ _ _ _ _ _ _ _ _

theorem freezeEnd (h : s.Keep t) : s.Keep (Machine.freezeEnd t) := by
  unfold Machine.freezeEnd
  repeat' first
    | with_reducible exact h
    | (extract_lets +onlyGivenNames y; clear_value y)
    | with_reducible refine blocks ?_ _ _ _ _ _ _ _ _ _

theorem snapGo (h : s.Keep t) (v : Word) : s.Keep (t.snapGo v) := by
  unfold State.snapGo
  repeat' with_reducible first | exact h | apply wr | refine ite (fun _ => ?_) (fun _ => ?_)

theorem stepCapture (h : s.Keep t) : s.Keep t.stepCapture := by
  unfold State.stepCapture
  repeat' first
    | with_reducible first | exact h | apply setBit | apply tbEvt | refine ite (fun _ => ?_) (fun _ => ?_)
    | (extract_lets +onlyGivenNames y; clear_value y)
    | with_reducible refine blocks ?_ _ _ _ _ _ _ _ _ _

theorem addOffset (h : s.Keep t) (o : Int) : s.Keep (t.addOffset o) := by
  unfold State.addOffset
  repeat' first
    | with_reducible first | exact h | apply setBit
    | (extract_lets +onlyGivenNames y; clear_value y)
    | with_reducible refine blocks ?_ _ _ _ _ _ _ _ _ _

theorem tbCtrl (h : s.Keep t) (v : Word) : s.Keep (t.tbCtrl v) := by
  unfold State.tbCtrl
  repeat' with_reducible first | exact h | assumption | apply addOffset | apply setBit | apply stepCapture | apply when | intro _

theorem measured (h : s.Keep t) (o : Int) : s.Keep (t.measured o) := by
  unfold State.measured
  repeat' first
    | with_reducible first
        | exact h | assumption | refine ite (fun _ => ?_) (fun _ => ?_)
    | (extract_lets +onlyGivenNames y; subst y)
    | split
    | with_reducible first | refine of_snd (by assumption) ?_ | refine of_fst (by assumption) ?_
        | refine blocks ?_ _ _ _ _ _ _ _ _ _ | intro _

theorem ofsFrac (h : s.Keep t) (v : Word) : s.Keep (t.ofsFrac v) := by
  unfold State.ofsFrac
  repeat' first
    | with_reducible first | exact h | apply measured | apply setFld | apply tbEvt | refine ite (fun _ => ?_) (fun _ => ?_)
    | (extract_lets +onlyGivenNames y; subst y)
    | with_reducible refine blocks ?_ _ _ _ _ _ _ _ _ _

theorem srvCfg (h : s.Keep t) (v : Word) : s.Keep (t.srvCfg v) := by
  unfold State.srvCfg
  repeat' first
    | with_reducible first | exact h | apply unlockServo | apply wr | refine ite (fun _ => ?_) (fun _ => ?_)
    | (extract_lets +onlyGivenNames y; clear_value y)
    | with_reducible refine blocks ?_ _ _ _ _ _ _ _ _ _

theorem servoMeasurement (h : s.Keep t) : s.Keep (Machine.servoMeasurement t) := by
  unfold Machine.servoMeasurement
  repeat' first
    | with_reducible first | exact h | apply addOffset | apply inc | apply orBits | apply setBit | apply unlockServo | apply wr
    | (extract_lets +onlyGivenNames y; subst y)
    | split
    | with_reducible refine blocks ?_ _ _ _ _ _ _ _ _ _

theorem holdover (h : s.Keep t) : s.Keep (Machine.holdover t) := by
  unfold Machine.holdover
  repeat' first
    | with_reducible first | exact h | apply setBit | apply tbEvt | apply unlockServo | refine ite (fun _ => ?_) (fun _ => ?_)
    | (extract_lets +onlyGivenNames y; subst y)
    | with_reducible refine blocks ?_ _ _ _ _ _ _ _ _ _

theorem ppsCfg (h : s.Keep t) (v : Word) : s.Keep (t.ppsCfg v) := by
  unfold State.ppsCfg
  repeat' first
    | with_reducible first | exact h | apply wr | refine ite (fun _ => ?_) (fun _ => ?_)
    | (extract_lets +onlyGivenNames y; clear_value y)
    | with_reducible refine blocks ?_ _ _ _ _ _ _ _ _ _

theorem ppsEdge (h : s.Keep t) (rising : Bool) (fine : Nat) (stable : Bool) : s.Keep (Machine.ppsEdge rising fine stable t) := by
  unfold Machine.ppsEdge
  repeat' first
    | with_reducible first | exact h | apply capEventAt | apply measured | apply capEvent | apply inc | apply tbEvt | apply wr
    | (extract_lets +onlyGivenNames y; subst y)
    | split
    | with_reducible refine blocks ?_ _ _ _ _ _ _ _ _ _

theorem tbTick0 (h : s.Keep t) : s.Keep t.tbTick0 := by
  unfold State.tbTick0
  repeat' first
    | with_reducible first | exact h | apply setBit | apply tbEvt | apply wr
    | (extract_lets +onlyGivenNames y; subst y)
    | split
    | with_reducible refine blocks ?_ _ _ _ _ _ _ _ _ _

theorem setTxq (h : s.Keep t) (e : Nat) (q : List TxStamp) : s.Keep (t.setTxq e q) := by
  unfold State.setTxq
  repeat' first
    | with_reducible first | exact h | refine ite (fun _ => ?_) (fun _ => ?_)
    | (extract_lets +onlyGivenNames y; clear_value y)
    | with_reducible refine blocks ?_ _ _ _ _ _ _ _ _ _

theorem txStamp (h : s.Keep t) (e id fine : Nat) : s.Keep (t.txStamp e id fine) := by
  unfold State.txStamp
  repeat' with_reducible first | exact h | apply inc | apply setBit | apply setTxq | apply tbEvt | refine ite (fun _ => ?_) (fun _ => ?_)

theorem txqPop (h : s.Keep t) (e : Nat) (v : Word) : s.Keep (t.txqPop e v) := by
  unfold State.txqPop
  repeat' with_reducible first | exact h | apply setTxq | refine ite (fun _ => ?_) (fun _ => ?_)

theorem idleTick (h : s.Keep t) : s.Keep t.idleTick := by
  unfold State.idleTick
  repeat' first
    | with_reducible first | exact h | apply ticks | refine ite (fun _ => ?_) (fun _ => ?_)
    | (extract_lets +onlyGivenNames y; subst y)
    | with_reducible refine blocks ?_ _ _ _ _ _ _ _ _ _

/-! ## Fio -/

theorem driveSet (h : s.Keep t) (n : Nat) : s.Keep (t.driveSet n) := by
  unfold State.driveSet
  repeat' with_reducible first | exact h | assumption | apply each | apply setBit | intro _

theorem driveAll (h : s.Keep t) : s.Keep t.driveAll := by
  unfold State.driveAll
  repeat' with_reducible first | exact h | assumption | apply driveSet | apply each | intro _

theorem cancelRetry (h : s.Keep t) (n : Nat) : s.Keep (t.cancelRetry n) := by
  unfold State.cancelRetry
  repeat' with_reducible first | exact h | apply setBit | apply setFld | refine ite (fun _ => ?_) (fun _ => ?_)

theorem fioOutputFrame (h : s.Keep t) (arrived : Bool) : s.Keep (Machine.fioOutputFrame arrived t) := by
  unfold Machine.fioOutputFrame
  repeat' first
    | with_reducible first
        | exact h | assumption | apply cancelRetry | apply driveAll | apply each | apply setBit
        | refine ite (fun _ => ?_) (fun _ => ?_)
    | (extract_lets +onlyGivenNames y; subst y)
    | with_reducible first | refine withFio ?_ _ (fun c _ => { (h.shape c).fio with }) | intro _

theorem doFlag (h : s.Keep t) (n i : Nat) : s.Keep (t.doFlag n i) := by
  unfold State.doFlag
  repeat' with_reducible first | exact h | apply fioEvt | apply setBit

theorem diagFlag (h : s.Keep t) (n i : Nat) : s.Keep (t.diagFlag n i) := by
  unfold State.diagFlag
  repeat' first
    | with_reducible first
        | exact h | assumption | refine ite (fun _ => ?_) (fun _ => ?_)
    | (extract_lets +onlyGivenNames y; subst y)
    | split
    | with_reducible first | refine withFio ?_ _ (fun _ c => by constructor <;> simp [c.fio.cnt, c.fio.cls, c.fio.flags, c.fio.cond, c.fio.ext]) | refine withLaw ?_ _ (by rfl) 
        | refine withHall ?_ _ (fun c => c) | refine blocks ?_ _ _ _ _ _ _ _ _ _ | intro _

theorem cutOff (h : s.Keep t) (n flag : Nat) : s.Keep (t.cutOff n flag) := by
  unfold State.cutOff
  repeat' with_reducible first | exact h | apply diagFlag | apply doFlag | apply driveSet | apply setBit | refine ite (fun _ => ?_) (fun _ => ?_)

theorem overloadCutoff (h : s.Keep t) (n : Nat) : s.Keep (Machine.overloadCutoff n t) := by
  unfold Machine.overloadCutoff
  repeat' with_reducible first | exact h | apply cutOff | refine ite (fun _ => ?_) (fun _ => ?_)

theorem thermalCutoff (h : s.Keep t) (n : Nat) : s.Keep (Machine.thermalCutoff n t) := by
  unfold Machine.thermalCutoff
  repeat' with_reducible first | exact h | apply cutOff

theorem outputRetry (h : s.Keep t) (n : Nat) : s.Keep (Machine.outputRetry n t) := by
  unfold Machine.outputRetry
  repeat' with_reducible first | exact h | apply driveSet | apply setBit | apply setFld | refine ite (fun _ => ?_) (fun _ => ?_)

theorem retryCountClear (h : s.Keep t) (n : Nat) : s.Keep (Machine.retryCountClear n t) := by
  unfold Machine.retryCountClear
  repeat' with_reducible first | exact h | apply setFld | refine ite (fun _ => ?_) (fun _ => ?_)

theorem doUnlatch (h : s.Keep t) (v : Word) : s.Keep (t.doUnlatch v) := by
  unfold State.doUnlatch
  repeat' with_reducible first
    | exact h | assumption | apply driveSet | apply each | apply setBit | apply setFld
    | refine ite (fun _ => ?_) (fun _ => ?_) | intro _

theorem doCmd (h : s.Keep t) (v : Word) : s.Keep (t.doCmd v) := by
  unfold State.doCmd
  repeat' with_reducible first | exact h | apply wr

theorem doSet (h : s.Keep t) (v : Word) : s.Keep (t.doSet v) := by
  unfold State.doSet
  repeat' with_reducible first | exact h | apply wr

theorem doClr (h : s.Keep t) (v : Word) : s.Keep (t.doClr v) := by
  unfold State.doClr
  repeat' with_reducible first | exact h | apply wr

theorem readbackHigh (h : s.Keep t) (n : Nat) (drivers : BitVec 8) : s.Keep (Machine.readbackHigh n drivers t) := by
  unfold Machine.readbackHigh
  repeat' first
    | with_reducible first | exact h | apply setBit | refine ite (fun _ => ?_) (fun _ => ?_)
    | (extract_lets +onlyGivenNames y; subst y)
    | with_reducible refine withFio ?_ _ (fun c₀ c => by constructor <;> simp [c.fio.cnt, c.fio.cls, c.fio.flags, c.fio.cond, c.fio.ext, (h.shape c₀).fio.cnt, (h.shape c₀).fio.cls,
        (h.shape c₀).fio.flags, (h.shape c₀).fio.cond, (h.shape c₀).fio.ext])

theorem diagCond (h : s.Keep t) (n i : Nat) (b : Bool) : s.Keep (t.diagCond n i b) := by
  unfold State.diagCond
  repeat' first
    | with_reducible first
        | exact h | assumption | refine ite (fun _ => ?_) (fun _ => ?_)
    | (extract_lets +onlyGivenNames y; subst y)
    | split
    | with_reducible first | refine withFio ?_ _ (fun _ c => by constructor <;> simp [c.fio.cnt, c.fio.cls, c.fio.flags, c.fio.cond, c.fio.ext]) | refine withLaw ?_ _ (by rfl) 
        | refine withHall ?_ _ (fun c => c) | refine blocks ?_ _ _ _ _ _ _ _ _ _ | intro _

theorem outputDiagnostic (h : s.Keep t) (n : Nat) (kind : Fin 4) (held : Bool) : s.Keep (Machine.outputDiagnostic n kind held t) := by
  unfold Machine.outputDiagnostic
  repeat' first
    | with_reducible first
        | exact h | assumption | apply diagCond | apply diagFlag | refine ite (fun _ => ?_) (fun _ => ?_)
    | (extract_lets +onlyGivenNames y; subst y)
    | split
    | with_reducible first | refine withFio ?_ _ (fun _ c => by constructor <;> simp [c.fio.cnt, c.fio.cls, c.fio.flags, c.fio.cond, c.fio.ext]) | refine withLaw ?_ _ (by rfl) 
        | refine withHall ?_ _ (fun c => c) | refine blocks ?_ _ _ _ _ _ _ _ _ _ | intro _

theorem diSample (h : s.Keep t) (n : Nat) (high : Bool) : s.Keep (Machine.diSample n high t) := by
  unfold Machine.diSample
  repeat' first
    | with_reducible exact h
    | (extract_lets +onlyGivenNames y; subst y)
    | with_reducible refine withFio ?_ _ (fun c₀ c => by constructor <;> simp [c.fio.cnt, c.fio.cls, c.fio.flags, c.fio.cond, c.fio.ext, (h.shape c₀).fio.cnt, (h.shape c₀).fio.cls,
        (h.shape c₀).fio.flags, (h.shape c₀).fio.cond, (h.shape c₀).fio.ext])

theorem diEdge (h : s.Keep t) (n : Nat) (rising : Bool) : s.Keep (t.diEdge n rising) := by
  unfold State.diEdge
  repeat' with_reducible first
    | exact h | apply capCond | apply capEvent | apply fioEvt | apply setBit | refine ite (fun _ => ?_) (fun _ => ?_)

theorem diagFlags (h : s.Keep t) : s.Keep t.diagFlags := by
  unfold State.diagFlags
  repeat' first
    | with_reducible first
        | exact h | assumption | apply doFlag | apply each | apply setFld | apply each | refine ite (fun _ => ?_) (fun _ => ?_)
    | (extract_lets +onlyGivenNames y; subst y)
    | split
    | with_reducible first | refine withFio ?_ _ (fun _ c => by constructor <;> simp [c.fio.cnt, c.fio.cls, c.fio.flags, c.fio.cond, c.fio.ext]) | refine withLaw ?_ _ (by rfl) 
        | refine withHall ?_ _ (fun c => c) | refine blocks ?_ _ _ _ _ _ _ _ _ _ | intro _

theorem readbacks (h : s.Keep t) (rb : BitVec 8) : s.Keep (t.readbacks rb) := by
  unfold State.readbacks
  repeat' first
    | with_reducible first
        | exact h | assumption | refine ite (fun _ => ?_) (fun _ => ?_)
    | (extract_lets +onlyGivenNames y; subst y)
    | split
    | with_reducible first | refine withFio ?_ _ (fun _ c => by constructor <;> simp [c.fio.cnt, c.fio.cls, c.fio.flags, c.fio.cond, c.fio.ext]) | refine withLaw ?_ _ (by rfl) 
        | refine withHall ?_ _ (fun c => c) | refine blocks ?_ _ _ _ _ _ _ _ _ _ | intro _

theorem fioInputFrame (h : s.Keep t) (rb lim : BitVec 8) (cur : List (BitVec 16)) (vfld : BitVec 16) :
    s.Keep (Machine.fioInputFrame rb lim cur vfld t) := by
  unfold Machine.fioInputFrame
  have h₁ := readbacks h rb
  generalize t.readbacks rb = t₁ at h₁ ⊢
  clear h
  repeat' first
    | with_reducible first
        | exact h₁ | assumption | apply capFieldRecord | apply diEdge | apply diagFlags | apply each | apply setBit | apply takeFree
        | apply when | apply wr | refine ite (fun _ => ?_) (fun _ => ?_)
    | (extract_lets +onlyGivenNames y; clear_value y)
    | with_reducible first
        | refine withFio ?_ _ (fun c₀ c => { (h₁.shape c₀).fio with }) | intro _

theorem silenceTimeout (h : s.Keep t) : s.Keep (Machine.silenceTimeout t) := by
  unfold Machine.silenceTimeout
  repeat' first
    | with_reducible first | exact h | apply driveAll | apply fioEvt | apply setBit | refine ite (fun _ => ?_) (fun _ => ?_)
    | (extract_lets +onlyGivenNames y; subst y)
    | with_reducible refine withFio ?_ _ (fun c _ => { (h.shape c).fio with })

theorem fioCtrl (h : s.Keep t) (v : Word) : s.Keep (t.fioCtrl v) := by
  unfold State.fioCtrl
  repeat' with_reducible first | exact h | apply fioEvt | apply setBit | refine ite (fun _ => ?_) (fun _ => ?_)

theorem vfldWarn (h : s.Keep t) : s.Keep (Machine.vfldWarn t) := by
  unfold Machine.vfldWarn
  repeat' first
    | with_reducible first | exact h | apply fioEvt | apply setBit | refine ite (fun _ => ?_) (fun _ => ?_)
    | (extract_lets +onlyGivenNames y; subst y)
    | with_reducible refine withFio ?_ _ (fun _ c => { c.fio with })

theorem vfldSag (h : s.Keep t) : s.Keep (Machine.vfldSag t) := by
  unfold Machine.vfldSag
  extract_lets s₁ x y s₂
  have h₁ : s.Keep s₁ := vfldWarn h
  have h₂ : s.Keep s₂ := ⟨h₁.queue, fun c => { h₁.canon c with }, fun c => { h₁.shape c with fio := { (h₁.shape c).fio with } }⟩
  exact fioEvt (driveAll (setBit h₂ _ _ _)) _

theorem vfldRecover (h : s.Keep t) : s.Keep (Machine.vfldRecover t) := by
  unfold Machine.vfldRecover
  repeat' first
    | with_reducible first | exact h | apply setBit
    | (extract_lets +onlyGivenNames y; subst y)
    | with_reducible refine withFio ?_ _ (fun _ c => { c.fio with })

theorem fioCfgWrite (h : s.Keep t) (reg : Nat) (m v : Word) : s.Keep (t.fioCfgWrite reg m v) := by
  unfold State.fioCfgWrite
  repeat' with_reducible first | exact h | apply wr | refine ite (fun _ => ?_) (fun _ => ?_)

end Sys2Proof.Machine.State.Keep
end

