-- ==== Sys2Proof/Laws/KeepTasks.lean ====
section
/-! SUPPORT. What the operations keep: mailboxes, the task unit, the flash, spares, landings, the program check. -/

namespace Sys2Proof.Machine.State.Keep

variable {s t u : State}

/-! ## Mbx -/

theorem mbxSettle (h : s.Keep t) : s.Keep t.mbxSettle := by
  unfold State.mbxSettle
  repeat' first
    | with_reducible first | exact h | assumption | apply each | apply endWait | apply wakeCore
    | (extract_lets +onlyGivenNames y; clear_value y)
    | split
    | with_reducible intro _

theorem chanChange (h : s.Keep t) (n : Nat) (f : State → State) (k : ∀ u, s.Keep u → s.Keep (f u)) : s.Keep (t.chanChange n f) := by
  unfold State.chanChange
  extract_lets s₁ n₁ x s₂
  have h₁ : s.Keep s₁ := k t h
  clear_value s₁
  have h₂ : s.Keep s₂ := ite (fun _ => ⟨h₁.queue, fun c => { h₁.canon c with }, fun c => { h₁.shape c with }⟩) fun _ => h₁
  exact mbxSettle h₂

theorem ring (h : s.Keep t) (n : Nat) (bits : Word) : s.Keep (t.ring n bits) := by
  unfold State.ring
  repeat' with_reducible first
    | exact h | assumption | apply chanChange | apply orBits | refine ite (fun _ => ?_) (fun _ => ?_) | intro _

theorem bySide (h : s.Keep t) (ok : Bool) (m : Nat) (f : State → State) (k : ∀ u, s.Keep u → s.Keep (f u)) : s.Keep (t.bySide ok m f) :=
  ite (fun _ => k t h) fun _ => orBits h _ _

theorem wakeMode (h : s.Keep t) (n : Nat) : s.Keep (t.wakeMode n) := by
  unfold State.wakeMode
  repeat' with_reducible first | exact h | apply setBit | refine ite (fun _ => ?_) (fun _ => ?_)

theorem dbSet (h : s.Keep t) (m n : Nat) (v : Word) : s.Keep (t.dbSet m n v) := by
  unfold State.dbSet
  repeat' first
    | with_reducible first
        | exact h | assumption | apply bySide | apply ring | apply wakeMode | refine ite (fun _ => ?_) (fun _ => ?_)
    | (extract_lets +onlyGivenNames y; clear_value y)
    | with_reducible intro _

theorem dbClear (h : s.Keep t) (m n : Nat) (v : Word) : s.Keep (t.dbClear m n v) := by
  unfold State.dbClear
  repeat' with_reducible first | exact h | assumption | apply bySide | apply chanChange | apply clrBits | intro _

theorem dbMask (h : s.Keep t) (m n : Nat) (v : Word) : s.Keep (t.dbMask m n v) := by
  unfold State.dbMask
  repeat' with_reducible first | exact h | assumption | apply bySide | apply chanChange | apply wr | intro _

theorem descStage (h : s.Keep t) (m n : Nat) (v : Word) : s.Keep (t.descStage m n v) := by
  unfold State.descStage
  repeat' first
    | with_reducible first | exact h | assumption | apply bySide
    | (extract_lets +onlyGivenNames y; clear_value y)
    | with_reducible first | refine blocks ?_ _ _ _ _ _ _ _ _ _ | intro _

theorem unpost (h : s.Keep t) (n : Nat) : s.Keep (t.unpost n) := by
  unfold State.unpost
  repeat' first
    | with_reducible first
        | exact h | assumption | refine ite (fun _ => ?_) (fun _ => ?_)
    | (extract_lets +onlyGivenNames y; subst y)
    | split
    | with_reducible first | refine of_snd (by assumption) ?_ | refine of_fst (by assumption) ?_
        | refine blocks ?_ _ _ _ _ _ _ _ _ _ | intro _

theorem descPost (h : s.Keep t) (m n : Nat) (v : Word) : s.Keep (t.descPost m n v) := by
  unfold State.descPost
  repeat' first
    | with_reducible first
        | exact h | assumption | apply bySide | apply incFld | apply mbxSettle | apply orBits | apply setBit | apply unpost
        | apply wr | refine ite (fun _ => ?_) (fun _ => ?_)
    | (extract_lets +onlyGivenNames y; subst y)
    | split
    | with_reducible first | refine of_snd (by assumption) ?_ | refine of_fst (by assumption) ?_
        | refine blocks ?_ _ _ _ _ _ _ _ _ _ | intro _

theorem descAck (h : s.Keep t) (m n : Nat) (v : Word) : s.Keep (t.descAck m n v) := by
  unfold State.descAck
  repeat' with_reducible first
    | exact h | apply unpost | assumption | apply bySide | apply mbxSettle | apply setBit | refine ite (fun _ => ?_) (fun _ => ?_) | intro _

theorem chanEmpty (h : s.Keep t) (n : Nat) : s.Keep (t.chanEmpty n) := by
  unfold State.chanEmpty
  repeat' first
    | with_reducible first | exact h | apply unpost | apply setBit | apply wr
    | (extract_lets +onlyGivenNames y; subst y)
    | with_reducible refine blocks ?_ _ _ _ _ _ _ _ _ _

theorem bind (h : s.Keep t) (n : Nat) (v : Word) : s.Keep (t.bind n v) := by
  unfold State.bind
  repeat' with_reducible first
    | exact h | assumption | apply chanChange | apply chanEmpty | apply orBits | apply wr
    | refine ite (fun _ => ?_) (fun _ => ?_) | intro _

theorem masterReset (h : s.Keep t) (m : Nat) : s.Keep (t.masterReset m) := by
  unfold State.masterReset
  repeat' with_reducible first | exact h | assumption | apply each | apply ring | intro _

/-! ## Tsu -/

theorem tsuFree (h : s.Keep t) : s.Keep t.tsuFree := by
  unfold State.tsuFree
  repeat' with_reducible first | exact h | apply setFld

theorem submit (h : s.Keep t) (m : Nat) (v : Word) : s.Keep (t.submit m v) := by
  unfold State.submit
  repeat' first
    | with_reducible first
        | exact h | apply inc | apply lvlPeak | apply setTsuJobs | apply takeFree | apply tsuEvt | apply tsuFree | apply wr
    | (extract_lets +onlyGivenNames y; subst y)
    | split
    | with_reducible refine blocks ?_ _ _ _ _ _ _ _ _ _

theorem jobSt (h : s.Keep t) (n : Nat) (st : JobState) : s.Keep (t.jobSt n st) := setTsuJobs h _

theorem giveJob (h : s.Keep t) (c : Nat) (j : TsuJob) : s.Keep (t.giveJob c j) := by
  unfold State.giveJob
  repeat' with_reducible first | exact h | apply setCore | apply endWait | apply inc | apply jobSt | apply setBit | apply setFld

theorem jobEligible (h : s.Keep t) (h₁ : Nat) : s.Keep (Machine.jobEligible h₁ t) := by
  unfold Machine.jobEligible
  repeat' first
    | with_reducible first | exact h | apply giveJob | apply jobSt
    | (extract_lets +onlyGivenNames y; subst y)
    | split

theorem beginWait (h : s.Keep t) (c : Nat) (w : CoreWait) : s.Keep (t.beginWait c w) := by
  unfold State.beginWait
  repeat' first
    | with_reducible first | exact h | assumption | apply setBit | apply setCore | apply wakeCore | apply when
    | (extract_lets +onlyGivenNames y; clear_value y)
    | with_reducible first | refine blocks ?_ _ _ _ _ _ _ _ _ _ | intro _

theorem mbxRead (h : s.Keep t) (m : Nat) : s.Keep (t.mbxRead m).1 := by
  unfold State.mbxRead
  repeat' with_reducible first | exact h | apply beginWait | refine ite_fst (fun _ => ?_) (fun _ => ?_)

theorem readBytes (h : s.Keep t) (m : Nat) (bs : List Byte) : s.Keep (t.readBytes m bs) := by
  unfold State.readBytes
  repeat' with_reducible first
    | exact h | assumption | apply complete | apply setCore | refine ite (fun _ => ?_) (fun _ => ?_) | intro _

theorem readBy (h : s.Keep t) (m : Nat) (v : Word) : s.Keep (t.readBy m v) := by
  unfold State.readBy
  repeat' with_reducible first | exact h | apply readBytes | apply setCore | refine ite (fun _ => ?_) (fun _ => ?_)

theorem takeRead (h : s.Keep t) (m : Nat) : s.Keep (t.takeRead m) := by
  unfold State.takeRead
  repeat' first
    | with_reducible first | exact h | apply beginWait | apply giveJob | apply readBy | apply tsuEvt
    | (extract_lets +onlyGivenNames y; clear_value y)
    | split

theorem dropHold (h : s.Keep t) (c : Nat) : s.Keep (t.dropHold c) := by
  unfold State.dropHold
  repeat' with_reducible first | exact h | apply setBit | apply setFld

theorem doneWrite (h : s.Keep t) (m : Nat) (res : Word) : s.Keep (t.doneWrite m res) := by
  unfold State.doneWrite
  repeat' first | with_reducible first | exact h | apply dropHold | apply jobSt | apply tsuEvt | split

theorem releaseTsu (h : s.Keep t) (j : TsuJob) (c : Nat) (res : Word) : s.Keep (t.releaseTsu j c res) := by
  unfold State.releaseTsu
  repeat' first
    | with_reducible first
        | exact h | apply hallStore | apply orBits | apply setFld | apply setTsuJobs | apply tsuEvt | apply tsuFree
    | (extract_lets +onlyGivenNames y; subst y)
    | split

theorem jobRelease (h : s.Keep t) (h₁ : Nat) : s.Keep (Machine.jobRelease h₁ t) := by
  unfold Machine.jobRelease
  repeat' first | with_reducible first | exact h | apply releaseTsu | split

theorem flowRelease (h : s.Keep t) (f : Nat) : s.Keep (Machine.flowRelease f t) := by
  unfold Machine.flowRelease
  repeat' first | with_reducible first | exact h | apply releaseTsu | split

theorem jobTimeout (h : s.Keep t) (c : Nat) : s.Keep (Machine.jobTimeout c t) := by
  unfold Machine.jobTimeout
  repeat' with_reducible first | exact h | apply setBit | apply tsuEvt | refine ite (fun _ => ?_) (fun _ => ?_)

theorem lostEdge (h : s.Keep t) : s.Keep t.lostEdge := by
  unfold State.lostEdge
  repeat' with_reducible first | exact h | apply setBit | apply setCore | apply wakeCore | refine ite (fun _ => ?_) (fun _ => ?_)

theorem routeChange (h : s.Keep t) (n : Nat) : s.Keep (Machine.routeChange n t) := by
  unfold Machine.routeChange
  repeat' first
    | with_reducible first | exact h | apply irqSettle | apply lostEdge | refine ite (fun _ => ?_) (fun _ => ?_)
    | (extract_lets +onlyGivenNames y; clear_value y)
    | with_reducible refine blocks ?_ _ _ _ _ _ _ _ _ _

theorem coreOff (h : s.Keep t) (c : Nat) : s.Keep (t.coreOff c) := by
  unfold State.coreOff
  repeat' with_reducible first | exact h | apply clrBits | apply setBit | apply setCore

theorem irqSettleAll (h : s.Keep t) : s.Keep t.irqSettleAll := by
  unfold State.irqSettleAll
  repeat' with_reducible first
    | exact h | assumption | apply each | apply irqSettle | apply each | refine ite (fun _ => ?_) (fun _ => ?_) | intro _

theorem pwrWrite (h : s.Keep t) (v : Word) : s.Keep (t.pwrWrite v) := by
  unfold State.pwrWrite
  repeat' with_reducible first
    | exact h | apply irqSettleAll | assumption | apply coreOff | apply each | apply setBit | apply tsuEvt
    | refine ite (fun _ => ?_) (fun _ => ?_) | intro _

theorem startCore (h : s.Keep t) (c : Nat) : s.Keep (t.startCore c) := by
  unfold State.startCore
  repeat' with_reducible first | exact h | apply masterReset | apply setBit | apply setCore

theorem corePowerUp (h : s.Keep t) (c : Nat) : s.Keep (Machine.corePowerUp c t) := by
  unfold Machine.corePowerUp
  repeat' with_reducible first | exact h | apply lostEdge | apply startCore | refine ite (fun _ => ?_) (fun _ => ?_)

/-! ## Flash -/

/-! ## Spare -/

theorem markCore (h : s.Keep t) (c cause : Nat) (forced : Bool) : s.Keep (t.markCore c cause forced) := by
  unfold State.markCore
  repeat' first
    | with_reducible first | exact h | apply coreState | apply orBits | apply record | apply setBit
    | (extract_lets +onlyGivenNames y; subst y)
    | split
    | with_reducible refine blocks ?_ _ _ _ _ _ _ _ _ _

theorem coreMemoryError (h : s.Keep t) (c : Nat) (unc : Bool) : s.Keep (Machine.coreMemoryError c unc t) := by
  unfold Machine.coreMemoryError
  repeat' first
    | with_reducible first | exact h | apply markCore | refine ite (fun _ => ?_) (fun _ => ?_)
    | (extract_lets +onlyGivenNames y; subst y)
    | with_reducible refine blocks ?_ _ _ _ _ _ _ _ _ _

theorem sprCtrl (h : s.Keep t) (v : Word) : s.Keep (t.sprCtrl v) := by
  unfold State.sprCtrl
  repeat' with_reducible first | exact h | apply markCore | refine ite (fun _ => ?_) (fun _ => ?_)

theorem spareFailed (h : s.Keep t) (w : CoreSwap) (k : Nat) : s.Keep (t.spareFailed w k) := by
  unfold State.spareFailed
  repeat' first
    | with_reducible first | exact h | apply coreState | apply orBits | apply record
    | (extract_lets +onlyGivenNames y; clear_value y)
    | with_reducible refine blocks ?_ _ _ _ _ _ _ _ _ _

theorem spareCoreLoaded (h : s.Keep t) (read : Bool) : s.Keep (Machine.spareCoreLoaded read t) := by
  unfold Machine.spareCoreLoaded
  repeat' first
    | with_reducible first | exact h | apply setCore | apply spareFailed
    | (extract_lets +onlyGivenNames y; subst y)
    | split
    | with_reducible refine blocks ?_ _ _ _ _ _ _ _ _ _

theorem rebind (h : s.Keep t) (a b : Nat) : s.Keep (t.rebind a b) := by
  unfold State.rebind
  repeat' first
    | with_reducible first | exact h | assumption | apply each | apply setFld | refine ite (fun _ => ?_) (fun _ => ?_)
    | (extract_lets +onlyGivenNames y; subst y)
    | with_reducible intro _

theorem coreTick0 (h : s.Keep t) : s.Keep t.coreTick0 := by
  unfold State.coreTick0
  repeat' first
    | with_reducible first
        | exact h | assumption | apply coreOff | apply coreState | apply dropHold | apply each | apply irqSettle
        | apply jobSt | apply lostEdge | apply rebind | apply record | apply setFld | apply startCore | apply wr
    | (extract_lets +onlyGivenNames y; subst y)
    | split
    | with_reducible first | refine blocks ?_ _ _ _ _ _ _ _ _ _ | intro _

theorem hallRowCopyDone (h : s.Keep t) : s.Keep (Machine.hallRowCopyDone t) := by
  unfold Machine.hallRowCopyDone
  repeat' first
    | with_reducible first | exact h | refine ite (fun _ => ?_) (fun _ => ?_)
    | (extract_lets +onlyGivenNames y; clear_value y)
    | with_reducible refine blocks ?_ _ _ _ _ _ _ _ _ _

theorem hallMapDone (h : s.Keep t) : s.Keep (Machine.hallMapDone t) := by
  unfold Machine.hallMapDone
  split
  · exact ite (fun _ => h) fun _ =>
      ⟨h.queue, fun c => { h.canon c with hmap := Table.wf_set (h.canon c).hmap _ _ }, fun c => { h.shape c with }⟩
  · exact h

theorem hallTick0 (h : s.Keep t) : s.Keep t.hallTick0 := by
  unfold State.hallTick0
  repeat' first
    | with_reducible first | exact h | apply record
    | (extract_lets +onlyGivenNames y; subst y)
    | split
    | with_reducible refine blocks ?_ _ _ _ _ _ _ _ _ _

theorem dramRepair (h : s.Keep t) (r cause : Nat) : s.Keep (t.dramRepair r cause) := by
  unfold State.dramRepair
  repeat' first
    | with_reducible first | exact h | apply orBits | apply record | refine ite (fun _ => ?_) (fun _ => ?_)
    | (extract_lets +onlyGivenNames y; subst y)
    | with_reducible refine withPv ?_ _ (fun c => ⟨c.words, c.wear, c.hmap, c.flash⟩)

theorem dramEcc (h : s.Keep t) (host : Bool) (o err : Nat) : s.Keep (t.dramEcc host o err) := by
  unfold State.dramEcc
  repeat' first
    | with_reducible first
        | exact h | assumption | apply dramRepair | apply setFld | apply when | refine ite (fun _ => ?_) (fun _ => ?_)
    | (extract_lets +onlyGivenNames y; clear_value y)
    | with_reducible first | refine blocks ?_ _ _ _ _ _ _ _ _ _ | intro _

theorem dramRepairAll (h : s.Keep t) : s.Keep t.dramRepairAll := by
  unfold State.dramRepairAll
  repeat' first
    | with_reducible first | exact h | assumption | apply each | apply record
    | (extract_lets +onlyGivenNames y; subst y)
    | with_reducible first | refine withPv ?_ _ (fun c => ⟨c.words, c.wear, c.hmap, c.flash⟩) | intro _

theorem trendPeriodEnd (h : s.Keep t) : s.Keep (Machine.trendPeriodEnd t) := by
  unfold Machine.trendPeriodEnd
  refine ite (fun _ => h) (fun _ => ?_)
  repeat' first
    | with_reducible first | exact h | assumption | apply each | apply pregWrite
    | (extract_lets +onlyGivenNames y; subst y)
    | with_reducible first | refine setLane ?_ _ _ ?_ | refine blocks ?_ _ _ _ _ _ _ _ _ _
    | exact fun _ c _ hj => lane_job c _ hj
    | with_reducible intro _

theorem stateWriteRetry (h : s.Keep t) : s.Keep (Machine.stateWriteRetry t) := by
  unfold Machine.stateWriteRetry
  repeat' first
    | with_reducible first | exact h | assumption | apply each | apply pregKeep | refine ite (fun _ => ?_) (fun _ => ?_)
    | (extract_lets +onlyGivenNames y; subst y)
    | with_reducible first | refine blocks ?_ _ _ _ _ _ _ _ _ _ | intro _

/-! ## Land -/

theorem hallBlock (h : s.Keep t) (o : Nat) (bs : List Byte) : s.Keep (t.hallBlock o bs) := by
  unfold State.hallBlock
  repeat' first
    | with_reducible first | exact h | apply hallWrite | refine ite (fun _ => ?_) (fun _ => ?_)
    | (extract_lets +onlyGivenNames y; subst y)
    | with_reducible refine withHall ?_ _ (fun c => c)

theorem imgComplete (h : s.Keep t) (n : Word) (h₁ : Nat) : s.Keep (t.imgComplete n h₁) := by
  unfold State.imgComplete
  repeat' with_reducible first | exact h | apply hallBlock | apply setLand | apply takeFree | refine ite (fun _ => ?_) (fun _ => ?_)

theorem imgTick0 (h : s.Keep t) (n : Word) : s.Keep (t.imgTick0 n) := by
  unfold State.imgTick0
  repeat' with_reducible first | exact h | assumption | apply each | apply imgComplete | refine ite (fun _ => ?_) (fun _ => ?_) | intro _

theorem imgLatch (h : s.Keep t) (m : Nat) : s.Keep (t.imgLatch m).1 := by
  unfold State.imgLatch
  repeat' first | with_reducible first | exact h | apply setLand | (extract_lets +onlyGivenNames y; clear_value y) | split

theorem imgRelease (h : s.Keep t) (m : Nat) (v : Word) : s.Keep (t.imgRelease m v) := by
  unfold State.imgRelease
  repeat' first | with_reducible first | exact h | apply setLand | split

theorem stgWrite (h : s.Keep t) (m a : Nat) (v : Word) : s.Keep (t.stgWrite m a v) := by
  unfold State.stgWrite
  repeat' first | with_reducible first | exact h | apply setBit | apply wr | split

theorem commitWrite (h : s.Keep t) (m : Nat) (v : Word) : s.Keep (t.commitWrite m v) := by
  unfold State.commitWrite
  repeat' first
    | with_reducible first | exact h | apply setBit | apply setLand
    | (extract_lets +onlyGivenNames y; clear_value y)
    | split

theorem commitApply (h : s.Keep t) (h₁ : Nat) (t₁ : Word) (late : Bool) (both : List Nat) : s.Keep (t.commitApply h₁ t₁ late both) := by
  unfold State.commitApply
  repeat' first
    | with_reducible first | exact h | assumption | apply each | apply setLand | apply wr
    | (extract_lets +onlyGivenNames y; clear_value y)
    | with_reducible intro _

theorem commitTick0 (h : s.Keep t) : s.Keep t.commitTick0 := by
  unfold State.commitTick0
  repeat' with_reducible first | exact h | assumption | apply commitApply | apply each | intro _

theorem resetHost (h : s.Keep t) (h₁ : Nat) : s.Keep (t.resetHost h₁) := by
  unfold State.resetHost
  repeat' with_reducible first | exact h | apply masterReset | apply orBits | apply setBit | apply setLand

theorem resetHosts (h : s.Keep t) (p : Nat) : s.Keep (t.resetHosts p) := by
  unfold State.resetHosts
  repeat' with_reducible first
    | exact h | assumption | apply each | apply resetHost | apply each | refine ite (fun _ => ?_) (fun _ => ?_) | intro _

theorem hostReset (h : s.Keep t) (p : Nat) (r : HostReset) : s.Keep (Machine.hostReset p r t) := by
  unfold Machine.hostReset
  repeat' first
    | with_reducible first | exact h | apply resetHosts | assumption | apply clrBits | apply each | apply orBits | apply resetHost | apply setBit
    | (extract_lets +onlyGivenNames y; subst y)
    | split
    | with_reducible intro _

theorem pcieLinkUp (h : s.Keep t) (p speed width : Nat) : s.Keep (Machine.pcieLinkUp p speed width t) := by
  unfold Machine.pcieLinkUp
  repeat' with_reducible first | exact h | apply wr | refine ite (fun _ => ?_) (fun _ => ?_)

theorem ethernetLinkUp (h : s.Keep t) (e : Nat) : s.Keep (Machine.ethernetLinkUp e t) := by
  unfold Machine.ethernetLinkUp
  repeat' with_reducible first | exact h | apply setBit | refine ite (fun _ => ?_) (fun _ => ?_)

theorem ethernetLinkDown (h : s.Keep t) (e : Nat) : s.Keep (Machine.ethernetLinkDown e t) := by
  unfold Machine.ethernetLinkDown
  repeat' with_reducible first | exact h | apply orBits | apply setBit | refine ite (fun _ => ?_) (fun _ => ?_)

/-! ## GalCheck -/

theorem progChecks : ∀ (l : List Nat) {t : State}, s.Keep t → s.Keep (t.progChecks l).1
  | [], t, h => by
    unfold State.progChecks
    split
    · exact wr h _ _
    · exact h
  | p :: l, t, h => by
    unfold State.progChecks
    split
    · exact progChecks l h
    · split
      · exact wr h _ _
      · exact progChecks l (wr h _ _)

theorem checkPrograms (h : s.Keep t) : s.Keep (t.checkPrograms).1 := by
  unfold State.checkPrograms
  repeat' with_reducible first | exact h | assumption | apply each | apply progChecks | apply wr | intro _

theorem checkPlan (h : s.Keep t) : s.Keep (t.checkPlan).1 := by
  unfold State.checkPlan
  repeat' with_reducible first | exact h | apply wr

theorem galChkStart (h : s.Keep t) (v : Word) : s.Keep (t.galChkStart v) := by
  unfold State.galChkStart
  repeat' with_reducible first | exact h | apply setBit | refine ite (fun _ => ?_) (fun _ => ?_)

theorem galChkDone (h : s.Keep t) : s.Keep (Machine.galChkDone t) := by
  unfold Machine.galChkDone
  repeat' with_reducible first | exact h | apply checkPlan | apply checkPrograms | apply wr | refine ite (fun _ => ?_) (fun _ => ?_)

theorem laneTest (h : s.Keep t) (n : Nat) (ok : Bool) (dur : Nat) : s.Keep (t.laneTest n ok dur) := by
  unfold State.laneTest
  repeat' first
    | with_reducible first | exact h | apply galEvt | apply laneState | apply wr | refine ite (fun _ => ?_) (fun _ => ?_)
    | (extract_lets +onlyGivenNames y; subst y)
    | with_reducible refine setLane ?_ _ _ ?_
    | exact fun c _ _ hj => lane_job (h.shape c) _ hj

theorem laneTestSpare (h : s.Keep t) (n : Nat) : s.Keep (t.laneTestSpare n) := by
  unfold State.laneTestSpare
  repeat' first | with_reducible first | exact h | apply galEvt | apply laneSpareIn | apply record | split

theorem markedSpare (h : s.Keep t) (n : Nat) : s.Keep (t.markedSpare n) := by
  unfold State.markedSpare
  repeat' with_reducible first
    | exact h | assumption | apply laneSpareIn | refine ite (fun _ => ?_) (fun _ => ?_) | intro _

theorem laneTests (h : s.Keep t) (tests : List (Bool × Nat)) : s.Keep (t.laneTests tests).1 := by
  unfold State.laneTests
  repeat' with_reducible first | exact h | apply markedSpare | assumption | apply each | apply laneTest | apply laneTestSpare | intro _

theorem coreCheckFailed (h : s.Keep t) (c : Nat) : s.Keep (t.coreCheckFailed c) := by
  unfold State.coreCheckFailed
  repeat' with_reducible first
    | exact h | assumption | apply coreState | refine ite (fun _ => ?_) (fun _ => ?_) | intro _

theorem offerJob (h : s.Keep t) (c : Nat) : s.Keep (t.offerJob c) := by
  unfold State.offerJob
  repeat' first
    | with_reducible first
        | exact h | assumption | apply giveJob | refine ite (fun _ => ?_) (fun _ => ?_)
    | (extract_lets +onlyGivenNames y; subst y)
    | split
    | with_reducible first | refine of_snd (by assumption) ?_ | refine of_fst (by assumption) ?_
        | refine blocks ?_ _ _ _ _ _ _ _ _ _ | intro _

end Sys2Proof.Machine.State.Keep
end

