-- ==== Sys2Proof/Laws/KeepSystem.lean ====
section
/-! SUPPORT. What the operations keep: the pair, the modes and RESET, the image. -/

namespace Sys2Proof.Machine.State.Keep

variable {s t u : State}

/-! ## Pair -/

theorem pairEvt (h : s.Keep t) (i : Nat) : s.Keep (t.pairEvt i) := by
  unfold State.pairEvt
  repeat' with_reducible first | exact h | apply orBits

theorem pairSend (h : s.Keep t) (type : Nat) (p : List Byte) : s.Keep (t.pairSend type p) := by
  unfold State.pairSend
  repeat' first
    | with_reducible exact h
    | (extract_lets +onlyGivenNames y; clear_value y)
    | with_reducible refine blocks ?_ _ _ _ _ _ _ _ _ _

theorem beaconSend (h : s.Keep t) (fine : Nat) : s.Keep (Machine.beaconSend fine t) := by
  unfold Machine.beaconSend
  repeat' first
    | with_reducible first | exact h | apply pairSend | apply setFld | apply takeFree
    | (extract_lets +onlyGivenNames y; subst y)
    | split
    | with_reducible refine blocks ?_ _ _ _ _ _ _ _ _ _

theorem pairCtrl (h : s.Keep t) (v : Word) : s.Keep (t.pairCtrl v) := by
  unfold State.pairCtrl
  repeat' first
    | with_reducible first | exact h | refine ite (fun _ => ?_) (fun _ => ?_)
    | (extract_lets +onlyGivenNames y; clear_value y)
    | with_reducible refine blocks ?_ _ _ _ _ _ _ _ _ _

theorem leaseLapse (h : s.Keep t) : s.Keep (Machine.leaseLapse t) := by
  unfold Machine.leaseLapse
  split
  · extract_lets s₁ s₂ x y z s₃
    refine ite (fun _ => h) fun _ => ?_
    have h₁ : s.Keep s₁ := each h _ _ fun _ _ h => setSeg (setFld h _ _ _ _) _ _
    have k : s.Keep s₂ := stoEvery (each (pwmStopAll h₁) _ _ fun _ _ h => stopCause h _ _) _
    have h₃ : s.Keep s₃ := ⟨k.queue, fun c => { k.canon c with }, fun c => { k.shape c with }⟩
    exact pairEvt (setFld h₃ _ _ _ _) _
  · exact h

theorem steer (h : s.Keep t) (cyc : Word) (ctick fine : Nat) : s.Keep (t.steer cyc ctick fine) := by
  unfold State.steer
  repeat' first
    | with_reducible exact h
    | (extract_lets +onlyGivenNames y; clear_value y)
    | with_reducible refine blocks ?_ _ _ _ _ _ _ _ _ _

theorem beaconReceive (h : s.Keep t) (seq fine : Nat) (p : List Byte) : s.Keep (t.beaconReceive seq fine p) := by
  unfold State.beaconReceive
  repeat' first
    | with_reducible first | exact h | apply measured | assumption | apply pairEvt | apply setFld | apply steer | apply when | apply wr
    | (extract_lets +onlyGivenNames y; subst y)
    | split
    | with_reducible first | refine blocks ?_ _ _ _ _ _ _ _ _ _ | intro _

theorem dmaRead : ∀ (k : Nat) {t : State} (_ : s.Keep t) (o : Nat), s.Keep (t.dmaRead o k).2
  | 0, _, h, _ => h
  | k + 1, t, h, o => by
    unfold State.dmaRead
    split
    · exact of_snd ‹_› (hallLoad h _ _ _)
    · rename_i e
      have h₁ := of_snd e (hallLoad h _ _ _)
      split
      · exact of_snd ‹_› (dmaRead k h₁ _)
      · exact of_snd ‹_› (dmaRead k h₁ _)

theorem dmaWrite : ∀ (l : List Word) {t : State} (_ : s.Keep t) (o : Nat), s.Keep (t.dmaWrite o l).2
  | [], _, h, _ => h
  | _ :: l, _, h, _ => dmaWrite l (hallStore h _ _ _) _

theorem checkpointTake (h : s.Keep t) : s.Keep t.checkpointTake := by
  unfold State.checkpointTake
  repeat' first
    | with_reducible first | exact h | apply dmaRead | apply pairEvt | apply takeFree
    | (extract_lets +onlyGivenNames y; subst y)
    | split
    | with_reducible first | refine of_snd (by assumption) ?_ | refine blocks ?_ _ _ _ _ _ _ _ _ _

theorem checkpointChunkSend (h : s.Keep t) : s.Keep (Machine.checkpointChunkSend t) := by
  unfold Machine.checkpointChunkSend
  repeat' first
    | with_reducible first | exact h | apply inc | apply pairSend | apply wr | refine ite (fun _ => ?_) (fun _ => ?_)
    | (extract_lets +onlyGivenNames y; clear_value y)
    | with_reducible refine blocks ?_ _ _ _ _ _ _ _ _ _

theorem chunkReceive (h : s.Keep t) (seq : Nat) (p : List Byte) : s.Keep (t.chunkReceive seq p) := by
  unfold State.chunkReceive
  repeat' first
    | with_reducible first
        | exact h | apply inc | apply pairEvt | apply setBit | apply wr | refine ite (fun _ => ?_) (fun _ => ?_)
    | (extract_lets +onlyGivenNames y; clear_value y)
    | with_reducible refine blocks ?_ _ _ _ _ _ _ _ _ _

theorem refreshChunkSend (h : s.Keep t) : s.Keep (Machine.refreshChunkSend t) := by
  unfold Machine.refreshChunkSend
  repeat' first
    | with_reducible first | exact h | apply dmaRead | apply pairEvt | apply pairSend
    | (extract_lets +onlyGivenNames y; subst y)
    | split
    | with_reducible first | refine of_snd (by assumption) ?_ | refine blocks ?_ _ _ _ _ _ _ _ _ _

theorem refreshReceive (h : s.Keep t) (bank : Option (Fin 256)) (i : Nat) (p : List Byte) : s.Keep (t.refreshReceive bank i p) := by
  unfold State.refreshReceive
  repeat' first
    | with_reducible first
        | exact h | assumption | apply deny | apply dmaWrite | apply each | apply hallUncorr | apply pairEvt | apply setBit
        | apply wr
    | (extract_lets +onlyGivenNames y; subst y)
    | split
    | with_reducible first | refine blocks ?_ _ _ _ _ _ _ _ _ _ | intro _

theorem spanReportSend (h : s.Keep t) : s.Keep (Machine.spanReportSend t) := by
  unfold Machine.spanReportSend
  repeat' with_reducible first | exact h | apply pairSend | refine ite (fun _ => ?_) (fun _ => ?_)

theorem partnerFrameReceive (h : s.Keep t) (codeOk : Bool) (b : List Byte) (fine : Nat) (bank : Option (Fin 256)) (chunk : Nat) :
    s.Keep (Machine.partnerFrameReceive codeOk b fine bank chunk t) := by
  unfold Machine.partnerFrameReceive
  repeat' first
    | with_reducible first
        | exact h | assumption | apply beaconReceive | apply chunkReceive | apply each | apply inc | apply refreshReceive
        | apply wr
    | (extract_lets +onlyGivenNames y; subst y)
    | split
    | with_reducible intro _

theorem partnerLinkUp (h : s.Keep t) : s.Keep (Machine.partnerLinkUp t) := by
  unfold Machine.partnerLinkUp
  repeat' with_reducible first | exact h | apply setBit | refine ite (fun _ => ?_) (fun _ => ?_)

theorem partnerLinkLost (h : s.Keep t) : s.Keep (Machine.partnerLinkLost t) := by
  unfold Machine.partnerLinkLost
  repeat' with_reducible first | exact h | apply setBit

theorem spanSample (h : s.Keep t) (n arr : Nat) : s.Keep (t.spanSample n arr) := by
  unfold State.spanSample
  repeat' first
    | with_reducible first | exact h | apply wr | refine ite (fun _ => ?_) (fun _ => ?_)
    | (extract_lets +onlyGivenNames y; clear_value y)
    | with_reducible refine blocks ?_ _ _ _ _ _ _ _ _ _

theorem standbyFrame (h : s.Keep t) (p : Port) (f : RxFrame) : s.Keep (Machine.standbyFrame p f t) := by
  unfold Machine.standbyFrame
  extract_lets n ch b hd cyc order s₁ s₂ s₃ x s₄
  refine ite (fun _ => h) fun _ => ?_
  have h₁ : s.Keep s₁ := capPortRecord h _ _ _ _
  refine ite (fun _ => frameFail h₁ _ _ _) fun _ => ite (fun _ => ?_) fun _ => ?_
  · have h₄ : s.Keep s₄ := blocks (otherSync (wr (inc h₁ _) _ _) _ _) _ _ _ _ _ _ _ _ _
    exact ite (fun _ => spanSample h₄ _ _) fun _ => h₄
  · have h₂ : s.Keep s₂ := wr (inc h₁ _) _ _
    clear_value cyc
    split
    · extract_lets r
      have h₃ : s.Keep r.2 := keepCopy h₂ _ _ _ _ _
      exact ite (fun _ => takeRecords h₃ _ _ _ _ _) fun _ => h₃
    · exact h₂

theorem takeover (h : s.Keep t) : s.Keep (Machine.takeover t) := by
  unfold Machine.takeover
  repeat' first
    | with_reducible first | exact h | apply incFld | apply pairEvt | apply wr | refine ite (fun _ => ?_) (fun _ => ?_)
    | (extract_lets +onlyGivenNames y; subst y)
    | with_reducible refine blocks ?_ _ _ _ _ _ _ _ _ _

theorem cpLoadAxis (h : s.Keep t) (b : List Byte) (a : Nat) : s.Keep (t.cpLoadAxis b a) := by
  unfold State.cpLoadAxis
  repeat' with_reducible first | exact h | apply setAxis | apply wr

theorem cpLoadSource (h : s.Keep t) (b : List Byte) (n : Nat) : s.Keep (t.cpLoadSource b n) := by
  unfold State.cpLoadSource
  repeat' with_reducible first | exact h | apply reportAt | apply setSource | apply wr | refine ite (fun _ => ?_) (fun _ => ?_)

theorem takeoverLoadDone (h : s.Keep t) : s.Keep (Machine.takeoverLoadDone t) := by
  unfold Machine.takeoverLoadDone
  repeat' first
    | with_reducible first
        | exact h | assumption | apply cpLoadAxis | apply cpLoadSource | apply dmaWrite | apply each | apply pairEvt
        | refine ite (fun _ => ?_) (fun _ => ?_)
    | (extract_lets +onlyGivenNames y; subst y)
    | with_reducible first | refine blocks ?_ _ _ _ _ _ _ _ _ _ | intro _

theorem enterStandby (h : s.Keep t) : s.Keep t.enterStandby := by
  unfold State.enterStandby
  repeat' first
    | with_reducible first | exact h | assumption | apply clrBits | apply each | apply setFld
    | (extract_lets +onlyGivenNames y; subst y)
    | with_reducible first | refine blocks ?_ _ _ _ _ _ _ _ _ _ | intro _

theorem steerCycle (h : s.Keep t) (d : Int) : s.Keep (t.steerCycle d) := by
  unfold State.steerCycle
  repeat' first
    | with_reducible first
        | exact h | assumption | apply setBit | apply wr | refine ite (fun _ => ?_) (fun _ => ?_)
    | (extract_lets +onlyGivenNames y; subst y)
    | split
    | with_reducible first | refine of_snd (by assumption) ?_ | refine of_fst (by assumption) ?_
        | refine blocks ?_ _ _ _ _ _ _ _ _ _ | intro _

theorem pairTick0 (h : s.Keep t) : s.Keep t.pairTick0 := by
  unfold State.pairTick0
  repeat' first
    | with_reducible first
        | exact h | assumption | apply pairEvt | apply steerCycle | apply when | apply when
        | refine ite (fun _ => ?_) (fun _ => ?_)
    | (extract_lets +onlyGivenNames y; subst y)
    | split
    | with_reducible first | refine of_snd (by assumption) ?_ | refine of_fst (by assumption) ?_
        | refine blocks ?_ _ _ _ _ _ _ _ _ _ | intro _

/-! ## Modes -/

theorem setMode (h : s.Keep t) (m : Nat) : s.Keep (t.setMode m) := by
  unfold State.setMode
  refine ite (fun _ => h) fun _ => ?_
  extract_lets s₁
  have h₁ : s.Keep s₁ := orBits (wr h _ _) _ _
  exact ite (fun _ => h₁) fun _ => pwmStopAll h₁

theorem setFlight (h : s.Keep t) (n : Nat) : s.Keep (t.setFlight n) := by
  unfold State.setFlight
  repeat' with_reducible first | exact h | apply setFld

theorem laneFromWord (h : s.Keep t) (n : Nat) : s.Keep (t.laneFromWord n) := by
  unfold State.laneFromWord
  repeat' first
    | with_reducible exact h
    | (extract_lets +onlyGivenNames y; subst y)
    | with_reducible refine setLane ?_ _ _ ?_
    | exact fun _ _ _ hj => nomatch hj

theorem coreFromWord (h : s.Keep t) (c : Nat) : s.Keep (t.coreFromWord c) := by
  unfold State.coreFromWord
  repeat' with_reducible first | exact h | apply setCore

theorem fresh (h : s.Keep t) (cause active : Word) : s.Keep (t.fresh cause active) := by
  unfold State.fresh
  extract_lets s₁
  have h₁ : s.Keep s₁ := ⟨h.queue,
    fun c => ⟨rfl, (h.canon c).hall, (h.canon c).words, (h.canon c).wear, (h.canon c).hmap, (h.canon c).flash, rfl⟩,
    fun _ => ⟨rfl, rfl, rfl, rfl, ⟨rfl, rfl, rfl, rfl, rfl⟩, fun _ h => (nomatch h), fun _ h => (nomatch h)⟩⟩
  exact wr (each (each h₁ _ _ fun _ _ h => laneFromWord h _) _ _ fun _ _ h => coreFromWord h _) _ _

theorem enterReset (h : s.Keep t) (bit : Nat) (held : Bool) : s.Keep (t.enterReset bit held) := by
  unfold State.enterReset
  repeat' first
    | with_reducible first | exact h | apply fresh | apply orBits | refine ite (fun _ => ?_) (fun _ => ?_)
    | (extract_lets +onlyGivenNames y; subst y)
    | with_reducible refine blocks ?_ _ _ _ _ _ _ _ _ _

theorem porAssert (h : s.Keep t) : s.Keep (Machine.porAssert t) := by
  unfold Machine.porAssert
  repeat' with_reducible first | exact h | apply fresh | apply wr | refine ite (fun _ => ?_) (fun _ => ?_)

theorem porRelease (h : s.Keep t) : s.Keep (Machine.porRelease t) := by
  unfold Machine.porRelease
  repeat' with_reducible first | exact h | apply fresh | refine ite (fun _ => ?_) (fun _ => ?_)

theorem resetnAssert (h : s.Keep t) : s.Keep (Machine.resetnAssert t) := by
  unfold Machine.resetnAssert
  repeat' with_reducible first | exact h | apply enterReset

theorem vio33Low (h : s.Keep t) : s.Keep (Machine.vio33Low t) := by
  unfold Machine.vio33Low
  repeat' with_reducible first | exact h | apply enterReset

theorem longPress (h : s.Keep t) : s.Keep (Machine.longPress t) := by
  unfold Machine.longPress
  repeat' with_reducible first | exact h | apply orBits | apply pregWrite | refine ite (fun _ => ?_) (fun _ => ?_)

theorem watchdogExpire (h : s.Keep t) : s.Keep (Machine.watchdogExpire t) := by
  unfold Machine.watchdogExpire
  repeat' first
    | with_reducible first | exact h | refine ite (fun _ => ?_) (fun _ => ?_)
    | (extract_lets +onlyGivenNames y; clear_value y)
    | with_reducible refine blocks ?_ _ _ _ _ _ _ _ _ _

theorem watchdogReset (h : s.Keep t) : s.Keep (Machine.watchdogReset t) := by
  unfold Machine.watchdogReset
  repeat' with_reducible first | exact h | apply enterReset | refine ite (fun _ => ?_) (fun _ => ?_)

theorem refclkReset (h : s.Keep t) : s.Keep (Machine.refclkReset t) := by
  unfold Machine.refclkReset
  repeat' with_reducible first | exact h | apply enterReset | refine ite (fun _ => ?_) (fun _ => ?_)

theorem resetSourceRelease (h : s.Keep t) : s.Keep (Machine.resetSourceRelease t) := by
  unfold Machine.resetSourceRelease
  repeat' first
    | with_reducible exact h
    | (extract_lets +onlyGivenNames y; clear_value y)
    | with_reducible refine blocks ?_ _ _ _ _ _ _ _ _ _

theorem clearHall (h : s.Keep t) : s.Keep t.clearHall := withHall h _ fun _ => rfl

theorem readFuses (h : s.Keep t) : s.Keep t.readFuses := by
  unfold State.readFuses
  repeat' first
    | with_reducible exact h
    | (extract_lets +onlyGivenNames y; clear_value y)
    | with_reducible refine blocks ?_ _ _ _ _ _ _ _ _ _

theorem resetExtensionEnd (h : s.Keep t) : s.Keep (Machine.resetExtensionEnd t) := by
  unfold Machine.resetExtensionEnd
  repeat' with_reducible first
    | exact h | apply clearHall | apply dramRepairAll | apply readFuses | apply setFlight | apply setMode
    | refine ite (fun _ => ?_) (fun _ => ?_)

theorem attClear (h : s.Keep t) : s.Keep t.attClear := by
  unfold State.attClear
  repeat' first
    | with_reducible first | exact h | apply pregWrite
    | (extract_lets +onlyGivenNames y; subst y)
    | with_reducible refine blocks ?_ _ _ _ _ _ _ _ _ _

theorem softReset (h : s.Keep t) (v : Word) : s.Keep (t.softReset v) := by
  unfold State.softReset
  repeat' with_reducible first | exact h | apply enterReset | apply orBits | refine ite (fun _ => ?_) (fun _ => ?_)

theorem modeRequest (h : s.Keep t) (m : Nat) : s.Keep (t.modeRequest m) := by
  unfold State.modeRequest
  repeat' with_reducible first | exact h | apply orBits | apply reqMode | refine ite (fun _ => ?_) (fun _ => ?_)

theorem sysCtrl (h : s.Keep t) (v : Word) : s.Keep (t.sysCtrl v) := by
  unfold State.sysCtrl
  repeat' with_reducible first
    | exact h | assumption | apply attClear | apply modeRequest | apply setFld | apply softReset | apply when
    | refine ite (fun _ => ?_) (fun _ => ?_) | intro _

theorem runTimeClear (h : s.Keep t) : s.Keep (Machine.runTimeClear t) := by
  unfold Machine.runTimeClear
  repeat' with_reducible first | exact h | apply attClear | refine ite (fun _ => ?_) (fun _ => ?_)

theorem attClearRetry (h : s.Keep t) : s.Keep (Machine.attClearRetry t) := by
  unfold Machine.attClearRetry
  repeat' with_reducible first | exact h | apply attClear | refine ite (fun _ => ?_) (fun _ => ?_)

theorem nvGuardEngage (h : s.Keep t) : s.Keep (Machine.nvGuardEngage t) := by
  unfold Machine.nvGuardEngage
  repeat' first
    | with_reducible exact h
    | (extract_lets +onlyGivenNames y; clear_value y)
    | with_reducible refine blocks ?_ _ _ _ _ _ _ _ _ _

theorem nvGuardRelease (h : s.Keep t) : s.Keep (Machine.nvGuardRelease t) := by
  unfold Machine.nvGuardRelease
  repeat' first
    | with_reducible exact h
    | (extract_lets +onlyGivenNames y; clear_value y)
    | with_reducible refine blocks ?_ _ _ _ _ _ _ _ _ _

theorem winApply (h : s.Keep t) (k : Nat) : s.Keep (t.winApply k) := by
  unfold State.winApply
  repeat' with_reducible first | exact h | apply setWin

theorem winPut (h : s.Keep t) (k base size : Nat) (rmask wmask : Word) : s.Keep (t.winPut k base size rmask wmask) := by
  unfold State.winPut
  repeat' with_reducible first | exact h | apply winApply | apply wr

theorem bootFail (h : s.Keep t) (cause : Word) : s.Keep (t.bootFail cause) := by
  unfold State.bootFail
  repeat' with_reducible first | exact h | apply enterReset | apply logRecord | apply pregWrite

theorem recoveryPort (h : s.Keep t) (e : Nat) : s.Keep (t.recoveryPort e) := by
  unfold State.recoveryPort
  repeat' with_reducible first | exact h | apply wr

theorem setUpMinimal (h : s.Keep t) : s.Keep t.setUpMinimal := by
  unfold State.setUpMinimal
  repeat' with_reducible first | exact h | assumption | apply each | apply recoveryPort | apply winPut | apply wr | intro _

theorem enterMinimal (h : s.Keep t) (cause : Word) : s.Keep (t.enterMinimal cause) := by
  unfold State.enterMinimal
  repeat' first
    | with_reducible first
        | exact h | assumption | apply logRecord | apply pregWrite | apply setBit | apply setMode | apply setUpMinimal
        | refine ite (fun _ => ?_) (fun _ => ?_)
    | (extract_lets +onlyGivenNames y; subst y)
    | split
    | with_reducible first | refine of_snd (by assumption) ?_ | refine of_fst (by assumption) ?_
        | refine blocks ?_ _ _ _ _ _ _ _ _ _ | intro _

/-! ## ImageRules -/

end Sys2Proof.Machine.State.Keep
end

