-- ==== Sys2Proof/Laws/KeepAccess.lean ====
section
/-! SUPPORT. What the operations keep: bus accesses, the boot. -/

namespace Sys2Proof.Machine.State.Keep

variable {s t u : State}

/-! ## Bus -/

theorem lkDeny (h : s.Keep t) (m : Nat) : s.Keep (t.lkDeny m) := by
  unfold State.lkDeny
  repeat' with_reducible first | exact h | apply wr

theorem lkFilter (h : s.Keep t) (m a : Nat) (r : RegRow) (v : Word) : s.Keep (t.lkFilter m a r v).2 := by
  unfold State.lkFilter
  repeat' with_reducible first
    | exact h | apply lkDeny | refine ite (fun _ => ?_) (fun _ => ?_) | refine ite_snd (fun _ => ?_) (fun _ => ?_)

theorem putReg (h : s.Keep t) (a : Nat) (r : RegRow) (v : Word) : s.Keep (t.putReg a r v) := by
  unfold State.putReg
  repeat' with_reducible first | exact h | apply wr

theorem putOpen (h : s.Keep t) (a : Nat) (r : RegRow) (v : Word) : s.Keep (t.putOpen a r v) := by
  unfold State.putOpen
  repeat' with_reducible first | exact h | apply putReg | refine ite (fun _ => ?_) (fun _ => ?_)

theorem settleAt (h : s.Keep t) (a : Nat) : s.Keep (t.settleAt a) := by
  unfold State.settleAt
  repeat' first | with_reducible first | exact h | assumption | apply each | apply irqSettle | split | with_reducible intro _

theorem restand (h : s.Keep t) (a : Nat) (r : RegRow) (v : Word) : s.Keep (t.restand a r v) := by
  unfold State.restand
  repeat' with_reducible first
    | exact h | assumption | apply orBits | refine ite (fun _ => ?_) (fun _ => ?_) | intro _

theorem putPlain (h : s.Keep t) (a : Nat) (r : RegRow) (v : Word) : s.Keep (t.putPlain a r v) := by
  unfold State.putPlain
  repeat' with_reducible first | exact h | apply restand | apply putReg | apply settleAt

theorem sysWrite (h : s.Keep t) (a : Nat) (r : RegRow) (v : Word) : s.Keep (t.sysWrite a r v) := by
  unfold State.sysWrite
  repeat' with_reducible first | exact h | apply putPlain | apply sysCtrl | refine ite (fun _ => ?_) (fun _ => ?_)

theorem tbWrite (h : s.Keep t) (a : Nat) (r : RegRow) (v : Word) : s.Keep (t.tbWrite a r v) := by
  unfold State.tbWrite
  repeat' with_reducible first
    | exact h | apply ofsFrac | apply ppsCfg | apply putPlain | apply snapGo | apply srvCfg | apply tbCtrl | apply txqPop
    | refine ite (fun _ => ?_) (fun _ => ?_)

theorem trnWrite (h : s.Keep t) (a : Nat) (r : RegRow) (v : Word) : s.Keep (t.trnWrite a r v) := by
  unfold State.trnWrite
  repeat' with_reducible first | exact h | apply putOpen | apply putPlain | apply svcTxctl | refine ite (fun _ => ?_) (fun _ => ?_)

theorem galCtrl (h : s.Keep t) (v : Word) : s.Keep (t.galCtrl v) := by
  unfold State.galCtrl
  repeat' with_reducible first | exact h | assumption | apply minClr | apply retireLane | apply setFld | apply when | intro _

theorem galWrite (h : s.Keep t) (a : Nat) (r : RegRow) (v : Word) : s.Keep (t.galWrite a r v) := by
  unfold State.galWrite
  repeat' with_reducible first
    | exact h | apply galChkStart | apply galCtrl | apply putOpen | apply putPlain | refine ite (fun _ => ?_) (fun _ => ?_)

theorem lrnCtrl (h : s.Keep t) (n : Nat) (v : Word) : s.Keep (t.lrnCtrl n v) := by
  unfold State.lrnCtrl
  repeat' with_reducible first | exact h | assumption | apply lrnZeroReq | apply setFld | apply when | intro _

theorem lrnBlockWrite (h : s.Keep t) (a : Nat) (r : RegRow) (v : Word) : s.Keep (t.lrnBlockWrite a r v) := by
  unfold State.lrnBlockWrite
  repeat' with_reducible first | exact h | apply lrnCtrl | apply putOpen | apply putPlain | refine ite (fun _ => ?_) (fun _ => ?_)

theorem fbkWrite (h : s.Keep t) (a : Nat) (r : RegRow) (v : Word) : s.Keep (t.fbkWrite a r v) := by
  unfold State.fbkWrite
  repeat' with_reducible first
    | exact h | assumption | apply bindSource | apply dsmClk | apply limitPair | apply originPair | apply ptCfg | apply ptMul
    | apply ptZ | apply putOpen | apply putPlain | apply putReg | refine ite (fun _ => ?_) (fun _ => ?_) | intro _

theorem pwmWrite (h : s.Keep t) (a : Nat) (r : RegRow) (v : Word) : s.Keep (t.pwmWrite a r v) := by
  unfold State.pwmWrite
  repeat' with_reducible first
    | exact h | apply restand | assumption | apply dtWrite | apply eachGrp | apply grpCfgWrite | apply grpCtrlWrite | apply loadAll
    | apply putPlain | apply putReg | apply pwmStart1 | apply pwmStop1 | apply settleAt | apply shadowWrite | apply tripHold
    | apply when | refine ite (fun _ => ?_) (fun _ => ?_) | intro _

theorem tsuWrite (h : s.Keep t) (m a : Nat) (r : RegRow) (v : Word) : s.Keep (t.tsuWrite m a r v) := by
  unfold State.tsuWrite
  repeat' with_reducible first
    | exact h | apply offerJob | apply doneWrite | apply putPlain | apply putReg | apply pwrWrite | apply setCore | apply submit
    | apply wakeCore | apply wr | refine ite (fun _ => ?_) (fun _ => ?_)

theorem mbxWrite (h : s.Keep t) (m a : Nat) (r : RegRow) (v : Word) : s.Keep (t.mbxWrite m a r v) := by
  unfold State.mbxWrite
  repeat' with_reducible first
    | exact h | apply bind | apply dbClear | apply dbMask | apply dbSet | apply descAck | apply descPost | apply descStage
    | apply putPlain | apply wr | refine ite (fun _ => ?_) (fun _ => ?_)

theorem hostWrite (h : s.Keep t) (m a : Nat) (r : RegRow) (v : Word) : s.Keep (t.hostWrite m a r v) := by
  unfold State.hostWrite
  repeat' first | with_reducible first | exact h | apply commitWrite | apply imgRelease | apply stgWrite | apply wr | split

theorem hstWrite (h : s.Keep t) (m a : Nat) (r : RegRow) (v : Word) : s.Keep (t.hstWrite m a r v) := by
  unfold State.hstWrite
  repeat' with_reducible first | exact h | apply hostWrite | apply putOpen | apply putPlain | refine ite (fun _ => ?_) (fun _ => ?_)

theorem prtWrite (h : s.Keep t) (a : Nat) (r : RegRow) (v : Word) : s.Keep (t.prtWrite a r v) := by
  unfold State.prtWrite
  repeat' with_reducible first | exact h | apply putPlain | apply winApply | refine ite (fun _ => ?_) (fun _ => ?_)

theorem capBlockWrite (h : s.Keep t) (a : Nat) (r : RegRow) (v : Word) : s.Keep (t.capBlockWrite a r v) := by
  unfold State.capBlockWrite
  repeat' with_reducible first | exact h | apply capCfgWrite | apply capCtrl | apply putPlain | refine ite (fun _ => ?_) (fun _ => ?_)

theorem fioWrite (h : s.Keep t) (a : Nat) (r : RegRow) (v : Word) : s.Keep (t.fioWrite a r v) := by
  unfold State.fioWrite
  repeat' with_reducible first
    | exact h | assumption | apply doClr | apply doCmd | apply doSet | apply doUnlatch | apply fioCfgWrite | apply fioCtrl
    | apply fioEvt | apply putPlain | apply when | apply when | refine ite (fun _ => ?_) (fun _ => ?_) | intro _

theorem lawWrite (h : s.Keep t) (a : Nat) (r : RegRow) (v : Word) : s.Keep (t.lawWrite a r v) := by
  unfold State.lawWrite
  repeat' with_reducible first
    | exact h | apply putOpen | apply putPlain | apply stagedWrite | apply stgCtrl | refine ite (fun _ => ?_) (fun _ => ?_)

theorem pregBusWrite (h : s.Keep t) (m n : Nat) (v : Word) : s.Keep (t.pregBusWrite m n v) := by
  unfold State.pregBusWrite
  repeat' with_reducible first | exact h | apply lkDeny | apply pregWrite | refine ite (fun _ => ?_) (fun _ => ?_)

theorem pregBlockWrite (h : s.Keep t) (m a : Nat) (r : RegRow) (v : Word) : s.Keep (t.pregBlockWrite m a r v) := by
  unfold State.pregBlockWrite
  repeat' with_reducible first | exact h | apply pregBusWrite | apply putPlain | refine ite (fun _ => ?_) (fun _ => ?_)

theorem blockWrite (h : s.Keep t) (m a : Nat) (r : RegRow) (v : Word) : s.Keep (t.blockWrite m a r v) := by
  unfold State.blockWrite
  repeat' first
    | with_reducible first
        | exact h | apply capBlockWrite | apply fbkWrite | apply fioWrite | apply galWrite | apply hstWrite | apply lawWrite
        | apply lrnBlockWrite | apply mbxWrite | apply pairCtrl | apply pregBlockWrite | apply prtWrite | apply putPlain
        | apply pwmWrite | apply sprCtrl | apply sysWrite | apply tbWrite | apply trnWrite | apply tsuWrite
    | split

theorem regWrite (h : s.Keep t) (m a : Nat) (v : Word) : s.Keep (t.regWrite m a v) := by
  unfold State.regWrite
  repeat' first
    | with_reducible first | exact h | apply blockWrite | apply lkFilter | apply pregBlockWrite
    | split
    | with_reducible refine of_snd (by assumption) ?_

theorem coreFault (h : s.Keep t) (m : Nat) : s.Keep (t.coreFault m) := by
  unfold State.coreFault
  repeat' with_reducible first | exact h | apply setCore | refine ite (fun _ => ?_) (fun _ => ?_)

theorem refuse (h : s.Keep t) (m a : Nat) (write : Bool) (kind : Nat) : s.Keep (t.refuse m a write kind) := by
  unfold State.refuse
  repeat' with_reducible first
    | exact h | assumption | apply complete | apply coreFault | apply deny | refine ite (fun _ => ?_) (fun _ => ?_) | intro _

theorem guardedWrite (h : s.Keep t) (m a : Nat) (v : Word) : s.Keep (t.guardedWrite m a v) := by
  unfold State.guardedWrite
  repeat' with_reducible first
    | exact h | assumption | apply coreFault | apply regWrite | refine ite (fun _ => ?_) (fun _ => ?_) | intro _

theorem busWrite (h : s.Keep t) (m a n : Nat) (v : Word) : s.Keep (t.busWrite m a n v) := by
  unfold State.busWrite
  repeat' first | with_reducible first | exact h | apply guardedWrite | apply refuse | apply regWrite | split

theorem regAccess (h : s.Keep t) (m a : Nat) (w : Bool) (f : State → State) (k : ∀ u, s.Keep u → s.Keep (f u)) : s.Keep (t.regAccess m a w f) :=
  ite (fun _ => h) fun _ => ite (fun _ => k t h) fun _ => refuse h _ _ _ _

theorem lkAccess (h : s.Keep t) (m a : Nat) (f : State → State) (k : ∀ u, s.Keep u → s.Keep (f u)) : s.Keep (t.lkAccess m a f) :=
  regAccess h _ _ _ _ fun u h => ite (fun _ => k u h) fun _ => lkDeny h _

theorem regRead (h : s.Keep t) (m a : Nat) : s.Keep (t.regRead m a).1 := by
  unfold State.regRead
  repeat' with_reducible first
    | exact h | apply imgLatch | apply mbxRead | apply takeFree | apply takeRead | refine ite_fst (fun _ => ?_) (fun _ => ?_)

theorem busRead32 (h : s.Keep t) (m a : Nat) : s.Keep (t.busRead32 m a).2.2 := by
  unfold State.busRead32
  repeat' first
    | with_reducible first | exact h | apply dramEcc | apply takeFree | apply deny | apply hallUncorr | apply regRead
    | (extract_lets +onlyGivenNames y; subst y)
    | split

theorem dramWrite (h : s.Keep t) (a : Nat) (bs : List Byte) : s.Keep (t.dramWrite a bs) := by
  refine withCap h _ fun c => ?_
  have k : ∀ (l : List Byte) (q : Nat × Table Byte), Table.rising 0 q.2 = true →
      Table.rising 0 (l.foldl (fun q b => (q.1 + 1, Table.put q.2 q.1 b)) q).2 = true := by
    intro l
    induction l with
    | nil => exact fun _ h => h
    | cons b l ih => exact fun q h => ih _ (Table.rising_put h _ _)
  exact k bs _ c

theorem busWrite32 (h : s.Keep t) (m a : Nat) (v : Word) : s.Keep (t.busWrite32 m a v).2 := by
  unfold State.busWrite32
  repeat' first
    | with_reducible first | exact h | apply deny | apply dramWrite | apply hallUncorr | apply hallWrite | apply regWrite
    | split

/-! ## Boot -/

theorem countStart (h : s.Keep t) : s.Keep t.countStart := by
  unfold State.countStart
  repeat' with_reducible first | exact h | apply pregWrite

theorem bootFlight1 (h : s.Keep t) : s.Keep (Machine.bootFlight1 t) := by
  unfold Machine.bootFlight1
  repeat' with_reducible first
    | exact h | apply countStart | apply enterMinimal | apply pregRefuse | apply pregWrite | apply setBit | apply setFlight
    | refine ite (fun _ => ?_) (fun _ => ?_)

theorem bootFlight2 (h : s.Keep t) (flash : Bool) : s.Keep (Machine.bootFlight2 flash t) := by
  unfold Machine.bootFlight2
  repeat' with_reducible first | exact h | apply bootFail | apply setFlight | refine ite (fun _ => ?_) (fun _ => ?_)

theorem bootFlight3 (h : s.Keep t) : s.Keep (Machine.bootFlight3 t) := by
  unfold Machine.bootFlight3
  repeat' first | with_reducible first | exact h | apply bootFail | apply setBit | apply setFlight | apply setMode | split

theorem recordWrite (h : s.Keep t) (a : Nat) (v : Word) {u : State} (e : t.recordWrite a v = some u) : s.Keep u := by
  unfold State.recordWrite at e
  split at e
  · cases e
  · split at e
    · cases e
      exact h
    · split at e
      · cases e
      · cases e
        exact ite (fun _ => wr h _ _) fun _ => regWrite (wr h _ _) _ _ _

theorem recordsLoad : ∀ (k : Nat) {t : State} (_ : s.Keep t) (b : List Byte), s.Keep (t.recordsLoad k b).2
  | 0, _, h, _ => h
  | k + 1, t, h, b => by
    unfold State.recordsLoad
    split
    · exact h
    · split
      · exact h
      · exact recordsLoad k (recordWrite h _ _ ‹_›) _

theorem loadSection (h : s.Keep t) (sl : Nat) (x : Section) : s.Keep (t.loadSection sl x).2 := by
  unfold State.loadSection
  repeat' first
    | with_reducible first
        | exact h | assumption | apply each | apply hallWrite | apply recordsLoad | apply safLoad | apply setCore | apply wr
    | (extract_lets +onlyGivenNames y; clear_value y)
    | split
    | with_reducible first | refine blocks ?_ _ _ _ _ _ _ _ _ _ | intro _

theorem loadAllSections (sl : Nat) : ∀ (l : List Section) {t : State} (_ : s.Keep t), s.Keep (t.loadAllSections sl l).2
  | [], _, h => h
  | x :: l, t, h => by
    unfold State.loadAllSections
    split
    · exact h
    · dsimp only
      split
      · exact loadAllSections sl l (loadSection h _ _)
      · exact loadSection h _ _

theorem loaded (h : s.Keep t) (secs : List Section) : s.Keep (t.loaded secs) := by
  unfold State.loaded
  repeat' first
    | with_reducible first | exact h | apply irqSettleAll | assumption | apply each | apply setBit | apply startSource | apply when
    | (extract_lets +onlyGivenNames y; clear_value y)
    | with_reducible first | refine blocks ?_ _ _ _ _ _ _ _ _ _ | intro _

theorem bootFlight4 (h : s.Keep t) : s.Keep (Machine.bootFlight4 t) := by
  unfold Machine.bootFlight4
  repeat' first
    | with_reducible first | exact h | apply bootFail | apply loadAllSections | apply loaded | apply setFlight
    | (extract_lets +onlyGivenNames y; clear_value y)
    | split
    | with_reducible refine of_snd (by assumption) ?_

theorem checkEnds (h : s.Keep t) (ok : Bool) : s.Keep (t.checkEnds ok) := by
  unfold State.checkEnds
  repeat' with_reducible first
    | exact h | assumption | apply wr | refine ite (fun _ => ?_) (fun _ => ?_) | intro _

theorem flight5 (h : s.Keep t) : s.Keep (t.flight5).2 := by
  unfold State.flight5
  repeat' first
    | with_reducible first | exact h | apply checkPlan | apply checkPrograms | apply checkEnds
    | (extract_lets +onlyGivenNames y; subst y)
    | split

theorem configureEnds (h : s.Keep t) : s.Keep t.configureEnds := by
  unfold State.configureEnds
  repeat' with_reducible first | exact h | apply rebind | apply setAxis | assumption | apply each | apply startSource | refine ite (fun _ => ?_) (fun _ => ?_) | intro _

theorem flight5Passed (h : s.Keep t) : s.Keep t.flight5Passed := by
  unfold State.flight5Passed
  repeat' first
    | with_reducible first
        | exact h | apply configureEnds | apply enterListen | apply setFlight | apply setMode
        | refine ite (fun _ => ?_) (fun _ => ?_)
    | (extract_lets +onlyGivenNames y; clear_value y)
    | with_reducible refine blocks ?_ _ _ _ _ _ _ _ _ _

theorem coreChecks (h : s.Keep t) (cores : List Bool) : s.Keep (t.coreChecks cores) := by
  unfold State.coreChecks
  repeat' with_reducible first
    | exact h | assumption | apply coreCheckFailed | apply each | apply irqSettleAll | apply each
    | refine ite (fun _ => ?_) (fun _ => ?_) | intro _

theorem bootFlight5 (h : s.Keep t) (tests : List (Bool × Nat)) (cores : List Bool) : s.Keep (Machine.bootFlight5 tests cores t) := by
  unfold Machine.bootFlight5
  repeat' first
    | with_reducible first | exact h | apply bootFail | apply flight5 | apply flight5Passed | apply laneTests | apply coreChecks
    | (extract_lets +onlyGivenNames y; subst y)
    | split
    | with_reducible refine of_snd (by assumption) ?_

theorem maintenanceCheck (h : s.Keep t) : s.Keep (Machine.maintenanceCheck t) := by
  unfold Machine.maintenanceCheck
  repeat' first
    | with_reducible first
        | exact h | apply configureEnds | apply flight5 | apply flight5Passed | apply pregWrite | apply reqSafeStop
        | apply setMode
    | (extract_lets +onlyGivenNames y; subst y)
    | split
    | with_reducible first | refine of_snd (by assumption) ?_ | refine blocks ?_ _ _ _ _ _ _ _ _ _

/-! ## Access -/

theorem hallFail (h : s.Keep t) (m o : Nat) (write : Bool) : s.Keep (t.hallFail m o write) := by
  unfold State.hallFail
  repeat' first
    | with_reducible first
        | exact h | assumption | apply complete | apply coreFault | apply hallUncorr | refine ite (fun _ => ?_) (fun _ => ?_)
    | (extract_lets +onlyGivenNames y; subst y)
    | split
    | with_reducible first | refine withCap ?_ _ (fun c => c) | refine withLaw ?_ _ (by rfl) 
        | refine withHall ?_ _ (fun c => c) | refine blocks ?_ _ _ _ _ _ _ _ _ _ | intro _

theorem hallUnit (h : s.Keep t) (m o n : Nat) (bs : Option (List Byte)) (err : Nat) : s.Keep (t.hallUnit m o n bs err) := by
  unfold State.hallUnit
  repeat' first
    | with_reducible first
        | exact h | apply readBytes | assumption | apply hallCorrected | apply hallFail | apply hallStore | apply hallWrite | apply readBy
        | apply when
    | split
    | with_reducible intro _

theorem hallAccess (h : s.Keep t) (m : Nat) (a : Word) (size : Nat) (bs : Option (List Byte)) (err : Nat) :
    s.Keep (Machine.hallAccess m a size bs err t) := by
  unfold Machine.hallAccess
  repeat' first
    | with_reducible first | exact h | apply hallUnit | apply refuse
    | (extract_lets +onlyGivenNames y; clear_value y)
    | split

theorem captureDramRead (h : s.Keep t) (m : Nat) (a : Word) (size err : Nat) : s.Keep (Machine.captureDramRead m a size err t) := by
  unfold Machine.captureDramRead
  repeat' first
    | with_reducible first | exact h | apply readBytes | apply takeFree | apply dramEcc | apply readBy | apply refuse
    | (extract_lets +onlyGivenNames y; clear_value y)
    | split

theorem persistentWrite (h : s.Keep t) (m n : Nat) (v : Word) : s.Keep (Machine.persistentWrite m n v t) := by
  unfold Machine.persistentWrite
  repeat' with_reducible first
    | exact h | assumption | apply guardedWrite | apply regAccess | refine ite (fun _ => ?_) (fun _ => ?_) | intro _

theorem registerWrite (h : s.Keep t) (m : Nat) (a : Word) (size : Nat) (v : Word) : s.Keep (Machine.registerWrite m a size v t) := by
  unfold Machine.registerWrite
  repeat' with_reducible first | exact h | apply busWrite

end Sys2Proof.Machine.State.Keep
end

