-- ==== Sys2Proof/Laws/KeepHost.lean ====
section
/-! SUPPORT. What the operations keep: the update service, Ethernet, MX, the cycle, register commands. -/

namespace Sys2Proof.Machine.State.Keep

variable {s t u : State}

/-! ## Update -/

theorem flashErase (h : s.Keep t) (sl o n : Nat) : s.Keep (t.flashErase sl o n) :=
  withPv h _ fun c => ⟨c.words, c.wear, c.hmap, Table.wf_keep (fun a => !decide (0x1000000 * sl + o ≤ a ∧ a < 0x1000000 * sl + o + n)) c.flash⟩

theorem flashProgram (h : s.Keep t) (a : Nat) (b : Byte) : s.Keep (t.flashProgram a b) :=
  withPv h _ fun c => ⟨c.words, c.wear, c.hmap, Table.wf_set c.flash _ _⟩

theorem flashWrite : ∀ (l : List Byte) {t : State} (_ : s.Keep t) (a : Nat), s.Keep (t.flashWrite a l)
  | [], _, h, _ => h
  | _ :: l, _, h, _ => flashWrite l (flashProgram h _ _) _

theorem setVerified (h : s.Keep t) (sl : Nat) (b : Bool) : s.Keep (t.setVerified sl b) := by
  unfold State.setVerified
  repeat' first
    | with_reducible exact h
    | (extract_lets +onlyGivenNames y; clear_value y)
    | with_reducible refine blocks ?_ _ _ _ _ _ _ _ _ _

theorem answer (h : s.Keep t) (ch op status : Nat) (rec : Word) (x : UpdAns) : s.Keep (t.answer ch op status rec x) := by
  unfold State.answer
  repeat' with_reducible first
    | exact h | apply dbSet | apply descAck | apply descPost | apply descStage | apply hallWrite | apply takeFree

theorem serve (h : s.Keep t) (ch op : Nat) (x : UpdAns) (f : State → Nat × Word × State) (k : ∀ u, s.Keep u → s.Keep (f u).2.2) :
    s.Keep (t.serve ch op x f) := by
  unfold State.serve
  split
  · exact h
  · split
    · exact answer h _ _ _ _ _
    · exact answer (k t h) _ _ _ _ _

theorem flashOp (h : s.Keep t) (ch sl c : Nat) (x : UpdAns) (g : Nat → State → State) (k : ∀ n u, s.Keep u → s.Keep (g n u)) :
    s.Keep (t.flashOp ch sl c x g).2.2 := by
  unfold State.flashOp
  split
  · exact h
  · split
    · exact h
    · extract_lets s₁
      have h₁ : s.Keep s₁ := setVerified (takeFree h) _ _
      clear_value s₁
      split
      · exact blocks (k _ _ h₁) _ _ _ _ _ _ _ _ _
      · exact k _ _ h₁
      · exact k _ _ h₁

theorem updateErase (h : s.Keep t) (ch : Nat) (x : UpdAns) : s.Keep (Machine.updateErase ch x t) := by
  unfold Machine.updateErase
  repeat' first
    | with_reducible first | exact h | assumption | apply flashErase | apply flashOp | apply serve
    | (extract_lets +onlyGivenNames y; subst y)
    | with_reducible intro _
    | split

theorem updateWrite (h : s.Keep t) (ch : Nat) (x : UpdAns) : s.Keep (Machine.updateWrite ch x t) := by
  unfold Machine.updateWrite
  repeat' first
    | with_reducible first | exact h | assumption | apply flashOp | apply flashWrite | apply serve
    | (extract_lets +onlyGivenNames y; subst y)
    | with_reducible intro _
    | split

theorem updateVerify (h : s.Keep t) (ch : Nat) (x : UpdAns) (flash : Bool) : s.Keep (Machine.updateVerify ch x flash t) := by
  unfold Machine.updateVerify
  repeat' first
    | with_reducible first | exact h | assumption | apply serve | apply setVerified
    | (extract_lets +onlyGivenNames y; clear_value y)
    | split
    | with_reducible intro _

theorem updateCopy (h : s.Keep t) (ch : Nat) (x : UpdAns) (flash : Bool) : s.Keep (Machine.updateCopy ch x flash t) := by
  unfold Machine.updateCopy
  repeat' first
    | with_reducible first
        | exact h | assumption | apply flashErase | apply flashOp | apply flashProgram | apply serve | apply setVerified
    | (extract_lets +onlyGivenNames y; subst y)
    | split
    | with_reducible first | apply foldl | intro _

theorem updateFuse (h : s.Keep t) (ch : Nat) (x : UpdAns) : s.Keep (Machine.updateFuse ch x t) :=
  serve h _ _ _ _ fun u k => by
    split
    · exact k
    · exact withPv k _ fun c => ⟨c.words, c.wear, c.hmap, c.flash⟩

theorem updateSetrec (h : s.Keep t) (ch : Nat) (x : UpdAns) : s.Keep (Machine.updateSetrec ch x t) := by
  unfold Machine.updateSetrec
  repeat' first
    | with_reducible first | exact h | assumption | apply each | apply pregRefuse | apply pregWrite | apply serve | intro _
    | split

/-! ## Ethernet -/

theorem zRead (m : Nat) : ∀ (k : Nat) {t : State} (_ : s.Keep t) (a : Nat), s.Keep (t.zRead m k a).2.2
  | 0, _, h, _ => h
  | k + 1, t, h, a => by
    unfold State.zRead
    dsimp only
    split
    · exact zRead m k (busRead32 h _ _) _
    · exact takeFree (busRead32 h _ _)

theorem zWrite (m : Nat) : ∀ (l : List Word) {t : State} (_ : s.Keep t) (a : Nat), s.Keep (t.zWrite m a l).2
  | [], _, h, _ => h
  | w :: l, t, h, a => by
    unfold State.zWrite
    dsimp only
    split
    · exact zWrite m l (busWrite32 h _ _ _) _
    · exact busWrite32 h _ _ _

theorem zDoorbell (h : s.Keep t) (m ch : Nat) (bits : Word) : s.Keep (t.zDoorbell m ch bits).2 := by
  unfold State.zDoorbell
  repeat' with_reducible first | exact h | apply dbSet | apply deny | refine ite_snd (fun _ => ?_) (fun _ => ?_)

theorem zExec (h : s.Keep t) (m : Nat) (c : ZCmd) : s.Keep (t.zExec m c).2.2 := by
  unfold State.zExec
  repeat' first
    | with_reducible first | exact h | apply takeFree | apply zDoorbell | apply zRead | apply zWrite
    | (extract_lets +onlyGivenNames y; subst y)
    | split

theorem zRun (m : Nat) : ∀ (l : List ZCmd) {t : State} (_ : s.Keep t), s.Keep (t.zRun m l).2
  | [], _, h => h
  | c :: l, t, h => by
    unfold State.zRun
    dsimp only
    split
    · exact zRun m l (zExec h _ _)
    · exact takeFree (zExec h _ _)

theorem zSend (h : s.Keep t) (h₁ : Nat) (b : List Byte) : s.Keep (t.zSend h₁ b) := by
  unfold State.zSend
  repeat' first
    | with_reducible first
        | exact h | assumption | refine ite (fun _ => ?_) (fun _ => ?_)
    | (extract_lets +onlyGivenNames y; subst y)
    | split
    | with_reducible first | refine of_snd (by assumption) ?_ | refine of_fst (by assumption) ?_
        | refine blocks ?_ _ _ _ _ _ _ _ _ _ | intro _

theorem zRequest (h : s.Keep t) (h₁ : Nat) (b : List Byte) : s.Keep (t.zRequest h₁ b) := by
  unfold State.zRequest
  repeat' with_reducible first | exact h | apply takeFree | apply setLand | apply zRun | apply zSend | refine ite (fun _ => ?_) (fun _ => ?_)

theorem zTake (h : s.Keep t) (h₁ : Nat) (u₁ : Udp) : s.Keep (t.zTake h₁ u₁) := by
  unfold State.zTake
  repeat' first
    | with_reducible first | exact h | apply orBits | apply resetHost | apply setLand | apply wr | apply zRequest | apply zSend
    | (extract_lets +onlyGivenNames y; subst y)
    | split

theorem zFrame (h : s.Keep t) (e : Nat) (u₁ : Udp) : s.Keep (t.zFrame e u₁) := by
  unfold State.zFrame
  repeat' first | with_reducible first | exact h | apply orBits | apply zTake | split

theorem zhevuDatagram (h : s.Keep t) (e : Nat) (b : List Byte) : s.Keep (Machine.zhevuDatagram e b t) := by
  unfold Machine.zhevuDatagram
  repeat' first | with_reducible first | exact h | apply zFrame | split

theorem zAlone (h : s.Keep t) (h₁ : Nat) (c : ZCmd) : s.Keep (t.zAlone h₁ c) := by
  unfold State.zAlone
  repeat' with_reducible first
    | exact h | assumption | apply zExec | apply zSend | refine ite (fun _ => ?_) (fun _ => ?_) | intro _

theorem zhevuRead (h : s.Keep t) (h₁ : Nat) (addr : Word) (nw : Nat) : s.Keep (Machine.zhevuRead h₁ addr nw t) := by
  unfold Machine.zhevuRead
  repeat' with_reducible first | exact h | apply zAlone

theorem zhevuWrite (h : s.Keep t) (h₁ : Nat) (addr : Word) (data : List Word) : s.Keep (Machine.zhevuWrite h₁ addr data t) := by
  unfold Machine.zhevuWrite
  repeat' with_reducible first | exact h | apply zAlone

theorem zhevuDoorbell (h : s.Keep t) (h₁ ch : Nat) (bits : Word) : s.Keep (Machine.zhevuDoorbell h₁ ch bits t) := by
  unfold Machine.zhevuDoorbell
  repeat' with_reducible first | exact h | apply zAlone

theorem zhevuNotify (h : s.Keep t) (ch : Nat) : s.Keep (Machine.zhevuNotify ch t) := by
  unfold Machine.zhevuNotify
  repeat' first
    | with_reducible first | exact h | apply setLand | apply zSend
    | (extract_lets +onlyGivenNames y; clear_value y)
    | split

theorem ringBell (h : s.Keep t) (e i : Nat) : s.Keep (t.ringBell e i) := by
  unfold State.ringBell
  repeat' with_reducible first | exact h | apply ring | apply wakeMode | refine ite (fun _ => ?_) (fun _ => ?_)

theorem slotWrite : ∀ (l : List Word) {t : State} (_ : s.Keep t) (o : Nat), s.Keep (t.slotWrite o l).2
  | [], _, h, _ => h
  | w :: l, t, h, o => by
    unfold State.slotWrite
    dsimp only
    split
    · exact slotWrite l (hallStore h _ _ _) _
    · exact hallStore h _ _ _

theorem ringFrame (h : s.Keep t) (e : Nat) (b : List Byte) (fine : Nat) : s.Keep (t.ringFrame e b fine) := by
  unfold State.ringFrame
  repeat' first
    | with_reducible first | exact h | apply orBits | apply ringBell | apply setFld | apply slotWrite | apply takeFree
    | (extract_lets +onlyGivenNames y; subst y)
    | split

theorem ethernetReceive (h : s.Keep t) (e : Nat) (b : List Byte) (fcsOk : Bool) (fine : Nat) :
    s.Keep (Machine.ethernetReceive e b fcsOk fine t) := by
  unfold Machine.ethernetReceive
  repeat' first | with_reducible first | exact h | apply ringFrame | apply zFrame | split

theorem ethernetTransmit (h : s.Keep t) (e fine : Nat) : s.Keep (Machine.ethernetTransmit e fine t) := by
  unfold Machine.ethernetTransmit
  repeat' first
    | with_reducible first
        | exact h | apply dmaRead | apply hallLoad | apply orBits | apply ringBell | apply setFld | apply txStamp
    | (extract_lets +onlyGivenNames y; subst y)
    | split
    | with_reducible first | refine of_snd (by assumption) ?_ | refine blocks ?_ _ _ _ _ _ _ _ _ _

/-! ## Mx -/

theorem mxRun (h : s.Keep t) (k : Nat) (x : MxCtx) (f : Core → Core) : s.Keep (t.mxRun k x f) := by
  unfold State.mxRun
  repeat' with_reducible first | exact h | apply setCore | refine ite (fun _ => ?_) (fun _ => ?_)

theorem mxReader (h : s.Keep t) (k : Nat) (x : MxCtx) (rd : Nat) (a : Bool) (f : Acc → Word) : s.Keep (t.mxReader k x rd a f) := by
  unfold State.mxReader
  repeat' with_reducible first | exact h | apply setCore | apply takeFree | refine ite (fun _ => ?_) (fun _ => ?_)

theorem mxMac (h : s.Keep t) (k : Nat) (x : MxCtx) (a : Bool) (rs1 rs2 : Nat) : s.Keep (Machine.mxMac k x a rs1 rs2 t) := by
  unfold Machine.mxMac
  repeat' with_reducible first | exact h | apply mxRun

theorem mxMac2 (h : s.Keep t) (k : Nat) (x : MxCtx) (rs1 rs2 : Nat) : s.Keep (Machine.mxMac2 k x rs1 rs2 t) := by
  unfold Machine.mxMac2
  repeat' with_reducible first | exact h | apply mxRun

theorem mxMacx2 (h : s.Keep t) (k : Nat) (x : MxCtx) (rs1 rs2 : Nat) : s.Keep (Machine.mxMacx2 k x rs1 rs2 t) := by
  unfold Machine.mxMacx2
  repeat' with_reducible first | exact h | apply mxRun

theorem mxClr (h : s.Keep t) (k : Nat) (x : MxCtx) (a : Bool) : s.Keep (Machine.mxClr k x a t) := by
  unfold Machine.mxClr
  repeat' with_reducible first | exact h | apply mxRun

theorem mxClr2 (h : s.Keep t) (k : Nat) (x : MxCtx) : s.Keep (Machine.mxClr2 k x t) := by
  unfold Machine.mxClr2
  repeat' with_reducible first | exact h | apply mxRun

theorem mxWr (h : s.Keep t) (k : Nat) (x : MxCtx) (a : Bool) (rs1 rs2 : Nat) : s.Keep (Machine.mxWr k x a rs1 rs2 t) := by
  unfold Machine.mxWr
  repeat' with_reducible first | exact h | apply mxRun

theorem mxRd (h : s.Keep t) (k : Nat) (x : MxCtx) (rd : Nat) (a : Bool) (sh : Nat) : s.Keep (Machine.mxRd k x rd a sh t) := by
  unfold Machine.mxRd
  repeat' with_reducible first | exact h | apply mxReader

theorem mxRdw (h : s.Keep t) (k : Nat) (x : MxCtx) (rd : Nat) (a : Bool) : s.Keep (Machine.mxRdw k x rd a t) := by
  unfold Machine.mxRdw
  repeat' with_reducible first | exact h | apply mxReader

theorem mxRdh (h : s.Keep t) (k : Nat) (x : MxCtx) (rd : Nat) (a : Bool) : s.Keep (Machine.mxRdh k x rd a t) := by
  unfold Machine.mxRdh
  repeat' with_reducible first | exact h | apply mxReader

theorem mxLoop (h : s.Keep t) (k : Nat) (x : MxCtx) (rs1 imm : Nat) : s.Keep (Machine.mxLoop k x rs1 imm t) := by
  unfold Machine.mxLoop
  repeat' with_reducible first | exact h | apply setCore | apply takeFree | refine ite (fun _ => ?_) (fun _ => ?_)

theorem busStore (m : Nat) : ∀ (l : List Word) {t : State} (_ : s.Keep t) (a : Nat), s.Keep (t.busStore m a l).2
  | [], _, h, _ => h
  | w :: l, t, h, a => by
    unfold State.busStore
    dsimp only
    split
    · exact busWrite32 h _ _ _
    · exact busStore m l (busWrite32 h _ _ _) _

theorem busLoad (m : Nat) : ∀ (k : Nat) {t : State} (_ : s.Keep t) (a : Nat), s.Keep (t.busLoad m a k).2
  | 0, _, h, _ => h
  | k + 1, t, h, a => by
    unfold State.busLoad
    dsimp only
    split
    · exact busRead32 h _ _
    · exact busLoad m k (busRead32 h _ _) _

theorem mxSave (h : s.Keep t) (k : Nat) (x : MxCtx) (rs1 : Nat) (loc : Bool) : s.Keep (Machine.mxSave k x rs1 loc t) := by
  unfold Machine.mxSave
  repeat' with_reducible first | exact h | apply busStore | apply setCore | apply takeFree | refine ite (fun _ => ?_) (fun _ => ?_)

theorem mxRestore (h : s.Keep t) (k : Nat) (x : MxCtx) (rs1 : Nat) (loc : Bool) : s.Keep (Machine.mxRestore k x rs1 loc t) := by
  unfold Machine.mxRestore
  repeat' first
    | with_reducible first | exact h | apply busLoad | apply setCore
    | (extract_lets +onlyGivenNames y; subst y)
    | split

/-! ## Cycle -/

theorem snapshot (h : s.Keep t) (a : Nat) : s.Keep (t.snapshot a) := by
  unfold State.snapshot
  repeat' with_reducible first | exact h | apply setAxis

theorem modeTick0 (h : s.Keep t) : s.Keep t.modeTick0 := by
  unfold State.modeTick0
  repeat' first
    | with_reducible first | exact h | assumption | apply setMode | apply silenceAll | apply when
    | (extract_lets +onlyGivenNames y; clear_value y)
    | split
    | with_reducible first | refine blocks ?_ _ _ _ _ _ _ _ _ _ | intro _

theorem standbyTick0 (h : s.Keep t) (due : Bool) : s.Keep (t.standbyTick0 due) := by
  unfold State.standbyTick0
  repeat' with_reducible first | exact h | apply enterStandby | apply setMode | refine ite (fun _ => ?_) (fun _ => ?_)

theorem coldTick0 (h : s.Keep t) : s.Keep t.coldTick0 := by
  unfold State.coldTick0
  repeat' first
    | with_reducible first
        | exact h | assumption | apply coldStart | apply each | apply setFld | apply setLand | apply setMode | apply when
    | (extract_lets +onlyGivenNames y; subst y)
    | split
    | with_reducible first | refine blocks ?_ _ _ _ _ _ _ _ _ _ | intro _

theorem integrateTick0 (h : s.Keep t) : s.Keep t.integrateTick0 := by
  unfold State.integrateTick0
  repeat' first
    | with_reducible first | exact h | apply orBits | apply setMode | refine ite (fun _ => ?_) (fun _ => ?_)
    | (extract_lets +onlyGivenNames y; subst y)
    | with_reducible refine blocks ?_ _ _ _ _ _ _ _ _ _

theorem cycleEnd (h : s.Keep t) : s.Keep t.cycleEnd := by
  unfold State.cycleEnd
  repeat' first
    | with_reducible first | exact h | assumption | apply capTick0 | apply each | apply imgTick0 | apply rflagsClear
    | (extract_lets +onlyGivenNames y; subst y)
    | with_reducible first | refine blocks ?_ _ _ _ _ _ _ _ _ _ | intro _

theorem nextCycle (h : s.Keep t) : s.Keep t.nextCycle := by
  unfold State.nextCycle
  repeat' first
    | with_reducible first | exact h | apply tbTick0
    | (extract_lets +onlyGivenNames y; clear_value y)
    | with_reducible refine blocks ?_ _ _ _ _ _ _ _ _ _

theorem axesTick0 (h : s.Keep t) : s.Keep t.axesTick0 := by
  unfold State.axesTick0
  repeat' first
    | with_reducible first
        | exact h | assumption | apply commitTick0 | apply each | apply lrnTick0 | apply setSource | apply snapshot
        | apply swapTick0
    | (extract_lets +onlyGivenNames y; clear_value y)
    | with_reducible intro _

theorem unitsTick0 (h : s.Keep t) : s.Keep t.unitsTick0 := by
  unfold State.unitsTick0
  repeat' with_reducible first
    | exact h | apply coreTick0 | apply hallTick0 | apply laneTick0 | apply pairTick0 | apply safTick0 | apply trnTick0

theorem modesTick0 (h : s.Keep t) (due : Bool) : s.Keep (t.modesTick0 due) := by
  unfold State.modesTick0
  repeat' with_reducible first | exact h | apply coldTick0 | apply integrateTick0 | apply modeTick0 | apply standbyTick0

theorem stopsTick0 (h : s.Keep t) : s.Keep t.stopsTick0 := by
  unfold State.stopsTick0
  repeat' first
    | with_reducible first | exact h | assumption | apply each | apply stopHolds | refine ite (fun _ => ?_) (fun _ => ?_)
    | (extract_lets +onlyGivenNames y; subst y)
    | with_reducible first | refine setGrp ?_ _ _ (fun _ c => grp_ph c _) | intro _

theorem resend (h : s.Keep t) (a : Nat) : s.Keep (t.resend a) := by
  unfold State.resend
  repeat' with_reducible first
    | exact h | assumption | apply redeliver | refine ite (fun _ => ?_) (fun _ => ?_) | intro _

theorem cycleStart (h : s.Keep t) : s.Keep (Machine.cycleStart t) := by
  unfold Machine.cycleStart
  repeat' with_reducible first
    | exact h | assumption | apply axesTick0 | apply checkpointTake | apply cycleEnd | apply each | apply modesTick0
    | apply nextCycle | apply resend | apply stopsTick0 | apply ticks | apply unitsTick0 | apply each
    | refine ite (fun _ => ?_) (fun _ => ?_) | intro _

/-! ## Rows -/

theorem galCtrlBy (h : s.Keep t) (m : Nat) (v : Word) : s.Keep (t.galCtrlBy m v) := by
  unfold State.galCtrlBy
  repeat' with_reducible first | exact h | apply regWrite

theorem mxIssue (h : s.Keep t) (k : Nat) (x : MxCtx) (op : MxOp) (f : State → State) (e : s.Keep (f t)) : s.Keep (Machine.mxIssue k x op f t) := by
  unfold Machine.mxIssue
  split
  · exact ite (fun _ => e) (fun _ => h)
  · exact ite (fun _ => setCore h _ _) (fun _ => h)

end Sys2Proof.Machine.State.Keep
end

