-- ==== Sys2Proof/Laws/Notice.lean ====
section
/-! SUPPORT. What the notice of an event, and a stop or a fault of the safety unit, leave alone. -/

namespace Sys2Proof.Machine

variable {s t u : State} {l m : List Nat}

/-- A fold keeps what each of its steps keeps. -/
theorem State.each_keeps {α : Type} {P : State → Prop} {f : α → State → State} : ∀ {w : List α} {t : State}, P t →
    (∀ x ∈ w, ∀ u, P u → P (f x u)) → P (t.each w f)
  | [], _, h, _ => h
  | x :: w, t, h, k => State.each_keeps (w := w) (t := f x t) (k x (by simp) t h) fun y hy => k y (by simp [hy])

theorem State.when_keeps {P : State → Prop} {f : State → State} (b : Bool) (h : P t) (k : P (f t)) : P (t.when b f) := by
  unfold State.when
  split
  · exact k
  · exact h

/-! ## Notice -/

theorem State.DramMarked.refl (s : State) : s.DramMarked s := fun _ => .inl rfl

theorem State.DramMarked.trans (h : s.DramMarked t) (k : t.DramMarked u) : s.DramMarked u := fun a => by
  rcases k a with k | k <;> rcases h a with h | h <;> rw [k, h]
  · exact .inl rfl
  · exact .inr rfl
  · exact .inr rfl
  · exact .inr (by simp [BitVec.or_assoc])

theorem State.OnlyNoticed.refl (s : State) (l : List Nat) : s.OnlyNoticed s l := ⟨rfl, .refl s _, .refl s⟩

theorem mem_notice {a : Nat} (h : a ∈ noticeRegs) (l : List Nat) : a ∈ l ++ noticeRegs := List.mem_append_right _ h

theorem delivery_notice {a : Nat} (h : a ∈ deliveryRegs) : a ∈ noticeRegs := by simp [noticeRegs, h]

theorem mem_capEvt : Reg.CAP_EVT ∈ noticeRegs := by simp [noticeRegs]
theorem mem_bwsum : Reg.CAP_BWSUM ∈ noticeRegs := by simp [noticeRegs]
theorem mem_trigger {n a : Nat} (h : n < 16) (ha : a ∈ triggerRegs n) : a ∈ noticeRegs := by
  simp only [noticeRegs, List.mem_cons, List.mem_append]
  exact .inr (.inr (.inl (List.mem_flatMap.2 ⟨n, List.mem_range.2 h, ha⟩)))
theorem mem_capLost {n : Nat} (h : n < 16) : Reg.CAP_S_LOST n ∈ noticeRegs := mem_trigger h (by simp [triggerRegs])
theorem mem_capStat {n : Nat} (h : n < 16) : Reg.CAP_S_STAT n ∈ noticeRegs := mem_trigger h (by simp [triggerRegs])
theorem mem_capTptr {n : Nat} (h : n < 16) : Reg.CAP_S_TPTR n ∈ noticeRegs := mem_trigger h (by simp [triggerRegs])
theorem mem_capPreact {n : Nat} (h : n < 16) : Reg.CAP_S_PREACT n ∈ noticeRegs := mem_trigger h (by simp [triggerRegs])
theorem mem_capChg {n : Nat} (h : n < 16) : Reg.CAP_S_CHG n ∈ noticeRegs := mem_trigger h (by simp [triggerRegs])

theorem State.OnlyNoticed.wr (h : s.OnlyNoticed t l) {a : Nat} (ha : a ∈ l ++ noticeRegs) (v : Word) : s.OnlyNoticed (t.wr a v) l :=
  ⟨h.rest, h.regs.wr ha v, h.dram⟩

theorem State.OnlyNoticed.setSession (h : s.OnlyNoticed t l) (n : Nat) (x : Session) : s.OnlyNoticed (t.setSession n x) l :=
  ⟨h.rest, h.regs, h.dram⟩

/-- What delivery changes after what a notice changes. -/
theorem State.OnlyNoticed.raised (h : s.OnlyNoticed t l) (k : t.OnlyRaised u m) (hm : ∀ a ∈ m, a ∈ l ++ noticeRegs) : s.OnlyNoticed u l := by
  have e := congrArg (fun x : State =>
    { x with regs := s.regs, tsu := { x.tsu with cores := s.tsu.cores },
             cap := { x.cap with queue := s.cap.queue, sess := s.cap.sess, dram := s.cap.dram } }) k.rest
  have d : u.cap.dram = t.cap.dram := by
    have := congrArg (fun x : State => x.cap.dram) k.rest
    exact this
  exact ⟨e.trans h.rest, h.regs.trans (k.regs.mono fun a ha => (List.mem_append.1 ha).elim (hm a) fun ha => mem_notice (delivery_notice ha) l),
    h.dram.trans fun a => .inl (by rw [d])⟩

theorem State.OnlyNoticed.of (h : s.OnlyRaised t l) : s.OnlyNoticed t l :=
  (State.OnlyNoticed.refl s l).raised h fun _ ha => List.mem_append_left _ ha

theorem State.OnlyNoticed.raise (h : s.OnlyNoticed t l) {e : Nat} (he : e ∈ l ++ noticeRegs) (n : Nat) (w : Word) : s.OnlyNoticed (t.raise n e w) l :=
  h.raised ((State.OnlyRaised.refl t [e]).raise (by simp) n w) (by simpa using he)

theorem State.OnlyNoticed.capEventAt (h : s.OnlyNoticed t l) (k obj detail : Nat) (cyc : Word) (ft : Nat) :
    s.OnlyNoticed (t.capEventAt k obj detail cyc ft) l := by
  unfold State.capEventAt
  dsimp only
  split
  · exact h
  · split
    · exact ⟨h.rest, h.regs, h.dram⟩
    · refine State.each_keeps (P := fun u => s.OnlyNoticed u l) h fun n hn u hu => ?_
      have hn : n < 16 := by simpa using (List.mem_filter.1 hn).1
      exact ((hu.wr (mem_notice (mem_capLost hn) l) _).setSession n _).raise (mem_notice mem_capEvt l) _ _

theorem State.OnlyNoticed.capEvent (h : s.OnlyNoticed t l) (k obj detail : Nat) : s.OnlyNoticed (t.capEvent k obj detail) l := h.capEventAt _ _ _ _ _

theorem State.OnlyNoticed.capFree (h : s.OnlyNoticed t l) {n : Nat} (hn : n < 16) : s.OnlyNoticed (t.capFree n) l :=
  (h.wr (mem_notice mem_bwsum l) _).wr (mem_notice (mem_capChg hn) l) _

theorem State.OnlyNoticed.setFld (h : s.OnlyNoticed t l) {a : Nat} (ha : a ∈ l ++ noticeRegs) (hi lo v : Nat) :
    s.OnlyNoticed (t.setFld a hi lo v) l := h.wr ha _

theorem State.OnlyNoticed.setBit (h : s.OnlyNoticed t l) {a : Nat} (ha : a ∈ l ++ noticeRegs) (i : Nat) (b : Bool) :
    s.OnlyNoticed (t.setBit a i b) l := h.wr ha _

theorem State.OnlyNoticed.capDone (h : s.OnlyNoticed t l) {n : Nat} (hn : n < 16) : s.OnlyNoticed (t.capDone n) l := by
  have hs := mem_notice (mem_capStat hn) l
  unfold State.capDone State.capEvt
  refine State.OnlyNoticed.raise ?_ (mem_notice mem_capEvt l) _ _
  repeat' first
    | with_reducible first
        | exact h | exact hs | refine State.OnlyNoticed.capFree ?_ hn | apply State.OnlyNoticed.setSession
        | apply State.OnlyNoticed.setFld | apply State.OnlyNoticed.setBit
    | (extract_lets +onlyGivenNames y; subst y)
    | split

theorem State.OnlyNoticed.capMark (h : s.OnlyNoticed t l) {n : Nat} (hn : n < 16) (p k w : Nat) : s.OnlyNoticed (t.capMark n p k w) l := by
  unfold State.capMark
  extract_lets s₁ left x s₂
  have h₁ : s.OnlyNoticed s₁ l := (h.wr (mem_notice (mem_capTptr hn) l) _).wr (mem_notice (mem_capPreact hn) l) _
  have h₂ : s.OnlyNoticed s₂ l := h₁.setSession _ _
  clear_value s₂
  split
  · exact h₂.capDone hn
  · exact h₂

/-- Setting FLAGS.TRIG of a record. -/
theorem State.OnlyNoticed.flag (h : s.OnlyNoticed t l) (a : Nat) :
    s.OnlyNoticed { t with cap := { t.cap with dram := Table.put t.cap.dram a ((Table.find? t.cap.dram a).getD 0 ||| 1) } } l :=
  ⟨h.rest, h.regs, h.dram.trans fun b => by
    simp only [Table.find?_put]
    split
    · next e => exact .inr (by rw [e])
    · exact .inl rfl⟩

theorem State.OnlyNoticed.capSame (h : s.OnlyNoticed t l) {n : Nat} (hn : n < 16) (x : Nat) : s.OnlyNoticed (t.capSame n x) l := by
  unfold State.capSame
  dsimp only
  split
  · split
    · exact (h.flag _).capMark hn _ _ _
    · exact h
  · exact h

theorem State.OnlyNoticed.capAccept (x : Nat) : ∀ (f : Nat) {t : State}, s.OnlyNoticed t l → ∀ n, n < 16 → s.OnlyNoticed (State.capAccept x f t n) l
  | 0, _, h => fun _ _ => h
  | f + 1, t, h => fun n hn => by
    unfold State.capAccept
    dsimp only
    split
    · exact h
    · split
      · exact h.wr (mem_notice (mem_capStat hn) l) _
      · have k := (h.setSession n { t.session n with trig := some x }).wr (mem_notice (mem_capStat hn) l)
        refine State.each_keeps (P := fun u => s.OnlyNoticed u l) (w := List.range 16) ((k _).capSame hn x) fun i hi u hu => ?_
        split
        · exact State.OnlyNoticed.capAccept x f hu i (by simpa using hi)
        · exact hu

theorem State.OnlyNoticed.capCond (h : s.OnlyNoticed t l) (k : Nat) (sel : Word → Bool) : s.OnlyNoticed (t.capCond k sel) l := by
  refine State.each_keeps (P := fun u => s.OnlyNoticed u l) h fun n hn u hu => ?_
  split
  · exact State.OnlyNoticed.capAccept _ 17 hu n (by simpa using hn)
  · exact hu

/-! ## Safety -/

theorem State.OnlySafety.refl (s : State) (l : List Nat) : s.OnlySafety s l := ⟨rfl, .refl s _, .refl s⟩

theorem mem_safety {a : Nat} (h : a ∈ safetyRegs) (l : List Nat) : a ∈ l ++ safetyRegs := List.mem_append_right _ h
theorem mem_evtseq : Reg.SAF_EVTSEQ ∈ safetyRegs := by simp [safetyRegs]
theorem mem_flt : Reg.SAF_FLT ∈ safetyRegs := by simp [safetyRegs]
theorem mem_safGrp {g : Nat} (h : g < 8) : Reg.SAF_GRP g ∈ safetyRegs := by
  simp only [safetyRegs, List.mem_cons, List.mem_append]
  exact .inr (.inr (.inl (List.mem_map_of_mem (List.mem_range.2 h))))
theorem notice_safety {a : Nat} (h : a ∈ noticeRegs) : a ∈ safetyRegs := by simp [safetyRegs, h]

theorem State.OnlySafety.wr (h : s.OnlySafety t l) {a : Nat} (ha : a ∈ l ++ safetyRegs) (v : Word) : s.OnlySafety (t.wr a v) l :=
  ⟨h.rest, h.regs.wr ha v, h.dram⟩

theorem State.OnlySafety.trans (h : s.OnlySafety t l) (k : t.OnlySafety u m) (hm : ∀ a ∈ m, a ∈ l ++ safetyRegs) : s.OnlySafety u l := by
  refine ⟨?_, h.regs.trans (k.regs.mono fun a ha => (List.mem_append.1 ha).elim (hm a) fun ha => mem_safety ha l), h.dram.trans k.dram⟩
  exact (congrArg (fun x : State =>
    { x with regs := s.regs, saf := s.saf, sys := { x.sys with pend := s.sys.pend, stopPend := s.sys.stopPend },
             tsu := { x.tsu with cores := s.tsu.cores },
             cap := { x.cap with queue := s.cap.queue, sess := s.cap.sess, dram := s.cap.dram } }) k.rest).trans h.rest

theorem State.OnlySafety.noticed (h : s.OnlySafety t l) (k : t.OnlyNoticed u m) (hm : ∀ a ∈ m, a ∈ l ++ safetyRegs) : s.OnlySafety u l := by
  refine ⟨?_, h.regs.trans (k.regs.mono fun a ha => (List.mem_append.1 ha).elim (hm a) fun ha => mem_safety (notice_safety ha) l),
    h.dram.trans k.dram⟩
  exact (congrArg (fun x : State =>
    { x with regs := s.regs, saf := s.saf, sys := { x.sys with pend := s.sys.pend, stopPend := s.sys.stopPend },
             tsu := { x.tsu with cores := s.tsu.cores },
             cap := { x.cap with queue := s.cap.queue, sess := s.cap.sess, dram := s.cap.dram } }) k.rest).trans h.rest

theorem State.OnlySafety.saf (h : s.OnlySafety t l) (x : SafBlock) : s.OnlySafety { t with saf := x } l := ⟨h.rest, h.regs, h.dram⟩

theorem State.OnlySafety.setSaf (h : s.OnlySafety t l) (bas : Bool) (c : SafChan) : s.OnlySafety (t.setSaf bas c) l := by
  unfold State.setSaf
  split
  · exact h.saf _
  · exact h.saf _

theorem State.OnlySafety.setSafGrp (h : s.OnlySafety t l) (bas : Bool) (g : Nat) (x : SafGrp) : s.OnlySafety (t.setSafGrp bas g x) l := h.setSaf _ _

/-- An increment of SAF_EVTSEQ and its notice (R244, R273, R328). -/
theorem State.OnlySafety.safetyEvent (h : s.OnlySafety t l) (obj detail : Nat) : s.OnlySafety (t.safetyEvent obj detail) l := by
  have h₁ : s.OnlySafety (t.inc Reg.SAF_EVTSEQ) l := h.wr (mem_safety mem_evtseq l) _
  refine h₁.noticed (m := []) ?_ (by simp)
  unfold State.safetyEvent
  generalize t.inc Reg.SAF_EVTSEQ = t₁
  dsimp only
  refine State.OnlyNoticed.capCond (State.OnlyNoticed.capEvent (State.OnlyNoticed.of ?_) _ _ _) _ _
  split
  · split
    · exact (State.OnlyRaised.refl t₁ []).endWait 9 _
    · exact .refl t₁ []
  · split
    · split
      · exact ((State.OnlyRaised.refl t₁ []).setCore _ _).wakeCore _
      · exact (State.OnlyRaised.refl t₁ []).irqLost 17
    · exact .refl t₁ []

theorem State.OnlySafety.grpTo (h : s.OnlySafety t l) (bas : Bool) (g st : Nat) : s.OnlySafety (t.grpTo bas g st) l := by
  unfold State.grpTo
  dsimp only
  split
  · exact h
  · refine State.OnlySafety.safetyEvent ?_ _ _
    split
    · exact (h.setSafGrp _ _ _).saf _
    · exact (h.setSafGrp _ _ _).saf _

theorem State.OnlySafety.stopCause (h : s.OnlySafety t l) {g : Nat} (hg : g < 8) (c : Nat) : s.OnlySafety (t.stopCause g c) l :=
  h.wr (mem_safety (mem_safGrp hg) l) _

theorem State.OnlySafety.sto (h : s.OnlySafety t l) (bas : Bool) {g : Nat} (hg : g < 8) (c : Nat) : s.OnlySafety (t.sto bas g c) l := by
  unfold State.sto
  split
  · exact h
  · exact (h.stopCause hg c).grpTo _ _ _

theorem State.OnlySafety.stopGrp (h : s.OnlySafety t l) (bas : Bool) {g : Nat} (hg : g < 8) (c : Nat) : s.OnlySafety (t.stopGrp bas g c) l := by
  unfold State.stopGrp
  split
  · exact h.sto _ hg _
  · exact (h.stopCause hg c).grpTo _ _ _

theorem State.OnlySafety.safeStopAll (h : s.OnlySafety t l) (lost : Bool) : s.OnlySafety (t.safeStopAll lost) l := by
  refine State.each_keeps (P := fun u => s.OnlySafety u l) h fun b _ u hu => ?_
  refine State.each_keeps (P := fun u => s.OnlySafety u l) hu fun g hg v hv => ?_
  have hg : g < 8 := by simpa using hg
  split
  · exact hv.sto _ hg _
  · split
    · exact hv.stopGrp _ hg _
    · exact hv

theorem State.OnlySafety.reqMode (h : s.OnlySafety t l) (n : Nat) : s.OnlySafety (t.reqMode n) l := by
  unfold State.reqMode
  split
  · exact h
  · exact ⟨h.rest, h.regs, h.dram⟩

theorem State.OnlySafety.reqSafeStop (h : s.OnlySafety t l) : s.OnlySafety t.reqSafeStop l := by
  unfold State.reqSafeStop
  split
  · exact h.reqMode _
  · split
    · exact ⟨h.rest, h.regs, h.dram⟩
    · exact h

/-- A fault and its reaction change the safety unit, the mode that is pending, the safety registers, and what the notice changes. -/
theorem State.OnlySafety.fault (h : s.OnlySafety t l) (code bych obj : Nat) : s.OnlySafety (t.fault code bych obj) l := by
  unfold State.fault
  extract_lets s₁ single code₁ s₂ x s₃ s₄ y
  have h₁ : s.OnlySafety s₁ l := h.safetyEvent _ _
  have h₂ : s.OnlySafety s₂ l := by
    simp only [s₂]
    split
    · exact h₁.wr (mem_safety mem_flt l) _
    · exact h₁
  clear_value s₂
  split
  · split
    · exact h₁.safeStopAll _
    · exact h₁
  · split
    · exact State.OnlySafety.reqMode (State.each_keeps (P := fun u => s.OnlySafety u l) (h₂.saf _) fun _ _ _ hu => hu.setSaf _ _) _
    · exact ((h₂.saf _).safeStopAll _).reqSafeStop

theorem State.OnlySafety.releaseGrp (h : s.OnlySafety t l) (bas : Bool) (g : Nat) : s.OnlySafety (t.releaseGrp bas g) l := (h.grpTo _ _ _).saf _

theorem State.OnlySafety.degradedEnd (h : s.OnlySafety t l) (bas : Bool) : s.OnlySafety (t.degradedEnd bas) l := by
  unfold State.degradedEnd
  dsimp only
  split
  · exact h.fault _ _ _
  · exact h

theorem State.OnlySafety.sampleGrp (h : s.OnlySafety t l) (bas : Bool) {g : Nat} (hg : g < 8) : s.OnlySafety (t.sampleGrp bas g) l := by
  unfold State.sampleGrp
  dsimp only
  split
  · exact h.sto _ hg _
  · split
    · split
      · exact h.stopGrp _ hg _
      · exact h
    · split
      · exact h
      · repeat' split
        all_goals exact h.grpTo _ _ _

theorem State.OnlySafety.slsRequests (h : s.OnlySafety t l) (bas : Bool) : s.OnlySafety (t.slsRequests bas) l := by
  refine State.each_keeps (P := fun u => s.OnlySafety u l) h fun g _ u hu => ?_
  dsimp only
  split
  · exact hu
  · repeat' split
    · exact hu.setSafGrp _ _ _
    · exact hu.setSafGrp _ _ _
    · exact hu

theorem State.OnlySafety.dropXdem (h : s.OnlySafety t l) : s.OnlySafety t.dropXdem l := h.saf _

theorem State.OnlySafety.loseChan (h : s.OnlySafety t l) (bas : Bool) (code bych : Nat) : s.OnlySafety (t.loseChan bas code bych) l := by
  unfold State.loseChan
  split
  · exact h
  · exact (h.setSaf _ _).fault _ _ _

end Sys2Proof.Machine
end

