-- ==== Sys2Proof/Machine/Pins.lean ====
section
/-! DEFINITION. What the device does to its output pins in each mode (R126, R342, R414): a view of the state. -/

namespace Sys2Proof.Machine

/-- The output pins by owner; the last two stand for the transmitters of a port and for every logic output R342 does not name. -/
inductive Pin
  | pwm (g : Fin 8) (x : Fin 3) (high : Bool)
  | ptA (m : Fin 8) | ptB (m : Fin 8) | ptZ (m : Fin 8)
  | fbkClock (n : Fin 16) | dsmClock
  | stog (g : Fin 8) | stob (g : Fin 8)
  | fieldOut (n : Fin 8)
  | testPulse (k : Fin 2)
  | xspi
  | torone (n : Fin 12) (chB : Bool) | partner
  | logic
  deriving DecidableEq, Repr

/-- What a pin does: high-impedance without a pull, a high-side switch that is off, a level, high with the test pulses of R218, electrically idle, or
driven by its unit as its own chapter lays down. -/
inductive PinDrive
  | highZ
  | off
  | level (b : Bool)
  | pulsing
  | idle
  | unit
  deriving DecidableEq, Repr

/-- The blocks that own the pins have been configured: flight 4 has ended (R342). -/
def State.configured (s : State) : Bool := decide (mBOOT ≤ s.mode) && s.fioEnabled

/-- A logic pin: high-impedance until its block is configured (R342). -/
def State.ifConfigured (s : State) (d : PinDrive) : PinDrive := if s.configured then d else .highZ

/-- A serial channel's clock is low while a read runs its clock and high otherwise; the level within a read's clock is its unit's (R107, R108). -/
def State.fbkClockPin (s : State) (n : Nat) : PinDrive :=
  if s.chMode n = 3 ∨ s.chMode n = 4 then (if (s.chan n).reading.isSome then .unit else .level true) else .unit

/-- The field die runs: in RESET from the first read of the switches at the latest, which stands for the instant in the model (R414; log
entry 80). -/
def State.fieldRuns (s : State) : Bool :=
  decide (mBOOT ≤ s.mode) || (s.mode == mRESET && (!s.saf.g.reads.isEmpty || !s.saf.b.reads.isEmpty))

/-- Flight 2 and later: the boot ROM drives the flash (R342, R361). -/
def State.flashDriven (s : State) : Bool := decide (mMINIMAL ≤ s.mode) || (s.mode == mBOOT && decide (2 ≤ s.fld Reg.SYS_BOOT 31 28))

/-- Every output pin in every mode (R126, R342, R414). -/
def State.pin (s : State) : Pin → PinDrive
  | .pwm g x high => s.ifConfigured (.level (s.pwmLevel g x high))
  | .ptA m => s.ifConfigured (.level (s.pout m).a)
  | .ptB m => s.ifConfigured (.level (s.pout m).b)
  | .ptZ m => s.ifConfigured (.level (s.pout m).z)
  | .fbkClock n => s.ifConfigured (s.fbkClockPin n)
  | .dsmClock => s.ifConfigured (if s.bit Reg.FBK_DSMCLK 31 then .unit else .level false)
  | .stog g => s.ifConfigured (.level (s.saf.stog.testBit g))
  | .stob g => if s.saf.stob.testBit g && !s.saf.ovl.testBit g && decide (mBOOT ≤ s.mode) then .level true else .off
  | .fieldOut n => if s.configured && s.doOn n then .level true else .off
  | .testPulse _ => if !s.fieldRuns then .off else if s.fio.vfld = 2 then .level true else .pulsing
  | .xspi => if s.flashDriven then .unit else .highZ
  | .torone _ _ => if s.configured then .unit else .idle
  | .partner => if s.configured then .unit else .idle
  | .logic => s.ifConfigured .unit

end Sys2Proof.Machine
end

