-- ==== Sys2Proof/WellFormed.lean ====
section
/-! DEFINITION. What an operand must be beyond its type: the sizes that the interfaces give. The meanings are total on ill-formed operands
as well; a sender that keeps the interface makes well-formed commands only. -/

namespace Sys2Proof

/-- Bytes written to the Hall fill the access (R3). -/
def hallBytesFit (size : Fin 4) (w : Option (List Byte)) : Bool :=
  match w with
  | some b => b.length == 2 ^ size.val
  | none => true

/-- One serial read: at most 40 data bits and an 8-bit CRC (R107, R108). -/
def SerialData.fits (d : SerialData) : Bool := decide (d.bits.length ≤ 40 ∧ d.crc < 256)

/-- The ages of a line's changes are given newest first, each change once (R122). -/
def risingAges : List Nat → Bool
  | [] => true
  | [_] => true
  | a :: b :: t => decide (a < b) && risingAges (b :: t)
def DsmLine.fits (l : DsmLine) : Bool := risingAges l.ages

/-- A handle of the pool (R262). -/
def handleFits (h : Fin 2048) : Bool := decide (256 ≤ h.val)

/-- Well-formed operands. -/
def Instr.wf (i : Instr) : Bool :=
  match i with
  | .hallAccess _ _ size w _ => hallBytesFit size w
  | .serialReadDone _ d => d.fits
  | .carrierValley _ _ y => y.u.fits && y.v.fits && y.w.fits
  | .jobEligible h => handleFits h
  | .jobRelease h => handleFits h
  | .fioInputFrame _ _ cur _ => cur.length == 8
  | .bootFlight5 x => x.lanes.length == 18 && x.cores.length == 9
  | .zhevuWrite _ _ data => decide (1 ≤ data.length ∧ data.length ≤ 256)
  | .zhevuDatagram _ b => decide (b.length ≤ 1472)
  | _ => true

end Sys2Proof
end

