-- ==== Sys2Proof/Tests/Slice0.lean ====
section
/-! SUPPORT. The author's own tests: terms that the checks refuse, and for each statement a state and operands that meet its
hypotheses. -/

open Sys2Proof Sys2Proof.Machine

namespace Sys2Proof.Tests

-- one thread for the many small kernel checks of this file
set_option Elab.async false

/-- After RESET with the PLL locked. -/
def b0 : State := { State.reset with tb := { locked := true } }

/-- Registers of s take values. -/
def regs (s : State) (l : List (Nat × Word)) : State := l.foldl (fun s e => s.wr e.1 e.2) s

def st (l : List (Nat × Word)) : State := regs b0 l

/-- With window 0 open to every MID, and every landing on Ethernet port 0. -/
def so (l : List (Nat × Word)) : State :=
  regs { b0 with hst := { wins := [(0, { base := 0, size := 32, valid := true, rmask := 0xFFFFFFFF, wmask := 0xFFFFFFFF })] } }
    ((List.range 4).map (fun h => (Reg.HST_LAND_CFG h, 0xA0000000)) ++ l)

/-- A job of axis 3 on a lane. -/
def J : LaneJob :=
  { axis := 3, cyc := 9, rel := 2000, cfg := 0, rowShift := 0, rowSelf := 0, ulim0 := 0, ulim1 := 0, m := List.replicate 10 0,
    x := List.replicate 6 0, thIn := 0, thOut := 0, posSat := false, velSat := false, curSat := false, injSat := false, learn := {},
    acc := List.replicate 8 {} }

def jobShaped (j : LaneJob) : Bool :=
  j.acc.length == 8 && j.xNew.length == 6 && j.u.length == 2 && j.us.length == 2 && j.w.length == 2

theorem jobShaped_of (j : LaneJob) (h : jobShaped j = true) : j.Shaped := by
  simp only [jobShaped, Bool.and_eq_true, beq_iff_eq] at h
  exact ⟨h.1.1.1.1, h.1.1.1.2, h.1.1.2, h.1.2, h.2⟩

def shaped (s : State) : Bool :=
  s.saf.g.inputs.length == 8 && s.saf.b.inputs.length == 8 && s.saf.g.grps.length == 8 && s.saf.b.grps.length == 8
    && (s.fio.cnt.length == 16 && s.fio.cls.length == 8 && s.fio.flags.length == 8 && s.fio.cond.length == 8 && s.fio.ext.length == 8)
    && s.pwm.all (fun e => e.2.ph.length == 3) && s.law.lanes.all (fun e => (e.2.job.map jobShaped).getD true)

theorem shaped_of (s : State) (h : shaped s = true) : s.Shaped := by
  simp only [shaped, Bool.and_eq_true, beq_iff_eq, List.all_eq_true] at h
  obtain ⟨⟨⟨⟨⟨⟨a, b⟩, c⟩, d⟩, ⟨⟨⟨e, f⟩, i⟩, j⟩, k⟩, g⟩, l⟩ := h
  refine ⟨a, b, c, d, ⟨e, f, i, j, k⟩, g, fun x hx j hj => jobShaped_of j ?_⟩
  have := l x hx
  rw [hj] at this
  exact this

/-- An image of three sections of types 5, 6 and 7 (R362 to R365): header, DIGEST, section table and sections. -/
def img : Table Byte :=
  let at_ := fun (o : Nat) (l : List Byte) => ((List.range l.length).map (fun i => (o + i, (l[i]?).getD 0))).filter (fun e => e.2 != 0xFF)
  at_ 0 [0x50, 0x4C, 0x45, 0x55, 0x01, 0x00, 0x03, 0x00, 0x3C, 0x01, 0x00, 0x00, 0x64, 0x25, 0x00, 0x00]
    ++ at_ 28 [0x63, 0xEB, 0x81, 0xA5, 0xB9, 0x94, 0xBE, 0xDA, 0xE7, 0x79, 0x25, 0x68, 0x63, 0x4F, 0xEB, 0x9A, 0x7C, 0xDF, 0x6F, 0x55]
    ++ at_ 48 [0x16, 0x96, 0x74, 0xAE, 0x1A, 0x01, 0x97, 0x26, 0x7B, 0xC2, 0x19, 0xBE, 0x70, 0x54, 0x32, 0x26]
    ++ at_ 256 [0x05, 0x00, 0x00, 0x00, 0x30, 0x01, 0x00, 0x00, 0x04, 0x00, 0x00, 0x00, 0x2E, 0x2F, 0x9A, 0x16, 0x06, 0x00, 0x00, 0x00, 0x34, 0x01, 0x00, 0x00]
    ++ at_ 280 [0x04, 0x00, 0x00, 0x00, 0xC0, 0x80, 0x2F, 0x04, 0x07, 0x00, 0x00, 0x00, 0x38, 0x01, 0x00, 0x00, 0x04, 0x00, 0x00, 0x00, 0x6D, 0x27, 0xE8, 0x63]
    ++ at_ 304 [0x05, 0x00, 0x00, 0x00, 0x06, 0x00, 0x00, 0x00, 0x13, 0x00, 0x00, 0x00]

/-- s in mode m, flight n, with the image in slot A. -/
def boot (m n : Nat) : State :=
  { st [(Reg.SYS_MODE, word m), (Reg.SYS_BOOT, mkFld 31 28 n)] with pv := { flash := img } }

/-- Registers that the image rules need in the least image. -/
def ruled (s : State) : State :=
  regs s ([(Reg.SPR_CFG, 0x01010100), (Reg.FIO_DO_CFG, 1)] ++ (List.range 16).map (fun n => (Reg.FIO_DI_CFG n, 0x00010001))
    ++ (List.range 8).map (fun n => (Reg.FIO_DO_CH_CFG n, 0x00000100)))

def tests18 : List (Bool × Nat) := List.replicate 18 (true, 0)

theorem pair_of {α β : Type} (p : α × β) (a : α) (h : p.1 = a) : p = (a, p.2) := by
  cases p
  cases h
  rfl

def cores9 : List Bool := List.replicate 9 true

/-- Three lanes are out. -/
def lanesOut : State := { boot 4 5 with law := { lanes := (List.range 3).map (fun n => (n, { state := 4 })) } }

def tested : State := (((ruled (boot 4 5)).coreChecks cores9).laneTests tests18).1

/-- A CONFIGURE with the least image reaches the end of flight 5. -/
theorem passes_tested : tested.flight5.1 = none ∧ tested.flight5.2.mode = mCONFIGURE := by decide +kernel

theorem passes_maintained : (ruled (boot 4 15)).flight5.1 = none ∧ (ruled (boot 4 15)).flight5.2.mode = mCONFIGURE
    ∧ (ruled (boot 4 15)).flight5.2.sys.stopPend = false := by decide +kernel

/-- Without thresholds the rules of the SPR block stop it. -/
theorem fails_maintained : (boot 4 15).flight5.1 = some (0x15, 0x4004) ∧ (boot 4 15).flight5.2.mode = mCONFIGURE
    ∧ (boot 4 15).flight5.2.sys.stopPend = false ∧ (boot 4 15).flight5.2.sys.guard = false := by decide +kernel

/-- A safety channel that runs, its inputs closed and tested, its groups in state g. -/
def chan (g : Nat) : SafChan :=
  { run := true, grps := List.replicate 8 { state := g },
    inputs := List.replicate 8 { a := { filt := some true }, b := { filt := some true }, tested := true } }

/-- In RUN, with safety unit x. -/
def sf (x : SafBlock) : State := { st [(Reg.SYS_MODE, 7)] with saf := x }

/-- A job of the scheduler in state x. -/
def tj (flow : Option Nat) (res : Word) (x : JobState) : TsuJob :=
  { handle := 256, level := 6, flow := flow, seq := 0, notify := false, arg := 0, entry := 0, res := res, mid := 16, at' := 0, due := 0, st := x }

/-- Core 0 active, powered, and admitting every level. -/
def ts (j : List TsuJob) : State :=
  { so [(Reg.TSU_PWR, 1), (Reg.TSU_CORE_CFG 0, 0x007F0001)] with tsu := { jobs := j } }

/-- Segment 0 sends in segment cycle c, the device's cycle, with one node slot at tick 1000. -/
def sg (c : Word) (l : List (Nat × Word)) : State :=
  let s := so ([(Reg.TRN_SCFG 0, 0x80000008), (Reg.TRN_SOFS 0, 0x21000000), (Reg.TRN_SSTAT 0, 0x60000000), (Reg.TRN_PCFG 0 0, 0x80000000),
    (Reg.TRN_SLOT 0 0, 0x440003E8)] ++ l)
  { s with tb := { locked := true, cyc := c }, trn := { segs := [(0, { cyc := some c })] } }

/-- What segment 0 holds in sg. -/
def sgx (c : Word) (l : List (Nat × Word)) (x : SegCtx) : State := { sg c l with trn := { segs := [(0, x)] } }

/-- A frame whose copy code is ok, at tick 1000. -/
def fr (b : List Byte) : RxFrame := { arrival := 32000, codeOk := true, bytes := b }

/-- A sync of cycle c in segment 0 with HID 0. -/
def syncFr (c : Nat) : RxFrame := fr (frameBytes 1 63 0 0x3FF c 0 (List.replicate 64 0))

/-- Lane 0 holds job j; the first word of program 0 is w. -/
def lj (w : Word) (j : LaneJob) : State := { st [(Reg.SYS_MODE, 7), (Reg.GAL_PROG 0, w)] with law := { lanes := [(0, { job := some j })] } }

/-- Core 0 runs. -/
def mx : State := so [(Reg.TSU_CORE_STAT 0, 0x10000000)]

/-- Core 0 runs, and no window is open. -/
def nomx : State := st [(Reg.TSU_CORE_STAT 0, 0x10000000)]

/-- Before the Mx instruction x1 to x3 were written. -/
def X0 (w : Word) : MxCtx := { xs := [(1, 3), (2, 5), (3, 0x20000000)], pc := 0x1000, word := w, gap := 0, ends := 0, entry := false }

/-- A message b with operation op from landing 0 waits on channel 0; channel 1 goes back. -/
def up (mode op : Nat) (b : List Byte) : State :=
  let s := so [(Reg.SYS_MODE, word mode), (Reg.MBX_CH_BIND 0, 0x80100000), (Reg.MBX_CH_BIND 1, 0x80000010), (Reg.MBX_CH_STAT 0, 0x80000000),
    (Reg.MBX_CH_DESCLO 0, 0x100), (Reg.MBX_CH_DESCHI 0, word (65536 * op))]
  { s with hst := { s.hst with posted := [0] } }.hallWrite 0x100 (byte op :: b)

def ua (cut : Option (Nat × Bool)) : UpdAns := ⟨1, 0, 1, cut⟩

/-- The pair unit is on and its link up. -/
def pr (mode role : Nat) (p : PairBlock) : State :=
  { st [(Reg.SYS_MODE, word mode), (Reg.PAIR_CFG, 0x80000000), (Reg.PAIR_STAT, mkFld 31 29 role ||| bitW 28)] with pair := p }

/-- In STANDBY, port 0A on and HID 1. -/
def listener : State := regs (pr 10 2 {}) [(Reg.TRN_PCFG 0 0, 0x80000000), (Reg.TRN_SCFG 0, 0x81000000)]

/-- A Zhevu request with one command of operation op, as the data of a datagram; and the datagram, untagged, to port 1. -/
def zd (op : Byte) : List Byte := [86, 90, 1, 0, 7, 0, 3, 1, op, 0, 1, 0, 0, 0, 0, 32]
def zf (op : Byte) : List Byte :=
  [2, 0, 0, 0, 0, 1, 2, 0, 0, 0, 0, 9, 8, 0, 69, 0, 0, 44, 0, 0, 0, 0, 64, 17, 102, 191, 10, 0, 0, 2, 10, 0, 0, 1, 19, 136, 19, 137, 0, 24, 0, 0] ++ zd op

/-- Its sender, and what the port finds in it. -/
def zp : ZPeer := ⟨0x0A000002, 5000, [2, 0, 0, 0, 0, 9]⟩
def zu (op : Byte) : Udp := ⟨zp.ip, zp.port, zp.mac, zd op⟩

/-- Landing 3 is on Ethernet port 1, its peer is the sender of zf, and it holds l. -/
def zs (l : Land) : State :=
  let s := so [(Reg.HST_ETH_CFG 1, 0x80001389), (Reg.HST_ETH_IP4 1, 0x0A000001),
    (Reg.HST_LAND_CFG 3, 0xB0000000), (Reg.HST_LAND_PEER 3, 0x0A000002), (Reg.HST_LAND_PPORT 3, 5000)]
  { s with hst := { s.hst with lands := [(3, l)] } }

/-- As zs, with no window open. -/
def zn : State := { zs { peer := some zp } with hst := { lands := [(3, { peer := some zp })] } }

/-- A datagram for the peer; the commands of the request. -/
def zq (s : State) : List Byte → Datagram := Datagram.mk (s.rd (Reg.HST_ETH_IP4 1)).toNat (s.fld (Reg.HST_ETH_CFG 1) 15 0) zp
def zcs (op : Byte) : List ZCmd :=
  zCmds (leBytes 4 ((zs {}).resv 658).toNat ++ leBytes 4 ((zs {}).resv 659).toNat) (byteAt (zu op).data 7) ((zu op).data.drop 8)

/-- The last chunk of a checkpoint of zeros. -/
def cpLast : List Byte := pairFrame 2 63 (List.replicate 1024 0)

/-- Its first 63 chunks, with the word c as the CRC. -/
def cpHead (c : Nat) : List Byte := List.replicate 60 0 ++ (leBytes 4 c ++ List.replicate 64448 0)

/-- The CRC-32 of the checkpoint past its header. -/
def cpCrc : Nat := crc32 (List.replicate 64448 0 ++ List.replicate 1024 0)

theorem cpCrc_lt : cpCrc < 2 ^ 32 := crc32_lt _

/-- A frame of the partner link carries the CRC of what stands before it. -/
theorem pairFrame_crc (t q : Nat) (l : List Byte) :
    crc32 ((pairFrame t q l).take (8 + l.length)) = leAt (pairFrame t q l) (8 + l.length) 4 := by
  have h : ([byte t, 1] ++ leBytes 2 l.length ++ leBytes 4 q ++ l).length = 8 + l.length := by
    simp only [List.length_append, leBytes_length, List.length_cons, List.length_nil]
  have e : ∀ b : List Byte, b.length = 8 + l.length →
      crc32 ((b ++ leBytes 4 (crc32 b)).take (8 + l.length)) = leAt (b ++ leBytes 4 (crc32 b)) (8 + l.length) 4 := by
    intro b hb
    rw [← hb, List.take_left, leAt_append_right _ _ _ _ (le_refl _), Nat.sub_self]
    have := leAt_leBytes 4 (crc32 b) [] (crc32_lt _)
    rw [List.append_nil] at this
    exact this.symm
  exact e _ h

theorem cpLast_crc : crc32 (cpLast.take (8 + 1024)) = leAt cpLast (8 + 1024) 4 := by
  have := pairFrame_crc 2 63 (List.replicate 1024 0)
  rw [List.length_replicate] at this
  exact this

theorem cpLast_data : (cpLast.drop 8).take 1024 = List.replicate 1024 0 := by decide +kernel

theorem cpHead_length (c : Nat) : (cpHead c).length = 64512 := by
  simp only [cpHead, List.length_append, List.length_replicate, leBytes_length]

theorem cpHead_drop (c : Nat) (l : List Byte) : (cpHead c ++ l).drop 64 = List.replicate 64448 0 ++ l := by
  have h : ∀ a b : List Byte, a.length = 60 → b.length = 4 → ∀ m, (a ++ (b ++ m)).drop 64 = m := by
    intro a b ha hb m
    rw [← List.append_assoc, List.drop_append_of_le_length (by simp; omega), List.drop_of_length_le (by simp; omega), List.nil_append]
  rw [cpHead, List.append_assoc, List.append_assoc]
  exact h _ _ (List.length_replicate ..) (leBytes_length ..) _

theorem cpHead_crc (c : Nat) (l : List Byte) (h : c < 256 ^ 4) : leAt (cpHead c ++ l) 60 4 = c := by
  rw [cpHead, List.append_assoc, List.append_assoc, leAt_append_right _ _ _ _ (by rw [List.length_replicate]), List.length_replicate,
    Nat.sub_self]
  exact leAt_leBytes 4 c _ h

theorem cp_good : crc32 ((cpHead cpCrc ++ (cpLast.drop 8).take 1024).drop 64) = leAt (cpHead cpCrc ++ (cpLast.drop 8).take 1024) 60 4 := by
  rw [cpHead_crc _ _ cpCrc_lt, cpHead_drop, cpLast_data, cpCrc]

theorem cp_bad : crc32 ((cpHead (cpCrc ^^^ 1) ++ (cpLast.drop 8).take 1024).drop 64)
    ≠ leAt (cpHead (cpCrc ^^^ 1) ++ (cpLast.drop 8).take 1024) 60 4 := by
  rw [cpHead_crc _ _ (Nat.xor_lt_two_pow (n := 32) cpCrc_lt (by norm_num)), cpHead_drop, cpLast_data]
  intro h
  have h2 : cpCrc ^^^ cpCrc = cpCrc ^^^ (cpCrc ^^^ 1) := congrArg (cpCrc ^^^ ·) h
  rw [Nat.xor_self, ← Nat.xor_assoc, Nat.xor_self, Nat.zero_xor] at h2
  exact absurd h2 (by decide)

theorem wit_StepRunsFront :
    (∃ (s : State) (c : Instr) (rest : List Instr), s.pending = c :: rest) :=
  ⟨{ st [] with pending := [.pllLock, .freezeEnd] }, .pllLock, [.freezeEnd], by decide +kernel⟩

theorem wit_IdleTick :
    (∃ (s : State), s.pending = [] ∧ s.tb.running = true ∧ s.tb.ctick + 1 < s.tb.len ∧ s.tb.frac < 2 ^ 32 ∧ s.tb.ns < 1000000000 ∧ 0 ≤ s.tb.net + s.inc32 ∧ s.tb.net + s.inc32 < ((2 ^ 64 * secU : Nat) : Int))
    ∧ (∃ (s : State), s.pending = [] ∧ s.tb.running = false) :=
  ⟨⟨{ st [] with tb := { locked := true, tick := 12498, ctick := 12498, ns := 999999999, frac := 4294967295 } }, by decide +kernel⟩,
   ⟨State.reset, by decide +kernel⟩⟩

theorem wit_CanonicalKept :
    (∃ (s : State), s.Canonical) :=
  ⟨{ st [(Reg.SYS_MODE, 7)] with pending := [.cycleStart] }, by constructor <;> decide +kernel⟩

theorem wit_RegisterAccessGate :
    (∃ (s : State) (m : Fin 32) (a : Word), s.issues m a.toNat true = true ∧ a.toNat % 4 = 0 ∧ 0x40000000 ≤ a.toNat ∧ a.toNat < 0x40100000 ∧ s.allowed m a.toNat 4 true = false)
    ∧ (∃ (s : State) (m : Fin 32) (a : Word), s.issues m a.toNat true = true ∧ a.toNat % 4 = 0 ∧ inRegion a.toNat 4 = false ∧ s.bit Reg.PRT_DENY 31 = false)
    ∧ (∃ (s : State) (m : Fin 32) (a : Word), s.issues m a.toNat true = false)
    ∧ (∃ (m : Fin 32) (w : Bool), (m.val = 14 ∨ m.val = 15 ∨ 20 ≤ m.val ∨ (m.val = 12 ∧ w = true))) :=
  ⟨⟨b0, 1, 0x400FFFFC, by decide +kernel⟩,
   ⟨b0, 0, 0x40140000, by decide +kernel⟩,
   ⟨b0, 16, 0x40000000, by decide +kernel⟩,
   ⟨12, true, by decide +kernel⟩⟩

theorem wit_ShapeKept :
    (∃ (s : State), s.Shaped) :=
  ⟨{ st [] with law := { lanes := [(0, { job := some J })] } }, shaped_of _ (by decide +kernel)⟩

theorem wit_ReferenceAndHalt :
    (∃ (s : State), s.tb.locked = false ∧ s.mode ≠ mOFF)
    ∧ (∃ (s : State), s.tb.lost = false ∧ s.mode ≠ mOFF)
    ∧ (∃ (s : State), s.tb.lost = true)
    ∧ (∃ (s : State), s.tb.halted = false) :=
  ⟨⟨State.reset, by decide +kernel⟩,
   ⟨b0, by decide +kernel⟩,
   ⟨{ st [] with tb := { locked := true, lost := true } }, by decide +kernel⟩,
   ⟨b0, by decide +kernel⟩⟩

theorem wit_NetworkTimeSetting :
    (∃ (s : State) (m : Fin 32) (v : Word), s.may m Reg.TB_SNAP true ∧ wBit v 31 = true)
    ∧ (∃ (s : State) (m : Fin 32) (v : Word), s.may m Reg.TB_CTRL true ∧ wBit v 31 = true ∧ (s.rd Reg.TB_SET_NS).toNat < 1000000000)
    ∧ (∃ (s : State) (m : Fin 32) (v : Word), s.may m Reg.TB_CTRL true ∧ wBit v 31 = true ∧ wBit v 30 = false ∧ wBit v 29 = false ∧ 1000000000 ≤ (s.rd Reg.TB_SET_NS).toNat)
    ∧ (∃ (s : State) (m : Fin 32) (v : Word), s.may m Reg.TB_CTRL true ∧ wBit v 31 = false ∧ wBit v 30 = true)
    ∧ (∃ (s : State) (m : Fin 32) (v : Word), s.may m Reg.TB_CTRL true ∧ wBit v 31 = false ∧ wBit v 30 = false ∧ wBit v 29 = true) :=
  ⟨⟨so [], 16, 0x80000000, by decide +kernel⟩,
   ⟨so [(Reg.TB_SET_NS, 999999999)], 16, 0x80000000, by decide +kernel⟩,
   ⟨so [(Reg.TB_SET_NS, 1000000000)], 16, 0x80000000, by decide +kernel⟩,
   ⟨so [], 16, 0x40000000, by decide +kernel⟩,
   ⟨so [], 16, 0x20000000, by decide +kernel⟩⟩

theorem wit_ClockServo :
    (∃ (s : State) (m : Fin 32), s.may m Reg.TB_OFS_FRAC true ∧ s.fld Reg.TB_SRV_CFG 31 30 = 1 ∧ s.mode ≠ mMINIMAL)
    ∧ (∃ (s : State) (m : Fin 32), s.may m Reg.TB_OFS_FRAC true ∧ s.fld Reg.TB_SRV_CFG 31 30 = 1 ∧ s.mode = mMINIMAL)
    ∧ (∃ (s : State) (m : Fin 32), s.may m Reg.TB_OFS_FRAC true ∧ s.fld Reg.TB_SRV_CFG 31 30 ≠ 1)
    ∧ (∃ (s : State) (o : Int) (rest : List Int), s.mode ≠ mMINIMAL ∧ s.tb.meas = o :: rest)
    ∧ (∃ (s : State), s.mode ≠ mMINIMAL ∧ s.fld Reg.TB_SRV_CFG 31 30 ≠ 0 ∧ s.fld Reg.TB_SRV_CFG 15 0 ≠ 0 ∧ s.bit Reg.TB_STAT 27 = false ∧ s.tb.measAt + s.fld Reg.TB_SRV_CFG 15 0 * 1048576 ≤ s.tb.tick) :=
  ⟨⟨so [(Reg.SYS_MODE, 7), (Reg.TB_SRV_CFG, 0x40000000)], 16, by decide +kernel⟩,
   ⟨so [(Reg.SYS_MODE, 3), (Reg.TB_SRV_CFG, 0x40000000)], 16, by decide +kernel⟩,
   ⟨so [], 16, by decide +kernel⟩,
   ⟨{ st [(Reg.TB_SRV_CFG, 0x40000000)] with tb := { locked := true, meas := [5, 6] } }, 5, [6], by decide +kernel⟩,
   ⟨{ st [(Reg.TB_SRV_CFG, 0x40000001)] with tb := { locked := true, tick := 1048576 } }, by decide +kernel⟩⟩

theorem wit_PpsAndTransmitStamps :
    (∃ (s : State) (rising : Bool), s.bit Reg.TB_PPS_CFG 31 = true ∧ s.bit Reg.TB_PPS_CFG 30 = !rising ∧ (∀ l, s.tb.lastPps = some l → l + 360000000 ≤ s.tb.tick))
    ∧ (∃ (s : State) (rising : Bool) (l : Nat), s.bit Reg.TB_PPS_CFG 31 = true ∧ s.bit Reg.TB_PPS_CFG 30 = !rising ∧ s.tb.lastPps = some l ∧ s.tb.tick < l + 360000000)
    ∧ (∃ (s : State) (rising : Bool) (stable : Bool), (s.bit Reg.TB_PPS_CFG 31 = false ∨ s.bit Reg.TB_PPS_CFG 30 = rising ∨ stable = false))
    ∧ (∃ (s : State) (m : Fin 32) (e : Fin 2) (v : Word), s.may m (Reg.TB_ETH_TXQPOP e) true ∧ wBit v 0 = true) :=
  ⟨⟨{ st [(Reg.TB_PPS_CFG, 0xC0000000)] with tb := { locked := true, tick := 360000000, lastPps := some 0 } }, false, by decide +kernel, by decide +kernel, fun l h => by cases Option.some.inj (show some 0 = some l from h); decide +kernel⟩,
   ⟨{ st [(Reg.TB_PPS_CFG, 0xC0000000)] with tb := { locked := true, tick := 359999999, lastPps := some 0 } }, false, 0, by decide +kernel⟩,
   ⟨b0, false, true, by decide +kernel⟩,
   ⟨so [], 16, 1, 1, by decide +kernel⟩⟩

theorem wit_ResetSources :
    (∃ (s : State), s.mode ≠ mOFF ∧ s.mode ≠ mRESET)
    ∧ (∃ (s : State), s.mode ≠ mOFF ∧ s.mode ≠ mRESET ∧ s.sys.wdog = true)
    ∧ (∃ (s : State), s.mode ≠ mOFF ∧ s.mode ≠ mRESET ∧ s.tb.lost = true ∧ mBOOT ≤ s.mode)
    ∧ (∃ (s : State), s.mode = mRESET)
    ∧ (∃ (s : State), s.mode ≠ mOFF)
    ∧ (∃ (s : State), s.mode = mOFF) :=
  ⟨⟨st [(Reg.SYS_MODE, 2)], by decide +kernel⟩,
   ⟨{ st [(Reg.SYS_MODE, 2)] with sys := { wdog := true } }, by decide +kernel⟩,
   ⟨{ st [(Reg.SYS_MODE, 2)] with tb := { lost := true } }, by decide +kernel⟩,
   ⟨b0, by decide +kernel⟩,
   ⟨b0, by decide +kernel⟩,
   ⟨st [(Reg.SYS_MODE, 0)], by decide +kernel⟩⟩

theorem wit_ResetEndsInBoot :
    (∃ (s : State), s.mode = mRESET ∧ s.sys.active = 0 ∧ s.tb.running = true)
    ∧ (∃ (s : State), s.mode = mRESET ∧ (s.sys.active ≠ 0 ∨ s.tb.running = false)) :=
  ⟨⟨b0, by decide +kernel⟩,
   ⟨State.reset, by decide +kernel⟩⟩

theorem wit_BootFlights1To3 :
    (∃ (s : State), s.mode = mBOOT ∧ s.flight = 1 ∧ s.sys.guard = false)
    ∧ (∃ (s : State), s.mode = mBOOT ∧ s.flight = 2 ∧ s.headerOk s.slot = true)
    ∧ (∃ (s : State) (f : Bool), s.mode = mBOOT ∧ s.flight = 2 ∧ s.sys.guard = false ∧ (f && s.headerOk s.slot) = false)
    ∧ (∃ (s : State) (signed : Bool), s.mode = mBOOT ∧ s.flight = 3 ∧ s.flight3 s.slot = (none, signed))
    ∧ (∃ (s : State) (c : Nat) (d : Nat) (g : Bool), s.mode = mBOOT ∧ s.flight = 3 ∧ s.sys.guard = false ∧ s.flight3 s.slot = (some (c, d), g)) :=
  ⟨⟨boot 2 1, by decide +kernel⟩,
   ⟨boot 2 2, by decide +kernel⟩,
   ⟨boot 2 2, false, by decide +kernel⟩,
   ⟨boot 2 3, false, by decide +kernel⟩,
   ⟨{ boot 2 3 with pv := { flash := Table.set (fun _ => 0xFF) img 312 0 } }, 3, 2, false, by decide +kernel⟩⟩

theorem wit_BootFlights4And5 :
    (∃ (s : State) (u : State), s.mode = mCONFIGURE ∧ s.flight = 4 ∧ (∀ x ∈ s.sections s.slot, knownType x.type = true) ∧ s.loadAllSections s.slot (s.sections s.slot) = (none, u) ∧ u.mode = mCONFIGURE)
    ∧ (∃ (s : State) (x : Section), s.mode = mCONFIGURE ∧ s.flight = 4 ∧ s.sys.guard = false ∧ (s.sections s.slot).find? (fun x => !knownType x.type) = some x)
    ∧ (∃ (s : State) (u : State) (l : List (Bool × Nat)) (cores : List Bool), s.mode = mCONFIGURE ∧ s.flight = 5 ∧ 16 ≤ ((s.coreChecks cores).laneTests l).2 ∧ ((s.coreChecks cores).laneTests l).1.flight5 = (none, u) ∧ u.mode = mCONFIGURE)
    ∧ (∃ (s : State) (u : State) (l : List (Bool × Nat)) (cores : List Bool), s.mode = mCONFIGURE ∧ s.flight = 5 ∧ u = ((s.coreChecks cores).laneTests l).1 ∧ ((s.coreChecks cores).laneTests l).2 < 16 ∧ u.sys.guard = false ∧ u.mode = mCONFIGURE)
    ∧ (∃ (s : State) (u : State), s.mode = mCONFIGURE ∧ s.flight = 15 ∧ u.mode = mCONFIGURE ∧ u.sys.stopPend = false ∧ s.flight5 = (none, u))
    ∧ (∃ (s : State) (u : State) (c : _) (d : _), s.mode = mCONFIGURE ∧ s.flight = 15 ∧ u.mode = mCONFIGURE ∧ u.sys.stopPend = false ∧ s.flight5 = (some (c, d), u) ∧ u.sys.guard = false) :=
  ⟨⟨boot 4 4, ((boot 4 4).loadAllSections 0 ((boot 4 4).sections 0)).2, by and_intros; (on_goal 4 => exact pair_of _ _ (by decide +kernel)); all_goals decide +kernel⟩,
   ⟨{ boot 4 4 with pv := { flash := Table.set (fun _ => 0xFF) img 272 8 } }, (State.sections { boot 4 4 with pv := { flash := Table.set (fun _ => 0xFF) img 272 8 } } 0 |>.find? (fun x => !knownType x.type)).get (by decide +kernel), by and_intros <;> first | decide +kernel | exact (Option.some_get _).symm⟩,
   ⟨ruled (boot 4 5), tested.flight5.2, tests18, cores9, by decide +kernel, by decide +kernel, by decide +kernel, pair_of _ _ passes_tested.1, passes_tested.2⟩,
   ⟨lanesOut, ((lanesOut.coreChecks cores9).laneTests tests18).1, tests18, cores9, by and_intros; (on_goal 3 => rfl); all_goals decide +kernel⟩,
   ⟨ruled (boot 4 15), (ruled (boot 4 15)).flight5.2, by decide +kernel, by decide +kernel, passes_maintained.2.1, passes_maintained.2.2, pair_of _ _ passes_maintained.1⟩,
   ⟨boot 4 15, (boot 4 15).flight5.2, 0x15, 0x4004, by decide +kernel, by decide +kernel, fails_maintained.2.1, fails_maintained.2.2.1, pair_of _ _ fails_maintained.1, fails_maintained.2.2.2⟩⟩

theorem wit_RequestsOfMid0 :
    (∃ (s : State) (v : Word), wBit v 31 = true ∧ s.mode ≠ mOFF ∧ s.mode ≠ mRESET ∧ wFld v 15 8 = 0xC3 ∧ s.anyReleased = false)
    ∧ (∃ (s : State) (v : Word), wBit v 31 = true ∧ s.mode ≠ mOFF ∧ s.mode ≠ mRESET ∧ (wFld v 15 8 ≠ 0xC3 ∨ s.anyReleased = true) ∧ wBit v 30 = false ∧ wBit v 29 = false)
    ∧ (∃ (s : State) (v : Word), wBit v 31 = false ∧ wBit v 30 = true ∧ wBit v 29 = false ∧ wFld v 3 0 = mMAINTENANCE ∧ (s.mode = mLISTEN ∨ s.mode = mINTEGRATE ∨ s.mode = mSTANDBY ∨ (s.mode = mRUN ∧ s.groupOn = false)) ∧ s.sys.pend ≠ some mSAFESTOP ∧ s.sys.pend ≠ some mDEGRADED)
    ∧ (∃ (s : State) (v : Word), wBit v 31 = false ∧ wBit v 30 = true ∧ wBit v 29 = false ∧ wFld v 3 0 = mMAINTENANCE ∧ s.mode = mRUN ∧ s.groupOn = true)
    ∧ (∃ (v : Word), wBit v 31 = false ∧ wBit v 30 = true ∧ wBit v 29 = false ∧ wFld v 3 0 ≠ mMAINTENANCE ∧ wFld v 3 0 ≠ mLISTEN)
    ∧ (∃ (s : State) (v : Word), wBit v 31 = false ∧ wBit v 30 = true ∧ wBit v 29 = false ∧ wFld v 3 0 = mLISTEN ∧ s.mode = mMAINTENANCE ∧ s.sys.pend ≠ some mSAFESTOP ∧ s.sys.pend ≠ some mDEGRADED)
    ∧ (∃ (v : Word), wBit v 31 = false ∧ wBit v 30 = false ∧ wBit v 29 = true)
    ∧ (∃ (s : State), s.mode = mRUN ∧ 60000 ≤ s.runMs ∧ s.sys.guard = false)
    ∧ (∃ (s : State), s.sys.attRetry = true ∧ s.sys.guard = false)
    ∧ (∃ (s : State) (m : Fin 32), m ≠ 0 ∧ s.may m Reg.SYS_CTRL true) :=
  ⟨⟨st [(Reg.SYS_MODE, 5)], 0x8000C300, by decide +kernel⟩,
   ⟨st [(Reg.SYS_MODE, 5)], 0x8000C200, by decide +kernel⟩,
   ⟨st [(Reg.SYS_MODE, 7)], 0x4000000B, by decide +kernel⟩,
   ⟨{ st [(Reg.SYS_MODE, 7)] with saf := { g := { run := true, grps := List.replicate 8 { state := 3 } } } }, 0x4000000B, by decide +kernel⟩,
   ⟨0x40000006, by decide +kernel⟩,
   ⟨st [(Reg.SYS_MODE, 11)], 0x40000005, by decide +kernel⟩,
   ⟨0x20000000, by decide +kernel⟩,
   ⟨{ st [(Reg.SYS_MODE, 7)] with tb := { locked := true, tick := 24000000000 } }, by decide +kernel⟩,
   ⟨{ st [] with sys := { attRetry := true } }, by decide +kernel⟩,
   ⟨so [], 16, by decide +kernel⟩⟩

theorem wit_NvWriteGuard :
    (∃ (s : State) (m : Fin 32) (n : Fin 2048), s.may m (Reg.PREG_W n) true ∧ (m = 0 ∨ 512 ≤ n.val) ∧ s.sys.guard = false ∧ n.val ≠ 64 ∧ (n.val < 80 ∨ 208 ≤ n.val))
    ∧ (∃ (s : State) (m : Fin 32) (n : Fin 2048), s.may m (Reg.PREG_W n) true ∧ (m = 0 ∨ 512 ≤ n.val) ∧ s.sys.guard = true)
    ∧ (∃ (s : State) (m : Fin 32) (n : Fin 2048), s.may m (Reg.PREG_W n) true ∧ m ≠ 0 ∧ n.val < 512)
    ∧ (∃ (s : State), s.mode = mRESET ∧ wBit s.sys.active 30 = true)
    ∧ (∃ (s : State), (s.mode ≠ mRESET ∨ wBit s.sys.active 30 = false)) :=
  ⟨⟨b0, 0, 79, by decide +kernel⟩,
   ⟨{ b0 with sys := { guard := true } }, 0, 2047, by decide +kernel⟩,
   ⟨so [], 16, 511, by decide +kernel⟩,
   ⟨{ st [] with sys := { active := 0x40000000 } }, by decide +kernel⟩,
   ⟨st [(Reg.SYS_MODE, 2)], by decide +kernel⟩⟩

theorem wit_AccessCodes :
    (∃ (s : State) (m : Fin 32) (a : Word) (r : RegRow), s.issues m a.toNat true = true ∧ s.busCheck m a.toNat 4 true = none ∧ regRow? a.toNat = some r ∧ (m = 0 ∨ r.lk &&& r.writable = 0) ∧ (a.toNat / 65536 = 0x4000 ∧ a.toNat ≠ Reg.SYS_CTRL ∨ a.toNat / 65536 = 0x4001 ∧ a.toNat ∉ [Reg.TB_SNAP, Reg.TB_CTRL, Reg.TB_OFS_FRAC, Reg.TB_SRV_CFG, Reg.TB_PPS_CFG, Reg.TB_ETH_TXQPOP 0, Reg.TB_ETH_TXQPOP 1]))
    ∧ (∃ (s : State) (m : Fin 32) (a : Word) (r : RegRow), s.issues m a.toNat true = true ∧ s.busCheck m a.toNat 4 true = none ∧ regRow? a.toNat = some r ∧ m ≠ 0 ∧ a.toNat / 65536 ≠ 0x4020 ∧ r.lk &&& r.writable = r.writable ∧ r.writable ≠ 0)
    ∧ (∃ (s : State) (m : Fin 32) (a : Word), s.busCheck m a.toNat 4 true = none ∧ regRow? a.toNat = none ∧ s.guardRefuses m a.toNat = false) :=
  ⟨⟨so [], 16, 0x40010048, (regRow? 0x40010048).get (by decide +kernel), by and_intros <;> first | decide +kernel | exact (Option.some_get _).symm⟩,
   ⟨so [], 16, 0x40000008, (regRow? 0x40000008).get (by decide +kernel), by and_intros <;> first | decide +kernel | exact (Option.some_get _).symm⟩,
   ⟨b0, 0, 0x40010FFC, by decide +kernel⟩⟩

theorem wit_SafetySampling :
    (∃ (s : State) (bas : Bool), s.Shaped ∧ (s.saf? bas).live = true)
    ∧ (∃ (s : State) (made : Bool), s.fio.vfld ≠ 2 ∧ (s.saf.b.live = false ∨ made = true))
    ∧ (∃ (s : State) (tp1 : Bool), s.Shaped ∧ s.fio.vfld ≠ 2 ∧ s.saf.b.live = true ∧ s.saf.psusp = false ∧ s.saf.tpBad.testBit (if tp1 then 1 else 0) = false)
    ∧ (∃ (s : State), s.fio.vfld = 2)
    ∧ (∃ (s : State) (bas : Bool) (k : Fin 8) (n : Nat), ((s.saf? bas).input k).diffFor = some n ∧ n < (s.saf? bas).discSteps)
    ∧ (∃ (s : State) (bas : Bool) (k : Fin 8) (n : Nat), s.Shaped ∧ (s.saf? bas).live = true ∧ ((s.saf? bas).input k).diffFor = some n ∧ (s.saf? bas).discSteps ≤ n) :=
  ⟨⟨sf { g := chan 0 }, false, shaped_of _ (by decide +kernel), by decide +kernel⟩,
   ⟨b0, true, by decide +kernel⟩,
   ⟨sf { b := chan 0 }, true, shaped_of _ (by decide +kernel), by decide +kernel⟩,
   ⟨{ b0 with fio := { vfld := 2 } }, by decide +kernel⟩,
   ⟨sf { b := { chan 0 with inputs := List.replicate 8 { diffFor := some 399 } } }, true, 7, 399, by decide +kernel⟩,
   ⟨sf { b := { chan 0 with inputs := List.replicate 8 { diffFor := some 400 } } }, true, 7, 400, shaped_of _ (by decide +kernel), by decide +kernel⟩⟩

theorem wit_SafetyGroupStates :
    (∃ (s : State) (bas : Bool) (g : Fin 8), s.Shaped ∧ (s.saf? bas).live = true ∧ (s.saf? bas).rst = false ∧ (s.safGrp bas g).state = gREADY ∧ s.restartOk bas g = true)
    ∧ (∃ (s : State) (bas : Bool), s.Shaped ∧ (s.saf? bas).live = true ∧ (s.saf? bas).rst = true ∧ (s.saf? bas).di.filt = some false)
    ∧ (∃ (s : State) (bas : Bool) (g : Fin 8), s.Shaped ∧ (s.saf? bas).live = true ∧ (s.safGrp bas g).state = gSTO ∧ s.stoRb bas g = false)
    ∧ (∃ (s : State) (bas : Bool) (g : Fin 8), s.Shaped ∧ (s.saf? bas).live = true ∧ (s.safGrp bas g).state = gSS1)
    ∧ (∃ (s : State) (bas : Bool), s.Shaped ∧ (s.saf? bas).live = true ∧ (s.saf? bas).degr = true ∧ s.saf.state = 1)
    ∧ (∃ (s : State) (bas : Bool) (g : Fin 8), s.Shaped ∧ (s.saf? bas).live = true ∧ (s.safGrp bas g).ramp = true)
    ∧ (∃ (s : State) (g : Fin 8), s.Shaped ∧ s.saf.b.live = true ∧ (s.safGrp true g).req = true ∧ (s.safGrp true g).ramp = false ∧ (s.safGrp true g).on = true) :=
  ⟨⟨sf { g := chan 2, b := chan 2, loaded := true }, true, 7, shaped_of _ (by decide +kernel), by decide +kernel⟩,
   ⟨sf { g := { chan 2 with sw := 2048, di := { filt := some false } } }, false, shaped_of _ (by decide +kernel), by decide +kernel⟩,
   ⟨sf { g := chan 5 }, false, 3, shaped_of _ (by decide +kernel), by decide +kernel⟩,
   ⟨sf { b := chan 4 }, true, 3, shaped_of _ (by decide +kernel), by decide +kernel⟩,
   ⟨sf { g := { chan 3 with degr := true }, state := 1 }, false, shaped_of _ (by decide +kernel), by decide +kernel⟩,
   ⟨sf { b := { chan 0 with grps := List.replicate 8 { state := 3, ramp := true } } }, true, 0, shaped_of _ (by decide +kernel), by decide +kernel⟩,
   ⟨sf { b := { chan 0 with grps := List.replicate 8 { state := 3, req := true } } }, 2, shaped_of _ (by decide +kernel), by decide +kernel⟩⟩

theorem wit_SafetyLossFaults :
    (∃ (s : State), s.Shaped ∧ s.saf.g.lost = false ∧ s.saf.g.run = true ∧ s.saf.b.lost = false)
    ∧ (∃ (s : State), s.Shaped ∧ s.saf.g.lost = false ∧ s.saf.g.run = true)
    ∧ (∃ (s : State), s.Shaped ∧ s.saf.b.lost = false ∧ s.saf.b.run = true ∧ s.saf.g.lost = false)
    ∧ (∃ (s : State), s.Shaped ∧ s.saf.b.lost = false ∧ s.saf.b.run = true)
    ∧ (∃ (s : State), s.Shaped ∧ s.saf.rootLost = false ∧ s.saf.b.live = true) :=
  ⟨⟨sf { g := chan 3, b := chan 3 }, shaped_of _ (by decide +kernel), by decide +kernel⟩,
   ⟨sf { g := chan 3, b := chan 3 }, shaped_of _ (by decide +kernel), by decide +kernel⟩,
   ⟨sf { g := chan 3, b := chan 3 }, shaped_of _ (by decide +kernel), by decide +kernel⟩,
   ⟨sf { g := chan 3, b := chan 3 }, shaped_of _ (by decide +kernel), by decide +kernel⟩,
   ⟨sf { g := chan 3, b := chan 3 }, shaped_of _ (by decide +kernel), by decide +kernel⟩⟩

theorem wit_SafetySingleFaults :
    (∃ (s : State), s.Shaped ∧ s.saf.state = 0 ∧ s.fld Reg.SAF_FLT 31 24 = 0 ∧ s.saf.g.live = true ∧ s.saf.loaded = true)
    ∧ (∃ (s : State), s.Shaped ∧ s.saf.state = 0 ∧ s.fld Reg.SAF_FLT 31 24 = 0 ∧ s.saf.g.live = true ∧ s.saf.b.live = true ∧ s.fio.vfld ≠ 2)
    ∧ (∃ (s : State) (g : Fin 8), s.Shaped ∧ s.saf.state = 0 ∧ s.fld Reg.SAF_FLT 31 24 = 0 ∧ s.saf.g.live = true ∧ s.saf.b.live = true ∧ (((s.safGrp false g).state = gRELEASED ∧ (s.safGrp true g).state ≠ gRELEASED) ∨ ((s.safGrp false g).state ≠ gRELEASED ∧ (s.safGrp true g).state = gRELEASED)))
    ∧ (∃ (s : State) (g : Fin 8), s.saf.stob.testBit g = true ∧ s.saf.ovl.testBit g = false ∧ s.fio.vfld = 2)
    ∧ (∃ (s : State) (g : Fin 8), s.Shaped ∧ s.saf.state = 0 ∧ s.fld Reg.SAF_FLT 31 24 = 0 ∧ s.saf.g.live = true ∧ s.saf.b.live = true ∧ s.saf.stob.testBit g = true ∧ s.saf.ovl.testBit g = false ∧ s.fio.vfld ≠ 2) :=
  ⟨⟨sf { g := chan 3, loaded := true }, shaped_of _ (by decide +kernel), by decide +kernel⟩,
   ⟨sf { g := chan 3, b := chan 3 }, shaped_of _ (by decide +kernel), by decide +kernel⟩,
   ⟨sf { g := chan 3, b := chan 5 }, 7, shaped_of _ (by decide +kernel), by decide +kernel⟩,
   ⟨{ b0 with saf := { stob := 128 }, fio := { vfld := 2 } }, 7, by decide +kernel⟩,
   ⟨sf { g := chan 3, b := chan 3, stob := 128 }, 7, shaped_of _ (by decide +kernel), by decide +kernel⟩⟩

theorem wit_SafetySwitches :
    (∃ (s : State) (bas : Bool) (v : BitVec 16), s.Shaped ∧ s.mode = mRESET ∧ (s.saf? bas).reads = [v.toNat] ∧ (s.saf? !bas).reads = [v.toNat, v.toNat] ∧ (s.saf? !bas).sw = v.toNat ∧ v.toNat / 4 % 4 ≠ 3)
    ∧ (∃ (s : State) (bas : Bool) (v : BitVec 16), s.Shaped ∧ s.mode = mRESET ∧ (s.saf? bas).reads.length = 1 ∧ (s.saf? !bas).reads.length = 2 ∧ (s.saf? !bas).sw ≠ v.toNat ∧ s.saf.state = 0 ∧ s.fld Reg.SAF_FLT 31 24 = 0)
    ∧ (∃ (s : State) (bas : Bool), s.mode = mRESET ∧ ((s.saf? bas).reads = [] ∨ ((s.saf? bas).reads.length = 1 ∧ (s.saf? !bas).reads.length < 2)))
    ∧ (∃ (s : State) (bas : Bool) (v : BitVec 16), s.Shaped ∧ (s.saf? bas).live = true ∧ s.saf.swok = true ∧ v.toNat ≠ (s.saf? bas).sw ∧ s.saf.state = 0 ∧ s.fld Reg.SAF_FLT 31 24 = 0)
    ∧ (∃ (s : State) (bas : Bool) (v : BitVec 16), v.toNat = (s.saf? bas).sw) :=
  ⟨⟨{ b0 with saf := { g := { reads := [2052] }, b := { reads := [2052, 2052], sw := 2052 } } }, false, 2052, shaped_of _ (by decide +kernel), by decide +kernel⟩,
   ⟨{ b0 with saf := { g := { reads := [0] }, b := { reads := [0, 0] } } }, false, 1, shaped_of _ (by decide +kernel), by decide +kernel⟩,
   ⟨b0, true, by decide +kernel⟩,
   ⟨sf { b := chan 3, swok := true }, true, 1, shaped_of _ (by decide +kernel), by decide +kernel⟩,
   ⟨b0, false, 0, by decide +kernel⟩⟩

theorem wit_SafeSpeedAndAcks :
    (∃ (s : State) (d : Nat → Int), s.Shaped ∧ s.saf.g.live = true ∧ (∀ a, d a = sgn 48 (wrapN 48 (s.axisRaw a - Table.get (fun _ => 0) s.saf.prevRaw a))))
    ∧ (∃ (s : State), s.saf.g.live = false)
    ∧ (∃ (s : State) (n : Fin 12) (k : Fin 32), s.Shaped ∧ s.saf.g.live = true ∧ s.fld (Reg.TRN_NODE_STAT n k) 31 29 = 4 ∧ (s.node n k).nstat.testBit 4 = true ∧ (∀ p ∈ (s.node n k).sentCnt, p.1 = (s.node n k).sack → p.2 + 8000000 < s.tb.tick)) :=
  ⟨⟨sf { g := chan 3 }, _, shaped_of _ (by decide +kernel), by decide +kernel, fun _ => rfl⟩,
   ⟨b0, by decide +kernel⟩,
   ⟨{ st [(Reg.SYS_MODE, 7), (Reg.TRN_NODE_STAT 11 31, 0x80000000)] with saf := { g := chan 3 }, tb := { locked := true, tick := 8000001 }, trn := { nodes := [(383, { nstat := 16, sack := 3, sentCnt := [(4, 5), (3, 0)] })] } }, 11, 31, shaped_of _ (by decide +kernel), by decide +kernel⟩⟩

theorem wit_FieldFramesAndInputs :
    (∃ (s : State), mRESET < s.mode)
    ∧ (∃ (s : State) (b : Bool), (b = false ∨ s.mode ≤ mRESET))
    ∧ (∃ (s : State), s.bit Reg.FIO_STAT 27 = true)
    ∧ (∃ (s : State), s.bit Reg.FIO_STAT 27 = false)
    ∧ (∃ (s : State) (high : Bool) (v : Bool), s.Shaped ∧ v = (high && s.fio.vfld != 2)) :=
  ⟨⟨st [(Reg.SYS_MODE, 7)], by decide +kernel⟩,
   ⟨b0, true, by decide +kernel⟩,
   ⟨st [(Reg.FIO_STAT, 0x08000000)], by decide +kernel⟩,
   ⟨b0, by decide +kernel⟩,
   ⟨b0, true, true, shaped_of _ (by decide +kernel), by decide +kernel⟩⟩

theorem wit_FieldCommands :
    (∃ (s : State) (m : Fin 32), s.may m Reg.FIO_DO_CMD true)
    ∧ (∃ (s : State) (m : Fin 32), s.may m Reg.FIO_DO_SET true)
    ∧ (∃ (s : State) (m : Fin 32), s.may m Reg.FIO_DO_CLR true)
    ∧ (∃ (s : State) (m : Fin 32), s.may m Reg.FIO_DO_UNLATCH true)
    ∧ (∃ (s : State) (m : Fin 32) (v : Word) (c : Instr), s.may m Reg.FIO_CTRL true ∧ (c = .fioResume m v ∨ c = .fioReen m v)) :=
  ⟨⟨so [], 16, by decide +kernel⟩,
   ⟨so [], 16, by decide +kernel⟩,
   ⟨so [], 16, by decide +kernel⟩,
   ⟨so [], 16, by decide +kernel⟩,
   ⟨so [], 16, 0x40000000, .fioReen 16 0x40000000, by decide +kernel⟩⟩

theorem wit_FieldProtection :
    (∃ (s : State) (n : Fin 8), s.Shaped ∧ s.doOn n = true ∧ wFld (s.fio.chCfg (s.fio.master n)) 23 16 ≠ 0)
    ∧ (∃ (s : State) (n : Fin 8), s.Shaped ∧ s.doOn n = true)
    ∧ (∃ (s : State) (n : Fin 8), s.doWait n = true ∧ s.bit Reg.FIO_STAT 29 = false ∧ s.fio.want n = true)
    ∧ (∃ (s : State) (n : Fin 8), s.doOn n = true)
    ∧ (∃ (s : State) (n : Fin 8), s.Shaped ∧ s.fio.want n = false ∧ s.fio.rb.testBit n = false)
    ∧ (∃ (s : State) (n : Fin 8) (k : Fin 4), s.Shaped ∧ ((k = 0 ∧ s.fio.want n = true ∧ wFld (s.fio.chCfg (s.fio.master n)) 30 25 ≠ 0) ∨ (k = 1 ∧ s.fio.want n = false ∧ wBit (s.fio.chCfg (s.fio.master n)) 31 = true ∧ s.fio.master n = n.val) ∨ (k = 2 ∧ s.fio.want n = false ∧ s.fio.rb.testBit n = true ∧ s.fio.driver n = none) ∨ (k = 3 ∧ s.fio.want n = false ∧ s.fio.rb.testBit n = true ∧ s.fio.driver n ≠ none)))
    ∧ (∃ (s : State), s.Shaped) :=
  ⟨⟨{ st [(Reg.FIO_DO_CH_STAT 7, 0x80000000)] with fio := { cfg := List.replicate 26 0xFFFFFFFF } }, 7, shaped_of _ (by decide +kernel), by decide +kernel⟩,
   ⟨st [(Reg.FIO_DO_CH_STAT 7, 0x80000000)], 7, shaped_of _ (by decide +kernel), by decide +kernel⟩,
   ⟨{ st [(Reg.FIO_DO_CH_STAT 7, 0x10000000)] with fio := { cmd := 128 } }, 7, by decide +kernel⟩,
   ⟨st [(Reg.FIO_DO_CH_STAT 0, 0x80000000)], 0, by decide +kernel⟩,
   ⟨b0, 7, shaped_of _ (by decide +kernel), by decide +kernel⟩,
   ⟨{ b0 with fio := { cmd := 1, cfg := List.replicate 26 0xFFFFFFFF } }, 0, 0, shaped_of _ (by decide +kernel), by decide +kernel⟩,
   ⟨b0, shaped_of _ (by decide +kernel)⟩⟩

theorem wit_FieldSupplyAndSilence :
    (∃ (s : State), mRESET < s.mode ∧ (s.bit Reg.FIO_STAT 28 = false ∨ s.bit Reg.FIO_STAT 27 = true))
    ∧ (∃ (s : State), s.mode ≤ mRESET) :=
  ⟨⟨st [(Reg.SYS_MODE, 7)], by decide +kernel⟩,
   ⟨b0, by decide +kernel⟩⟩

theorem wit_PwmStartAndStop :
    (∃ (s : State) (m : Fin 32), s.may m Reg.PWM_START true)
    ∧ (∃ (s : State) (m : Fin 32), s.may m Reg.PWM_STOP true)
    ∧ (∃ (s : State) (m : Fin 32) (v : Word), s.may m Reg.PWM_LOADALL true ∧ wBit v 0 = true)
    ∧ (∃ (s : State) (m : Fin 32) (v : Word), s.may m Reg.PWM_LOADALL true ∧ wBit v 0 = false) :=
  ⟨⟨so [], 16, by decide +kernel⟩,
   ⟨so [], 16, by decide +kernel⟩,
   ⟨so [], 16, 1, by decide +kernel⟩,
   ⟨so [], 16, 0xFFFFFFFE, by decide +kernel⟩⟩

theorem wit_PwmShadowAndDeadTime :
    (∃ (s : State) (m : Fin 32) (g : Fin 8), s.bit (Reg.PWM_GRP_CFG g) 14 = true ∧ s.may m (Reg.PWM_GRP_SHDW01 g) true)
    ∧ (∃ (s : State) (m : Fin 32) (g : Fin 8), s.bit (Reg.PWM_GRP_CFG g) 14 = true ∧ s.may m (Reg.PWM_GRP_SHDW2 g) true)
    ∧ (∃ (s : State) (m : Fin 32) (g : Fin 8) (b : Bool), s.bit (Reg.PWM_GRP_CFG g) 14 = false ∧ s.may m (if b then Reg.PWM_GRP_SHDW2 g else Reg.PWM_GRP_SHDW01 g) true)
    ∧ (∃ (s : State) (m : Fin 32) (g : Fin 8) (v : Word), s.may m (Reg.PWM_GRP_DT g) true ∧ wFld v 7 0 ≠ 0 ∧ wFld v 7 0 ≤ wFld v 23 16)
    ∧ (∃ (s : State) (m : Fin 32) (g : Fin 8) (v : Word), s.may m (Reg.PWM_GRP_DT g) true ∧ (wFld v 7 0 = 0 ∨ wFld v 23 16 < wFld v 7 0)) :=
  ⟨⟨so [(Reg.PWM_GRP_CFG 7, 0x4000)], 16, 7, by decide +kernel⟩,
   ⟨so [(Reg.PWM_GRP_CFG 7, 0x4000)], 16, 7, by decide +kernel⟩,
   ⟨so [], 16, 7, true, by decide +kernel⟩,
   ⟨so [], 16, 7, 0x00050005, by decide +kernel⟩,
   ⟨so [], 16, 7, 0x00040005, by decide +kernel⟩⟩

theorem wit_PwmCarrier :
    (∃ (s : State) (g : Fin 8) (tick : Nat) (j : Nat), s.Shaped ∧ s.valleyIndex g tick = some j ∧ s.tb.running = true ∧ s.pwmRun g = false ∧ (s.grp g).startPend = true ∧ (s.grp g).startAt < s.tick0 + tick ∧ j % s.pwmN g = 0)
    ∧ (∃ (s : State) (g : Fin 8) (tick : Nat) (j : Nat), s.Shaped ∧ s.valleyIndex g tick = some j ∧ s.tb.running = true ∧ s.pwmRun g = true ∧ ((s.grp g).stopPend = false ∨ s.tick0 + tick ≤ (s.grp g).stopAt))
    ∧ (∃ (s : State) (g : Fin 8) (tick : Nat) (j : Nat), s.Shaped ∧ s.valleyIndex g tick = some j ∧ s.tb.running = true ∧ s.pwmRun g = true ∧ (s.grp g).stopPend = true ∧ (s.grp g).stopAt < s.tick0 + tick)
    ∧ (∃ (s : State) (g : Fin 8) (tick : Nat), s.Shaped ∧ s.pwmRun g = true ∧ s.tb.running = true ∧ (s.grp g).down = false ∧ (s.tick0 + tick) * 32 = (s.grp g).valley + s.halfF g)
    ∧ (∃ (s : State) (g : Fin 8) (tick : Nat), (s.tick0 + tick) * 32 ≠ (s.grp g).valley + s.halfF g)
    ∧ (∃ (s : State) (g : Fin 8) (tick : Nat), (s.tb.running = false ∨ s.valleyIndex g tick = none)) :=
  ⟨⟨{ b0 with pwm := [(0, { startPend := true })] }, 0, 1, 0, shaped_of _ (by decide +kernel), by decide +kernel⟩,
   ⟨{ st [(Reg.PWM_GRP_STAT 0, 0x80000000)] with pwm := [(0, { j := 4 })] }, 0, 0, 5, shaped_of _ (by decide +kernel), by decide +kernel⟩,
   ⟨{ st [(Reg.PWM_GRP_STAT 0, 0x80000000)] with pwm := [(0, { stopPend := true, valley := 32 })] }, 0, 1, 1, shaped_of _ (by decide +kernel), by decide +kernel⟩,
   ⟨{ st [(Reg.PWM_GRP_STAT 0, 0x80000000)] with pwm := [(0, { j := 1 })] }, 0, 0, shaped_of _ (by decide +kernel), by decide +kernel⟩,
   ⟨b0, 0, 1, by decide +kernel⟩,
   ⟨State.reset, 0, 0, by decide +kernel⟩⟩

theorem wit_PwmEdges :
    (∃ (s : State) (g : Fin 8) (x : Fin 3) (up : Bool) (ideal : Nat) (o : Nat) (off : Nat) (due : Nat), s.Shaped ∧ s.pwmRun g = true ∧ s.tb.running = true ∧ (s.phase g x).next = 0 ∧ (s.phase g x).rise = up ∧ (up = false → (s.phase g x).fall = true) ∧ ideal = (if up then (s.grp g).valley + s.halfF g - cmpOf (s.actDuty g x) (s.halfF g) else (s.grp g).valley + s.halfF g + cmpOf (s.actDuty g x) (s.halfF g)) ∧ o = (if (s.phase g x).sw = 0 then ideal else max ideal ((s.phase g x).since + s.mpwF g)) ∧ off = placed (s.bit (Reg.PWM_GRP_STAT g) 26) o ∧ due = placed (s.bit (Reg.PWM_GRP_STAT g) 26) (o + (if up then (s.deadTimes g x).r else (s.deadTimes g x).f)))
    ∧ (∃ (s : State) (g : Fin 8) (x : Fin 3), s.Shaped ∧ (s.phase g x).next ≠ 0 ∧ s.tb.running = true)
    ∧ (∃ (s : State) (g : Fin 8) (x : Fin 3) (level : Bool), s.Shaped ∧ (s.phase g x).sense ≠ level)
    ∧ (∃ (s : State) (g : Fin 8) (x : Fin 3) (level : Bool), (s.phase g x).sense = level)
    ∧ (∃ (s : State) (g : Fin 8) (x : Fin 3) (up : Bool) (seen : Bool) (off : Nat) (on : Nat) (close : Nat), s.Shaped ∧ (s.phase g x).win = some (up, off, on, close, seen))
    ∧ (∃ (s : State) (g : Fin 8) (x : Fin 3), (s.phase g x).win = none)
    ∧ (∃ (s : State) (g : Fin 8) (x : Fin 3) (fine : Nat) (on : Nat) (close : Nat), s.Shaped ∧ (s.phase g x).sense ≠ true ∧ (s.phase g x).win = some (true, 100, on, close, false) ∧ 100 ≤ s.tick0 * 32 + fine ∧ s.tick0 * 32 + fine < on ∧ s.tick0 * 32 + fine < close) :=
  ⟨⟨{ st [(Reg.PWM_GRP_STAT 0, 0x80000000)] with pwm := [(0, { ph := [{ rise := true }, {}, {}] })] }, 0, 0, true, 0, 0, 0, 0, shaped_of _ (by decide +kernel), by decide +kernel⟩,
   ⟨{ st [(Reg.PWM_GRP_STAT 0, 0)] with pwm := [(0, { ph := [{ next := 2 }, {}, {}] })] }, 0, 0, shaped_of _ (by decide +kernel), by decide +kernel⟩,
   ⟨{ b0 with pwm := [(0, { dt := 0x00640010, ph := [{ win := some (true, 100, 200, 200, false) }, {}, {}] })] }, 0, 0, true, shaped_of _ (by decide +kernel), by decide +kernel⟩,
   ⟨b0, 0, 0, false, by decide +kernel⟩,
   ⟨{ b0 with pwm := [(0, { dt := 0x00640010, ph := [{ win := some (true, 100, 200, 200, false) }, {}, {}] })] }, 0, 0, true, false, 100, 200, 200, shaped_of _ (by decide +kernel), by decide +kernel⟩,
   ⟨b0, 0, 0, by decide +kernel⟩,
   ⟨{ b0 with pwm := [(0, { dt := 0x00640010, ph := [{ win := some (true, 100, 200, 200, false) }, {}, {}] })] }, 0, 0, 150, 200, 200, shaped_of _ (by decide +kernel), by decide +kernel⟩⟩

theorem wit_PwmTrips :
    (∃ (s : State) (g : Fin 8), s.Shaped ∧ (s.tb.running = true ∨ s.fld (Reg.PWM_GRP_CFG g) 18 15 = 0) ∧ s.bit (Reg.PWM_GRP_STAT g) 28 = false)
    ∧ (∃ (s : State), s.Shaped ∧ (s.tb.running = true ∨ s.fld Reg.PWM_TRALL 3 0 = 0) ∧ s.bit Reg.PWM_TRALL 31 = false)
    ∧ (∃ (s : State) (g : Fin 8), (s.tb.running = true ∨ s.fld (Reg.PWM_GRP_CFG g) 18 15 = 0))
    ∧ (∃ (s : State), (s.tb.running = true ∨ s.fld Reg.PWM_TRALL 3 0 = 0))
    ∧ (∃ (s : State) (g : Fin 8), s.tb.running = false ∧ s.fld (Reg.PWM_GRP_CFG g) 18 15 ≠ 0)
    ∧ (∃ (s : State), s.tb.running = false ∧ s.fld Reg.PWM_TRALL 3 0 ≠ 0) :=
  ⟨⟨b0, 7, shaped_of _ (by decide +kernel), by decide +kernel⟩,
   ⟨b0, shaped_of _ (by decide +kernel), by decide +kernel⟩,
   ⟨b0, 7, by decide +kernel⟩,
   ⟨b0, by decide +kernel⟩,
   ⟨regs State.reset [(Reg.PWM_GRP_CFG 7, 0x8000)], 7, by decide +kernel⟩,
   ⟨regs State.reset [(Reg.PWM_TRALL, 1)], by decide +kernel⟩⟩

theorem wit_SchedulerSubmission :
    (∃ (s : State) (m : Fin 32) (v : Word), s.may m Reg.TSU_SUB_CTL true ∧ s.submitCodes m v = [])
    ∧ (∃ (s : State) (m : Fin 32) (v : Word), s.may m Reg.TSU_SUB_CTL true ∧ s.submitCodes m v ≠ [])
    ∧ (∃ (s : State) (h : Fin 2048) (j : TsuJob), s.tsu.jobs.find? (fun k => k.handle == h.val && k.st == .queued false) = some j ∧ s.inFlowWindow j = true ∧ j.due ≤ s.tb.tick ∧ s.longestWaiter j.level = none)
    ∧ (∃ (s : State) (h : Fin 2048) (j : TsuJob) (c : _), s.tsu.jobs.find? (fun k => k.handle == h.val && k.st == .queued false) = some j ∧ s.inFlowWindow j = true ∧ j.due ≤ s.tb.tick ∧ s.longestWaiter j.level = some c)
    ∧ (∃ (s : State) (h : Fin 2048) (j : TsuJob), s.tsu.jobs.find? (fun k => k.handle == h.val && k.st == .queued false) = some j ∧ (s.inFlowWindow j = false ∨ s.tb.tick < j.due))
    ∧ (∃ (s : State) (m : Fin 32), (m.val = 0 ∨ 9 < m.val) ∧ s.may m Reg.TSU_TAKE false)
    ∧ (∃ (s : State) (m : Fin 32) (j : _), 1 ≤ m.val ∧ m.val ≤ 9 ∧ s.may m Reg.TSU_TAKE false ∧ s.heldJob (m - 1) = some j ∧ (s.core (m - 1)).wait = .none)
    ∧ (∃ (s : State) (m : Fin 32) (j : _), 1 ≤ m.val ∧ m.val ≤ 9 ∧ s.may m Reg.TSU_TAKE false ∧ s.heldJob (m - 1) = none ∧ s.coreServes (m - 1) = true ∧ s.bestJob (m - 1) = some j)
    ∧ (∃ (s : State) (m : Fin 32), 1 ≤ m.val ∧ m.val ≤ 9 ∧ s.may m Reg.TSU_TAKE false ∧ s.heldJob (m - 1) = none ∧ (s.coreServes (m - 1) = false ∨ s.bestJob (m - 1) = none) ∧ s.irqAt (m - 1) = true)
    ∧ (∃ (s : State) (m : Fin 32), 1 ≤ m.val ∧ m.val ≤ 9 ∧ s.may m Reg.TSU_TAKE false ∧ s.heldJob (m - 1) = none ∧ (s.coreServes (m - 1) = false ∨ s.bestJob (m - 1) = none) ∧ s.irqAt (m - 1) = false)
    ∧ (∃ (s : State) (m : Fin 32) (j : _), s.may m Reg.TSU_DONE true ∧ 1 ≤ m.val ∧ m.val ≤ 9 ∧ s.heldJob (m - 1) = some j)
    ∧ (∃ (s : State) (m : Fin 32), s.may m Reg.TSU_DONE true ∧ (m.val = 0 ∨ 9 < m.val ∨ s.heldJob (m - 1) = none)) :=
  ⟨⟨so [(midKey 16 Reg.TSU_SUB_RES, 0xFFFFFFFF)], 16, 0x06000000, by decide +kernel⟩,
   ⟨so [], 16, 0x07000000, by decide +kernel⟩,
   ⟨ts [tj none 0xFFFFFFFF (.queued false)], 256, tj none 0xFFFFFFFF (.queued false), by decide +kernel⟩,
   ⟨{ ts [] with tsu := { jobs := [tj none 0xFFFFFFFF (.queued false)], cores := [(0, { wait := .take })] } }, 256, tj none 0xFFFFFFFF (.queued false), 0, by decide +kernel⟩,
   ⟨ts [{ tj none 0xFFFFFFFF (.queued false) with due := 9 }], 256, { tj none 0xFFFFFFFF (.queued false) with due := 9 }, by decide +kernel⟩,
   ⟨so [], 10, by decide +kernel⟩,
   ⟨ts [tj none 0xFFFFFFFF (.held 0)], 1, tj none 0xFFFFFFFF (.held 0), by decide +kernel⟩,
   ⟨ts [tj none 0xFFFFFFFF (.queued true)], 1, tj none 0xFFFFFFFF (.queued true), by decide +kernel⟩,
   ⟨regs (ts []) [(Reg.MBX_CH_BIND 0, 0x80100001), (Reg.MBX_CH_DB 0, 1)], 1, by decide +kernel⟩,
   ⟨ts [], 9, by decide +kernel⟩,
   ⟨ts [tj none 0xFFFFFFFF (.held 0)], 1, tj none 0xFFFFFFFF (.held 0), by decide +kernel⟩,
   ⟨ts [], 9, by decide +kernel⟩⟩

theorem wit_SchedulerRelease :
    (∃ (s : State) (h : Fin 2048) (j : TsuJob) (c : Nat) (res : Word), s.tsu.jobs.find? (fun k => k.handle == h.val) = some j ∧ j.flow = none ∧ j.st = .done c res ∧ j.res = 0xFFFFFFFF)
    ∧ (∃ (s : State) (h : Fin 2048) (j : TsuJob) (c : Nat) (res : Word), s.tsu.jobs.find? (fun k => k.handle == h.val) = some j ∧ j.flow = none ∧ j.st = .done c res ∧ j.res ≠ 0xFFFFFFFF ∧ hallBase ≤ j.res.toNat ∧ j.res.toNat + 4 ≤ hallBase + 0x800000 ∧ s.allowed (coreMid c) j.res.toNat 4 true = true ∧ s.hallBad (j.res.toNat - hallBase) = false)
    ∧ (∃ (s : State) (h : Fin 2048) (j : TsuJob) (c : Nat) (res : Word), s.tsu.jobs.find? (fun k => k.handle == h.val) = some j ∧ j.flow = none ∧ j.st = .done c res ∧ j.res ≠ 0xFFFFFFFF ∧ hallBase ≤ j.res.toNat ∧ j.res.toNat + 4 ≤ hallBase + 0x800000 ∧ s.allowed (coreMid c) j.res.toNat 4 true = false)
    ∧ (∃ (s : State) (f : Fin 64) (j : TsuJob) (l : List TsuJob) (c : Nat) (res : Word), s.flowJobs f = j :: l ∧ j.st = .done c res ∧ j.res = 0xFFFFFFFF)
    ∧ (∃ (s : State) (f : Fin 64) (j : TsuJob) (l : List TsuJob), s.flowJobs f = j :: l ∧ (∀ c res, j.st ≠ .done c res))
    ∧ (∃ (s : State) (f : Fin 64) (j : TsuJob) (l : List TsuJob) (c : Nat) (res : Word), s.flowJobs f = j :: l ∧ j.st = .done c res ∧ j.res ≠ 0xFFFFFFFF ∧ hallBase ≤ j.res.toNat ∧ j.res.toNat + 4 ≤ hallBase + 0x800000 ∧ s.allowed (coreMid c) j.res.toNat 4 true = true ∧ s.hallBad (j.res.toNat - hallBase) = false)
    ∧ (∃ (s : State) (c : Fin 9), s.tb.tick ≤ (s.core c).tookAt + 4096 * s.fld (Reg.TSU_CORE_CFG c) 15 0)
    ∧ (∃ (s : State) (c : Fin 9) (j : TsuJob), s.heldJob c = some j ∧ s.fld (Reg.TSU_CORE_CFG c) 15 0 ≠ 0 ∧ (s.core c).tookAt + 4096 * s.fld (Reg.TSU_CORE_CFG c) 15 0 < s.tb.tick) :=
  ⟨⟨ts [tj none 0xFFFFFFFF (.done 0 5)], 256, tj none 0xFFFFFFFF (.done 0 5), 0, 5, by decide +kernel⟩,
   ⟨ts [tj none 0x207FFFFC (.done 0 5)], 256, tj none 0x207FFFFC (.done 0 5), 0, 5, by decide +kernel⟩,
   ⟨{ b0 with tsu := { jobs := [tj none 0x207FFFFC (.done 0 5)] } }, 256, tj none 0x207FFFFC (.done 0 5), 0, 5, by decide +kernel⟩,
   ⟨ts [tj (some 63) 0xFFFFFFFF (.done 0 5), tj (some 63) 0xFFFFFFFF (.queued true)], 63, tj (some 63) 0xFFFFFFFF (.done 0 5), [tj (some 63) 0xFFFFFFFF (.queued true)], 0, 5, by decide +kernel⟩,
   ⟨ts [tj (some 63) 0xFFFFFFFF (.queued true)], 63, tj (some 63) 0xFFFFFFFF (.queued true), [], by decide +kernel, fun c r => show JobState.queued true ≠ JobState.done c r from nofun⟩,
   ⟨ts [tj (some 63) 0x207FFFFC (.done 0 5)], 63, tj (some 63) 0x207FFFFC (.done 0 5), [], 0, 5, by decide +kernel⟩,
   ⟨b0, 0, by decide +kernel⟩,
   ⟨{ ts [tj none 0xFFFFFFFF (.held 0)] with tb := { locked := true, tick := 4097 } }, 0, tj none 0xFFFFFFFF (.held 0), by decide +kernel⟩⟩

theorem wit_RoutesAndPower :
    (∃ (s : State) (m : Fin 32), m ≠ 0 ∧ s.may m Reg.TSU_PWR true)
    ∧ (∃ (s : State) (c : Fin 9), s.bit Reg.TSU_PWR c = true ∧ s.bit (Reg.TSU_CORE_STAT c) 28 = false ∧ (s.core c).state ≠ 1 ∧ s.mode ≠ mMINIMAL) :=
  ⟨⟨so [], 16, by decide +kernel⟩,
   ⟨st [(Reg.TSU_PWR, 0x1FF)], 7, by decide +kernel⟩⟩

theorem wit_MailboxBindingsAndBells :
    (∃ (v : Word), bindOk (wFld v 20 16) (wFld v 4 0) = true)
    ∧ (∃ (v : Word), bindOk (wFld v 20 16) (wFld v 4 0) = false)
    ∧ (∃ (s : State) (m : Fin 32) (n : Fin 64), s.may m (Reg.MBX_CH_DBSET n) true ∧ (m = 0 ∨ s.sends n m = true))
    ∧ (∃ (s : State) (m : Fin 32) (n : Fin 64), s.may m (Reg.MBX_CH_DBSET n) true ∧ m ≠ 0 ∧ s.sends n m = false)
    ∧ (∃ (s : State) (m : Fin 32) (n : Fin 64), s.may m (Reg.MBX_CH_DB n) true ∧ (m = 0 ∨ s.receives n m = true))
    ∧ (∃ (s : State) (m : Fin 32) (n : Fin 64), s.may m (Reg.MBX_CH_DB n) true ∧ m ≠ 0 ∧ s.receives n m = false) :=
  ⟨⟨0x80130009, by decide +kernel⟩,
   ⟨0x80050005, by decide +kernel⟩,
   ⟨so [(Reg.MBX_CH_BIND 63, 0x80100000)], 16, 63, by decide +kernel⟩,
   ⟨so [], 16, 63, by decide +kernel⟩,
   ⟨so [(Reg.MBX_CH_BIND 63, 0x80000010)], 16, 63, by decide +kernel⟩,
   ⟨so [], 16, 63, by decide +kernel⟩⟩

theorem wit_MailboxDescriptors :
    (∃ (s : State) (m : Fin 32) (n : Fin 64), s.may m (Reg.MBX_CH_DESCHI n) true ∧ (m = 0 ∨ s.sends n m = true) ∧ s.bit (Reg.MBX_CH_STAT n) 31 = false)
    ∧ (∃ (s : State) (m : Fin 32) (n : Fin 64), s.may m (Reg.MBX_CH_DESCHI n) true ∧ (m = 0 ∨ s.sends n m = true) ∧ s.bit (Reg.MBX_CH_STAT n) 31 = true)
    ∧ (∃ (s : State) (m : Fin 32) (n : Fin 64) (v : Word), s.may m (Reg.MBX_CH_ACK n) true ∧ (m = 0 ∨ s.receives n m = true) ∧ wBit v 0 = true)
    ∧ (∃ (s : State) (m : Fin 32) (n : Fin 64), m ≠ 0 ∧ s.may m (Reg.MBX_CH_DESCHI n) true ∧ s.sends n m = false)
    ∧ (∃ (s : State) (m : Fin 32) (n : Fin 64), m ≠ 0 ∧ s.may m (Reg.MBX_CH_ACK n) true ∧ s.receives n m = false)
    ∧ (∃ (s : State) (m : Fin 32), s.may m Reg.MBX_WAIT false ∧ 9 < m.val)
    ∧ (∃ (s : State) (m : Fin 32), s.may m Reg.MBX_WAIT false ∧ m.val ≤ 9 ∧ s.mbxBits m ≠ 0)
    ∧ (∃ (s : State) (m : Fin 32), s.may m Reg.MBX_WAIT false ∧ m.val ≤ 9 ∧ s.mbxBits m = 0 ∧ s.irqAt (midCore m) = true ∧ (s.bit (midKey m Reg.MBX_WAITSEL) 30 = true ∨ s.bit (midKey m Reg.MBX_WAITSEL) 31 = true))
    ∧ (∃ (s : State) (m : Fin 32), s.may m Reg.MBX_WAIT false ∧ m.val ≤ 9 ∧ s.mbxBits m = 0 ∧ s.irqAt (midCore m) = false ∧ (s.bit (midKey m Reg.MBX_WAITSEL) 30 = true ∨ s.bit (midKey m Reg.MBX_WAITSEL) 31 = true)) :=
  ⟨⟨so [(Reg.MBX_CH_BIND 63, 0x80100000)], 16, 63, by decide +kernel⟩,
   ⟨so [(Reg.MBX_CH_BIND 63, 0x80100000), (Reg.MBX_CH_STAT 63, 0x80000000)], 16, 63, by decide +kernel⟩,
   ⟨so [(Reg.MBX_CH_BIND 63, 0x80000010)], 16, 63, 1, by decide +kernel⟩,
   ⟨so [], 16, 63, by decide +kernel⟩,
   ⟨so [], 16, 63, by decide +kernel⟩,
   ⟨so [], 10, by decide +kernel⟩,
   ⟨so [(midKey 9 Reg.MBX_WAITSEL, 0x40003F00)], 9, by decide +kernel⟩,
   ⟨so [(midKey 1 Reg.MBX_WAITSEL, 0x80000000), (Reg.MBX_CH_BIND 5, 0x80100001), (Reg.MBX_CH_DB 5, 1)], 1, by decide +kernel⟩,
   ⟨so [(midKey 9 Reg.MBX_WAITSEL, 0x80000000)], 9, by decide +kernel⟩⟩

theorem wit_CaptureControl :
    (∃ (s : State) (u : State) (m : Fin 32) (n : Fin 16) (v : Word), s.may m (Reg.CAP_S_CTRL n) true ∧ s.mode ≠ mMINIMAL ∧ wFld v 31 28 = 8 ∧ s.capActive n = false ∧ u = (if (s.session n).again then s.capFree n else s) ∧ u.capCheck n = 0)
    ∧ (∃ (s : State) (u : State) (m : Fin 32) (n : Fin 16) (v : Word), s.may m (Reg.CAP_S_CTRL n) true ∧ s.mode ≠ mMINIMAL ∧ wFld v 31 28 = 8 ∧ s.capActive n = false ∧ u = (if (s.session n).again then s.capFree n else s) ∧ u.capCheck n ≠ 0)
    ∧ (∃ (s : State) (m : Fin 32) (n : Fin 16) (v : Word), s.may m (Reg.CAP_S_CTRL n) true ∧ wFld v 31 28 = 8 ∧ s.capActive n = true)
    ∧ (∃ (s : State) (m : Fin 32) (n : Fin 16) (v : Word), s.may m (Reg.CAP_S_CTRL n) true ∧ s.mode ≠ mMINIMAL ∧ wFld v 31 28 = 4)
    ∧ (∃ (s : State) (m : Fin 32) (n : Fin 16) (v : Word), s.may m (Reg.CAP_S_CTRL n) true ∧ s.mode ≠ mMINIMAL ∧ wFld v 31 28 = 2 ∧ s.capState n = 1 ∧ ¬ (8388608 < (s.session n).size ∧ (s.session n).before s.tb.tick < (s.rd (Reg.CAP_S_PRE n)).toNat))
    ∧ (∃ (s : State) (m : Fin 32) (n : Fin 16) (v : Word), s.may m (Reg.CAP_S_CTRL n) true ∧ s.mode ≠ mMINIMAL ∧ wFld v 31 28 = 2 ∧ s.capState n = 1 ∧ 8388608 < (s.session n).size ∧ (s.session n).before s.tb.tick < (s.rd (Reg.CAP_S_PRE n)).toNat)
    ∧ (∃ (s : State) (m : Fin 32) (n : Fin 16) (v : Word) (h : Nat) (rest : List Nat), s.may m (Reg.CAP_S_CTRL n) true ∧ s.mode ≠ mMINIMAL ∧ wFld v 31 28 = 1 ∧ (s.session n).order = h :: rest ∧ h < 2) :=
  ⟨⟨so [(Reg.SYS_MODE, 5), (Reg.CAP_S_CFG 15, 0xC0000000), (Reg.CAP_S_SRC 15, 1), (Reg.CAP_S_SIZE 15, 4096), (Reg.CAP_S_POST 15, 1)], so [(Reg.SYS_MODE, 5), (Reg.CAP_S_CFG 15, 0xC0000000), (Reg.CAP_S_SRC 15, 1), (Reg.CAP_S_SIZE 15, 4096), (Reg.CAP_S_POST 15, 1)], 16, 15, 0x80000000, by decide +kernel⟩,
   ⟨so [], so [], 16, 15, 0x80000000, by decide +kernel⟩,
   ⟨so [(Reg.CAP_S_STAT 15, 0xA0000000)], 16, 15, 0x80000000, by decide +kernel⟩,
   ⟨so [], 16, 15, 0x40000000, by decide +kernel⟩,
   ⟨so [(Reg.CAP_S_STAT 15, 0x20000000)], 16, 15, 0x20000000, by decide +kernel⟩,
   ⟨{ so [(Reg.CAP_S_STAT 15, 0x20000000), (Reg.CAP_S_PRE 15, 1)] with cap := { sess := [(15, { size := 8388609 })] } }, 16, 15, 0x20000000, by decide +kernel⟩,
   ⟨{ so [] with cap := { sess := [(15, { order := [1, 0] })] } }, 16, 15, 0x10000000, 1, [0], by decide +kernel⟩⟩

theorem wit_CaptureRecords :
    (∃ (s : State) (e : CapEvt) (rest : List CapEvt) (n : Nat) (p : Nat), s.cap.queue = e :: rest ∧ e.dest = [n] ∧ n < 16 ∧ s.capWants e.kind n = true ∧ s.capState n = 1 ∧ (s.session n).trig = none ∧ p = (s.rd (Reg.CAP_S_WPTR n)).toNat ∧ p + 32 < (s.session n).base + (s.session n).size ∧ s.capRefused (dramBase + s.fld (Reg.CAP_S_BASE n) 26 0 + p) 32 = none)
    ∧ (∃ (s : State), s.cap.queue = [])
    ∧ (∃ (s : State) (n : Fin 16), (s.session n).again = true ∧ (s.capState n = 3 ∨ s.capState n = 5) ∧ s.capSplit n = false)
    ∧ (∃ (s : State) (n : Fin 16) (h : Nat) (d : Nat), (s.session n).again = true ∧ (s.capState n = 3 ∨ s.capState n = 5) ∧ s.capSplit n = true ∧ h = 1 - s.fld (Reg.CAP_S_STAT n) 26 26 ∧ (s.session n).doneTick = some d)
    ∧ (∃ (s : State) (m : Fin 32) (a : Word), m.val ≤ 9 ∧ s.busCheck m a.toNat 4 false = none ∧ dramBase ≤ a.toNat ∧ a.toNat < dramBase + 0x8000000)
    ∧ (∃ (s : State) (m : Fin 32) (a : Word) (h : Nat), hostOf m = some h ∧ (s.pcieFunction h).isSome = true ∧ s.issues m a.toNat false = true ∧ s.busCheck m a.toNat 4 false = none ∧ dramBase ≤ a.toNat ∧ a.toNat < dramBase + 0x8000000)
    ∧ (∃ (s : State) (m : Fin 32) (a : Word) (k : Nat) (h : Nat), hostOf m = some h ∧ (s.pcieFunction h).isSome = true ∧ s.issues m a.toNat false = true ∧ s.busCheck m a.toNat 4 false = some k ∧ dramBase ≤ a.toNat ∧ a.toNat < dramBase + 0x8000000) :=
  ⟨⟨{ so [(Reg.CAP_S_CFG 3, 0xC0000000), (Reg.CAP_S_SRC 3, 1), (Reg.CAP_S_STAT 3, 0x20000000)] with cap := { queue := [{ dest := [3], tick := 0, kind := 0, obj := 0, detail := 0, cyc := 0, ft := 0, sec := 0, ns := 0, frac := 0 }], sess := [(3, { size := 4096 })] } }, { dest := [3], tick := 0, kind := 0, obj := 0, detail := 0, cyc := 0, ft := 0, sec := 0, ns := 0, frac := 0 }, [], 3, 0, by decide +kernel⟩,
   ⟨b0, by decide +kernel⟩,
   ⟨{ st [(Reg.CAP_S_STAT 3, 0xA0000000)] with cap := { sess := [(3, { again := true })] } }, 3, by decide +kernel⟩,
   ⟨{ st [(Reg.CAP_S_STAT 3, 0xA0000000), (Reg.CAP_S_CFG 3, 0x10000000)] with cap := { sess := [(3, { again := true, doneTick := some 5 })] } }, 3, 1, 5, by decide +kernel⟩,
   ⟨so [], 9, 0x87FFFFFC, by decide +kernel⟩,
   ⟨so [(Reg.HST_LAND_CFG 0, 0x80000000), (Reg.HST_PCIE_STAT 0, 0x80000000)], 16, 0x87FFFFFC, 0, by decide +kernel⟩,
   ⟨st [(Reg.HST_LAND_CFG 0, 0x80000000), (Reg.HST_PCIE_STAT 0, 0x80000000)], 16, 0x87FFFFFC, 1, 0, by decide +kernel⟩⟩

theorem wit_SegmentSync :
    (∃ (s : State) (n : Fin 12), s.segSends n = true ∧ s.tb.running = true ∧ (s.seg n).cyc ≠ some s.tb.cyc ∧ (∀ x ∈ (s.seg n).grants, (s.tb.cyc - x.2.1).toNat ≤ 8))
    ∧ (∃ (s : State) (n : Fin 12) (k : Nat) (c0 : Word) (id : Nat), s.segSends n = true ∧ s.tb.running = true ∧ (s.seg n).cyc ≠ some s.tb.cyc ∧ k < 32 ∧ (s.seg n).grants = [(k, c0, id)] ∧ 8 < (s.tb.cyc - c0).toNat)
    ∧ (∃ (s : State) (n : Fin 12), (s.segSends n = false ∨ s.tb.running = false ∨ (s.seg n).cyc = some s.tb.cyc))
    ∧ (∃ (s : State) (n : Fin 12) (k : Fin 32) (c : Word), s.saf.g.live = true ∧ s.saf.loaded = true ∧ s.nodeState n k ≠ nUNUSED ∧ (((s.seg n).cyc = none ∧ c = s.tb.cyc) ∨ ((s.seg n).cyc = some (c - 1) ∧ (s.node n k).relCyc = some (c - 1))))
    ∧ (∃ (s : State) (n : Fin 12) (k : Fin 32) (c : Word), (s.seg n).cyc = some c ∧ (s.node n k).relCyc ≠ some c)
    ∧ (∃ (s : State) (n : Fin 12) (k : Fin 32), (s.saf.g.live = false ∨ s.saf.loaded = false ∨ s.nodeState n k = nUNUSED)) :=
  ⟨⟨sgx 5 [] { cyc := some 4 }, 0, by decide +kernel⟩,
   ⟨sgx 9 [] { cyc := some 8, grants := [(31, 0, 7)] }, 0, 31, 0, 7, by decide +kernel⟩,
   ⟨sgx 9 [] { cyc := some 9 }, 0, by decide +kernel⟩,
   ⟨{ st [(Reg.TRN_NODE_STAT 11 31, 0x80000000)] with saf := { g := chan 3, loaded := true } }, 11, 31, 0, by decide +kernel⟩,
   ⟨sg 9 [], 0, 31, 9, by decide +kernel⟩,
   ⟨b0, 11, 31, by decide +kernel⟩⟩

theorem wit_FrameChecks :
    (∃ (s : State) (p : Port), s.bit (Reg.TRN_PCFG p.seg (if p.chB then 1 else 0)) 31 = false)
    ∧ (∃ (s : State) (n : Fin 12) (b : Bool) (f : RxFrame), s.loops n (if b then 1 else 0) = true ∧ f.bytes ≠ (s.seg n).tx)
    ∧ (∃ (s : State) (n : Fin 12) (b : Bool) (ch : Nat) (f : RxFrame), ch = (if b then 1 else 0) ∧ s.mode ≠ mSTANDBY ∧ s.bit (Reg.TRN_PCFG n ch) 31 = true ∧ s.loops n ch = false ∧ (∀ m, m < 16 → (s.capOn m && s.capKind m == 1 && s.bit (Reg.CAP_S_SRC m) (2 * n + ch)) = false) ∧ f.codeOk = false)
    ∧ (∃ (s : State) (n : Fin 12) (b : Bool) (ch : Nat) (f : RxFrame), ch = (if b then 1 else 0) ∧ s.mode ≠ mSTANDBY ∧ s.bit (Reg.TRN_PCFG n ch) 31 = true ∧ s.loops n ch = false ∧ (∀ m, m < 16 → (s.capOn m && s.capKind m == 1 && s.bit (Reg.CAP_S_SRC m) (2 * n + ch)) = false) ∧ f.codeOk = true ∧ f.bytes.length = 12 + byteAt f.bytes 6 ∧ crc32 (f.bytes.take (8 + byteAt f.bytes 6)) ≠ leAt f.bytes (8 + byteAt f.bytes 6) 4)
    ∧ (∃ (s : State) (n : Fin 12) (b : Bool) (ch : Nat) (f : RxFrame), ch = (if b then 1 else 0) ∧ s.mode ≠ mSTANDBY ∧ s.bit (Reg.TRN_PCFG n ch) 31 = true ∧ s.loops n ch = false ∧ (∀ m, m < 16 → (s.capOn m && s.capKind m == 1 && s.bit (Reg.CAP_S_SRC m) (2 * n + ch)) = false) ∧ f.codeOk = true ∧ f.bytes.length = 12 + byteAt f.bytes 6 ∧ crc32 (f.bytes.take (8 + byteAt f.bytes 6)) = leAt f.bytes (8 + byteAt f.bytes 6) 4 ∧ ((hdrOf f.bytes).ver ≠ 1 ∨ (hdrOf f.bytes).allowed = false ∨ (hdrOf f.bytes).seg ≠ n.val))
    ∧ (∃ (s : State) (n : Fin 12) (b : Bool) (ch : Nat) (f : RxFrame), ch = (if b then 1 else 0) ∧ s.mode ≠ mSTANDBY ∧ s.bit (Reg.TRN_PCFG n ch) 31 = true ∧ s.loops n ch = false ∧ (∀ m, m < 16 → (s.capOn m && s.capKind m == 1 && s.bit (Reg.CAP_S_SRC m) (2 * n + ch)) = false) ∧ f.codeOk = true ∧ f.bytes.length = 12 + byteAt f.bytes 6 ∧ crc32 (f.bytes.take (8 + byteAt f.bytes 6)) = leAt f.bytes (8 + byteAt f.bytes 6) 4 ∧ (hdrOf f.bytes).ver = 1 ∧ (hdrOf f.bytes).allowed = true ∧ (hdrOf f.bytes).seg = n.val ∧ (hdrOf f.bytes).type = 1) :=
  ⟨⟨b0, ⟨11, true⟩, by decide +kernel⟩,
   ⟨st [(Reg.SYS_MODE, 11), (Reg.TRN_PCFG 11 1, 0x84000000)], 11, true, fr [1], by decide +kernel⟩,
   ⟨so [(Reg.TRN_PCFG 11 1, 0x80000000)], 11, true, 1, { arrival := 0, codeOk := false, bytes := [] }, by decide +kernel⟩,
   ⟨sg 4 [], 0, false, 0, fr (List.replicate 12 0), by decide +kernel⟩,
   ⟨sg 4 [], 0, false, 0, fr [0, 0, 0, 0, 0, 0, 0, 0, 105, 223, 34, 101], by decide +kernel⟩,
   ⟨sg 4 [], 0, false, 0, syncFr 4, by decide +kernel⟩⟩

theorem wit_FeedbackFrames :
    (∃ (s : State) (n : Fin 12) (b : Bool) (ch : Nat) (f : RxFrame) (k : Fin 32) (c : Word) (at0 : Int), ch = (if b then 1 else 0) ∧ s.mode ≠ mSTANDBY ∧ s.bit (Reg.TRN_PCFG n ch) 31 = true ∧ s.loops n ch = false ∧ s.frameCheck n f = (0, some (.fb k, c, at0)) ∧ (∀ m, m < 16 → (s.capOn m && s.capKind m == 1 && s.bit (Reg.CAP_S_SRC m) (2 * n + ch)) = false) ∧ (s.slotRx n k c).a = none ∧ (s.slotRx n k c).b = none)
    ∧ (∃ (s : State) (n : Fin 12) (b : Bool) (ch : Nat) (f : RxFrame) (k : Fin 32) (c : Word) (at0 : Int) (y : _), ch = (if b then 1 else 0) ∧ s.mode ≠ mSTANDBY ∧ s.bit (Reg.TRN_PCFG n ch) 31 = true ∧ s.loops n ch = false ∧ s.frameCheck n f = (0, some (.fb k, c, at0)) ∧ (∀ m, m < 16 → (s.capOn m && s.capKind m == 1 && s.bit (Reg.CAP_S_SRC m) (2 * n + ch)) = false) ∧ (if b then (s.slotRx n k c).b else (s.slotRx n k c).a) = none ∧ (if b then (s.slotRx n k c).a else (s.slotRx n k c).b) = some y ∧ y.bytes ≠ f.bytes.take (8 + (hdrOf f.bytes).len) ∧ (y.arr < at0 ∨ (y.arr = at0 ∧ b = true)))
    ∧ (∃ (s : State) (n : Fin 12) (b : Bool) (ch : Nat) (f : RxFrame) (k : Fin 32) (c : Word) (at0 : Int) (y : _), ch = (if b then 1 else 0) ∧ s.mode ≠ mSTANDBY ∧ s.bit (Reg.TRN_PCFG n ch) 31 = true ∧ s.loops n ch = false ∧ s.frameCheck n f = (0, some (.fb k, c, at0)) ∧ (∀ m, m < 16 → (s.capOn m && s.capKind m == 1 && s.bit (Reg.CAP_S_SRC m) (2 * n + ch)) = false) ∧ (if b then (s.slotRx n k c).b else (s.slotRx n k c).a) = none ∧ (if b then (s.slotRx n k c).a else (s.slotRx n k c).b) = some y ∧ y.bytes ≠ f.bytes.take (8 + (hdrOf f.bytes).len) ∧ (at0 < y.arr ∨ (y.arr = at0 ∧ b = false)))
    ∧ (∃ (s : State) (n : Fin 12) (k : Fin 32) (c : Word), (s.seg n).cyc = some c ∧ s.segSends n = true ∧ (s.slotRx n k c).a = none ∧ (s.slotRx n k c).b = none ∧ (s.slotRx n k c).closed = false ∧ s.nodeState n k = nIN)
    ∧ (∃ (s : State) (n : Fin 12) (k : Fin 32), s.segSilent n = true ∧ (s.slotRx n k s.tb.cyc).a = none ∧ (s.slotRx n k s.tb.cyc).b = none ∧ (s.slotRx n k s.tb.cyc).closed = false ∧ s.nodeState n k ≠ nUNUSED)
    ∧ (∃ (s : State) (n : Fin 12) (k : Fin 32) (c : Word), (s.seg n).cyc = some c ∧ s.segSilent n = false ∧ (s.segSends n = false ∨ s.nodeState n k = nUNUSED ∨ (s.slotRx n k c).a.isSome ∨ (s.slotRx n k c).b.isSome ∨ (s.slotRx n k c).closed = true)) :=
  ⟨⟨sg 4 [(Reg.TRN_NODE_STAT 0 0, 0x80000000)], 0, false, 0, fr (frameBytes 2 0 0 0 4 0 (List.replicate 8 0)), 0, 4, 32000, by decide +kernel⟩,
   ⟨sgx 4 [(Reg.TRN_NODE_STAT 0 0, 0x80000000)] { cyc := some 4, rx := [(0, { cyc := 4, b := some { arr := 31999, bytes := [] } })] }, 0, false, 0, fr (frameBytes 2 0 0 0 4 0 (List.replicate 8 0)), 0, 4, 32000, { arr := 31999, bytes := [] }, by decide +kernel⟩,
   ⟨sgx 4 [(Reg.TRN_NODE_STAT 0 0, 0x80000000)] { cyc := some 4, rx := [(0, { cyc := 4, b := some { arr := 32000, bytes := [] } })] }, 0, false, 0, fr (frameBytes 2 0 0 0 4 0 (List.replicate 8 0)), 0, 4, 32000, { arr := 32000, bytes := [] }, by decide +kernel⟩,
   ⟨sg 4 [(Reg.TRN_NODE_STAT 0 0, 0x80000000)], 0, 0, 4, by decide +kernel⟩,
   ⟨sg 4 [(Reg.TRN_SSTAT 0, 0x80000000), (Reg.TRN_NODE_STAT 0 0, 0x80000000)], 0, 0, by decide +kernel⟩,
   ⟨sg 4 [], 0, 0, 4, by decide +kernel⟩⟩

theorem wit_ServiceMessages :
    (∃ (s : State) (m : Fin 32) (n : Fin 12) (v : Word), s.may m (Reg.TRN_SVC_TXCTL n) true ∧ wBit v 31 = true ∧ s.bit (Reg.TRN_SVC_TXCTL n) 30 = false ∧ 4 ≤ wFld v 22 16 ∧ wFld v 22 16 ≤ 64 ∧ wFld (s.rd (Reg.TRN_SVC_TXD n 0)) 31 16 ≠ 0xFFF0)
    ∧ (∃ (s : State) (m : Fin 32) (n : Fin 12) (v : Word), s.may m (Reg.TRN_SVC_TXCTL n) true ∧ wBit v 31 = true ∧ s.bit (Reg.TRN_SVC_TXCTL n) 30 = false ∧ (wFld v 22 16 < 4 ∨ 64 < wFld v 22 16 ∨ wFld (s.rd (Reg.TRN_SVC_TXD n 0)) 31 16 = 0xFFF0))
    ∧ (∃ (s : State) (m : Fin 32) (n : Fin 12) (v : Word), s.may m (Reg.TRN_SVC_TXCTL n) true ∧ (wBit v 31 = false ∨ s.bit (Reg.TRN_SVC_TXCTL n) 30 = true))
    ∧ (∃ (s : State) (n : Fin 12) (c : Word) (a : _) (p : _) (t0 : _), (s.seg n).cyc = some c ∧ s.segSends n = true ∧ c.toNat % 2 = 1 ∧ (s.seg n).msg = some (a, p, t0) ∧ t0 = s.tb.tick)
    ∧ (∃ (s : State) (n : Fin 12) (c : Word) (a : _) (p : _) (t0 : _), (s.seg n).cyc = some c ∧ s.segSends n = true ∧ c.toNat % 2 = 1 ∧ (s.seg n).msg = some (a, p, t0) ∧ t0 ≠ s.tb.tick)
    ∧ (∃ (s : State) (n : Fin 12) (c : Word), (s.seg n).cyc = some c ∧ s.segSends n = true ∧ c.toNat % 2 = 1 ∧ (s.seg n).msg = none)
    ∧ (∃ (s : State) (n : Fin 12) (c : Word), (s.seg n).cyc = some c ∧ s.segSends n = true ∧ c.toNat % 8 = 0 ∧ (s.seg n).req = none ∧ (∀ k, k < 32 → (s.node n k).corrDue = false) ∧ (s.seg n).claimOn = true ∧ (∃ k, k < 32 ∧ s.slotOpen n k = true))
    ∧ (∃ (s : State) (n : Fin 12) (c : Word) (k : _) (rest : _), (s.seg n).cyc = some c ∧ s.segSends n = true ∧ c.toNat % 2 = 0 ∧ c.toNat % 8 ≠ 0 ∧ (s.seg n).req = none ∧ (∀ k, k < 32 → (s.node n k).corrDue = false) ∧ (s.seg n).second = k :: rest ∧ k < 32 ∧ s.nodeState n k = nRANGING)
    ∧ (∃ (s : State) (n : Fin 12) (c : Word) (k : _), (s.seg n).cyc = some c ∧ s.segSends n = true ∧ c.toNat % 2 = 0 ∧ (s.seg n).req = none ∧ (s.seg n).second = [] ∧ (∀ k, k < 32 → (s.node n k).corrDue = false) ∧ (c.toNat % 8 ≠ 0 ∨ (s.seg n).claimOn = false) ∧ s.nextRange n = some k)
    ∧ (∃ (s : State) (n : Fin 12) (c : Word), (s.seg n).cyc = some c ∧ s.segSends n = true ∧ c.toNat % 2 = 0 ∧ (s.seg n).req = none ∧ (s.seg n).second = [] ∧ (∀ k, k < 32 → (s.node n k).corrDue = false) ∧ (c.toNat % 8 ≠ 0 ∨ (s.seg n).claimOn = false) ∧ s.nextRange n = none)
    ∧ (∃ (s : State) (n : Fin 12) (c : Word) (q : Word) (k : Nat) (tag : Nat) (x : Copy), (s.seg n).cyc = some c ∧ ((q = c ∧ ∀ p, (s.seg n).prev = some p → p + 1 ≠ c ∨ s.serviceOpen n p = false) ∨ ((s.seg n).prev = some q ∧ q + 1 = c)) ∧ q.toNat % 2 = 0 ∧ k < 32 ∧ (s.seg n).req = some (.first k tag) ∧ s.slotRx n 0x201 q = { cyc := q, a := some x } ∧ (s.slotRx n 0x300 q).a = none ∧ (s.slotRx n 0x300 q).b = none ∧ (hdrOf x.bytes).addr = k ∧ 8 ≤ (hdrOf x.bytes).len ∧ byteAt (hdrOf x.bytes).payload 0 = 3 ∧ byteAt (hdrOf x.bytes).payload 1 = tag ∧ leAt (hdrOf x.bytes).payload 2 2 = 0xFFF0 ∧ x.arr - ((s.segDs n + 200 : Nat) : Int) * 32 ≤ 2 * s.segDlmax n * 32)
    ∧ (∃ (s : State) (n : Fin 12) (c : Word) (q : Word) (k : Nat) (tag : Nat) (so : Int), (s.seg n).cyc = some c ∧ ((q = c ∧ ∀ p, (s.seg n).prev = some p → p + 1 ≠ c ∨ s.serviceOpen n p = false) ∨ ((s.seg n).prev = some q ∧ q + 1 = c)) ∧ q.toNat % 2 = 0 ∧ k < 32 ∧ (s.seg n).req = some (.second k so tag) ∧ s.nodeState n k = nRANGING ∧ (s.slotRx n 0x201 q).a = none ∧ (s.slotRx n 0x201 q).b = none ∧ (s.slotRx n 0x300 q).a = none ∧ (s.slotRx n 0x300 q).b = none) :=
  ⟨⟨so [], 16, 11, 0x80400000, by decide +kernel⟩,
   ⟨so [], 16, 11, 0x80410000, by decide +kernel⟩,
   ⟨so [], 16, 11, 0x40400000, by decide +kernel⟩,
   ⟨sgx 5 [] { cyc := some 5, msg := some (3, [1, 2, 3, 4], 0) }, 0, 5, 3, [1, 2, 3, 4], 0, by decide +kernel⟩,
   ⟨sgx 5 [] { cyc := some 5, msg := some (3, [1, 2, 3, 4], 1) }, 0, 5, 3, [1, 2, 3, 4], 1, by decide +kernel⟩,
   ⟨sg 5 [], 0, 5, by decide +kernel⟩,
   ⟨sgx 8 [(Reg.TRN_SLOT 0 31, 0x80000000)] { cyc := some 8, claimOn := true }, 0, 8, by decide +kernel⟩,
   ⟨sgx 2 [(Reg.TRN_NODE_STAT 0 31, 0x40000000)] { cyc := some 2, second := [31] }, 0, 2, 31, [], by decide +kernel⟩,
   ⟨sg 4 [(Reg.TRN_NODE_STAT 0 0, 0x20000000)], 0, 4, 0, by decide +kernel⟩,
   ⟨sg 4 [], 0, 4, by decide +kernel⟩,
   ⟨sgx 5 [] { cyc := some 5, prev := some 4, req := some (.first 31 7), rx := [(0x201, { cyc := 4, a := some { arr := 6400, bytes := frameBytes 4 31 0 0x200 4 0 [3, 7, 0xF0, 0xFF, 0, 0, 0, 0] } })] }, 0, 5, 4, 31, 7, { arr := 6400, bytes := frameBytes 4 31 0 0x200 4 0 [3, 7, 0xF0, 0xFF, 0, 0, 0, 0] }, by and_intros <;> first | decide +kernel | exact .inr (by decide +kernel)⟩,
   ⟨sgx 5 [(Reg.TRN_NODE_STAT 0 31, 0x40000000)] { cyc := some 5, prev := some 4, req := some (.second 31 5 7) }, 0, 5, 4, 31, 7, 5, by and_intros <;> first | decide +kernel | exact .inr (by decide +kernel)⟩⟩

theorem wit_PortsAndListen :
    (∃ (s : State) (n : Fin 12) (b : Bool) (ch : Nat), ch = (if b then 1 else 0) ∧ s.bit (Reg.TRN_PCFG n ch) 31 = true)
    ∧ (∃ (s : State) (n : Fin 12) (b : Bool) (ch : Nat), ch = (if b then 1 else 0) ∧ s.bit (Reg.TRN_PCFG n ch) 31 = false)
    ∧ (∃ (s : State) (n : Fin 12) (b : Bool) (ch : Nat), ch = (if b then 1 else 0) ∧ s.bit (Reg.TRN_PSTAT n ch) 31 = true)
    ∧ (∃ (s : State) (n : Fin 12) (b : Bool) (ch : Nat), ch = (if b then 1 else 0) ∧ s.bit (Reg.TRN_PSTAT n ch) 31 = false)
    ∧ (∃ (s : State) (n : Fin 12) (b : Bool) (ch : Nat), ch = (if b then 1 else 0) ∧ s.bit (Reg.TRN_PSTAT n ch) 30 = true)
    ∧ (∃ (s : State) (n : Fin 12) (b : Bool) (ch : Nat), ch = (if b then 1 else 0) ∧ s.bit (Reg.TRN_PSTAT n ch) 30 = false)
    ∧ (∃ (s : State), s.mode = mLISTEN ∧ (∀ n, n < 12 → s.bit (Reg.TRN_SSTAT n) 11 = false) ∧ s.trn.listenAt + 2 * s.tb.len + 3200 * s.headId 0 ≤ s.tb.tick)
    ∧ (∃ (s : State), (s.mode ≠ mLISTEN ∨ (∃ n, n < 12 ∧ s.bit (Reg.TRN_SSTAT n) 11 = true) ∨ s.tb.tick < s.trn.listenAt + 2 * s.tb.len + 3200 * s.headId 0)) :=
  ⟨⟨st [(Reg.TRN_PCFG 11 1, 0x80000000)], 11, true, 1, by decide +kernel⟩,
   ⟨st [(Reg.TRN_PCFG 11 1, 0)], 11, true, 1, by decide +kernel⟩,
   ⟨st [(Reg.TRN_PSTAT 11 1, 0x80000000)], 11, true, 1, by decide +kernel⟩,
   ⟨st [(Reg.TRN_PSTAT 11 1, 0)], 11, true, 1, by decide +kernel⟩,
   ⟨st [(Reg.TRN_PSTAT 11 1, 0x40000000)], 11, true, 1, by decide +kernel⟩,
   ⟨st [(Reg.TRN_PSTAT 11 1, 0)], 11, true, 1, by decide +kernel⟩,
   ⟨{ st [(Reg.SYS_MODE, 5), (Reg.TRN_SCFG 11, 0x80000000)] with tb := { locked := true, tick := 25000 } }, by decide +kernel⟩,
   ⟨st [(Reg.SYS_MODE, 5), (Reg.TRN_SCFG 11, 0x80000000), (Reg.TRN_SSTAT 11, 0x800)], by decide +kernel⟩⟩

theorem wit_GuardOverflow :
    (∃ (s : State) (n : Fin 18) (j : LaneJob) (w : Word) (co : _), (s.lane n).job = some j ∧ j.Shaped ∧ j.ended = false ∧ w = s.laneWord j ∧ wFld w 31 29 = opMAC ∧ co = s.cbus j.axis (j.caddr w))
    ∧ (∃ (s : State) (n : Fin 18) (j : LaneJob) (w : Word) (c : Instr), (s.lane n).job = some j ∧ j.Shaped ∧ j.ended = false ∧ w = s.laneWord j ∧ (c = .nop n ∧ wFld w 31 29 = opNOP ∨ c = .lim n ∧ wFld w 31 29 = opLIM ∨ c = .rep n ∧ wFld w 31 29 = opREP))
    ∧ (∃ (s : State) (n : Fin 18) (j : LaneJob) (w : Word) (c : Instr), (s.lane n).job = some j ∧ j.Shaped ∧ j.ended = false ∧ w = s.laneWord j ∧ (c = .stx n ∧ wFld w 31 29 = opSTX ∨ c = .stu n ∧ wFld w 31 29 = opSTU)) :=
  ⟨⟨lj 0x20000000 J, 0, J, 0x20000000, 0, by decide +kernel, jobShaped_of _ (by decide +kernel), by decide +kernel⟩,
   ⟨lj 0xA0000000 J, 0, J, 0xA0000000, .rep 0, by decide +kernel, jobShaped_of _ (by decide +kernel), by decide +kernel⟩,
   ⟨lj 0x60000000 J, 0, J, 0x60000000, .stu 0, by decide +kernel, jobShaped_of _ (by decide +kernel), by decide +kernel⟩⟩

theorem wit_LaneInstructions :
    (∃ (s : State) (n : Fin 18), (s.lane n).job = none)
    ∧ (∃ (s : State) (n : Fin 18) (j : LaneJob) (w : Word), (s.lane n).job = some j ∧ j.Shaped ∧ j.ended = false ∧ w = s.laneWord j ∧ wFld w 31 29 = opNOP)
    ∧ (∃ (s : State) (n : Fin 18) (j : LaneJob) (w : Word), (s.lane n).job = some j ∧ j.Shaped ∧ j.ended = false ∧ w = s.laneWord j ∧ wFld w 31 29 = opREP)
    ∧ (∃ (s : State) (n : Fin 18) (j : LaneJob) (w : Word), (s.lane n).job = some j ∧ j.Shaped ∧ j.ended = false ∧ w = s.laneWord j ∧ wFld w 31 29 = opMAC)
    ∧ (∃ (s : State) (n : Fin 18) (j : LaneJob) (w : Word) (a : _), (s.lane n).job = some j ∧ j.Shaped ∧ j.ended = false ∧ w = s.laneWord j ∧ wFld w 31 29 = opSTX ∧ j.idx w < j.nx ∧ j.idx w < 6 ∧ j.wideLow (j.idx w) = false ∧ j.wide (j.idx w) = false ∧ a = j.accAt (j.accOf w))
    ∧ (∃ (s : State) (n : Fin 18) (j : LaneJob) (w : Word) (v : _), (s.lane n).job = some j ∧ j.Shaped ∧ j.ended = false ∧ w = s.laneWord j ∧ wFld w 31 29 = opSTX ∧ j.idx w < j.nx ∧ j.idx w < 5 ∧ j.wideLow (j.idx w) = false ∧ j.wide (j.idx w) = true ∧ (j.accAt (j.accOf w)).st = false ∧ v = wrapN 32 (sat32 (rneDiv ((j.accAt (j.accOf w)).val * (2 ^ (j.shift (4 * j.idx w) + 9).toNat : Nat) + (if wBit j.rowSelf (j.idx w) then sgn 32 ((j.x[j.idx w]?).getD 0 * 65536 + (j.x[j.idx w + 1]?).getD 0) * 2 ^ 8 else 0)) (2 ^ 8))))
    ∧ (∃ (s : State) (n : Fin 18) (j : LaneJob) (w : Word), (s.lane n).job = some j ∧ j.Shaped ∧ j.ended = false ∧ w = s.laneWord j ∧ wFld w 31 29 = opSTX ∧ (j.nx ≤ j.idx w ∨ j.wideLow (j.idx w) = true))
    ∧ (∃ (s : State) (n : Fin 18) (j : LaneJob) (w : Word), (s.lane n).job = some j ∧ j.Shaped ∧ j.ended = false ∧ w = s.laneWord j ∧ wFld w 31 29 = opSTU ∧ j.idx w < j.nu ∧ j.idx w < 2 ∧ (j.accAt (j.accOf w)).st = false)
    ∧ (∃ (s : State) (n : Fin 18) (j : LaneJob) (w : Word), (s.lane n).job = some j ∧ j.Shaped ∧ j.ended = false ∧ w = s.laneWord j ∧ wFld w 31 29 = opSTU ∧ j.idx w < j.nu ∧ j.idx w < 2 ∧ (j.accAt (j.accOf w)).st = true)
    ∧ (∃ (s : State) (n : Fin 18) (j : LaneJob) (w : Word) (u : _) (lo : _) (hi : _), (s.lane n).job = some j ∧ j.Shaped ∧ j.ended = false ∧ w = s.laneWord j ∧ wFld w 31 29 = opLIM ∧ j.idx w < j.nu ∧ j.idx w < 2 ∧ u = intAt j.u (j.idx w) + (if j.linj = 5 + j.idx w then intAt j.m 9 else 0) ∧ lo = loS (if j.idx w = 0 then j.ulim0 else j.ulim1) ∧ hi = hiS (if j.idx w = 0 then j.ulim0 else j.ulim1) ∧ lo ≤ hi) :=
  ⟨⟨b0, 17, by decide +kernel⟩,
   ⟨lj 0 J, 0, J, 0, by decide +kernel, jobShaped_of _ (by decide +kernel), by decide +kernel⟩,
   ⟨lj 0xA0000000 J, 0, J, 0xA0000000, by decide +kernel, jobShaped_of _ (by decide +kernel), by decide +kernel⟩,
   ⟨lj 0x20000000 J, 0, J, 0x20000000, by decide +kernel, jobShaped_of _ (by decide +kernel), by decide +kernel⟩,
   ⟨lj 0x40000008 { J with cfg := 0x00208000 }, 0, { J with cfg := 0x00208000 }, 0x40000008, {}, by decide +kernel, jobShaped_of _ (by decide +kernel), by decide +kernel⟩,
   ⟨lj 0x40000000 { J with cfg := 0x00208200 }, 0, { J with cfg := 0x00208200 }, 0x40000000, 0, by decide +kernel, jobShaped_of _ (by decide +kernel), by decide +kernel⟩,
   ⟨lj 0x40000010 { J with cfg := 0x00208000 }, 0, { J with cfg := 0x00208000 }, 0x40000010, by decide +kernel, jobShaped_of _ (by decide +kernel), by decide +kernel⟩,
   ⟨lj 0x60000000 { J with cfg := 0x00208000 }, 0, { J with cfg := 0x00208000 }, 0x60000000, by decide +kernel, jobShaped_of _ (by decide +kernel), by decide +kernel⟩,
   ⟨lj 0x60000000 { J with cfg := 0x00208000, acc := List.replicate 8 { st := true } }, 0, { J with cfg := 0x00208000, acc := List.replicate 8 { st := true } }, 0x60000000, by decide +kernel, jobShaped_of _ (by decide +kernel), by decide +kernel⟩,
   ⟨lj 0x80000000 { J with cfg := 0x00208000 }, 0, { J with cfg := 0x00208000 }, 0x80000000, 0, 0, 0, by decide +kernel, jobShaped_of _ (by decide +kernel), by decide +kernel⟩⟩

theorem wit_JobsToRelease :
    (∃ (s : State) (n : Nat) (q : LawJob) (rest : List LawJob), s.freeLane = some n ∧ s.law.jobs = q :: rest)
    ∧ (∃ (s : State) (n : Nat), s.freeLane = some n ∧ s.law.jobs = [])
    ∧ (∃ (s : State) (i : Nat), s.freeLane = none ∧ s.law.jobs.findIdx? (fun j => !j.waited) = some i)
    ∧ (∃ (s : State) (n : Fin 18) (j : LaneJob) (stamp : Nat) (slack : _), (s.lane n).job = some j ∧ j.ended = true ∧ j.latched = false ∧ j.held = false ∧ slack = clampI (-32768) 32767 ((((j.rel * 32 : Nat) : Int) - stamp) * 5 / 16) ∧ stamp < j.rel * 32)
    ∧ (∃ (s : State) (n : Fin 18) (j : LaneJob) (stamp : Nat) (slack : _), (s.lane n).job = some j ∧ j.ended = true ∧ j.latched = false ∧ j.held = false ∧ slack = clampI (-32768) 32767 ((((j.rel * 32 : Nat) : Int) - stamp) * 5 / 16) ∧ j.rel * 32 ≤ stamp)
    ∧ (∃ (s : State) (r : Trigger) (n : Fin 18) (j : LaneJob), s.law.jobs = [] ∧ (s.lane n).job = some j ∧ (∀ k, k < 18 → k ≠ n.val → (s.lane k).job = none) ∧ s.triggeredBy j.axis r = true ∧ j.held = false ∧ s.lawsRun = true ∧ j.latched = true)
    ∧ (∃ (s : State) (r : Trigger) (n : Fin 18) (j : LaneJob), s.law.jobs = [] ∧ (s.lane n).job = some j ∧ (∀ k, k < 18 → k ≠ n.val → (s.lane k).job = none) ∧ s.triggeredBy j.axis r = true ∧ j.held = false ∧ s.lawsRun = true ∧ j.latched = false) :=
  ⟨⟨{ st [] with law := { jobs := [{ axis := 3, cyc := 0, rel := 2000, waited := false }] } }, 0, { axis := 3, cyc := 0, rel := 2000, waited := false }, [], by decide +kernel⟩,
   ⟨b0, 0, by decide +kernel⟩,
   ⟨{ st [] with law := { jobs := [{ axis := 3, cyc := 0, rel := 2000, waited := false }], lanes := (List.range 18).map (fun n => (n, { state := 4 })) } }, 0, by decide +kernel⟩,
   ⟨lj 0 { J with ended := true }, 0, { J with ended := true }, 63999, 0, by decide +kernel⟩,
   ⟨lj 0 { J with ended := true }, 0, { J with ended := true }, 64000, 0, by decide +kernel⟩,
   ⟨lj 0 { J with latched := true }, .slot 0 0, 0, { J with latched := true }, by decide +kernel⟩,
   ⟨lj 0 J, .slot 0 0, 0, J, by decide +kernel⟩⟩

theorem wit_CoefficientSwap :
    (∃ (s : State) (m : Fin 32) (a : Fin 256) (v : Word), s.may m (Reg.LAW_STG_CTRL a) true ∧ wFld v 31 29 = 4 ∧ s.bit (Reg.LAW_STG_STAT a) 30 = false)
    ∧ (∃ (s : State) (m : Fin 32) (a : Fin 256) (v : Word), s.may m (Reg.LAW_STG_CTRL a) true ∧ wFld v 31 29 = 4 ∧ s.bit (Reg.LAW_STG_STAT a) 30 = true)
    ∧ (∃ (s : State) (m : Fin 32) (a : Fin 256) (v : Word), s.may m (Reg.LAW_STG_CTRL a) true ∧ wFld v 31 29 = 2)
    ∧ (∃ (s : State) (m : Fin 32) (a : Fin 256) (v : Word), s.may m (Reg.LAW_STG_CTRL a) true ∧ wFld v 31 29 = 1 ∧ s.bit (Reg.LAW_STG_STAT a) 31 = false ∧ s.bit (Reg.LAW_STG_STAT a) 30 = false)
    ∧ (∃ (s : State) (m : Fin 32) (a : Fin 256) (v : Word), s.may m (Reg.LAW_STG_CTRL a) true ∧ wFld v 31 29 = 1 ∧ (s.bit (Reg.LAW_STG_STAT a) 31 = true ∨ s.bit (Reg.LAW_STG_STAT a) 30 = true))
    ∧ (∃ (s : State) (m : Fin 32) (a : Fin 256) (v : Word), s.may m (Reg.LAW_STG_CTRL a) true ∧ wFld v 31 29 = 5 ∧ s.bit (Reg.LAW_STG_STAT a) 31 = true)
    ∧ (∃ (s : State) (m : Fin 32) (a : Fin 256) (v : Word), s.may m (Reg.LAW_STG_CTRL a) true ∧ wFld v 31 29 = 5 ∧ s.bit (Reg.LAW_STG_STAT a) 31 = false ∧ s.bit (Reg.LAW_STG_STAT a) 30 = false)
    ∧ (∃ (s : State) (a : Fin 256), s.bit (Reg.LAW_STG_STAT a) 30 = true)
    ∧ (∃ (s : State) (a : Fin 256), s.bit (Reg.LAW_STG_STAT a) 30 = false)
    ∧ (∃ (s : State) (a : Fin 256) (p : Swap), (s.axis a).swap = some p ∧ (s.axis a).deferred = true ∧ s.inFlight a = false ∧ ulimBad (s.rd (Reg.LAW_STG_BANK a 49)) = false ∧ ulimBad (s.rd (Reg.LAW_STG_BANK a 50)) = false)
    ∧ (∃ (s : State) (a : Fin 256) (p : Swap), (s.axis a).swap = some p ∧ (s.axis a).deferred = true ∧ s.inFlight a = false ∧ (ulimBad (s.rd (Reg.LAW_STG_BANK a 49)) = true ∨ ulimBad (s.rd (Reg.LAW_STG_BANK a 50)) = true))
    ∧ (∃ (s : State) (a : Fin 256), ((s.axis a).swap = none ∨ (s.axis a).deferred = false ∨ s.inFlight a = true)) :=
  ⟨⟨so [(Reg.LAW_STG_STAT 255, 0)], 16, 255, 0x80000000, by decide +kernel⟩,
   ⟨so [(Reg.LAW_STG_STAT 255, 0x40000000)], 16, 255, 0x80000000, by decide +kernel⟩,
   ⟨so [(Reg.LAW_STG_STAT 255, 0)], 16, 255, 0x40000000, by decide +kernel⟩,
   ⟨so [(Reg.LAW_STG_STAT 255, 0)], 16, 255, 0x20000000, by decide +kernel⟩,
   ⟨so [(Reg.LAW_STG_STAT 255, 0x80000000)], 16, 255, 0x20000000, by decide +kernel⟩,
   ⟨so [(Reg.LAW_STG_STAT 255, 0x80000000)], 16, 255, 0xA0000000, by decide +kernel⟩,
   ⟨so [], 16, 255, 0xA0000000, by decide +kernel⟩,
   ⟨st [(Reg.LAW_STG_STAT 255, 0x40000000)], 255, by decide +kernel⟩,
   ⟨b0, 255, by decide +kernel⟩,
   ⟨{ st [] with law := { axes := [(255, { swap := some ⟨5, 0, false⟩, deferred := true })] } }, 255, ⟨5, 0, false⟩, by decide +kernel⟩,
   ⟨{ st [(Reg.LAW_STG_BANK 255 49, 0x00000001)] with law := { axes := [(255, { swap := some ⟨5, 0, false⟩, deferred := true })] } }, 255, ⟨5, 0, false⟩, by decide +kernel⟩,
   ⟨b0, 255, by decide +kernel⟩⟩

theorem wit_LaneRetirementAndChecks :
    (∃ (s : State) (v : Word) (l : Nat), wBit v 31 = true ∧ wBit v 30 = false ∧ l = wFld v 4 0 ∧ l < 18 ∧ (s.lane l).state = 0)
    ∧ (∃ (s : State) (v : Word) (l : Nat), wBit v 31 = true ∧ wBit v 30 = false ∧ l = wFld v 4 0 ∧ l < 18 ∧ (s.lane l).state = 1)
    ∧ (∃ (s : State) (v : Word) (l : Nat), wBit v 31 = true ∧ wBit v 30 = false ∧ l = wFld v 4 0 ∧ l < 18 ∧ 2 ≤ (s.lane l).state)
    ∧ (∃ (s : State) (m : Fin 32) (v : Word), m.val ≠ 0 ∧ s.may m Reg.GAL_CTRL true ∧ wBit v 31 = true ∧ wBit v 30 = false)
    ∧ (∃ (s : State) (m : Fin 32) (v : Word), s.may m Reg.GAL_CTRL true ∧ wBit v 31 = false ∧ wBit v 30 = true)
    ∧ (∃ (s : State) (m : Fin 32) (v : Word), s.may m Reg.GAL_CHK true ∧ wBit v 31 = true ∧ s.mode = mMAINTENANCE)
    ∧ (∃ (s : State) (m : Fin 32) (v : Word), s.may m Reg.GAL_CHK true ∧ (wBit v 31 = false ∨ s.mode ≠ mMAINTENANCE))
    ∧ (∃ (s : State), s.bit Reg.GAL_CHK 30 = true)
    ∧ (∃ (s : State), s.bit Reg.GAL_CHK 30 = false) :=
  ⟨⟨b0, 0x8000000F, 15, by decide +kernel⟩,
   ⟨b0, 0x80000011, 17, by decide +kernel⟩,
   ⟨{ st [] with law := { lanes := [(0, { state := 2 })] } }, 0x80000000, 0, by decide +kernel⟩,
   ⟨so [], 16, 0x80000000, by decide +kernel⟩,
   ⟨so [], 16, 0x40000000, by decide +kernel⟩,
   ⟨so [(Reg.SYS_MODE, 11)], 16, 0x80000000, by decide +kernel⟩,
   ⟨so [], 16, 0x80000000, by decide +kernel⟩,
   ⟨st [(Reg.GAL_CHK, 0x40000000)], by decide +kernel⟩,
   ⟨b0, by decide +kernel⟩⟩

theorem wit_LearnerControl :
    (∃ (s : State) (m : Fin 32) (a : Fin 256) (v : Word), s.may m (Reg.LRN_CTRL a) true ∧ wBit v 2 = false)
    ∧ (∃ (s : State) (m : Fin 32) (a : Fin 256) (v : Word), s.may m (Reg.LRN_CTRL a) true ∧ wBit v 2 = true ∧ s.lrnOn a = true ∧ s.fld Reg.LRN_REGION 5 0 ≠ 0)
    ∧ (∃ (s : State) (m : Fin 32) (a : Fin 256) (v : Word), s.may m (Reg.LRN_CTRL a) true ∧ wBit v 2 = true ∧ (s.lrnOn a = false ∨ s.fld Reg.LRN_REGION 5 0 = 0))
    ∧ (∃ (s : State) (a : Fin 256), s.bit (Reg.LRN_STAT a) 29 = true ∧ (s.axis a).zeroRun = true ∧ (∀ i, i < s.lrnBins a / 4 → s.allowed 10 (hallBase + (s.lrnTable a + 8 * i)) 8 true = true))
    ∧ (∃ (s : State) (a : Fin 256), (s.bit (Reg.LRN_STAT a) 29 = false ∨ (s.axis a).zeroRun = false)) :=
  ⟨⟨so [], 16, 255, 3, by decide +kernel⟩,
   ⟨so [(Reg.LRN_CFG 255, 0x80000000), (Reg.LRN_REGION, 1)], 16, 255, 4, by decide +kernel⟩,
   ⟨so [(Reg.LRN_CFG 255, 0x80000000)], 16, 255, 4, by decide +kernel⟩,
   ⟨{ so [(Reg.LRN_CFG 255, 0x80000000), (Reg.LRN_REGION, 1), (Reg.LRN_STAT 255, 0x20000000)] with law := { axes := [(255, { zeroRun := true })] } }, 255, by decide +kernel⟩,
   ⟨b0, 255, by decide +kernel⟩⟩

theorem wit_PulseDirection :
    (∃ (s : State) (ch : Fin 16) (sa : Nat) (sb : Nat) (b : Bool) (b' : Bool), s.chMode ch = 2 ∧ s.fld (Reg.FBK_CH_CFG ch) 25 22 < sa ∧ b' = (if s.fld (Reg.FBK_CH_CFG ch) 25 22 < sb then b else (s.chan ch).b))
    ∧ (∃ (s : State) (ch : Fin 16) (sa : Nat), s.chMode ch = 2 ∧ sa ≤ s.fld (Reg.FBK_CH_CFG ch) 25 22)
    ∧ (∃ (s : State) (ch : Fin 16) (sz : Nat), s.chMode ch = 2 ∧ s.fld (Reg.FBK_CH_CFG ch) 25 22 < sz)
    ∧ (∃ (s : State) (ch : Fin 16) (sz : Nat), s.chMode ch = 2 ∧ sz ≤ s.fld (Reg.FBK_CH_CFG ch) 25 22) :=
  ⟨⟨st [(Reg.FBK_CH_CFG 15, 0x40000000)], 15, 1, 0, true, false, by decide +kernel⟩,
   ⟨st [(Reg.FBK_CH_CFG 15, 0x40000000)], 15, 0, by decide +kernel⟩,
   ⟨st [(Reg.FBK_CH_CFG 15, 0x40000000)], 15, 1, by decide +kernel⟩,
   ⟨st [(Reg.FBK_CH_CFG 15, 0x40000000)], 15, 0, by decide +kernel⟩⟩

theorem wit_FeedbackChannels :
    (∃ (s : State) (ch : Fin 16) (sa : Nat) (sb : Nat) (a : Bool) (b : Bool) (a' : Bool) (b' : Bool), a' = (if s.fld (Reg.FBK_CH_CFG ch) 25 22 < sa then a else (s.chan ch).a) ∧ b' = (if s.fld (Reg.FBK_CH_CFG ch) 25 22 < sb then b else (s.chan ch).b) ∧ (s.chMode ch ≠ 1 ∨ (a' = (s.chan ch).a ∧ b' = (s.chan ch).b)))
    ∧ (∃ (s : State) (ch : Fin 16) (sa : Nat) (sb : Nat) (a : Bool) (b : Bool) (a' : Bool) (b' : Bool), a' = (if s.fld (Reg.FBK_CH_CFG ch) 25 22 < sa then a else (s.chan ch).a) ∧ b' = (if s.fld (Reg.FBK_CH_CFG ch) 25 22 < sb then b else (s.chan ch).b) ∧ s.chMode ch = 1 ∧ a' ≠ (s.chan ch).a ∧ b' = (s.chan ch).b)
    ∧ (∃ (s : State) (ch : Fin 16) (sa : Nat) (sb : Nat) (a : Bool) (b : Bool) (a' : Bool) (b' : Bool), a' = (if s.fld (Reg.FBK_CH_CFG ch) 25 22 < sa then a else (s.chan ch).a) ∧ b' = (if s.fld (Reg.FBK_CH_CFG ch) 25 22 < sb then b else (s.chan ch).b) ∧ s.chMode ch = 1 ∧ a' = (s.chan ch).a ∧ b' ≠ (s.chan ch).b)
    ∧ (∃ (s : State) (ch : Fin 16) (sa : Nat) (sb : Nat) (a : Bool) (b : Bool) (a' : Bool) (b' : Bool), a' = (if s.fld (Reg.FBK_CH_CFG ch) 25 22 < sa then a else (s.chan ch).a) ∧ b' = (if s.fld (Reg.FBK_CH_CFG ch) 25 22 < sb then b else (s.chan ch).b) ∧ s.chMode ch = 1 ∧ a' ≠ (s.chan ch).a ∧ b' ≠ (s.chan ch).b)
    ∧ (∃ (s : State) (ch : Fin 16) (sz : Nat), s.chMode ch = 1 ∧ s.fld (Reg.FBK_CH_CFG ch) 25 22 < sz ∧ (s.bit (Reg.FBK_CH_CFG ch) 27 = false ∨ ((s.chan ch).a = true ∧ (s.chan ch).b = true)))
    ∧ (∃ (s : State) (ch : Fin 16) (sz : Nat), s.chMode ch = 1 ∧ (sz ≤ s.fld (Reg.FBK_CH_CFG ch) 25 22 ∨ (s.bit (Reg.FBK_CH_CFG ch) 27 = true ∧ ((s.chan ch).a = false ∨ (s.chan ch).b = false))))
    ∧ (∃ (s : State) (ch : Fin 16) (tick : Nat), (s.sampleInstant ch tick = false ∨ (s.chan ch).smpAt = some (s.tick0 + tick)))
    ∧ (∃ (s : State) (ch : Fin 16) (tick : Nat) (v : _) (lo : _) (hi : _), s.sampleInstant ch tick = true ∧ (s.chan ch).smpAt ≠ some (s.tick0 + tick) ∧ (s.chMode ch = 1 ∨ s.chMode ch = 2) ∧ v = sgn 48 (wrapN 48 (sgn 48 (wrapN 48 (s.chan ch).cnt) - (s.source ch).orgNew.getD (s.source ch).org)) ∧ (lo, hi) = (s.source ch).limNew.getD ((s.source ch).limLo, (s.source ch).limHi) ∧ lo ≤ hi)
    ∧ (∃ (s : State) (ch : Fin 16) (tick : Nat) (v : _) (st : _) (w : _) (d : _), s.sampleInstant ch tick = true ∧ (s.chan ch).smpAt ≠ some (s.tick0 + tick) ∧ (s.chMode ch = 3 ∨ s.chMode ch = 4) ∧ (s.chan ch).ready = true ∧ (s.chan ch).good = some (v, st) ∧ s.bit (Reg.SRC_STAT ch) 24 = true ∧ w = s.fld (Reg.FBK_CH_SER0 ch) 29 24 ∧ d = sgn w ((v + 2 ^ w - (s.source ch).vPrev % 2 ^ w) % 2 ^ w))
    ∧ (∃ (s : State) (ch : Fin 16) (tick : Nat), s.sampleInstant ch tick = true ∧ (s.chan ch).smpAt ≠ some (s.tick0 + tick) ∧ (s.chMode ch = 3 ∨ s.chMode ch = 4) ∧ (s.chan ch).ready = false)
    ∧ (∃ (s : State) (ch : Fin 16) (tick : Nat), (s.chMode ch = 3 ∨ s.chMode ch = 4) ∧ s.sampleComes ch tick = true ∧ (s.chan ch).reading = none ∧ (s.chan ch).readFrom ≤ ((s.tick0 + tick : Nat) : Int))
    ∧ (∃ (s : State) (ch : Fin 16) (tick : Nat), ((s.chMode ch ≠ 3 ∧ s.chMode ch ≠ 4) ∨ s.sampleComes ch tick = false ∨ (s.chan ch).reading.isSome ∨ ((s.tick0 + tick : Nat) : Int) < (s.chan ch).readFrom))
    ∧ (∃ (s : State) (ch : Fin 16) (d : SerialData), ((s.chan ch).reading = none ∨ d.bits.length ≠ s.fld (Reg.FBK_CH_SER0 ch) 21 16))
    ∧ (∃ (s : State) (ch : Fin 16) (st : Int) (d : SerialData) (f : _), (s.chan ch).reading = some st ∧ d.bits.length = s.fld (Reg.FBK_CH_SER0 ch) 21 16 ∧ s.chMode ch = 3 ∧ s.bit (Reg.FBK_CH_SER1 ch) 25 = false ∧ f = (d.bits.drop (s.fld (Reg.FBK_CH_SER1 ch) 31 26)).take (s.fld (Reg.FBK_CH_SER0 ch) 29 24))
    ∧ (∃ (s : State) (ch : Fin 16) (st : Int) (d : SerialData), (s.chan ch).reading = some st ∧ d.bits.length = s.fld (Reg.FBK_CH_SER0 ch) 21 16 ∧ s.chMode ch = 4 ∧ crc8 d.bits 0 = d.crc ∧ (d.bits[s.fld (Reg.FBK_CH_SER0 ch) 29 24]?).getD false = false)
    ∧ (∃ (s : State) (ch : Fin 16) (st : Int) (d : SerialData), (s.chan ch).reading = some st ∧ d.bits.length = s.fld (Reg.FBK_CH_SER0 ch) 21 16 ∧ s.chMode ch = 4 ∧ crc8 d.bits 0 ≠ d.crc)
    ∧ (∃ (s : State) (ch : Fin 16) (st : Int) (d : SerialData), (s.chan ch).reading = some st ∧ d.bits.length = s.fld (Reg.FBK_CH_SER0 ch) 21 16 ∧ s.chMode ch = 4)
    ∧ (∃ (s : State) (m : Fin 32) (n : Fin 528), s.may m (Reg.SRC_ORGHI n) true)
    ∧ (∃ (s : State) (m : Fin 32) (n : Fin 528) (v : Word), s.may m (Reg.SRC_LIMHI n) true ∧ s32 (s.rd (Reg.SRC_LIMLO n)) ≤ s32 v)
    ∧ (∃ (s : State) (m : Fin 32) (n : Fin 528) (v : Word), s.may m (Reg.SRC_LIMHI n) true ∧ s32 v < s32 (s.rd (Reg.SRC_LIMLO n)))
    ∧ (∃ (s : State) (m : Fin 8), s.fld (Reg.FBK_PT_CFG m) 31 30 = 1)
    ∧ (∃ (s : State) (m : Fin 8) (tick : Nat) (due : Int), s.fld (Reg.FBK_PT_CFG m) 31 30 = 2 ∧ due = max ((s.pout m).smpT + (s.pout m).done * (s.pout m).smpI / (s.pout m).smpN) (s.pout m).free ∧ (s.pout m).target ≠ (s.pout m).out ∧ due ≤ ((s.tick0 + tick : Nat) : Int))
    ∧ (∃ (s : State) (m : Fin 8) (tick : Nat) (due : Int), s.fld (Reg.FBK_PT_CFG m) 31 30 = 2 ∧ due = max ((s.pout m).smpT + (s.pout m).done * (s.pout m).smpI / (s.pout m).smpN) (s.pout m).free ∧ ((s.pout m).target = (s.pout m).out ∨ ((s.tick0 + tick : Nat) : Int) < due)) :=
  ⟨⟨b0, 15, 0, 0, false, false, false, false, by decide +kernel⟩,
   ⟨{ st [(Reg.FBK_CH_CFG 15, 0x20000000)] with fbk := { chans := [(15, { z := true })] } }, 15, 1, 0, true, false, true, false, by decide +kernel⟩,
   ⟨{ st [(Reg.FBK_CH_CFG 15, 0x20000000)] with fbk := { chans := [(15, { z := true })] } }, 15, 0, 1, false, true, false, true, by decide +kernel⟩,
   ⟨{ st [(Reg.FBK_CH_CFG 15, 0x20000000)] with fbk := { chans := [(15, { z := true })] } }, 15, 1, 1, true, true, true, true, by decide +kernel⟩,
   ⟨{ st [(Reg.FBK_CH_CFG 15, 0x20000000)] with fbk := { chans := [(15, { z := true })] } }, 15, 1, by decide +kernel⟩,
   ⟨{ st [(Reg.FBK_CH_CFG 15, 0x28000000)] with fbk := { chans := [(15, { z := true })] } }, 15, 1, by decide +kernel⟩,
   ⟨b0, 15, 7, by decide +kernel⟩,
   ⟨{ st [(Reg.FBK_CH_CFG 15, 0x20000000), (Reg.FBK_CH_SMP 15, 0x80000000)] with fbk := { chans := [(15, { cnt := 7 })] } }, 15, 0, 7, -2147483648, 2147483647, by decide +kernel⟩,
   ⟨{ st [(Reg.FBK_CH_CFG 15, 0x60000000), (Reg.FBK_CH_SMP 15, 0x80000000), (Reg.SRC_STAT 15, 0x01000000), (Reg.FBK_CH_SER0 15, 0x08000000)] with fbk := { chans := [(15, { ready := true, good := some (255, 10) })] } }, 15, 0, 255, 10, 8, -1, by decide +kernel⟩,
   ⟨st [(Reg.FBK_CH_CFG 15, 0x60000000), (Reg.FBK_CH_SMP 15, 0x80000000)], 15, 0, by decide +kernel⟩,
   ⟨st [(Reg.FBK_CH_CFG 15, 0x60000000), (Reg.FBK_CH_SMP 15, 0x80000000)], 15, 0, by decide +kernel⟩,
   ⟨b0, 15, 0, by decide +kernel⟩,
   ⟨b0, 15, { bits := [], crc := 0, delay := 0 }, by decide +kernel⟩,
   ⟨{ st [(Reg.FBK_CH_CFG 15, 0x60000000), (Reg.FBK_CH_SER0 15, 0x02020000)] with fbk := { chans := [(15, { reading := some 5 })] } }, 15, 5, { bits := [true, false], crc := 0, delay := 0 }, [true, false], by decide +kernel⟩,
   ⟨{ st [(Reg.FBK_CH_CFG 15, 0x80000000), (Reg.FBK_CH_SER0 15, 0x00020000)] with fbk := { chans := [(15, { reading := some 5 })] } }, 15, 5, { bits := [false, true], crc := crc8 [false, true] 0, delay := 0 }, by decide +kernel⟩,
   ⟨{ st [(Reg.FBK_CH_CFG 15, 0x80000000), (Reg.FBK_CH_SER0 15, 0x00020000)] with fbk := { chans := [(15, { reading := some 5 })] } }, 15, 5, { bits := [true, false], crc := 256, delay := 0 }, by decide +kernel⟩,
   ⟨{ st [(Reg.FBK_CH_CFG 15, 0x80000000), (Reg.FBK_CH_SER0 15, 0x00020000)] with fbk := { chans := [(15, { reading := some 5 })] } }, 15, 5, { bits := [true, false], crc := 0, delay := 0 }, by decide +kernel⟩,
   ⟨so [], 16, 527, by decide +kernel⟩,
   ⟨so [(Reg.SRC_LIMLO 527, 0)], 16, 527, 0, by decide +kernel⟩,
   ⟨so [(Reg.SRC_LIMLO 527, 0)], 16, 527, 0xFFFFFFFF, by decide +kernel⟩,
   ⟨st [(Reg.FBK_PT_CFG 7, 0x40000000)], 7, by decide +kernel⟩,
   ⟨{ st [(Reg.FBK_PT_CFG 7, 0x80000000)] with fbk := { outs := [(7, { target := 1 })] } }, 7, 0, 0, by decide +kernel⟩,
   ⟨st [(Reg.FBK_PT_CFG 7, 0x80000000)], 7, 0, 0, by decide +kernel⟩⟩

theorem wit_MxExtension :
    (∃ (s : State) (k : Fin 10) (x : MxCtx) (a : Bool) (l : Bool) (r1 : Fin 32) (r2 : Fin 32) (sh : Fin 16) (imm : Fin 4096) (c : _), c ∈ mxCommands k x a l r1 r2 sh imm ∧ (s.coreRuns k = false ∨ isMx x.word = false ∨ (∃ o, mxDecode x.word = some o ∧ o ≠ c.1)))
    ∧ (∃ (s : State) (k : Fin 10) (x : MxCtx) (a : Bool) (l : Bool) (r1 : Fin 32) (r2 : Fin 32) (sh : Fin 16) (imm : Fin 4096) (c : Core) (i : _), s.coreRuns k = true ∧ isMx x.word = true ∧ mxDecode x.word = none ∧ c = (s.core k).arrive x ∧ i ∈ mxCommands k x a l r1 r2 sh imm)
    ∧ (∃ (s : State) (k : Fin 10) (x : MxCtx) (c : Core) (a : Bool) (r1 : Fin 32) (r2 : Fin 32) (e : Int), s.coreRuns k = true ∧ c = (s.core k).arrive x ∧ mxDecode x.word = some (.mac a r1 r2) ∧ e = (c.acc a).val + loS (c.reg r1) * loS (c.reg r2))
    ∧ (∃ (s : State) (k : Fin 10) (x : MxCtx) (c : Core) (r1 : Fin 32) (r2 : Fin 32), s.coreRuns k = true ∧ c = (s.core k).arrive x ∧ mxDecode x.word = some (.mac2 r1 r2))
    ∧ (∃ (s : State) (k : Fin 10) (x : MxCtx) (c : Core) (r1 : Fin 32) (r2 : Fin 32), s.coreRuns k = true ∧ c = (s.core k).arrive x ∧ mxDecode x.word = some (.macx2 r1 r2))
    ∧ (∃ (s : State) (k : Fin 10) (x : MxCtx) (c : Core) (a : Bool), s.coreRuns k = true ∧ c = (s.core k).arrive x ∧ mxDecode x.word = some (.clr a))
    ∧ (∃ (s : State) (k : Fin 10) (x : MxCtx) (c : Core), s.coreRuns k = true ∧ c = (s.core k).arrive x ∧ mxDecode x.word = some .clr2)
    ∧ (∃ (s : State) (k : Fin 10) (x : MxCtx) (c : Core) (a : Bool) (r1 : Fin 32) (r2 : Fin 32), s.coreRuns k = true ∧ c = (s.core k).arrive x ∧ mxDecode x.word = some (.wr a r1 r2))
    ∧ (∃ (s : State) (k : Fin 10) (x : MxCtx) (c : Core) (a : Bool) (rd : Fin 32) (sh : Fin 16), s.coreRuns k = true ∧ c = (s.core k).arrive x ∧ rd ≠ 0 ∧ mxDecode x.word = some (.rd rd a sh))
    ∧ (∃ (s : State) (k : Fin 10) (x : MxCtx) (c : Core) (a : Bool) (rd : Fin 32), s.coreRuns k = true ∧ c = (s.core k).arrive x ∧ rd ≠ 0 ∧ mxDecode x.word = some (.rdw rd a))
    ∧ (∃ (s : State) (k : Fin 10) (x : MxCtx) (c : Core) (a : Bool) (rd : Fin 32), s.coreRuns k = true ∧ c = (s.core k).arrive x ∧ rd ≠ 0 ∧ mxDecode x.word = some (.rdh rd a))
    ∧ (∃ (s : State) (k : Fin 10) (x : MxCtx) (c : Core) (a : Bool) (sh : Fin 16) (i : Instr), s.coreRuns k = true ∧ c = (s.core k).arrive x ∧ ((i = .mxRd k x 0 a sh ∧ mxDecode x.word = some (.rd 0 a sh)) ∨ (i = .mxRdw k x 0 a ∧ mxDecode x.word = some (.rdw 0 a)) ∨ (i = .mxRdh k x 0 a ∧ mxDecode x.word = some (.rdh 0 a))))
    ∧ (∃ (s : State) (k : Fin 10) (x : MxCtx) (c : Core) (r1 : Fin 32) (imm : Fin 4096) (ls : Word) (le : Word), s.coreRuns k = true ∧ c = (s.core k).arrive x ∧ mxDecode x.word = some (.loop r1 imm) ∧ ls = c.pc + 4 ∧ le = c.pc + word (2 * imm) ∧ c.lc = 0 ∧ ls ≤ le ∧ c.reg r1 ≠ 0)
    ∧ (∃ (s : State) (k : Fin 10) (x : MxCtx) (c : Core) (r1 : Fin 32) (imm : Fin 4096) (ls : Word) (le : Word), s.coreRuns k = true ∧ c = (s.core k).arrive x ∧ mxDecode x.word = some (.loop r1 imm) ∧ ls = c.pc + 4 ∧ le = c.pc + word (2 * imm) ∧ c.lc = 0 ∧ ls ≤ le ∧ c.reg r1 = 0)
    ∧ (∃ (s : State) (k : Fin 10) (x : MxCtx) (c : Core) (r1 : Fin 32) (imm : Fin 4096) (ls : Word) (le : Word), s.coreRuns k = true ∧ c = (s.core k).arrive x ∧ mxDecode x.word = some (.loop r1 imm) ∧ ls = c.pc + 4 ∧ le = c.pc + word (2 * imm) ∧ (c.lc ≠ 0 ∨ le < ls))
    ∧ (∃ (s : State) (k : Fin 10) (x : MxCtx) (c : Core) (r1 : Fin 32) (l : Bool) (a : Nat) (i : Instr), s.coreRuns k = true ∧ c = (s.core k).arrive x ∧ a = (c.reg r1).toNat ∧ a % 8 ≠ 0 ∧ ((i = .mxSave k x r1 l ∧ mxDecode x.word = some (.save r1)) ∨ (i = .mxRestore k x r1 l ∧ mxDecode x.word = some (.restore r1))))
    ∧ (∃ (s : State) (k : Fin 10) (x : MxCtx) (c : Core) (r1 : Fin 32) (l : Bool) (a : Nat), s.coreRuns k = true ∧ c = (s.core k).arrive x ∧ a = (c.reg r1).toNat ∧ a % 8 = 0 ∧ l = true ∧ mxDecode x.word = some (.save r1))
    ∧ (∃ (s : State) (k : Fin 10) (x : MxCtx) (c : Core) (r1 : Fin 32) (l : Bool) (a : Nat), s.coreRuns k = true ∧ c = (s.core k).arrive x ∧ a = (c.reg r1).toNat ∧ a % 8 = 0 ∧ l = true ∧ mxDecode x.word = some (.restore r1))
    ∧ (∃ (s : State) (k : Fin 10) (x : MxCtx) (c : Core) (r1 : Fin 32) (l : Bool) (a : Nat), s.coreRuns k = true ∧ c = (s.core k).arrive x ∧ a = (c.reg r1).toNat ∧ a % 8 = 0 ∧ l = false ∧ ((s.setCore k c).takeFree.busStore (coreMid k) a (c.saved (s.resv 20))).1 = true ∧ mxDecode x.word = some (.save r1))
    ∧ (∃ (s : State) (k : Fin 10) (x : MxCtx) (c : Core) (r1 : Fin 32) (l : Bool) (a : Nat), s.coreRuns k = true ∧ c = (s.core k).arrive x ∧ a = (c.reg r1).toNat ∧ a % 8 = 0 ∧ l = false ∧ ((s.setCore k c).takeFree.busStore (coreMid k) a (c.saved (s.resv 20))).1 = false ∧ mxDecode x.word = some (.save r1))
    ∧ (∃ (s : State) (k : Fin 10) (x : MxCtx) (c : Core) (r1 : Fin 32) (l : Bool) (a : Nat) (m : _), s.coreRuns k = true ∧ c = (s.core k).arrive x ∧ a = (c.reg r1).toNat ∧ a % 8 = 0 ∧ l = false ∧ ((s.setCore k c).busLoad (coreMid k) a 7).1 = some m ∧ mxDecode x.word = some (.restore r1))
    ∧ (∃ (s : State) (k : Fin 10) (x : MxCtx) (c : Core) (r1 : Fin 32) (l : Bool) (a : Nat), s.coreRuns k = true ∧ c = (s.core k).arrive x ∧ a = (c.reg r1).toNat ∧ a % 8 = 0 ∧ l = false ∧ ((s.setCore k c).busLoad (coreMid k) a 7).1 = none ∧ mxDecode x.word = some (.restore r1)) :=
  ⟨⟨b0, 0, X0 0x0400100B, false, false, 0, 0, 0, 0, (.clr2, .mxClr2 0 (X0 0x0400100B)), by decide +kernel⟩,
   ⟨mx, 0, X0 0x0000700B, false, false, 0, 0, 0, 0, (mx.core 0).arrive (X0 0x0000700B), (.clr2, .mxClr2 0 (X0 0x0000700B)), by decide +kernel⟩,
   ⟨mx, 0, X0 0x0020800B, (mx.core 0).arrive (X0 0x0020800B), false, 1, 2, 15, by decide +kernel⟩,
   ⟨mx, 0, X0 0x04D6000B, (mx.core 0).arrive (X0 0x04D6000B), 12, 13, by decide +kernel⟩,
   ⟨mx, 0, X0 0x0620800B, (mx.core 0).arrive (X0 0x0620800B), 1, 2, by decide +kernel⟩,
   ⟨mx, 0, X0 0x0000100B, (mx.core 0).arrive (X0 0x0000100B), false, by decide +kernel⟩,
   ⟨mx, 0, X0 0x0400100B, (mx.core 0).arrive (X0 0x0400100B), by decide +kernel⟩,
   ⟨mx, 0, X0 0x0020C00B, (mx.core 0).arrive (X0 0x0020C00B), false, 1, 2, by decide +kernel⟩,
   ⟨mx, 0, X0 0x00F02F8B, (mx.core 0).arrive (X0 0x00F02F8B), false, 31, 15, by decide +kernel⟩,
   ⟨mx, 0, X0 0x00003F8B, (mx.core 0).arrive (X0 0x00003F8B), false, 31, by decide +kernel⟩,
   ⟨mx, 0, X0 0x00303F8B, (mx.core 0).arrive (X0 0x00303F8B), true, 31, by decide +kernel⟩,
   ⟨mx, 0, X0 0x0000300B, (mx.core 0).arrive (X0 0x0000300B), false, 0, .mxRdw 0 (X0 0x0000300B) 0 false, by decide +kernel⟩,
   ⟨mx, 0, X0 0x0020D00B, (mx.core 0).arrive (X0 0x0020D00B), 1, 2, 0x1004, 0x1004, by decide +kernel⟩,
   ⟨mx, 0, X0 0x0020500B, (mx.core 0).arrive (X0 0x0020500B), 0, 2, 0x1004, 0x1004, by decide +kernel⟩,
   ⟨mx, 0, X0 0x0010D00B, (mx.core 0).arrive (X0 0x0010D00B), 1, 1, 0x1004, 0x1002, by decide +kernel⟩,
   ⟨mx, 0, X0 0x0000E00B, (mx.core 0).arrive (X0 0x0000E00B), 1, false, 3, .mxSave 0 (X0 0x0000E00B) 1 false, by decide +kernel⟩,
   ⟨mx, 0, X0 0x0001E00B, (mx.core 0).arrive (X0 0x0001E00B), 3, true, 0x20000000, by decide +kernel⟩,
   ⟨mx, 0, X0 0x0201E00B, (mx.core 0).arrive (X0 0x0201E00B), 3, true, 0x20000000, by decide +kernel⟩,
   ⟨mx, 0, X0 0x0001E00B, (mx.core 0).arrive (X0 0x0001E00B), 3, false, 0x20000000, by decide +kernel⟩,
   ⟨nomx, 0, X0 0x0001E00B, (nomx.core 0).arrive (X0 0x0001E00B), 3, false, 0x20000000, by decide +kernel⟩,
   ⟨mx, 0, X0 0x0201E00B, (mx.core 0).arrive (X0 0x0201E00B), 3, false, 0x20000000, ((mx.setCore 0 ((mx.core 0).arrive (X0 0x0201E00B))).busLoad (coreMid 0) 0x20000000 7).1.get (by decide +kernel), by and_intros <;> first | decide +kernel | exact (Option.some_get _).symm⟩,
   ⟨nomx, 0, X0 0x0201E00B, (nomx.core 0).arrive (X0 0x0201E00B), 3, false, 0x20000000, by decide +kernel⟩⟩

theorem wit_LandingsAndCommits :
    (∃ (s : State) (m : Fin 32) (k : Fin 32), m.val ≠ 0 ∧ s.may m (Reg.PRT_WIN_CTRL k) true)
    ∧ (∃ (s : State) (m : Fin 32) (h : Fin 4) (b : _) (n : _), m.val = 16 + h.val ∧ s.may m Reg.HST_IMG_LATCH false ∧ (s.land h).newest = some (b, n))
    ∧ (∃ (s : State) (m : Fin 32) (h : Fin 4), m.val = 16 + h.val ∧ s.may m Reg.HST_IMG_LATCH false ∧ (s.land h).newest = none)
    ∧ (∃ (s : State) (m : Fin 32) (h : Fin 4) (v : _) (c : Instr), m.val = 16 + h.val ∧ s.may m Reg.HST_IMG_RELEASE true ∧ c ∈ [Instr.imageRelease m v, .failoverAck m v])
    ∧ (∃ (s : State) (m : Fin 32) (h : Fin 4) (v : _), m.val = 16 + h.val ∧ s.may m Reg.HST_COMMIT true ∧ wBit v 31 = true ∧ wBit v 30 = false)
    ∧ (∃ (s : State) (m : Fin 32) (h : Fin 4) (v : _), m.val = 16 + h.val ∧ s.may m Reg.HST_COMMIT true ∧ wBit v 30 = true)
    ∧ (∃ (s : State) (m : Fin 32), (20 ≤ m.val ∨ (10 ≤ m.val ∧ m.val < 16)) ∧ (s.issues m Reg.HST_IMG_LATCH false = false ∨ s.allowed m Reg.HST_IMG_LATCH 4 false = true))
    ∧ (∃ (s : State) (m : Fin 32), (20 ≤ m.val ∨ (10 ≤ m.val ∧ m.val < 16)) ∧ (s.issues m Reg.HST_COMMIT true = false ∨ s.allowed m Reg.HST_COMMIT 4 true = true))
    ∧ (∃ (s : State) (h : Fin 4) (p : Fin 2), s.landPort h = some p.val)
    ∧ (∃ (s : State) (h : Fin 4) (p : Fin 2), s.landPort h ≠ some p.val)
    ∧ (∃ (s : State) (p : Fin 2), s.bit (Reg.HST_PCIE_STAT p) 31 = true)
    ∧ (∃ (s : State) (p : Fin 2), s.bit (Reg.HST_PCIE_STAT p) 31 = false)
    ∧ (∃ (s : State) (sp : Fin 4) (w : Fin 4), s.mode ≠ mOFF ∧ s.mode ≠ mRESET ∧ sp.val ≠ 0 ∧ (w.val = 1 ∨ w.val = 2))
    ∧ (∃ (s : State) (e : Fin 2), s.bit (Reg.HST_ETH_CFG e) 31 = true)
    ∧ (∃ (s : State) (e : Fin 2), s.bit (Reg.HST_ETH_CFG e) 31 = false)
    ∧ (∃ (s : State) (e : Fin 2), s.bit (Reg.HST_ETH_CFG e) 28 = true)
    ∧ (∃ (s : State) (e : Fin 2), s.bit (Reg.HST_ETH_CFG e) 28 = false) :=
  ⟨⟨so [], 16, 31, by decide +kernel⟩,
   ⟨{ so [] with hst := { (so []).hst with lands := [(3, { newest := some (1, 5) })] } }, 19, 3, 1, 5, by decide +kernel⟩,
   ⟨so [], 19, 3, by decide +kernel⟩,
   ⟨so [], 19, 3, 0x80000000, .failoverAck 19 0x80000000, by decide +kernel⟩,
   ⟨so [], 16, 0, 0x80000000, by decide +kernel⟩,
   ⟨so [], 16, 0, 0x40000000, by decide +kernel⟩,
   ⟨so [], 20, by decide +kernel⟩,
   ⟨so [], 15, by decide +kernel⟩,
   ⟨st [(Reg.HST_LAND_CFG 3, 0x90000000)], 3, 1, by decide +kernel⟩,
   ⟨st [(Reg.HST_LAND_CFG 3, 0xA0000000)], 3, 0, by decide +kernel⟩,
   ⟨st [(Reg.HST_PCIE_STAT 1, 0x80000000)], 1, by decide +kernel⟩,
   ⟨b0, 1, by decide +kernel⟩,
   ⟨st [(Reg.SYS_MODE, 2)], 3, 2, by decide +kernel⟩,
   ⟨st [(Reg.HST_ETH_CFG 1, 0x80000000)], 1, by decide +kernel⟩,
   ⟨b0, 1, by decide +kernel⟩,
   ⟨st [(Reg.HST_ETH_CFG 1, 0x10000000)], 1, by decide +kernel⟩,
   ⟨b0, 1, by decide +kernel⟩⟩

theorem wit_ZhevuAndEthernet :
    (∃ (s : State) (h : Fin 4) (e : Nat) (p : ZPeer) (q : List Byte → Datagram) (a : Word) (n : Fin 257), s.landEth h = some e ∧ (s.land h).peer = some p ∧ q = Datagram.mk (s.rd (Reg.HST_ETH_IP4 e)).toNat (s.fld (Reg.HST_ETH_CFG e) 15 0) p ∧ a.toNat % 4 = 0 ∧ hallBase ≤ a.toNat ∧ a.toNat + 4 * n ≤ hallBase + 0x800000 ∧ (∀ i, i < n.val → s.allowed (16 + h) (a.toNat + 4 * i) 4 false = true ∧ s.hallBad (a.toNat - hallBase + 4 * i) = false))
    ∧ (∃ (s : State) (h : Fin 4) (e : Nat) (p : ZPeer) (q : List Byte → Datagram) (a : Word) (n : Fin 257), s.landEth h = some e ∧ (s.land h).peer = some p ∧ q = Datagram.mk (s.rd (Reg.HST_ETH_IP4 e)).toNat (s.fld (Reg.HST_ETH_CFG e) 15 0) p ∧ a.toNat % 4 ≠ 0 ∧ 1 ≤ n.val)
    ∧ (∃ (s : State) (h : Fin 4) (e : Nat) (p : ZPeer) (q : List Byte → Datagram) (a : Word) (d : List Word), s.landEth h = some e ∧ (s.land h).peer = some p ∧ q = Datagram.mk (s.rd (Reg.HST_ETH_IP4 e)).toNat (s.fld (Reg.HST_ETH_CFG e) 15 0) p ∧ 1 ≤ d.length ∧ d.length ≤ 256 ∧ a.toNat % 4 = 0 ∧ hallBase ≤ a.toNat ∧ a.toNat + 4 * d.length ≤ hallBase + 0x800000 ∧ (∀ i, i < d.length → s.allowed (16 + h) (a.toNat + 4 * i) 4 true = true ∧ s.hallBad (a.toNat - hallBase + 4 * i) = false))
    ∧ (∃ (s : State) (h : Fin 4) (e : Nat) (p : ZPeer) (q : List Byte → Datagram) (a : Word) (d : List Word), s.landEth h = some e ∧ (s.land h).peer = some p ∧ q = Datagram.mk (s.rd (Reg.HST_ETH_IP4 e)).toNat (s.fld (Reg.HST_ETH_CFG e) 15 0) p ∧ 1 ≤ d.length ∧ d.length ≤ 256 ∧ a.toNat % 4 = 0 ∧ hallBase ≤ a.toNat ∧ a.toNat + 4 * d.length ≤ hallBase + 0x800000 ∧ s.allowed (16 + h) a.toNat 4 true = false)
    ∧ (∃ (s : State) (h : Fin 4) (e : Nat) (p : ZPeer) (q : List Byte → Datagram) (ch : Fin 64), s.landEth h = some e ∧ (s.land h).peer = some p ∧ q = Datagram.mk (s.rd (Reg.HST_ETH_IP4 e)).toNat (s.fld (Reg.HST_ETH_CFG e) 15 0) p ∧ s.allowed (16 + h) (Reg.MBX_CH_DBSET ch) 4 true = true ∧ s.sends ch (16 + h) = true)
    ∧ (∃ (s : State) (h : Fin 4) (e : Nat) (p : ZPeer) (q : List Byte → Datagram) (ch : Fin 64), s.landEth h = some e ∧ (s.land h).peer = some p ∧ q = Datagram.mk (s.rd (Reg.HST_ETH_IP4 e)).toNat (s.fld (Reg.HST_ETH_CFG e) 15 0) p ∧ s.allowed (16 + h) (Reg.MBX_CH_DBSET ch) 4 true = true ∧ s.sends ch (16 + h) = false)
    ∧ (∃ (s : State) (h : Fin 4) (e : Nat) (p : ZPeer) (q : List Byte → Datagram) (ch : Fin 64), s.landEth h = some e ∧ (s.land h).peer = some p ∧ q = Datagram.mk (s.rd (Reg.HST_ETH_IP4 e)).toNat (s.fld (Reg.HST_ETH_CFG e) 15 0) p ∧ s.allowed (16 + h) (Reg.MBX_CH_DBSET ch) 4 true = false)
    ∧ (∃ (s : State) (h : Fin 4) (e : Nat) (p : ZPeer) (q : List Byte → Datagram) (ch : Fin 64), s.landEth h = some e ∧ (s.land h).peer = some p ∧ q = Datagram.mk (s.rd (Reg.HST_ETH_IP4 e)).toNat (s.fld (Reg.HST_ETH_CFG e) 15 0) p ∧ s.receives ch (16 + h) = true ∧ s.belled ch = true)
    ∧ (∃ (s : State) (e : Fin 2) (b : List Byte) (u : Udp) (c : Instr), s.bit (Reg.HST_ETH_CFG e) 31 = true ∧ s.zhevuUdp e b = some u ∧ b.length ≤ 1518 ∧ pauseFrame b = false ∧ c ∈ [Instr.zhevuDatagram e b, .ethernetReceive e b true 0] ∧ (∀ h, h < 4 → s.peerOf e u h = false))
    ∧ (∃ (s : State) (e : Fin 2) (b : List Byte) (u : Udp) (c : Instr) (h : _) (p : ZPeer) (r : _), s.bit (Reg.HST_ETH_CFG e) 31 = true ∧ s.zhevuUdp e b = some u ∧ b.length ≤ 1518 ∧ pauseFrame b = false ∧ c ∈ [Instr.zhevuDatagram e b, .ethernetReceive e b true 0] ∧ lowest 4 (s.peerOf e u) = some h ∧ s.mode ≠ mMINIMAL ∧ leAt u.data 0 2 = 0x5A56 ∧ byteAt u.data 2 = 1 ∧ byteAt u.data 6 = h ∧ 1 ≤ byteAt u.data 7 ∧ byteAt u.data 7 ≤ 32 ∧ 8 ≤ u.data.length ∧ (byteAt u.data 3).testBit 2 = false ∧ p = ⟨u.src, u.port, u.mac⟩ ∧ (s.land h).kept = some (leAt u.data 4 2, u.data.length, r))
    ∧ (∃ (s : State) (e : Fin 2) (b : List Byte) (u : Udp) (c : Instr) (h : _) (p : ZPeer) (cs : _), s.bit (Reg.HST_ETH_CFG e) 31 = true ∧ s.zhevuUdp e b = some u ∧ b.length ≤ 1518 ∧ pauseFrame b = false ∧ c ∈ [Instr.zhevuDatagram e b, .ethernetReceive e b true 0] ∧ lowest 4 (s.peerOf e u) = some h ∧ s.mode ≠ mMINIMAL ∧ leAt u.data 0 2 = 0x5A56 ∧ byteAt u.data 2 = 1 ∧ byteAt u.data 6 = h ∧ 1 ≤ byteAt u.data 7 ∧ byteAt u.data 7 ≤ 32 ∧ 8 ≤ u.data.length ∧ (byteAt u.data 3).testBit 2 = false ∧ p = ⟨u.src, u.port, u.mac⟩ ∧ (s.land h).kept = none ∧ cs = zCmds (leBytes 4 (s.resv 658).toNat ++ leBytes 4 (s.resv 659).toNat) (byteAt u.data 7) (u.data.drop 8) ∧ (∃ x ∈ cs, x.bad = true))
    ∧ (∃ (s : State) (e : Fin 2) (b : List Byte) (u : Udp) (c : Instr) (h : _) (p : ZPeer) (cs : _) (s1 : _), s.bit (Reg.HST_ETH_CFG e) 31 = true ∧ s.zhevuUdp e b = some u ∧ b.length ≤ 1518 ∧ pauseFrame b = false ∧ c ∈ [Instr.zhevuDatagram e b, .ethernetReceive e b true 0] ∧ lowest 4 (s.peerOf e u) = some h ∧ s.mode ≠ mMINIMAL ∧ leAt u.data 0 2 = 0x5A56 ∧ byteAt u.data 2 = 1 ∧ byteAt u.data 6 = h ∧ 1 ≤ byteAt u.data 7 ∧ byteAt u.data 7 ≤ 32 ∧ 8 ≤ u.data.length ∧ (byteAt u.data 3).testBit 2 = false ∧ p = ⟨u.src, u.port, u.mac⟩ ∧ (s.land h).kept = none ∧ cs = zCmds (leBytes 4 (s.resv 658).toNat ++ leBytes 4 (s.resv 659).toNat) (byteAt u.data 7) (u.data.drop 8) ∧ (∀ x ∈ cs, x.bad = false) ∧ u.data.length ≤ 1472 ∧ zLength cs ≤ 1472 ∧ s1 = s.setLand h { s.land h with peer := some p })
    ∧ (∃ (s : State) (e : Fin 2) (b : List Byte) (ok : Bool), (s.bit (Reg.HST_ETH_CFG e) 31 = false ∨ ok = false ∨ 1518 < b.length ∨ pauseFrame b = true))
    ∧ (∃ (s : State) (e : Fin 2) (b : List Byte) (hd : Nat) (o : Nat), s.bit (Reg.HST_ETH_CFG e) 31 = true ∧ b.length ≤ 1518 ∧ pauseFrame b = false ∧ s.zhevuUdp e b = none ∧ hd = s.fld (Reg.HST_ETH_RXPTR e) 21 16 ∧ o = s.fld (Reg.HST_ETH_RXRING e) 22 0 + 2048 * hd ∧ (hd + 1) % 64 = s.fld (Reg.HST_ETH_RXPTR e) 5 0)
    ∧ (∃ (s : State) (e : Fin 2) (b : List Byte) (hd : Nat) (o : Nat), s.bit (Reg.HST_ETH_CFG e) 31 = true ∧ b.length ≤ 1518 ∧ pauseFrame b = false ∧ s.zhevuUdp e b = none ∧ hd = s.fld (Reg.HST_ETH_RXPTR e) 21 16 ∧ o = s.fld (Reg.HST_ETH_RXRING e) 22 0 + 2048 * hd ∧ (hd + 1) % 64 ≠ s.fld (Reg.HST_ETH_RXPTR e) 5 0 ∧ o + 2048 ≤ 0x800000 ∧ (∀ i, i < 512 → s.allowed 13 (hallBase + (o + 4 * i)) 4 true = true ∧ s.hallBad (o + 4 * i) = false))
    ∧ (∃ (s : State) (e : Fin 2) (hd : Nat) (o : Nat), s.bit (Reg.HST_ETH_CFG e) 31 = true ∧ hd = s.fld (Reg.HST_ETH_TXPTR e) 21 16 ∧ o = s.fld (Reg.HST_ETH_TXRING e) 22 0 + 2048 * hd ∧ hd = s.fld (Reg.HST_ETH_TXPTR e) 5 0)
    ∧ (∃ (s : State) (e : Fin 2) (hd : Nat) (o : Nat) (g : _), s.bit (Reg.HST_ETH_CFG e) 31 = true ∧ hd = s.fld (Reg.HST_ETH_TXPTR e) 21 16 ∧ o = s.fld (Reg.HST_ETH_TXRING e) 22 0 + 2048 * hd ∧ hd ≠ s.fld (Reg.HST_ETH_TXPTR e) 5 0 ∧ o + 2048 ≤ 0x800000 ∧ (∀ i, i < 512 → s.allowed 13 (hallBase + (o + 4 * i)) 4 false = true ∧ s.hallBad (o + 4 * i) = false) ∧ g = s.hallBytes (o + 16) (min (leNat (s.hallBytes o 2)) 2032)) :=
  ⟨⟨zs { peer := some zp }, 3, 1, zp, zq (zs { peer := some zp }), 0x20000000, 256, by and_intros <;> first | decide +kernel | rfl⟩,
   ⟨zs { peer := some zp }, 3, 1, zp, zq (zs { peer := some zp }), 0x20000001, 1, by and_intros <;> first | decide +kernel | rfl⟩,
   ⟨zs { peer := some zp }, 3, 1, zp, zq (zs { peer := some zp }), 0x207FFFFC, [7], by and_intros <;> first | decide +kernel | rfl⟩,
   ⟨zn, 3, 1, zp, zq (zn), 0x207FFFFC, [7], by and_intros <;> first | decide +kernel | rfl⟩,
   ⟨regs (zs { peer := some zp }) [(Reg.MBX_CH_BIND 63, 0x80130000)], 3, 1, zp, zq (regs (zs { peer := some zp }) [(Reg.MBX_CH_BIND 63, 0x80130000)]), 63, by and_intros <;> first | decide +kernel | rfl⟩,
   ⟨zs { peer := some zp }, 3, 1, zp, zq (zs { peer := some zp }), 63, by and_intros <;> first | decide +kernel | rfl⟩,
   ⟨zn, 3, 1, zp, zq (zn), 63, by and_intros <;> first | decide +kernel | rfl⟩,
   ⟨regs (zs { peer := some zp }) [(Reg.MBX_CH_BIND 0, 0x80000013), (Reg.MBX_CH_DB 0, 1)], 3, 1, zp, zq (regs (zs { peer := some zp }) [(Reg.MBX_CH_BIND 0, 0x80000013), (Reg.MBX_CH_DB 0, 1)]), 0, by and_intros <;> first | decide +kernel | rfl⟩,
   ⟨regs (zs {}) [(Reg.HST_LAND_PEER 3, 1)], 1, zf 1, zu 1, .ethernetReceive 1 (zf 1) true 0, by decide +kernel⟩,
   ⟨zs { kept := some (7, 16, [1]) }, 1, zf 1, zu 1, .ethernetReceive 1 (zf 1) true 0, 3, zp, [1], by decide +kernel⟩,
   ⟨zs {}, 1, zf 9, zu 9, .zhevuDatagram 1 (zf 9), 3, zp, zcs 9, by and_intros <;> first | decide +kernel | rfl⟩,
   ⟨zs {}, 1, zf 1, zu 1, .ethernetReceive 1 (zf 1) true 0, 3, zp, zcs 1, State.setLand (zs {}) 3 { (zs {}).land 3 with peer := some zp }, by and_intros <;> first | decide +kernel | rfl⟩,
   ⟨so [], 1, [], false, by decide +kernel⟩,
   ⟨so [(Reg.HST_ETH_CFG 1, 0x80000000), (Reg.HST_ETH_RXPTR 1, 1)], 1, [], 0, 0, by decide +kernel⟩,
   ⟨so [(Reg.HST_ETH_CFG 1, 0x80000000)], 1, [1, 2, 3], 0, 0, by decide +kernel⟩,
   ⟨so [(Reg.HST_ETH_CFG 1, 0x80000000)], 1, 0, 0, by decide +kernel⟩,
   ⟨so [(Reg.HST_ETH_CFG 1, 0x80000000), (Reg.HST_ETH_TXPTR 1, 1)], 1, 0, 0, [], by decide +kernel⟩⟩

theorem wit_UpdateMessages :
    (∃ (s : State) (ch : Fin 64) (x : UpdAns) (f : Bool) (op : Nat) (c : Instr), (op, c) ∈ [(1, Instr.updateErase ch x), (2, .updateWrite ch x), (3, .updateVerify ch x f), (4, .updateCopy ch x f), (5, .updateFuse ch x), (6, .updateSetrec ch x)] ∧ (s.nextMessage ≠ some ch.val ∨ s.hasMessage ch op = false ∨ s.answersOn ch x.back = false))
    ∧ (∃ (s : State) (ch : Fin 64) (x : UpdAns) (f : Bool) (op : Nat) (c : Instr), (op, c) ∈ [(1, Instr.updateErase ch x), (2, .updateWrite ch x), (3, .updateVerify ch x f), (4, .updateCopy ch x f), (5, .updateFuse ch x), (6, .updateSetrec ch x)] ∧ s.nextMessage = some ch.val ∧ s.hasMessage ch op = true ∧ s.answersOn ch x.back = true ∧ s.mode ≠ mMINIMAL ∧ s.mode ≠ mMAINTENANCE)
    ∧ (∃ (s : State) (ch : Fin 64) (x : UpdAns) (sl : Nat), s.nextMessage = some ch.val ∧ s.hasMessage ch 1 = true ∧ s.answersOn ch x.back = true ∧ (s.mode = mMINIMAL ∨ s.mode = mMAINTENANCE) ∧ sl = s.msgFld ch 1 1 ∧ 1 < sl)
    ∧ (∃ (s : State) (ch : Fin 64) (x : UpdAns) (sl : Nat), s.nextMessage = some ch.val ∧ s.hasMessage ch 1 = true ∧ s.answersOn ch x.back = true ∧ (s.mode = mMINIMAL ∨ s.mode = mMAINTENANCE) ∧ sl = s.msgFld ch 1 1 ∧ sl ≤ 1 ∧ s.mayChange ch sl = false)
    ∧ (∃ (s : State) (ch : Fin 64) (x : UpdAns) (sl : Nat), s.nextMessage = some ch.val ∧ s.hasMessage ch 1 = true ∧ s.answersOn ch x.back = true ∧ (s.mode = mMINIMAL ∨ s.mode = mMAINTENANCE) ∧ sl = s.msgFld ch 1 1 ∧ sl ≤ 1 ∧ s.mayChange ch sl = true ∧ s.sys.guard = true)
    ∧ (∃ (s : State) (ch : Fin 64) (x : UpdAns) (sl : Nat), s.nextMessage = some ch.val ∧ s.hasMessage ch 1 = true ∧ s.answersOn ch x.back = true ∧ (s.mode = mMINIMAL ∨ s.mode = mMAINTENANCE) ∧ sl = s.msgFld ch 1 1 ∧ sl ≤ 1 ∧ s.mayChange ch sl = true ∧ s.sys.guard = false ∧ x.cut = none)
    ∧ (∃ (s : State) (ch : Fin 64) (x : UpdAns) (sl : Nat) (k : _) (g : _), s.nextMessage = some ch.val ∧ s.hasMessage ch 1 = true ∧ s.answersOn ch x.back = true ∧ (s.mode = mMINIMAL ∨ s.mode = mMAINTENANCE) ∧ sl = s.msgFld ch 1 1 ∧ sl ≤ 1 ∧ s.mayChange ch sl = true ∧ s.sys.guard = false ∧ x.cut = some (k, g))
    ∧ (∃ (s : State) (ch : Fin 64) (x : UpdAns) (sl : Nat) (o : Nat) (n : Nat) (D : Nat), s.nextMessage = some ch.val ∧ s.hasMessage ch 2 = true ∧ s.answersOn ch x.back = true ∧ (s.mode = mMINIMAL ∨ s.mode = mMAINTENANCE) ∧ sl = s.msgFld ch 1 1 ∧ o = s.msgFld ch 4 4 ∧ n = s.msgFld ch 8 4 ∧ D = s.fld (Reg.MBX_CH_DESCLO ch) 22 0 ∧ (1 < sl ∨ o % 256 ≠ 0 ∨ n = 0 ∨ 65536 < n ∨ 0x1000000 < o + n))
    ∧ (∃ (s : State) (ch : Fin 64) (x : UpdAns) (sl : Nat) (o : Nat) (n : Nat) (D : Nat), s.nextMessage = some ch.val ∧ s.hasMessage ch 2 = true ∧ s.answersOn ch x.back = true ∧ (s.mode = mMINIMAL ∨ s.mode = mMAINTENANCE) ∧ sl = s.msgFld ch 1 1 ∧ o = s.msgFld ch 4 4 ∧ n = s.msgFld ch 8 4 ∧ D = s.fld (Reg.MBX_CH_DESCLO ch) 22 0 ∧ sl ≤ 1 ∧ o % 256 = 0 ∧ 1 ≤ n ∧ n ≤ 65536 ∧ o + n ≤ 0x1000000 ∧ D + 12 + n ≤ 0x800000 ∧ s.mayChange ch sl = true ∧ s.sys.guard = false ∧ x.cut = none)
    ∧ (∃ (s : State) (ch : Fin 64) (x : UpdAns) (f : Bool) (sl : Nat) (c : _), s.nextMessage = some ch.val ∧ s.hasMessage ch 3 = true ∧ s.answersOn ch x.back = true ∧ (s.mode = mMINIMAL ∨ s.mode = mMAINTENANCE) ∧ sl = s.msgFld ch 1 1 ∧ sl ≤ 1 ∧ s.verify f sl = some c)
    ∧ (∃ (s : State) (ch : Fin 64) (x : UpdAns) (f : Bool) (sl : Nat), s.nextMessage = some ch.val ∧ s.hasMessage ch 3 = true ∧ s.answersOn ch x.back = true ∧ (s.mode = mMINIMAL ∨ s.mode = mMAINTENANCE) ∧ sl = s.msgFld ch 1 1 ∧ sl ≤ 1 ∧ s.verify f sl = none)
    ∧ (∃ (s : State) (ch : Fin 64) (x : UpdAns) (sl : Nat), s.Canonical ∧ s.nextMessage = some ch.val ∧ s.hasMessage ch 4 = true ∧ s.answersOn ch x.back = true ∧ (s.mode = mMINIMAL ∨ s.mode = mMAINTENANCE) ∧ sl = s.msgFld ch 1 1 ∧ sl ≤ 1 ∧ s.mayChange ch sl = true ∧ s.sys.guard = false ∧ x.cut = none)
    ∧ (∃ (s : State) (ch : Fin 64) (x : UpdAns), s.nextMessage = some ch.val ∧ s.hasMessage ch 5 = true ∧ s.answersOn ch x.back = true ∧ (s.mode = mMINIMAL ∨ s.mode = mMAINTENANCE) ∧ wBit s.pv.fuse 31 = true)
    ∧ (∃ (s : State) (ch : Fin 64) (x : UpdAns), s.nextMessage = some ch.val ∧ s.hasMessage ch 5 = true ∧ s.answersOn ch x.back = true ∧ (s.mode = mMINIMAL ∨ s.mode = mMAINTENANCE) ∧ wBit s.pv.fuse 31 = false)
    ∧ (∃ (s : State) (ch : Fin 64) (x : UpdAns), s.nextMessage = some ch.val ∧ s.hasMessage ch 6 = true ∧ s.answersOn ch x.back = true ∧ (s.mode = mMINIMAL ∨ s.mode = mMAINTENANCE) ∧ s.sys.guard = true)
    ∧ (∃ (s : State) (ch : Fin 64) (x : UpdAns), s.nextMessage = some ch.val ∧ s.hasMessage ch 6 = true ∧ s.answersOn ch x.back = true ∧ (s.mode = mMINIMAL ∨ s.mode = mMAINTENANCE) ∧ s.sys.guard = false) :=
  ⟨⟨b0, 0, ua none, false, 6, .updateSetrec 0 (ua none), by decide +kernel⟩,
   ⟨up 5 3 [0, 0], 0, ua none, false, 3, .updateVerify 0 (ua none) false, by decide +kernel⟩,
   ⟨up 3 1 [2, 1], 0, ua none, 2, by decide +kernel⟩,
   ⟨up 11 1 [0, 0], 0, ua none, 0, by decide +kernel⟩,
   ⟨{ up 3 1 [1, 1] with sys := { guard := true } }, 0, ua none, 1, by decide +kernel⟩,
   ⟨up 3 1 [1, 1], 0, ua none, 1, by decide +kernel⟩,
   ⟨up 3 1 [1, 1], 0, ua (some (3, false)), 1, 3, false, by decide +kernel⟩,
   ⟨up 3 2 [1, 1], 0, ua none, 1, 0, 0, 0x100, by decide +kernel⟩,
   ⟨up 3 2 [1, 1, 0, 0, 255, 255, 0, 0, 1, 0, 0], 0, ua none, 1, 16776960, 256, 0x100, by decide +kernel⟩,
   ⟨up 3 3 [1, 0], 0, ua none, false, 1, causeWord 1 2 1 0, by decide +kernel⟩,
   ⟨{ up 3 3 [0, 0] with pv := { flash := img } }, 0, ua none, true, 0, by decide +kernel⟩,
   ⟨up 3 4 [1, 1], 0, ua none, 1, by constructor <;> decide +kernel, by decide +kernel⟩,
   ⟨{ up 3 5 [0, 0] with pv := { fuse := 0x80000000 } }, 0, ua none, by decide +kernel⟩,
   ⟨up 3 5 [0, 0], 0, ua none, by decide +kernel⟩,
   ⟨{ up 3 6 [0, 0] with sys := { guard := true } }, 0, ua none, by decide +kernel⟩,
   ⟨up 11 6 [0, 0], 0, ua none, by decide +kernel⟩⟩

theorem wit_PairUnit :
    (∃ (s : State), s.pairEn = true)
    ∧ (∃ (s : State), s.pairEn = false)
    ∧ (∃ (s : State), (s.pairEn = false ∨ s.beaconDue = false))
    ∧ (∃ (s : State), s.pairEn = true ∧ s.beaconDue = true)
    ∧ (∃ (s : State) (e : Nat), s.pair.leaseEnd = some e ∧ s.pairRole = 1 ∧ s.tb.ctick = 0 ∧ e ≤ s.tb.tick)
    ∧ (∃ (s : State), (s.pair.leaseEnd = none ∨ s.pairRole ≠ 1 ∨ s.tb.ctick ≠ 0 ∨ (∃ e, s.pair.leaseEnd = some e ∧ s.tb.tick < e)))
    ∧ (∃ (s : State) (b : List Byte) (l : Nat), l = leAt b 2 2 ∧ (s.pairEn = false ∨ s.bit Reg.PAIR_STAT 28 = false))
    ∧ (∃ (s : State) (ok : Bool) (b : List Byte) (l : Nat), l = leAt b 2 2 ∧ s.pairEn = true ∧ s.bit Reg.PAIR_STAT 28 = true ∧ (ok = false ∨ b.length ≠ 12 + l ∨ 1024 < l ∨ byteAt b 1 ≠ 1 ∨ crc32 (b.take (8 + l)) ≠ leAt b (8 + l) 4))
    ∧ (∃ (s : State) (ok : Bool) (b : List Byte) (l : Nat), l = leAt b 2 2 ∧ s.pairEn = true ∧ s.bit Reg.PAIR_STAT 28 = true ∧ ok = true ∧ b.length = 12 + l ∧ l ≤ 1024 ∧ byteAt b 1 = 1 ∧ crc32 (b.take (8 + l)) = leAt b (8 + l) 4 ∧ byteAt b 0 = 1 ∧ 32 ≤ l)
    ∧ (∃ (s : State) (ok : Bool) (b : List Byte) (l : Nat) (p : _), l = leAt b 2 2 ∧ s.pairEn = true ∧ s.bit Reg.PAIR_STAT 28 = true ∧ ok = true ∧ b.length = 12 + l ∧ l ≤ 1024 ∧ byteAt b 1 = 1 ∧ crc32 (b.take (8 + l)) = leAt b (8 + l) 4 ∧ byteAt b 0 = 2 ∧ s.mode = mSTANDBY ∧ s.sys.guard = false ∧ l = 1024 ∧ leAt b 4 4 % 64 = 63 ∧ s.pair.inp.length = 64512 ∧ leAt b 4 4 = s.pair.inSeq + 1 ∧ p = s.pair.inp ++ (b.drop 8).take 1024 ∧ crc32 (p.drop 64) = leAt p 60 4)
    ∧ (∃ (s : State) (ok : Bool) (b : List Byte) (l : Nat) (p : _), l = leAt b 2 2 ∧ s.pairEn = true ∧ s.bit Reg.PAIR_STAT 28 = true ∧ ok = true ∧ b.length = 12 + l ∧ l ≤ 1024 ∧ byteAt b 1 = 1 ∧ crc32 (b.take (8 + l)) = leAt b (8 + l) 4 ∧ byteAt b 0 = 2 ∧ s.mode = mSTANDBY ∧ s.sys.guard = false ∧ l = 1024 ∧ leAt b 4 4 % 64 = 63 ∧ s.pair.inp.length = 64512 ∧ leAt b 4 4 = s.pair.inSeq + 1 ∧ p = s.pair.inp ++ (b.drop 8).take 1024 ∧ crc32 (p.drop 64) ≠ leAt p 60 4)
    ∧ (∃ (s : State) (ok : Bool) (b : List Byte) (k : Option (Fin 256)) (l : Nat) (a : _), l = leAt b 2 2 ∧ s.pairEn = true ∧ s.bit Reg.PAIR_STAT 28 = true ∧ ok = true ∧ b.length = 12 + l ∧ l ≤ 1024 ∧ byteAt b 1 = 1 ∧ crc32 (b.take (8 + l)) = leAt b (8 + l) 4 ∧ byteAt b 0 = 3 ∧ s.mode = mSTANDBY ∧ k = some a)
    ∧ (∃ (s : State) (ok : Bool) (b : List Byte) (l : Nat), l = leAt b 2 2 ∧ s.pairEn = true ∧ s.bit Reg.PAIR_STAT 28 = true ∧ ok = true ∧ b.length = 12 + l ∧ l ≤ 1024 ∧ byteAt b 1 = 1 ∧ crc32 (b.take (8 + l)) = leAt b (8 + l) 4 ∧ byteAt b 0 = 4 ∧ s.pairRole = 1)
    ∧ (∃ (s : State), s.pairRole = 2)
    ∧ (∃ (s : State), s.pairRole ≠ 2)
    ∧ (∃ (s : State), s.pairRole = 1 ∧ s.sys.guard = false ∧ s.pair.out ≠ [])
    ∧ (∃ (s : State), (s.pairRole ≠ 1 ∨ s.pair.out = [] ∨ s.sys.guard = true))
    ∧ (∃ (s : State), s.pairRole ≠ 1)
    ∧ (∃ (s : State) (a : _) (l : _), s.pairRole = 1 ∧ s.pair.banks = a :: l)
    ∧ (∃ (s : State), s.pairRole = 1 ∧ s.pair.banks = [] ∧ s.lrnChunks = 0)
    ∧ (∃ (s : State) (v : Word), wBit v 31 = true ∧ s.pairRole = 1)
    ∧ (∃ (s : State) (m : Fin 32), m.val ≠ 0 ∧ s.may m Reg.PAIR_CTRL true)
    ∧ (∃ (s : State) (n : Fin 12) (b : Bool) (ch : Nat) (f : RxFrame) (h : Hdr), ch = (if b then 1 else 0) ∧ h = hdrOf f.bytes ∧ s.mode = mSTANDBY ∧ s.bit (Reg.TRN_PCFG n ch) 31 = true ∧ (∀ m, m < 16 → (s.capOn m && s.capKind m == 1 && s.bit (Reg.CAP_S_SRC m) (2 * n + ch)) = false) ∧ f.codeOk = true ∧ f.bytes.length = 12 + byteAt f.bytes 6 ∧ crc32 (f.bytes.take (8 + h.len)) = leAt f.bytes (8 + h.len) 4 ∧ h.ver = 1 ∧ h.allowed = true ∧ h.seg = n.val ∧ h.hid ≠ s.segHid n ∧ h.type = 1 ∧ h.cyc = s.tb.cyc.toNat % 65536)
    ∧ (∃ (s : State) (n : Fin 12) (b : Bool) (ch : Nat) (f : RxFrame) (h : Hdr), ch = (if b then 1 else 0) ∧ h = hdrOf f.bytes ∧ s.mode = mSTANDBY ∧ s.bit (Reg.TRN_PCFG n ch) 31 = true ∧ (∀ m, m < 16 → (s.capOn m && s.capKind m == 1 && s.bit (Reg.CAP_S_SRC m) (2 * n + ch)) = false) ∧ f.codeOk = true ∧ f.bytes.length = 12 + byteAt f.bytes 6 ∧ crc32 (f.bytes.take (8 + h.len)) = leAt f.bytes (8 + h.len) 4 ∧ h.ver = 1 ∧ h.allowed = true ∧ h.seg = n.val ∧ h.hid ≠ s.segHid n ∧ h.type = 1 ∧ h.cyc ≠ s.tb.cyc.toNat % 65536)
    ∧ (∃ (s : State), s.mode = mSTANDBY ∧ s.tb.ctick = 0 ∧ s.trn.cold = none ∧ s.pair.loading = false ∧ s.lease + 200000 ≤ s.pairAbs ∧ s.bit Reg.PAIR_STAT 25 = true)
    ∧ (∃ (s : State), s.mode = mSTANDBY ∧ s.tb.ctick = 0 ∧ s.trn.cold = none ∧ s.pair.loading = false ∧ s.lease + 200000 ≤ s.pairAbs ∧ s.bit Reg.PAIR_STAT 25 = false)
    ∧ (∃ (s : State), (s.mode ≠ mSTANDBY ∨ s.tb.ctick ≠ 0 ∨ s.pair.loading = true ∨ s.trn.cold.isSome = true ∨ s.pairAbs < s.lease + 200000))
    ∧ (∃ (s : State), s.pair.loading = true)
    ∧ (∃ (s : State), s.pair.loading = false) :=
  ⟨⟨pr 10 1 {}, by decide +kernel⟩,
   ⟨b0, by decide +kernel⟩,
   ⟨b0, by decide +kernel⟩,
   ⟨pr 10 1 {}, by decide +kernel⟩,
   ⟨{ pr 7 1 { leaseEnd := some 7 } with tb := { locked := true, tick := 7 } }, 7, by decide +kernel⟩,
   ⟨pr 10 1 {}, .inl (by decide +kernel)⟩,
   ⟨b0, [], 0, by decide +kernel⟩,
   ⟨pr 10 1 {}, false, [], 0, by decide +kernel⟩,
   ⟨pr 10 1 {}, true, pairFrame 1 5 (List.replicate 32 0), 32, by decide +kernel⟩,
   ⟨pr 10 1 { inp := cpHead cpCrc, inSeq := 62 }, true, cpLast, 1024, cpHead cpCrc ++ (cpLast.drop 8).take 1024, by and_intros; (on_goal 17 => exact cp_good); (on_goal 16 => rfl); (on_goal 14 => exact cpHead_length _); (on_goal 8 => exact cpLast_crc); all_goals decide +kernel⟩,
   ⟨pr 10 1 { inp := cpHead (cpCrc ^^^ 1), inSeq := 62 }, true, cpLast, 1024, cpHead (cpCrc ^^^ 1) ++ (cpLast.drop 8).take 1024, by and_intros; (on_goal 17 => exact cp_bad); (on_goal 16 => rfl); (on_goal 14 => exact cpHead_length _); (on_goal 8 => exact cpLast_crc); all_goals decide +kernel⟩,
   ⟨pr 10 1 {}, true, pairFrame 3 5 (List.replicate 204 0), some 255, 204, 255, by decide +kernel⟩,
   ⟨pr 10 1 {}, true, pairFrame 4 5 (List.replicate 48 0), 48, by decide +kernel⟩,
   ⟨pr 7 2 {}, by decide +kernel⟩,
   ⟨pr 10 1 {}, by decide +kernel⟩,
   ⟨pr 7 1 { out := [1] }, by decide +kernel⟩,
   ⟨pr 7 2 {}, by decide +kernel⟩,
   ⟨pr 7 2 {}, by decide +kernel⟩,
   ⟨pr 7 1 { banks := [3, 4] }, 3, [4], by decide +kernel⟩,
   ⟨pr 7 1 {}, by decide +kernel⟩,
   ⟨pr 7 1 {}, 0x80000000, by decide +kernel⟩,
   ⟨so [], 16, by decide +kernel⟩,
   ⟨listener, 0, false, 0, syncFr 0, hdrOf (syncFr 0).bytes, by decide +kernel⟩,
   ⟨listener, 0, false, 0, syncFr 4, hdrOf (syncFr 4).bytes, by decide +kernel⟩,
   ⟨{ regs (pr 10 2 {}) [(Reg.PAIR_STAT, 0x52000000)] with tb := { locked := true, tick := 200000 } }, by decide +kernel⟩,
   ⟨{ pr 10 2 {} with tb := { locked := true, tick := 200000 } }, by decide +kernel⟩,
   ⟨{ pr 10 2 {} with tb := { locked := true, tick := 199999 } }, by decide +kernel⟩,
   ⟨pr 10 2 { loading := true }, by decide +kernel⟩,
   ⟨b0, by decide +kernel⟩⟩

theorem wit_SpareCapacity :
    (∃ (s : State) (c : Fin 9), (s.core c).state ≠ 0)
    ∧ (∃ (s : State) (c : Fin 9) (k : _), (s.core c).state = 0 ∧ s.spareCore = some k)
    ∧ (∃ (s : State) (c : Fin 9), min 65535 (s.coreCor c + 1) < s.fld Reg.SPR_CFG 23 16)
    ∧ (∃ (s : State) (v : Word) (l : Nat) (k : Nat) (i : Instr), wBit v 31 = true ∧ l = wFld v 3 0 ∧ l < 9 ∧ (s.core l).state = 0 ∧ s.spareCore = some k ∧ i ∈ [Instr.sprCretire 0 v, .sprForce 0 v])
    ∧ (∃ (s : State) (m : Fin 32) (v : Word) (i : Instr), m.val ≠ 0 ∧ s.may m Reg.SPR_CTRL true ∧ i ∈ [Instr.sprCretire m v, .sprForce m v])
    ∧ (∃ (s : State), s.spr.swap = none)
    ∧ (∃ (s : State) (w : CoreSwap) (k : Nat), s.spr.swap = some w ∧ w.loaded = false ∧ lowest 9 (fun c => (s.core c).state == 1) = some k ∧ k ≠ w.core)
    ∧ (∃ (s : State) (w : CoreSwap) (k : Nat) (x : _), s.spr.swap = some w ∧ w.loaded = false ∧ lowest 9 (fun c => (s.core c).state == 1) = some k ∧ k ≠ w.core ∧ (s.sections (s.fld Reg.SYS_BOOT 27 27)).find? (fun x => x.type == 2 && x.param == w.core) = some x ∧ crc32 (s.secBytes (s.fld Reg.SYS_BOOT 27 27) x) = x.scrc)
    ∧ (∃ (s : State) (m : Fin 32) (a : Word) (w : Option (List Byte)), hallBase ≤ a.toNat ∧ a.toNat < hallBase + 0x800000 ∧ s.issues m a.toNat w.isSome = false)
    ∧ (∃ (s : State) (m : Fin 32) (a : Word) (z : Fin 4) (w : Option (List Byte)), hallBase ≤ a.toNat ∧ a.toNat < hallBase + 0x800000 ∧ a.toNat % 2 ^ z.val ≠ 0 ∧ s.issues m a.toNat w.isSome = true)
    ∧ (∃ (s : State) (m : Fin 32) (a : Word) (z : Fin 4) (w : Option (List Byte)), hallBase ≤ a.toNat ∧ a.toNat < hallBase + 0x800000 ∧ a.toNat % 2 ^ z.val = 0 ∧ s.issues m a.toNat w.isSome = true ∧ s.allowed m a.toNat (2 ^ z.val) w.isSome = false)
    ∧ (∃ (s : State) (m : Fin 32) (a : Word) (z : Fin 4), hallBase ≤ a.toNat ∧ a.toNat < hallBase + 0x800000 ∧ a.toNat % 2 ^ z.val = 0 ∧ s.hallBad (a.toNat - hallBase) = true ∧ s.issues m a.toNat false = true ∧ s.allowed m a.toNat (2 ^ z.val) false = true)
    ∧ (∃ (s : State) (m : Fin 32) (a : Word) (z : Fin 4), hallBase ≤ a.toNat ∧ a.toNat < hallBase + 0x800000 ∧ a.toNat % 2 ^ z.val = 0 ∧ s.hallBad (a.toNat - hallBase) = false ∧ s.issues m a.toNat false = true ∧ s.allowed m a.toNat (2 ^ z.val) false = true)
    ∧ (∃ (s : State) (m : Fin 32) (a : Word) (z : Fin 4) (b : List Byte), hallBase ≤ a.toNat ∧ a.toNat < hallBase + 0x800000 ∧ a.toNat % 2 ^ z.val = 0 ∧ s.hallBad (a.toNat - hallBase) = false ∧ s.issues m a.toNat true = true ∧ s.allowed m a.toNat (2 ^ z.val) true = true ∧ b.length = 2 ^ z.val)
    ∧ (∃ (s : State), s.spr.marked ≠ [])
    ∧ (∃ (s : State), s.spr.marked = [])
    ∧ (∃ (s : State), s.sys.guard = true)
    ∧ (∃ (s : State) (r : _) (l : _) (k : _), s.spr.marked = r :: l ∧ s.hallSpare = some k ∧ s.spr.copied = true ∧ s.spr.mapped = false ∧ s.sys.guard = false)
    ∧ (∃ (s : State), s.tb.tick / 2 ^ 40 ≤ s.spr.period)
    ∧ (∃ (s : State), s.spr.period < s.tb.tick / 2 ^ 40)
    ∧ (∃ (s : State), s.spr.retry = [])
    ∧ (∃ (s : State), s.sys.guard = false) :=
  ⟨⟨b0, 8, by decide +kernel⟩,
   ⟨b0, 7, 8, by decide +kernel⟩,
   ⟨st [(Reg.SPR_CFG, 0x00020000)], 8, by decide +kernel⟩,
   ⟨b0, 0xC0000007, 7, 8, .sprForce 0 0xC0000007, by decide +kernel⟩,
   ⟨so [], 16, 0xC0000007, .sprForce 16 0xC0000007, by decide +kernel⟩,
   ⟨b0, by decide +kernel⟩,
   ⟨{ b0 with spr := { swap := some ⟨0, 2, false, false, 0⟩ } }, ⟨0, 2, false, false, 0⟩, 8, by decide +kernel⟩,
   ⟨{ boot 7 15 with spr := { swap := some ⟨0, 2, false, false, 0⟩ }, pv := { flash := Table.set (fun _ => 0xFF) img 272 2 } }, ⟨0, 2, false, false, 0⟩, 8, (State.sections { boot 7 15 with spr := { swap := some ⟨0, 2, false, false, 0⟩ }, pv := { flash := Table.set (fun _ => 0xFF) img 272 2 } } 0 |>.find? (fun x => x.type == 2 && x.param == 0)).get (by decide +kernel), by and_intros <;> first | decide +kernel | exact (Option.some_get _).symm⟩,
   ⟨b0, 16, 0x20000000, none, by decide +kernel⟩,
   ⟨b0, 0, 0x20000001, 1, none, by decide +kernel⟩,
   ⟨b0, 1, 0x207FFFF8, 3, none, by decide +kernel⟩,
   ⟨{ so [] with hall := { bad := [1048575] } }, 1, 0x207FFFF8, 3, by decide +kernel⟩,
   ⟨so [], 16, 0x207FFFF8, 3, by decide +kernel⟩,
   ⟨so [], 16, 0x207FFFF8, 3, [1, 2, 3, 4, 5, 6, 7, 8], by decide +kernel⟩,
   ⟨{ b0 with spr := { marked := [⟨8191, 1, 1, 0⟩] } }, by decide +kernel⟩,
   ⟨b0, by decide +kernel⟩,
   ⟨{ b0 with sys := { guard := true } }, by decide +kernel⟩,
   ⟨{ b0 with spr := { marked := [⟨8191, 1, 1, 0⟩], copied := true } }, ⟨8191, 1, 1, 0⟩, [], 0, by decide +kernel⟩,
   ⟨b0, by decide +kernel⟩,
   ⟨{ b0 with tb := { locked := true, tick := 2 ^ 40 } }, by decide +kernel⟩,
   ⟨b0, by decide +kernel⟩,
   ⟨b0, by decide +kernel⟩⟩

theorem wit_CycleStart :
    (∃ (s : State), s.tb.running = false)
    ∧ (∃ (s : State), s.tb.running = true) :=
  ⟨⟨State.reset, by decide +kernel⟩,
   ⟨st [(Reg.SYS_MODE, 7)], by decide +kernel⟩⟩

/-! ## Terms the checks refuse -/

theorem test_ill_hall : (Instr.hallAccess 0 0 2 (some [0]) 0).wf = false := by decide +kernel
theorem test_ill_serial : (Instr.serialReadDone 0 { bits := List.replicate 41 false, crc := 0, delay := 0 }).wf = false := by decide +kernel
theorem test_ill_serial_crc : (Instr.serialReadDone 0 { bits := [], crc := 256, delay := 0 }).wf = false := by decide +kernel
theorem test_ill_line : (Instr.carrierValley 0 0 ⟨⟨false, []⟩, ⟨true, [5, 5]⟩, ⟨false, []⟩⟩).wf = false := by decide +kernel
theorem test_ill_eligible : (Instr.jobEligible 255).wf = false := by decide +kernel
theorem test_ill_release : (Instr.jobRelease 0).wf = false := by decide +kernel
theorem test_ill_currents : (Instr.fioInputFrame 0 0 [] 0).wf = false := by decide +kernel
theorem test_ill_tests : (Instr.bootFlight5 ⟨[], cores9⟩).wf = false := by decide +kernel
theorem test_ill_cores : (Instr.bootFlight5 ⟨tests18, []⟩).wf = false := by decide +kernel
theorem test_ill_zhevu_none : (Instr.zhevuWrite 0 0 []).wf = false := by decide +kernel
theorem test_ill_zhevu_long : (Instr.zhevuWrite 0 0 (List.replicate 257 0)).wf = false := by decide +kernel
theorem test_ill_datagram : (Instr.zhevuDatagram 0 (List.replicate 1473 0)).wf = false := by decide +kernel
theorem test_well : (Instr.hallAccess 0 0 2 (some [0, 0, 0, 0]) 0).wf = true := by decide +kernel

/-! ## Outcomes: the values come from the worked cases of the spec, named in each comment -/

/-- The state after one command. -/
def after (c : Instr) (s : State) : State := match exec c s with | .next t => t | _ => s

/-- 03, the output row of program 3: the sum 89,498,096 with s = +1 is stored as 5,463. -/
theorem test_output_row : store16 { val := 89498096 } 1 false 0 = 5463 := by decide +kernel

/-- 03, worked case: the 14 words of program 3 pass the program check. -/
def press : List Word :=
  [0x203DF100, 0x20481000, 0x205DF070, 0x2001F104, 0x20241404, 0, 0x60000000, 0x80000000, 0, 0x2051F164, 0, 0, 0, 0x50000002]
theorem test_program : (match progCheck (fun i => press.getD i 0) with | .inr w => wFld w 6 0 | .inl _ => 0) = 14 := by decide +kernel

/-- 07, worked case: the header of node 12's feedback frame. -/
theorem test_frame_header : (frameBytes 2 12 5 12 0xA7C2 0 (List.replicate 64 0)).take 8
    = [0x21, 0x0C, 0x0C, 0x50, 0xC2, 0xA7, 0x40, 0x00] := by decide +kernel

/-- 07, worked case: reference end 4,181 and release 4,261 of slot 12, LEN 64 at 3,896 with W = 3. -/
theorem test_slot_release :
    (regs b0 [(Reg.TRN_SOFS 5, 0x03000078), (Reg.TRN_SLOT 5 12, 0x60000F38)]).refEnd 5 12 = 4181
    ∧ (regs b0 [(Reg.TRN_SOFS 5, 0x03000078), (Reg.TRN_SLOT 5 12, 0x60000F38)]).slotRel 5 12 = 4261 := by decide +kernel

/-- 07, worked case: record 0 gives count 0x00A1_B2C3 and index latch 0x00A1_9F40. -/
def recorded : State := b0.takeRecord 3 true [0xC3, 0xB2, 0xA1, 0x00, 0x40, 0x9F, 0x25, 0x20] 0 9
theorem test_record_count : recorded.raw 19 = 0x00A1B2C3 := by decide +kernel
theorem test_record_latch : recorded.rd (Reg.SRC_IDXLO 19) = 0x00A19F40 := by decide +kernel

/-- 04, worked case: axis 118 at raw = 9,799,328. -/
def eccentric : State :=
  (regs { b0 with hst := { wins := [(0, { base := 0, size := 32, valid := true, rmask := 0xFFFFFFFF, wmask := 0xFFFFFFFF })] },
                  law := { axes := [(118, { snap := { cyc := 9, gain := 0x40001000, filt := 0x00100100, win := 0x58000800 } })] } }
    [(Reg.LRN_REGION, 0x00100020), (Reg.LRN_CFG 118, 0x88800040), (Reg.LRN_PER 118, 262144)]).hallWrite 0x10030A
      ([690, 700, 740].flatMap (leBytes 2))
def eccentricIn : Int × LearnJob × State := eccentric.lrnFrameIn 118 9 9799328 0 1342177280 [12, 0, 0] [false, false, false]
theorem test_learner_correction : eccentricIn.1 = 725 := by decide +kernel
theorem test_learner_last : eccentricIn.2.2.rd (Reg.LRN_LAST 118) = 0x02D5186A := by decide +kernel
theorem test_learner_bins : (eccentricIn.2.2.lrnEnd 118 eccentricIn.2.1 false).hallBytes 0x10030A 4 = [691, 702].flatMap (leBytes 2) := by decide +kernel

/-- 05, worked case of the traverse roll: the speeds of the six last rows. -/
def roll (s : State) (t : Int) (es : List (Int × Int)) : State := (s.setSource 4 { s.source 4 with edges := es }).speedAt 4 t
def roll1 : State := roll ((st [(Reg.SRC_SST 4, 400000)]).setSource 4 { sst := 400000, tLast := 100200, hasEdge := true, edgeSign := 1, tRef := 100200 }) 512500 []
def roll2 : State := roll roll1 3012500 [(3000200, 1)]
def roll3 : State := roll roll2 3025000 [(3016200, 1), (3020200, 1), (3024200, 1)]
def roll4 : State := roll roll3 3037500 [(3028200, -1)]
def roll5 : State := roll roll4 3050000 []
def roll6 : State := roll roll5 3062500 [(3052200, -1)]
theorem test_speed_still : roll1.rd (Reg.SRC_SPD 4) = 0 ∧ roll1.bit (Reg.SRC_STAT 4) 31 = true := by decide +kernel
theorem test_speed_first : roll2.rd (Reg.SRC_SPD 4) = 0x000089EE ∧ roll2.bit (Reg.SRC_STAT 4) 27 = true := by decide +kernel
theorem test_speed_edges : roll3.rd (Reg.SRC_SPD 4) = 0x00C35000 := by decide +kernel
theorem test_speed_reversal : roll4.rd (Reg.SRC_SPD 4) = 0xFE796000 ∧ roll4.bit (Reg.SRC_STAT 4) 26 = true := by decide +kernel
theorem test_speed_bound : s32 (roll5.rd (Reg.SRC_SPD 4)) = -4697248 := by decide +kernel
theorem test_speed_again : s32 (roll6.rd (Reg.SRC_SPD 4)) = -4266667 := by decide +kernel

/-- 06, worked case of the mandrel drive: compare values, and both dead times from 192 to 176 fine ticks. -/
theorem test_compare : [12288, 241, 242, 32526, 32527].map (fun d => cmpOf d 100000) = [37500, 735, 739, 99261, 99265] := by decide +kernel
theorem test_dead_times : adapt 192 108 0x00100020 0x00180004 = 176 ∧ adapt 192 36 0x00100020 0x00180004 = 176 := by decide +kernel

/-- 12, R277: mx.mac2 x12, x13 and mx.rd x10, 0, 0; a word whose funct3 is 7 spells no operation. -/
theorem test_mx_words : mxDecode 0x04D6000B = some (.mac2 12 13) ∧ mxDecode 0x0000250B = some (.rd 10 false 0) ∧ mxDecode 0x0000700B = none := by
  decide +kernel

/-- 09, worked case of the cartoner on PPS: an offset of −42.5 ns. -/
def ppsOffset : State :=
  { st [(Reg.TB_SRV_CFG, 0x839C023D), (Reg.TB_SRV_GAIN, 0x56001580), (Reg.TB_SRV_LIM, 0x03E80064), (Reg.TB_RATE_I, 0xFFFB15EE)] with
    tb := { locked := true, meas := [-2785280] } }
theorem test_servo_integral : (after .servoMeasurement ppsOffset).rd Reg.TB_RATE_I = 0xFFFB15B5 := by decide +kernel
theorem test_servo_rate : (after .servoMeasurement ppsOffset).tb.ratePend = some (-322351) := by decide +kernel

/-- 11, worked case of the flap sensor: counters and filtered level of the first six samples of DI6. -/
def flap (l : List Bool) : FioBlock :=
  (l.foldl (fun s h => diSample 6 h s) { st [] with fio := { cfg := List.replicate 18 0x00640004 } }).fio
theorem test_flap_bounce : (flap [true, true, false, true]).cnt[6]? = some 2 := by decide +kernel
theorem test_flap_rise : (flap [true, true, false, true, true]).filt = 0 ∧ (flap [true, true, false, true, true, true]).filt = 64
    ∧ (flap [true, true, false, true, true, true]).rise = 64 := by decide +kernel

/-- 14, worked case of the mandrel fault: record and charge of session 0. -/
def mandrel : State :=
  { st ([(Reg.CAP_S_SRC 0, 0xFFFF)] ++ (List.range 3).map (fun w => (Reg.CAP_S_AX 0 w, 0xFFFFFFFF))) with tb := { locked := true, len := 6250 } }
theorem test_capture_charge : mandrel.capRmax 0 = 6160 ∧ mandrel.capCharge 0 = 394240 := by decide +kernel

end Sys2Proof.Tests
end

section
/-! Register accesses: when an access takes its effect, and what a write that LK refuses leaves (R6, R283 to R285). -/

namespace Sys2Proof.Machine

variable {s t : State}

/-- MID 0 issues every access, and the windows never refuse it (R283, R285). -/
theorem State.may_root (s : State) (a : Nat) (w : Bool) : s.may 0 a w := ⟨rfl, rfl⟩

/-- An access that is issued and allowed has its effect. -/
theorem State.regAccess_of_may {m a : Nat} {w : Bool} (h : s.may m a w) (f : State → State) : s.regAccess m a w f = f s := by
  obtain ⟨hi, ha⟩ := h
  simp [State.regAccess, hi, ha]

theorem State.lkAccess_root (s : State) (a : Nat) (f : State → State) : s.lkAccess 0 a f = f s :=
  State.regAccess_of_may (s.may_root a true) _

/-- Another MID's write of an LK register is counted and has no effect (R6). -/
theorem State.lkAccess_other {m a : Nat} (hm : m ≠ 0) (h : s.may m a true) (f : State → State) : s.lkAccess m a f = s.lkDeny m := by
  rw [State.lkAccess, State.regAccess_of_may h, if_neg hm]

/-! ## Fields made by mkFld -/

theorem getLsbD_mkFld {hi lo : Nat} (v i : Nat) (h : lo ≤ hi + 1) :
    (mkFld hi lo v).getLsbD i = (decide (i < 32) && (decide (lo ≤ i ∧ i ≤ hi) && v.testBit (i - lo))) := by
  by_cases h32 : i < 32
  · by_cases hl : lo ≤ i
    · simp only [mkFld, BitVec.getLsbD_and, BitVec.getLsbD_shiftLeft, getLsbD_maskW _ _ _ h, getLsbD_word, h32, hl, show i - lo < 32 by omega,
        show ¬ i < lo by omega, decide_true, decide_false, Bool.not_false, Bool.true_and, true_and, Bool.and_comm]
    · simp only [mkFld, BitVec.getLsbD_and, getLsbD_maskW _ _ _ h, hl, decide_false, Bool.false_and, Bool.and_false, false_and]
  · simp [h32, BitVec.getLsbD_of_ge _ _ (Nat.le_of_not_lt h32)]

/-- A field that mkFld makes reads as its value, modulo its width. -/
theorem wFld_mkFld_same {hi lo : Nat} (hl : lo ≤ hi) (h : hi < 32) (v : Nat) : wFld (mkFld hi lo v) hi lo = v % 2 ^ (hi + 1 - lo) := by
  apply Nat.eq_of_testBit_eq
  intro i
  rw [testBit_wFld, getLsbD_mkFld _ _ (by omega), Nat.testBit_mod_two_pow]
  by_cases hi' : i < hi + 1 - lo
  · simp [hi', show lo + i < 32 by omega, show lo + i ≤ hi by omega]
  · simp [hi']

/-- A field beside the one that mkFld makes is 0. -/
theorem wFld_mkFld_other {hi lo h2 l2 : Nat} (hl : lo ≤ hi) (hd : h2 < lo ∨ hi < l2) (v : Nat) : wFld (mkFld hi lo v) h2 l2 = 0 := by
  apply Nat.eq_of_testBit_eq
  intro i
  rw [testBit_wFld, getLsbD_mkFld _ _ (by omega), Nat.zero_testBit]
  by_cases h' : i < h2 + 1 - l2
  · simp [show ¬ (lo ≤ l2 + i ∧ l2 + i ≤ hi) by omega]
  · simp [h']

theorem wFld_or (v w : Word) (hi lo : Nat) : wFld (v ||| w) hi lo = wFld v hi lo ||| wFld w hi lo := by
  apply Nat.eq_of_testBit_eq
  intro i
  simp only [Nat.testBit_or, testBit_wFld, BitVec.getLsbD_or, Bool.and_or_distrib_left]

theorem wBit_mkFld_above {hi lo i : Nat} (hl : lo ≤ hi + 1) (h : hi < i) (v : Nat) : wBit (mkFld hi lo v) i = false := by
  rw [wBit_eq, getLsbD_mkFld _ _ hl]
  simp [show ¬ i ≤ hi by omega]

/-- A field written as it stands leaves its register. -/
theorem wSetFld_wFld (w : Word) {hi lo : Nat} (hl : lo ≤ hi) : wSetFld w hi lo (wFld w hi lo) = w := by
  apply BitVec.eq_of_getLsbD_eq
  intro i h32
  rw [getLsbD_wSetFld _ _ _ _ _ (by omega)]
  split
  · next h => simp [h32, testBit_wFld, show i - lo < hi + 1 - lo by omega, show lo + (i - lo) = i by omega]
  · simp [h32]

/-! ## Registers that change -/

/-- A register of the list that stands as it was need not be in it. -/
theorem State.OnlyRegs.standing {a : Nat} {l : List Nat} (h : s.OnlyRegs t (a :: l)) (e : t.rd a = s.rd a) : s.OnlyRegs t l :=
  ⟨h.rest, fun b hb => by
    by_cases hab : b = a
    · rw [hab, e]
    · exact h.regs b (by simp [hab, hb])⟩

theorem State.OnlyRegs.mono {l k : List Nat} (h : s.OnlyRegs t l) (hk : ∀ a ∈ l, a ∈ k) : s.OnlyRegs t k := ⟨h.rest, h.regs.mono hk⟩

theorem State.OnlyRegs.trans {u : State} {l : List Nat} (h : s.OnlyRegs t l) (k : t.OnlyRegs u l) : s.OnlyRegs u l :=
  ⟨((congrArg (fun x : State => { x with regs := s.regs }) k.rest :)).trans h.rest, h.regs.trans k.regs⟩

theorem State.OnlyRegs.bit_eq {l : List Nat} (h : s.OnlyRegs t l) {a : Nat} (ha : a ∉ l) (i : Nat) : t.bit a i = s.bit a i :=
  congrArg (wBit · i) (h.regs a ha)

/-! ## SYS_LK_DENY -/

/-- A refused LK write changes SYS_LK_DENY alone. -/
theorem State.onlyRegs_lkDeny (s : State) (m : Nat) : s.OnlyRegs (s.lkDeny m) [Reg.SYS_LK_DENY] :=
  (State.OnlyRegs.refl s _).wr (by simp) _

/-- SYS_LK_DENY shows the MID of the last refused write. -/
theorem State.fld_lkDeny_mid (s : State) {m : Nat} (hm : m < 32) : (s.lkDeny m).fld Reg.SYS_LK_DENY 28 24 = m := by
  rw [State.fld, State.lkDeny, State.rd_wr_same, wFld_or, wFld_mkFld_same (by omega) (by omega), wFld_mkFld_other (by omega) (by omega)]
  simpa using hm

/-- SYS_LK_DENY counts the refused writes. -/
theorem State.fld_lkDeny_count (s : State) (m : Nat) :
    (s.lkDeny m).fld Reg.SYS_LK_DENY 23 0 = (s.fld Reg.SYS_LK_DENY 23 0 + 1) % 2 ^ 24 := by
  rw [State.fld, State.lkDeny, State.rd_wr_same, wFld_or, wFld_mkFld_other (by omega) (by omega), wFld_mkFld_same (by omega) (by omega),
    Nat.zero_or]

end Sys2Proof.Machine
end

section
/-! Loops over numbers, masks and lists with one entry replaced. -/

namespace Sys2Proof.Machine

/-! ## Masks -/

/-- Taking 2^g from a number that has bit g clears that bit alone. -/
theorem testBit_sub_two_pow : ∀ (g k m : Nat), m.testBit g = true → (m - 2 ^ g).testBit k = (decide (k ≠ g) && m.testBit k)
  | 0, k, m, h => by
    have h : m % 2 = 1 := by simpa [Nat.testBit_zero] using h
    cases k with
    | zero => rw [Nat.testBit_zero, show (m - 2 ^ 0) % 2 = 0 by omega]; simp
    | succ k => rw [Nat.testBit_succ, Nat.testBit_succ, show (m - 2 ^ 0) / 2 = m / 2 by omega]; simp
  | g + 1, k, m, h => by
    rw [Nat.testBit_succ] at h
    have e : 2 ^ (g + 1) = 2 * 2 ^ g := pow_succ' 2 g
    cases k with
    | zero => rw [Nat.testBit_zero, Nat.testBit_zero, show (m - 2 ^ (g + 1)) % 2 = m % 2 by
                have := Nat.ge_two_pow_of_testBit h; omega]; simp
    | succ k =>
      rw [Nat.testBit_succ, Nat.testBit_succ, show (m - 2 ^ (g + 1)) / 2 = m / 2 - 2 ^ g by omega, testBit_sub_two_pow g k _ h]
      simp

/-- A bit of a mask after a bit was set or cleared. -/
theorem testBit_maskBit (m g k : Nat) (b : Bool) : (maskBit m g b).testBit k = if k = g then b else m.testBit k := by
  cases b
  · by_cases h : m.testBit g = true
    · rw [maskBit, if_neg (by simp), if_pos h, testBit_sub_two_pow g k m h]
      split <;> simp [*]
    · rw [maskBit, if_neg (by simp), if_neg h]
      split
      · next e => subst e; simpa using h
      · rfl
  · rw [maskBit, if_pos rfl, Nat.testBit_or, Nat.testBit_two_pow]
    split
    · next e => simp [e]
    · next e => simp [Ne.symm e]

/-! ## Lists -/

theorem getElem?_setAt {α : Type} : ∀ (l : List α) (i k : Nat) (v : α), (setAt l i v)[k]? = if k = i ∧ i < l.length then some v else l[k]?
  | [], i, k, v => by simp [setAt]
  | a :: l, 0, k, v => by cases k <;> simp [setAt]
  | a :: l, i + 1, k, v => by
    cases k with
    | zero => simp [setAt]
    | succ k => simp [setAt, getElem?_setAt l i k v]

/-! ## Searches -/

theorem findFrom_eq_none (p : Nat → Bool) : ∀ k i, findFrom p k i = none ↔ ∀ j, i ≤ j → j < i + k → p j = false
  | 0, i => by simp [findFrom]; omega
  | k + 1, i => by
    unfold findFrom
    constructor
    · intro h j hi hj
      by_cases hp : p i = true
      · simp [hp] at h
      · rw [if_neg hp, findFrom_eq_none p k (i + 1)] at h
        rcases Nat.eq_or_lt_of_le hi with rfl | hi
        · simpa using hp
        · exact h j hi (by omega)
    · intro h
      rw [if_neg (by simp [h i (le_refl i) (by omega)]), findFrom_eq_none p k (i + 1)]
      exact fun j hi hj => h j (by omega) (by omega)

/-- No number below n is found exactly where none is accepted. -/
theorem lowest_eq_none (n : Nat) (p : Nat → Bool) : lowest n p = none ↔ ∀ j, j < n → p j = false := by
  rw [lowest, findFrom_eq_none]
  simp

/-! ## Loops -/

/-- A loop whose step at i changes the view at i alone has taken the view at each of its numbers through one step. -/
theorem State.each_view {β : Type} {P : State → Prop} {view : State → Nat → β} {f : Nat → State → State} {F : Nat → β → β} :
    ∀ {l : List Nat} {t : State}, l.Nodup → P t → (∀ i ∈ l, ∀ u, P u → P (f i u)) →
      (∀ i ∈ l, ∀ u, P u → ∀ k, view (f i u) k = if k = i then F i (view u i) else view u k) →
      ∀ k, view (t.each l f) k = if k ∈ l then F k (view t k) else view t k
  | [], _, _, _, _, _, _ => by simp
  | i :: l, t, hn, hP, hk, hv, k => by
    obtain ⟨hi, hn⟩ := List.nodup_cons.1 hn
    rw [State.each_cons, State.each_view hn (hk i (by simp) t hP) (fun j hj => hk j (by simp [hj])) (fun j hj => hv j (by simp [hj])),
      hv i (by simp) t hP]
    by_cases e : k = i
    · subst e; simp [hi]
    · simp [e]

/-- What one step of a loop brings about, and the others keep, holds after the loop. -/
theorem State.each_reaches {α : Type} {P Q : State → Prop} {f : α → State → State} {x : α} (hx : ∀ u, P u → Q (f x u)) :
    ∀ {l : List α} {t : State}, x ∈ l → P t → (∀ y ∈ l, ∀ u, P u → P (f y u)) → (∀ y ∈ l, ∀ u, Q u → Q (f y u)) → Q (t.each l f)
  | [], _, hm, _, _, _ => absurd hm (by simp)
  | y :: l, t, hm, hP, kP, kQ => by
    rw [State.each_cons]
    rcases List.mem_cons.1 hm with rfl | hm
    · exact State.each_keeps (hx t hP) fun z hz => kQ z (by simp [hz])
    · exact State.each_reaches hx hm (kP y (by simp) t hP) (fun z hz => kP z (by simp [hz])) fun z hz => kQ z (by simp [hz])

theorem State.each_congr {α : Type} {f g : α → State → State} : ∀ {l : List α} (t : State), (∀ x ∈ l, ∀ u, f x u = g x u) → t.each l f = t.each l g
  | [], _, _ => rfl
  | x :: l, t, h => by
    rw [State.each_cons, State.each_cons, h x (by simp), State.each_congr _ fun y hy => h y (by simp [hy])]

end Sys2Proof.Machine
end

section
/-! The state after RESET (R8, R343, R344). -/

namespace Sys2Proof.Machine

/-! ## At reset -/

theorem State.reset_canonical : State.reset.Canonical := ⟨by decide, rfl, rfl, rfl, rfl, rfl, rfl⟩

theorem FioBlock.default_shaped : ({} : FioBlock).Shaped := ⟨rfl, rfl, rfl, rfl, rfl⟩

theorem State.reset_shaped : State.reset.Shaped where
  gIn := rfl
  bIn := rfl
  gGrp := rfl
  bGrp := rfl
  fio := FioBlock.default_shaped
  ph _ h := nomatch h
  lane _ h := nomatch h

/-- Settles O3: the reset state's tables list nothing but SYS_RST_CAUSE, and its lists have their default lengths. -/
theorem invariantsAtReset : Obligations.InvariantsAtReset := ⟨State.reset_canonical, State.reset_shaped⟩

/-! ## Entering RESET -/

/-- What a lane holds after RESET: its persistent word's fields and no job (R56, R379). -/
def State.storedLane (s : State) (n : Nat) : Lane :=
  { state := wFld (s.preg (8 + n)) 31 29, cause := wFld (s.preg (8 + n)) 27 24, cycLo := wFld (s.preg (8 + n)) 15 0 }

/-- What a core holds after RESET (R271, R379). -/
def State.storedCore (s : State) (c : Nat) : Core := { state := min 4 (wFld (s.preg (32 + c)) 31 29) }

/-- Reading lanes from their words changes the lanes alone, and each named lane is the stored one. -/
theorem State.each_laneFromWord (l : List Nat) (s : State) :
    ∃ w, s.each l (fun n t => t.laneFromWord n) = { s with law := { s.law with lanes := w } }
      ∧ ∀ n, Table.get laneInit w n = if n ∈ l then s.storedLane n else s.lane n := by
  induction l generalizing s with
  | nil => exact ⟨s.law.lanes, rfl, fun _ => rfl⟩
  | cons k l ih =>
    obtain ⟨w, hw, hl⟩ := ih (s.laneFromWord k)
    refine ⟨w, hw, fun n => ?_⟩
    rw [hl, show (s.laneFromWord k).lane n = if n = k then s.storedLane k else s.lane n from Table.get_set _ _ _ _ _]
    by_cases hn : n = k
    · subst hn; simp; intro; rfl
    · simp only [List.mem_cons, hn, false_or, if_false]; rfl

/-- The same for cores. -/
theorem State.each_coreFromWord (l : List Nat) (s : State) :
    ∃ w, s.each l (fun c t => t.coreFromWord c) = { s with tsu := { s.tsu with cores := w } }
      ∧ ∀ c, Table.get coreInit w c = if c ∈ l then s.storedCore c else s.core c := by
  induction l generalizing s with
  | nil => exact ⟨s.tsu.cores, rfl, fun _ => rfl⟩
  | cons k l ih =>
    obtain ⟨w, hw, hl⟩ := ih (s.coreFromWord k)
    refine ⟨w, hw, fun n => ?_⟩
    rw [hl, show (s.coreFromWord k).core n = if n = k then s.storedCore k else s.core n from Table.get_set _ _ _ _ _]
    by_cases hn : n = k
    · subst hn; simp; intro; rfl
    · simp only [List.mem_cons, hn, false_or, if_false]; rfl

/-- The state that RESET leaves, with its lanes and cores named. -/
theorem State.fresh_eq (s : State) (cause active : Word) :
    ∃ w x, s.fresh cause active = State.wr
        { pending := s.pending, free := s.free + 1, pv := s.pv, hall := s.hall, cap := { epoch := s.free },
          law := { lanes := w }, tsu := { cores := x }, sys := { guard := s.sys.guard, active := active } } Reg.SYS_RST_CAUSE cause
      ∧ (∀ n, n < 18 → Table.get laneInit w n = s.storedLane n) ∧ ∀ c, c < 9 → Table.get coreInit x c = s.storedCore c := by
  obtain ⟨w, hw, hl⟩ := State.each_laneFromWord (List.range 18)
    { pending := s.pending, free := s.free + 1, pv := s.pv, hall := s.hall, cap := { epoch := s.free },
      sys := { guard := s.sys.guard, active := active } }
  obtain ⟨x, hx, hc⟩ := State.each_coreFromWord (List.range 9)
    { pending := s.pending, free := s.free + 1, pv := s.pv, hall := s.hall, cap := { epoch := s.free },
      law := { lanes := w }, sys := { guard := s.sys.guard, active := active } }
  refine ⟨w, x, ?_, fun n hn => ?_, fun c hc' => ?_⟩
  · simp only [State.fresh, hw, hx]
  · rw [hl, if_pos (List.mem_range.2 hn)]; rfl
  · rw [hc, if_pos (List.mem_range.2 hc')]; rfl

/-- What fresh makes of a state is what RESET leaves of it. -/
theorem State.fresh_resetFrom (s : State) (cause active : Word) : s.ResetFrom (s.fresh cause active) cause active := by
  obtain ⟨w, x, h, hl, hc⟩ := s.fresh_eq cause active
  rw [h]
  exact {
    cause := State.rd_wr_same _ _ _
    regs := fun a ha => State.rd_wr_other _ _ ha
    kept := ⟨rfl, rfl, rfl⟩
    sys := rfl
    afresh := ⟨rfl, rfl, rfl, rfl, rfl, rfl, rfl, rfl, rfl⟩
    capture := ⟨rfl, rfl, rfl⟩
    jobs := ⟨rfl, rfl, rfl⟩
    lanes := fun n hn => ⟨congrArg Lane.state (hl n hn), congrArg Lane.job (hl n hn)⟩
    cores := fun c hc' => ⟨congrArg Core.state (hc c hc'), congrArg Core.x (hc c hc')⟩ }

/-- A register write before RESET leaves no trace. -/
theorem State.ResetFrom.of_wr {s t : State} {a : Nat} {v cause active : Word} (h : (s.wr a v).ResetFrom t cause active) :
    s.ResetFrom t cause active := ⟨h.cause, h.regs, h.kept, h.sys, h.afresh, h.capture, h.jobs, h.lanes, h.cores⟩

/-- A reset source acts outside OFF and RESET (R343). -/
theorem State.enterReset_resetFrom {s : State} (ho : s.mode ≠ mOFF) (hr : s.mode ≠ mRESET) (bit : Nat) (held : Bool) :
    s.ResetFrom (s.enterReset bit held) (bitW bit) (mkBit bit held) := by
  rw [State.enterReset, if_neg ho, if_neg hr]
  exact s.fresh_resetFrom _ _

/-- A source that is held is recorded in RESET as well (R343). -/
theorem State.enterReset_in_reset {s : State} (h : s.mode = mRESET) (bit : Nat) :
    (s.enterReset bit true).rd Reg.SYS_RST_CAUSE = s.rd Reg.SYS_RST_CAUSE ||| bitW bit
      ∧ State.OnlyRegs { s with sys := { s.sys with active := s.sys.active ||| bitW bit } } (s.enterReset bit true) [Reg.SYS_RST_CAUSE] := by
  rw [State.enterReset, if_neg (by rw [h]; decide), if_pos h]
  exact ⟨State.rd_wr_same _ _ _, (State.OnlyRegs.refl { s with sys := _ } _).wr (by simp) _⟩

theorem watchdogReset_of_wdog {s : State} (h : s.sys.wdog = true) : watchdogReset s = s.enterReset 28 false := if_pos h

theorem refclkReset_of_lost {s : State} (hl : s.tb.lost = true) (hb : mBOOT ≤ s.mode) : refclkReset s = s.enterReset 25 false :=
  if_pos (by simp [hl, hb])

theorem watchdogExpire_of_on {s : State} (ho : s.mode ≠ mOFF) (hr : s.mode ≠ mRESET) :
    watchdogExpire s = { s with sys := { s.sys with wdog := true } } := if_neg (by simp [ho, hr])

/-- SYS_MODE written after RESET: OFF, with the persistent store, the Hall and the queue kept. -/
theorem State.ResetFrom.off {s t : State} {cause active : Word} (h : s.ResetFrom t cause active) :
    (t.wr Reg.SYS_MODE 0).mode = mOFF ∧ (t.wr Reg.SYS_MODE 0).pv = s.pv ∧ (t.wr Reg.SYS_MODE 0).hall = s.hall
      ∧ (t.wr Reg.SYS_MODE 0).pending = s.pending
      ∧ ∀ a, a ≠ Reg.SYS_RST_CAUSE → a ≠ Reg.SYS_MODE → (t.wr Reg.SYS_MODE 0).rd a = resetOf a := by
  obtain ⟨hp, hv, hh⟩ := h.kept
  refine ⟨?_, hv, hh, hp, fun a hc hm => (State.rd_wr_other _ _ hm).trans (h.regs a hc)⟩
  rw [State.mode, State.fld, State.rd_wr_same]
  rfl

theorem porAssert_of_on {s : State} (ho : s.mode ≠ mOFF) : porAssert s = (s.fresh 0 0).wr Reg.SYS_MODE 0 := if_neg ho

theorem porRelease_of_off {s : State} (ho : s.mode = mOFF) : porRelease s = s.fresh (bitW 31) 0 := if_pos ho

/-- Settles O12: the state after RESET is the same whatever the source, but for the recorded cause and the sources held active. -/
theorem resetSources : Obligations.ResetSources := by
  refine ⟨fun s ho hr => ?_, fun s h => ?_, fun s ho => ?_, fun s ho => ?_, fun s => rfl⟩
  · refine ⟨⟨_, rfl, State.enterReset_resetFrom ho hr 30 true⟩, ⟨_, rfl, State.enterReset_resetFrom ho hr 29 true⟩, fun hw => ?_,
      fun hl hb => ?_, congrArg Host.Outcome.next (watchdogExpire_of_on ho hr)⟩
    · exact ⟨_, congrArg Host.Outcome.next (watchdogReset_of_wdog hw), State.enterReset_resetFrom ho hr 28 false⟩
    · exact ⟨_, congrArg Host.Outcome.next (refclkReset_of_lost hl hb), State.enterReset_resetFrom ho hr 25 false⟩
  · exact ⟨⟨_, rfl, State.enterReset_in_reset h 30⟩, ⟨_, rfl, State.enterReset_in_reset h 29⟩⟩
  · exact ⟨_, congrArg Host.Outcome.next (porAssert_of_on ho), (s.fresh_resetFrom 0 0).off⟩
  · exact ⟨_, congrArg Host.Outcome.next (porRelease_of_off ho), s.fresh_resetFrom _ _⟩

end Sys2Proof.Machine
end

section
/-! What a persistent write and the records of spare capacity that it may bring about change (R375 to R379, R406). -/

namespace Sys2Proof.Machine

variable {s t u : State} {p : Nat}

/-- The persistent words of the ring of spare records: its pointer and its 32 records of four words (R406). -/
def ringWord (n : Nat) : Prop := n = 64 ∨ (80 ≤ n ∧ n < 208)

/-- The registers that a persistent write or a spare record may change. -/
def storeRegs : List Nat := Reg.PREG_EVT :: Reg.PREG_GCNT :: Reg.SPR_EVT :: Reg.SPR_STAT :: noticeRegs

/-- t is s but for the persistent word p, the ring of spare records, and what writing them changes: wear and remapping, their registers, the records
that wait, and the notice of a spare-in. -/
structure State.OnlyStored (s t : State) (p : Nat) : Prop where
  rest : { t with free := s.free, regs := s.regs, spr := s.spr, tsu := { t.tsu with cores := s.tsu.cores },
                  pv := { t.pv with words := s.pv.words, wear := s.pv.wear, spares := s.pv.spares },
                  cap := { t.cap with queue := s.cap.queue, sess := s.cap.sess, dram := s.cap.dram } } = s
  regs : s.RegsBut t storeRegs
  words : ∀ n, n ≠ p → ¬ ringWord n → t.preg n = s.preg n

theorem State.OnlyStored.refl (s : State) (p : Nat) : s.OnlyStored s p := ⟨rfl, .refl s _, fun _ _ _ => rfl⟩

theorem State.OnlyStored.wr (h : s.OnlyStored t p) {a : Nat} (ha : a ∈ storeRegs) (v : Word) : s.OnlyStored (t.wr a v) p :=
  ⟨h.rest, h.regs.wr ha v, h.words⟩

theorem State.OnlyNoticed.pv_eq {l : List Nat} (h : s.OnlyNoticed t l) : t.pv = s.pv := (congrArg State.pv h.rest :)

theorem notice_store {a : Nat} (h : a ∈ noticeRegs) : a ∈ storeRegs := by simp [storeRegs, h]

/-- A notice changes nothing beside what a store may change. -/
theorem State.OnlyStored.noticed (h : s.OnlyStored t p) (k : t.OnlyNoticed u []) : s.OnlyStored u p := by
  refine ⟨?_, h.regs.trans (k.regs.mono fun a ha => notice_store (by simpa using ha)),
    fun n hn hr => ?_⟩
  · exact (congrArg (fun x : State =>
      { x with free := s.free, regs := s.regs, spr := s.spr, tsu := { x.tsu with cores := s.tsu.cores },
               pv := { x.pv with words := s.pv.words, wear := s.pv.wear, spares := s.pv.spares },
               cap := { x.cap with queue := s.cap.queue, sess := s.cap.sess, dram := s.cap.dram } }) k.rest).trans h.rest
  · rw [← h.words n hn hr, State.preg, k.pv_eq]; rfl

/-- The engine's own fields change. -/
theorem State.OnlyStored.withSpr (h : s.OnlyStored t p) (x : SprBlock) : s.OnlyStored { t with spr := x } p := ⟨h.rest, h.regs, h.words⟩

theorem State.OnlyStored.takeFree (h : s.OnlyStored t p) : s.OnlyStored t.takeFree p := ⟨h.rest, h.regs, h.words⟩

theorem State.OnlyStored.withSpares (h : s.OnlyStored t p) (n : Nat) : s.OnlyStored { t with pv := { t.pv with spares := n } } p :=
  ⟨h.rest, h.regs, h.words⟩

theorem State.preg_pregStore (s : State) (n m : Nat) (v w : Word) : (s.pregStore n v w).preg m = if m = n then v else s.preg m :=
  Table.get_set _ _ _ _ _

theorem State.preg_pregMove (s : State) (n m : Nat) (v : Word) : (s.pregMove n v).preg m = if m = n then v else s.preg m :=
  Table.get_set _ _ _ _ _

theorem State.OnlyStored.pregStore (h : s.OnlyStored t p) {n : Nat} (hn : n = p ∨ ringWord n) (v w : Word) : s.OnlyStored (t.pregStore n v w) p :=
  ⟨h.rest, h.regs, fun m hm hr => by
    rw [State.preg_pregStore, if_neg (by rintro rfl; exact hn.elim hm hr), h.words m hm hr]⟩

theorem State.OnlyStored.pregMove (h : s.OnlyStored t p) {n : Nat} (hn : ringWord n) (v : Word) : s.OnlyStored (t.pregMove n v) p :=
  ⟨h.rest, h.regs, fun m hm hr => by rw [State.preg_pregMove, if_neg (by rintro rfl; exact hr hn), h.words m hm hr]⟩

/-! ## Waiting records -/

theorem mem_pregEvt : Reg.PREG_EVT ∈ storeRegs := by simp [storeRegs]
theorem mem_pregGcnt : Reg.PREG_GCNT ∈ storeRegs := by simp [storeRegs]
theorem mem_sprEvt : Reg.SPR_EVT ∈ storeRegs := by simp [storeRegs]
theorem mem_sprStat : Reg.SPR_STAT ∈ storeRegs := by simp [storeRegs]

theorem State.OnlyStored.pushRec (h : s.OnlyStored t p) (r : SprRec) : s.OnlyStored (t.pushRec r) p := by
  unfold State.pushRec
  dsimp only
  split
  · exact (h.withSpr _).wr mem_sprEvt _
  · exact ((h.withSpr _).wr mem_sprEvt _).noticed ((State.OnlyNoticed.refl _ []).capEvent _ _ _)

theorem State.pushRec_pv (s : State) (r : SprRec) : (s.pushRec r).pv = s.pv := by
  unfold State.pushRec
  dsimp only
  split
  · rfl
  · exact ((State.OnlyNoticed.refl _ []).capEvent _ _ _).pv_eq

theorem State.preg_pushRec (s : State) (r : SprRec) (n : Nat) : (s.pushRec r).preg n = s.preg n := by rw [State.preg, State.pushRec_pv]; rfl

/-! ## One write -/

theorem State.OnlyStored.pregPut (h : s.OnlyStored t p) {n : Nat} (hn : n = p ∨ ringWord n) (v : Word) : s.OnlyStored (t.pregPut n v) p := by
  unfold State.pregPut
  extract_lets u
  clear_value u
  split
  · exact h.takeFree.pregStore hn _ _
  · split
    · exact (((h.takeFree.pregStore hn _ _).withSpares _).wr mem_pregEvt _).pushRec _
    · have k := fun x => (h.takeFree.pregStore hn v x).wr mem_pregEvt
      split
      · exact k _ _
      · exact (k _ _).pushRec _

/-- A written persistent word reads as written, remapped or not, and leaves the others alone (R375, R378). -/
theorem State.preg_pregPut (s : State) (n m : Nat) (v : Word) : (s.pregPut n v).preg m = if m = n then v else s.preg m := by
  have k := fun x => s.takeFree.preg_pregStore n m v x
  unfold State.pregPut
  extract_lets u
  clear_value u
  split
  · exact k _
  · split
    · exact (State.preg_pushRec _ _ _).trans (k (bitW 31 ||| word u))
    · split
      · exact k _
      · exact (State.preg_pushRec _ _ _).trans (k _)

theorem State.OnlyStored.pregRefuse (h : s.OnlyStored t p) : s.OnlyStored t.pregRefuse p := (h.wr mem_pregEvt _).wr mem_pregGcnt _

/-! ## The ring -/

theorem ringWord_rec {i k : Nat} (hi : i < 32) (hk : k < 4) : ringWord (80 + 4 * i + k) := .inr (by omega)

theorem State.OnlyStored.recSwap (h : s.OnlyStored t p) {i j : Nat} (hi : i < 32) (hj : j < 32) : s.OnlyStored (t.recSwap i j) p := by
  refine State.each_keeps (P := fun u => s.OnlyStored u p) h fun k hk u hu => ?_
  have hk : k < 4 := by simp at hk; omega
  exact (hu.pregMove (ringWord_rec hi hk) _).pregMove (ringWord_rec hj hk) _

theorem State.OnlyStored.recSort : ∀ (k : Nat) {t : State} {i : Nat}, s.OnlyStored t p → i < 32 → s.OnlyStored (t.recSort i k) p
  | 0, _, _, h, _ => h
  | k + 1, t, i, h, hi => by
    unfold State.recSort
    dsimp only
    have hj : (i + 31) % 32 < 32 := Nat.mod_lt _ (by omega)
    split
    · exact State.OnlyStored.recSort k (h.recSwap hi hj) hj
    · exact h

theorem State.OnlyStored.writeRec (h : s.OnlyStored t p) : s.OnlyStored t.writeRec p := by
  unfold State.writeRec
  split
  · exact h
  · extract_lets _ s₁ q i w₀ s₂ s₃ s₄ s₅
    have h₁ : s.OnlyStored s₁ p := h.withSpr _
    split
    · exact h₁.pregRefuse.wr mem_sprStat _
    · have hi : i < 32 := wFld_lt q 4 0
      have h₂ : s.OnlyStored s₂ p := h₁.pregPut (.inr (.inr (by omega))) _
      have h₃ : s.OnlyStored s₃ p := h₂.pregPut (.inr (.inr (by omega))) _
      have h₄ : s.OnlyStored s₄ p := h₃.pregPut (.inr (.inr (by omega))) _
      have h₅ : s.OnlyStored s₅ p := h₄.pregPut (.inr (.inr (by omega))) _
      exact ((h₅.pregPut (.inr (.inl rfl)) _).withSpr _).recSort _ hi

theorem State.OnlyStored.drainRecs : ∀ (k : Nat) {t : State}, s.OnlyStored t p → s.OnlyStored (t.drainRecs k) p
  | 0, _, h => h
  | k + 1, t, h => by
    unfold State.drainRecs
    split
    · exact h
    · exact State.OnlyStored.drainRecs k h.writeRec

/-- A record changes the ring and no other persistent word (R406). -/
theorem State.OnlyStored.record (h : s.OnlyStored t p) (r : SprRec) : s.OnlyStored (t.record r) p := (h.pushRec r).drainRecs _

/-! ## Writes that the guard may refuse -/

theorem State.OnlyStored.pregWrite (h : s.OnlyStored t p) (v : Word) : s.OnlyStored (t.pregWrite p v).1 p := by
  unfold State.pregWrite
  split
  · exact h.pregRefuse
  · exact (h.pregPut (.inl rfl) v).drainRecs _

theorem State.OnlyStored.pregKeep (h : s.OnlyStored t p) (v : Word) : s.OnlyStored (t.pregKeep p v) p := by
  unfold State.pregKeep
  dsimp only
  split
  · exact h.pregWrite v
  · exact (h.pregWrite v).withSpr _

/-- An engaged guard refuses the write and the store stays (R376). -/
theorem State.pregWrite_guarded (h : s.sys.guard = true) (n : Nat) (v : Word) : s.pregWrite n v = (s.pregRefuse, false) := if_pos h

theorem State.pregWrite_unguarded (h : s.sys.guard = false) (n : Nat) (v : Word) : s.pregWrite n v = ((s.pregPut n v).drainRecs recFuel, true) :=
  if_neg (by simp [h])

/-- A word outside the ring that was written reads as written (R375). -/
theorem State.preg_pregWrite (h : s.sys.guard = false) {n : Nat} (hn : ¬ ringWord n) (v : Word) : (s.pregWrite n v).1.preg n = v := by
  have hp : n ≠ 64 := fun e => hn (.inl e)
  rw [State.pregWrite_unguarded h, ((State.OnlyStored.refl (s.pregPut n v) 64).drainRecs recFuel).words n hp hn, State.preg_pregPut, if_pos rfl]

end Sys2Proof.Machine
end

section
/-! Requests of MID 0 by SYS_CTRL (R348, R354, R356). -/

namespace Sys2Proof.Machine

variable {s t : State}

/-! ## The clear of the attempt counter -/

/-- The clear is kept to be repeated exactly where the guard refuses it (R354, R376). -/
theorem State.attClear_retry (s : State) : s.attClear.sys.attRetry = s.sys.guard := by
  cases h : s.sys.guard
  · simp [State.attClear, State.pregWrite_unguarded h]
  · simp [State.attClear, State.pregWrite_guarded h]

/-- A clear that the guard admits clears the counter in persistent word 0. -/
theorem State.attClear_word (h : s.sys.guard = false) : s.attClear.preg 0 = wSetFld (s.preg 0) 3 0 0 :=
  State.preg_pregWrite h (by simp [ringWord]) _

theorem State.attClear_store_guarded (h : s.sys.guard = true) : s.attClear.pv = s.pv := by
  simp [State.attClear, State.pregWrite_guarded h, State.pregRefuse, State.orBits_wr, State.inc_wr]

/-- The clear leaves the Hall and the time base alone. -/
theorem State.attClear_frame (s : State) : s.attClear.hall = s.hall ∧ s.attClear.tb = s.tb := by
  have h := ((State.OnlyStored.refl s 0).pregWrite (wSetFld (s.preg 0) 3 0 0)).rest
  exact ⟨(congrArg State.hall h :), (congrArg State.tb h :)⟩

/-- What an admitted clear does: the counter is 0, nothing is left to repeat, and Hall and time base stay. -/
theorem State.attClear_admitted (h : s.sys.guard = false) :
    s.attClear.preg 0 = wSetFld (s.preg 0) 3 0 0 ∧ s.attClear.sys.attRetry = false ∧ s.attClear.hall = s.hall ∧ s.attClear.tb = s.tb :=
  ⟨State.attClear_word h, s.attClear_retry.trans h, s.attClear_frame⟩

/-! ## A write of SYS_CTRL -/

/-- MREQ as a write of v stores it. -/
def State.withMreq (s : State) (v : Word) : State := s.setFld Reg.SYS_CTRL 3 0 (wFld v 3 0)

theorem State.onlyRegs_withMreq (s : State) (v : Word) {l : List Nat} (h : Reg.SYS_CTRL ∈ l) : s.OnlyRegs (s.withMreq v) l :=
  (State.OnlyRegs.refl s l).wr h _

/-- The stored MREQ is lost in RESET. -/
theorem State.ResetFrom.of_withMreq {v cause active : Word} (h : (s.withMreq v).ResetFrom t cause active) : s.ResetFrom t cause active :=
  State.ResetFrom.of_wr h

theorem State.withMreq_rd (s : State) (v : Word) {a : Nat} (h : a ≠ Reg.SYS_CTRL) : (s.withMreq v).rd a = s.rd a := State.rd_wr_other _ _ h

theorem State.withMreq_mode (s : State) (v : Word) : (s.withMreq v).mode = s.mode := by
  rw [State.mode, State.mode, State.fld, State.fld, s.withMreq_rd v (by decide)]

theorem State.anyReleased_withMreq (s : State) (v : Word) : (s.withMreq v).anyReleased = s.anyReleased := rfl

theorem State.groupOn_withMreq (s : State) (v : Word) : (s.withMreq v).groupOn = s.groupOn := rfl

theorem State.softReset_accepted {v : Word} (hk : wFld v 15 8 = 0xC3) (hr : s.anyReleased = false) : s.softReset v = s.enterReset 27 false :=
  if_neg (by simp [hk, hr])

theorem State.softReset_refused {v : Word} (h : wFld v 15 8 ≠ 0xC3 ∨ s.anyReleased = true) :
    s.softReset v = s.orBits Reg.SYS_EVT (bitW 29) := if_pos h

/-- An accepted software reset ends the write (log entry 27). -/
theorem State.sysCtrl_accepted {v : Word} (h : wBit v 31 = true) (hk : wFld v 15 8 = 0xC3) (hr : s.anyReleased = false) :
    s.sysCtrl v = (s.withMreq v).enterReset 27 false := by
  have e : (wBit v 31 && wFld v 15 8 == 0xC3 && !(s.withMreq v).anyReleased) = true := by simp [h, hk, s.anyReleased_withMreq v, hr]
  unfold State.sysCtrl
  exact (if_pos e).trans (State.softReset_accepted (s := s.withMreq v) hk hr)

/-- A software reset that is refused sets SYS_EVT.RSTREF (R348). -/
theorem State.sysCtrl_refused {v : Word} (h : wBit v 31 = true) (hr : wFld v 15 8 ≠ 0xC3 ∨ s.anyReleased = true) (h30 : wBit v 30 = false)
    (h29 : wBit v 29 = false) : s.sysCtrl v = (s.withMreq v).orBits Reg.SYS_EVT (bitW 29) := by
  have e : ¬ (wBit v 31 && wFld v 15 8 == 0xC3 && !(s.withMreq v).anyReleased) = true := by
    rcases hr with hr | hr <;> simp [hr, s.anyReleased_withMreq v]
  unfold State.sysCtrl
  refine (if_neg e).trans ?_
  simp only [h, h30, h29, State.when_true, State.when_false]
  exact State.softReset_refused (s := s.withMreq v) hr

/-- Without SWRST and ATTCLR only the mode request is left. -/
theorem State.sysCtrl_request {v : Word} (h31 : wBit v 31 = false) (h30 : wBit v 30 = true) (h29 : wBit v 29 = false) :
    s.sysCtrl v = (s.withMreq v).modeRequest (wFld v 3 0) := by
  unfold State.sysCtrl
  simp only [h31, h30, h29, Bool.false_and, Bool.false_eq_true, if_false, State.when_true, State.when_false]
  rfl

theorem State.sysCtrl_clear {v : Word} (h31 : wBit v 31 = false) (h30 : wBit v 30 = false) (h29 : wBit v 29 = true) :
    s.sysCtrl v = (s.withMreq v).attClear := by
  unfold State.sysCtrl
  simp only [h31, h30, h29, Bool.false_and, Bool.false_eq_true, if_false, State.when_true, State.when_false]
  rfl

/-! ## Mode requests -/

/-- The modes from which R356 lets MID 0 ask for MAINTENANCE. -/
def State.mayMaintain (s : State) : Prop := s.mode = mLISTEN ∨ s.mode = mINTEGRATE ∨ s.mode = mSTANDBY ∨ (s.mode = mRUN ∧ s.groupOn = false)

/-- A request that no reaction of the safety unit precedes is the mode that the next tick 0 brings (R341, R352). -/
theorem State.reqMode_eq {m : Nat} (hs : s.sys.pend ≠ some mSAFESTOP) (hd : s.sys.pend ≠ some mDEGRADED) :
    s.reqMode m = { s with sys := { s.sys with pend := some m } } := if_neg (by simp [hs, hd])

theorem State.modeRequest_maintenance (h : s.mayMaintain) : s.modeRequest mMAINTENANCE = s.reqMode mMAINTENANCE := if_pos ⟨rfl, h⟩

theorem State.modeRequest_listen (h : s.mode = mMAINTENANCE) : s.modeRequest mLISTEN = s.reqMode mCONFIGURE :=
  (if_neg (by simp [mLISTEN, mMAINTENANCE])).trans (if_pos ⟨rfl, h⟩)

/-- A request that R356 does not allow sets SYS_EVT.MREQREF. -/
theorem State.modeRequest_refused {m : Nat} (hm : ¬ (m = mMAINTENANCE ∧ s.mayMaintain)) (hl : ¬ (m = mLISTEN ∧ s.mode = mMAINTENANCE)) :
    s.modeRequest m = s.orBits Reg.SYS_EVT (bitW 30) := (if_neg hm).trans (if_neg hl)

theorem State.mayMaintain_withMreq (s : State) (v : Word) : (s.withMreq v).mayMaintain ↔ s.mayMaintain := by
  rw [State.mayMaintain, State.mayMaintain, s.withMreq_mode, s.groupOn_withMreq]

/-- A refusal changes SYS_EVT, beside the stored MREQ. -/
theorem State.withMreq_refusal (s : State) (v : Word) (i : Nat) :
    ((s.withMreq v).orBits Reg.SYS_EVT (bitW i)).rd Reg.SYS_EVT = s.rd Reg.SYS_EVT ||| bitW i
      ∧ s.OnlyRegs ((s.withMreq v).orBits Reg.SYS_EVT (bitW i)) [Reg.SYS_EVT, Reg.SYS_CTRL] := by
  refine ⟨?_, (s.onlyRegs_withMreq v (by simp)).wr (by simp) _⟩
  rw [State.orBits, State.rd_wr_same, s.withMreq_rd v (by decide)]

/-- An accepted request sets the mode that is pending, beside the stored MREQ. -/
theorem State.withMreq_reqMode {v : Word} (m : Nat) (hs : s.sys.pend ≠ some mSAFESTOP) (hd : s.sys.pend ≠ some mDEGRADED) :
    State.OnlyRegs { s with sys := { s.sys with pend := some m } } ((s.withMreq v).reqMode m) [Reg.SYS_CTRL] := by
  rw [State.reqMode_eq (s := s.withMreq v) hs hd]
  exact (State.OnlyRegs.refl { s with sys := { s.sys with pend := some m } } _).wr (by simp) _

/-! ## The commands -/

theorem exec_swrst_root (s : State) (v : Word) : exec (.swrst 0 v) s = .next (s.sysCtrl v) := congrArg Host.Outcome.next (State.lkAccess_root s _ _)
theorem exec_mgo_root (s : State) (v : Word) : exec (.mgo 0 v) s = .next (s.sysCtrl v) := congrArg Host.Outcome.next (State.lkAccess_root s _ _)
theorem exec_attclr_root (s : State) (v : Word) : exec (.attclr 0 v) s = .next (s.sysCtrl v) := congrArg Host.Outcome.next (State.lkAccess_root s _ _)

/-- Settles O16: each bit of SYS_CTRL is reduced to its own effect, and each effect has its rule. -/
theorem requestsOfMid0 : Obligations.RequestsOfMid0 := by
  refine ⟨fun s v h31 ho hr => ⟨fun hk hg => ?_, fun hx h30 h29 => ?_⟩, fun s v h31 h30 h29 => ?_, fun s v h31 h30 h29 => ?_,
    fun s hm hr hg => ?_, fun s ha hg => ?_, fun s m v hm hmay => ?_⟩
  · refine ⟨_, (exec_swrst_root s v).trans (congrArg _ (State.sysCtrl_accepted h31 hk hg)), State.ResetFrom.of_withMreq (v := v) ?_⟩
    exact State.enterReset_resetFrom (by rwa [s.withMreq_mode]) (by rwa [s.withMreq_mode]) 27 false
  · exact ⟨_, (exec_swrst_root s v).trans (congrArg _ (State.sysCtrl_refused h31 hx h30 h29)), s.withMreq_refusal v 29⟩
  · have e := (exec_mgo_root s v).trans (congrArg _ (State.sysCtrl_request h31 h30 h29))
    refine ⟨fun hf ha hs hd => ?_, fun hf hr hg => ?_, fun hm hl => ?_, fun hf hm hs hd => ?_⟩
    · rw [hf, State.modeRequest_maintenance ((s.mayMaintain_withMreq v).2 ha)] at e
      exact ⟨_, e, State.withMreq_reqMode _ hs hd⟩
    · rw [hf, State.modeRequest_refused] at e
      · exact ⟨_, e, s.withMreq_refusal v 30⟩
      · simp [State.mayMaintain, s.withMreq_mode v, s.groupOn_withMreq v, hr, hg, mRUN, mLISTEN, mINTEGRATE, mSTANDBY]
      · simp [mMAINTENANCE, mLISTEN]
    · rw [State.modeRequest_refused (fun h => hm h.1) (fun h => hl h.1)] at e
      exact ⟨_, e, s.withMreq_refusal v 30⟩
    · rw [hf, State.modeRequest_listen (by rwa [s.withMreq_mode])] at e
      exact ⟨_, e, State.withMreq_reqMode _ hs hd⟩
  · exact ⟨_, (exec_attclr_root s v).trans (congrArg _ (State.sysCtrl_clear h31 h30 h29)), (s.withMreq v).attClear_retry,
      fun hg => State.attClear_word (s := s.withMreq v) hg, fun hg => State.attClear_store_guarded (s := s.withMreq v) hg⟩
  · exact ⟨_, congrArg Host.Outcome.next (if_pos ⟨hm, hr⟩), State.attClear_admitted hg⟩
  · exact ⟨_, congrArg Host.Outcome.next (if_pos ha), State.attClear_admitted hg⟩
  · exact ⟨_, congrArg Host.Outcome.next (State.lkAccess_other (fun h => hm (Fin.ext h)) hmay _), s.fld_lkDeny_mid m.isLt, s.fld_lkDeny_count m,
      s.onlyRegs_lkDeny m⟩

end Sys2Proof.Machine
end

section
/-! What a register write changes (R5 to R7). -/

namespace Sys2Proof.Machine

variable {s t : State}

/-! ## REGISTER_WRITE -/

/-- Only the persistent words know the guard (R376). -/
theorem State.guardRefuses_elsewhere {a : Nat} (h : a / 65536 ≠ 0x4020) (s : State) (m : Nat) : s.guardRefuses m a = false := by
  have : ¬ (0x40200000 ≤ a ∧ a < 0x40202000) := by omega
  simp [State.guardRefuses, this]

/-- A 32-bit write that nothing refuses is the write of its register. -/
theorem exec_registerWrite {m : Fin 32} {a v : Word} (hi : s.issues m a.toNat true = true) (hc : s.busCheck m a.toNat 4 true = none)
    (hg : s.guardRefuses m a.toNat = false) : exec (.registerWrite m a 2 v) s = .next (s.regWrite m a.toNat v) := by
  have e : s.busWrite m a.toNat 4 v = s.regWrite m a.toNat v := by simp [State.busWrite, hi, hc, State.guardedWrite, hg]
  exact congrArg Host.Outcome.next e

/-- A write that no LK field keeps from its register has the register's effect. -/
theorem State.regWrite_open {m a : Nat} {r : RegRow} (hr : regRow? a = some r) (ha : a / 65536 ≠ 0x4020)
    (hl : m = 0 ∨ r.lk &&& r.writable = 0) (v : Word) : s.regWrite m a v = s.blockWrite m a r v := by
  have e : s.lkFilter m a r v = (some v, s) := if_pos hl
  simp only [State.regWrite, hr, if_neg ha, e]

/-- A register of LK fields alone ignores another MID's write (R6, R7). -/
theorem State.regWrite_locked {m a : Nat} {r : RegRow} (hr : regRow? a = some r) (ha : a / 65536 ≠ 0x4020) (hm : m ≠ 0)
    (hl : r.lk &&& r.writable = r.writable) (hw : r.writable ≠ 0) (v : Word) : s.regWrite m a v = s.lkDeny m := by
  have e : s.lkFilter m a r v = (none, s.lkDeny m) := (if_neg (by simp [hm, hl, hw])).trans (if_pos hl)
  simp only [State.regWrite, hr, if_neg ha, e]

/-! ## Registers without an effect of their own -/

theorem State.OnlyRaised.settleAt {l : List Nat} (h : s.OnlyRaised t l) {a : Nat} (ha : irqSource a ≠ some 20) : s.OnlyRaised (t.settleAt a) l := by
  unfold State.settleAt
  split
  · next n e => rw [if_neg (by rintro rfl; exact ha e)]; exact h.irqSettle n
  · exact h

/-- A plain write changes its register and what the delivery of its source changes. -/
theorem State.onlyRaised_putPlain (s : State) {a : Nat} (ha : irqSource a ≠ some 20) (r : RegRow) (v : Word) : s.OnlyRaised (s.putPlain a r v) [a] :=
  State.OnlyRaised.settleAt (((State.OnlyRaised.refl s [a]).wr (by simp) _).wr (by simp) _) ha

/-- RW fields take the value, W1C bits clear, and a bit whose condition stands is set again (R6). -/
theorem State.rd_putPlain {a : Nat} (ha : irqSource a ≠ some 20) (hd : a ∉ deliveryRegs) (r : RegRow) (v : Word) :
    (s.putPlain a r v).rd a = (((s.rd a &&& ~~~ word r.rw) ||| (v &&& word r.rw)) &&& ~~~ (v &&& word r.w1c))
      ||| (v &&& word r.w1c &&& (s.putReg a r v).standing a) := by
  have h := ((State.OnlyRaised.refl ((s.putReg a r v).restand a r v) []).settleAt ha).regs a (by simpa using hd)
  exact h.trans ((State.rd_wr_same _ a _).trans (by rw [State.putReg, State.rd_wr_same]))

/-! ## The blocks SYS and TB -/

/-- The blocks SYS and TB. -/
def sysOrTb (a : Nat) : Prop := a / 65536 = 0x4000 ∨ a / 65536 = 0x4001

theorem not_delivery_of_sysOrTb {a : Nat} (h : sysOrTb a) : a ∉ deliveryRegs := by
  have k : ∀ b ∈ deliveryRegs, b / 65536 = 0x4009 := by decide
  intro ha
  have := k a ha
  rcases h with h | h <;> omega

/-- No register of SYS and TB has the scheduler's source, which holds every other one. -/
theorem irqSource_of_sysOrTb {a : Nat} (h : sysOrTb a) : irqSource a ≠ some 20 := by
  have n : ∀ b ∈ [Reg.TSU_EVT, Reg.TSU_IEN, Reg.TSU_IRQLOST], a ≠ b := by
    rintro b hb rfl
    have : ∀ b ∈ [Reg.TSU_EVT, Reg.TSU_IEN, Reg.TSU_IRQLOST], b / 65536 = 0x4009 := by decide
    have := this a hb
    rcases h with h | h <;> omega
  have hr : ¬ (0x40020000 ≤ a ∧ a < 0x4002C000) := by rcases h with h | h <;> omega
  unfold irqSource
  repeat' split
  all_goals simp_all

/-- In SYS and TB only TB_EVT.REFLOST stands while its condition does (R6; log entry 74). -/
theorem State.standing_of_sysOrTb {a : Nat} (h : sysOrTb a) (s : State) : s.standing a = mkBit 31 (a == Reg.TB_EVT && s.tb.lost) := by
  by_cases e : a = Reg.TB_EVT
  · subst e
    simp only [beq_self_eq_true, Bool.true_and]
    rfl
  · have n : ∀ b ∈ [Reg.FBK_EVT, Reg.PWM_EVT, Reg.FIO_EVT], a ≠ b := by
      rintro b hb rfl
      have : ∀ b ∈ [Reg.FBK_EVT, Reg.PWM_EVT, Reg.FIO_EVT], 0x40020000 ≤ b := by decide
      have := this a hb
      rcases h with h | h <;> omega
    have h1 : ¬ (0x40074000 ≤ a ∧ a < 0x4007D000 ∧ a % 0x40 = 0) := by rcases h with h | h <;> omega
    have h2 : ¬ (0x400E0140 ≤ a ∧ a < 0x400E01C0 ∧ a % 0x10 = 4) := by rcases h with h | h <;> omega
    rw [State.standing, if_neg (n _ (by simp)), if_neg h1, if_neg (n _ (by simp)), if_neg e, if_neg (n _ (by simp)), if_neg h2]
    simp [e, mkBit]

/-- A write to SYS or TB that has no effect of its own is plain (R211, R359). -/
theorem State.blockWrite_plain {a : Nat}
    (h : a / 65536 = 0x4000 ∧ a ≠ Reg.SYS_CTRL
      ∨ a / 65536 = 0x4001 ∧ a ∉ [Reg.TB_SNAP, Reg.TB_CTRL, Reg.TB_OFS_FRAC, Reg.TB_SRV_CFG, Reg.TB_PPS_CFG, Reg.TB_ETH_TXQPOP 0,
          Reg.TB_ETH_TXQPOP 1]) (m : Nat) (r : RegRow) (v : Word) : s.blockWrite m a r v = s.putPlain a r v := by
  rcases h with ⟨h, hn⟩ | ⟨h, hn⟩
  · simp only [State.blockWrite, h]
    exact if_neg hn
  · simp only [List.mem_cons, List.not_mem_nil, or_false, not_or] at hn
    obtain ⟨h1, h2, h3, h4, h5, h6, h7⟩ := hn
    simp only [State.blockWrite, h, State.tbWrite, if_neg h1, if_neg h2, if_neg h3, if_neg h4, if_neg h5, if_neg h6, if_neg h7]

/-- Settles O18: LK first, then the plain write of the register, then the delivery of its source. -/
theorem accessCodes : Obligations.AccessCodes := by
  refine ⟨fun s m a v r hi hc hr hl hp => ?_, fun s m a v r hi hc hr hm ha hl hw => ?_, fun s m a v hc hr hg => ?_⟩
  · have hb : sysOrTb a.toNat := hp.imp (fun h => h.1) (fun h => h.1)
    have ha : a.toNat / 65536 ≠ 0x4020 := by rcases hb with h | h <;> omega
    have hm : m.val = 0 ∨ r.lk &&& r.writable = 0 := hl.imp_left (congrArg Fin.val)
    have e : s.regWrite m a.toNat v = s.putPlain a.toNat r v := (State.regWrite_open hr ha hm v).trans (State.blockWrite_plain hp m r v)
    refine ⟨_, (exec_registerWrite hi hc (State.guardRefuses_elsewhere ha s m)).trans (congrArg _ e), ?_,
      s.onlyRaised_putPlain (irqSource_of_sysOrTb hb) r v⟩
    rw [State.rd_putPlain (irqSource_of_sysOrTb hb) (not_delivery_of_sysOrTb hb), State.standing_of_sysOrTb hb]
    rfl
  · exact ⟨_, (exec_registerWrite hi hc (State.guardRefuses_elsewhere ha s m)).trans
        (congrArg _ (State.regWrite_locked hr ha (fun h => hm (Fin.ext h)) hl hw v)),
      s.fld_lkDeny_mid m.isLt, s.fld_lkDeny_count m, s.onlyRegs_lkDeny m⟩
  · have e : s.regWrite m a.toNat v = s := by simp only [State.regWrite, hr]
    cases hi : s.issues m a.toNat true
    · have k : s.busWrite m a.toNat 4 v = s := by simp [State.busWrite, hi]
      exact congrArg Host.Outcome.next k
    · exact (exec_registerWrite hi hc hg).trans (congrArg _ e)

end Sys2Proof.Machine
end

section
/-! The 1 ms window of SLS and a stale acknowledgement (R231, R232, R237). -/

namespace Sys2Proof.Machine

variable {s t u : State}

/-! ## Garnet's groups -/

theorem State.OnlyNoticed.saf_eq {l : List Nat} (h : s.OnlyNoticed t l) : t.saf = s.saf := (congrArg State.saf h.rest :)

/-- A safety event changes SAF_EVTSEQ and what its notice changes (R244, R273, R328). -/
theorem State.onlyNoticed_safetyEvent (s : State) (obj detail : Nat) : s.OnlyNoticed (s.safetyEvent obj detail) [Reg.SAF_EVTSEQ] := by
  have h : s.OnlyNoticed (s.inc Reg.SAF_EVTSEQ) [Reg.SAF_EVTSEQ] := (State.OnlyNoticed.refl s _).wr (by simp) _
  unfold State.safetyEvent
  generalize s.inc Reg.SAF_EVTSEQ = t at h ⊢
  have k := State.OnlyRaised.refl t []
  dsimp only
  refine State.OnlyNoticed.capCond (State.OnlyNoticed.capEvent (h.raised (m := []) ?_ (by simp)) _ _ _) _ _
  split
  · split
    · exact k.endWait 9 _
    · exact k
  · split
    · split
      · exact (k.setCore _ _).wakeCore _
      · exact k.irqLost 17
    · exact k

theorem State.safetyEvent_saf (s : State) (obj detail : Nat) : (s.safetyEvent obj detail).saf = s.saf :=
  (s.onlyNoticed_safetyEvent obj detail).saf_eq

/-- Group k of a list of groups. -/
theorem State.safGrp_garnet (s : State) (k : Nat) : s.safGrp false k = (s.saf.g.grps[k]?).getD {} := rfl

/-- The group in STO. -/
def SafGrp.stopped (x : SafGrp) : SafGrp := if x.state = gSTO then x else { x with state := gSTO, pulse := false }

theorem SafGrp.stopped_state (x : SafGrp) : x.stopped.state = gSTO := by
  unfold SafGrp.stopped
  split
  · assumption
  · rfl

/-- Garnet's STO on group g changes that group, and the command of its STOGg, and nothing else of the safety unit (R226, R228). -/
theorem State.sto_garnet (s : State) {g : Nat} (hg : g < s.saf.g.grps.length) (cause : Nat) :
    ∃ l m, (s.sto false g cause).saf = { s.saf with g := { s.saf.g with grps := l }, stog := m } ∧ l.length = s.saf.g.grps.length
      ∧ ∀ k, (l[k]?).getD {} = if k = g then (s.safGrp false g).stopped else s.safGrp false k := by
  by_cases h : (s.safGrp false g).state = gSTO
  · refine ⟨s.saf.g.grps, s.saf.stog, by rw [State.sto, if_pos h], rfl, fun k => ?_⟩
    split
    · next e => rw [e, SafGrp.stopped, if_pos h]; rfl
    · rfl
  · refine ⟨setAt s.saf.g.grps g (s.safGrp false g).stopped, maskBit s.saf.stog g false, ?_, length_setAt _ _ _, fun k => ?_⟩
    · rw [State.sto, if_neg h, State.grpTo, if_neg (show ¬ ((s.stopCause g cause).safGrp false g).state = gSTO from h), SafGrp.stopped, if_neg h]
      exact State.safetyEvent_saf _ _ _
    · rw [getElem?_setAt]
      by_cases hk : k = g
      · simp [hk, hg]
      · simp [hk, State.safGrp_garnet]

/-! ## The window -/

/-- What the statement of the window sees of group g: Garnet's group, its SLSOK, its cross-demand. -/
def State.slsView (s : State) (g : Nat) : SafGrp × Bool × Bool := (s.safGrp false g, s.saf.slsok.testBit g, s.saf.xdem.testBit g)

/-- SLSOK of a group at the end of a window (R231). -/
def State.markSls (s : State) (g : Nat) (ok : Bool) : State := { s with saf := { s.saf with slsok := maskBit s.saf.slsok g ok } }

/-- A group that breaks its limit: Garnet's STO, cross-demand and the mark of the violation (R232). -/
def State.slsStop (s : State) (g : Nat) : State :=
  let s := s.sto false g 5
  { s with saf := { s.saf with xdem := maskBit s.saf.xdem g true, viol := maskBit s.saf.viol g true } }

/-- A group that has to keep its limit and does not. -/
def SafGrp.breaks (x : SafGrp) (bad : Bool) : Bool := x.req && !x.ramp && bad && x.on

/-- The end of a window for one group; bad: some axis of it is above its limit. -/
def State.slsJudge (bad : Bool) (g : Nat) (s : State) : State :=
  let u := s.markSls g ((s.safGrp false g).req && !bad)
  if (s.safGrp false g).breaks bad then u.slsStop g else u

theorem State.markSls_view (s : State) (g k : Nat) (ok : Bool) :
    (s.markSls g ok).slsView k = if k = g then ((s.slsView g).1, ok, (s.slsView g).2.2) else s.slsView k := by
  have e : (s.markSls g ok).slsView k = (s.safGrp false k, (maskBit s.saf.slsok g ok).testBit k, s.saf.xdem.testBit k) := rfl
  rw [e, testBit_maskBit]
  by_cases hk : k = g
  · subst hk; simp [State.slsView]
  · simp [hk, State.slsView]

theorem State.slsStop_view (s : State) {g : Nat} (hg : g < s.saf.g.grps.length) (k : Nat) :
    (s.slsStop g).slsView k = if k = g then ((s.slsView g).1.stopped, (s.slsView g).2.1, true) else s.slsView k := by
  obtain ⟨l, m, e, -, hl⟩ := s.sto_garnet hg 5
  have e' : (s.slsStop g).slsView k
      = (((s.sto false g 5).saf.g.grps[k]?).getD {}, (s.sto false g 5).saf.slsok.testBit k,
          (maskBit (s.sto false g 5).saf.xdem g true).testBit k) := rfl
  rw [e', e, hl, testBit_maskBit]
  by_cases hk : k = g
  · subst hk; simp [State.slsView]
  · simp [hk, State.slsView]

/-- The view of a group after its window. -/
def slsAfter (bad : Bool) (v : SafGrp × Bool × Bool) : SafGrp × Bool × Bool :=
  if v.1.breaks bad then (v.1.stopped, v.1.req && !bad, true) else (v.1, v.1.req && !bad, v.2.2)

theorem State.slsJudge_view (s : State) {g : Nat} (hg : g < s.saf.g.grps.length) (bad : Bool) (k : Nat) :
    (s.slsJudge bad g).slsView k = if k = g then slsAfter bad (s.slsView g) else s.slsView k := by
  have hm := s.markSls_view g
  unfold State.slsJudge slsAfter
  by_cases h : (s.safGrp false g).breaks bad = true
  · rw [if_pos h, if_pos (show (s.slsView g).1.breaks bad = true from h), State.slsStop_view (s.markSls g _) hg, hm, hm]
    by_cases hk : k = g
    · simp [hk]; rfl
    · simp [hk]
  · rw [if_neg h, if_neg (show ¬ (s.slsView g).1.breaks bad = true from h), hm]
    rfl

theorem State.sto_length (s : State) {g : Nat} (hg : g < s.saf.g.grps.length) (cause : Nat) :
    (s.sto false g cause).saf.g.grps.length = s.saf.g.grps.length := by
  obtain ⟨l, m, e, hl, -⟩ := s.sto_garnet hg cause
  rw [e]; exact hl

theorem State.slsJudge_length (s : State) {g : Nat} (hg : g < s.saf.g.grps.length) (bad : Bool) :
    (s.slsJudge bad g).saf.g.grps.length = s.saf.g.grps.length := by
  unfold State.slsJudge
  dsimp only
  split
  · exact (s.markSls g _).sto_length hg 5
  · rfl

theorem State.OnlySafety.slsJudge {l : List Nat} (h : s.OnlySafety t l) {g : Nat} (hg : g < 8) (bad : Bool) : s.OnlySafety (t.slsJudge bad g) l := by
  unfold State.slsJudge
  dsimp only
  split
  · exact ((h.saf _).sto false hg 5).saf _
  · exact h.saf _

/-- The change of axis a's accumulator over the window (R231). -/
def State.slsChange (s : State) (a : Nat) : Int := sgn 48 (wrapN 48 (s.axisRaw a - Table.get (fun _ => 0) s.saf.prevRaw a))

/-- Some axis of group g is above its limit. -/
def State.slsBad (s : State) (g : Nat) : Bool :=
  (List.range 256).any (fun a => s.axisGrp a == some g && decide (s.slsLimit a g < (s.slsChange a).natAbs))

/-- SAF_AXSPD of axis a, and its accumulator kept for the next window. -/
def State.slsSpeed (d : Nat → Int) (a : Nat) (s : State) : State :=
  let s := s.wr (Reg.SAF_AXSPD a) (wordI (sat32 (d a * 256000)))
  { s with saf := { s.saf with prevRaw := Table.set (fun _ => 0) s.saf.prevRaw a (s.axisRaw a) } }

theorem intAt_range {n a : Nat} (f : Nat → Int) (h : a < n) : intAt ((List.range n).map f) a = f a := by simp [intAt, h]

/-- The window's end: the speeds, then the groups one by one. -/
theorem slsWindow_eq (h : s.saf.g.live = true) :
    slsWindow s = (s.each (List.range 256) (State.slsSpeed s.slsChange)).each (List.range 8) (fun g => State.slsJudge (s.slsBad g) g) := by
  unfold slsWindow
  rw [if_neg (by simp [h])]
  extract_lets d bad bads s₁
  have hd : ∀ a, a < 256 → intAt d a = s.slsChange a := fun a ha => intAt_range _ ha
  have hb : ∀ g, g < 8 → (bads[g]?).getD false = s.slsBad g := fun g hg => by
    have e : bads[g]? = some (bad g) := by simp [bads, hg]
    rw [e, Option.getD_some, Bool.eq_iff_iff]
    simp only [bad, State.slsBad, List.any_eq_true, List.mem_range]
    exact exists_congr fun a => and_congr_right fun ha => by rw [hd a ha]
  have e : s₁ = s.each (List.range 256) (State.slsSpeed s.slsChange) :=
    State.each_congr _ fun a ha u => by rw [hd a (List.mem_range.1 ha)]; rfl
  clear_value s₁ bads
  rw [e]
  refine State.each_congr _ fun g hg u => ?_
  rw [hb g (List.mem_range.1 hg)]
  rfl

/-! ## The speeds -/

theorem State.rd_withSaf (s : State) (x : SafBlock) (a : Nat) : ({ s with saf := x } : State).rd a = s.rd a := rfl

theorem State.rd_slsSpeed (d : Nat → Int) (a b : Nat) (s : State) :
    (s.slsSpeed d a).rd b = if b = Reg.SAF_AXSPD a then wordI (sat32 (d a * 256000)) else s.rd b :=
  (State.rd_withSaf (s.wr (Reg.SAF_AXSPD a) _) _ b).trans (State.rd_wr _ _ _ _)

theorem State.slsSpeed_saf (d : Nat → Int) (a : Nat) (s : State) :
    (s.slsSpeed d a).saf = { s.saf with prevRaw := (s.slsSpeed d a).saf.prevRaw } := rfl

theorem axspd_inj (a b : Nat) : Reg.SAF_AXSPD b = Reg.SAF_AXSPD a ↔ b = a := by simp only [Reg.SAF_AXSPD]; omega

theorem mem_axspd {a : Nat} (h : a < 256) : Reg.SAF_AXSPD a ∈ (List.range 256).map Reg.SAF_AXSPD := List.mem_map_of_mem (List.mem_range.2 h)

/-- No register of SAF_AXSPD or SAF_NACK is one that a stop changes. -/
theorem not_safety_of_range {a : Nat} (h : (0x400F0400 ≤ a ∧ a < 0x400F0800) ∨ (0x400F00C0 ≤ a ∧ a < 0x400F00F0)) : a ∉ safetyRegs := by
  have k : ∀ b ∈ safetyRegs, ¬ ((0x400F0400 ≤ b ∧ b < 0x400F0800) ∨ (0x400F00C0 ≤ b ∧ b < 0x400F00F0)) := by decide
  exact fun ha => k a ha h

theorem State.OnlySafety.speeds (s : State) (d : Nat → Int) {l : List Nat} (hl : ∀ a, a < 256 → Reg.SAF_AXSPD a ∈ l) :
    s.OnlySafety (s.each (List.range 256) (State.slsSpeed d)) l :=
  State.each_keeps (P := fun u => s.OnlySafety u l) (.refl s l) fun a ha _ hu =>
    (hu.wr (List.mem_append_left _ (hl a (List.mem_range.1 ha))) _).saf _

/-- The speed that SAF_AXSPD shows. -/
theorem State.rd_speeds (s : State) (d : Nat → Int) {a : Nat} (h : a < 256) :
    (s.each (List.range 256) (State.slsSpeed d)).rd (Reg.SAF_AXSPD a) = wordI (sat32 (d a * 256000)) := by
  have e := State.each_view (P := fun _ => True) (view := fun u a => u.rd (Reg.SAF_AXSPD a)) (F := fun a _ => wordI (sat32 (d a * 256000)))
    (f := State.slsSpeed d) (l := List.range 256) (t := s) List.nodup_range trivial (fun _ _ _ _ => trivial)
    (fun a _ u _ b => by simp only [State.rd_slsSpeed, axspd_inj]) a
  rwa [if_pos (List.mem_range.2 h)] at e

theorem State.saf_speeds (s : State) (d : Nat → Int) : ∃ r, (s.each (List.range 256) (State.slsSpeed d)).saf = { s.saf with prevRaw := r } :=
  State.each_keeps (P := fun u => ∃ r, u.saf = { s.saf with prevRaw := r }) ⟨_, rfl⟩ fun a _ u ⟨r, hr⟩ =>
    ⟨_, (u.slsSpeed_saf d a).trans (by rw [hr])⟩

/-! ## The whole window -/

/-- What a window in a live Garnet leaves: the speeds in SAF_AXSPD, each group judged once, nothing else but what a stop changes. -/
theorem State.slsWindow_spec (hs : s.Shaped) (h : s.saf.g.live = true) {l : List Nat} (hl : ∀ a, a < 256 → Reg.SAF_AXSPD a ∈ l) :
    (∀ a, a < 256 → (slsWindow s).rd (Reg.SAF_AXSPD a) = wordI (sat32 (s.slsChange a * 256000)))
      ∧ (∀ g, g < 8 → (slsWindow s).slsView g = slsAfter (s.slsBad g) (s.slsView g))
      ∧ s.OnlySafety (slsWindow s) l := by
  rw [slsWindow_eq h]
  obtain ⟨r, hr⟩ := s.saf_speeds s.slsChange
  have hrd := fun a => s.rd_speeds s.slsChange (a := a)
  have ho := State.OnlySafety.speeds s s.slsChange hl
  generalize s.each (List.range 256) (State.slsSpeed s.slsChange) = u at hr hrd ho ⊢
  have hlen : u.saf.g.grps.length = 8 := by rw [hr]; exact hs.gGrp
  have hv : ∀ g, u.slsView g = s.slsView g := fun g => by simp only [State.slsView, State.safGrp_garnet, hr]
  refine ⟨fun a ha => ?_, fun g hg => ?_, State.each_keeps (P := fun v => s.OnlySafety v l) ho fun g hg v hv =>
    hv.slsJudge (List.mem_range.1 hg) _⟩
  · have k : u.OnlySafety (u.each (List.range 8) (fun g => State.slsJudge (s.slsBad g) g)) [] :=
      State.each_keeps (P := fun v => u.OnlySafety v []) (.refl u _) fun g hg v hv => hv.slsJudge (List.mem_range.1 hg) _
    rw [k.regs _ (by simpa using not_safety_of_range (.inl (by simp only [Reg.SAF_AXSPD]; omega))), hrd a ha]
  · have e := State.each_view (P := fun v => v.saf.g.grps.length = 8) (view := State.slsView) (F := fun g => slsAfter (s.slsBad g))
      (f := fun g => State.slsJudge (s.slsBad g) g) (l := List.range 8) List.nodup_range hlen
      (fun g hg v hv => (v.slsJudge_length (hv.symm ▸ List.mem_range.1 hg) _).trans hv)
      (fun g hg v hv k => v.slsJudge_view (hv.symm ▸ List.mem_range.1 hg) _ k) g
    rw [e, if_pos (List.mem_range.2 hg), hv]

/-! ## A stale acknowledgement -/

/-- Garnet's STO on group g with cross-demand (R237). -/
def State.crossStop (s : State) (g : Nat) : State :=
  let s := s.sto false g 2
  { s with saf := { s.saf with xdem := maskBit s.saf.xdem g true } }

/-- A cross-demanded stop stops the group in Garnet, and leaves Basalt and the safety state as they are. -/
theorem State.crossStop_saf (s : State) {g : Nat} (hg : g < s.saf.g.grps.length) :
    ((s.crossStop g).safGrp false g).state = gSTO ∧ (s.crossStop g).saf.xdem.testBit g = true ∧ (s.crossStop g).saf.state = s.saf.state
      ∧ (s.crossStop g).saf.b = s.saf.b := by
  obtain ⟨l, m, e, -, hl⟩ := s.sto_garnet hg 2
  have hs : (s.crossStop g).saf = { (s.sto false g 2).saf with xdem := maskBit (s.sto false g 2).saf.xdem g true } := rfl
  rw [State.safGrp_garnet, hs, e]
  refine ⟨?_, ?_, rfl, rfl⟩
  · rw [hl, if_pos rfl, SafGrp.stopped_state]
  · rw [testBit_maskBit, if_pos rfl]

theorem State.OnlySafety.crossStop {l : List Nat} (h : s.OnlySafety t l) {g : Nat} (hg : g < 8) : s.OnlySafety (t.crossStop g) l :=
  (h.sto false hg 2).saf _

/-- The flag of SAF_NACKn, with its notice where it is new (R237, R244). -/
def State.nackFlag (s : State) (n k g : Nat) : State :=
  if s.bit (Reg.SAF_NACK n) k then s else (s.setBit (Reg.SAF_NACK n) k true).safetyEvent g 0

/-- A node in operation that reports torque and has acknowledged none of the containers that R237 looks at. -/
theorem nodeAckStale_eq {n k : Nat} (h : s.saf.g.live = true) (hc : s.fld (Reg.TRN_NODE_STAT n k) 31 29 = 4)
    (ht : (s.node n k).nstat.testBit 4 = true) (ha : ∀ p ∈ (s.node n k).sentCnt, p.1 = (s.node n k).sack → p.2 + 8000000 < s.tb.tick) :
    nodeAckStale n k s = (s.nackFlag n k (s.nodeGrp n k)).crossStop (s.nodeGrp n k) := by
  have e : (s.node n k).sentCnt.any (fun p => p.1 == (s.node n k).sack && decide (s.tb.tick ≤ p.2 + 8000000)) = false := by
    simp only [List.any_eq_false, Bool.and_eq_true, beq_iff_eq, decide_eq_true_eq, not_and, not_le]
    exact ha
  exact if_neg (by simp [h, hc, ht, e])

/-- The flag changes SAF_NACKn beside what its notice changes, and leaves the safety unit alone. -/
theorem State.nackFlag_spec (s : State) {n k : Nat} (hk : k < 32) (hn : Reg.SAF_NACK n ∉ safetyRegs) (g : Nat) :
    (s.nackFlag n k g).saf = s.saf ∧ (s.nackFlag n k g).bit (Reg.SAF_NACK n) k = true ∧ s.OnlySafety (s.nackFlag n k g) [Reg.SAF_NACK n] := by
  unfold State.nackFlag
  split
  · next h => exact ⟨rfl, h, .refl s _⟩
  · have h₁ : s.OnlySafety (s.setBit (Reg.SAF_NACK n) k true) [Reg.SAF_NACK n] := (State.OnlySafety.refl s _).wr (by simp) _
    refine ⟨State.safetyEvent_saf _ _ _, ?_, h₁.safetyEvent _ _⟩
    have h₂ := ((State.OnlySafety.refl (s.setBit (Reg.SAF_NACK n) k true) []).safetyEvent g 0).regs _ (by simpa using hn)
    rw [State.bit, h₂, State.setBit, State.rd_wr_same, wBit_wSetBit_same _ hk]

theorem State.nodeGrp_lt (s : State) (n k : Nat) : s.nodeGrp n k < 8 := Nat.mod_lt _ (by omega)

/-- Settles O24: each group is judged once per window, and a stop of one group leaves the others alone. -/
theorem safeSpeedAndAcks : Obligations.SafeSpeedAndAcks := by
  refine ⟨fun s d hs hl hd => ?_, fun s hl => ?_, fun s n k hs hl hc ht ha => ?_⟩
  · obtain ⟨hspd, hview, honly⟩ := State.slsWindow_spec hs hl fun a ha => mem_axspd ha
    have hd : ∀ a, d a = s.slsChange a := hd
    have hgrp (g) (hg : g < 8) : (slsWindow s).safGrp false g = (slsAfter (s.slsBad g) (s.slsView g)).1 := congrArg (·.1) (hview g hg)
    have hok (g) (hg : g < 8) : (slsWindow s).saf.slsok.testBit g = (slsAfter (s.slsBad g) (s.slsView g)).2.1 := congrArg (·.2.1) (hview g hg)
    have hx (g) (hg : g < 8) : (slsWindow s).saf.xdem.testBit g = (slsAfter (s.slsBad g) (s.slsView g)).2.2 := congrArg (·.2.2) (hview g hg)
    refine ⟨_, rfl, fun a ha => (hspd a ha).trans (by rw [hd]), fun g hg hall => ?_, fun g hg hreq => ?_, fun g hg h => ?_,
      fun g a hg ha hreq hramp hon hax hlim => ?_, honly⟩
    · have hb : s.slsBad g = false := by
        simp only [State.slsBad, List.any_eq_false, List.mem_range, Bool.and_eq_true, beq_iff_eq, decide_eq_true_eq, not_and, not_lt, ← hd]
        exact hall
      rw [hok g hg, hgrp g hg, hb]
      simp [slsAfter, SafGrp.breaks, State.slsView]
    · rw [hok g hg]
      simp [slsAfter, SafGrp.breaks, State.slsView, hreq]
    · rw [hgrp g hg]
      rcases h with h | h <;> simp [slsAfter, SafGrp.breaks, State.slsView, h]
    · have hb : s.slsBad g = true := by
        simp only [State.slsBad, List.any_eq_true, List.mem_range, Bool.and_eq_true, beq_iff_eq, decide_eq_true_eq, ← hd]
        exact ⟨a, ha, hax, hlim⟩
      rw [hgrp g hg, hx g hg, hok g hg, hb]
      simp [slsAfter, SafGrp.breaks, State.slsView, hreq, hramp, hon, SafGrp.stopped_state]
  · exact congrArg Host.Outcome.next (if_pos (by simp [hl]))
  · have hn : Reg.SAF_NACK n ∉ safetyRegs := not_safety_of_range (.inr (by simp only [Reg.SAF_NACK]; omega))
    have hg := s.nodeGrp_lt n k
    obtain ⟨hsaf, hbit, honly⟩ := s.nackFlag_spec k.isLt hn (s.nodeGrp n k)
    obtain ⟨hst, hx, hstate, hb⟩ := (s.nackFlag n k (s.nodeGrp n k)).crossStop_saf (g := s.nodeGrp n k) (by rw [hsaf, hs.gGrp]; exact hg)
    have hr := ((State.OnlySafety.refl (s.nackFlag n k (s.nodeGrp n k)) []).crossStop hg).regs _ (by simpa using hn)
    exact ⟨_, congrArg Host.Outcome.next (nodeAckStale_eq hl hc ht ha), (congrArg (wBit · k) hr).trans hbit, hst, hx, hstate.trans (congrArg _ hsaf),
      hb.trans (congrArg _ hsaf), honly.crossStop hg⟩

end Sys2Proof.Machine
end

section
/-! What every state on the way of an interrupt's delivery keeps (R267, R273, R274, R319). -/

namespace Sys2Proof.Machine

variable {s t : State} {P : State → Prop}

/-- P outlasts the changes of which the delivery of interrupts is made: a core that ends a wait or takes the safety edge, its wait bit, TSU_EVT gaining
bits, and TSU_IRQLOST. -/
structure DeliveryKeeps (P : State → Prop) : Prop where
  core : ∀ (s : State) (n : Nat) (x : Core), x.pc = (s.core n).pc → P s → P (s.setCore n x)
  stat : ∀ (s : State) (n : Nat), n < 9 → P s → P (s.setBit (Reg.TSU_CORE_STAT n) 27 false)
  evt : ∀ (s : State) (m : Word), P s → P (s.orBits Reg.TSU_EVT m)
  lost : ∀ (s : State) (v : Word), P s → P (s.wr Reg.TSU_IRQLOST v)

theorem DeliveryKeeps.endWait (k : DeliveryKeeps P) (h : P s) (c : Nat) (r : Word) : P (s.endWait c r) := by
  have h₁ := k.core s c { s.core c with wait := .none, woke := none, readRes := r } rfl h
  unfold State.endWait
  dsimp only
  split
  · exact k.stat _ c ‹_› h₁
  · exact h₁

theorem DeliveryKeeps.wakeTake (k : DeliveryKeeps P) (h : P s) (c : Nat) : P (s.wakeTake c) := k.core _ _ _ rfl (k.endWait h c _)

theorem DeliveryKeeps.wakeCore (k : DeliveryKeeps P) (h : P s) (c : Nat) : P (s.wakeCore c) := by
  unfold State.wakeCore
  split
  · exact h
  · split
    · exact k.wakeTake h c
    · exact h
  · split
    · exact k.endWait h c _
    · exact h

theorem DeliveryKeeps.irqLost (k : DeliveryKeeps P) (h : P s) (n : Nat) : P (s.irqLost n) := by
  have h₁ := k.evt _ (bitW 26) (k.lost s (s.rd Reg.TSU_IRQLOST ||| bitW n) h)
  unfold State.irqLost
  dsimp only
  split
  · split
    · exact k.wakeCore (k.lost _ _ h₁) _
    · exact k.lost _ _ h₁
  · exact h₁

theorem DeliveryKeeps.irqSettle (k : DeliveryKeeps P) (h : P s) (n : Nat) : P (s.irqSettle n) := by
  unfold State.irqSettle
  split
  · split
    · exact k.wakeCore (k.lost _ _ h) _
    · exact k.irqLost h n
  · exact h

theorem DeliveryKeeps.irqSettleAll (k : DeliveryKeeps P) (h : P s) : P s.irqSettleAll :=
  State.each_keeps h fun n _ u hu => by
    split
    · exact hu
    · exact k.irqSettle hu n

theorem DeliveryKeeps.lostEdge (k : DeliveryKeeps P) (h : P s) : P s.lostEdge := by
  unfold State.lostEdge
  dsimp only
  split
  · refine k.wakeCore (k.core _ _ _ ?_ (k.lost s _ h)) _
    rfl
  · exact h

theorem DeliveryKeeps.mbxSettle (k : DeliveryKeeps P) (h : P s) : P s.mbxSettle :=
  State.each_keeps h fun c _ u hu => by
    dsimp only
    split
    · split
      · exact k.endWait hu c _
      · exact hu
    · exact k.wakeCore hu c

theorem State.ite_keeps {p : Prop} [Decidable p] {a b : State} (ha : P a) (hb : P b) : P (if p then a else b) := by
  split
  · exact ha
  · exact hb

/-- A rung channel: its doorbells, a host's vector, and the cores that wait (R315). -/
theorem DeliveryKeeps.ring (k : DeliveryKeeps P) (kh : ∀ (s : State) (x : HstBlock), P s → P { s with hst := x }) (h : P s) (n : Nat) (bits : Word)
    (hb : P (s.orBits (Reg.MBX_CH_DB n) bits)) : P (s.ring n bits) :=
  State.ite_keeps h (k.mbxSettle (State.ite_keeps (kh _ _ hb) hb))

/-! ## What delivery is known to keep -/

theorem DeliveryKeeps.onlyRaised (s : State) (l : List Nat) : DeliveryKeeps (fun t => s.OnlyRaised t l) where
  core _ n x _ h := h.setCore n x
  stat _ _ hn h := h.deliver (mem_coreStat hn) _
  evt _ _ h := h.deliver mem_tsuEvt _
  lost _ v h := h.deliver mem_lost v

theorem State.bit_setBit (s : State) (a i j : Nat) (b : Bool) (hi : i < 32) : (s.setBit a i b).bit a j = if j = i then b else s.bit a j := by
  rw [State.bit, State.setBit, State.rd_wr_same]
  split
  · next h => rw [h, wBit_wSetBit_same _ hi]
  · next h => exact wBit_wSetBit_other _ (Ne.symm h) _

theorem State.bit_wr_other (s : State) {a b : Nat} (v : Word) (h : a ≠ b) (i : Nat) : (s.wr b v).bit a i = s.bit a i := by
  rw [State.bit, State.rd_wr_other _ _ h, State.bit]

theorem State.bit_orBits (s : State) (a b i : Nat) (m : Word) (h : s.bit a i = true) : (s.orBits b m).bit a i = true := by
  by_cases e : a = b
  · subst e; rw [State.bit, State.orBits, State.rd_wr_same, wBit_or, show wBit (s.rd a) i = true from h, Bool.true_or]
  · rw [State.orBits, State.bit_wr_other _ _ e, h]

/-- A set bit that is no wait bit and not of TSU_IRQLOST stays set. -/
theorem DeliveryKeeps.bit {a i : Nat} (hl : a ≠ Reg.TSU_IRQLOST) (hc : ∀ n, n < 9 → a = Reg.TSU_CORE_STAT n → i ≠ 27) :
    DeliveryKeeps (fun t => t.bit a i = true) where
  core _ _ _ _ h := h
  stat s n hn h := by
    by_cases e : a = Reg.TSU_CORE_STAT n
    · subst e; rw [State.bit_setBit _ _ _ _ _ (by omega), if_neg (hc n hn rfl), h]
    · exact (State.bit_wr_other _ _ e _).trans h
  evt s m h := s.bit_orBits _ _ _ m h
  lost s v h := (s.bit_wr_other v hl _).trans h

theorem DeliveryKeeps.pc (c : Nat) (p : Word) : DeliveryKeeps (fun t => (t.core c).pc = p) where
  core s n x hx h := by
    by_cases e : c = n
    · subst e; rw [State.core_setCore_same, hx, h]
    · rw [State.core_setCore_other _ _ _ e, h]
  stat _ _ _ h := h
  evt _ _ h := h
  lost _ _ h := h

end Sys2Proof.Machine
end

section
/-! Interrupt routes and the power of the cores (R274, R275, R317). -/

namespace Sys2Proof.Machine

variable {s t : State}

/-! ## Routes -/

/-- Route r of source n, before anything is delivered. -/
def State.withRoute (s : State) (n r : Nat) : State := { s with tsu := { s.tsu with routes := Table.set (fun _ => 15) s.tsu.routes n r } }

theorem State.OnlyRaised.tsu_eq {l : List Nat} (h : s.OnlyRaised t l) : { t.tsu with cores := s.tsu.cores } = s.tsu := (congrArg State.tsu h.rest :)

theorem State.OnlyRaised.routes_eq {l : List Nat} (h : s.OnlyRaised t l) : t.tsu.routes = s.tsu.routes := (congrArg TsuBlock.routes h.tsu_eq :)

theorem State.OnlyRaised.jobs_eq {l : List Nat} (h : s.OnlyRaised t l) : t.tsu.jobs = s.tsu.jobs := (congrArg TsuBlock.jobs h.tsu_eq :)

/-- After its route a source is delivered anew, and nothing else happens (R274). -/
theorem onlyRaised_routeChange (s : State) (n : Nat) :
    (s.withRoute n (routeOf (s.fld (Reg.TSU_ROUTE n) 3 0))).OnlyRaised (routeChange n s) [] := by
  have h := State.OnlyRaised.refl (s.withRoute n (routeOf (s.fld (Reg.TSU_ROUTE n) 3 0))) []
  unfold routeChange
  dsimp only
  split
  · exact (DeliveryKeeps.onlyRaised _ []).lostEdge h
  · split
    · exact h.irqSettle n
    · exact h

/-- The new route is in force for its source and for no other. -/
theorem route_routeChange (s : State) (n k : Nat) :
    (routeChange n s).route k = if k = n then routeOf (s.fld (Reg.TSU_ROUTE n) 3 0) else s.route k := by
  rw [State.route, (onlyRaised_routeChange s n).routes_eq]
  exact Table.get_set _ _ _ _ _

/-! ## Power -/

/-- A write of TSU_PWR for core c (R275). -/
def State.pwrCore (v : Word) (c : Nat) (s : State) : State :=
  if wBit v c then s.setBit Reg.TSU_PWR c true
  else if !s.bit Reg.TSU_PWR c then s
  else if (s.heldJob c).isSome then s.tsuEvt 27
  else s.coreOff c

theorem State.pwrWrite_eq (s : State) (v : Word) : s.pwrWrite v = (s.each (List.range 9) (State.pwrCore v)).irqSettleAll := rfl

/-- The power of a core after the write; held: it holds a job. -/
def pwrAfter (v : Word) (held : Bool) (c : Nat) (b : Bool) : Bool := wBit v c || (b && held)

theorem coreStat_ne_pwr (c : Nat) : Reg.TSU_PWR ≠ Reg.TSU_CORE_STAT c := by simp only [Reg.TSU_PWR, Reg.TSU_CORE_STAT]; omega

theorem pwr_not_delivery : Reg.TSU_PWR ∉ deliveryRegs := by decide

theorem State.OnlyRaised.coreOff (h : s.OnlyRaised t [Reg.TSU_PWR]) {c : Nat} (hc : c < 9) : s.OnlyRaised (t.coreOff c) [Reg.TSU_PWR] :=
  ((h.wr (by simp) _).deliver (mem_coreStat hc) _).setCore c _

theorem State.OnlyRaised.pwrCore (h : s.OnlyRaised t [Reg.TSU_PWR]) (v : Word) {c : Nat} (hc : c < 9) : s.OnlyRaised (t.pwrCore v c) [Reg.TSU_PWR] := by
  unfold State.pwrCore
  split
  · exact h.wr (by simp) _
  · split
    · exact h
    · split
      · exact ((DeliveryKeeps.onlyRaised s _).irqSettle (h.deliver mem_tsuEvt _) 20)
      · exact h.coreOff hc

theorem State.bit_coreOff (s : State) {c : Nat} (hc : c < 9) (k : Nat) : (s.coreOff c).bit Reg.TSU_PWR k = if k = c then false else s.bit Reg.TSU_PWR k := by
  have e : (s.coreOff c).bit Reg.TSU_PWR k = (s.setBit Reg.TSU_PWR c false).bit Reg.TSU_PWR k := State.bit_wr_other _ _ (coreStat_ne_pwr c) k
  rw [e, State.bit_setBit _ _ _ _ _ (by omega)]

theorem State.bit_tsuEvt_pwr (s : State) (i k : Nat) : (s.tsuEvt i).bit Reg.TSU_PWR k = s.bit Reg.TSU_PWR k :=
  congrArg (wBit · k) (s.rd_raise_other 20 Reg.TSU_EVT (bitW i) (by decide) pwr_not_delivery)

/-- One core of the write: its own power bit alone changes. -/
theorem State.bit_pwrCore (s : State) (v : Word) {c : Nat} (hc : c < 9) (k : Nat) :
    (s.pwrCore v c).bit Reg.TSU_PWR k = if k = c then pwrAfter v (s.heldJob c).isSome c (s.bit Reg.TSU_PWR c) else s.bit Reg.TSU_PWR k := by
  unfold State.pwrCore pwrAfter
  by_cases hv : wBit v c = true
  · rw [if_pos hv, State.bit_setBit _ _ _ _ _ (by omega), hv, Bool.true_or]
  · have hv : wBit v c = false := by simpa using hv
    by_cases hb : s.bit Reg.TSU_PWR c = true
    · cases hj : (s.heldJob c).isSome
      · simp [hv, hb, s.bit_coreOff hc]
      · simp only [hv, hb, Bool.false_eq_true, if_false, Bool.not_true, if_true, s.bit_tsuEvt_pwr, Bool.false_or, Bool.and_self]
        split
        · next e => rw [e, hb]
        · rfl
    · have hb : s.bit Reg.TSU_PWR c = false := by simpa using hb
      simp only [hv, hb, Bool.false_eq_true, if_false, Bool.not_false, if_true, Bool.false_or, Bool.false_and]
      split
      · next e => rw [e, hb]
      · rfl

theorem State.OnlyRaised.heldJob_eq {l : List Nat} (h : s.OnlyRaised t l) (c : Nat) : t.heldJob c = s.heldJob c := by
  rw [State.heldJob, h.jobs_eq]; rfl

theorem State.onlyRaised_pwrCores (s : State) (v : Word) : s.OnlyRaised (s.each (List.range 9) (State.pwrCore v)) [Reg.TSU_PWR] :=
  State.each_keeps (P := fun u => s.OnlyRaised u [Reg.TSU_PWR]) (.refl s _) fun _ hc _ hu => hu.pwrCore v (List.mem_range.1 hc)

theorem State.onlyRaised_pwrWrite (s : State) (v : Word) : s.OnlyRaised (s.pwrWrite v) [Reg.TSU_PWR] :=
  s.pwrWrite_eq v ▸ (DeliveryKeeps.onlyRaised s _).irqSettleAll (s.onlyRaised_pwrCores v)

/-- The power of every core after a write of TSU_PWR (R275). -/
theorem State.bit_pwrWrite (s : State) (v : Word) {c : Nat} (hc : c < 9) :
    (s.pwrWrite v).bit Reg.TSU_PWR c = pwrAfter v (s.heldJob c).isSome c (s.bit Reg.TSU_PWR c) := by
  have e := State.each_view (P := fun u => s.OnlyRaised u [Reg.TSU_PWR]) (view := fun u => u.bit Reg.TSU_PWR)
    (F := fun c => pwrAfter v (s.heldJob c).isSome c) (f := State.pwrCore v) (l := List.range 9) List.nodup_range (.refl s _)
    (fun _ hc _ hu => hu.pwrCore v (List.mem_range.1 hc))
    (fun c hc u hu k => by rw [u.bit_pwrCore v (List.mem_range.1 hc), hu.heldJob_eq]) c
  have k := ((DeliveryKeeps.onlyRaised _ []).irqSettleAll (.refl (s.each (List.range 9) (State.pwrCore v)) [])).regs Reg.TSU_PWR
    (by simpa using pwr_not_delivery)
  rw [if_pos (List.mem_range.2 hc)] at e
  rw [s.pwrWrite_eq]
  exact (congrArg (wBit · c) k).trans e

theorem DeliveryKeeps.tsuEvtBit (i : Nat) : DeliveryKeeps (fun t => t.bit Reg.TSU_EVT i = true) :=
  .bit (by decide) fun n _ e => absurd e (by simp only [Reg.TSU_EVT, Reg.TSU_CORE_STAT]; omega)

/-- A raised bit of TSU_EVT is set. -/
theorem State.bit_tsuEvt (s : State) {i : Nat} (hi : i < 32) : (s.tsuEvt i).bit Reg.TSU_EVT i = true := by
  refine (DeliveryKeeps.tsuEvtBit i).irqSettle (?_ : (s.orBits Reg.TSU_EVT (bitW i)).bit Reg.TSU_EVT i = true) 20
  rw [State.bit, State.orBits, State.rd_wr_same, wBit_or, wBit_bitW]
  simp [hi]

theorem State.evt_pwrCore (v : Word) (c i : Nat) (s : State) (h : s.bit Reg.TSU_EVT i = true) : (s.pwrCore v c).bit Reg.TSU_EVT i = true := by
  have k := DeliveryKeeps.tsuEvtBit i
  have hp : ∀ b, (s.setBit Reg.TSU_PWR c b).bit Reg.TSU_EVT i = true := fun b => (s.bit_wr_other _ (by decide) i).trans h
  unfold State.pwrCore
  split
  · exact hp true
  · split
    · exact h
    · split
      · exact k.irqSettle (k.evt s _ h) 20
      · exact (State.bit_wr_other _ _ (by simp only [Reg.TSU_EVT, Reg.TSU_CORE_STAT]; omega) i).trans (hp false)

/-- A powered core that holds its job raises TSU_EVT.PWRREF instead of going off (R275). -/
theorem State.evt_pwrWrite (s : State) {v : Word} {c : Nat} (hc : c < 9) (hv : wBit v c = false) (hj : (s.heldJob c).isSome = true)
    (hb : s.bit Reg.TSU_PWR c = true) : (s.pwrWrite v).bit Reg.TSU_EVT 27 = true := by
  rw [s.pwrWrite_eq]
  refine (DeliveryKeeps.tsuEvtBit 27).irqSettleAll ?_
  refine State.each_reaches (P := fun u => s.OnlyRaised u [Reg.TSU_PWR] ∧ u.bit Reg.TSU_PWR c = true)
    (Q := fun u => u.bit Reg.TSU_EVT 27 = true) (x := c) (fun u hu => ?_) (List.mem_range.2 hc) ⟨.refl s _, hb⟩ (fun y hy u hu => ?_)
    (fun y _ u hu => u.evt_pwrCore v y 27 hu)
  · obtain ⟨ho, hb⟩ := hu
    have e : u.pwrCore v c = u.tsuEvt 27 :=
      (if_neg (by simp [hv])).trans ((if_neg (by simp [hb])).trans (if_pos (by rw [ho.heldJob_eq, hj])))
    exact (congrArg (State.bit · Reg.TSU_EVT 27) e).trans (u.bit_tsuEvt (by omega))
  · obtain ⟨ho, hb⟩ := hu
    refine ⟨ho.pwrCore v (List.mem_range.1 hy), (u.bit_pwrCore v (List.mem_range.1 hy) c).trans ?_⟩
    split
    · next e => rw [← e, hb, ho.heldJob_eq, hj, pwrAfter, Bool.and_self, Bool.or_true]
    · exact hb

/-! ## A core becomes ready -/

/-- The registers that the start of a core may change. -/
def startRegs : List Nat := deliveryRegs ++ (List.range 64).map Reg.MBX_CH_DB

/-- What holds all through the start of core c at p: it runs from there, and only its mailboxes' doorbells and the delivery of interrupts differ from s. -/
structure State.Starting (s : State) (c : Nat) (p : Word) (t : State) : Prop where
  ready : t.bit (Reg.TSU_CORE_STAT c) 28 = true
  pc : (t.core c).pc = p
  regs : s.RegsBut t startRegs
  memory : s.SameMemory t
  jobs : t.tsu.jobs = s.tsu.jobs

theorem mem_startRegs_delivery {a : Nat} (h : a ∈ deliveryRegs) : a ∈ startRegs := List.mem_append_left _ h

theorem mem_startRegs_bell {n : Nat} (h : n < 64) : Reg.MBX_CH_DB n ∈ startRegs := List.mem_append_right _ (List.mem_map_of_mem (List.mem_range.2 h))

/-- A register write among startRegs that keeps the ready bit. -/
theorem State.Starting.wr {c : Nat} {p : Word} (h : s.Starting c p t) {a : Nat} (ha : a ∈ startRegs) (v : Word)
    (hr : (t.wr a v).bit (Reg.TSU_CORE_STAT c) 28 = true) : s.Starting c p (t.wr a v) :=
  ⟨hr, h.pc, h.regs.wr ha v, ⟨h.memory.hall, h.memory.pv, h.memory.dram⟩, h.jobs⟩

theorem State.Starting.delivery (s : State) (c : Nat) (p : Word) : DeliveryKeeps (s.Starting c p) := by
  have kb : DeliveryKeeps (fun t => t.bit (Reg.TSU_CORE_STAT c) 28 = true) :=
    .bit (by simp only [Reg.TSU_IRQLOST, Reg.TSU_CORE_STAT]; omega) fun _ _ _ => by omega
  have kp := DeliveryKeeps.pc c p
  exact {
    core := fun t n x hx h => ⟨h.ready, kp.core t n x hx h.pc, h.regs, ⟨h.memory.hall, h.memory.pv, h.memory.dram⟩, h.jobs⟩
    stat := fun t n hn h => h.wr (mem_startRegs_delivery (mem_coreStat hn)) _ (kb.stat t n hn h.ready)
    evt := fun t m h => h.wr (mem_startRegs_delivery mem_tsuEvt) _ (kb.evt t m h.ready)
    lost := fun t v h => h.wr (mem_startRegs_delivery mem_lost) v (kb.lost t v h.ready) }

theorem State.Starting.withHst {c : Nat} {p : Word} (h : s.Starting c p t) (x : HstBlock) : s.Starting c p { t with hst := x } :=
  ⟨h.ready, h.pc, h.regs, ⟨h.memory.hall, h.memory.pv, h.memory.dram⟩, h.jobs⟩

theorem bell_ne_coreStat {n c : Nat} (h : c < 9) : Reg.TSU_CORE_STAT c ≠ Reg.MBX_CH_DB n := by simp only [Reg.TSU_CORE_STAT, Reg.MBX_CH_DB]; omega

theorem State.Starting.ring {c : Nat} {p : Word} (h : s.Starting c p t) (hc : c < 9) {n : Nat} (hn : n < 64) (bits : Word) :
    s.Starting c p (t.ring n bits) :=
  (State.Starting.delivery s c p).ring (fun _ x h => h.withHst x) h n bits
    (h.wr (mem_startRegs_bell hn) _ ((t.bit_wr_other _ (bell_ne_coreStat hc) 28).trans h.ready))

theorem not_startRegs_bind (n : Nat) (hn : n < 64) : Reg.MBX_CH_BIND n ∉ startRegs := by
  have k : ∀ b ∈ startRegs, b < 0x400A0000 ∨ b % 0x20 = 4 := by decide
  intro h
  have := k _ h
  simp only [Reg.MBX_CH_BIND] at this
  omega

/-- The bindings stay all through the start. -/
theorem State.Starting.sides {c : Nat} {p : Word} (h : s.Starting c p t) {n : Nat} (hn : n < 64) (m : Nat) :
    t.sends n m = s.sends n m ∧ t.receives n m = s.receives n m := by
  have e := h.regs _ (not_startRegs_bind n hn)
  simp only [State.sends, State.receives, State.bit, State.fld, e, and_self]

/-! ### Reset bits of the mailboxes -/

/-- The reset bits that channel n shows for a reset of MID m (R317). -/
def State.resetBits (s : State) (m n : Nat) : Word := mkBit 31 (s.sends n m) ||| mkBit 30 (s.receives n m)

theorem State.masterReset_eq (s : State) (m : Nat) : s.masterReset m = s.each (List.range 64) (fun n u => u.ring n (u.resetBits m n)) := rfl

theorem DeliveryKeeps.bell (n i : Nat) : DeliveryKeeps (fun t => t.bit (Reg.MBX_CH_DB n) i = true) :=
  .bit (by simp only [Reg.MBX_CH_DB, Reg.TSU_IRQLOST]; omega) fun _ hk e => absurd e.symm (bell_ne_coreStat hk)

/-- A doorbell that is set stays set while others are rung. -/
theorem State.bell_ring {n i : Nat} (h : t.bit (Reg.MBX_CH_DB n) i = true) (k : Nat) (bits : Word) :
    (t.ring k bits).bit (Reg.MBX_CH_DB n) i = true :=
  (DeliveryKeeps.bell n i).ring (fun _ _ h => h) h k bits (t.bit_orBits _ _ i bits h)

/-- A rung doorbell is set. -/
theorem State.bell_rung (t : State) (n : Nat) {i : Nat} {bits : Word} (h : wBit bits i = true) : (t.ring n bits).bit (Reg.MBX_CH_DB n) i = true := by
  have k := DeliveryKeeps.bell n i
  have hb : (t.orBits (Reg.MBX_CH_DB n) bits).bit (Reg.MBX_CH_DB n) i = true := by
    rw [State.bit, State.orBits, State.rd_wr_same, wBit_or, h, Bool.or_true]
  have hn : bits ≠ 0 := by rintro rfl; simp [wBit] at h
  unfold State.ring State.chanChange
  rw [if_neg hn]
  exact k.mbxSettle (State.ite_keeps (P := fun u => u.bit (Reg.MBX_CH_DB n) i = true) hb hb)

theorem State.Starting.masterReset {c : Nat} {p : Word} (h : s.Starting c p t) (hc : c < 9) (m : Nat) : s.Starting c p (t.masterReset m) :=
  t.masterReset_eq m ▸ State.each_keeps h fun _ hn _ hu => hu.ring hc (List.mem_range.1 hn) _

/-- Each channel that the reset MID takes part in shows it. -/
theorem State.Starting.bell_masterReset {c : Nat} {p : Word} (h : s.Starting c p t) (hc : c < 9) (m : Nat) {n i : Nat} (hn : n < 64)
    (hi : wBit (s.resetBits m n) i = true) : (t.masterReset m).bit (Reg.MBX_CH_DB n) i = true :=
  t.masterReset_eq m ▸ State.each_reaches (P := s.Starting c p) (Q := fun u => u.bit (Reg.MBX_CH_DB n) i = true) (x := n)
    (fun u hu => by
      obtain ⟨hs, hr⟩ := hu.sides hn m
      have e : u.resetBits m n = s.resetBits m n := by rw [State.resetBits, State.resetBits, hs, hr]
      exact u.bell_rung n ((congrArg (wBit · i) e).trans hi))
    (List.mem_range.2 hn) h (fun _ hk _ hu => hu.ring hc (List.mem_range.1 hk) _) (fun k _ _ hu => State.bell_ring hu k _)

theorem State.wBit_resetBits_send {m n : Nat} (h : s.sends n m = true) : wBit (s.resetBits m n) 31 = true := by
  rw [State.resetBits, wBit_or, wBit_mkBit, h]; rfl

theorem State.wBit_resetBits_receive {m n : Nat} (h : s.receives n m = true) : wBit (s.resetBits m n) 30 = true := by
  rw [State.resetBits, wBit_or, wBit_mkBit, wBit_mkBit, h, Bool.or_eq_true]; exact .inr rfl

/-- The core's ready bit and its program counter, before anyone is told. -/
def State.readied (s : State) (c : Nat) : State := (s.setBit (Reg.TSU_CORE_STAT c) 28 true).setCore c { s.core c with pc := (s.core c).entry }

theorem State.starting_readied (s : State) {c : Nat} (hc : c < 9) : s.Starting c (s.core c).entry (s.readied c) where
  ready := (State.bit_setBit s _ 28 28 true (by omega)).trans (if_pos rfl)
  pc := by rw [State.readied, State.core_setCore_same]
  regs := (State.RegsBut.refl s _).wr (mem_startRegs_delivery (mem_coreStat hc)) _
  memory := ⟨rfl, rfl, rfl⟩
  jobs := rfl

/-- A powered core that is neither ready, nor a loaded spare, nor held off by MINIMAL starts (R275, R355, R402). -/
theorem corePowerUp_eq {c : Nat} (hp : s.bit Reg.TSU_PWR c = true) (hr : s.bit (Reg.TSU_CORE_STAT c) 28 = false) (hs : (s.core c).state ≠ 1)
    (hm : s.mode ≠ mMINIMAL) : corePowerUp c s = ((s.readied c).masterReset (c + 1)).lostEdge := if_neg (by simp [hp, hr, hs, hm])

/-- Settles O36: each route and each power bit is one view of a loop; the delivery that follows keeps what was set. -/
theorem routesAndPower : Obligations.RoutesAndPower := by
  refine ⟨fun s n => ?_, fun s v => ?_, fun s m v hm hmay => ?_, fun s c hp hr hs hmin => ?_⟩
  · have h := onlyRaised_routeChange s n
    refine ⟨_, rfl, (route_routeChange s n n).trans (if_pos rfl), fun k hk => (route_routeChange s n k).trans (if_neg hk), ?_⟩
    rw [h.routes_eq]
    exact h
  · have hb := fun c hc => s.bit_pwrWrite v (c := c) hc
    have ho := s.onlyRaised_pwrWrite v
    refine ⟨_, congrArg Host.Outcome.next (State.lkAccess_root s _ _), fun c hc hv => ?_, fun c hc hv hj => ?_, fun c hc hv hj => ?_,
      fun c hc hv hj hon => ?_, ho.jobs_eq, ho⟩
    · rw [hb c hc, pwrAfter, hv, Bool.true_or]
    · rw [hb c hc, pwrAfter, hv, hj]; simp
    · rw [hb c hc, pwrAfter, hv, Option.isSome_iff_ne_none.2 hj]; simp
    · exact s.evt_pwrWrite hc hv (Option.isSome_iff_ne_none.2 hj) hon
  · exact ⟨_, congrArg Host.Outcome.next (State.lkAccess_other (fun h => hm (Fin.ext h)) hmay _), s.fld_lkDeny_mid m.isLt, s.onlyRegs_lkDeny m⟩
  · have h₀ := s.starting_readied c.isLt
    have h := (State.Starting.delivery s c (s.core c).entry).lostEdge (h₀.masterReset c.isLt (c + 1))
    refine ⟨_, congrArg Host.Outcome.next (corePowerUp_eq hp hr hs hmin), h.ready, h.pc, fun n hn hsend => ?_, fun n hn hrec => ?_, h.regs, h.memory,
      h.jobs⟩
    · exact (DeliveryKeeps.bell n 31).lostEdge (h₀.bell_masterReset c.isLt _ hn (State.wBit_resetBits_send hsend))
    · exact (DeliveryKeeps.bell n 30).lostEdge (h₀.bell_masterReset c.isLt _ hn (State.wBit_resetBits_receive hrec))

end Sys2Proof.Machine
end

section
/-! Retiring lanes and clearing the least slacks (R76, R78, R81 to R83). -/

namespace Sys2Proof.Machine

variable {s t : State}

/-! ## Lanes -/

theorem State.OnlyStored.law_eq {p : Nat} (h : s.OnlyStored t p) : t.law = s.law := (congrArg State.law h.rest :)
theorem State.OnlyStored.hall_eq {p : Nat} (h : s.OnlyStored t p) : t.hall = s.hall := (congrArg State.hall h.rest :)
theorem State.OnlyRaised.law_eq {l : List Nat} (h : s.OnlyRaised t l) : t.law = s.law := (congrArg State.law h.rest :)
theorem State.OnlyRaised.hall_eq {l : List Nat} (h : s.OnlyRaised t l) : t.hall = s.hall := (congrArg State.hall h.rest :)

theorem State.lane_congr (h : t.law = s.law) (n : Nat) : t.lane n = s.lane n := by rw [State.lane, h, State.lane]

theorem State.lane_setLane (s : State) (n k : Nat) (x : Lane) : (s.setLane n x).lane k = if k = n then x else s.lane k := Table.get_set _ _ _ _ _

/-- A lane in a new state (R56). -/
def State.restated (s : State) (n st cause : Nat) : Lane := { s.lane n with state := st, cause := cause, cycLo := s.cycLo }

/-- A lane's change of state changes that lane, beside its stored copy (R56, R81). -/
theorem State.onlyStored_laneState (s : State) (n st cause : Nat) :
    (s.setLane n (s.restated n st cause)).OnlyStored (s.laneState n st cause) (8 + n) :=
  (State.OnlyStored.refl _ (8 + n)).pregKeep _

theorem State.lane_laneState (s : State) (n st cause k : Nat) :
    (s.laneState n st cause).lane k = if k = n then s.restated n st cause else s.lane k := by
  rw [State.lane_congr (s.onlyStored_laneState n st cause).law_eq, State.lane_setLane]

theorem State.onlyRaised_galEvt (s : State) (i : Nat) : s.OnlyRaised (s.galEvt i) [Reg.GAL_EVT] := (State.OnlyRaised.refl s _).raise (by simp) 0 _

/-- GAL_EVT after one of its events. -/
theorem State.rd_galEvt (s : State) (i : Nat) : (s.galEvt i).rd Reg.GAL_EVT = s.rd Reg.GAL_EVT ||| bitW i :=
  s.rd_raise_same 0 Reg.GAL_EVT _ (by decide)

theorem State.bit_galEvt_same (s : State) {i : Nat} (hi : i < 32) : (s.galEvt i).bit Reg.GAL_EVT i = true := by
  rw [State.bit, State.rd_galEvt, wBit_or, wBit_bitW]; simp [hi]

theorem State.bit_galEvt_kept (s : State) (i : Nat) {j : Nat} (h : s.bit Reg.GAL_EVT j = true) : (s.galEvt i).bit Reg.GAL_EVT j = true := by
  rw [State.bit, State.rd_galEvt, wBit_or, show wBit (s.rd Reg.GAL_EVT) j = true from h, Bool.true_or]

theorem State.OnlyStored.galEvt_eq {p : Nat} (h : s.OnlyStored t p) (i : Nat) : t.bit Reg.GAL_EVT i = s.bit Reg.GAL_EVT i :=
  congrArg (wBit · i) (h.regs Reg.GAL_EVT (by decide))

/-- The lane in its mark, with its event, before NOSPARE is judged. -/
def State.laneMarked (s : State) (n cause : Nat) : State :=
  let s := s.laneState n 2 cause
  (s.setLane n { s.lane n with markTrend := (s.lane n).trend }).galEvt 25

/-- The record of a mark that finds no spare (R82, R406). -/
def State.noSpare (s : State) (n cause : Nat) : State := (s.galEvt 30).record ⟨1, cause, true, false, n, 0xFFFF, wrapN 16 (s.lane n).markTrend⟩

theorem State.markLane_eq (s : State) (n cause : Nat) :
    s.markLane n cause = (if (s.laneMarked n cause).spareLane = none then ((s.laneMarked n cause).noSpare n cause) else s.laneMarked n cause) := by
  have e : s.markLane n cause = (match (s.laneMarked n cause).spareLane with
    | some _ => s.laneMarked n cause
    | none => (s.laneMarked n cause).noSpare n cause) := rfl
  rw [e]
  cases (s.laneMarked n cause).spareLane <;> rfl

/-- A marked lane keeps its job; the other lanes and the Hall stay. -/
theorem State.lane_laneMarked (s : State) (n cause k : Nat) :
    (s.laneMarked n cause).lane k = if k = n then { s.restated n 2 cause with markTrend := (s.lane n).trend } else s.lane k := by
  rw [State.laneMarked, State.lane_congr (State.onlyRaised_galEvt _ 25).law_eq, State.lane_setLane]
  split
  · rw [s.lane_laneState, if_pos rfl]; rfl
  · next h => rw [s.lane_laneState, if_neg h]

theorem State.hall_laneMarked (s : State) (n cause : Nat) : (s.laneMarked n cause).hall = s.hall :=
  (State.onlyRaised_galEvt _ 25).hall_eq.trans (s.onlyStored_laneState n 2 cause).hall_eq

theorem State.noSpare_law (s : State) (n cause : Nat) : (s.noSpare n cause).law = s.law ∧ (s.noSpare n cause).hall = s.hall := by
  have h := (State.OnlyStored.refl (s.galEvt 30) 64).record ⟨1, cause, true, false, n, 0xFFFF, wrapN 16 (s.lane n).markTrend⟩
  have k := s.onlyRaised_galEvt 30
  exact ⟨h.law_eq.trans k.law_eq, h.hall_eq.trans k.hall_eq⟩

theorem State.bit_noSpare (s : State) (n cause i : Nat) : (s.noSpare n cause).bit Reg.GAL_EVT i = (s.galEvt 30).bit Reg.GAL_EVT i :=
  ((State.OnlyStored.refl (s.galEvt 30) 64).record _).galEvt_eq i

/-- A mark: the lane, its job and its neighbours, its event, and NOSPARE where no lane is spare (R79, R82, R83). -/
theorem State.markLane_spec (s : State) (n cause : Nat) :
    (∀ k, (s.markLane n cause).lane k = (s.laneMarked n cause).lane k) ∧ (s.markLane n cause).hall = s.hall
      ∧ (s.markLane n cause).bit Reg.GAL_EVT 25 = true
      ∧ ((∀ k, k < 18 → (s.lane k).state ≠ 1) → (s.markLane n cause).bit Reg.GAL_EVT 30 = true) := by
  have h25 : (s.laneMarked n cause).bit Reg.GAL_EVT 25 = true := State.bit_galEvt_same _ (by omega)
  rw [s.markLane_eq]
  split
  · obtain ⟨hl, hh⟩ := (s.laneMarked n cause).noSpare_law n cause
    refine ⟨State.lane_congr hl, hh.trans (s.hall_laneMarked n cause), ?_, fun _ => ?_⟩
    · rw [State.bit_noSpare]; exact State.bit_galEvt_kept _ 30 h25
    · rw [State.bit_noSpare]; exact State.bit_galEvt_same _ (by omega)
  · next h =>
    refine ⟨fun _ => rfl, s.hall_laneMarked n cause, h25, fun hs => absurd ((lowest_eq_none _ _).2 fun k hk => ?_) h⟩
    rw [s.lane_laneMarked]
    split
    · rfl
    · simpa using hs k hk

/-! ## GAL_CTRL -/

/-- The row of GAL_CTRL: LANE and RETIRE are LK, MINCLR is not (R7, R84). -/
theorem regRow_galCtrl : regRow? Reg.GAL_CTRL = some ⟨0x40050000, [], 0x1F, 0x1F, 0x0, 0xC0000000, 0x0, 0x0, 0x8000001F, 0x0⟩ := by decide

/-- What LK leaves of a write of GAL_CTRL by another MID: MINCLR, beside LANE as it stands. -/
def State.openCtrl (s : State) (v : Word) : Word := (v &&& ~~~ word 0x8000001F) ||| (s.rd Reg.GAL_CTRL &&& word 0x1F)

theorem State.galCtrlBy_root (s : State) (v : Word) : s.galCtrlBy 0 v = s.galCtrl v := by
  rw [State.galCtrlBy, State.regWrite_open regRow_galCtrl (by decide) (.inl rfl)]
  rfl

/-- A write of GAL_CTRL by another MID; one that asks for a retirement is counted (R6, R7, R83). -/
theorem State.galCtrlBy_other (s : State) {m : Nat} (hm : m ≠ 0) (v : Word) :
    ∃ u, (u = s ∨ u = s.lkDeny m) ∧ (wBit v 31 = true → u = s.lkDeny m) ∧ s.galCtrlBy m v = u.galCtrl (s.openCtrl v) := by
  have e : s.galCtrlBy m v = (if decide (v &&& word 0x80000000 ≠ 0 ∨ (v ^^^ s.rd Reg.GAL_CTRL) &&& word 0x1F ≠ 0) then s.lkDeny m else s).galCtrl
      (s.openCtrl v) := by
    rw [State.galCtrlBy, State.regWrite, regRow_galCtrl]
    dsimp only
    rw [if_neg (by decide), State.lkFilter, if_neg (by simp [hm, RegRow.writable]), if_neg (by simp [RegRow.writable])]
    rfl
  refine ⟨_, ?_, fun h => if_pos (decide_eq_true (.inl fun hz => ?_)), e⟩
  · split
    · exact .inr rfl
    · exact .inl rfl
  · have h31 : wBit (v &&& word 0x80000000) 31 = true := by rw [wBit_and, h]; decide
    rw [hz] at h31
    exact absurd h31 (by decide)

theorem State.wBit_openCtrl (s : State) (v : Word) : wBit (s.openCtrl v) 31 = false ∧ wBit (s.openCtrl v) 30 = wBit v 30 := by
  constructor
  · rw [State.openCtrl, wBit_or, wBit_and, wBit_and, wBit_not _ (by omega), show wBit (word 0x8000001F) 31 = true by decide,
      show wBit (word 0x1F) 31 = false by decide]
    simp
  · rw [State.openCtrl, wBit_or, wBit_and, wBit_and, wBit_not _ (by omega), show wBit (word 0x8000001F) 30 = false by decide,
      show wBit (word 0x1F) 30 = false by decide]
    simp

theorem lane_mask : ∀ i, i < 5 → wBit (word 0x8000001F) i = true ∧ wBit (word 0x1F) i = true := by decide

theorem State.lane_openCtrl (s : State) (v : Word) : wFld (s.openCtrl v) 4 0 = s.fld Reg.GAL_CTRL 4 0 := by
  apply Nat.eq_of_testBit_eq
  intro i
  rw [State.fld, testBit_wFld, testBit_wFld]
  by_cases h : i < 5
  · obtain ⟨h1, h2⟩ := lane_mask i h
    have e : wBit (s.openCtrl v) (0 + i) = wBit (s.rd Reg.GAL_CTRL) (0 + i) := by
      rw [Nat.zero_add, State.openCtrl, wBit_or, wBit_and, wBit_and, wBit_not _ (by omega), h1, h2]
      simp
    rw [← wBit_eq, e, wBit_eq]
  · simp [h]

/-! ## RETIRE (R83) -/

/-- GAL_CTRL with RETIRE alone. -/
theorem State.galCtrl_retire (s : State) {v : Word} (h31 : wBit v 31 = true) (h30 : wBit v 30 = false) :
    s.galCtrl v = (s.setFld Reg.GAL_CTRL 4 0 (wFld v 4 0)).retireLane (wFld v 4 0) := by
  rw [State.galCtrl, h31, h30]
  rfl

theorem exec_galRetire_root {v : Word} (h31 : wBit v 31 = true) (h30 : wBit v 30 = false) :
    exec (.galRetire 0 v) s = .next ((s.setFld Reg.GAL_CTRL 4 0 (wFld v 4 0)).retireLane (wFld v 4 0)) :=
  congrArg Host.Outcome.next ((State.regAccess_of_may (s.may_root _ true) _).trans ((s.galCtrlBy_root v).trans (s.galCtrl_retire h31 h30)))

/-- Another MID's RETIRE is counted and retires no lane. -/
theorem State.galCtrlBy_denied {m : Nat} (hm : m ≠ 0) {v : Word} (h31 : wBit v 31 = true) (h30 : wBit v 30 = false) :
    s.galCtrlBy m v = (s.lkDeny m).setFld Reg.GAL_CTRL 4 0 ((s.lkDeny m).fld Reg.GAL_CTRL 4 0) := by
  obtain ⟨u, -, hu, e⟩ := s.galCtrlBy_other hm v
  obtain ⟨w31, w30⟩ := s.wBit_openCtrl v
  have hf : (s.lkDeny m).fld Reg.GAL_CTRL 4 0 = s.fld Reg.GAL_CTRL 4 0 := congrArg (wFld · 4 0) ((s.onlyRegs_lkDeny m).regs _ (by decide))
  rw [e, hu h31, State.galCtrl, w31, w30, h30, s.lane_openCtrl, hf]
  rfl

/-! ## MINCLR (R78) -/

theorem State.galCtrlBy_minclr (s : State) (m : Nat) {v : Word} (h31 : wBit v 31 = false) (h30 : wBit v 30 = true) :
    ∃ u n, s.OnlyRegs u [Reg.GAL_CTRL, Reg.SYS_LK_DENY] ∧ s.galCtrlBy m v = (u.setFld Reg.GAL_CTRL 4 0 n).minClr := by
  by_cases hm : m = 0
  · refine ⟨s, wFld v 4 0, .refl s _, ?_⟩
    rw [hm, s.galCtrlBy_root, State.galCtrl, h31, h30]
    rfl
  · obtain ⟨u, hu, -, e⟩ := s.galCtrlBy_other hm v
    obtain ⟨w31, w30⟩ := s.wBit_openCtrl v
    refine ⟨u, wFld (s.openCtrl v) 4 0, ?_, ?_⟩
    · rcases hu with rfl | rfl
      · exact .refl _ _
      · exact (s.onlyRegs_lkDeny m).mono (by simp)
    · rw [e, State.galCtrl, w31, w30, h30]
      rfl

theorem lslk_inj (n k : Nat) : Reg.GAL_LSLK k = Reg.GAL_LSLK n ↔ k = n := by simp only [Reg.GAL_LSLK]; omega

theorem mem_lslk {n : Nat} (h : n < 18) : Reg.GAL_LSLK n ∈ (List.range 18).map Reg.GAL_LSLK := List.mem_map_of_mem (List.mem_range.2 h)

/-- The least slack of a lane set to its highest value. -/
def State.clearSlack (n : Nat) (s : State) : State := s.setFld (Reg.GAL_LSLK n) 15 0 0x7FFF

theorem State.rd_clearSlack (s : State) (n k : Nat) :
    (s.clearSlack n).rd (Reg.GAL_LSLK k) = if k = n then wSetFld (s.rd (Reg.GAL_LSLK n)) 15 0 0x7FFF else s.rd (Reg.GAL_LSLK k) := by
  rw [State.clearSlack, State.setFld, State.rd_wr]
  exact if_congr (lslk_inj n k) rfl rfl

theorem State.minClr_eq (s : State) : s.minClr = (s.each (List.range 18) State.clearSlack).setFld Reg.GAL_STAT 4 0 0 := rfl

theorem lslk_ne_stat (n : Nat) : Reg.GAL_LSLK n ≠ Reg.GAL_STAT := by simp only [Reg.GAL_LSLK, Reg.GAL_STAT]; omega
theorem lslk_ne_ctrl (n : Nat) : Reg.GAL_LSLK n ≠ Reg.GAL_CTRL := by simp only [Reg.GAL_LSLK, Reg.GAL_CTRL]; omega
theorem lslk_ne_deny (n : Nat) : Reg.GAL_LSLK n ≠ Reg.SYS_LK_DENY := by simp only [Reg.GAL_LSLK, Reg.SYS_LK_DENY]; omega

/-- MINCLR sets every lane's least slack. -/
theorem State.rd_minClr (s : State) {n : Nat} (hn : n < 18) : s.minClr.rd (Reg.GAL_LSLK n) = wSetFld (s.rd (Reg.GAL_LSLK n)) 15 0 0x7FFF := by
  rw [s.minClr_eq, State.setFld, State.rd_wr_other _ _ (lslk_ne_stat n),
    State.each_view (P := fun _ => True) (view := fun u k => u.rd (Reg.GAL_LSLK k)) (F := fun _ w => wSetFld w 15 0 0x7FFF)
      List.nodup_range trivial (fun _ _ _ _ => trivial) (fun i _ u _ k => u.rd_clearSlack i k) n, if_pos (List.mem_range.2 hn)]

theorem State.OnlyRegs.minClr {l : List Nat} (h : s.OnlyRegs t l) (hs : Reg.GAL_STAT ∈ l) (hl : ∀ n, n < 18 → Reg.GAL_LSLK n ∈ l) :
    s.OnlyRegs t.minClr l := by
  rw [t.minClr_eq]
  exact (State.each_keeps (P := fun u => s.OnlyRegs u l) h fun n hn u hu => hu.wr (hl n (List.mem_range.1 hn)) _).wr hs _

/-- MINCLR sets the least slacks and the peak, and keeps each lane's last slack (R78). -/
theorem State.galMinclr_spec (s : State) (m : Nat) {v : Word} (h31 : wBit v 31 = false) (h30 : wBit v 30 = true) :
    (∀ n, n < 18 → (s.galCtrlBy m v).fld (Reg.GAL_LSLK n) 15 0 = 0x7FFF ∧ (s.galCtrlBy m v).fld (Reg.GAL_LSLK n) 31 16 = s.fld (Reg.GAL_LSLK n) 31 16)
      ∧ (s.galCtrlBy m v).fld Reg.GAL_STAT 4 0 = 0
      ∧ s.OnlyRegs (s.galCtrlBy m v) (Reg.GAL_CTRL :: Reg.GAL_STAT :: Reg.SYS_LK_DENY :: (List.range 18).map Reg.GAL_LSLK) := by
  obtain ⟨u, k, hu, e⟩ := s.galCtrlBy_minclr m h31 h30
  rw [e]
  refine ⟨fun n hn => ?_, ?_, ?_⟩
  · have hr : (u.setFld Reg.GAL_CTRL 4 0 k).rd (Reg.GAL_LSLK n) = s.rd (Reg.GAL_LSLK n) :=
      (State.rd_wr_other _ _ (lslk_ne_ctrl n)).trans (hu.regs _ (by simp [lslk_ne_ctrl, lslk_ne_deny]))
    rw [State.fld, State.fld, State.rd_minClr _ hn, hr, wFld_wSetFld_same _ (by omega) (by omega), wFld_wSetFld_other _ (by omega) (by omega)]
    exact ⟨rfl, rfl⟩
  · rw [State.minClr_eq, State.fld, State.setFld, State.rd_wr_same, wFld_wSetFld_same _ (by omega) (by omega), Nat.zero_mod]
  · have hu : s.OnlyRegs u (Reg.GAL_CTRL :: Reg.GAL_STAT :: Reg.SYS_LK_DENY :: (List.range 18).map Reg.GAL_LSLK) := hu.mono (by simp)
    exact (hu.wr (by simp) _).minClr (by simp) fun n hn => by simp only [List.mem_cons, mem_lslk hn, or_true]

end Sys2Proof.Machine
end

section
/-! The checks of the law programs and of the lane plan (R76, R77). -/

namespace Sys2Proof.Machine

variable {s t : State}

/-! ## The failures of a program check -/

/-- A word or a body that is no program's fails with code 1, 2 or 4. -/
theorem progWalk_code {word : Nat → Word} {e : ProgErr} : ∀ {f i : Nat} {b : Option (Nat × Nat)}, progWalk word f i b = .inr e → 1 ≤ e.2 ∧ e.2 ≤ 4
  | 0, i, b, h => by cases h; simp
  | f + 1, i, none, h => by
    unfold progWalk at h
    dsimp only at h
    split at h
    · cases h; simp
    · split at h
      · exact progWalk_code h
      · split at h
        · cases h
        · exact progWalk_code h
  | f + 1, i, some (r, last), h => by
    unfold progWalk at h
    dsimp only at h
    split at h
    · cases h; simp
    · split at h
      · cases h; simp
      · split at h
        · split at h <;> (cases h; simp)
        · exact progWalk_code h

/-- Every code that a check can answer with lies from 5 to 10. -/
def StepCode {α : Type} (x : Nat ⊕ α) : Prop := ∀ c, x = .inl c → 5 ≤ c ∧ c ≤ 10

theorem StepCode.fails {α : Type} {c : Nat} (h : 5 ≤ c ∧ c ≤ 10) : StepCode (.inl c : Nat ⊕ α) := fun _ e => Sum.inl.inj e ▸ h
theorem StepCode.passes {α : Type} {a : α} : StepCode (.inr a : Nat ⊕ α) := fun _ e => nomatch e
theorem StepCode.ite {α : Type} {p : Prop} [Decidable p] {x y : Nat ⊕ α} (hx : StepCode x) (hy : StepCode y) : StepCode (if p then x else y) := by
  split
  · exact hx
  · exact hy

/-- A step of the unrolled program fails with a code of 5 to 10: a MAC with 5 or 9, a store or LIM with 6, 7, 8 or 10. -/
theorem progStep_code (w : Word) (r : Nat) (p : ProgSeen) : StepCode (progStep w r p) := by
  have fail (c : Nat) (h : 5 ≤ c ∧ c ≤ 10) : StepCode (.inl c : Nat ⊕ ProgSeen) := .fails h
  unfold progStep
  extract_lets
  refine .ite (.ite (fail 5 (by decide)) (.ite (fail 9 (by decide)) .passes)) (.ite ?_ .passes)
  exact .ite (fail 6 (by decide)) (.ite (fail 7 (by decide)) (.ite (fail 8 (by decide)) (.ite (.ite (fail 10 (by decide)) .passes)
    (.ite (.ite (fail 10 (by decide)) .passes) (.ite (fail 10 (by decide)) .passes)))))

theorem progRun_code {word : Nat → Word} {e : ProgErr} : ∀ {l : List (Nat × Nat)} {p : ProgSeen}, progRun word l p = .inl e → 5 ≤ e.2 ∧ e.2 ≤ 10
  | [], p, h => by cases h
  | (i, r) :: l, p, h => by
    unfold progRun at h
    split at h
    · next hc => cases h; exact progStep_code _ _ _ _ hc
    · exact progRun_code h

/-- A program that fails its check has a code that GAL_CHK_ERR can hold, and not 0. -/
theorem progCheck_code {word : Nat → Word} {e : ProgErr} (h : progCheck word = .inl e) : 1 ≤ e.2 ∧ e.2 ≤ 10 := by
  unfold progCheck at h
  split at h
  · next hw => cases h; have := progWalk_code hw; omega
  · dsimp only at h
    split at h
    · cases h; simp
    · split at h
      · next hr => cases h; have := progRun_code hr; omega
      · cases h

/-! ## The check of the programs (R76) -/

theorem progInfo_ne_err (p : Nat) : Reg.GAL_CHK_ERR ≠ Reg.GAL_PROG_INFO p := by simp only [Reg.GAL_CHK_ERR, Reg.GAL_PROG_INFO]; omega

/-- A failure's word in GAL_CHK_ERR is not 0: its low byte holds the code. -/
theorem errWord_ne_zero {w : Word} {c : Nat} (hw : wFld w 7 0 = c) (hc : 1 ≤ c) : w ≠ 0 := by
  rintro rfl
  rw [show wFld (0 : Word) 7 0 = 0 by decide] at hw
  omega

/-- The GAL_CHK_ERR of a program that fails (R76). -/
def progErrWord (p w c : Nat) : Word := mkFld 31 28 p ||| mkFld 22 16 w ||| mkFld 7 0 c

theorem progErrWord_ne_zero {p w c : Nat} (h1 : 1 ≤ c) (h2 : c ≤ 10) : progErrWord p w c ≠ 0 := by
  refine errWord_ne_zero (c := c) ?_ h1
  rw [progErrWord, wFld_or, wFld_or, wFld_mkFld_other (by omega) (by omega), wFld_mkFld_other (by omega) (by omega),
    wFld_mkFld_same (by omega) (by omega), Nat.zero_or, Nat.zero_or, Nat.mod_eq_of_lt (by omega)]

/-- The GAL_CHK_ERR of an axis without a checked program (R76). -/
def axisErrWord (p a : Nat) : Word := mkFld 31 28 p ||| mkFld 15 8 a ||| 0x0B

theorem axisErrWord_ne_zero (p a : Nat) : axisErrWord p a ≠ 0 := by
  refine errWord_ne_zero (c := 11) ?_ (by omega)
  rw [axisErrWord, wFld_or, wFld_or, wFld_mkFld_other (by omega) (by omega), wFld_mkFld_other (by omega) (by omega)]
  decide

/-- An enabled axis without a checked program for its outputs (R76). -/
def State.axisUnchecked (s : State) (a : Nat) : Bool :=
  s.bit (Reg.LAW_CFG a) 31 &&
    (let i := s.rd (Reg.GAL_PROG_INFO (s.progOf a))
     !wBit i 31 || wFld i 25 24 % 2 ^ s.fld (Reg.LAW_CFG a) 16 15 != 2 ^ s.fld (Reg.LAW_CFG a) 16 15 - 1)

theorem State.checked_of_axis {a : Nat} (h : s.axisUnchecked a = false) (hon : s.bit (Reg.LAW_CFG a) 31 = true) :
    s.bit (Reg.GAL_PROG_INFO (s.progOf a)) 31 = true := by
  unfold State.axisUnchecked at h
  rw [hon, Bool.true_and] at h
  have hi := (Bool.or_eq_false_iff.1 h).1
  simpa [State.bit] using hi

theorem State.progChecks_nil (s : State) : s.progChecks [] = match lowest 256 s.axisUnchecked with
    | some a => (s.wr Reg.GAL_CHK_ERR (axisErrWord (s.progOf a) a), false)
    | none => (s, true) := rfl

theorem State.progChecks_cons (s : State) (p : Nat) (l : List Nat) : s.progChecks (p :: l) =
    if s.progEmpty p then s.progChecks l
    else match progCheck (s.progWord p) with
      | .inl (w, c) => (s.wr Reg.GAL_CHK_ERR (progErrWord p w c), false)
      | .inr i => (s.wr (Reg.GAL_PROG_INFO p) i).progChecks l := rfl

/-- What the program check has done to s when it ends in t with answer b: its registers alone, GAL_CHK_ERR 0 exactly when it passed, and then every
enabled axis has a checked program. -/
structure State.Checked (s : State) (l : List Nat) (t : State) (b : Bool) : Prop where
  only : s.OnlyRegs t l
  err : b = decide (t.rd Reg.GAL_CHK_ERR = 0)
  axes : b = true → ∀ a, a < 256 → t.bit (Reg.LAW_CFG a) 31 = true → t.bit (Reg.GAL_PROG_INFO (t.progOf a)) 31 = true

theorem State.OnlyRegs.fails {l : List Nat} (h : s.OnlyRegs t l) (he : Reg.GAL_CHK_ERR ∈ l) {w : Word} (hw : w ≠ 0) :
    s.Checked l (t.wr Reg.GAL_CHK_ERR w) false :=
  ⟨h.wr he w, by rw [State.rd_wr_same, decide_eq_false hw], fun hb => nomatch hb⟩

theorem State.checked_progChecks {l : List Nat} (he : Reg.GAL_CHK_ERR ∈ l) : ∀ {ps : List Nat} {t : State}, s.OnlyRegs t l → t.rd Reg.GAL_CHK_ERR = 0 →
    (∀ p ∈ ps, Reg.GAL_PROG_INFO p ∈ l) → s.Checked l (t.progChecks ps).1 (t.progChecks ps).2
  | [], t, h, h0, _ => by
    rw [t.progChecks_nil]
    split
    · exact h.fails he (axisErrWord_ne_zero _ _)
    · next hn =>
      exact ⟨h, by simp [h0], fun _ a ha hon => State.checked_of_axis ((lowest_eq_none _ _).1 hn a ha) hon⟩
  | p :: ps, t, h, h0, hl => by
    have hps : ∀ q ∈ ps, Reg.GAL_PROG_INFO q ∈ l := fun q hq => hl q (by simp [hq])
    rw [t.progChecks_cons]
    split
    · exact State.checked_progChecks he h h0 hps
    · split
      · next hc =>
        obtain ⟨h1, h2⟩ := progCheck_code hc
        exact h.fails he (progErrWord_ne_zero h1 h2)
      · exact State.checked_progChecks he (h.wr (hl p (by simp)) _) ((State.rd_wr_other _ _ (progInfo_ne_err p)).trans h0) hps

/-- The registers of the program check (R76). -/
def progRegs : List Nat := Reg.GAL_CHK_ERR :: (List.range 16).map Reg.GAL_PROG_INFO

theorem mem_progInfo {p : Nat} (h : p ∈ List.range 16) : Reg.GAL_PROG_INFO p ∈ progRegs := List.mem_cons_of_mem _ (List.mem_map_of_mem h)

theorem State.checked_checkPrograms (s : State) : s.Checked progRegs s.checkPrograms.1 s.checkPrograms.2 := by
  have he : Reg.GAL_CHK_ERR ∈ progRegs := List.mem_cons_self
  have hc : s.OnlyRegs (s.each (List.range 16) fun p u => u.wr (Reg.GAL_PROG_INFO p) 0) progRegs :=
    State.each_keeps (P := fun u => s.OnlyRegs u progRegs) (.refl s _) fun p hp u hu => hu.wr (mem_progInfo hp) 0
  exact State.checked_progChecks he (hc.wr he 0) (State.rd_wr_same _ _ _) fun p hp => mem_progInfo hp

/-! ## The check of the plan (R77) -/

/-- The word of GAL_PLAN: OK, DONE, the cycle and the number of jobs at the peak, and its tick (R77). -/
def planWord (ok : Bool) (x y z : Nat) : Word := mkBit 31 ok ||| bitW 30 ||| mkFld 28 26 x ||| mkFld 25 17 y ||| mkFld 16 0 z

theorem wBit_planWord (ok : Bool) (x y z : Nat) : wBit (planWord ok x y z) 31 = ok := by
  rw [planWord, wBit_or, wBit_or, wBit_or, wBit_or, wBit_mkFld_above (by omega) (by omega), wBit_mkFld_above (by omega) (by omega),
    wBit_mkFld_above (by omega) (by omega), wBit_mkBit, wBit_bitW]
  simp

/-- The plan check writes its two registers. -/
theorem State.checkPlan_eq (s : State) :
    ∃ x y z e, s.checkPlan = ((s.wr Reg.GAL_PLAN (planWord s.checkPlan.2 x y z)).wr Reg.GAL_PLAN_ERR e, s.checkPlan.2) := ⟨_, _, _, _, rfl⟩

/-- GAL_PLAN bit 31 shows the plan check's answer. -/
theorem State.checkPlan_spec (s : State) :
    s.OnlyRegs s.checkPlan.1 [Reg.GAL_PLAN, Reg.GAL_PLAN_ERR] ∧ s.checkPlan.1.bit Reg.GAL_PLAN 31 = s.checkPlan.2 := by
  obtain ⟨x, y, z, e, he⟩ := s.checkPlan_eq
  have h1 : s.checkPlan.1 = (s.wr Reg.GAL_PLAN (planWord s.checkPlan.2 x y z)).wr Reg.GAL_PLAN_ERR e := congrArg Prod.fst he
  refine ⟨h1 ▸ ((State.OnlyRegs.refl s _).wr (by simp) _).wr (by simp) _, ?_⟩
  rw [h1, State.bit, State.rd_wr_other _ _ (by decide), State.rd_wr_same, wBit_planWord]

/-! ## The end of the checks -/

/-- The registers of the checks beside GAL_CHK. -/
def checkRegs : List Nat := Reg.GAL_CHK_ERR :: Reg.GAL_PLAN :: Reg.GAL_PLAN_ERR :: (List.range 16).map Reg.GAL_PROG_INFO

/-- GAL_CHK after the checks: DONE, and PASS as they say. -/
def chkWord (pass : Bool) : Word := bitW 29 ||| mkBit 28 pass

theorem chkWord_spec (pass : Bool) : wFld (chkWord pass) 31 29 = 1 ∧ wBit (chkWord pass) 28 = pass := by cases pass <;> decide

theorem galChkDone_eq (h : s.bit Reg.GAL_CHK 30 = true) : galChkDone s
    = s.checkPrograms.1.checkPlan.1.wr Reg.GAL_CHK (chkWord (s.checkPrograms.2 && s.checkPrograms.1.checkPlan.2)) := by
  simp only [galChkDone, h, chkWord, Bool.not_true, Bool.false_eq_true, if_false]

theorem progInfo_not_plan (p : Nat) : Reg.GAL_PROG_INFO p ∉ [Reg.GAL_PLAN, Reg.GAL_PLAN_ERR] := by
  have h1 : Reg.GAL_PROG_INFO p ≠ Reg.GAL_PLAN := by simp only [Reg.GAL_PROG_INFO, Reg.GAL_PLAN]; omega
  have h2 : Reg.GAL_PROG_INFO p ≠ Reg.GAL_PLAN_ERR := by simp only [Reg.GAL_PROG_INFO, Reg.GAL_PLAN_ERR]; omega
  simp [h1, h2]

theorem lawCfg_not_progRegs {a : Nat} : Reg.LAW_CFG a ∉ progRegs := by
  simp only [progRegs, Reg.LAW_CFG, Reg.GAL_CHK_ERR, List.mem_cons, List.mem_map, List.mem_range, Reg.GAL_PROG_INFO]
  rintro (h | ⟨p, hp, h⟩) <;> omega

/-- The plan check after the program check: PASS exactly when neither failed, and then every enabled axis has a checked program (R76, R77). -/
theorem State.Checked.plan {u : State} {b ok : Bool} (h : s.Checked progRegs t b) (hp : t.OnlyRegs u [Reg.GAL_PLAN, Reg.GAL_PLAN_ERR])
    (hok : u.bit Reg.GAL_PLAN 31 = ok) :
    s.OnlyRegs u checkRegs ∧ (b && ok) = (decide (u.rd Reg.GAL_CHK_ERR = 0) && u.bit Reg.GAL_PLAN 31)
      ∧ ((b && ok) = true → ∀ a, a < 256 → s.bit (Reg.LAW_CFG a) 31 = true → u.bit (Reg.GAL_PROG_INFO (s.progOf a)) 31 = true) := by
  have hcfg (a : Nat) : t.rd (Reg.LAW_CFG a) = s.rd (Reg.LAW_CFG a) := h.only.regs _ lawCfg_not_progRegs
  refine ⟨(h.only.mono ?_).trans (hp.mono ?_), ?_, fun hb a ha hon => ?_⟩
  · simp only [progRegs, checkRegs, List.mem_cons]
    tauto
  · simp only [checkRegs, List.mem_cons, List.not_mem_nil]
    tauto
  · rw [hp.regs _ (by decide), hok, h.err]
  · have he : t.progOf a = s.progOf a := congrArg (wFld · 27 24) (hcfg a)
    have h1 : t.bit (Reg.GAL_PROG_INFO (s.progOf a)) 31 = true :=
      he ▸ h.axes (Bool.and_eq_true_iff.1 hb).1 a ha ((congrArg (wBit · 31) (hcfg a)).trans hon)
    exact (congrArg (wBit · 31) (hp.regs _ (progInfo_not_plan _))).trans h1

end Sys2Proof.Machine
end

section
/-! The end of the checks, and the retirement of lanes (R76, R77, R83). -/

namespace Sys2Proof.Machine

variable {s t : State}

theorem progInfo_ne_chk (p : Nat) : Reg.GAL_PROG_INFO p ∉ [Reg.GAL_CHK] := by
  simp only [Reg.GAL_PROG_INFO, Reg.GAL_CHK, List.mem_singleton]
  omega

/-- A busy check ends: GAL_CHK shows DONE, and PASS as the registers of the two checks say (R76, R77). -/
theorem galChkDone_spec (h : s.bit Reg.GAL_CHK 30 = true) :
    (galChkDone s).fld Reg.GAL_CHK 31 29 = 1
      ∧ (galChkDone s).bit Reg.GAL_CHK 28 = (decide ((galChkDone s).rd Reg.GAL_CHK_ERR = 0) && (galChkDone s).bit Reg.GAL_PLAN 31)
      ∧ ((galChkDone s).bit Reg.GAL_CHK 28 = true → ∀ a, a < 256 → s.bit (Reg.LAW_CFG a) 31 = true →
          (galChkDone s).bit (Reg.GAL_PROG_INFO (s.progOf a)) 31 = true)
      ∧ s.OnlyRegs (galChkDone s) (Reg.GAL_CHK :: checkRegs) := by
  obtain ⟨hp, hok⟩ := s.checkPrograms.1.checkPlan_spec
  obtain ⟨only, pass, axes⟩ := s.checked_checkPrograms.plan hp hok
  rw [galChkDone_eq h]
  generalize s.checkPrograms.1.checkPlan.1 = u at only pass axes ⊢
  generalize (s.checkPrograms.2 && s.checkPrograms.1.checkPlan.2) = b at pass axes ⊢
  obtain ⟨h29, h28⟩ := chkWord_spec b
  have hchk : (u.wr Reg.GAL_CHK (chkWord b)).rd Reg.GAL_CHK = chkWord b := u.rd_wr_same _ _
  have hw : u.OnlyRegs (u.wr Reg.GAL_CHK (chkWord b)) [Reg.GAL_CHK] := (State.OnlyRegs.refl u _).wr (by simp) _
  have hb : (u.wr Reg.GAL_CHK (chkWord b)).bit Reg.GAL_CHK 28 = b := (congrArg (wBit · 28) hchk).trans h28
  refine ⟨(congrArg (wFld · 31 29) hchk).trans h29, ?_, fun hp a ha hon => ?_, (only.mono fun _ => List.mem_cons_of_mem _).wr List.mem_cons_self _⟩
  · rw [hb, hw.regs Reg.GAL_CHK_ERR (by decide), hw.bit_eq (a := Reg.GAL_PLAN) (by decide)]
    exact pass
  · rw [hw.bit_eq (progInfo_ne_chk _)]
    exact axes (hb ▸ hp) a ha hon

/-! ## A lane retires -/

/-- RETIRE of an active lane marks it: its job and the other lanes stay (R83). -/
theorem State.retireLane_active {n : Nat} (hn : n < 18) (h : (s.lane n).state = 0) :
    ((s.retireLane n).lane n).state = 2 ∧ ((s.retireLane n).lane n).cause = 2 ∧ ((s.retireLane n).lane n).job = (s.lane n).job
      ∧ (s.retireLane n).bit Reg.GAL_EVT 25 = true ∧ ((∀ k, k < 18 → (s.lane k).state ≠ 1) → (s.retireLane n).bit Reg.GAL_EVT 30 = true)
      ∧ (∀ k, k ≠ n → (s.retireLane n).lane k = s.lane k) ∧ (s.retireLane n).hall = s.hall := by
  have e : s.retireLane n = s.markLane n 2 := by rw [State.retireLane, if_neg (by omega), if_pos h]
  obtain ⟨lanes, hall, marked, noSpare⟩ := s.markLane_spec n 2
  have self : (s.markLane n 2).lane n = { s.restated n 2 2 with markTrend := (s.lane n).trend } := by
    rw [lanes, s.lane_laneMarked, if_pos rfl]
  rw [e, self]
  exact ⟨rfl, rfl, rfl, marked, noSpare, fun k hk => by rw [lanes, s.lane_laneMarked, if_neg hk], hall⟩

/-- RETIRE of a spare lane retires it (R83). -/
theorem State.retireLane_spare {n : Nat} (hn : n < 18) (h : (s.lane n).state = 1) :
    ((s.retireLane n).lane n).state = 3 ∧ (∀ k, k ≠ n → (s.retireLane n).lane k = s.lane k) ∧ (s.retireLane n).hall = s.hall := by
  have e : s.retireLane n = s.laneState n 3 2 := by rw [State.retireLane, if_neg (by omega), if_neg (by omega), if_pos h]
  rw [e]
  refine ⟨?_, fun k hk => by rw [s.lane_laneState, if_neg hk], (s.onlyStored_laneState n 3 2).hall_eq⟩
  rw [s.lane_laneState, if_pos rfl]
  rfl

/-- RETIRE of a marked, retired or failed lane does nothing (R83). -/
theorem State.retireLane_other {n : Nat} (h : 2 ≤ (s.lane n).state) : s.retireLane n = s := by
  rw [State.retireLane, if_neg (by omega : ¬ (s.lane n).state = 0), if_neg (by omega : ¬ (s.lane n).state = 1)]
  exact ite_self s

/-- RETIRE of another MID changes SYS_LK_DENY alone. -/
theorem State.onlyRegs_retireDenied {m : Nat} (hm : m ≠ 0) {v : Word} (h31 : wBit v 31 = true) (h30 : wBit v 30 = false) :
    (s.galCtrlBy m v).rd Reg.SYS_LK_DENY = (s.lkDeny m).rd Reg.SYS_LK_DENY ∧ s.OnlyRegs (s.galCtrlBy m v) [Reg.SYS_LK_DENY] := by
  have h : s.OnlyRegs (s.lkDeny m) [Reg.GAL_CTRL, Reg.SYS_LK_DENY] := (s.onlyRegs_lkDeny m).mono (by simp)
  rw [State.galCtrlBy_denied hm h31 h30]
  refine ⟨State.rd_wr_other _ _ (by decide), State.OnlyRegs.standing (h.wr (by simp) _) ?_⟩
  rw [State.setFld, State.rd_wr_same, State.fld, wSetFld_wFld _ (by omega), (s.onlyRegs_lkDeny m).regs _ (by decide)]

/-- Settles O50: each write through its effect on lanes and registers, the checks through the failures that they can report. -/
theorem laneRetirementAndChecks : Obligations.LaneRetirementAndChecks := by
  unfold Obligations.LaneRetirementAndChecks
  refine ⟨fun s v l h31 h30 hl hlt => ?_, fun s m v hm hmay h31 h30 => ?_, fun s m v hmay h31 h30 => ?_,
    fun s m v hmay => ⟨fun h hmode => ?_, fun h => ?_⟩, fun s h => ⟨_, rfl, galChkDone_spec h⟩, fun s h => ?_⟩
  · subst hl
    refine ⟨fun h => ⟨_, exec_galRetire_root h31 h30, ?_⟩, fun h => ⟨_, exec_galRetire_root h31 h30, ?_⟩,
      fun h => ⟨_, exec_galRetire_root h31 h30, ?_⟩⟩
    · exact State.retireLane_active (s := s.setFld Reg.GAL_CTRL 4 0 (wFld v 4 0)) hlt h
    · exact State.retireLane_spare (s := s.setFld Reg.GAL_CTRL 4 0 (wFld v 4 0)) hlt h
    · rw [State.retireLane_other (s := s.setFld Reg.GAL_CTRL 4 0 (wFld v 4 0)) h]
      exact (State.OnlyRegs.refl s _).wr (by simp) _
  · obtain ⟨deny, only⟩ := s.onlyRegs_retireDenied hm h31 h30
    exact ⟨_, congrArg Host.Outcome.next (State.regAccess_of_may hmay _), (congrArg (wFld · 28 24) deny).trans (s.fld_lkDeny_mid m.isLt),
      (congrArg (wFld · 23 0) deny).trans (s.fld_lkDeny_count m), only.regs _ (by decide), only⟩
  · exact ⟨_, congrArg Host.Outcome.next (State.regAccess_of_may hmay _), s.galMinclr_spec m h31 h30⟩
  · have e : s.galChkStart v = s.setBit Reg.GAL_CHK 30 true := by simp [State.galChkStart, h, hmode]
    refine ⟨_, congrArg Host.Outcome.next ((State.regAccess_of_may hmay _).trans e), ?_, (State.OnlyRegs.refl s _).wr (by simp) _⟩
    rw [State.bit_setBit _ _ _ _ _ (by omega), if_pos rfl]
  · have e : s.galChkStart v = s := by rcases h with h | h <;> simp [State.galChkStart, h]
    exact congrArg Host.Outcome.next ((State.regAccess_of_may hmay _).trans e)
  · have e : galChkDone s = s := by rw [galChkDone, h]; rfl
    exact congrArg Host.Outcome.next e

end Sys2Proof.Machine
end

section
/-! What every command keeps: the rest of the queue, the canonical form, the fixed lengths (R17). -/

namespace Sys2Proof.Machine

variable {s t : State}

/-- The outcome is a next state, and on the way to it everything was kept. -/
def State.Leads (s : State) (o : Host.Outcome State Fault Refusal) : Prop := ∃ t, o = .next t ∧ s.Keep t

theorem State.Leads.next (h : s.Keep t) : s.Leads (.next t) := ⟨t, rfl, h⟩

theorem State.Leads.wrReg {m a : Nat} {f : State → State} (k : ∀ u, s.Keep u → s.Keep (f u)) : s.Leads (s.wrReg m a f) :=
  .next ((State.Keep.refl s).regAccess m a true f k)

theorem State.Leads.wrLk {m a : Nat} {f : State → State} (k : ∀ u, s.Keep u → s.Keep (f u)) : s.Leads (s.wrLk m a f) :=
  .next ((State.Keep.refl s).lkAccess m a f k)

theorem State.Leads.rdReg {m a : Nat} {f : State → State × Word} (k : ∀ u, s.Keep u → s.Keep (f u).1) : s.Leads (s.rdReg m a f) :=
  .next ((State.Keep.refl s).regAccess m a false _ fun u h => (k u h).readBy m _)

/-- Every command answers a next state and keeps what Keep names: one line for each command, by what its meaning keeps. -/
theorem exec_leads (s : State) (c : Instr) : s.Leads (exec c s) :=
  have r := State.Keep.refl s
  match c with
  | .cycleStart => .next (r.cycleStart ..)
  | .deferredSwap _ => .next (r.deferredSwap ..)
  | .syncSend _ => .next (r.syncSend ..)
  | .garnetContainerWrite _ _ => .next (r.garnetContainerWrite ..)
  | .frameReceive _ _ => .next (.ite (fun _ => r.standbyFrame ..) fun _ => r.frameReceive ..)
  | .feedbackMissing _ _ => .next (r.feedbackMissing ..)
  | .lawJobDispatch => .next (r.lawJobDispatch ..)
  | .nop _ => .next (r.laneNop ..)
  | .mac _ => .next (r.laneMac ..)
  | .stx _ => .next (r.laneStx ..)
  | .stu _ => .next (r.laneStu ..)
  | .lim _ => .next (r.laneLim ..)
  | .rep _ => .next (r.laneRep ..)
  | .lawJobComplete _ _ => .next (r.lawJobComplete ..)
  | .releaseInstant _ => .next (r.releaseInstant ..)
  | .lawStgArm _ _ _ => .wrReg fun _ h => h.stgCtrl ..
  | .lawStgCancel _ _ _ => .wrReg fun _ h => h.stgCtrl ..
  | .lawStgCopy _ _ _ => .wrReg fun _ h => h.stgCtrl ..
  | .lawStgCopyDone _ => .next (r.lawStgCopyDone ..)
  | .galRetire _ _ => .wrReg fun _ h => h.galCtrlBy ..
  | .galMinclr _ _ => .wrReg fun _ h => h.galCtrlBy ..
  | .galChkStart _ _ => .wrReg fun _ h => h.galChkStart ..
  | .galChkDone => .next (r.galChkDone ..)
  | .lrnZero _ _ _ => .wrReg fun _ h => h.lrnCtrl ..
  | .lrnZeroDone _ => .next (r.lrnZeroDone ..)
  | .lrnUhold _ _ _ => .wrReg fun _ h => h.lrnCtrl ..
  | .lrnIoff _ _ _ => .wrReg fun _ h => h.lrnCtrl ..
  | .quadratureCount _ _ _ _ => .next (r.quadratureCount ..)
  | .pulseCount _ _ _ => .next (r.pulseCount ..)
  | .indexEvent _ => .next (r.indexEvent ..)
  | .feedbackSample _ _ => .next (r.feedbackSample ..)
  | .serialReadStart _ _ => .next (r.serialReadStart ..)
  | .serialReadDone _ _ => .next (r.serialReadDone ..)
  | .ackTimeout _ => .next (r.ackTimeout ..)
  | .originPairWrite _ _ _ => .wrReg fun _ h => h.originPair ..
  | .limitPairWrite _ _ _ => .wrReg fun _ h => h.limitPair ..
  | .passThroughReemit _ _ _ _ => .next (r.passThroughReemit ..)
  | .emulationEdge _ => .next (r.emulationEdge ..)
  | .carrierValley _ _ _ => .next (r.carrierValley ..)
  | .carrierPeak _ => .next (r.carrierPeak ..)
  | .commandedEdge _ _ => .next (r.commandedEdge ..)
  | .deadTimeEnd _ _ => .next (r.deadTimeEnd ..)
  | .senseTransition _ _ _ _ => .next (r.senseTransition ..)
  | .senseWindowClose _ _ => .next (r.senseWindowClose ..)
  | .pwmStart _ _ => .wrReg fun _ h => h.eachGrp _ _ fun _ _ h => h.pwmStart1 ..
  | .pwmStop _ _ => .wrReg fun _ h => h.eachGrp _ _ fun _ _ h => h.pwmStop1 ..
  | .pwmLoadall _ _ => .wrReg fun _ h => h.when _ _ fun _ h => h.loadAll
  | .shadowWrite _ _ _ _ => .wrReg fun _ h => h.shadowWrite ..
  | .deadTimeWrite _ _ _ => .wrReg fun _ h => h.dtWrite ..
  | .tripActive _ => .next (r.tripActive ..)
  | .tripInactive _ => .next (r.tripInactive ..)
  | .delayLineError _ => .next (r.delayLineError ..)
  | .debugHalt => .next (r.debugHalt ..)
  | .freezeEnd => .next (r.freezeEnd ..)
  | .portSyncLost _ => .next (r.portSyncLost ..)
  | .portSignalLost _ => .next (r.portSignalLost ..)
  | .downstreamServiceSend _ => .next (r.downstreamServiceSend ..)
  | .replyWindowClose _ => .next (r.replyWindowClose ..)
  | .svcGo _ _ _ => .wrReg fun _ h => h.svcTxctl ..
  | .listenTimeout => .next (r.listenTimeout ..)
  | .pllLock => .next (r.pllLock ..)
  | .referenceLost => .next (r.referenceLost ..)
  | .referenceReturn => .next (r.referenceReturn ..)
  | .refclkReset => .next (r.refclkReset ..)
  | .snapGo _ _ => .wrReg fun _ h => h.snapGo ..
  | .tbStep _ _ => .wrReg fun _ h => h.tbCtrl ..
  | .tbAdj _ _ => .wrReg fun _ h => h.tbCtrl ..
  | .tbTvclr _ _ => .wrReg fun _ h => h.tbCtrl ..
  | .firmwareOffset _ _ => .wrReg fun _ h => h.ofsFrac ..
  | .servoMeasurement => .next (r.servoMeasurement ..)
  | .holdover => .next (r.holdover ..)
  | .ppsEdge _ _ _ => .next (r.ppsEdge ..)
  | .txqPop _ _ _ => .wrReg fun _ h => h.txqPop ..
  | .safetySample _ _ _ _ => .next (r.safetySample ..)
  | .discrepancyFault _ _ => .next (r.discrepancyFault ..)
  | .testPulse _ _ => .next (r.testPulse ..)
  | .heartbeatLost _ => .next (r.heartbeatLost ..)
  | .rootHeartbeatLost => .next (r.rootHeartbeatLost ..)
  | .lockstepMismatch => .next (r.lockstepMismatch ..)
  | .slsRampEnd _ _ => .next (r.slsRampEnd ..)
  | .slsWindow => .next (r.slsWindow ..)
  | .slsokMissing _ => .next (r.slsokMissing ..)
  | .switchPowerupRead _ _ => .next (r.switchPowerupRead ..)
  | .switchRuntimeRead _ _ => .next (r.switchRuntimeRead ..)
  | .restartDelay _ _ => .next (r.restartDelay ..)
  | .restartPulse _ => .next (r.restartPulse ..)
  | .stoConfirm _ _ => .next (r.stoConfirm ..)
  | .ss1TimerEnd _ _ => .next (r.ss1TimerEnd ..)
  | .nodeAckStale _ _ => .next (r.nodeAckStale ..)
  | .readbackMismatch _ _ => .next (r.readbackMismatch ..)
  | .releaseMismatch _ => .next (r.releaseMismatch ..)
  | .degradedLimit _ => .next (r.degradedLimit ..)
  | .fioOutputFrame _ => .next (r.fioOutputFrame ..)
  | .fioInputFrame _ _ _ _ => .next (r.fioInputFrame ..)
  | .diSample _ _ => .next (r.diSample ..)
  | .fioDoCmd _ _ => .wrReg fun _ h => h.doCmd ..
  | .fioDoSet _ _ => .wrReg fun _ h => h.doSet ..
  | .fioDoClr _ _ => .wrReg fun _ h => h.doClr ..
  | .overloadCutoff _ => .next (r.overloadCutoff ..)
  | .thermalCutoff _ => .next (r.thermalCutoff ..)
  | .outputRetry _ => .next (r.outputRetry ..)
  | .retryCountClear _ => .next (r.retryCountClear ..)
  | .fioDoUnlatch _ _ => .wrReg fun _ h => h.doUnlatch ..
  | .outputDiagnostic _ _ => .next (r.outputDiagnostic ..)
  | .readbackHigh _ _ => .next (r.readbackHigh ..)
  | .silenceTimeout => .next (r.silenceTimeout ..)
  | .fioResume _ _ => .wrReg fun _ h => h.fioCtrl ..
  | .fioReen _ _ => .wrReg fun _ h => h.fioCtrl ..
  | .vfldWarn => .next (r.vfldWarn ..)
  | .vfldSag => .next (r.vfldSag ..)
  | .vfldRecover => .next (r.vfldRecover ..)
  | .submit _ _ => .wrReg fun _ h => h.submit ..
  | .jobEligible _ => .next (r.jobEligible ..)
  | .take _ => .next (r.regAccess _ _ _ _ fun _ h => h.takeRead ..)
  | .done _ _ => .wrReg fun _ h => h.doneWrite ..
  | .jobRelease _ => .next (r.jobRelease ..)
  | .flowRelease _ => .next (r.flowRelease ..)
  | .jobTimeout _ => .next (r.jobTimeout ..)
  | .routeChange _ => .next (r.routeChange ..)
  | .tsuPwrWrite _ _ => .wrLk fun _ h => h.pwrWrite ..
  | .corePowerUp _ => .next (r.corePowerUp ..)
  | .mxMac _ _ _ _ _ => .next (r.mxIssue _ _ _ _ (r.mxMac ..))
  | .mxMac2 _ _ _ _ => .next (r.mxIssue _ _ _ _ (r.mxMac2 ..))
  | .mxMacx2 _ _ _ _ => .next (r.mxIssue _ _ _ _ (r.mxMacx2 ..))
  | .mxClr _ _ _ => .next (r.mxIssue _ _ _ _ (r.mxClr ..))
  | .mxClr2 _ _ => .next (r.mxIssue _ _ _ _ (r.mxClr2 ..))
  | .mxRd _ _ _ _ _ => .next (r.mxIssue _ _ _ _ (r.mxRd ..))
  | .mxRdw _ _ _ _ => .next (r.mxIssue _ _ _ _ (r.mxRdw ..))
  | .mxRdh _ _ _ _ => .next (r.mxIssue _ _ _ _ (r.mxRdh ..))
  | .mxWr _ _ _ _ _ => .next (r.mxIssue _ _ _ _ (r.mxWr ..))
  | .mxLoop _ _ _ _ => .next (r.mxIssue _ _ _ _ (r.mxLoop ..))
  | .mxSave _ _ _ _ => .next (r.mxIssue _ _ _ _ (r.mxSave ..))
  | .mxRestore _ _ _ _ => .next (r.mxIssue _ _ _ _ (r.mxRestore ..))
  | .windowApply _ _ _ => .wrLk fun _ h => (h.wr _ _).winApply ..
  | .hostReset _ _ => .next (r.hostReset ..)
  | .ethernetReceive _ _ _ _ => .next (r.ethernetReceive ..)
  | .ethernetTransmit _ _ => .next (r.ethernetTransmit ..)
  | .zhevuDatagram _ _ => .next (r.zhevuDatagram ..)
  | .zhevuRead _ _ _ => .next (r.zhevuRead ..)
  | .zhevuWrite _ _ _ => .next (r.zhevuWrite ..)
  | .zhevuDoorbell _ _ _ => .next (r.zhevuDoorbell ..)
  | .zhevuNotify _ => .next (r.zhevuNotify ..)
  | .imageLatch _ => .rdReg fun _ h => h.imgLatch ..
  | .imageRelease _ _ => .wrReg fun _ h => h.imgRelease ..
  | .failoverAck _ _ => .wrReg fun _ h => h.imgRelease ..
  | .commitArm _ _ => .wrReg fun _ h => h.commitWrite ..
  | .commitCancel _ _ => .wrReg fun _ h => h.commitWrite ..
  | .mbxBind _ _ _ => .wrLk fun _ h => h.bind ..
  | .doorbellSet _ _ _ => .wrReg fun _ h => h.dbSet ..
  | .doorbellClear _ _ _ => .wrReg fun _ h => h.dbClear ..
  | .descriptorPost _ _ _ => .wrReg fun _ h => h.descPost ..
  | .descriptorAck _ _ _ => .wrReg fun _ h => h.descAck ..
  | .mbxWait _ => .rdReg fun _ h => h.mbxRead ..
  | .captureArm _ _ _ => .wrReg fun _ h => h.capCtrl ..
  | .captureStop _ _ _ => .wrReg fun _ h => h.capCtrl ..
  | .captureTrig _ _ _ => .wrReg fun _ h => h.capCtrl ..
  | .captureRelease _ _ _ => .wrReg fun _ h => h.capCtrl ..
  | .eventRecord => .next (r.eventRecord ..)
  | .captureRearm _ => .next (r.captureRearm ..)
  | .dramRefresh => .next (r.dramRefresh ..)
  | .captureDramRead _ _ _ _ => .next (r.captureDramRead ..)
  | .porAssert => .next (r.porAssert ..)
  | .porRelease => .next (r.porRelease ..)
  | .resetnAssert => .next (r.resetnAssert ..)
  | .longPress => .next (r.longPress ..)
  | .vio33Low => .next (r.vio33Low ..)
  | .watchdogExpire => .next (r.watchdogExpire ..)
  | .watchdogReset => .next (r.watchdogReset ..)
  | .resetSourceRelease => .next (r.resetSourceRelease ..)
  | .resetExtensionEnd => .next (r.resetExtensionEnd ..)
  | .bootFlight1 => .next (r.bootFlight1 ..)
  | .bootFlight2 _ => .next (r.bootFlight2 ..)
  | .bootFlight3 => .next (r.bootFlight3 ..)
  | .bootFlight4 => .next (r.bootFlight4 ..)
  | .bootFlight5 _ => .next (r.bootFlight5 ..)
  | .maintenanceCheck => .next (r.maintenanceCheck ..)
  | .swrst _ _ => .wrLk fun _ h => h.sysCtrl ..
  | .mgo _ _ => .wrLk fun _ h => h.sysCtrl ..
  | .attclr _ _ => .wrLk fun _ h => h.sysCtrl ..
  | .runTimeClear => .next (r.runTimeClear ..)
  | .attClearRetry => .next (r.attClearRetry ..)
  | .updateErase _ _ => .next (r.updateErase ..)
  | .updateWrite _ _ => .next (r.updateWrite ..)
  | .updateVerify _ _ _ => .next (r.updateVerify ..)
  | .updateCopy _ _ _ => .next (r.updateCopy ..)
  | .updateFuse _ _ => .next (r.updateFuse ..)
  | .updateSetrec _ _ => .next (r.updateSetrec ..)
  | .persistentWrite _ _ _ => .next (r.persistentWrite ..)
  | .nvGuardEngage => .next (r.nvGuardEngage ..)
  | .nvGuardRelease => .next (r.nvGuardRelease ..)
  | .beaconSend _ => .next (r.beaconSend ..)
  | .partnerFrameReceive _ _ _ _ _ => .next (r.partnerFrameReceive ..)
  | .checkpointChunkSend => .next (r.checkpointChunkSend ..)
  | .refreshChunkSend => .next (r.refreshChunkSend ..)
  | .leaseLapse => .next (r.leaseLapse ..)
  | .takeover => .next (r.takeover ..)
  | .takeoverLoadDone => .next (r.takeoverLoadDone ..)
  | .pairYield _ _ => .wrLk fun _ h => h.pairCtrl ..
  | .coreMemoryError _ _ => .next (r.coreMemoryError ..)
  | .sprCretire _ _ => .wrLk fun _ h => h.sprCtrl ..
  | .sprForce _ _ => .wrLk fun _ h => h.sprCtrl ..
  | .hallAccess _ _ _ _ _ => .next (r.hallAccess ..)
  | .hallRowCopyDone => .next (r.hallRowCopyDone ..)
  | .hallMapDone => .next (r.hallMapDone ..)
  | .trendPeriodEnd => .next (r.trendPeriodEnd ..)
  | .stateWriteRetry => .next (r.stateWriteRetry ..)
  | .registerWrite _ _ _ _ => .next (r.registerWrite ..)
  | .portSyncAcquired _ => .next (r.portSyncAcquired ..)
  | .portSignalDetected _ => .next (r.portSignalDetected ..)
  | .partnerLinkUp => .next (r.partnerLinkUp ..)
  | .partnerLinkLost => .next (r.partnerLinkLost ..)
  | .ethernetLinkUp _ => .next (r.ethernetLinkUp ..)
  | .ethernetLinkDown _ => .next (r.ethernetLinkDown ..)
  | .pcieLinkUp _ _ _ => .next (r.pcieLinkUp ..)
  | .basaltSelfCheckFail => .next (r.basaltSelfCheckFail ..)
  | .stobOverload _ => .next (r.stobOverload ..)
  | .delayLineRecalibrated _ => .next (r.delayLineRecalibrated ..)
  | .spanReportSend => .next (r.spanReportSend ..)
  | .spareCoreLoaded _ => .next (r.spareCoreLoaded ..)

/-- A step runs the front command on the rest of the queue, or lets one tick pass. -/
theorem step_leads (s : State) : State.Leads { s with pending := s.pending.tail } (step s) := by
  cases h : s.pending with
  | nil =>
    have e : step s = .next s.idleTick := by rw [step, h]
    have hs : { s with pending := ([] : List Instr) } = s := by rw [← h]
    rw [e, List.tail_nil, hs]
    exact .next (State.Keep.refl s).idleTick
  | cons c rest =>
    have e : step s = exec c { s with pending := rest } := by rw [step, h]
    rw [e]
    exact exec_leads { s with pending := rest } c

/-- Settles O1: the meaning of a step with a command in front. -/
theorem stepRunsFront : Obligations.StepRunsFront := by
  intro s c rest h
  rw [step, h]

/-- Settles O5: the front command leaves the rest of the queue, and no command touches the queue. -/
theorem queueInOrder : Obligations.QueueInOrder := by
  intro s
  obtain ⟨t, ht, k⟩ := step_leads s
  exact ⟨t, ht, k.queue⟩

end Sys2Proof.Machine
end

section
/-! Tick 0 of a device cycle (R17, R29, R402): the statement about it fails in a state that no run reaches. -/

namespace Sys2Proof.Machine

variable {s : State}

/-- A running time base: the rest of the cycle passes, and the next one begins. -/
theorem cycleStart_of_running (h : s.tb.running = true) {t : State} (e : (s.ticks (s.tb.len - s.tb.ctick)).cycleEnd.nextCycle = t) :
    cycleStart s
      = (((t.axesTick0.unitsTick0.modesTick0 t.standbyDue).stopsTick0).each (List.range 256) (fun a s => s.resend a)).checkpointTake := by
  subst e
  exact if_neg (by simp [h])

/-- Where the laws do not run, no command is sent again. -/
theorem State.resend_of_idle (h : s.lawsRun = false) (a : Nat) : s.resend a = s := if_neg (by simp [h])

/-- A loop whose steps leave the state leaves it. -/
theorem State.each_fixed {α : Type} {l : List α} {f : α → State → State} (h : ∀ x ∈ l, f x s = s) : s.each l f = s :=
  State.each_keeps (P := fun u => u = s) rfl fun x hx u hu => by rw [hu, h x hx]

/-- A swap of core 14322 into spare core 8, forced and loaded. No command asks for such a swap, but the type of a swap does not bound its core, and
TSU_CORE_STAT of that number is LAW_VEL_REF of axis 0. -/
def swapBeyondCores : State :=
  { tb := { locked := true, cyc := 0xFFFFFFFF }
    spr := { swap := some ⟨14322, 0, true, true, 0⟩ }
    tsu := { cores := [(8, { state := 1 })] }
    regs := [(Reg.LAW_VEL_REF 0, bitW 28)]
    sys := { guard := true } }

/-- The rest of the cycle has passed. -/
def swapTicked : State := { swapBeyondCores with tb := { swapBeyondCores.tb with tick := 12500, ns := 31250 } }

/-- The next cycle begins, before the axes take their snapshots. -/
def swapBegun : State := { swapTicked with tb := { swapTicked.tb with cyc := 0, t0Ns := 31250 } }

/-- Axis 0 has its snapshot, with the velocity reference as it stands. -/
def swapSnapped : State := { swapBegun with law := { axes := [(0, { snap := { vel := bitW 28 } })] } }

theorem swapBeyondCores_ticks : swapBeyondCores.ticks (swapBeyondCores.tb.len - swapBeyondCores.tb.ctick) = swapTicked := by decide +kernel

theorem swapTicked_imgTick0 : swapTicked.imgTick0 0xFFFFFFFF = swapTicked := by decide +kernel

theorem swapTicked_capTick0 : swapTicked.capTick0 0xFFFFFFFF 0 = swapTicked := by
  have triggers : swapTicked.each (List.range 16) (fun k s =>
      if s.fld (Reg.CAP_S_TRIG k) 31 29 == 5 && s.rd (Reg.CAP_S_TLEV k) == 0 then s.capTrigger k else s) = swapTicked := by decide +kernel
  have records : swapTicked.each (List.range 16) (fun k s => s.capAxisRecord k 0xFFFFFFFF) = swapTicked := by decide +kernel
  exact (congrArg (fun u : State => u.each (List.range 16) fun k s => s.capAxisRecord k 0xFFFFFFFF) triggers).trans records

theorem swapTicked_rflags : swapTicked.each (List.range 256) (fun a s => s.rflagsClear a) = swapTicked := by decide +kernel

theorem swapTicked_cycleEnd : swapTicked.cycleEnd = swapTicked := by
  have e : swapTicked.cycleEnd = { swapTicked with hst := { swapTicked.hst with spareIn := false } } := by
    rw [State.cycleEnd, show swapTicked.nextCyc = 0 by decide, show swapTicked.tb.cyc = 0xFFFFFFFF from rfl, swapTicked_imgTick0, swapTicked_capTick0,
      swapTicked_rflags]
  exact e

theorem swapTicked_nextCycle : swapTicked.nextCycle = swapBegun := by decide +kernel

theorem swapBegun_snapshot : swapBegun.commitTick0.each (List.range 256) (fun a s => s.snapshot a) = swapSnapped := by decide +kernel

theorem swapSnapped_swapTick0 : swapSnapped.each (List.range 256) (fun a s => s.swapTick0 a) = swapSnapped := by decide +kernel

theorem swapSnapped_lrnTick0 : swapSnapped.each (List.range 256) (fun a s => s.lrnTick0 a) = swapSnapped := by decide +kernel

theorem swapSnapped_sources :
    swapSnapped.each (List.range 528) (fun n s => s.setSource n { s.source n with fresh := false }) = swapSnapped :=
  State.each_fixed fun _ _ => rfl

theorem swapBegun_axesTick0 : swapBegun.axesTick0 = swapSnapped := by
  rw [State.axesTick0, swapBegun_snapshot, swapSnapped_swapTick0, swapSnapped_lrnTick0, swapSnapped_sources]

/-- The units' part of tick 0 takes core 14322 out of operation: that clears the ready bit of its status, bit 28 of the velocity reference. -/
theorem swapSnapped_unitsTick0 : (swapSnapped.unitsTick0.axis 0).snap.vel = bitW 28 ∧ swapSnapped.unitsTick0.rd (Reg.LAW_VEL_REF 0) = 0 := by
  decide +kernel

theorem swapSnapped_modesTick0 : swapSnapped.unitsTick0.modesTick0 swapBegun.standbyDue = swapSnapped.unitsTick0 := by decide +kernel

theorem swapSnapped_stopsTick0 : swapSnapped.unitsTick0.stopsTick0 = swapSnapped.unitsTick0 := by decide +kernel

theorem swapSnapped_lawsRun : swapSnapped.unitsTick0.lawsRun = false := by decide +kernel

theorem swapSnapped_resend : swapSnapped.unitsTick0.each (List.range 256) (fun a s => s.resend a) = swapSnapped.unitsTick0 :=
  State.each_fixed fun a _ => State.resend_of_idle swapSnapped_lawsRun a

theorem swapSnapped_checkpointTake : swapSnapped.unitsTick0.checkpointTake = swapSnapped.unitsTick0 := by decide +kernel

/-- Tick 0 in the state of the swap: nothing follows what the units make of the snapshot. -/
theorem cycleStart_swapBeyondCores : cycleStart swapBeyondCores = swapSnapped.unitsTick0 := by
  rw [cycleStart_of_running rfl (by rw [swapBeyondCores_ticks, swapTicked_cycleEnd, swapTicked_nextCycle]), swapBegun_axesTick0,
    swapSnapped_modesTick0, swapSnapped_stopsTick0, swapSnapped_resend, swapSnapped_checkpointTake]

/-- Refutes O60: the snapshot is taken, and then a swap of a core that does not exist changes the register that it copied. -/
theorem not_cycleStart : ¬ Obligations.CycleStart := by
  intro ⟨_, h⟩
  obtain ⟨t, ht, _, _, _, hsnap, _⟩ := h swapBeyondCores rfl
  have e : t = swapSnapped.unitsTick0 := (Host.Outcome.next.inj ht).symm.trans cycleStart_swapBeyondCores
  obtain ⟨_, _, hvel, _⟩ := hsnap 0 (by decide)
  obtain ⟨held, cleared⟩ := swapSnapped_unitsTick0
  rw [e, held, cleared] at hvel
  exact absurd hvel (by decide)

end Sys2Proof.Machine
end

section
/-! The sync that begins a segment cycle, and the containers (R30, R157, R166, R190, R192). -/

namespace Sys2Proof.Machine

variable {s t u : State} {l : List Nat}

/-! ## Segments and nodes read back -/

@[simp] theorem State.seg_wr (s : State) (a : Nat) (v : Word) (n : Nat) : (s.wr a v).seg n = s.seg n := rfl
@[simp] theorem State.seg_setNode (s : State) (m k : Nat) (x : NodeCtx) (n : Nat) : (s.setNode m k x).seg n = s.seg n := rfl
@[simp] theorem State.node_wr (s : State) (a : Nat) (v : Word) (n k : Nat) : (s.wr a v).node n k = s.node n k := rfl
@[simp] theorem State.node_setSeg (s : State) (m : Nat) (x : SegCtx) (n k : Nat) : (s.setSeg m x).node n k = s.node n k := rfl
@[simp] theorem State.node_setNode_same (s : State) (n k : Nat) (x : NodeCtx) : (s.setNode n k x).node n k = x := Table.get_set_same _ _ _ _

/-- A node's context stands when that of another slot, or of a slot of another segment, changes. -/
theorem State.node_setNode_other (s : State) {n k m j : Nat} (x : NodeCtx) (hk : k < 32) (hj : j < 32) (h : (m, j) ≠ (n, k)) :
    (s.setNode n k x).node m j = s.node m j := by
  refine Table.get_set_other _ _ _ fun e => h ?_
  rw [show m = n by omega, show j = k by omega]

/-! ## Fields of a register that is written -/

/-- A field reads as the value written, modulo its width. -/
theorem State.fld_setFld_same (s : State) (a : Nat) {hi lo : Nat} (hl : lo ≤ hi) (h : hi < 32) (v : Nat) :
    (s.setFld a hi lo v).fld a hi lo = v % 2 ^ (hi + 1 - lo) := by
  rw [State.fld, State.setFld_wr, State.rd_wr_same, wFld_wSetFld_same _ hl h]

/-- A field beside the one written stands. -/
theorem State.fld_setFld_other (s : State) (a : Nat) {hi lo h2 l2 : Nat} (hl : lo ≤ hi) (hd : h2 < lo ∨ hi < l2) (v : Nat) :
    (s.setFld a hi lo v).fld a h2 l2 = s.fld a h2 l2 := by
  rw [State.fld, State.setFld_wr, State.rd_wr_same, wFld_wSetFld_other _ hl hd]
  rfl

/-! ## What Torone's operations leave alone -/

/-- t is s but for Torone's state and the registers of l. -/
structure State.OnlyTrn (s t : State) (l : List Nat) : Prop where
  rest : { t with trn := s.trn, regs := s.regs } = s
  regs : s.RegsBut t l

namespace State.OnlyTrn

theorem refl (s : State) (l : List Nat) : s.OnlyTrn s l := ⟨rfl, .refl s l⟩

theorem wr (h : s.OnlyTrn t l) {a : Nat} (ha : a ∈ l) (v : Word) : s.OnlyTrn (t.wr a v) l := ⟨h.rest, h.regs.wr ha v⟩

theorem setSeg (h : s.OnlyTrn t l) (n : Nat) (x : SegCtx) : s.OnlyTrn (t.setSeg n x) l := ⟨h.rest, h.regs⟩

theorem setNode (h : s.OnlyTrn t l) (n k : Nat) (x : NodeCtx) : s.OnlyTrn (t.setNode n k x) l := ⟨h.rest, h.regs⟩

theorem mono {k : List Nat} (h : s.OnlyTrn t l) (hk : ∀ a ∈ l, a ∈ k) : s.OnlyTrn t k := ⟨h.rest, h.regs.mono hk⟩

theorem trans (h : s.OnlyTrn t l) (k : t.OnlyTrn u l) : s.OnlyTrn u l :=
  ⟨((congrArg (fun x : State => { x with trn := s.trn, regs := s.regs }) k.rest :)).trans h.rest, h.regs.trans k.regs⟩

theorem tb_eq (h : s.OnlyTrn t l) : t.tb = s.tb := (congrArg State.tb h.rest :)

end State.OnlyTrn

/-! ## Sending a frame -/

/-- A frame that leaves on a channel of segment n counts there if the port runs. -/
def State.txCounted (s : State) (n ch : Nat) : State := if s.bit (Reg.TRN_PCFG n ch) 31 then s.inc (Reg.TRN_PTX n ch) else s

theorem State.OnlyTrn.txCounted (h : s.OnlyTrn t l) {n ch : Nat} (hc : Reg.TRN_PTX n ch ∈ l) : s.OnlyTrn (t.txCounted n ch) l :=
  State.ite_keeps (P := fun x => s.OnlyTrn x l) (h.wr hc _) h

@[simp] theorem State.trn_txCounted (s : State) (n ch : Nat) : (s.txCounted n ch).trn = s.trn := by
  unfold State.txCounted
  split <;> rfl

@[simp] theorem State.seg_txCounted (s : State) (n ch m : Nat) : (s.txCounted n ch).seg m = s.seg m := by simp [State.seg]

@[simp] theorem State.node_txCounted (s : State) (n ch m k : Nat) : (s.txCounted n ch).node m k = s.node m k := by simp [State.node]

/-- A channel's count goes up by one if its port runs; the other registers stand. -/
theorem State.rd_txCounted (s : State) (n ch a : Nat) : (s.txCounted n ch).rd a
    = if a = Reg.TRN_PTX n ch then s.rd a + (if s.bit (Reg.TRN_PCFG n ch) 31 then 1 else 0) else s.rd a := by
  unfold State.txCounted
  split
  · next hb =>
    rw [State.inc_wr, State.rd_wr]
    split
    · next e => subst e; rfl
    · rfl
  · simp

/-- A frame that leaves counts on both channels, and is the segment's last one. -/
theorem State.sendFrame_eq (s : State) (n type addr slot : Nat) (cyc : Word) (p : List Byte) :
    s.sendFrame n type addr slot cyc p = ((s.txCounted n 0).txCounted n 1).setSeg n
      { s.seg n with tx := frameBytes type addr n slot (cyc.toNat % 65536) (s.segHid n) p } := by
  have hh : ((s.txCounted n 0).txCounted n 1).segHid n = s.segHid n := by
    simp only [State.segHid, State.fld]
    rw [State.rd_txCounted, if_neg (by simp only [Reg.TRN_SCFG, Reg.TRN_PTX]; omega), State.rd_txCounted,
      if_neg (by simp only [Reg.TRN_SCFG, Reg.TRN_PTX]; omega)]
  change ((s.txCounted n 0).txCounted n 1).setSeg n { ((s.txCounted n 0).txCounted n 1).seg n with
    tx := frameBytes type addr n slot (cyc.toNat % 65536) (((s.txCounted n 0).txCounted n 1).segHid n) p } = _
  rw [hh, State.seg_txCounted, State.seg_txCounted]

@[simp] theorem State.seg_sendFrame (s : State) (n type addr slot : Nat) (cyc : Word) (p : List Byte) :
    (s.sendFrame n type addr slot cyc p).seg n
      = { s.seg n with tx := frameBytes type addr n slot (cyc.toNat % 65536) (s.segHid n) p } := by
  rw [State.sendFrame_eq, State.seg_setSeg_same]

@[simp] theorem State.node_sendFrame (s : State) (n type addr slot : Nat) (cyc : Word) (p : List Byte) (m k : Nat) :
    (s.sendFrame n type addr slot cyc p).node m k = s.node m k := by
  simp [State.sendFrame_eq]

theorem State.OnlyTrn.sendFrame (h : s.OnlyTrn t l) {n : Nat} (h0 : Reg.TRN_PTX n 0 ∈ l) (h1 : Reg.TRN_PTX n 1 ∈ l) (type addr slot : Nat) (cyc : Word)
    (p : List Byte) : s.OnlyTrn (t.sendFrame n type addr slot cyc p) l := by
  rw [State.sendFrame_eq]
  exact ((h.txCounted h0).txCounted h1).setSeg _ _

/-- A frame counts on every running port of its segment. -/
theorem State.rd_sendFrame_ptx (s : State) (n type addr slot : Nat) (cyc : Word) (p : List Byte) {ch : Nat} (hc : ch < 2) :
    (s.sendFrame n type addr slot cyc p).rd (Reg.TRN_PTX n ch)
      = s.rd (Reg.TRN_PTX n ch) + (if s.bit (Reg.TRN_PCFG n ch) 31 then 1 else 0) := by
  have hx : Reg.TRN_PTX n 0 ≠ Reg.TRN_PTX n 1 := by simp only [Reg.TRN_PTX]; omega
  have hp : Reg.TRN_PCFG n 1 ≠ Reg.TRN_PTX n 0 := by simp only [Reg.TRN_PTX, Reg.TRN_PCFG]; omega
  rw [State.sendFrame_eq, State.setSeg_rd, State.rd_txCounted]
  obtain rfl | rfl : ch = 0 ∨ ch = 1 := by omega
  · rw [if_neg hx, State.rd_txCounted, if_pos rfl]
  · rw [if_pos rfl, State.rd_txCounted, if_neg hx.symm, State.bit, State.rd_txCounted, if_neg hp]
    rfl

/-! ## The sync -/

/-- The segment cycle c begins in the state, and the containers stand for it. -/
def State.begun (s : State) (n : Nat) (c : Word) : State := (s.setSeg n { s.seg n with cyc := some c, prev := (s.seg n).cyc }).placeContainers n c

/-- A sync of a coldstart takes one from those left; with the last the segment enters RUN (R169). -/
def State.coldSync (s : State) (n : Nat) : State :=
  let k := s.fld (Reg.TRN_SSTAT n) 28 24
  if k = 0 then s
  else
    let s := s.setFld (Reg.TRN_SSTAT n) 28 24 (k - 1)
    if k = 1 then s.setFld (Reg.TRN_SSTAT n) 31 29 3 else s

/-- The sync goes out in state s, whose segment cycle c has begun. -/
def State.syncSent (s : State) (n : Nat) (c : Word) : State := (s.sendFrame n 1 63 0x3FF c (s.syncPayload n c)).coldSync n

/-- The sync of a segment that sends, in a cycle that has none yet. -/
theorem syncSend_of_due {n : Fin 12} (hs : s.segSends n = true) (hr : s.tb.running = true) (hc : (s.seg n).cyc ≠ some s.tb.cyc) :
    syncSend n s = ((((s.when (s.tb.cyc.toNat % 2 == 0) (fun s => s.takeScfg n)).grantStep n s.tb.cyc).begun n s.tb.cyc).syncSent n s.tb.cyc) :=
  if_neg (by simp [hs, hr, hc])

/-- A segment that does not send, or whose cycle has its sync, sends none. -/
theorem syncSend_of_idle {n : Fin 12} (h : s.segSends n = false ∨ s.tb.running = false ∨ (s.seg n).cyc = some s.tb.cyc) : syncSend n s = s :=
  if_pos (by rcases h with h | h | h <;> simp [h])

theorem State.OnlyTrn.coldSync (h : s.OnlyTrn t l) {n : Nat} (hl : Reg.TRN_SSTAT n ∈ l) : s.OnlyTrn (t.coldSync n) l :=
  State.ite_keeps (P := fun x => s.OnlyTrn x l) h
    (State.ite_keeps (P := fun x => s.OnlyTrn x l) ((h.wr hl _).wr hl _) (h.wr hl _))

@[simp] theorem State.trn_coldSync (s : State) (n : Nat) : (s.coldSync n).trn = s.trn := by
  unfold State.coldSync
  dsimp only
  split_ifs <;> rfl

/-- The syncs of the coldstart left, and the state of the segment, after one more sync. -/
theorem State.fld_coldSync (s : State) (n : Nat) : (s.coldSync n).fld (Reg.TRN_SSTAT n) 28 24 = s.fld (Reg.TRN_SSTAT n) 28 24 - 1
    ∧ (s.coldSync n).segState n = if s.fld (Reg.TRN_SSTAT n) 28 24 = 1 then 3 else s.segState n := by
  have hk : s.fld (Reg.TRN_SSTAT n) 28 24 < 32 := Nat.mod_lt _ (by decide)
  unfold State.coldSync State.segState
  by_cases h0 : s.fld (Reg.TRN_SSTAT n) 28 24 = 0
  · simp [h0]
  by_cases h1 : s.fld (Reg.TRN_SSTAT n) 28 24 = 1
  · simp [h1, State.fld_setFld_same, State.fld_setFld_other]
  · simp only [h0, h1, if_false]
    rw [State.fld_setFld_same _ _ (by omega) (by omega), State.fld_setFld_other _ _ (by omega) (by omega)]
    exact ⟨Nat.mod_eq_of_lt (by omega), rfl⟩

/-! ## Before the sync -/

/-- Placing containers keeps what replacing the context of a node whose container was written for the cycle keeps. -/
theorem State.placeContainers_keeps {P : State → Prop} {n : Nat} {c : Word} (h : P s)
    (k : ∀ j u x, j < 32 → (u.node n j).contCyc = some c → P u → P (u.setNode n j x)) : P (s.placeContainers n c) :=
  State.each_keeps h fun j hj u hu => by
    dsimp only
    split
    · next e => exact k j u _ (List.mem_range.1 hj) e hu
    · exact hu

@[simp] theorem State.seg_placeContainers (s : State) (n m : Nat) (c : Word) : (s.placeContainers n c).seg m = s.seg m :=
  State.placeContainers_keeps (P := fun u => u.seg m = s.seg m) rfl fun _ _ _ _ _ hu => hu

theorem State.OnlyTrn.placeContainers (h : s.OnlyTrn t l) (n : Nat) (c : Word) : s.OnlyTrn (t.placeContainers n c) l :=
  State.placeContainers_keeps (P := fun u => s.OnlyTrn u l) h fun j _ x _ _ hu => hu.setNode n j x

/-- A container not written for the cycle stays as it was (R30). -/
theorem State.node_placeContainers (s : State) {n k : Nat} {c : Word} (hk : k < 32) (h : (s.node n k).contCyc ≠ some c) :
    (s.placeContainers n c).node n k = s.node n k :=
  State.placeContainers_keeps (P := fun u => u.node n k = s.node n k) rfl fun j u x hj e hu => by
    by_cases hjk : j = k
    · subst hjk
      exact absurd (hu ▸ e) h
    · rw [State.node_setNode_other u x hj hk (by simp [Ne.symm hjk]), hu]

/-- Where every grant has syncs left, a sync shows those of the newest. -/
theorem State.grantStep_of_live {n : Nat} {c : Word} (h : ∀ x ∈ (s.seg n).grants, (c - x.2.1).toNat ≤ 8) :
    s.grantStep n c = if (s.seg n).grants.isEmpty then s else s.showGrant n c := by
  have e : (s.seg n).grants.filter (fun x => decide (8 < (c - x.2.1).toNat)) = [] := by
    simpa using h
  rw [State.grantStep, e]
  rfl

@[simp] theorem State.seg_begun (s : State) (n : Nat) (c : Word) : (s.begun n c).seg n = { s.seg n with cyc := some c, prev := (s.seg n).cyc } := by
  rw [State.begun, State.seg_placeContainers, State.seg_setSeg_same]

theorem State.OnlyTrn.begun (h : s.OnlyTrn t l) (n : Nat) (c : Word) : s.OnlyTrn (t.begun n c) l := (h.setSeg n _).placeContainers n c

theorem State.node_begun (s : State) {n k : Nat} {c : Word} (hk : k < 32) (h : (s.node n k).contCyc ≠ some c) : (s.begun n c).node n k = s.node n k :=
  State.node_placeContainers _ hk h

theorem State.rd_begun (s : State) (n : Nat) (c : Word) (a : Nat) : (s.begun n c).rd a = s.rd a :=
  ((State.OnlyTrn.refl s []).begun n c).regs a (by simp)

theorem State.OnlyTrn.showGrant (h : s.OnlyTrn t l) {n : Nat} (hl : Reg.TRN_GRANT n ∈ l) (c : Word) : s.OnlyTrn (t.showGrant n c) l := h.wr hl _

/-- TRN_SCFG.CLAIM and TRK come into force in a link cycle. -/
@[simp] theorem State.seg_takeScfg (s : State) (n : Nat) :
    (s.takeScfg n).seg n = { s.seg n with claimOn := s.bit (Reg.TRN_SCFG n) 29, trk := s.fld (Reg.TRN_SCFG n) 6 0 } :=
  State.seg_setSeg_same _ _ _

/-- v is s with the segment cycle of c begun and its containers in place: the state in which the sync goes out. -/
structure State.SyncReady (s v : State) (n : Nat) (c : Word) (link : Bool) : Prop where
  frame : s.OnlyTrn v [Reg.TRN_GRANT n]
  seg : v.seg n = { s.seg n with
    cyc := some c, prev := (s.seg n).cyc
    claimOn := if link then s.bit (Reg.TRN_SCFG n) 29 else (s.seg n).claimOn
    trk := if link then s.fld (Reg.TRN_SCFG n) 6 0 else (s.seg n).trk }
  noGrant : (s.seg n).grants = [] → v.rd (Reg.TRN_GRANT n) = s.rd (Reg.TRN_GRANT n)
  grant : ∀ k c0 id rest, (s.seg n).grants = (k, c0, id) :: rest → v.rd (Reg.TRN_GRANT n) = bitW 31 ||| mkFld 7 4 (8 - (c - c0).toNat)
  node : ∀ k, k < 32 → (s.node n k).contCyc ≠ some c → v.node n k = s.node n k

/-- A cycle that is no link cycle begins. -/
theorem State.syncReady_grantStep {n : Nat} {c : Word} (h : ∀ x ∈ (s.seg n).grants, (c - x.2.1).toNat ≤ 8) :
    s.SyncReady ((s.grantStep n c).begun n c) n c false := by
  rw [State.grantStep_of_live h]
  cases hg : (s.seg n).grants with
  | nil =>
    refine ⟨(State.OnlyTrn.refl s _).begun n c, State.seg_begun s n c, fun _ => State.rd_begun s n c _, ?_, fun k hk hc => State.node_begun s hk hc⟩
    simp [hg]
  | cons x rest =>
    refine ⟨((State.OnlyTrn.refl s _).showGrant (by simp) c).begun n c, State.seg_begun (s.showGrant n c) n c, by simp [hg], fun k c0 id r e => ?_,
      fun k hk hc => State.node_begun (s.showGrant n c) hk hc⟩
    refine (State.rd_begun (s.showGrant n c) n c _).trans ?_
    rw [State.showGrant, State.rd_wr_same, e]

/-- A cycle begins, a link cycle with TRN_SCFG's CLAIM and TRK. -/
theorem State.syncReady {n : Nat} {c : Word} (link : Bool) (h : ∀ x ∈ (s.seg n).grants, (c - x.2.1).toNat ≤ 8) :
    s.SyncReady (((s.when link (fun s => s.takeScfg n)).grantStep n c).begun n c) n c link := by
  cases link with
  | false => exact State.syncReady_grantStep h
  | true =>
    have hg : ((s.takeScfg n).seg n).grants = (s.seg n).grants := by rw [State.seg_takeScfg]
    obtain ⟨frame, seg, noGrant, grant, node⟩ := State.syncReady_grantStep (s := s.takeScfg n) (hg ▸ h)
    exact
      { frame := ((State.OnlyTrn.refl s _).setSeg n _).trans frame
        seg := by rw [State.when_true, seg, State.seg_takeScfg]; rfl
        noGrant := fun e => noGrant (hg.trans e)
        grant := fun k c0 id rest e => grant k c0 id rest (hg.trans e)
        node := node }

/-! ## The sync itself -/

/-- The payload of a sync speaks of the grants and of registers that the start of the cycle leaves. -/
theorem State.OnlyTrn.syncPayload_eq {n : Nat} (hn : n < 12) (h : s.OnlyTrn t [Reg.TRN_GRANT n]) (hg : (t.seg n).grants = (s.seg n).grants) (c : Word) :
    t.syncPayload n c = s.syncPayload n c := by
  have hr : ∀ a, a ≠ Reg.TRN_GRANT n → t.rd a = s.rd a := fun a ha => h.regs a (by simpa using ha)
  have hk : ∀ i, t.rd (Reg.SAF_TOK i) = s.rd (Reg.SAF_TOK i) := fun i => hr _ (by simp only [Reg.SAF_TOK, Reg.TRN_GRANT]; omega)
  have h1 : Reg.TRN_SSTAT n ≠ Reg.TRN_GRANT n := by simp only [Reg.TRN_SSTAT, Reg.TRN_GRANT]; omega
  have h2 : Reg.TRN_SDIG n ≠ Reg.TRN_GRANT n := by simp only [Reg.TRN_SDIG, Reg.TRN_GRANT]; omega
  have h3 : Reg.TRN_SCFG n ≠ Reg.TRN_GRANT n := by simp only [Reg.TRN_SCFG, Reg.TRN_GRANT]; omega
  have h4 : Reg.TRN_SOFS n ≠ Reg.TRN_GRANT n := by simp only [Reg.TRN_SOFS, Reg.TRN_GRANT]; omega
  simp only [State.syncPayload, State.segHid, State.fld, State.bit, hg, h.tb_eq, hk, hr _ h1, hr _ h2, hr _ h3, hr _ h4] <;> rfl

theorem State.OnlyTrn.syncSent {n : Nat} (h : s.OnlyTrn t [Reg.TRN_GRANT n]) (c : Word) :
    s.OnlyTrn (t.syncSent n c) [Reg.TRN_PTX n 0, Reg.TRN_PTX n 1, Reg.TRN_SSTAT n, Reg.TRN_GRANT n] :=
  ((h.mono (by simp)).sendFrame (by simp) (by simp) _ _ _ _ _).coldSync (by simp)

@[simp] theorem State.seg_syncSent (s : State) (n : Nat) (c : Word) : (s.syncSent n c).seg n
    = { s.seg n with tx := frameBytes 1 63 n 0x3FF (c.toNat % 65536) (s.segHid n) (s.syncPayload n c) } := by
  rw [State.syncSent, State.seg, State.trn_coldSync]
  exact State.seg_sendFrame _ _ _ _ _ _ _

theorem State.node_syncSent (s : State) (n : Nat) (c : Word) (m k : Nat) : (s.syncSent n c).node m k = s.node m k := by
  rw [State.syncSent, State.node, State.trn_coldSync]
  exact State.node_sendFrame _ _ _ _ _ _ _ _ _

/-- The sync counts on the running ports of its segment. -/
theorem State.rd_syncSent_ptx (s : State) (n : Nat) (c : Word) {ch : Nat} (hc : ch < 2) :
    (s.syncSent n c).rd (Reg.TRN_PTX n ch) = s.rd (Reg.TRN_PTX n ch) + (if s.bit (Reg.TRN_PCFG n ch) 31 then 1 else 0) := by
  have hk := (State.OnlyTrn.refl (s.sendFrame n 1 63 0x3FF c (s.syncPayload n c)) [Reg.TRN_SSTAT n]).coldSync (n := n) (by simp)
  rw [State.syncSent, hk.regs _ (by simp only [Reg.TRN_PTX, Reg.TRN_SSTAT, List.mem_singleton]; omega), State.rd_sendFrame_ptx _ _ _ _ _ _ _ hc]

/-- The syncs of the coldstart left, and the state of the segment, after the sync. -/
theorem State.fld_syncSent (s : State) (n : Nat) (c : Word) : (s.syncSent n c).fld (Reg.TRN_SSTAT n) 28 24 = s.fld (Reg.TRN_SSTAT n) 28 24 - 1
    ∧ (s.syncSent n c).segState n = if s.fld (Reg.TRN_SSTAT n) 28 24 = 1 then 3 else s.segState n := by
  have e : (s.sendFrame n 1 63 0x3FF c (s.syncPayload n c)).rd (Reg.TRN_SSTAT n) = s.rd (Reg.TRN_SSTAT n) :=
    ((State.OnlyTrn.refl s [Reg.TRN_PTX n 0, Reg.TRN_PTX n 1]).sendFrame (n := n) (by simp) (by simp) _ _ _ _ _).regs _ (by
      simp only [Reg.TRN_PTX, Reg.TRN_SSTAT, List.mem_cons, List.not_mem_nil, or_false]; omega)
  have ek : ∀ hi lo, (s.sendFrame n 1 63 0x3FF c (s.syncPayload n c)).fld (Reg.TRN_SSTAT n) hi lo = s.fld (Reg.TRN_SSTAT n) hi lo :=
    fun hi lo => congrArg (wFld · hi lo) e
  have k := State.fld_coldSync (s.sendFrame n 1 63 0x3FF c (s.syncPayload n c)) n
  rw [ek, show State.segState _ n = s.segState n from ek 31 29] at k
  exact k

/-- The sync leaves TRN_GRANT. -/
theorem State.rd_syncSent_grant (s : State) (n : Nat) (c : Word) : (s.syncSent n c).rd (Reg.TRN_GRANT n) = s.rd (Reg.TRN_GRANT n) := by
  have h : s.OnlyTrn (s.syncSent n c) [Reg.TRN_PTX n 0, Reg.TRN_PTX n 1, Reg.TRN_SSTAT n] :=
    ((State.OnlyTrn.refl s _).sendFrame (by simp) (by simp) _ _ _ _ _).coldSync (by simp)
  refine h.regs _ ?_
  simp only [Reg.TRN_PTX, Reg.TRN_SSTAT, Reg.TRN_GRANT, List.mem_cons, List.not_mem_nil, or_false]
  omega

/-- A node's state is what it was taken to. -/
theorem State.nodeState_nodeTo (s : State) (n k : Nat) {st : Nat} (h : st < 8) : (s.nodeTo n k st).nodeState n k = st := by
  have hk : Reg.TRN_NODE_STAT n k ≠ Reg.TRN_SSTAT n := by simp only [Reg.TRN_NODE_STAT, Reg.TRN_SSTAT]; omega
  rw [State.nodeTo, State.nodeState, State.fld, State.setFld_wr _ (Reg.TRN_SSTAT n), State.rd_wr_other _ _ hk]
  exact (State.fld_setFld_same s _ (by omega) (by omega) st).trans (Nat.mod_eq_of_lt h)

/-- The registers of node k of segment n, and of its segment, that follow its state. -/
theorem State.OnlyTrn.nodeTo (h : s.OnlyTrn t l) {n k : Nat} (hk : Reg.TRN_NODE_STAT n k ∈ l) (hs : Reg.TRN_SSTAT n ∈ l) (st : Nat) :
    s.OnlyTrn (t.nodeTo n k st) l := (h.wr hk _).wr hs _

@[simp] theorem State.trn_nodeTo (s : State) (n k st : Nat) : (s.nodeTo n k st).trn = s.trn := rfl

@[simp] theorem State.seg_nodeTo (s : State) (n k st m : Nat) : (s.nodeTo n k st).seg m = s.seg m := rfl

/-- A grant that ends leaves TRN_GRANT to those still pending. -/
theorem State.endGrant_of_last {n k : Nat} {c0 : Word} {id : Nat} (hg : (s.seg n).grants = [(k, c0, id)]) :
    s.endGrant n k = (s.setSeg n { s.seg n with grants := [] }).wr (Reg.TRN_GRANT n) 0 := by
  simp [State.endGrant, hg, State.showGrant]

/-- A grant whose eight syncs have gone lapses (R190). -/
theorem State.grantStep_of_lapsed {n k : Nat} {c c0 : Word} {id : Nat} (hg : (s.seg n).grants = [(k, c0, id)]) (h : 8 < (c - c0).toNat) :
    ((s.grantStep n c).seg n).grants = [] ∧ (s.grantStep n c).nodeState n k = nUNUSED ∧ (s.grantStep n c).rd (Reg.TRN_GRANT n) = 0 := by
  have hd : ((s.dropRanging n k).seg n).grants = [(k, c0, id)] := by
    rw [State.dropRanging, State.seg_setNode, State.seg_setSeg_same]
    exact hg
  have e : s.grantStep n c = ((s.dropRanging n k).endGrant n k).nodeTo n k nUNUSED := by
    have ho : (s.seg n).grants.filter (fun x => decide (8 < (c - x.2.1).toNat)) = [(k, c0, id)] := by
      rw [hg, List.filter_cons_of_pos (by exact decide_eq_true h), List.filter_nil]
    rw [State.grantStep, ho]
    exact if_pos (by simp [State.endGrant_of_last hd])
  rw [e, State.nodeState_nodeTo _ _ _ (by decide), State.seg_nodeTo, State.endGrant_of_last hd]
  refine ⟨by simp, rfl, ?_⟩
  refine (((State.OnlyTrn.refl _ [Reg.TRN_NODE_STAT n k, Reg.TRN_SSTAT n]).nodeTo (by simp) (by simp) _).regs _ ?_).trans (State.rd_wr_same _ _ _)
  simp only [Reg.TRN_NODE_STAT, Reg.TRN_SSTAT, Reg.TRN_GRANT, List.mem_cons, List.not_mem_nil, or_false]
  omega

/-- A container is written for the cycle that stands open. -/
theorem garnetContainerWrite_of_open {n : Fin 12} {k : Fin 32} (hl : s.saf.g.live = true) (hd : s.saf.loaded = true) (hu : s.nodeState n k ≠ nUNUSED)
    {c : Word} (hc : s.contFor n k = some c) : garnetContainerWrite n k s = s.setNode n k { s.node n k with contCyc := some c } := by
  rw [garnetContainerWrite, if_neg (by simp [hl, hd, hu]), hc]

/-- A container is not written before its slot's release (R30). -/
theorem garnetContainerWrite_of_shut {n : Fin 12} {k : Fin 32} (hc : s.contFor n k = none) : garnetContainerWrite n k s = s := by
  unfold garnetContainerWrite
  split
  · rfl
  · rw [hc]

/-- Settles O41: the sync goes out in the state in which the cycle has begun, which differs from the one before in Torone's state and TRN_GRANT. -/
theorem segmentSync : Obligations.SegmentSync := by
  unfold Obligations.SegmentSync
  refine ⟨?_, ?_, ?_, ?_, ?_, ?_⟩
  · intro s n hs hr hc hg
    have hv := State.syncReady (s.tb.cyc.toNat % 2 == 0) hg
    have he := syncSend_of_due hs hr hc
    generalize (((s.when (s.tb.cyc.toNat % 2 == 0) (fun s => s.takeScfg n)).grantStep n s.tb.cyc).begun n s.tb.cyc) = v at hv he
    obtain ⟨frame, seg, noGrant, grant, node⟩ := hv
    have hrd : ∀ a, a ≠ Reg.TRN_GRANT n → v.rd a = s.rd a := fun a ha => frame.regs a (by simpa using ha)
    have hst : v.rd (Reg.TRN_SSTAT n) = s.rd (Reg.TRN_SSTAT n) := hrd _ (by simp only [Reg.TRN_SSTAT, Reg.TRN_GRANT]; omega)
    have hsc : v.rd (Reg.TRN_SCFG n) = s.rd (Reg.TRN_SCFG n) := hrd _ (by simp only [Reg.TRN_SCFG, Reg.TRN_GRANT]; omega)
    have hp : v.syncPayload n s.tb.cyc = s.syncPayload n s.tb.cyc := frame.syncPayload_eq n.isLt (by rw [seg]) _
    have hseg := State.seg_syncSent v n s.tb.cyc
    have hcold := State.fld_syncSent v n s.tb.cyc
    refine ⟨_, congrArg Host.Outcome.next he, by rw [hseg, seg], by rw [hseg, seg], by rw [hseg, seg], by rw [hseg, seg], ?_, ?_, ?_, ?_, ?_, ?_, ?_, ?_,
      ?_, (frame.syncSent _).rest, (frame.syncSent _).regs⟩
    · rw [hseg, hp]
      simp only [State.segHid, State.fld, hsc]
    · intro ch hch
      rw [State.rd_syncSent_ptx v n _ hch, State.bit, hrd _ (by simp only [Reg.TRN_PTX, Reg.TRN_GRANT]; omega),
        hrd _ (by simp only [Reg.TRN_PCFG, Reg.TRN_GRANT]; omega)]
      rfl
    · rw [hcold.1, State.fld, hst, State.fld]
    · rw [hcold.2, State.segState, State.fld, State.fld, hst]
      rfl
    · intro e
      rw [State.rd_syncSent_grant, noGrant e]
    · intro k c0 id rest e
      rw [State.rd_syncSent_grant, grant k c0 id rest e]
    · intro e
      simp [hseg, seg, e]
    · intro e
      simp [hseg, seg, e]
    · intro k hk hck
      rw [State.node_syncSent, node k hk hck]
  · intro s n k c0 id hs hr hc hk hg h8
    have he := syncSend_of_due hs hr hc
    have hw : ((s.when (s.tb.cyc.toNat % 2 == 0) (fun s => s.takeScfg n)).seg n).grants = [(k, c0, id)] := by
      unfold State.when
      split
      · rw [State.seg_takeScfg, hg]
      · exact hg
    generalize s.when (s.tb.cyc.toNat % 2 == 0) (fun s => s.takeScfg n) = w at he hw
    obtain ⟨hgr, hns, hgw⟩ := State.grantStep_of_lapsed hw h8
    generalize w.grantStep n s.tb.cyc = u at he hgr hns hgw
    refine ⟨_, congrArg Host.Outcome.next he, by simpa using hgr, ?_, by rw [State.rd_syncSent_grant, State.rd_begun, hgw]⟩
    refine (congrArg (wFld · 31 29) ((((State.OnlyTrn.refl u _).begun n _).syncSent s.tb.cyc).regs (Reg.TRN_NODE_STAT n k) ?_)).trans hns
    simp only [Reg.TRN_NODE_STAT, Reg.TRN_PTX, Reg.TRN_SSTAT, Reg.TRN_GRANT, List.mem_cons, List.not_mem_nil, or_false]
    omega
  · intro s n h
    exact congrArg Host.Outcome.next (syncSend_of_idle h)
  · intro s n k c hl hd hu h
    have hc : s.contFor n k = some c := by
      unfold State.contFor
      rcases h with ⟨h, rfl⟩ | ⟨h, hr⟩
      · rw [h]
      · simp only [h, hr, if_true]
        rw [BitVec.sub_add_cancel]
    refine ⟨_, congrArg Host.Outcome.next (garnetContainerWrite_of_open hl hd hu hc), by simp, fun m j hm hj => ?_, rfl⟩
    exact State.node_setNode_other s _ k.isLt hj hm
  · intro s n k c hc hr
    refine congrArg Host.Outcome.next (garnetContainerWrite_of_shut ?_)
    simp [State.contFor, hc, hr]
  · intro s n k h
    exact congrArg Host.Outcome.next (if_pos (by rcases h with h | h | h <;> simp [h]))

end Sys2Proof.Machine
end

section
/-! What the end of a law job leaves alone: the learner, the shadow values of a PWM group, and the notice of a hold (R26, R48, R91 to R97). -/

namespace Sys2Proof.Machine

variable {s t u : State} {l m : List Nat}

/-! ## The frame -/

/-- t is s in the laws, the segments, the sources and the PWM groups; of the registers, those of l and of a persistent write or a notice may differ. -/
structure State.KeepsLaw (s t : State) (l : List Nat) : Prop where
  law : t.law = s.law
  trn : t.trn = s.trn
  fbk : t.fbk = s.fbk
  pwm : t.pwm = s.pwm
  regs : s.RegsBut t (l ++ storeRegs)

namespace State.KeepsLaw

theorem refl (s : State) (l : List Nat) : s.KeepsLaw s l := ⟨rfl, rfl, rfl, rfl, .refl s _⟩

theorem trans (h : s.KeepsLaw t l) (k : t.KeepsLaw u l) : s.KeepsLaw u l :=
  ⟨k.law.trans h.law, k.trn.trans h.trn, k.fbk.trans h.fbk, k.pwm.trans h.pwm, h.regs.trans k.regs⟩

theorem mono (h : s.KeepsLaw t l) (hm : ∀ a ∈ l, a ∈ m) : s.KeepsLaw t m :=
  ⟨h.law, h.trn, h.fbk, h.pwm, h.regs.mono fun a ha => by
    rcases List.mem_append.1 ha with ha | ha
    · exact List.mem_append_left _ (hm a ha)
    · exact List.mem_append_right _ ha⟩

theorem wr (h : s.KeepsLaw t l) {a : Nat} (ha : a ∈ l) (v : Word) : s.KeepsLaw (t.wr a v) l :=
  ⟨h.law, h.trn, h.fbk, h.pwm, h.regs.wr (List.mem_append_left _ ha) v⟩

/-- A persistent write, or a record of the spare capacity. -/
theorem stored {p : Nat} (h : s.KeepsLaw t l) (k : t.OnlyStored u p) : s.KeepsLaw u l :=
  ⟨k.law_eq.trans h.law, (congrArg State.trn k.rest :).trans h.trn, (congrArg State.fbk k.rest :).trans h.fbk, (congrArg State.pwm k.rest :).trans h.pwm,
    h.regs.trans (k.regs.mono fun _ ha => List.mem_append_right _ ha)⟩

theorem noticed (h : s.KeepsLaw t l) (k : t.OnlyNoticed u []) : s.KeepsLaw u l := h.stored (p := 0) ((State.OnlyStored.refl t 0).noticed k)

theorem hallWrite (h : s.KeepsLaw t l) (o : Nat) (bs : List Byte) : s.KeepsLaw (t.hallWrite o bs) l := ⟨h.law, h.trn, h.fbk, h.pwm, h.regs⟩

theorem raise (h : s.KeepsLaw t l) {e : Nat} (he : e ∈ l) (n : Nat) (w : Word) : s.KeepsLaw (t.raise n e w) l :=
  (h.wr he (t.rd e ||| w)).noticed (.of ((State.OnlyRaised.refl _ []).irqSettle n))

end State.KeepsLaw

theorem State.OnlyRegs.law_eq (h : s.OnlyRegs t l) : t.law = s.law := (congrArg State.law h.rest :)
theorem State.OnlyRegs.trn_eq (h : s.OnlyRegs t l) : t.trn = s.trn := (congrArg State.trn h.rest :)
theorem State.OnlyRegs.fbk_eq (h : s.OnlyRegs t l) : t.fbk = s.fbk := (congrArg State.fbk h.rest :)
theorem State.OnlyRegs.pwm_eq (h : s.OnlyRegs t l) : t.pwm = s.pwm := (congrArg State.pwm h.rest :)
theorem State.OnlyRegs.sameMemory (h : s.OnlyRegs t l) : s.SameMemory t :=
  ⟨(congrArg State.hall h.rest :), (congrArg State.pv h.rest :), (congrArg (·.cap.dram) h.rest :)⟩

theorem State.OnlyNoticed.law_eq (h : s.OnlyNoticed t l) : t.law = s.law := (congrArg State.law h.rest :)

/-! ## The learner -/

/-- The registers in which the learner records a job of axis a, and what the refusal of one of its accesses sets. -/
def learnRegs (a : Nat) : List Nat :=
  [Reg.LRN_STAT a, Reg.LRN_LAST a, Reg.LRN_UCNT a, Reg.LRN_FCNT a, Reg.LRN_EVT, Reg.LRN_UPD_CNT, Reg.LRN_FRZ_CNT, Reg.PRT_DCNT, Reg.PRT_DENY,
    Reg.PRT_DADDR]

theorem State.OnlyStored.markRow {p : Nat} (h : s.OnlyStored t p) (r cause : Nat) : s.OnlyStored (t.markRow r cause) p := by
  unfold State.markRow
  exact State.ite_keeps (P := fun x => s.OnlyStored x p) h
    (State.ite_keeps (P := fun x => s.OnlyStored x p) (h.record _) ((h.withSpr _).wr mem_sprEvt _))

/-- A refused access of the learner. -/
theorem State.KeepsLaw.lrnDeny {a : Nat} (h : s.KeepsLaw t (learnRegs a)) (addr : Nat) (w : Bool) : s.KeepsLaw (t.lrnDeny a addr w) (learnRegs a) := by
  unfold State.lrnDeny State.lrnEvt State.deny
  refine State.KeepsLaw.raise ?_ (by simp [learnRegs]) _ _
  refine State.KeepsLaw.wr ?_ (by simp [learnRegs]) _
  have k := h.wr (a := Reg.PRT_DCNT) (by simp [learnRegs]) (t.rd Reg.PRT_DCNT + 1)
  exact State.ite_keeps (P := fun x => s.KeepsLaw x (learnRegs a)) k ((k.wr (by simp [learnRegs]) _).wr (by simp [learnRegs]) _)

theorem State.KeepsLaw.lrnRead {a : Nat} (h : s.KeepsLaw t (learnRegs a)) (b : Nat) : s.KeepsLaw (t.lrnRead a b).2 (learnRegs a) := by
  unfold State.lrnRead
  dsimp only
  split
  · exact h.lrnDeny _ _
  · split
    · refine State.KeepsLaw.stored (p := 0) ?_ ((State.OnlyStored.refl _ 0).markRow _ _)
      exact (h.wr (by simp [learnRegs]) _).raise (by simp [learnRegs]) _ _
    · exact h

theorem State.KeepsLaw.lrnBin {a : Nat} (h : s.KeepsLaw t (learnRegs a)) (b : Nat) (j : LearnJob) (lam d : Nat) :
    s.KeepsLaw (t.lrnBin a b j lam d) (learnRegs a) := by
  have k := h.lrnRead (a := a) b
  unfold State.lrnBin
  split
  · exact h
  · split
    · next v u e =>
      rw [e] at k
      unfold State.lrnWrite
      exact State.ite_keeps (P := fun x => s.KeepsLaw x (learnRegs a)) (k.hallWrite _ _) (k.lrnDeny _ _)
    · next u e =>
      rw [e] at k
      exact k

/-- The end of a job for the learner leaves the laws. -/
theorem State.KeepsLaw.lrnEnd {a : Nat} (h : s.KeepsLaw t (learnRegs a)) (j : LearnJob) (late : Bool) :
    s.KeepsLaw (t.lrnEnd a j late) (learnRegs a) := by
  unfold State.lrnEnd
  split
  · exact h
  · extract_lets codes cause u d q b nu v w
    have hu : s.KeepsLaw u (learnRegs a) := (h.wr (by simp [learnRegs]) _).wr (by simp [learnRegs]) _
    split
    · exact (hu.wr (by simp [learnRegs]) _).wr (by simp [learnRegs]) _
    · exact (((hu.lrnBin b j _ d).lrnBin _ j _ d).wr (by simp [learnRegs]) _).wr (by simp [learnRegs]) _

/-- A job without a learner is not recorded there. -/
theorem State.lrnEnd_of_off {j : LearnJob} (h : j.on = false) (s : State) (a : Nat) (late : Bool) : s.lrnEnd a j late = s := if_pos (by simp [h])

/-! ### Its frame-in -/

theorem State.hall_raise (s : State) (n e : Nat) (w : Word) : (s.raise n e w).hall = s.hall := ((State.OnlyRaised.refl s [e]).raise (by simp) n w).hall_eq

theorem State.hall_deny (s : State) (m a : Nat) (w : Bool) (k : Nat) : (s.deny m a w k).hall = s.hall :=
  State.ite_keeps (P := fun x => x.hall = s.hall) rfl rfl

/-- A read of the learner's table leaves the Hall. -/
theorem State.hall_lrnRead (s : State) (a b : Nat) : (s.lrnRead a b).2.hall = s.hall := by
  unfold State.lrnRead
  dsimp only
  split
  · exact (State.hall_raise _ _ _ _).trans (State.hall_deny s _ _ _ _)
  · split
    · exact ((State.OnlyStored.refl _ 0).markRow _ _).hall_eq.trans (State.hall_raise _ _ _ _)
    · rfl

/-- The two reads of a correction leave the laws and the Hall. -/
theorem State.KeepsLaw.lrnCorrection {a : Nat} (h : s.KeepsLaw t (learnRegs a)) (e : t.hall = s.hall) (bins num den : Nat) :
    s.KeepsLaw (t.lrnCorrection a bins num den).2.2 (learnRegs a) ∧ (t.lrnCorrection a bins num den).2.2.hall = s.hall := by
  have k := (h.lrnRead (a := a) (num / den)).lrnRead (a := a) ((num / den + 1) % bins)
  have f := (State.hall_lrnRead (t.lrnRead a (num / den)).2 a ((num / den + 1) % bins)).trans ((State.hall_lrnRead t a (num / den)).trans e)
  unfold State.lrnCorrection
  dsimp only
  split <;> exact ⟨k, f⟩

theorem State.lrnFrameIn_of_off {a : Nat} (h : s.lrnOn a = false) (cyc : Word) (raw : Int) (th : Nat) (spd : Int) (errs : List Int) (sats : List Bool) :
    s.lrnFrameIn a cyc raw th spd errs sats = (0, {}, s) := if_pos (by simp [h])

/-- v is s, or s with another context of axis a that has the same state words. -/
def State.SameWords (s v : State) (a : Nat) : Prop := v = s ∨ ∃ c : AxisCtx, c.x = (s.axis a).x ∧ v = s.setAxis a c

/-- The correction of a job, or none, leaves the laws and the Hall. -/
theorem State.keepsLaw_correction (v : State) (a bins num per : Nat) (skip : Bool) :
    v.KeepsLaw (if skip then (0, false, v) else v.lrnCorrection a bins num per).2.2 (learnRegs a)
      ∧ (if skip then (0, false, v) else v.lrnCorrection a bins num per).2.2.hall = v.hall := by
  split
  · exact ⟨.refl v _, rfl⟩
  · exact (State.KeepsLaw.refl v _).lrnCorrection rfl bins num per

/-- The learner's frame-in changes of the laws the axis's kept sign and hold alone, and leaves the Hall. -/
theorem State.keepsLaw_lrnFrameIn (s : State) (a : Nat) (cyc : Word) (raw : Int) (th : Nat) (spd : Int) (errs : List Int) (sats : List Bool) :
    ∃ v, s.SameWords v a ∧ v.KeepsLaw (s.lrnFrameIn a cyc raw th spd errs sats).2.2 (learnRegs a)
      ∧ (s.lrnFrameIn a cyc raw th spd errs sats).2.2.hall = s.hall := by
  by_cases h : s.lrnOn a = false
  · rw [State.lrnFrameIn_of_off h]
    exact ⟨s, .inl rfl, .refl s _, rfl⟩
  · unfold State.lrnFrameIn
    rw [if_neg (by simpa using h)]
    obtain ⟨x, per, sp⟩ := s.lrnIndex a cyc raw th spd
    dsimp only
    generalize reversal (s.axis a).sign (s.axis a).hold (wFld (s.rd (Reg.LRN_CFG a)) 7 0) sp = rv
    refine ⟨_, .inr ⟨{ s.axis a with sign := rv.2.1, hold := rv.2.2 }, rfl, rfl⟩, ?_⟩
    obtain ⟨k, kh⟩ := State.keepsLaw_correction (s.setAxis a { s.axis a with sign := rv.2.1, hold := rv.2.2 }) a (s.lrnBins a)
      ((x % (per : Int)).toNat * s.lrnBins a) per ((s.snapFor a cyc).ioff || (s.axis a).zeroRun)
    exact ⟨k.wr (by simp [learnRegs]) _, kh⟩

/-! ## Registers apart -/

/-- A register of a law axis at an offset where no register of the persistent store's page can fall. -/
def lawReg (a r : Nat) : Prop := ∃ o, r = 0x40100000 + 0x400 * a + o ∧ 0xC ≤ o ∧ o < 0x400

theorem lawReg_not_store {a r : Nat} (h : lawReg a r) : r ∉ storeRegs := by
  have k : ∀ b ∈ storeRegs, b < 0x40100000 ∨ b = 0x40208004 ∨ b = 0x40208008 := by decide
  obtain ⟨o, rfl, h1, h2⟩ := h
  intro hm
  have := k _ hm
  omega

/-- The learner's registers of an axis are none of the laws' registers of that axis. -/
theorem lawReg_not_learn {a r : Nat} (h : lawReg a r) : r ∉ learnRegs a := by
  obtain ⟨o, rfl, h1, h2⟩ := h
  simp only [learnRegs, Reg.LRN_STAT, Reg.LRN_LAST, Reg.LRN_UCNT, Reg.LRN_FCNT, Reg.LRN_EVT, Reg.LRN_UPD_CNT, Reg.LRN_FRZ_CNT, Reg.PRT_DCNT,
    Reg.PRT_DENY, Reg.PRT_DADDR, List.mem_cons, List.not_mem_nil, or_false]
  omega

/-- A register of Galene. -/
def galReg (r : Nat) : Prop := 0x40050000 ≤ r ∧ r < 0x40060000

theorem galReg_not_store {r : Nat} (h : galReg r) : r ∉ storeRegs := by
  have k : ∀ b ∈ storeRegs, b < 0x40050000 ∨ 0x40060000 ≤ b := by decide
  intro hm
  have := k _ hm
  unfold galReg at h
  omega

theorem galReg_not_learn {a r : Nat} (h : galReg r) : r ∉ learnRegs a := by
  unfold galReg at h
  simp only [learnRegs, Reg.LRN_STAT, Reg.LRN_LAST, Reg.LRN_UCNT, Reg.LRN_FCNT, Reg.LRN_EVT, Reg.LRN_UPD_CNT, Reg.LRN_FRZ_CNT, Reg.PRT_DCNT,
    Reg.PRT_DENY, Reg.PRT_DADDR, List.mem_cons, List.not_mem_nil, or_false]
  omega

/-! ## The hold of an axis -/

/-- The shadow registers of the PWM groups. -/
def shadowRegs : List Nat := (List.range 16).flatMap fun g => [Reg.PWM_GRP_SHDW01 g, Reg.PWM_GRP_SHDW2 g, Reg.PWM_GRP_STAT g]

theorem mem_shadowRegs {g a : Nat} (hg : g < 16) (ha : a ∈ [Reg.PWM_GRP_SHDW01 g, Reg.PWM_GRP_SHDW2 g, Reg.PWM_GRP_STAT g]) : a ∈ shadowRegs :=
  List.mem_flatMap.2 ⟨g, List.mem_range.2 hg, ha⟩

theorem lawReg_not_shadow {a r : Nat} (h : lawReg a r) : r ∉ shadowRegs := by
  have k : ∀ b ∈ shadowRegs, b < 0x40100000 := by decide
  obtain ⟨o, rfl, h1, h2⟩ := h
  intro hm
  have := k _ hm
  omega

theorem galReg_not_shadow {r : Nat} (h : galReg r) : r ∉ shadowRegs := by
  have k : ∀ b ∈ shadowRegs, 0x40060000 ≤ b := by decide
  intro hm
  have := k _ hm
  unfold galReg at h
  omega

/-- A command sent again changes the shadow registers of its PWM group alone. -/
theorem State.onlyRegs_redeliver (s : State) (a : Nat) : s.OnlyRegs (s.redeliver a) shadowRegs := by
  unfold State.redeliver
  dsimp only
  refine State.ite_keeps (P := fun x => s.OnlyRegs x shadowRegs) ?_ (.refl s _)
  have hg : wFld (s.lawRoute a) 13 10 < 16 := wFld_lt _ 13 10
  exact State.ite_keeps (P := fun x => s.OnlyRegs x shadowRegs) (.refl s _)
    ((((State.OnlyRegs.refl s _).wr (mem_shadowRegs hg (by simp)) _).wr (mem_shadowRegs hg (by simp)) _).wr (mem_shadowRegs hg (by simp)) _)

theorem State.KeepsLaw.only (h : s.KeepsLaw t l) (k : t.OnlyRegs u m) (hm : ∀ a ∈ m, a ∈ l) : s.KeepsLaw u l :=
  ⟨k.law_eq.trans h.law, k.trn_eq.trans h.trn, k.fbk_eq.trans h.fbk, k.pwm_eq.trans h.pwm,
    h.regs.trans (k.regs.mono fun a ha => List.mem_append_left _ (hm a ha))⟩

/-- v is s with the late hold of axis a counted and shown. -/
def State.lateShown (s : State) (a : Nat) : State :=
  ((s.setBit (Reg.LAW_STAT a) 31 true).inc (Reg.LAW_LATE_CNT a)).setAxis a { s.axis a with fLate := true }

/-- A late hold sends the command again and notes the hold. -/
theorem State.keepsLaw_holdLate (s : State) (a : Nat) : (s.lateShown a).KeepsLaw (s.holdLate a) shadowRegs :=
  ((State.KeepsLaw.refl _ _).only (State.onlyRegs_redeliver _ a) fun _ h => h).noticed ((State.OnlyNoticed.refl _ []).capCond _ _)

end Sys2Proof.Machine
end

section
/-! A law job: dispatch, completion and release (R25, R26, R48, R49, R54, R57, R58, R62, R78). -/

namespace Sys2Proof.Machine

variable {s t u : State} {l m : List Nat}

/-! ## Registers of an axis -/

theorem lawReg_stat (a : Nat) : lawReg a (Reg.LAW_STAT a) := ⟨0x60, by simp only [Reg.LAW_STAT]; omega, by decide, by decide⟩
theorem lawReg_lateCnt (a : Nat) : lawReg a (Reg.LAW_LATE_CNT a) := ⟨0x68, by simp only [Reg.LAW_LATE_CNT]; omega, by decide, by decide⟩
theorem lawReg_relCyc (a : Nat) : lawReg a (Reg.LAW_REL_CYC a) := ⟨0x70, by simp only [Reg.LAW_REL_CYC]; omega, by decide, by decide⟩
theorem lawReg_x01 (a : Nat) : lawReg a (Reg.LAW_X01 a) := ⟨0x80, by simp only [Reg.LAW_X01]; omega, by decide, by decide⟩
theorem lawReg_err01 (a : Nat) : lawReg a (Reg.LAW_ERR01 a) := ⟨0x8C, by simp only [Reg.LAW_ERR01]; omega, by decide, by decide⟩
theorem lawReg_out (a : Nat) : lawReg a (Reg.LAW_OUT a) := ⟨0x94, by simp only [Reg.LAW_OUT]; omega, by decide, by decide⟩

theorem lawReg_ne_gal {a r q : Nat} (h : lawReg a r) (hq : galReg q) : r ≠ q := by
  obtain ⟨o, rfl, h1, h2⟩ := h
  unfold galReg at hq
  omega

theorem galReg_lateCnt : galReg Reg.GAL_LATE_CNT := ⟨by decide, by decide⟩
theorem galReg_evt : galReg Reg.GAL_EVT := ⟨by decide, by decide⟩

theorem galReg_lslk {n : Nat} (hn : n < 18) : galReg (Reg.GAL_LSLK n) := by
  simp only [galReg, Reg.GAL_LSLK]
  omega

theorem galReg_lrun {n : Nat} (hn : n < 18) : galReg (Reg.GAL_LRUN n) := by
  simp only [galReg, Reg.GAL_LRUN]
  omega

theorem galReg_llate {n : Nat} (hn : n < 18) : galReg (Reg.GAL_LLATE n) := by
  simp only [galReg, Reg.GAL_LLATE]
  omega

theorem galReg_ljobs {n : Nat} (hn : n < 18) : galReg (Reg.GAL_LJOBS n) := by
  simp only [galReg, Reg.GAL_LJOBS]
  omega

theorem lawReg_bank (a : Nat) {w : Nat} (hw : w < 51) : lawReg a (Reg.LAW_ACT_BANK a w) :=
  ⟨0x200 + 4 * w, by simp only [Reg.LAW_ACT_BANK]; omega, by omega, by omega⟩

/-- A register of an axis's laws or of Galene outlasts what keeps the laws. -/
theorem State.KeepsLaw.rd_eq {a r : Nat} (h : s.KeepsLaw t l) (hr : lawReg a r ∨ galReg r) (hl : r ∉ l) : t.rd r = s.rd r :=
  h.regs r fun hm => (List.mem_append.1 hm).elim hl (hr.elim lawReg_not_store galReg_not_store)

theorem State.axis_congr (h : t.law = s.law) (a : Nat) : t.axis a = s.axis a := by rw [State.axis, h, State.axis]

/-! ## Dispatch -/

theorem findFrom_lt {p : Nat → Bool} : ∀ {k i j : Nat}, findFrom p k i = some j → j < i + k
  | 0, _, _, h => nomatch h
  | k + 1, i, j, h => by
    unfold findFrom at h
    split at h
    · cases h; omega
    · have := findFrom_lt h; omega

theorem lowest_lt {n j : Nat} {p : Nat → Bool} (h : lowest n p = some j) : j < n := by simpa using findFrom_lt h

theorem State.freeLane_lt {n : Nat} (h : s.freeLane = some n) : n < 18 := by
  unfold State.freeLane at h
  split at h
  · next e => cases h; exact lowest_lt e
  · exact lowest_lt h

theorem State.SameWords.law {a : Nat} (h : s.SameWords t a) : t.law.jobs = s.law.jobs ∧ t.law.lanes = s.law.lanes ∧ (t.axis a).x = (s.axis a).x := by
  rcases h with rfl | ⟨c, hc, rfl⟩
  · exact ⟨rfl, rfl, rfl⟩
  · exact ⟨rfl, rfl, by rw [State.axis_setAxis_same, hc]⟩

/-- A context of an axis is no register, and no other block's state. -/
theorem State.SameWords.rest {a : Nat} (h : s.SameWords t a) : t.regs = s.regs ∧ t.trn = s.trn ∧ t.fbk = s.fbk ∧ t.pwm = s.pwm := by
  rcases h with rfl | ⟨c, -, rfl⟩ <;> exact ⟨rfl, rfl, rfl, rfl⟩

/-- The dispatch of a job changes what its learner's frame-in changes. -/
theorem State.keepsLaw_startJob (s : State) (q : LawJob) :
    ∃ v, s.SameWords v q.axis ∧ v.KeepsLaw (s.startJob q).2 (learnRegs q.axis) ∧ (s.startJob q).2.hall = s.hall :=
  State.keepsLaw_lrnFrameIn ..

/-- u is s once a job of axis a has gone through the learner's frame-in: of the laws, that axis's learner state may differ. -/
structure State.Started (s u : State) (a : Nat) : Prop where
  jobs : u.law.jobs = s.law.jobs
  lanes : u.law.lanes = s.law.lanes
  x : (u.axis a).x = (s.axis a).x
  trn : u.trn = s.trn
  fbk : u.fbk = s.fbk
  pwm : u.pwm = s.pwm
  hall : u.hall = s.hall
  regs : ∀ r, lawReg a r ∨ galReg r → u.rd r = s.rd r

theorem State.startJob_started (s : State) (q : LawJob) : s.Started (s.startJob q).2 q.axis := by
  obtain ⟨v, hv, k, hh⟩ := s.keepsLaw_startJob q
  obtain ⟨hjobs, hlanes, hx⟩ := hv.law
  obtain ⟨hregs, htrn, hfbk, hpwm⟩ := hv.rest
  exact
    { jobs := (congrArg LawBlock.jobs k.law).trans hjobs
      lanes := (congrArg LawBlock.lanes k.law).trans hlanes
      x := (congrArg AxisCtx.x (State.axis_congr k.law _)).trans hx
      trn := k.trn.trans htrn
      fbk := k.fbk.trans hfbk
      pwm := k.pwm.trans hpwm
      hall := hh
      regs := fun r hr => (k.rd_eq hr (hr.elim lawReg_not_learn galReg_not_learn)).trans (congrArg (Table.get resetOf · r) hregs) }

theorem State.startJob_of_off {q : LawJob} (h : s.lrnOn q.axis = false) : (s.startJob q).2 = s := by
  unfold State.startJob
  dsimp only
  rw [State.lrnFrameIn_of_off h]

/-- The job is on lane n, which counts it; GAL_STAT shows the lanes busy at most. -/
def State.laneGiven (s : State) (n : Nat) (j : LaneJob) (a : Nat) : State :=
  let s := s.setLane n { s.lane n with job := some j }
  let s := (s.inc (Reg.GAL_LJOBS n)).wr (Reg.GAL_LLAST n) (mkFld 31 24 a ||| mkFld 15 0 s.cycLo)
  if s.fld Reg.GAL_STAT 4 0 < s.lanesBusy then s.setFld Reg.GAL_STAT 4 0 s.lanesBusy else s

theorem lawJobDispatch_of_free {n : Nat} {q : LawJob} {rest : List LawJob} (hf : s.freeLane = some n) (hj : s.law.jobs = q :: rest) :
    lawJobDispatch s = ((s.setLawJobs rest).startJob q).2.laneGiven n ((s.setLawJobs rest).startJob q).1 q.axis := by
  unfold lawJobDispatch
  rw [hf]
  dsimp only
  rw [hj]
  rfl

theorem State.onlyRegs_laneGiven (s : State) (n : Nat) (j : LaneJob) (a : Nat) :
    (s.setLane n { s.lane n with job := some j }).OnlyRegs (s.laneGiven n j a) [Reg.GAL_LJOBS n, Reg.GAL_LLAST n, Reg.GAL_STAT] := by
  have k := ((State.OnlyRegs.refl (s.setLane n { s.lane n with job := some j }) [Reg.GAL_LJOBS n, Reg.GAL_LLAST n, Reg.GAL_STAT]).wr
    (a := Reg.GAL_LJOBS n) (by simp) (s.rd (Reg.GAL_LJOBS n) + 1)).wr (a := Reg.GAL_LLAST n) (by simp) (mkFld 31 24 a ||| mkFld 15 0 s.cycLo)
  exact State.ite_keeps (P := fun x => (s.setLane n { s.lane n with job := some j }).OnlyRegs x _) (k.wr (by simp) _) k

/-- The lane counts the job and shows its axis. -/
theorem State.rd_laneGiven (s : State) (n : Nat) (j : LaneJob) (a : Nat) :
    (s.laneGiven n j a).rd (Reg.GAL_LJOBS n) = s.rd (Reg.GAL_LJOBS n) + 1
      ∧ (s.laneGiven n j a).fld (Reg.GAL_LLAST n) 31 24 = a % 256 := by
  have h1 : Reg.GAL_LJOBS n ≠ Reg.GAL_LLAST n := by simp only [Reg.GAL_LJOBS, Reg.GAL_LLAST]; omega
  have h2 : Reg.GAL_LJOBS n ≠ Reg.GAL_STAT := by simp only [Reg.GAL_LJOBS, Reg.GAL_STAT]; omega
  have h3 : Reg.GAL_LLAST n ≠ Reg.GAL_STAT := by simp only [Reg.GAL_LLAST, Reg.GAL_STAT]; omega
  have hf : wFld (mkFld 31 24 a ||| mkFld 15 0 s.cycLo) 31 24 = a % 256 := by
    rw [wFld_or, wFld_mkFld_same (by omega) (by omega), wFld_mkFld_other (by omega) (by omega)]
    simp
  unfold State.laneGiven
  refine State.ite_keeps (P := fun x => x.rd (Reg.GAL_LJOBS n) = s.rd (Reg.GAL_LJOBS n) + 1 ∧ x.fld (Reg.GAL_LLAST n) 31 24 = a % 256) ?_ ?_
  · rw [State.setFld_wr, State.fld, State.rd_wr_other _ _ h2, State.rd_wr_other _ _ h3, State.rd_wr_other _ _ h1, State.inc_wr, State.rd_wr_same,
      State.rd_wr_same]
    exact ⟨rfl, hf⟩
  · rw [State.fld, State.rd_wr_other _ _ h1, State.inc_wr, State.rd_wr_same, State.rd_wr_same]
    exact ⟨rfl, hf⟩

/-! ## No free lane -/

theorem lawJobDispatch_of_full {i : Nat} (hf : s.freeLane = none) (hi : s.law.jobs.findIdx? (fun j => !j.waited) = some i) :
    lawJobDispatch s = ((s.setLawJobs (s.law.jobs.modify i (fun j => { j with waited := true }))).inc Reg.GAL_DWAIT_CNT).galEvt 24 := by
  unfold lawJobDispatch
  rw [hf]
  dsimp only
  rw [hi]

/-! ## Completion -/

/-- A halfword reads as signed by its low 16 bits. -/
theorem sgn_congr {m n : Nat} (h : m % 65536 = n % 65536) : sgn 16 m = sgn 16 n := by
  simp only [sgn, show (2 : Nat) ^ 16 = 65536 from rfl, h]

/-- A signed halfword reads back. -/
theorem sgn_wrapN {i : Int} (h1 : -32768 ≤ i) (h2 : i ≤ 32767) : sgn 16 (wrapN 16 i) = i := by
  simp only [sgn, wrapN]
  split_ifs <;> omega

theorem wrapN_lt (i : Int) : wrapN 16 i < 65536 := by
  unfold wrapN
  omega

theorem pack16_toNat (lo hi : Int) : (pack16 lo hi).toNat = wrapN 16 hi * 65536 + wrapN 16 lo := by
  have h1 := wrapN_lt lo
  have h2 := wrapN_lt hi
  rw [pack16, BitVec.toNat_ofNat]
  omega

/-- The upper half of a packed word. -/
theorem hiS_pack16 (lo : Int) {hi : Int} (h1 : -32768 ≤ hi) (h2 : hi ≤ 32767) : hiS (pack16 lo hi) = hi := by
  have h := wrapN_lt lo
  rw [hiS, pack16_toNat, Nat.shiftRight_eq_div_pow, show (wrapN 16 hi * 65536 + wrapN 16 lo) / 2 ^ 16 = wrapN 16 hi by omega, sgn_wrapN h1 h2]

/-- The lower half of a packed word. -/
theorem loS_pack16 {lo : Int} (hi : Int) (h1 : -32768 ≤ lo) (h2 : lo ≤ 32767) : loS (pack16 lo hi) = lo := by
  rw [loS, pack16_toNat, sgn_congr (n := wrapN 16 lo) (by omega), sgn_wrapN h1 h2]

theorem loS_range (w : Word) : -32768 ≤ loS w ∧ loS w ≤ 32767 := by
  simp only [loS, sgn]
  split <;> omega

theorem clampI_range (i : Int) : -32768 ≤ clampI (-32768) 32767 i ∧ clampI (-32768) 32767 i ≤ 32767 := by
  unfold clampI
  split_ifs <;> omega

/-- The slack of a job and its minimum, and the run of jobs with little slack, as lane n shows them (R78). -/
theorem State.slackRecord_spec (s : State) (n : Nat) {slack : Int} (h1 : -32768 ≤ slack) (h2 : slack ≤ 32767) (late : Bool) :
    hiS ((s.slackRecord n slack late).rd (Reg.GAL_LSLK n)) = slack
      ∧ loS ((s.slackRecord n slack late).rd (Reg.GAL_LSLK n)) = min (loS (s.rd (Reg.GAL_LSLK n))) slack
      ∧ (s.slackRecord n slack late).fld (Reg.GAL_LRUN n) 12 0 = if late ∨ slack < 40 then min 4096 (s.fld (Reg.GAL_LRUN n) 12 0 + 1) else 0 := by
  have hr := loS_range (s.rd (Reg.GAL_LSLK n))
  have hne : Reg.GAL_LRUN n ≠ Reg.GAL_LSLK n := by simp only [Reg.GAL_LRUN, Reg.GAL_LSLK]; omega
  have hv : (s.slackRecord n slack late).rd (Reg.GAL_LSLK n) = pack16 (min (loS (s.rd (Reg.GAL_LSLK n))) slack) slack := by
    rw [State.slackRecord, State.setLane_rd, State.setFld_wr, State.rd_wr_other _ _ hne.symm, State.rd_wr_same]
  refine ⟨by rw [hv, hiS_pack16 _ h1 h2], by rw [hv, loS_pack16 _ (by omega) (by omega)], ?_⟩
  have hrun : (s.wr (Reg.GAL_LSLK n) (pack16 (min (loS (s.rd (Reg.GAL_LSLK n))) slack) slack)).fld (Reg.GAL_LRUN n) 12 0
      = s.fld (Reg.GAL_LRUN n) 12 0 := by rw [State.fld, State.rd_wr_other _ _ hne]; rfl
  rw [State.slackRecord, State.fld, State.setLane_rd, hrun]
  refine (State.fld_setFld_same _ _ (by omega) (by omega) _).trans (Nat.mod_eq_of_lt ?_)
  split <;> omega

/-- The job is done: lane n records its slack, and its axis shows slack and lane. -/
def State.slackShown (s : State) (n : Nat) (a : Nat) (slack : Int) (late : Bool) : State :=
  let s := s.slackRecord n slack late
  s.setAxis a { s.axis a with slack := slack, lane := n }

/-- Beside the laws, the record of a slack changes two registers of its lane. -/
theorem State.onlyRegs_slackShown (s : State) (n a : Nat) (slack : Int) (late : Bool) :
    s.OnlyRegs { s.slackShown n a slack late with law := s.law } [Reg.GAL_LSLK n, Reg.GAL_LRUN n] :=
  ⟨rfl, (((State.RegsBut.refl s [Reg.GAL_LSLK n, Reg.GAL_LRUN n]).wr (a := Reg.GAL_LSLK n) (by simp) _).wr (a := Reg.GAL_LRUN n) (by simp) _ :)⟩

/-- A register other than the lane's slack and run stands. -/
theorem State.rd_slackShown (s : State) (n a : Nat) (slack : Int) (late : Bool) {r : Nat} (h1 : r ≠ Reg.GAL_LSLK n) (h2 : r ≠ Reg.GAL_LRUN n) :
    (s.slackShown n a slack late).rd r = s.rd r := (s.onlyRegs_slackShown n a slack late).regs r (by simp [h1, h2])

theorem State.lane_slackShown (s : State) {n k : Nat} (a : Nat) (slack : Int) (late : Bool) (hk : k ≠ n) :
    (s.slackShown n a slack late).lane k = s.lane k := State.lane_setLane_other _ _ _ hk

theorem State.axis_slackShown (s : State) (n a : Nat) (slack : Int) (late : Bool) :
    (s.slackShown n a slack late).axis a = { s.axis a with slack := slack, lane := n } := State.axis_setAxis_same _ _ _

/-- In time, the job latches its command. -/
theorem lawJobComplete_of_inTime {n stamp : Nat} {j : LaneJob} (hj : (s.lane n).job = some j) (he : j.ended = true) (hl : j.latched = false)
    (hh : j.held = false) (ht : stamp < j.rel * 32) {slack : Int} (hs : slack = clampI (-32768) 32767 ((((j.rel * 32 : Nat) : Int) - stamp) * 5 / 16)) :
    lawJobComplete n stamp s = (let u := s.slackShown n j.axis slack false
      let f := j.frameOut (u.fld (Reg.LAW_EVEC j.axis) 31 16) (min (u.fld (Reg.LAW_ESCALE j.axis) 12 8) 24)
      u.putJob n { j with latched := true, cmd := f.1, duty := f.2.1, vecLim := f.2.2 }) := by
  have hd : (j.held || decide (j.rel * 32 ≤ stamp)) = false := by simp [hh, ht]
  subst hs
  simp only [lawJobComplete, hj, he, hl, hd]
  rfl

/-- A late job of cycle cyc is counted, noted, and leaves lane n. -/
def State.lateLeft (s : State) (n : Nat) (cyc : Word) (stamp : Nat) : State :=
  let s := ((s.inc (Reg.GAL_LLATE n)).inc Reg.GAL_LATE_CNT).galEvt 28
  (s.setLane n { s.lane n with job := none }).capEventAt 6 n 0 cyc stamp

/-- Late, the axis holds and the job leaves its lane. -/
theorem lawJobComplete_of_late {n stamp : Nat} {j : LaneJob} (hj : (s.lane n).job = some j) (he : j.ended = true) (hl : j.latched = false)
    (ht : j.rel * 32 ≤ stamp) {slack : Int} (hs : slack = clampI (-32768) 32767 ((((j.rel * 32 : Nat) : Int) - stamp) * 5 / 16)) :
    lawJobComplete n stamp s = ((s.slackShown n j.axis slack true).lateHold n j).lateLeft n j.cyc stamp := by
  have hd : (j.held || decide (j.rel * 32 ≤ stamp)) = true := by simp [ht]
  subst hs
  simp only [lawJobComplete, hj, he, hl, hd]
  rfl

/-! ## A late job -/

@[simp] theorem State.axis_setLane (s : State) (n : Nat) (x : Lane) (a : Nat) : (s.setLane n x).axis a = s.axis a := rfl
@[simp] theorem State.lane_setAxis (s : State) (a : Nat) (x : AxisCtx) (n : Nat) : (s.setAxis a x).lane n = s.lane n := rfl

/-- A late hold counts once and is shown; the other registers of the axis's laws and of Galene stand. -/
theorem State.holdLate_spec (s : State) (a : Nat) :
    (s.holdLate a).law = (s.setAxis a { s.axis a with fLate := true }).law
      ∧ (s.holdLate a).rd (Reg.LAW_LATE_CNT a) = s.rd (Reg.LAW_LATE_CNT a) + 1 ∧ (s.holdLate a).bit (Reg.LAW_STAT a) 31 = true
      ∧ ∀ r, lawReg a r ∨ galReg r → r ≠ Reg.LAW_STAT a → r ≠ Reg.LAW_LATE_CNT a → (s.holdLate a).rd r = s.rd r := by
  have k := s.keepsLaw_holdLate a
  have hs : ∀ r, lawReg a r ∨ galReg r → (s.holdLate a).rd r = (s.lateShown a).rd r := fun r hr =>
    k.rd_eq hr (hr.elim lawReg_not_shadow galReg_not_shadow)
  have hne : Reg.LAW_STAT a ≠ Reg.LAW_LATE_CNT a := by simp only [Reg.LAW_STAT, Reg.LAW_LATE_CNT]; omega
  refine ⟨k.law, ?_, ?_, fun r hr h1 h2 => ?_⟩
  · rw [hs _ (.inl (lawReg_lateCnt a)), State.lateShown, State.setAxis_rd, State.inc_wr, State.rd_wr_same, State.setBit_wr, State.rd_wr_other _ _ hne.symm]
  · rw [State.bit, hs _ (.inl (lawReg_stat a)), State.lateShown, State.setAxis_rd, State.inc_wr, State.rd_wr_other _ _ hne]
    exact (s.bit_setBit _ _ _ _ (by decide)).trans (if_pos rfl)
  · rw [hs r hr, State.lateShown, State.setAxis_rd, State.inc_wr, State.rd_wr_other _ _ h2, State.setBit_wr, State.rd_wr_other _ _ h1]

/-- A late job stays on its lane, held, and its axis holds. -/
theorem State.lateHold_spec (s : State) (n : Nat) {j : LaneJob} (hh : j.held = false) :
    (s.lateHold n j).law = ((s.putJob n { j with held := true }).setAxis j.axis { s.axis j.axis with fLate := true }).law
      ∧ (s.lateHold n j).rd (Reg.LAW_LATE_CNT j.axis) = s.rd (Reg.LAW_LATE_CNT j.axis) + 1 ∧ (s.lateHold n j).bit (Reg.LAW_STAT j.axis) 31 = true
      ∧ ∀ r, lawReg j.axis r ∨ galReg r → r ≠ Reg.LAW_STAT j.axis → r ≠ Reg.LAW_LATE_CNT j.axis → (s.lateHold n j).rd r = s.rd r := by
  have e : s.lateHold n j = ((s.putJob n { j with held := true }).lrnEnd j.axis j.learn true).holdLate j.axis := if_neg (by simp [hh])
  have k := (State.KeepsLaw.refl (s.putJob n { j with held := true }) (learnRegs j.axis)).lrnEnd j.learn true
  have hr : ∀ r, lawReg j.axis r ∨ galReg r → ((s.putJob n { j with held := true }).lrnEnd j.axis j.learn true).rd r = s.rd r := fun r hr =>
    k.rd_eq hr (hr.elim lawReg_not_learn galReg_not_learn)
  obtain ⟨hl, hc, hb, ho⟩ := State.holdLate_spec ((s.putJob n { j with held := true }).lrnEnd j.axis j.learn true) j.axis
  rw [e]
  refine ⟨?_, by rw [hc, hr _ (.inl (lawReg_lateCnt _))], hb, fun r h h1 h2 => (ho r h h1 h2).trans (hr r h)⟩
  rw [hl, State.axis_congr k.law]
  simp only [State.setAxis, k.law]
  rfl

/-- Lane n is free, and its count, the unit's count and GAL_EVT show the late job. -/
theorem State.lateLeft_spec (s : State) {n : Nat} (hn : n < 18) (cyc : Word) (stamp : Nat) :
    (s.lateLeft n cyc stamp).law = (s.setLane n { s.lane n with job := none }).law
      ∧ (s.lateLeft n cyc stamp).rd (Reg.GAL_LLATE n) = s.rd (Reg.GAL_LLATE n) + 1
      ∧ (s.lateLeft n cyc stamp).rd Reg.GAL_LATE_CNT = s.rd Reg.GAL_LATE_CNT + 1 ∧ (s.lateLeft n cyc stamp).bit Reg.GAL_EVT 28 = true
      ∧ ∀ a r, lawReg a r → (s.lateLeft n cyc stamp).rd r = s.rd r := by
  obtain ⟨w, hw⟩ : ∃ w, w = (s.inc (Reg.GAL_LLATE n)).inc Reg.GAL_LATE_CNT := ⟨_, rfl⟩
  have hwl : w.law = s.law := by rw [hw]; rfl
  have g : w.KeepsLaw (w.galEvt 28) [Reg.GAL_EVT] := (State.KeepsLaw.refl w _).raise (by simp) 0 _
  have hl : (w.galEvt 28).law = s.law := g.law.trans hwl
  have e : s.lateLeft n cyc stamp = ((w.galEvt 28).setLane n { (w.galEvt 28).lane n with job := none }).capEventAt 6 n 0 cyc stamp := by rw [hw]; rfl
  have k := (State.KeepsLaw.refl ((w.galEvt 28).setLane n { (w.galEvt 28).lane n with job := none }) []).noticed
    ((State.OnlyNoticed.refl _ []).capEventAt 6 n 0 cyc stamp)
  rw [← e] at k
  have hx : ∀ {a r}, lawReg a r ∨ galReg r → (s.lateLeft n cyc stamp).rd r = (w.galEvt 28).rd r := fun hr => k.rd_eq hr (by simp)
  have hne : Reg.GAL_LLATE n ≠ Reg.GAL_LATE_CNT := by simp only [Reg.GAL_LLATE, Reg.GAL_LATE_CNT]; omega
  have hev : Reg.GAL_LLATE n ≠ Reg.GAL_EVT := by simp only [Reg.GAL_LLATE, Reg.GAL_EVT]; omega
  refine ⟨?_, ?_, ?_, ?_, fun a r hr => ?_⟩
  · rw [k.law, State.lane_congr hl]
    simp only [State.setLane, hl]
  · rw [hx (a := 0) (.inr (galReg_llate hn)), g.rd_eq (a := 0) (.inr (galReg_llate hn)) (by simpa using hev), hw, State.inc_wr, State.rd_wr_other _ _ hne,
      State.inc_wr, State.rd_wr_same]
  · rw [hx (a := 0) (.inr galReg_lateCnt), g.rd_eq (a := 0) (.inr galReg_lateCnt) (by decide), hw, State.inc_wr _ Reg.GAL_LATE_CNT, State.rd_wr_same,
      State.inc_wr, State.rd_wr_other _ _ hne.symm]
  · rw [State.bit, hx (a := 0) (.inr galReg_evt)]
    exact w.bit_galEvt_same (by omega)
  · rw [hx (.inl hr), g.rd_eq (.inl hr) (by simpa using lawReg_ne_gal hr galReg_evt), hw, State.inc_wr,
      State.rd_wr_other _ _ (lawReg_ne_gal hr galReg_lateCnt), State.inc_wr, State.rd_wr_other _ _ (lawReg_ne_gal hr (galReg_llate hn))]

/-! ## Release -/

/-- A loop of which one step alone changes anything is that step. -/
theorem State.each_only {α : Type} {f : α → State → State} {x : α} : ∀ {l : List α}, l.Nodup → x ∈ l → (∀ y ∈ l, y ≠ x → f y s = s) →
    (∀ y ∈ l, y ≠ x → f y (f x s) = f x s) → s.each l f = f x s
  | [], _, hx, _, _ => absurd hx (by simp)
  | y :: l, hn, hx, h0, h1 => by
    obtain ⟨hy, hn⟩ := List.nodup_cons.1 hn
    rw [State.each_cons]
    rcases List.mem_cons.1 hx with rfl | hx
    · exact State.each_fixed fun z hz => h1 z (List.mem_cons_of_mem _ hz) (by rintro rfl; exact hy hz)
    · have hyx : y ≠ x := by rintro rfl; exact hy hx
      rw [h0 y (by simp) hyx]
      exact State.each_only hn hx (fun z hz => h0 z (List.mem_cons_of_mem _ hz)) fun z hz => h1 z (List.mem_cons_of_mem _ hz)

/-- What the release instant of trigger r does with the job of lane n. -/
def State.releaseLane (r : Trigger) (n : Nat) (s : State) : State :=
  match (s.lane n).job with
  | none => s
  | some j =>
    if !s.triggeredBy j.axis r || j.held then s
    else if !s.lawsRun then
      if j.latched then s.setLane n { s.lane n with job := none } else s.putJob n { j with held := true }
    else if j.latched then s.releaseJob n j
    else s.lateHold n j

theorem State.releaseLane_of_empty {r : Trigger} {n : Nat} (h : (s.lane n).job = none) : s.releaseLane r n = s := by rw [State.releaseLane, h]

theorem State.releaseLane_of_due {r : Trigger} {n : Nat} {j : LaneJob} (hj : (s.lane n).job = some j) (ht : s.triggeredBy j.axis r = true)
    (hh : j.held = false) (hr : s.lawsRun = true) : s.releaseLane r n = if j.latched then s.releaseJob n j else s.lateHold n j := by
  simp [State.releaseLane, hj, ht, hh, hr]

/-- Where no job waits for a lane and one lane alone has a job, the release instant is that lane's. -/
theorem State.releaseJobs_of_one {r : Trigger} {n : Nat} (hn : n < 18) (hj : s.law.jobs = [])
    (h0 : ∀ k, k < 18 → k ≠ n → (s.lane k).job = none) (h1 : ∀ k, k < 18 → k ≠ n → ((s.releaseLane r n).lane k).job = none) :
    s.releaseJobs r = s.releaseLane r n := by
  have e : s.releaseJobs r = (s.each (s.law.jobs.filter (fun q => s.triggeredBy q.axis r)) (fun q s => s.withdraw q)).each (List.range 18)
      (fun n s => s.releaseLane r n) := rfl
  rw [e, hj]
  exact State.each_only (f := fun n s => s.releaseLane r n) List.nodup_range (List.mem_range.2 hn)
    (fun k hk hkn => State.releaseLane_of_empty (h0 k (List.mem_range.1 hk) hkn))
    fun k hk hkn => State.releaseLane_of_empty (h1 k (List.mem_range.1 hk) hkn)

/-! ### The release of a latched job -/

/-- The axis's context once job j is released. -/
def LaneJob.releasedAxis (j : LaneJob) (c : AxisCtx) : AxisCtx :=
  { c with x := j.xAfter c.x, cmd := j.cmd, released := true, id := intAt j.m 4, iq := intAt j.m 5, c := intAt j.m 9,
           fRel := true, fU0 := c.fU0 || j.usat0, fU1 := c.fU1 || j.usat1, fVec := c.fVec || j.vecLim }

theorem LaneJob.getElem?_xAfter (j : LaneJob) (x : List Nat) {i : Nat} (hi : i < 6) :
    (j.xAfter x)[i]? = if j.sfrz then x[i]? else some (((j.xNew[i]?).getD none).getD ((x[i]?).getD 0)) := by
  unfold LaneJob.xAfter
  split
  · rfl
  · simp [List.getElem?_map, List.getElem?_range hi]

@[simp] theorem State.rd_when_takeFree (s : State) (b : Bool) (a : Nat) : (s.when b State.takeFree).rd a = s.rd a := by cases b <;> rfl
@[simp] theorem State.law_when_takeFree (s : State) (b : Bool) : (s.when b State.takeFree).law = s.law := by cases b <;> rfl
@[simp] theorem State.hall_when_takeFree (s : State) (b : Bool) : (s.when b State.takeFree).hall = s.hall := by cases b <;> rfl
@[simp] theorem State.pv_when_takeFree (s : State) (b : Bool) : (s.when b State.takeFree).pv = s.pv := by cases b <;> rfl
@[simp] theorem State.cap_when_takeFree (s : State) (b : Bool) : (s.when b State.takeFree).cap = s.cap := by cases b <;> rfl

/-- v is s once the registers of job j's axis show what it releases, and its lane n is free. -/
structure State.Shown (s v : State) (n : Nat) (j : LaneJob) : Prop where
  law : v.law = ((s.setAxis j.axis (j.releasedAxis (s.axis j.axis))).setLane n { s.lane n with job := none }).law
  x01 : v.rd (Reg.LAW_X01 j.axis) = packX (j.xAfter (s.axis j.axis).x) 0
  err01 : v.rd (Reg.LAW_ERR01 j.axis) = pack16 (intAt j.m 0) (intAt j.m 1)
  out : v.rd (Reg.LAW_OUT j.axis) = pack16 (intAt j.us 0) (intAt j.us 1)
  relCyc : v.rd (Reg.LAW_REL_CYC j.axis) = j.cyc
  lateCnt : v.rd (Reg.LAW_LATE_CNT j.axis) = s.rd (Reg.LAW_LATE_CNT j.axis)
  memory : v.hall = s.hall ∧ v.pv = s.pv ∧ v.cap = s.cap

/-- A release shows what the job releases, sends its command and lets the learner end it. -/
theorem State.releaseJob_shown (s : State) (n : Nat) (j : LaneJob) :
    ∃ v, s.Shown v n j ∧ s.releaseJob n j = (v.redeliver j.axis).lrnEnd j.axis j.learn false := by
  unfold State.releaseJob
  extract_lets a c x s₁ s₂ s₃ s₄ d s₅ s₆ s₇ s₈
  refine ⟨s₈.setLane n { s₈.lane n with job := none }, ?_, rfl⟩
  constructor
  case law =>
    simp [s₈, s₇, s₆, s₅, s₄, s₃, s₂, s₁, x, c, a, State.orBits_wr, State.setLane, State.lane, LaneJob.releasedAxis, State.setAxis]
  case memory => simp [s₈, s₇, s₆, s₅, s₄, s₃, s₂, s₁, State.orBits_wr]
  all_goals simp [s₈, s₇, s₆, s₅, s₄, s₃, s₂, s₁, x, c, a, State.orBits_wr, State.rd_wr, Reg.LAW_X01, Reg.LAW_X23, Reg.LAW_X45, Reg.LAW_ERR01,
    Reg.LAW_ERR23, Reg.LAW_OUT, Reg.LAW_DUTY01, Reg.LAW_DUTY2, Reg.LAW_REL_CYC, Reg.LAW_STAT, Reg.LAW_LATE_CNT]

/-- What a released job leaves: its axis's context, a free lane, and the registers that show it. -/
theorem State.releaseJob_spec (s : State) (n : Nat) (j : LaneJob) : ∃ v, s.Shown v n j ∧ v.KeepsLaw (s.releaseJob n j) (shadowRegs ++ learnRegs j.axis)
    ∧ (j.learn.on = false → v.OnlyRegs (s.releaseJob n j) shadowRegs) := by
  obtain ⟨v, hv, e⟩ := s.releaseJob_shown n j
  have k : v.KeepsLaw (v.redeliver j.axis) (shadowRegs ++ learnRegs j.axis) :=
    (State.KeepsLaw.refl v _).only (v.onlyRegs_redeliver j.axis) fun _ h => List.mem_append_left _ h
  refine ⟨v, hv, ?_, fun h => ?_⟩
  · rw [e]
    exact k.trans (((State.KeepsLaw.refl _ (learnRegs j.axis)).lrnEnd j.learn false).mono fun _ h => List.mem_append_right _ h)
  · rw [e, State.lrnEnd_of_off h]
    exact v.onlyRegs_redeliver j.axis

theorem State.Shown.lane_other {v : State} {n k : Nat} {j : LaneJob} (h : s.Shown v n j) (hk : k ≠ n) : v.lane k = s.lane k := by
  rw [State.lane_congr h.law, State.lane_setLane_other _ _ _ hk, State.lane_setAxis]

/-! ### The slot's frame after the release -/

/-- t is s but for Torone's state, the registers of l and the delivery of interrupts. -/
structure State.OnlySegment (s t : State) (l : List Nat) : Prop where
  rest : { t with trn := s.trn, regs := s.regs, tsu := { t.tsu with cores := s.tsu.cores } } = s
  regs : s.RegsBut t (l ++ deliveryRegs)

namespace State.OnlySegment

theorem refl (s : State) (l : List Nat) : s.OnlySegment s l := ⟨rfl, .refl s _⟩

theorem wr (h : s.OnlySegment t l) {a : Nat} (ha : a ∈ l) (v : Word) : s.OnlySegment (t.wr a v) l := ⟨h.rest, h.regs.wr (List.mem_append_left _ ha) v⟩

theorem trn (h : s.OnlySegment t l) (x : TrnBlock) : s.OnlySegment { t with trn := x } l := ⟨h.rest, h.regs⟩

theorem setNode (h : s.OnlySegment t l) (n k : Nat) (x : NodeCtx) : s.OnlySegment (t.setNode n k x) l := ⟨h.rest, h.regs⟩

theorem mono (h : s.OnlySegment t l) (hm : ∀ a ∈ l, a ∈ m) : s.OnlySegment t m :=
  ⟨h.rest, h.regs.mono fun a ha => (List.mem_append.1 ha).elim (fun ha => List.mem_append_left _ (hm a ha)) (List.mem_append_right _)⟩

theorem raised (h : s.OnlySegment t l) (k : t.OnlyRaised u l) : s.OnlySegment u l :=
  ⟨((congrArg (fun x : State => { x with trn := s.trn, regs := s.regs, tsu := { x.tsu with cores := s.tsu.cores } }) k.rest :)).trans h.rest,
    h.regs.trans k.regs⟩

theorem raise (h : s.OnlySegment t l) {e : Nat} (he : e ∈ l) (n : Nat) (w : Word) : s.OnlySegment (t.raise n e w) l :=
  h.raised ((State.OnlyRaised.refl t l).raise he n w)

theorem frame (h : s.OnlySegment t l) (k : t.OnlyTrn u l) : s.OnlySegment u l :=
  ⟨((congrArg (fun x : State => { x with trn := s.trn, regs := s.regs, tsu := { x.tsu with cores := s.tsu.cores } }) k.rest :)).trans h.rest,
    h.regs.trans (k.regs.mono fun _ ha => List.mem_append_left _ ha)⟩

theorem law_eq (h : s.OnlySegment t l) : t.law = s.law := (congrArg State.law h.rest :)

theorem sameMemory (h : s.OnlySegment t l) : s.SameMemory t := ⟨(congrArg State.hall h.rest :), (congrArg State.pv h.rest :), (congrArg (·.cap.dram) h.rest :)⟩

end State.OnlySegment

/-- The registers that the end of slot k of segment n may change. -/
def slotRegs (n k : Nat) : List Nat :=
  [Reg.TRN_PLOSS n 0, Reg.TRN_PLOSS n 1, Reg.TRN_PSTAT n 0, Reg.TRN_PSTAT n 1, Reg.TRN_ABEVT n, Reg.TRN_NODE_RES n k, Reg.TRN_PTX n 0, Reg.TRN_PTX n 1]

theorem State.OnlySegment.portLoss {n k ch : Nat} (h : s.OnlySegment t (slotRegs n k)) (hc : ch < 2) : s.OnlySegment (t.portLoss n ch) (slotRegs n k) := by
  have h1 : Reg.TRN_PLOSS n ch ∈ slotRegs n k := by
    obtain rfl | rfl : ch = 0 ∨ ch = 1 := by omega
    all_goals simp [slotRegs]
  have h2 : Reg.TRN_PSTAT n ch ∈ slotRegs n k := by
    obtain rfl | rfl : ch = 0 ∨ ch = 1 := by omega
    all_goals simp [slotRegs]
  exact State.when_keeps (P := fun x => s.OnlySegment x (slotRegs n k)) _ h ((h.wr h1 _).raise h2 _ _)

theorem State.OnlySegment.countLoss {n k : Nat} (h : s.OnlySegment t (slotRegs n k)) (r : SlotRx) : s.OnlySegment (t.countLoss n r) (slotRegs n k) := by
  unfold State.countLoss
  split
  · exact (h.portLoss (by omega)).raise (by simp [slotRegs]) _ _
  · exact (h.portLoss (by omega)).raise (by simp [slotRegs]) _ _
  · exact h

theorem State.OnlySegment.closeSlot {n k : Nat} (h : s.OnlySegment t (slotRegs n k)) : s.OnlySegment (t.closeSlot n k) (slotRegs n k) := by
  unfold State.closeSlot
  split
  · exact h
  · dsimp only
    split
    · exact h
    · next c _ _ =>
      have k₁ := (h.trn (t.setSlotRx n k { t.slotRx n k c with closed := true }).trn).countLoss (t.slotRx n k c)
      split
      · exact State.ite_keeps (P := fun x => s.OnlySegment x (slotRegs n k)) ((k₁.trn _).wr (by simp [slotRegs]) _) k₁
      · exact k₁

theorem State.OnlySegment.commandFrame {n k : Nat} (h : s.OnlySegment t (slotRegs n k)) : s.OnlySegment (t.commandFrame n k) (slotRegs n k) := by
  unfold State.commandFrame
  split
  · exact h
  · dsimp only
    exact State.ite_keeps (P := fun x => s.OnlySegment x (slotRegs n k)) h
      ((h.frame ((State.OnlyTrn.refl t _).sendFrame (by simp [slotRegs]) (by simp [slotRegs]) _ _ _ _ _)).trn _)

theorem lawReg_not_slot {a r : Nat} (n : Fin 12) (k : Fin 32) (h : lawReg a r) : r ∉ slotRegs n k ++ deliveryRegs := by
  obtain ⟨o, rfl, h1, h2⟩ := h
  intro hm
  rcases List.mem_append.1 hm with hm | hm
  · simp only [slotRegs, Reg.TRN_PLOSS, Reg.TRN_PSTAT, Reg.TRN_ABEVT, Reg.TRN_NODE_RES, Reg.TRN_PTX, List.mem_cons, List.not_mem_nil, or_false] at hm
    omega
  · have kd : ∀ b ∈ deliveryRegs, b < 0x40100000 := by decide
    have := kd _ hm
    omega

/-- After the jobs' release, an instant changes Torone's state, its registers and the delivery of interrupts alone. -/
theorem releaseInstant_segment (s : State) (r : Trigger) : (releaseInstant r s).law = (s.releaseJobs r).law ∧ (s.releaseJobs r).SameMemory (releaseInstant r s)
    ∧ ∀ a x, lawReg a x → (releaseInstant r s).rd x = (s.releaseJobs r).rd x := by
  cases r with
  | group g =>
    rw [show releaseInstant (.group g) s = s.releaseJobs (.group g) from rfl]
    exact ⟨rfl, ⟨rfl, rfl, rfl⟩, fun _ _ _ => rfl⟩
  | slot n k =>
    obtain ⟨x, e⟩ : ∃ x, releaseInstant (.slot n k) s = (((s.releaseJobs (.slot n k)).closeSlot n k).commandFrame n k).setNode n k x := ⟨_, rfl⟩
    have h := (((State.OnlySegment.refl (s.releaseJobs (.slot n k)) (slotRegs n k)).closeSlot).commandFrame).setNode n k x
    rw [e]
    exact ⟨h.law_eq, h.sameMemory, fun a x hx => h.regs x (lawReg_not_slot n k hx)⟩

/-- At its trigger's instant the latched job of the only lane with one is released. -/
theorem releaseInstant_latched {r : Trigger} {n : Nat} {j : LaneJob} (hn : n < 18) (hjobs : s.law.jobs = []) (hj : (s.lane n).job = some j)
    (hothers : ∀ k, k < 18 → k ≠ n → (s.lane k).job = none) (ht : s.triggeredBy j.axis r = true) (hh : j.held = false) (hr : s.lawsRun = true)
    (hl : j.latched = true) : ∃ v, s.Shown v n j ∧ (releaseInstant r s).law = v.law ∧ (∀ x, lawReg j.axis x → (releaseInstant r s).rd x = v.rd x)
      ∧ (j.learn.on = false → s.SameMemory (releaseInstant r s)) := by
  obtain ⟨hlaw, hmem, hrd⟩ := releaseInstant_segment s r
  obtain ⟨v, hv, k, hoff⟩ := s.releaseJob_spec n j
  have hd := State.releaseLane_of_due hj ht hh hr
  rw [if_pos hl] at hd
  have hone := State.releaseJobs_of_one (r := r) hn hjobs hothers fun i hi hin => by
    rw [hd, State.lane_congr k.law, hv.lane_other hin]
    exact hothers i hi hin
  rw [hone, hd] at hlaw hmem hrd
  refine ⟨v, hv, hlaw.trans k.law, fun x hx => (hrd _ x hx).trans (k.rd_eq (.inl hx) fun hm => ?_), fun h => ?_⟩
  · exact (List.mem_append.1 hm).elim (lawReg_not_shadow hx) (lawReg_not_learn hx)
  · obtain ⟨hhall, hpv, hcap⟩ := hv.memory
    have hs := (hoff h).sameMemory
    exact ⟨(hmem.hall.trans hs.hall).trans hhall, (hmem.pv.trans hs.pv).trans hpv, (hmem.dram.trans hs.dram).trans (congrArg CapBlock.dram hcap)⟩

/-- A job that is not latched by then is late: its axis holds. -/
theorem releaseInstant_unlatched {r : Trigger} {n : Nat} {j : LaneJob} (hn : n < 18) (hjobs : s.law.jobs = []) (hj : (s.lane n).job = some j)
    (hothers : ∀ k, k < 18 → k ≠ n → (s.lane k).job = none) (ht : s.triggeredBy j.axis r = true) (hh : j.held = false) (hr : s.lawsRun = true)
    (hl : j.latched = false) : (releaseInstant r s).law = (s.lateHold n j).law ∧ ∀ x, lawReg j.axis x → (releaseInstant r s).rd x = (s.lateHold n j).rd x := by
  obtain ⟨hlaw, hmem, hrd⟩ := releaseInstant_segment s r
  obtain ⟨klaw, -⟩ := s.lateHold_spec n hh
  have hd := State.releaseLane_of_due hj ht hh hr
  rw [if_neg (by simp [hl])] at hd
  have hone := State.releaseJobs_of_one (r := r) hn hjobs hothers fun i hi hin => by
    rw [hd, State.lane_congr klaw, State.lane_setAxis, State.putJob, State.lane_setLane_other _ _ _ hin]
    exact hothers i hi hin
  rw [hone, hd] at hlaw hrd
  exact ⟨hlaw, hrd _⟩

/-! ## The statement -/

/-- Settles O48: dispatch, completion and release, each by what its steps leave alone. -/
theorem jobsToRelease : Obligations.JobsToRelease := by
  unfold Obligations.JobsToRelease
  refine ⟨?_, ?_, ?_, ?_, ?_⟩
  · intro s n q rest hf hj
    obtain ⟨jobs, lanes, hx, trn, fbk, pwm, hall, regs⟩ := (s.setLawJobs rest).startJob_started q
    have hb : ∀ w, w < 51 → ((s.setLawJobs rest).startJob q).2.cbus q.axis w = s.rd (Reg.LAW_ACT_BANK q.axis w) :=
      fun w hw => regs _ (.inl (lawReg_bank _ hw))
    have hoff : s.lrnOn q.axis = false → ((s.setLawJobs rest).startJob q).2 = s.setLawJobs rest := State.startJob_of_off (s := s.setLawJobs rest)
    have hu0 : ((s.setLawJobs rest).startJob q).1.ulim0 = s.rd (Reg.LAW_ACT_BANK q.axis 49) := hb 49 (by omega)
    have hu1 : ((s.setLawJobs rest).startJob q).1.ulim1 = s.rd (Reg.LAW_ACT_BANK q.axis 50) := hb 50 (by omega)
    have hxj : ((s.setLawJobs rest).startJob q).1.x = (s.axis q.axis).x := hx
    refine ⟨_, ((s.setLawJobs rest).startJob q).1, congrArg Host.Outcome.next (lawJobDispatch_of_free hf hj), ?_⟩
    generalize ((s.setLawJobs rest).startJob q).2 = u at *
    have g := u.onlyRegs_laneGiven n ((s.setLawJobs rest).startJob q).1 q.axis
    obtain ⟨hcount, hlast⟩ := u.rd_laneGiven n ((s.setLawJobs rest).startJob q).1 q.axis
    refine ⟨(congrArg LawBlock.jobs g.law_eq).trans jobs, ?_, fun i hi => ?_, rfl, rfl, rfl, rfl, hu0, hu1, hxj, rfl, rfl, rfl, rfl, ?_, hlast,
      g.pwm_eq.trans pwm, g.trn_eq.trans trn, g.fbk_eq.trans fbk, (congrArg HallBlock.bytes g.sameMemory.hall).trans (congrArg HallBlock.bytes hall),
      fun h => ?_⟩
    · rw [State.lane_congr g.law_eq, State.lane_setLane_same]
    · rw [State.lane_congr g.law_eq, State.lane_setLane_other _ _ _ hi, State.lane, lanes]
      rfl
    · rw [hcount, regs _ (.inr (galReg_ljobs (State.freeLane_lt hf)))]
      rfl
    · rw [hoff h] at g ⊢
      exact ⟨⟨g.sameMemory.hall, g.sameMemory.pv, g.sameMemory.dram⟩, g.regs⟩
  · intro s n hf hj
    refine congrArg Host.Outcome.next (?_ : lawJobDispatch s = s)
    unfold lawJobDispatch
    rw [hf]
    dsimp only
    rw [hj]
  · intro s i hf hi
    have g := ((s.setLawJobs (s.law.jobs.modify i (fun j => { j with waited := true }))).inc Reg.GAL_DWAIT_CNT).onlyRaised_galEvt 24
    refine ⟨_, congrArg Host.Outcome.next (lawJobDispatch_of_full hf hi), (congrArg (·.law.jobs) g.rest :), ?_, State.bit_galEvt_same _ (by omega), ?_⟩
    · exact (g.regs _ (by decide)).trans (State.rd_wr_same _ _ _)
    · refine ⟨(congrArg (fun x : State => { x with law := s.law, regs := s.regs, tsu := { x.tsu with cores := s.tsu.cores } }) g.rest :), fun a ha => ?_⟩
      simp only [List.cons_append, List.nil_append, List.mem_cons, not_or] at ha
      obtain ⟨hd, he, hi⟩ := ha
      exact (g.regs a (by simp [he, hi])).trans (State.rd_wr_other _ _ hd)
  · intro s n j stamp hj he hl hh slack hs
    obtain ⟨hlo, hhi⟩ := hs ▸ clampI_range ((((j.rel * 32 : Nat) : Int) - stamp) * 5 / 16)
    refine ⟨fun ht => ?_, fun ht => ?_⟩
    · obtain ⟨hslk, hmin, hrun⟩ := s.slackRecord_spec n hlo hhi false
      have g := s.onlyRegs_slackShown n j.axis slack false
      have hf : ∀ r hi lo, 0x40100000 ≤ r → (s.slackShown n j.axis slack false).fld r hi lo = s.fld r hi lo := fun r hi lo hr =>
        congrArg (wFld · hi lo) (s.rd_slackShown n j.axis slack false (by simp only [Reg.GAL_LSLK]; omega) (by simp only [Reg.GAL_LRUN]; omega))
      refine ⟨_, _, congrArg Host.Outcome.next (lawJobComplete_of_inTime hj he hl hh ht hs), congrArg Lane.job (State.lane_setLane_same _ _ _), rfl, ?_,
        hslk, hmin, hrun.trans (if_congr (by simp) rfl rfl), fun i hi => ?_, rfl, g⟩
      · rw [hf _ 31 16 (by simp only [Reg.LAW_EVEC]; omega), hf _ 12 8 (by simp only [Reg.LAW_ESCALE]; omega)]
      · exact (State.lane_setLane_other _ _ _ hi).trans (s.lane_slackShown j.axis slack false hi)
    · have hv := fun r => s.rd_slackShown n j.axis slack true (r := r)
      have hlanes := fun k (hk : k ≠ n.val) => s.lane_slackShown (n := n) j.axis slack true hk
      have haxis := s.axis_slackShown n j.axis slack true
      obtain ⟨hlaw, hcnt, hstat, hrd⟩ := (s.slackShown n j.axis slack true).lateHold_spec n hh
      have e := lawJobComplete_of_late hj he hl ht hs
      generalize s.slackShown n j.axis slack true = v at *
      generalize v.lateHold n j = w at *
      obtain ⟨elaw, ellate, elate, eevt, erd⟩ := w.lateLeft_spec n.isLt j.cyc stamp
      have hn := n.isLt
      have hax : ((w.lateLeft n j.cyc stamp).axis j.axis) = { v.axis j.axis with fLate := true } := by
        rw [State.axis_congr elaw, State.axis_setLane, State.axis_congr hlaw, State.axis_setAxis_same]
      refine ⟨_, congrArg Host.Outcome.next e, ?_, ?_, ?_, ?_, ?_, eevt, ?_, ?_, fun k hk => ?_⟩
      · rw [State.lane_congr elaw, State.lane_setLane_same]
      · rw [erd _ _ (lawReg_lateCnt _), hcnt, hv _ (lawReg_ne_gal (lawReg_lateCnt _) (galReg_lslk hn)) (lawReg_ne_gal (lawReg_lateCnt _) (galReg_lrun hn))]
      · rw [State.bit, erd _ _ (lawReg_stat _)]
        exact hstat
      · rw [ellate, hrd _ (.inr (galReg_llate hn)) (lawReg_ne_gal (lawReg_stat _) (galReg_llate hn)).symm
          (lawReg_ne_gal (lawReg_lateCnt _) (galReg_llate hn)).symm, hv _ (by simp only [Reg.GAL_LLATE, Reg.GAL_LSLK]; omega)
          (by simp only [Reg.GAL_LLATE, Reg.GAL_LRUN]; omega)]
      · rw [elate, hrd _ (.inr galReg_lateCnt) (lawReg_ne_gal (lawReg_stat _) galReg_lateCnt).symm
          (lawReg_ne_gal (lawReg_lateCnt _) galReg_lateCnt).symm, hv _ (by simp only [Reg.GAL_LATE_CNT, Reg.GAL_LSLK]; omega)
          (by simp only [Reg.GAL_LATE_CNT, Reg.GAL_LRUN]; omega)]
      · rw [hax, haxis]
      · rw [hax, haxis]
      · rw [State.lane_congr elaw, State.lane_setLane_other _ _ _ hk, State.lane_congr hlaw, State.lane_setAxis, State.putJob, State.lane_setLane_other _ _ _ hk,
          hlanes k hk]
  · intro s r n j hjobs hj hothers ht hh hr
    refine ⟨fun hl => ?_, fun hl => ?_⟩
    · obtain ⟨v, hv, hlaw, hrd, hmem⟩ := releaseInstant_latched n.isLt hjobs hj hothers ht hh hr hl
      have hax : ∀ a, (releaseInstant r s).axis a = (s.setAxis j.axis (j.releasedAxis (s.axis j.axis))).axis a := fun a => by
        rw [State.axis_congr hlaw, State.axis_congr hv.law, State.axis_setLane]
      have hx : (releaseInstant r s).axis j.axis = j.releasedAxis (s.axis j.axis) := by rw [hax, State.axis_setAxis_same]
      refine ⟨_, rfl, ?_, by rw [hx]; rfl, by rw [hx]; rfl, fun i hi => ?_, ?_, ?_, ?_, ?_, ?_, fun a ha => ?_, hmem⟩
      · rw [State.lane_congr hlaw, State.lane_congr hv.law, State.lane_setLane_same]
      · rw [hx]
        exact j.getElem?_xAfter _ hi
      · rw [hrd _ (lawReg_relCyc _), hv.relCyc]
      · rw [hrd _ (lawReg_out _), hv.out]
      · rw [hrd _ (lawReg_err01 _), hv.err01]
      · rw [hrd _ (lawReg_x01 _), hv.x01, hx]
        rfl
      · rw [hrd _ (lawReg_lateCnt _), hv.lateCnt]
      · rw [hax, State.axis_setAxis_other _ _ _ ha]
    · obtain ⟨hlaw, hrd⟩ := releaseInstant_unlatched n.isLt hjobs hj hothers ht hh hr hl
      obtain ⟨klaw, kcnt, kstat, krd⟩ := s.lateHold_spec n hh
      have hax : (releaseInstant r s).axis j.axis = { s.axis j.axis with fLate := true } := by
        rw [State.axis_congr hlaw, State.axis_congr klaw, State.axis_setAxis_same]
      refine ⟨_, { j with held := true }, rfl, ?_, rfl, ?_, ?_, ?_, by rw [hax], by rw [hax], ?_⟩
      · rw [State.lane_congr hlaw, State.lane_congr klaw, State.lane_setAxis, State.putJob, State.lane_setLane_same]
      · rw [← hh]
      · rw [hrd _ (lawReg_lateCnt _), kcnt]
      · rw [State.bit, hrd _ (lawReg_stat _)]
        exact kstat
      · rw [hrd _ (lawReg_out _), krd _ (.inl (lawReg_out _)) (by simp only [Reg.LAW_OUT, Reg.LAW_STAT]; omega)
          (by simp only [Reg.LAW_OUT, Reg.LAW_LATE_CNT]; omega)]

end Sys2Proof.Machine
end

section
/-! What a position record of an accepted frame leaves alone (R110 to R120). -/

namespace Sys2Proof.Machine

variable {s t u : State} {l m : List Nat}

/-! ## The frame -/

/-- A register of the sources, the contexts and the pass-through outputs. -/
def fedReg (a : Nat) : Prop := 0x40070000 ≤ a ∧ a < 0x40080000

/-- t is s but for the sources and outputs, their registers, and the notice of events in the queue of the capture engine. -/
structure State.OnlyFed (s t : State) : Prop where
  rest : { t with regs := s.regs, fbk := s.fbk, tsu := { t.tsu with cores := s.tsu.cores },
                  cap := { t.cap with queue := s.cap.queue, sess := s.cap.sess } } = s
  regs : ∀ a, ¬ fedReg a → a ∉ noticeRegs → t.rd a = s.rd a

theorem State.cap_raise (s : State) (n e : Nat) (w : Word) : (s.raise n e w).cap = s.cap :=
  (congrArg State.cap ((State.OnlyRaised.refl s [e]).raise (List.mem_singleton.2 rfl) n w).rest :)

/-- An event that waits for its record is not in the capture DRAM yet. -/
theorem State.dram_capEventAt (s : State) (k obj detail : Nat) (cyc : Word) (ft : Nat) : (s.capEventAt k obj detail cyc ft).cap.dram = s.cap.dram := by
  unfold State.capEventAt
  dsimp only
  split
  · rfl
  · split
    · rfl
    · exact State.each_keeps (P := fun u => u.cap.dram = s.cap.dram) rfl fun n _ u hu => (congrArg CapBlock.dram (State.cap_raise _ _ _ _)).trans hu

namespace State.OnlyFed

theorem refl (s : State) : s.OnlyFed s := ⟨rfl, fun _ _ _ => rfl⟩

theorem wr (h : s.OnlyFed t) {a : Nat} (ha : fedReg a) (v : Word) : s.OnlyFed (t.wr a v) :=
  ⟨h.rest, fun b hb hn => (State.rd_wr_other t v (by rintro rfl; exact hb ha)).trans (h.regs b hb hn)⟩

theorem setBit (h : s.OnlyFed t) {a : Nat} (ha : fedReg a) (i : Nat) (b : Bool) : s.OnlyFed (t.setBit a i b) := h.wr ha _

theorem setFld (h : s.OnlyFed t) {a : Nat} (ha : fedReg a) (hi lo v : Nat) : s.OnlyFed (t.setFld a hi lo v) := h.wr ha _

theorem incFld (h : s.OnlyFed t) {a : Nat} (ha : fedReg a) (hi lo : Nat) : s.OnlyFed (t.incFld a hi lo) := h.wr ha _

theorem setSource (h : s.OnlyFed t) (n : Nat) (c : Source) : s.OnlyFed (t.setSource n c) := ⟨h.rest, h.regs⟩

theorem setPout (h : s.OnlyFed t) (n : Nat) (c : PassOut) : s.OnlyFed (t.setPout n c) := ⟨h.rest, h.regs⟩

theorem noticed (h : s.OnlyFed t) (k : t.OnlyNoticed u []) (d : u.cap.dram = t.cap.dram) : s.OnlyFed u := by
  refine ⟨?_, fun a ha hn => (k.regs a (by simpa using hn)).trans (h.regs a ha hn)⟩
  have e : { u with regs := s.regs, fbk := s.fbk, tsu := { u.tsu with cores := s.tsu.cores },
                    cap := { u.cap with queue := s.cap.queue, sess := s.cap.sess, dram := t.cap.dram } } = s :=
    ((congrArg (fun x : State =>
      { x with regs := s.regs, fbk := s.fbk, tsu := { x.tsu with cores := s.tsu.cores },
               cap := { x.cap with queue := s.cap.queue, sess := s.cap.sess } }) k.rest :)).trans h.rest
  rw [← d] at e
  exact e

theorem fbkEvt (h : s.OnlyFed t) (i : Nat) : s.OnlyFed (t.fbkEvt i) :=
  (h.wr (a := Reg.FBK_EVT) ⟨by decide, by decide⟩ _).noticed (.of ((State.OnlyRaised.refl _ []).irqSettle 2))
    (congrArg (·.cap.dram) ((State.OnlyRaised.refl _ []).irqSettle 2).rest :)

theorem capEventAt (h : s.OnlyFed t) (k obj detail : Nat) (cyc : Word) (ft : Nat) : s.OnlyFed (t.capEventAt k obj detail cyc ft) :=
  h.noticed ((State.OnlyNoticed.refl t []).capEventAt k obj detail cyc ft) (State.dram_capEventAt _ _ _ _ _ _)

theorem trn_eq (h : s.OnlyFed t) : t.trn = s.trn := (congrArg State.trn h.rest :)
theorem tb_eq (h : s.OnlyFed t) : t.tb = s.tb := (congrArg State.tb h.rest :)
theorem law_eq (h : s.OnlyFed t) : t.law = s.law := (congrArg State.law h.rest :)
theorem pwm_eq (h : s.OnlyFed t) : t.pwm = s.pwm := (congrArg State.pwm h.rest :)
theorem sameMemory (h : s.OnlyFed t) : s.SameMemory t :=
  ⟨(congrArg State.hall h.rest :), (congrArg State.pv h.rest :), (congrArg (·.cap.dram) h.rest :)⟩

end State.OnlyFed

/-! ## A sample of a source -/

/-- The registers of source n, of the 528 there are. -/
theorem fedReg_src {n a : Nat} (hn : n < 528) (h1 : Reg.SRC_STAT n ≤ a) (h2 : a ≤ Reg.SRC_DIRFT n) : fedReg a := by
  simp only [Reg.SRC_STAT, Reg.SRC_DIRFT, fedReg] at *
  omega

theorem fedReg_srcStat {n : Nat} (hn : n < 528) : fedReg (Reg.SRC_STAT n) := fedReg_src hn (le_refl _) (by simp only [Reg.SRC_STAT, Reg.SRC_DIRFT]; omega)

namespace State.OnlyFed

theorem setRaw {n : Nat} (hn : n < 528) (h : s.OnlyFed t) (v : Int) : s.OnlyFed (t.setRaw n v) :=
  (h.wr (fedReg_src hn (by simp only [Reg.SRC_STAT, Reg.SRC_RAWLO]; omega) (by simp only [Reg.SRC_DIRFT, Reg.SRC_RAWLO]; omega)) _).wr
    (fedReg_src hn (by simp only [Reg.SRC_STAT, Reg.SRC_RAWHI]; omega) (by simp only [Reg.SRC_DIRFT, Reg.SRC_RAWHI]; omega)) _

theorem adopt (h : s.OnlyFed t) (n : Nat) : s.OnlyFed (t.adopt n) := h.setSource _ _

theorem fedReg_ecnt {n : Nat} (hn : n < 528) : fedReg (Reg.SRC_ECNT n) :=
  fedReg_src hn (by simp only [Reg.SRC_STAT, Reg.SRC_ECNT]; omega) (by simp only [Reg.SRC_DIRFT, Reg.SRC_ECNT]; omega)

theorem srcErr {n : Nat} (hn : n < 528) (h : s.OnlyFed t) (i e : Nat) : s.OnlyFed (t.srcErr n i e) :=
  ((h.setBit (fedReg_srcStat hn) _ _).incFld (fedReg_ecnt hn) _ _).fbkEvt _

/-- A direction change of a source (R115). -/
theorem direction {n : Nat} (hn : n < 528) (h : s.OnlyFed t) (neg : Bool) (cyc : Word) (ft : Nat) : s.OnlyFed (t.direction n neg cyc ft) := by
  unfold State.direction
  extract_lets c u v
  have hu : s.OnlyFed u := h.setBit (fedReg_srcStat hn) _ _
  have hv : s.OnlyFed v :=
    (((hu.setSource _ _).setBit (fedReg_srcStat hn) _ _).wr
      (fedReg_src hn (by simp only [Reg.SRC_STAT, Reg.SRC_DIRCYC]; omega) (by simp only [Reg.SRC_DIRFT, Reg.SRC_DIRCYC]; omega)) _).wr
      (fedReg_src hn (by simp only [Reg.SRC_STAT, Reg.SRC_DIRFT]; omega) (le_refl _)) _
  split
  · exact hu.setSource _ _
  · split
    · exact h
    · split
      · exact (hv.fbkEvt _).capEventAt _ _ _ _ _
      · exact hv

theorem countEdge {n : Nat} (hn : n < 528) (h : s.OnlyFed t) (te d : Int) (cyc : Word) (ft : Nat) : s.OnlyFed (t.countEdge n te d cyc ft) :=
  (direction hn h _ _ _).setSource _ _

/-- An index event of a source (R114). -/
theorem indexAt {n : Nat} (hn : n < 528) (h : s.OnlyFed t) (rawAt : Int) (cyc : Word) (ft : Nat) : s.OnlyFed (t.indexAt n rawAt cyc ft) := by
  unfold State.indexAt
  extract_lets c u v exp tol w
  have hv : s.OnlyFed v := ((h.setBit (fedReg_srcStat hn) _ _).wr
    (fedReg_src hn (by simp only [Reg.SRC_STAT, Reg.SRC_IDXLO]; omega) (by simp only [Reg.SRC_DIRFT, Reg.SRC_IDXLO]; omega)) _).setSource _ _
  refine State.OnlyFed.capEventAt ?_ _ _ _ _ _
  unfold w
  split
  · exact hv
  · split
    · exact hv.setBit (fedReg_srcStat hn) _ _
    · extract_lets d x
      have hx : s.OnlyFed x :=
        hv.wr (fedReg_src hn (by simp only [Reg.SRC_STAT, Reg.SRC_IDXD]; omega) (by simp only [Reg.SRC_DIRFT, Reg.SRC_IDXD]; omega)) _
      split
      · exact ((hx.setBit (fedReg_srcStat hn) _ _).incFld (fedReg_ecnt hn) _ _).fbkEvt _
      · exact hx

theorem reportAt {n : Nat} (hn : n < 528) (h : s.OnlyFed t) : s.OnlyFed (t.reportAt n) := by
  unfold State.reportAt
  extract_lets c v below above pos st st' u
  have hu : s.OnlyFed u := (h.wr (fedReg_srcStat hn) _).wr
    (fedReg_src hn (by simp only [Reg.SRC_STAT, Reg.SRC_POS]; omega) (by simp only [Reg.SRC_DIRFT, Reg.SRC_POS]; omega)) _
  split
  · exact hu.fbkEvt _
  · exact hu

theorem speedAt {n : Nat} (hn : n < 528) (h : s.OnlyFed t) (tm : Int) : s.OnlyFed (t.speedAt n tm) :=
  ((h.wr (fedReg_srcStat hn) _).wr
    (fedReg_src hn (by simp only [Reg.SRC_STAT, Reg.SRC_SPD]; omega) (by simp only [Reg.SRC_DIRFT, Reg.SRC_SPD]; omega)) _).setSource _ _

/-- The target of a pass-through output at a sample of its source (R120). -/
theorem ptTarget {m : Nat} (hm : m < 8) (h : s.OnlyFed t) (n : Nat) (tm : Int) : s.OnlyFed (t.ptTarget m n tm) := by
  have hs : fedReg (Reg.FBK_PT_STAT m) := by simp only [fedReg, Reg.FBK_PT_STAT]; omega
  unfold State.ptTarget
  split
  · exact h
  · extract_lets u p k tgt ovf out v w
    have hu : s.OnlyFed u := State.ite_keeps (P := fun x => s.OnlyFed x) (h.setPout _ _) h
    have hw : s.OnlyFed w := (((hu.setPout _ _).setPout _ _).setBit hs _ _).setFld hs _ _ _
    split
    · exact hu
    · split
      · exact (hw.setBit hs _ _).fbkEvt _
      · exact hw

theorem sampled {n : Nat} (hn : n < 528) (h : s.OnlyFed t) (tm : Int) : s.OnlyFed (t.sampled n tm) :=
  State.each_keeps (P := fun x => s.OnlyFed x) (speedAt hn (reportAt hn h) tm) fun _ hm _ hu => ptTarget (List.mem_range.1 hm) hu n tm

theorem takeValue {n : Nat} (hn : n < 528) (h : s.OnlyFed t) (w v : Nat) (tm te : Int) (cyc : Word) (ft : Nat) :
    s.OnlyFed (t.takeValue n w v tm te cyc ft) := by
  unfold State.takeValue
  extract_lets c u d x
  have hu : s.OnlyFed u := (h.setSource _ _).adopt _
  have hx : s.OnlyFed x := setRaw hn hu _
  split
  · exact sampled hn (State.ite_keeps (P := fun x => s.OnlyFed x) hx (countEdge hn hx _ _ _ _)) _
  · exact sampled hn (setRaw hn hu _) _

/-- A record of remote context r, of the 512 there are. -/
theorem takeRecord {r : Nat} (hr : r < 512) (h : s.OnlyFed t) (full : Bool) (bs : List Byte) (base : Nat) (cyc : Word) :
    s.OnlyFed (t.takeRecord r full bs base cyc) := by
  have hn : 16 + r < 528 := by omega
  unfold State.takeRecord
  extract_lets n smpt tm w0 fl err wrn u age te latched back v rawNew d src x y
  have hu : s.OnlyFed u := State.ite_keeps (P := fun x => s.OnlyFed x) (h.setBit (fedReg_srcStat hn) _ _) h
  have hx : s.OnlyFed x := setRaw hn ((hu.setSource _ _).adopt _) _
  have hy : s.OnlyFed y := State.ite_keeps (P := fun x => s.OnlyFed x) hx (countEdge hn hx _ _ _ _)
  clear_value u x y
  split
  · exact srcErr hn h _ _
  · split
    · exact sampled hn (State.ite_keeps (P := fun x => s.OnlyFed x) (indexAt hn hy _ _ _) hy) _
    · exact takeValue hn hu _ _ _ _ _ _

/-- The records of a slot. -/
theorem takeRecords (h : s.OnlyFed t) (n k : Nat) (p : List Byte) (base : Nat) (cyc : Word) : s.OnlyFed (t.takeRecords n k p base cyc) :=
  State.each_keeps (P := fun x => s.OnlyFed x) h fun _ hr _ hu => takeRecord (List.mem_range.1 (List.mem_filter.1 hr).1) hu _ _ _ _

end State.OnlyFed

end Sys2Proof.Machine
end

section
/-! Feedback frames and their absence (R27, R153, R154, R159, R182, R187, R188). -/

namespace Sys2Proof.Machine

variable {s t u : State} {l m : List Nat}

/-! ## What the content of a frame changes -/

/-- t is s but for Torone's state, the sources and outputs, the axes' contexts, the registers of l and of the sources, and the notice of events. -/
structure State.OnlyHeard (s t : State) (l : List Nat) : Prop where
  rest : { t with trn := s.trn, regs := s.regs, fbk := s.fbk, law := { t.law with axes := s.law.axes }, tsu := { t.tsu with cores := s.tsu.cores },
                  cap := { t.cap with queue := s.cap.queue, sess := s.cap.sess } } = s
  regs : ∀ a, a ∉ l → ¬ fedReg a → a ∉ noticeRegs → t.rd a = s.rd a

namespace State.OnlyHeard

theorem refl (s : State) (l : List Nat) : s.OnlyHeard s l := ⟨rfl, fun _ _ _ _ => rfl⟩

theorem segment (h : s.OnlyHeard t l) (k : t.OnlySegment u l) : s.OnlyHeard u l :=
  ⟨(congrArg (fun x : State =>
      { x with trn := s.trn, regs := s.regs, fbk := s.fbk, law := { x.law with axes := s.law.axes }, tsu := { x.tsu with cores := s.tsu.cores },
               cap := { x.cap with queue := s.cap.queue, sess := s.cap.sess } }) k.rest :).trans h.rest,
    fun a ha hf hn => (k.regs a fun hm => (List.mem_append.1 hm).elim ha fun hd => hn (delivery_notice hd)).trans (h.regs a ha hf hn)⟩

theorem fed (h : s.OnlyHeard t l) (k : t.OnlyFed u) : s.OnlyHeard u l :=
  ⟨(congrArg (fun x : State =>
      { x with trn := s.trn, regs := s.regs, fbk := s.fbk, law := { x.law with axes := s.law.axes }, tsu := { x.tsu with cores := s.tsu.cores },
               cap := { x.cap with queue := s.cap.queue, sess := s.cap.sess } }) k.rest :).trans h.rest,
    fun a ha hf hn => (k.regs a hf hn).trans (h.regs a ha hf hn)⟩

theorem setAxis (h : s.OnlyHeard t l) (a : Nat) (c : AxisCtx) : s.OnlyHeard (t.setAxis a c) l := ⟨h.rest, h.regs⟩

theorem jobs_eq (h : s.OnlyHeard t l) : t.law.jobs = s.law.jobs := (congrArg (·.law.jobs) h.rest :)
theorem lanes_eq (h : s.OnlyHeard t l) : t.law.lanes = s.law.lanes := (congrArg (·.law.lanes) h.rest :)
theorem pwm_eq (h : s.OnlyHeard t l) : t.pwm = s.pwm := (congrArg State.pwm h.rest :)
theorem sameMemory (h : s.OnlyHeard t l) : s.SameMemory t :=
  ⟨(congrArg State.hall h.rest :), (congrArg State.pv h.rest :), (congrArg (·.cap.dram) h.rest :)⟩

end State.OnlyHeard

/-- A register of Torone. -/
def trnReg (a : Nat) : Prop := 0x40020000 ≤ a ∧ a < 0x40030000

theorem trnReg_not_fed {a : Nat} (h : trnReg a) : ¬ fedReg a := by
  unfold trnReg at h
  unfold fedReg
  omega

theorem trnReg_not_notice {a : Nat} (h : trnReg a) : a ∉ noticeRegs := by
  have k : ∀ b ∈ noticeRegs, 0x40030000 ≤ b := by decide
  intro hm
  have := k a hm
  unfold trnReg at h
  omega

/-! ## A node that is heard -/

/-- The registers that show a node and its segment's count of nodes. -/
def nodeRegs (n k : Nat) : List Nat := [Reg.TRN_NODE_STAT n k, Reg.TRN_SSTAT n, Reg.TRN_GRANT n, Reg.TRN_SEVT n]

/-- The status, error and acknowledgement bytes of a node are the same in both. -/
def NodeCtx.SameBytes (x y : NodeCtx) : Prop := y.nstat = x.nstat ∧ y.nerr = x.nerr ∧ y.sack = x.sack

theorem NodeCtx.SameBytes.trans {x y z : NodeCtx} (h : x.SameBytes y) (k : y.SameBytes z) : x.SameBytes z :=
  ⟨k.1.trans h.1, k.2.1.trans h.2.1, k.2.2.trans h.2.2⟩

theorem State.OnlySegment.trans (h : s.OnlySegment t l) (k : t.OnlySegment u l) : s.OnlySegment u l :=
  ⟨((congrArg (fun x : State => { x with trn := s.trn, regs := s.regs, tsu := { x.tsu with cores := s.tsu.cores } }) k.rest :)).trans h.rest,
    h.regs.trans k.regs⟩

theorem State.OnlySegment.nodeTo {n k : Nat} (h : s.OnlySegment t (nodeRegs n k)) (st : Nat) : s.OnlySegment (t.nodeTo n k st) (nodeRegs n k) :=
  h.frame ((State.OnlyTrn.refl t _).nodeTo (by simp [nodeRegs]) (by simp [nodeRegs]) st)

theorem State.OnlySegment.dropRanging (h : s.OnlySegment t l) (n k : Nat) : s.OnlySegment (t.dropRanging n k) l := ⟨h.rest, h.regs⟩

theorem State.onlyTrn_endGrant (s : State) (n k : Nat) : s.OnlyTrn (s.endGrant n k) [Reg.TRN_GRANT n] :=
  State.ite_keeps (P := fun x => s.OnlyTrn x [Reg.TRN_GRANT n]) (((State.OnlyTrn.refl s _).setSeg n _).showGrant (by simp) _) (.refl s _)

@[simp] theorem State.node_endGrant (s : State) (n k m j : Nat) : (s.endGrant n k).node m j = s.node m j :=
  State.ite_keeps (P := fun x => x.node m j = s.node m j) rfl rfl

theorem State.node_raise (s : State) (i e : Nat) (w : Word) (n k : Nat) : (s.raise i e w).node n k = s.node n k := by
  have h : (s.raise i e w).trn = s.trn := (congrArg State.trn ((State.OnlyRaised.refl s [e]).raise (List.mem_singleton.2 rfl) i w).rest :)
  rw [State.node, h, State.node]

theorem not_delivery_of_trn {a : Nat} (h : trnReg a) : a ∉ deliveryRegs := fun hd => trnReg_not_notice h (delivery_notice hd)

theorem trnReg_nodeStat (n : Fin 12) (k : Fin 32) : trnReg (Reg.TRN_NODE_STAT n k) := by
  simp only [trnReg, Reg.TRN_NODE_STAT]
  omega

theorem trnReg_sevt (n : Fin 12) : trnReg (Reg.TRN_SEVT n) := by
  simp only [trnReg, Reg.TRN_SEVT]
  omega

/-- The state, as nodeIn leaves it before its event, of a node that was not IN. -/
def State.nodeJoins (s : State) (n k : Nat) : State := ((s.dropRanging n k).nodeTo n k nIN).endGrant n k

theorem State.nodeJoins_spec (s : State) (n k : Nat) : (s.nodeJoins n k).nodeState n k = nIN
    ∧ (s.nodeJoins n k).fld (Reg.TRN_NODE_STAT n k) 25 24 = s.fld (Reg.TRN_NODE_STAT n k) 25 24
    ∧ (s.node n k).SameBytes ((s.nodeJoins n k).node n k) ∧ s.OnlySegment (s.nodeJoins n k) (nodeRegs n k) := by
  have hg : Reg.TRN_NODE_STAT n k ≠ Reg.TRN_GRANT n := by simp only [Reg.TRN_NODE_STAT, Reg.TRN_GRANT]; omega
  have hs : Reg.TRN_NODE_STAT n k ≠ Reg.TRN_SSTAT n := by simp only [Reg.TRN_NODE_STAT, Reg.TRN_SSTAT]; omega
  have e : ∀ hi lo, (s.nodeJoins n k).fld (Reg.TRN_NODE_STAT n k) hi lo = ((s.dropRanging n k).nodeTo n k nIN).fld (Reg.TRN_NODE_STAT n k) hi lo :=
    fun hi lo => congrArg (wFld · hi lo) ((State.onlyTrn_endGrant _ n k).regs _ (by simpa using hg))
  refine ⟨(e 31 29).trans (State.nodeState_nodeTo _ _ _ (by decide)), ?_, ?_, ?_⟩
  · rw [e, State.nodeTo, State.fld, State.setFld_wr _ (Reg.TRN_SSTAT n), State.rd_wr_other _ _ hs]
    exact State.fld_setFld_other _ _ (by omega) (by omega) _
  · rw [State.nodeJoins, State.node_endGrant]
    show (s.node n k).SameBytes ((s.dropRanging n k).node n k)
    rw [State.dropRanging, State.node_setNode_same]
    exact ⟨rfl, rfl, rfl⟩
  · exact (((State.OnlySegment.refl s _).dropRanging n k).nodeTo nIN).frame ((State.onlyTrn_endGrant _ n k).mono (by simp [nodeRegs]))

theorem State.nodeIn_spec (s : State) (n : Fin 12) (k : Fin 32) : (s.nodeIn n k).nodeState n k = nIN
    ∧ (s.nodeIn n k).fld (Reg.TRN_NODE_STAT n k) 25 24 = 0 ∧ (s.nodeState n k ≠ nIN → (s.nodeIn n k).bit (Reg.TRN_SEVT n) 28 = true)
    ∧ (s.node n k).SameBytes ((s.nodeIn n k).node n k) ∧ s.OnlySegment (s.nodeIn n k) (nodeRegs n k) := by
  obtain ⟨v, hv⟩ : ∃ v, v = (s.setFld (Reg.TRN_NODE_STAT n k) 25 24 0).setNode n k { s.node n k with setMiss := 0 } := ⟨_, rfl⟩
  have e : s.nodeIn n k = if v.nodeState n k = nIN then v else (v.nodeJoins n k).segEvt n 28 := by rw [hv]; rfl
  have h0 : v.fld (Reg.TRN_NODE_STAT n k) 25 24 = 0 := by
    rw [hv]
    exact State.fld_setFld_same s _ (by omega) (by omega) 0
  have hst : v.nodeState n k = s.nodeState n k := by
    rw [hv]
    exact State.fld_setFld_other s _ (by omega) (by omega) 0
  have hb : (s.node n k).SameBytes (v.node n k) := by
    rw [hv, State.node_setNode_same]
    exact ⟨rfl, rfl, rfl⟩
  have hf : s.OnlySegment v (nodeRegs n k) := by
    rw [hv]
    exact ((State.OnlySegment.refl s _).wr (by simp [nodeRegs]) _).setNode _ _ _
  rw [e]
  split
  · next hin => exact ⟨hin, h0, fun hn => absurd (hst ▸ hin) hn, hb, hf⟩
  · obtain ⟨j1, j2, j3, j4⟩ := v.nodeJoins_spec n k
    have hne : Reg.TRN_NODE_STAT n k ≠ Reg.TRN_SEVT n := by simp only [Reg.TRN_NODE_STAT, Reg.TRN_SEVT]; omega
    have er : ∀ hi lo, ((v.nodeJoins n k).segEvt n 28).fld (Reg.TRN_NODE_STAT n k) hi lo = (v.nodeJoins n k).fld (Reg.TRN_NODE_STAT n k) hi lo :=
      fun hi lo => congrArg (wFld · hi lo) (State.rd_raise_other _ _ _ _ hne (not_delivery_of_trn (trnReg_nodeStat n k)))
    refine ⟨(er 31 29).trans j1, (er 25 24).trans (j2.trans h0), fun _ => ?_, ?_, ?_⟩
    · rw [State.bit, State.segEvt, State.rd_raise_same _ _ _ _ (not_delivery_of_trn (trnReg_sevt n)), wBit_or, wBit_bitW]
      simp
    · rw [State.segEvt, State.node_raise]
      exact hb.trans j3
    · exact (hf.trans j4).raise (by simp [nodeRegs]) _ _

/-! ## The content of a frame -/

/-- The content of a frame of slot k with payload p is taken (R110, R159, R182). -/
def State.takeContent (s : State) (n : Fin 12) (k : Fin 32) (c : Word) (p : List Byte) : State :=
  let s := s.setNode n k { s.node n k with nstat := byteAt p 0, nerr := byteAt p 1, sack := leAt p 2 2 }
  let s := s.nodeIn n k
  let base := if c = s.tb.cyc then s.tick0 else s.tick0 - s.tb.len
  (s.takeRecords n k p base c).takeCurrents n k p

theorem State.takeCurrents_keeps {P : State → Prop} (h : P s) (k : ∀ u a c, P u → P (u.setAxis a c)) (n : Fin 12) (j : Fin 32) (p : List Byte) :
    P (s.takeCurrents n j p) :=
  State.each_keeps h fun a _ u hu => by
    dsimp only
    split
    · exact hu
    · exact State.each_keeps hu fun x _ v hv => k v x _ hv

/-- What the content of a frame leaves: an IN node with its bytes, and beside it what the records and currents change. -/
structure State.Taken (s t : State) (n : Fin 12) (k : Fin 32) (p : List Byte) : Prop where
  state : t.nodeState n k = nIN
  absent : t.fld (Reg.TRN_NODE_STAT n k) 25 24 = 0
  event : s.nodeState n k ≠ nIN → t.bit (Reg.TRN_SEVT n) 28 = true
  bytes : (t.node n k).nstat = byteAt p 0 ∧ (t.node n k).nerr = byteAt p 1 ∧ (t.node n k).sack = leAt p 2 2
  frame : s.OnlyHeard t (nodeRegs n k)

theorem State.takeContent_taken (s : State) (n : Fin 12) (k : Fin 32) (c : Word) (p : List Byte) : s.Taken (s.takeContent n k c p) n k p := by
  obtain ⟨v, hv⟩ : ∃ v, v = s.setNode n k { s.node n k with nstat := byteAt p 0, nerr := byteAt p 1, sack := leAt p 2 2 } := ⟨_, rfl⟩
  obtain ⟨w, hw⟩ : ∃ w, w = (v.nodeIn n k).takeRecords n k p (if c = (v.nodeIn n k).tb.cyc then (v.nodeIn n k).tick0 else
    (v.nodeIn n k).tick0 - (v.nodeIn n k).tb.len) c := ⟨_, rfl⟩
  have e : s.takeContent n k c p = w.takeCurrents n k p := by rw [hw, hv]; rfl
  obtain ⟨k1, k2, k3, k4, k5⟩ := v.nodeIn_spec n k
  have hf : (v.nodeIn n k).OnlyFed w := by
    rw [hw]
    exact (State.OnlyFed.refl _).takeRecords n k p _ c
  have hx : (w.takeCurrents n k p).regs = w.regs ∧ (w.takeCurrents n k p).trn = w.trn :=
    State.takeCurrents_keeps (P := fun u => u.regs = w.regs ∧ u.trn = w.trn) ⟨rfl, rfl⟩ (fun _ _ _ hu => hu) n k p
  have hr : ∀ a, trnReg a → (w.takeCurrents n k p).rd a = (v.nodeIn n k).rd a := fun a ha =>
    (congrArg (Table.get resetOf · a) hx.1).trans (hf.regs a (trnReg_not_fed ha) (trnReg_not_notice ha))
  have hn : (w.takeCurrents n k p).node n k = (v.nodeIn n k).node n k := by rw [State.node, hx.2, hf.trn_eq, State.node]
  have h0 : s.OnlyHeard v (nodeRegs n k) := by
    rw [hv]
    exact (State.OnlyHeard.refl s _).segment ((State.OnlySegment.refl s _).setNode _ _ _)
  rw [e]
  exact
    { state := (congrArg (wFld · 31 29) (hr _ (trnReg_nodeStat n k))).trans k1
      absent := (congrArg (wFld · 25 24) (hr _ (trnReg_nodeStat n k))).trans k2
      event := fun h => (congrArg (wBit · 28) (hr _ (trnReg_sevt n))).trans (k3 (by rw [hv]; exact h))
      bytes := by
        rw [hn]
        obtain ⟨b1, b2, b3⟩ := k4
        rw [b1, b2, b3, hv, State.node_setNode_same]
        exact ⟨rfl, rfl, rfl⟩
      frame := State.takeCurrents_keeps (P := fun u => s.OnlyHeard u (nodeRegs n k)) ((h0.segment k5).fed hf) (fun _ _ _ hu => hu.setAxis _ _) n k p }

/-! ## The copies of a slot -/

theorem trnReg_abReg (n : Fin 12) (ch : Nat) : trnReg (abReg n ch) := by
  unfold abReg
  split <;> simp only [trnReg, Reg.TRN_AB_A, Reg.TRN_AB_B] <;> omega

/-- The first copy of a slot is kept and its content taken (R153). -/
theorem State.keepCopy_first {n key ch : Nat} {c : Word} (ha : (s.slotRx n key c).a = none) (hb : (s.slotRx n key c).b = none) (x : Copy) :
    ∃ r, s.keepCopy n key ch c x = (true, (s.setSlotRx n key r).inc (abReg n ch)) := by
  refine ⟨if ch = 0 then { s.slotRx n key c with a := some x } else { s.slotRx n key c with b := some x }, ?_⟩
  simp [State.keepCopy, ha, hb]

/-- A second copy of other content counts; it is taken where it comes before the first (R153). -/
theorem State.keepCopy_second {n key ch : Nat} {c : Word} {x y : Copy}
    (hm : (if ch = 0 then (s.slotRx n key c).a else (s.slotRx n key c).b) = none)
    (ho : (if ch = 0 then (s.slotRx n key c).b else (s.slotRx n key c).a) = some y) (hne : y.bytes ≠ x.bytes) :
    ∃ r v, v = ((s.setSlotRx n key r).inc (Reg.TRN_ABMIS n)).abEvt n 31 ∧ s.keepCopy n key ch c x
      = if x.before ch y then (true, (v.wr (abReg n (1 - ch)) (v.rd (abReg n (1 - ch)) - 1)).inc (abReg n ch)) else (false, v) := by
  refine ⟨if ch = 0 then { s.slotRx n key c with a := some x } else { s.slotRx n key c with b := some x }, _, rfl, ?_⟩
  have hb : (y.bytes != x.bytes) = true := by simpa using hne
  simp [State.keepCopy, hm, ho, hne, hb]

/-! ## The frame of a slot -/

/-- t is x, or x with a residual of node k, which changes the node's residuals alone (R183). -/
structure State.Measured (x t : State) (n k : Nat) : Prop where
  frame : x.OnlyTrn t [Reg.TRN_NODE_RES n k]
  bytes : (x.node n k).SameBytes (t.node n k)

theorem State.Measured.refl (x : State) (n k : Nat) : x.Measured x n k := ⟨.refl x _, rfl, rfl, rfl⟩

theorem State.measured_residual (x : State) (n k : Nat) (r : Int) : x.Measured (x.residual n k r) n k :=
  ⟨((State.OnlyTrn.refl x _).setNode n k _).wr (by simp) _, by
    rw [State.residual, State.node_wr, State.node_setNode_same]
    exact ⟨rfl, rfl, rfl⟩⟩

/-- A frame's copy is kept, its content taken where the copy is to be, and its jobs queued where it is the slot's first. -/
theorem State.feedbackFrame_measured (s : State) (n : Fin 12) (k : Fin 32) (ch : Nat) (c : Word) (at0 : Int) (h : Hdr) (bs : List Byte) {taken : Bool} {v : State}
    (e : s.keepCopy n k ch c ⟨at0, bs⟩ = (taken, v)) :
    (if taken then (v.takeContent n k c h.payload).when (s.slotFresh n k c) (fun s => s.queueJobs (.slot n k) c (s.slotRel n k)) else v).Measured
      (s.feedbackFrame n k ch c at0 h bs) n k := by
  unfold State.feedbackFrame
  rw [e]
  exact State.ite_keeps (P := fun t => State.Measured _ t n k) (State.measured_residual _ _ _ _) (.refl _ _ _)

/-- A frame that no session records. -/
theorem State.capPortRecord_of_none {port : Nat} (h : ∀ m, m < 16 → (s.capOn m && s.capKind m == 1 && s.bit (Reg.CAP_S_SRC m) port) = false)
    (arr result : Nat) (bs : List Byte) : s.capPortRecord port arr result bs = s :=
  State.each_fixed fun m hm => if_neg (by rw [h m (List.mem_range.1 hm)]; simp)

/-- The state in which an accepted frame is taken: it counts on its port, which shows it. -/
def State.frameCounted (s : State) (n ch : Nat) (w : Word) : State := (s.inc (Reg.TRN_PRXOK n ch)).wr (Reg.TRN_PLAST n ch) w

theorem frameReceive_of_fb {n : Fin 12} {b : Bool} {ch : Nat} {f : RxFrame} {k : Fin 32} {c : Word} {at0 : Int} (hc : ch = if b then 1 else 0)
    (hon : s.bit (Reg.TRN_PCFG n ch) 31 = true) (hl : s.loops n ch = false) (hf : s.frameCheck n f = (0, some (.fb k, c, at0)))
    (hr : ∀ m, m < 16 → (s.capOn m && s.capKind m == 1 && s.bit (Reg.CAP_S_SRC m) (2 * n + ch)) = false) :
    ∃ w, frameReceive ⟨n, b⟩ f s = (s.frameCounted n ch w).feedbackFrame n k ch c at0 (hdrOf f.bytes) (f.bytes.take (8 + (hdrOf f.bytes).len)) := by
  subst hc
  refine ⟨mkFld 31 22 (hdrOf f.bytes).slot ||| mkFld 21 0 at0.toNat, ?_⟩
  unfold frameReceive
  dsimp only
  rw [if_neg (by simp [hon, hl]), hf, State.capPortRecord_of_none hr]
  simp only [k.isLt, dite_true]
  rfl

/-! ## The jobs that a frame queues -/

theorem State.onlyRegs_lvlPeak (s : State) (k n : Nat) : s.OnlyRegs (s.lvlPeak k n) [Reg.TSU_LVL k] :=
  State.ite_keeps (P := fun x => s.OnlyRegs x [Reg.TSU_LVL k]) ((State.OnlyRegs.refl s _).wr (by simp) _) (.refl s _)

/-- t is s with jobs added to those of level 7. -/
structure State.Queued (s t : State) : Prop where
  frame : { t with law := s.law, regs := s.regs } = s
  regs : ∀ a, a ≠ Reg.TSU_LVL 7 → t.rd a = s.rd a
  jobs : ∀ q, q ∈ s.law.jobs → q ∈ t.law.jobs
  lanes : t.law.lanes = s.law.lanes

theorem State.queued_queueJobs (s : State) (r : Trigger) (c : Word) (rel : Nat) : s.Queued (s.queueJobs r c rel) := by
  unfold State.queueJobs
  split
  · exact ⟨rfl, fun _ _ => rfl, fun _ h => h, rfl⟩
  · extract_lets new
    have k := (s.setLawJobs (s.law.jobs ++ new)).onlyRegs_lvlPeak 7 (s.law.jobs ++ new).length
    refine ⟨(congrArg (fun x : State => { x with law := s.law, regs := s.regs }) k.rest :), fun a ha => k.regs a (by simpa using ha), fun q hq => ?_, ?_⟩
    · rw [k.law_eq]
      exact List.mem_append_left _ hq
    · rw [k.law_eq]
      rfl

theorem State.Queued.sameMemory (h : s.Queued t) : s.SameMemory t :=
  ⟨(congrArg State.hall h.frame :), (congrArg State.pv h.frame :), (congrArg (·.cap.dram) h.frame :)⟩

theorem State.queueJobs_of_idle (h : s.lawsRun = false) (r : Trigger) (c : Word) (rel : Nat) : s.queueJobs r c rel = s := if_pos (by simp [h])

/-- Every due axis of the trigger with a loaded program has its job. -/
theorem State.mem_queueJobs {a : Nat} {r : Trigger} {c : Word} (ha : a < 256) (hr : s.lawsRun = true) (ht : s.triggeredBy a r = true)
    (hd : s.due a c = true) (hp : s.bit (Reg.GAL_PROG_INFO (s.progOf a)) 31 = true) (rel : Nat) :
    (⟨a, c, rel, false⟩ : LawJob) ∈ (s.queueJobs r c rel).law.jobs := by
  have hw : wFld (s.lawRoute a) 16 15 < 4 := wFld_lt _ 16 15
  rw [State.queueJobs, if_neg (by simp [hr]), ((s.setLawJobs _).onlyRegs_lvlPeak 7 _).law_eq]
  refine List.mem_append_right _ (List.mem_flatMap.2 ⟨wFld (s.lawRoute a) 16 15, List.mem_range.2 hw, List.mem_filterMap.2 ⟨a, List.mem_range.2 ha, ?_⟩⟩)
  rw [if_pos (by simp [ht, hd, hp])]

/-! ## Registers apart -/

/-- The registers that the copies of a slot change: those of the port, the choice of channel and its events. -/
def copyRegs (n ch : Nat) : List Nat := [Reg.TRN_PRXOK n ch, Reg.TRN_PLAST n ch, Reg.TRN_ABMIS n, Reg.TRN_ABEVT n, Reg.TRN_AB_A n, Reg.TRN_AB_B n]

theorem mem_abReg (n ch c : Nat) : abReg n c ∈ copyRegs n ch := by
  unfold abReg
  split <;> simp [copyRegs]

/-- A register below the sources and outside Torone, or of the laws. -/
def farReg (a : Nat) : Prop := a < 0x40020000 ∨ (0x40030000 ≤ a ∧ a < 0x40070000) ∨ 0x40100000 ≤ a

theorem farReg_not_notice {a : Nat} (h : farReg a) : a ∉ noticeRegs := by
  have k : ∀ b ∈ noticeRegs, 0x40070000 ≤ b ∧ b < 0x40100000 := by decide
  intro hm
  have := k a hm
  unfold farReg at h
  omega

theorem farReg_not_fed {a : Nat} (h : farReg a) : ¬ fedReg a := by
  unfold farReg at h
  unfold fedReg
  omega

theorem trnReg_of_copy {n : Fin 12} {ch a : Nat} (hc : ch < 2) (h : a ∈ copyRegs n ch) : trnReg a := by
  simp only [copyRegs, Reg.TRN_PRXOK, Reg.TRN_PLAST, Reg.TRN_ABMIS, Reg.TRN_ABEVT, Reg.TRN_AB_A, Reg.TRN_AB_B, List.mem_cons, List.not_mem_nil,
    or_false] at h
  unfold trnReg
  omega

theorem trnReg_of_node {n : Fin 12} {k : Fin 32} {a : Nat} (h : a ∈ nodeRegs n k) : trnReg a := by
  simp only [nodeRegs, Reg.TRN_NODE_STAT, Reg.TRN_SSTAT, Reg.TRN_GRANT, Reg.TRN_SEVT, List.mem_cons, List.not_mem_nil, or_false] at h
  unfold trnReg
  omega

theorem not_trnReg_of_far {a : Nat} (h : farReg a) : ¬ trnReg a := by
  unfold farReg at h
  unfold trnReg
  omega

/-- A register that shows a node is none that a copy changes. -/
theorem node_not_copy {n : Fin 12} {k : Fin 32} {ch a : Nat} (h : a ∈ nodeRegs n k) : a ∉ copyRegs n ch := by
  simp only [nodeRegs, copyRegs, Reg.TRN_NODE_STAT, Reg.TRN_SSTAT, Reg.TRN_GRANT, Reg.TRN_SEVT, Reg.TRN_PRXOK, Reg.TRN_PLAST, Reg.TRN_ABMIS, Reg.TRN_ABEVT,
    Reg.TRN_AB_A, Reg.TRN_AB_B, List.mem_cons, List.not_mem_nil, or_false] at h ⊢
  omega

/-- The register of a node's residual is none that a copy changes. -/
theorem copy_ne_res {n : Fin 12} {k : Fin 32} {ch a : Nat} (h : a ∈ copyRegs n ch) : a ≠ Reg.TRN_NODE_RES n k := by
  simp only [copyRegs, Reg.TRN_PRXOK, Reg.TRN_PLAST, Reg.TRN_ABMIS, Reg.TRN_ABEVT, Reg.TRN_AB_A, Reg.TRN_AB_B, Reg.TRN_NODE_RES, List.mem_cons,
    List.not_mem_nil, or_false] at h ⊢
  omega

theorem node_ne_res {n : Fin 12} {k : Fin 32} {a : Nat} (h : a ∈ nodeRegs n k) : a ≠ Reg.TRN_NODE_RES n k := by
  simp only [nodeRegs, Reg.TRN_NODE_STAT, Reg.TRN_SSTAT, Reg.TRN_GRANT, Reg.TRN_SEVT, Reg.TRN_NODE_RES, List.mem_cons, List.not_mem_nil, or_false] at h ⊢
  omega

/-! ## Reads after a frame's content -/

/-- The content of a frame leaves the registers of the mode and of the laws. -/
theorem State.OnlyHeard.rd_far {a : Nat} {n : Fin 12} {k : Fin 32} (h : s.OnlyHeard t (nodeRegs n k)) (ha : farReg a) : t.rd a = s.rd a :=
  h.regs a (fun hm => not_trnReg_of_far ha (trnReg_of_node hm)) (farReg_not_fed ha) (farReg_not_notice ha)

theorem State.OnlyHeard.rd_trn {a : Nat} (h : s.OnlyHeard t l) (ha : trnReg a) (hl : a ∉ l) : t.rd a = s.rd a :=
  h.regs a hl (trnReg_not_fed ha) (trnReg_not_notice ha)

theorem State.OnlySegment.rd_far {a : Nat} {n : Fin 12} {ch : Nat} (h : s.OnlySegment t (copyRegs n ch)) (hc : ch < 2) (ha : farReg a) : t.rd a = s.rd a :=
  h.regs a fun hm => (List.mem_append.1 hm).elim (fun hm => not_trnReg_of_far ha (trnReg_of_copy hc hm)) fun hd =>
    farReg_not_notice ha (delivery_notice hd)

theorem State.OnlySegment.rd_trn {a : Nat} (h : s.OnlySegment t l) (ha : trnReg a) (hl : a ∉ l) : t.rd a = s.rd a :=
  h.regs a fun hm => (List.mem_append.1 hm).elim hl (not_delivery_of_trn ha)

/-- Which laws run, which axes a slot triggers and which are due, and their programs, follow from registers outside Torone. -/
theorem State.laws_congr (h : ∀ a, farReg a → t.rd a = s.rd a) : t.lawsRun = s.lawsRun
    ∧ (∀ a r, t.triggeredBy a r = s.triggeredBy a r) ∧ (∀ a c, t.due a c = s.due a c)
    ∧ ∀ a, t.bit (Reg.GAL_PROG_INFO (t.progOf a)) 31 = s.bit (Reg.GAL_PROG_INFO (s.progOf a)) 31 := by
  have hm : t.rd Reg.SYS_MODE = s.rd Reg.SYS_MODE := h _ (by simp only [farReg, Reg.SYS_MODE]; omega)
  have hr : ∀ a, t.rd (Reg.LAW_ROUTE a) = s.rd (Reg.LAW_ROUTE a) := fun a => h _ (by simp only [farReg, Reg.LAW_ROUTE]; omega)
  have hc : ∀ a, t.rd (Reg.LAW_CFG a) = s.rd (Reg.LAW_CFG a) := fun a => h _ (by simp only [farReg, Reg.LAW_CFG]; omega)
  have hp : ∀ a, t.rd (Reg.GAL_PROG_INFO (s.progOf a)) = s.rd (Reg.GAL_PROG_INFO (s.progOf a)) := fun a => h _ (by
    have : s.progOf a < 16 := wFld_lt _ 27 24
    simp only [farReg, Reg.GAL_PROG_INFO]
    omega)
  refine ⟨by simp only [State.lawsRun, State.mode, State.fld, hm], fun a r => ?_, fun a c => ?_, fun a => ?_⟩
  · simp only [State.triggeredBy, State.lawRoute, hr]
  · simp only [State.due, State.lawRoute, State.bit, hr, hc]
  · rw [show t.progOf a = s.progOf a from congrArg (wFld · 27 24) (hc a), State.bit, hp a]
    rfl

/-- The release instant of a slot follows from the image's registers. -/
theorem State.slotRel_congr {n k : Nat} (h1 : t.rd (Reg.TRN_SLOT n k) = s.rd (Reg.TRN_SLOT n k)) (h2 : t.rd (Reg.TRN_SOFS n) = s.rd (Reg.TRN_SOFS n)) :
    t.slotRel n k = s.slotRel n k := by
  simp only [State.slotRel, State.refEnd, State.slotNom, State.slotLen, State.segWin, State.fld, h1, h2]

/-! ## The three ways of a copy -/

theorem State.onlySegment_counted (s : State) (n ch : Nat) (w : Word) : s.OnlySegment (s.frameCounted n ch w) (copyRegs n ch) :=
  ((State.OnlySegment.refl s _).wr (by simp [copyRegs]) _).wr (by simp [copyRegs]) _

theorem State.rd_counted (s : State) (n ch : Nat) (w : Word) : (s.frameCounted n ch w).rd (Reg.TRN_PRXOK n ch) = s.rd (Reg.TRN_PRXOK n ch) + 1 := by
  rw [State.frameCounted, State.rd_wr_other _ _ (by simp only [Reg.TRN_PRXOK, Reg.TRN_PLAST]; omega), State.inc_wr, State.rd_wr_same]

theorem prxok_ne_abReg (n ch c : Nat) : Reg.TRN_PRXOK n ch ≠ abReg n c := by
  unfold abReg
  split <;> simp only [Reg.TRN_PRXOK, Reg.TRN_AB_A, Reg.TRN_AB_B] <;> omega

/-- The slot's first copy: its content is taken and its jobs queued. -/
theorem State.feedbackFrame_first (s : State) {n : Fin 12} {k : Fin 32} {ch : Nat} {c : Word} (w : Word) (at0 : Int) (h : Hdr) (bs : List Byte)
    (ha : (s.slotRx n k c).a = none) (hb : (s.slotRx n k c).b = none) :
    ∃ v x, s.OnlySegment v (copyRegs n ch) ∧ v.rd (Reg.TRN_PRXOK n ch) = s.rd (Reg.TRN_PRXOK n ch) + 1 ∧ v.Taken x n k h.payload
      ∧ (x.queueJobs (.slot n k) c (x.slotRel n k)).Measured ((s.frameCounted n ch w).feedbackFrame n k ch c at0 h bs) n k := by
  obtain ⟨r, e⟩ := State.keepCopy_first (s := s.frameCounted n ch w) (n := n) (key := k) (ch := ch) (c := c) ha hb ⟨at0, bs⟩
  have m := State.feedbackFrame_measured _ n k ch c at0 h bs e
  have hf : (s.frameCounted n ch w).slotFresh n k c = true := by
    change ((s.slotRx n k c).a.isNone && (s.slotRx n k c).b.isNone) = true
    rw [ha, hb]
    rfl
  rw [if_pos rfl, hf, State.when_true] at m
  refine ⟨_, _, ?_, ?_, State.takeContent_taken _ n k c h.payload, m⟩
  · exact ((s.onlySegment_counted n ch w).trn _).wr (mem_abReg n ch ch) _
  · rw [State.inc_wr, State.rd_wr_other _ _ (prxok_ne_abReg n ch ch)]
    exact s.rd_counted n ch w

/-- u is s once a second copy of other content was received and counted. -/
structure State.Mismatched (s u : State) (n ch : Nat) : Prop where
  frame : s.OnlySegment u [Reg.TRN_PRXOK n ch, Reg.TRN_PLAST n ch, Reg.TRN_ABMIS n, Reg.TRN_ABEVT n]
  count : u.rd (Reg.TRN_ABMIS n) = s.rd (Reg.TRN_ABMIS n) + 1
  event : u.bit (Reg.TRN_ABEVT n) 31 = true

theorem trnReg_abevt (n : Fin 12) : trnReg (Reg.TRN_ABEVT n) := by
  simp only [trnReg, Reg.TRN_ABEVT]
  omega

theorem trnReg_abmis (n : Fin 12) : trnReg (Reg.TRN_ABMIS n) := by
  simp only [trnReg, Reg.TRN_ABMIS]
  omega

theorem State.mismatched (s : State) (n : Fin 12) (key ch : Nat) (w : Word) (r : SlotRx) :
    s.Mismatched ((((s.frameCounted n ch w).setSlotRx n key r).inc (Reg.TRN_ABMIS n)).abEvt n 31) n ch := by
  have hne : Reg.TRN_ABMIS n ≠ Reg.TRN_ABEVT n := by simp only [Reg.TRN_ABMIS, Reg.TRN_ABEVT]; omega
  refine ⟨?_, ?_, ?_⟩
  · refine State.OnlySegment.raise (State.OnlySegment.wr ?_ (by simp) _) (by simp) _ _
    exact (((State.OnlySegment.refl s _).wr (a := Reg.TRN_PRXOK n ch) (by simp) _).wr (a := Reg.TRN_PLAST n ch) (by simp) _).trn _
  · rw [State.abEvt, State.rd_raise_other _ _ _ _ hne (not_delivery_of_trn (trnReg_abmis n)), State.inc_wr, State.rd_wr_same]
    refine congrArg (· + 1) ((State.rd_wr_other _ _ ?_).trans (State.rd_wr_other _ _ ?_))
    · simp only [Reg.TRN_ABMIS, Reg.TRN_PLAST]
      omega
    · simp only [Reg.TRN_ABMIS, Reg.TRN_PRXOK]
      omega
  · rw [State.bit, State.abEvt, State.rd_raise_same _ _ _ _ (not_delivery_of_trn (trnReg_abevt n)), wBit_or, wBit_bitW]
    simp

/-- A second copy of other content that came later: the first one's bytes stand. -/
theorem State.feedbackFrame_later (s : State) {n : Fin 12} {k : Fin 32} {ch : Nat} {c : Word} (w : Word) {at0 : Int} (h : Hdr) {bs : List Byte} {y : Copy}
    (hm : (if ch = 0 then (s.slotRx n k c).a else (s.slotRx n k c).b) = none)
    (ho : (if ch = 0 then (s.slotRx n k c).b else (s.slotRx n k c).a) = some y) (hne : y.bytes ≠ bs) (hl : Copy.before ch ⟨at0, bs⟩ y = false) :
    ∃ u, s.Mismatched u n ch ∧ u.Measured ((s.frameCounted n ch w).feedbackFrame n k ch c at0 h bs) n k := by
  obtain ⟨r, v, hv, e⟩ := State.keepCopy_second (s := s.frameCounted n ch w) (n := n) (key := k) (ch := ch) (c := c) (x := ⟨at0, bs⟩) hm ho hne
  rw [if_neg (by simp [hl])] at e
  subst hv
  exact ⟨_, s.mismatched n k ch w r, State.feedbackFrame_measured _ n k ch c at0 h bs e⟩

/-- A second copy of other content that came earlier: its content is taken, and its channel is the chosen one. -/
theorem State.feedbackFrame_earlier (s : State) {n : Fin 12} {k : Fin 32} {ch : Nat} {c : Word} (w : Word) {at0 : Int} (h : Hdr) {bs : List Byte} {y : Copy}
    (hm : (if ch = 0 then (s.slotRx n k c).a else (s.slotRx n k c).b) = none)
    (ho : (if ch = 0 then (s.slotRx n k c).b else (s.slotRx n k c).a) = some y) (hne : y.bytes ≠ bs) (hl : Copy.before ch ⟨at0, bs⟩ y = true) :
    ∃ u x, s.Mismatched u n ch ∧ ((u.wr (abReg n (1 - ch)) (u.rd (abReg n (1 - ch)) - 1)).inc (abReg n ch)).Taken x n k h.payload
      ∧ x.Measured ((s.frameCounted n ch w).feedbackFrame n k ch c at0 h bs) n k := by
  obtain ⟨r, v, hv, e⟩ := State.keepCopy_second (s := s.frameCounted n ch w) (n := n) (key := k) (ch := ch) (c := c) (x := ⟨at0, bs⟩) hm ho hne
  have hf : (s.frameCounted n ch w).slotFresh n k c = false := by
    change ((s.slotRx n k c).a.isNone && (s.slotRx n k c).b.isNone) = false
    split at ho <;> rw [ho] <;> simp
  rw [if_pos hl] at e
  subst hv
  have m := State.feedbackFrame_measured _ n k ch c at0 h bs e
  rw [if_pos rfl, hf, State.when_false] at m
  exact ⟨_, _, s.mismatched n k ch w r, State.takeContent_taken _ n k c h.payload, m⟩

/-! ## No frame in a slot -/

/-- v is s with the missed hold of axis a counted and shown. -/
def State.missShown (s : State) (a : Nat) : State :=
  ((s.setBit (Reg.LAW_STAT a) 30 true).inc (Reg.LAW_MISS_CNT a)).setAxis a { s.axis a with fMiss := true }

/-- A missed hold sends the command again and notes the hold. -/
theorem State.onlyNoticed_holdMiss (s : State) (a : Nat) : (s.missShown a).OnlyNoticed (s.holdMiss a) shadowRegs :=
  (State.OnlyNoticed.of (.of ((s.missShown a).onlyRegs_redeliver a))).capCond _ _

theorem lawPage_not_hold {r : Nat} (h : 0x40100000 ≤ r) : r ∉ shadowRegs ++ noticeRegs := by
  have k : ∀ b ∈ shadowRegs, b < 0x40100000 := by decide
  intro hm
  rcases List.mem_append.1 hm with hm | hm
  · have := k r hm
    omega
  · exact farReg_not_notice (.inr (.inr h)) hm

theorem trnReg_not_hold {r : Nat} (h : trnReg r) : r ∉ shadowRegs ++ noticeRegs := by
  have k : ∀ b ∈ shadowRegs, 0x40030000 ≤ b := by decide
  intro hm
  rcases List.mem_append.1 hm with hm | hm
  · have := k r hm
    unfold trnReg at h
    omega
  · exact trnReg_not_notice h hm

/-- A missed hold counts for its own axis alone. -/
theorem State.rd_holdMiss_count (s : State) (a k : Nat) :
    (s.holdMiss a).rd (Reg.LAW_MISS_CNT k) = if k = a then s.rd (Reg.LAW_MISS_CNT a) + 1 else s.rd (Reg.LAW_MISS_CNT k) := by
  have hs : Reg.LAW_MISS_CNT k ≠ Reg.LAW_STAT a := by simp only [Reg.LAW_MISS_CNT, Reg.LAW_STAT]; omega
  have hs' : Reg.LAW_MISS_CNT a ≠ Reg.LAW_STAT a := by simp only [Reg.LAW_MISS_CNT, Reg.LAW_STAT]; omega
  rw [(s.onlyNoticed_holdMiss a).regs _ (lawPage_not_hold (by simp only [Reg.LAW_MISS_CNT]; omega)), State.missShown, State.setAxis_rd, State.inc_wr,
    State.rd_wr, State.setBit_wr, State.rd_wr_other _ _ hs, State.rd_wr_other _ _ hs']
  exact if_congr (by simp only [Reg.LAW_MISS_CNT]; omega) rfl rfl

theorem State.bit_holdMiss_stat (s : State) (a k : Nat) (h : k = a ∨ s.bit (Reg.LAW_STAT k) 30 = true) : (s.holdMiss a).bit (Reg.LAW_STAT k) 30 = true := by
  have hs : Reg.LAW_STAT k ≠ Reg.LAW_MISS_CNT a := by simp only [Reg.LAW_MISS_CNT, Reg.LAW_STAT]; omega
  rw [State.bit, (s.onlyNoticed_holdMiss a).regs _ (lawPage_not_hold (by simp only [Reg.LAW_STAT]; omega)), State.missShown, State.setAxis_rd, State.inc_wr,
    State.rd_wr_other _ _ hs]
  by_cases e : k = a
  · subst e
    exact (s.bit_setBit _ _ _ _ (by omega)).trans (if_pos rfl)
  · rw [State.setBit_wr, State.rd_wr_other _ _ (by simp only [Reg.LAW_STAT]; omega)]
    exact h.resolve_left e

/-- What the holds of a missing frame leave: Torone, the sources, the queue, the store and the capture DRAM but for trigger flags. -/
structure State.OnlyHeld (s t : State) : Prop where
  trn : t.trn = s.trn
  fbk : t.fbk = s.fbk
  jobs : t.law.jobs = s.law.jobs
  store : s.SameStore t
  regs : ∀ a, trnReg a → t.rd a = s.rd a

theorem State.OnlyHeld.refl (s : State) : s.OnlyHeld s := ⟨rfl, rfl, rfl, ⟨rfl, rfl, .refl s⟩, fun _ _ => rfl⟩

/-- x with the laws, registers, cores and capture engine of s. -/
def State.heldBack (s x : State) : State :=
  { x with law := s.law, regs := s.regs, tsu := { x.tsu with cores := s.tsu.cores }, cap := s.cap }

theorem State.heldBack_missShown (s : State) (a : Nat) : s.heldBack (s.missShown a) = s := by
  cases s
  rfl

/-- A missed hold changes the laws, registers, waiting cores and the capture engine alone. -/
theorem State.heldBack_holdMiss (s : State) (a : Nat) : s.heldBack (s.holdMiss a) = s :=
  (congrArg s.heldBack (s.onlyNoticed_holdMiss a).rest :).trans (s.heldBack_missShown a)

theorem State.jobs_holdMiss (s : State) (a : Nat) : (s.holdMiss a).law.jobs = s.law.jobs := by
  rw [(s.onlyNoticed_holdMiss a).law_eq, State.missShown, State.setAxis_jobs]
  rfl

theorem State.OnlyHeld.holdMiss (h : s.OnlyHeld t) (a : Nat) : s.OnlyHeld (t.holdMiss a) := by
  have k := t.onlyNoticed_holdMiss a
  have hr : ∀ r, trnReg r → (t.missShown a).rd r = t.rd r := fun r hr => by
    unfold trnReg at hr
    rw [State.missShown, State.setAxis_rd, State.inc_wr, State.rd_wr_other _ _ (by simp only [Reg.LAW_MISS_CNT]; omega), State.setBit_wr,
      State.rd_wr_other _ _ (by simp only [Reg.LAW_STAT]; omega)]
  have e := t.heldBack_holdMiss a
  exact
    { trn := (congrArg State.trn e :).trans h.trn
      fbk := (congrArg State.fbk e :).trans h.fbk
      jobs := (t.jobs_holdMiss a).trans h.jobs
      store := ⟨(congrArg State.hall e :).trans h.store.hall, (congrArg State.pv e :).trans h.store.pv, h.store.dram.trans k.dram⟩
      regs := fun r ht => (k.regs r (trnReg_not_hold ht)).trans ((hr r ht).trans (h.regs r ht)) }

/-- The axes that hold for want of slot k's frame of cycle c. -/
def State.missedBy (s : State) (n : Fin 12) (k : Fin 32) (c : Word) (a : Nat) : Bool := s.lawsRun && s.triggeredBy a (.slot n k) && s.due a c

theorem State.missHolds_eq (s : State) (n : Fin 12) (k : Fin 32) (c : Word) :
    s.missHolds n k c = s.each ((List.range 256).filter (s.missedBy n k c)) (fun a s => s.holdMiss a) := by
  unfold State.missHolds State.missedBy
  cases s.lawsRun <;> simp

theorem State.onlyHeld_missHolds (s : State) (n : Fin 12) (k : Fin 32) (c : Word) : s.OnlyHeld (s.missHolds n k c) := by
  rw [State.missHolds_eq]
  exact State.each_keeps (P := fun u => s.OnlyHeld u) (.refl s) fun a _ _ hu => hu.holdMiss a

/-- Each of them counts its hold, and no other. -/
theorem State.rd_missHolds (s : State) (n : Fin 12) (k : Fin 32) (c : Word) {a : Nat} (ha : a < 256) :
    (s.missHolds n k c).rd (Reg.LAW_MISS_CNT a) = s.rd (Reg.LAW_MISS_CNT a) + (if s.missedBy n k c a then 1 else 0) := by
  rw [State.missHolds_eq]
  have h := State.each_view (P := fun _ => True) (view := fun u a => u.rd (Reg.LAW_MISS_CNT a)) (f := fun a s => s.holdMiss a) (F := fun _ v => v + 1)
    (l := (List.range 256).filter (s.missedBy n k c)) (t := s) (List.nodup_range.filter _) trivial (fun _ _ _ _ => trivial)
    (fun i _ u _ j => u.rd_holdMiss_count i j) a
  refine h.trans ?_
  cases hm : s.missedBy n k c a <;> simp [hm, ha]

theorem State.bit_missHolds (s : State) {n : Fin 12} {k : Fin 32} {c : Word} {a : Nat} (ha : a < 256) (hm : s.missedBy n k c a = true) :
    (s.missHolds n k c).bit (Reg.LAW_STAT a) 30 = true := by
  rw [State.missHolds_eq]
  exact State.each_reaches (P := fun _ => True) (Q := fun u => u.bit (Reg.LAW_STAT a) 30 = true) (f := fun a s => s.holdMiss a) (x := a)
    (fun u _ => u.bit_holdMiss_stat a a (.inl rfl)) (List.mem_filter.2 ⟨List.mem_range.2 ha, hm⟩) trivial (fun _ _ _ _ => trivial)
    fun y _ u hu => u.bit_holdMiss_stat y a (.inr hu)

/-! ## The absences of a node -/

/-- One more absence of an IN node in segment cycle c; with the third in a row it goes OUT (R182). -/
def State.absence (s : State) (n k : Nat) (c : Word) : State :=
  let m := s.fld (Reg.TRN_NODE_STAT n k) 25 24 + 1
  let s := s.setFld (Reg.TRN_NODE_STAT n k) 25 24 m
  if m < 3 then s
  else
    let s := (s.dropRanging n k).setNode n k { s.node n k with outCyc := some c, corrDue := false, corrS := none }
    ((s.nodeTo n k nOUT).setBit (Reg.TRN_NODE_STAT n k) 1 true).segEvt n 27

theorem State.onlySegment_absence (s : State) (n k : Nat) (c : Word) : s.OnlySegment (s.absence n k c) (nodeRegs n k) := by
  have hs : Reg.TRN_NODE_STAT n k ∈ nodeRegs n k := by simp [nodeRegs]
  have h := (State.OnlySegment.refl s (nodeRegs n k)).wr hs (wSetFld (s.rd (Reg.TRN_NODE_STAT n k)) 25 24 (s.fld (Reg.TRN_NODE_STAT n k) 25 24 + 1))
  exact State.ite_keeps (P := fun x => s.OnlySegment x (nodeRegs n k)) h
    (((((h.dropRanging n k).setNode n k _).nodeTo nOUT).wr hs _).raise (by simp [nodeRegs]) _ _)

/-- Before the third absence in a row the node stays as it is. -/
theorem State.absence_counts {n k : Nat} (h : s.fld (Reg.TRN_NODE_STAT n k) 25 24 < 2) (c : Word) :
    (s.absence n k c).nodeState n k = s.nodeState n k
      ∧ (s.absence n k c).fld (Reg.TRN_NODE_STAT n k) 25 24 = s.fld (Reg.TRN_NODE_STAT n k) 25 24 + 1 := by
  have e : s.absence n k c = s.setFld (Reg.TRN_NODE_STAT n k) 25 24 (s.fld (Reg.TRN_NODE_STAT n k) 25 24 + 1) := if_pos (by omega)
  rw [e, State.fld_setFld_same _ _ (by omega) (by omega), State.nodeState, State.fld_setFld_other _ _ (by omega) (by omega)]
  exact ⟨rfl, Nat.mod_eq_of_lt (by omega)⟩

/-- A field without the written bit stands. -/
theorem State.fld_setBit_other (s : State) (a : Nat) {i hi lo : Nat} (h : i < lo ∨ hi < i) (b : Bool) : (s.setBit a i b).fld a hi lo = s.fld a hi lo := by
  apply Nat.eq_of_testBit_eq
  intro j
  rw [State.fld, State.setBit_wr, State.rd_wr_same, State.fld, testBit_wFld, testBit_wFld]
  by_cases hj : j < hi + 1 - lo
  · exact congrArg (decide (j < hi + 1 - lo) && ·) (wBit_wSetBit_other _ (by omega) b)
  · simp [hj]

/-- The third makes it OUT. -/
theorem State.absence_out {n : Fin 12} {k : Fin 32} (h : s.fld (Reg.TRN_NODE_STAT n k) 25 24 = 2) (c : Word) :
    (s.absence n k c).nodeState n k = nOUT ∧ (s.absence n k c).bit (Reg.TRN_NODE_STAT n k) 1 = true ∧ (s.absence n k c).bit (Reg.TRN_SEVT n) 27 = true := by
  have hne : Reg.TRN_NODE_STAT n k ≠ Reg.TRN_SEVT n := by simp only [Reg.TRN_NODE_STAT, Reg.TRN_SEVT]; omega
  have hrd := fun (u : State) => u.rd_raise_other (n + 4) (Reg.TRN_SEVT n) (bitW 27) hne (not_delivery_of_trn (trnReg_nodeStat n k))
  obtain ⟨u, e⟩ : ∃ u : State, s.absence n k c = ((u.nodeTo n k nOUT).setBit (Reg.TRN_NODE_STAT n k) 1 true).segEvt n 27 := ⟨_, if_neg (by omega)⟩
  rw [e]
  refine ⟨?_, ?_, ?_⟩
  · rw [State.nodeState, State.fld, State.segEvt, hrd]
    exact (State.fld_setBit_other _ _ (by omega) _).trans (State.nodeState_nodeTo _ _ _ (by decide))
  · rw [State.bit, State.segEvt, hrd]
    exact (State.bit_setBit _ _ _ _ _ (by omega)).trans (if_pos rfl)
  · rw [State.bit, State.segEvt, State.rd_raise_same _ _ _ _ (not_delivery_of_trn (trnReg_sevt n)), wBit_or, wBit_bitW]
    simp

/-- The state in which the slot's laws hold and its node's absence counts: no copy may come any more. -/
def State.slotShut (s : State) (n k : Nat) (c : Word) : State := s.setSlotRx n k { s.slotRx n k c with closed := true }

/-- No frame of an IN node. -/
theorem feedbackMissing_of_in {n : Fin 12} {k : Fin 32} {c : Word} (hc : (s.seg n).cyc = some c) (hs : s.segSends n = true) (ha : (s.slotRx n k c).a = none)
    (hb : (s.slotRx n k c).b = none) (hcl : (s.slotRx n k c).closed = false) (hst : s.nodeState n k = nIN) :
    feedbackMissing n k s = ((s.slotShut n k c).missHolds n k c).absence n k c := by
  have hsil : s.segSilent n = false := by
    simp only [State.segSends, Bool.and_eq_true, Bool.or_eq_true, beq_iff_eq] at hs
    obtain ⟨-, h2 | h3⟩ := hs
    · simp [State.segSilent, h2]
    · simp [State.segSilent, h3]
  rw [feedbackMissing, if_neg (by simp [hsil]), hc]
  dsimp only
  rw [if_neg (by simp [hs, ha, hb, hcl, hst, nIN, nUNUSED])]
  exact if_pos hst

/-- No frame in a slot of a silent segment. -/
theorem feedbackMissing_of_silent {n : Fin 12} {k : Fin 32} (hs : s.segSilent n = true) (ha : (s.slotRx n k s.tb.cyc).a = none)
    (hb : (s.slotRx n k s.tb.cyc).b = none) (hcl : (s.slotRx n k s.tb.cyc).closed = false) (hst : s.nodeState n k ≠ nUNUSED) :
    feedbackMissing n k s = (s.slotShut n k s.tb.cyc).missHolds n k s.tb.cyc := by
  rw [feedbackMissing, if_pos hs, State.silentMissing]
  exact if_neg (by simp [ha, hb, hcl, hst])

theorem State.slotRx_cyc (s : State) (n k : Nat) (c : Word) : (s.slotRx n k c).cyc = c := by
  unfold State.slotRx
  dsimp only
  split
  · next h => exact h
  · rfl

/-- A slot that was shut for the cycle is closed. -/
theorem State.closed_slotShut (s : State) (n k : Nat) (c : Word) : ((s.slotShut n k c).slotRx n k c).closed = true := by
  have hc := s.slotRx_cyc n k c
  rw [State.slotShut, State.setSlotRx, State.slotRx, State.seg_setSeg_same]
  dsimp only
  rw [Table.get_set_same, if_pos hc]

/-! ## The statement -/

theorem State.OnlyTrn.law_eq (h : s.OnlyTrn t l) : t.law = s.law := (congrArg State.law h.rest :)
theorem State.OnlyTrn.pwm_eq (h : s.OnlyTrn t l) : t.pwm = s.pwm := (congrArg State.pwm h.rest :)
theorem State.OnlyTrn.fbk_eq (h : s.OnlyTrn t l) : t.fbk = s.fbk := (congrArg State.fbk h.rest :)
theorem State.OnlyTrn.sameMemory (h : s.OnlyTrn t l) : s.SameMemory t :=
  ⟨(congrArg State.hall h.rest :), (congrArg State.pv h.rest :), (congrArg (·.cap.dram) h.rest :)⟩
theorem State.OnlySegment.pwm_eq (h : s.OnlySegment t l) : t.pwm = s.pwm := (congrArg State.pwm h.rest :)
theorem State.OnlySegment.fbk_eq (h : s.OnlySegment t l) : t.fbk = s.fbk := (congrArg State.fbk h.rest :)

theorem State.SameMemory.trans (h : s.SameMemory t) (k : t.SameMemory u) : s.SameMemory u := ⟨k.hall.trans h.hall, k.pv.trans h.pv, k.dram.trans h.dram⟩

theorem State.node_congr (h : t.trn = s.trn) (n k : Nat) : t.node n k = s.node n k := by rw [State.node, h, State.node]

theorem trnReg_ne_lvl {a : Nat} (h : trnReg a) : a ≠ Reg.TSU_LVL 7 := by
  simp only [trnReg, Reg.TSU_LVL] at *
  omega

theorem mem_nodeStat (n k : Nat) : Reg.TRN_NODE_STAT n k ∈ nodeRegs n k := by simp [nodeRegs]
theorem mem_sevt (n k : Nat) : Reg.TRN_SEVT n ∈ nodeRegs n k := by simp [nodeRegs]

/-- A register of the image's slots. -/
def imageReg (n : Fin 12) (a : Nat) : Prop := a = Reg.TRN_SOFS n ∨ ∃ k : Fin 32, a = Reg.TRN_SLOT n k

/-- A frame leaves the image's slots. -/
theorem State.OnlyHeard.rd_image {n : Fin 12} {k : Fin 32} {ch a : Nat} {v x : State} (h : v.OnlyHeard x (nodeRegs n k))
    (hv : s.OnlySegment v (copyRegs n ch)) (ha : imageReg n a) : x.rd a = s.rd a := by
  have ht : trnReg a ∧ a ∉ nodeRegs n k ∧ a ∉ copyRegs n ch := by
    simp only [trnReg, nodeRegs, copyRegs, Reg.TRN_NODE_STAT, Reg.TRN_SSTAT, Reg.TRN_GRANT, Reg.TRN_SEVT, Reg.TRN_PRXOK, Reg.TRN_PLAST, Reg.TRN_ABMIS,
      Reg.TRN_ABEVT, Reg.TRN_AB_A, Reg.TRN_AB_B, List.mem_cons, List.not_mem_nil, or_false]
    rcases ha with rfl | ⟨j, rfl⟩
    · simp only [Reg.TRN_SOFS]
      omega
    · simp only [Reg.TRN_SLOT]
      omega
  exact (h.rd_trn ht.1 ht.2.1).trans (hv.rd_trn ht.1 ht.2.2)

/-- The counters of the two channels differ. -/
theorem abReg_ne {n ch : Nat} (hc : ch < 2) : abReg n ch ≠ abReg n (1 - ch) := by
  obtain rfl | rfl : ch = 0 ∨ ch = 1 := by omega
  all_goals simp [abReg, Reg.TRN_AB_A, Reg.TRN_AB_B]

theorem abReg_not_mismatch (n ch c : Nat) : abReg n c ∉ [Reg.TRN_PRXOK n ch, Reg.TRN_PLAST n ch, Reg.TRN_ABMIS n, Reg.TRN_ABEVT n] := by
  unfold abReg
  split <;> simp only [Reg.TRN_PRXOK, Reg.TRN_PLAST, Reg.TRN_ABMIS, Reg.TRN_ABEVT, Reg.TRN_AB_A, Reg.TRN_AB_B, List.mem_cons, List.not_mem_nil, or_false]
    <;> omega

theorem abmis_ne_abReg (n c : Nat) : Reg.TRN_ABMIS n ≠ abReg n c := fun e => abReg_not_mismatch n 0 c (by simp [← e])
theorem abevt_ne_abReg (n c : Nat) : Reg.TRN_ABEVT n ≠ abReg n c := fun e => abReg_not_mismatch n 0 c (by simp [← e])

/-- Registers of the laws outlast a node's change of state. -/
theorem State.OnlySegment.rd_page {n : Fin 12} {k : Fin 32} {r : Nat} (h : s.OnlySegment t (nodeRegs n k)) (hr : 0x40100000 ≤ r) : t.rd r = s.rd r :=
  h.regs r fun hm => (List.mem_append.1 hm).elim (fun hm => not_trnReg_of_far (.inr (.inr hr)) (trnReg_of_node hm)) fun hd =>
    farReg_not_notice (.inr (.inr hr)) (delivery_notice hd)

theorem missedBy_slotShut (s : State) (n : Fin 12) (k : Fin 32) (c : Word) (a : Nat) : (s.slotShut n k c).missedBy n k c a = s.missedBy n k c a := rfl

/-- Settles O43: a copy's content, its jobs and its residual, and the holds of a missing frame, each by what it leaves alone. -/
theorem feedbackFrames : Obligations.FeedbackFrames := by
  unfold Obligations.FeedbackFrames
  refine ⟨?_, ?_, ?_, ?_⟩
  · intro s n b ch f k c at0 hch hmode hon hloop hcheck hcap
    obtain ⟨w, hw⟩ := frameReceive_of_fb hch hon hloop hcheck hcap
    have hexec : exec (.frameReceive ⟨n, b⟩ f) s
        = .next ((s.frameCounted n ch w).feedbackFrame n k ch c at0 (hdrOf f.bytes) (f.bytes.take (8 + (hdrOf f.bytes).len))) :=
      congrArg Host.Outcome.next ((if_neg (by simpa using hmode)).trans hw)
    have hc2 : ch < 2 := by subst hch; cases b <;> simp
    have hsel : ∀ p q : Option Copy, (if b then q else p) = if ch = 0 then p else q := fun p q => by subst hch; cases b <;> rfl
    have hmemok : Reg.TRN_PRXOK n ch ∈ copyRegs n ch := by simp [copyRegs]
    refine ⟨fun ha hb => ?_, fun y hm ho hne => ⟨fun hl => ?_, fun hl => ?_⟩⟩
    · obtain ⟨v, x, hv, hok, ⟨hstate, habs, hevt, hbytes, hx⟩, hframe, hnode⟩ := s.feedbackFrame_first w at0 (hdrOf f.bytes)
        (f.bytes.take (8 + (hdrOf f.bytes).len)) (ch := ch) ha hb
      have hq := x.queued_queueJobs (.slot n k) c (x.slotRel n k)
      have htrn : ∀ a, trnReg a → a ≠ Reg.TRN_NODE_RES n k → _ = x.rd a := fun a ha hr =>
        (hframe.regs a (by simpa using hr)).trans (hq.regs a (trnReg_ne_lvl ha))
      obtain ⟨hrun, htrig, hdue, hprog⟩ := State.laws_congr fun a ha => (hx.rd_far ha).trans (hv.rd_far hc2 ha)
      have hrel : x.slotRel n k = s.slotRel n k := State.slotRel_congr (hx.rd_image hv (.inr ⟨k, rfl⟩)) (hx.rd_image hv (.inl rfl))
      obtain ⟨hns, hne, hack⟩ := (State.node_congr (congrArg State.trn hq.frame : _ = x.trn) n k ▸ hnode : (x.node n k).SameBytes _)
      have hlaw := hframe.law_eq
      refine ⟨_, hexec, ?_, ?_, hns.trans hbytes.1, hne.trans hbytes.2.1, hack.trans hbytes.2.2, ?_, fun hn => ?_, fun q hq' => ?_,
        fun a ha hr ht hd hp => ?_, fun hi => ?_, ?_, ?_, ?_⟩
      · exact (congrArg (wFld · 31 29) (htrn _ (trnReg_nodeStat n k) (node_ne_res (mem_nodeStat n k)))).trans hstate
      · exact (congrArg (wFld · 25 24) (htrn _ (trnReg_nodeStat n k) (node_ne_res (mem_nodeStat n k)))).trans habs
      · rw [htrn _ (trnReg_of_copy hc2 hmemok) (copy_ne_res hmemok), hx.rd_trn (trnReg_of_copy hc2 hmemok) (fun hm => node_not_copy hm hmemok), hok]
      · refine (congrArg (wBit · 28) (htrn _ (trnReg_sevt n) (node_ne_res (mem_sevt n k)))).trans (hevt ?_)
        rwa [State.nodeState, State.fld, hv.rd_trn (trnReg_nodeStat n k) (node_not_copy (mem_nodeStat n k))]
      · rw [hlaw]
        exact hq.jobs q (by rwa [hx.jobs_eq, hv.law_eq])
      · rw [hlaw, ← hrel]
        exact State.mem_queueJobs ha (hrun.trans hr) ((htrig _ _).trans ht) ((hdue _ _).trans hd) ((hprog a).trans hp) _
      · rw [hlaw, State.queueJobs_of_idle (hrun.trans hi), hx.jobs_eq, hv.law_eq]
      · rw [hlaw, hq.lanes, hx.lanes_eq, hv.law_eq]
      · exact (hframe.pwm_eq.trans (congrArg State.pwm hq.frame :)).trans (hx.pwm_eq.trans hv.pwm_eq)
      · exact hv.sameMemory.trans (hx.sameMemory.trans (hq.sameMemory.trans hframe.sameMemory))
    · have hbef : Copy.before ch ⟨at0, f.bytes.take (8 + (hdrOf f.bytes).len)⟩ y = false := by
        subst hch
        rcases hl with hl | ⟨hl, rfl⟩ <;> simp [Copy.before] <;> omega
      obtain ⟨u, ⟨hu, hcount, hevt⟩, hframe, -⟩ := s.feedbackFrame_later w (hdrOf f.bytes) (hsel _ _ ▸ hm) (hsel _ _ ▸ ho) hne hbef
      have hr : ∀ a, a ∈ copyRegs n ch → _ = u.rd a := fun a ha => hframe.regs a (by simpa using copy_ne_res ha)
      refine ⟨_, hexec, ?_, ?_, hframe.law_eq.trans hu.law_eq, hframe.fbk_eq.trans hu.fbk_eq, hu.sameMemory.trans hframe.sameMemory, ?_⟩
      · rw [hr _ (by simp [copyRegs]), hcount]
      · exact (congrArg (wBit · 31) (hr _ (by simp [copyRegs]))).trans hevt
      · exact (hu.regs.mono (by simp +contextual)).trans (hframe.regs.mono (by simp))
    · have hbef : Copy.before ch ⟨at0, f.bytes.take (8 + (hdrOf f.bytes).len)⟩ y = true := by
        subst hch
        rcases hl with hl | ⟨hl, rfl⟩ <;> simp [Copy.before] <;> omega
      obtain ⟨u, x, ⟨hu, hcount, hevt⟩, ⟨-, -, -, hbytes, hx⟩, hframe, hns, hnerr, hack⟩ :=
        s.feedbackFrame_earlier w (hdrOf f.bytes) (hsel _ _ ▸ hm) (hsel _ _ ▸ ho) hne hbef
      have hne' : abReg n ch ≠ abReg n (1 - ch) := abReg_ne hc2
      have hr : ∀ a, a ∈ copyRegs n ch → _ = ((u.wr (abReg n (1 - ch)) (u.rd (abReg n (1 - ch)) - 1)).inc (abReg n ch)).rd a := fun a ha =>
        (hframe.regs a (by simpa using copy_ne_res ha)).trans (hx.rd_trn (trnReg_of_copy hc2 ha) fun hm => node_not_copy hm ha)
      have hu' : ∀ c, u.rd (abReg n c) = s.rd (abReg n c) := fun c => hu.rd_trn (trnReg_abReg n c) (abReg_not_mismatch n ch c)
      refine ⟨_, hexec, ?_, ?_, ?_, ?_, hns.trans hbytes.1, hnerr.trans hbytes.2.1, hack.trans hbytes.2.2, ?_, ?_⟩
      · rw [hr _ (by simp [copyRegs]), State.inc_wr, State.rd_wr_other _ _ (abmis_ne_abReg n ch), State.rd_wr_other _ _ (abmis_ne_abReg n _), hcount]
      · rw [State.bit, hr _ (by simp [copyRegs]), State.inc_wr, State.rd_wr_other _ _ (abevt_ne_abReg n ch), State.rd_wr_other _ _ (abevt_ne_abReg n _)]
        exact hevt
      · rw [hr _ (mem_abReg n ch ch), State.inc_wr, State.rd_wr_same, State.rd_wr_other _ _ hne', hu']
      · rw [hr _ (mem_abReg n ch (1 - ch)), State.inc_wr, State.rd_wr_other _ _ hne'.symm, State.rd_wr_same, hu']
      · rw [hframe.law_eq, hx.jobs_eq]
        exact congrArg LawBlock.jobs hu.law_eq
      · have hxm : u.SameMemory x := ⟨hx.sameMemory.hall, hx.sameMemory.pv, hx.sameMemory.dram⟩
        exact (hu.sameMemory.trans hxm).trans hframe.sameMemory
  · intro s n k c hc hs ha hb hcl hst
    obtain ⟨htrn, hfbk, hjobs, hstore, hregs⟩ := (s.slotShut n k c).onlyHeld_missHolds n k c
    have hcnt := fun a (ha : a < 256) => (s.slotShut n k c).rd_missHolds n k c ha
    have hstat := fun a (ha : a < 256) => (s.slotShut n k c).bit_missHolds (n := n) (k := k) (c := c) ha
    have he := feedbackMissing_of_in hc hs ha hb hcl hst
    have hf : ∀ hi lo, ((s.slotShut n k c).missHolds n k c).fld (Reg.TRN_NODE_STAT n k) hi lo = s.fld (Reg.TRN_NODE_STAT n k) hi lo := fun hi lo =>
      congrArg (wFld · hi lo) (hregs _ (trnReg_nodeStat n k))
    generalize (s.slotShut n k c).missHolds n k c = v at *
    have hv := v.onlySegment_absence n k c
    have hlaw : ∀ r, 0x40100000 ≤ r → (v.absence n k c).rd r = v.rd r := fun r hr => hv.rd_page hr
    refine ⟨_, congrArg Host.Outcome.next he, fun a ha => ?_, fun a ha h1 h2 h3 => ?_, fun h => ?_, fun h => ?_, ?_, ?_, ?_⟩
    · rw [hlaw _ (by simp only [Reg.LAW_MISS_CNT]; omega)]
      exact hcnt a ha
    · refine (congrArg (wBit · 30) (hlaw _ (by simp only [Reg.LAW_STAT]; omega))).trans (hstat a ha ?_)
      rw [missedBy_slotShut]
      simp [State.missedBy, h1, h2, h3]
    · obtain ⟨h1, h2⟩ := v.absence_counts (hf 25 24 ▸ h) c
      rw [h1, h2, hf]
      exact ⟨(hf 31 29).trans hst, rfl⟩
    · exact v.absence_out ((hf 25 24).trans h) c
    · rw [hv.law_eq]
      exact hjobs
    · rw [hv.fbk_eq]
      exact hfbk
    · exact ⟨hv.sameMemory.hall.trans hstore.hall, hv.sameMemory.pv.trans hstore.pv, fun a => by rw [hv.sameMemory.dram]; exact hstore.dram a⟩
  · intro s n k hs ha hb hcl hst
    obtain ⟨htrn, hfbk, hjobs, hstore, hregs⟩ := (s.slotShut n k s.tb.cyc).onlyHeld_missHolds n k s.tb.cyc
    refine ⟨_, congrArg Host.Outcome.next (feedbackMissing_of_silent hs ha hb hcl hst), fun j hj => ?_, ?_, fun a ha => ?_, fun a ha h1 h2 h3 => ?_,
      hjobs, hfbk, ⟨hstore.hall, hstore.pv, hstore.dram⟩⟩
    · exact congrArg (wFld · 31 29) (hregs _ (trnReg_nodeStat n ⟨j, hj⟩))
    · rw [State.slotRx, State.seg, htrn]
      exact s.closed_slotShut n k s.tb.cyc
    · exact (s.slotShut n k s.tb.cyc).rd_missHolds n k s.tb.cyc ha
    · exact (s.slotShut n k s.tb.cyc).bit_missHolds ha (by rw [missedBy_slotShut]; simp [State.missedBy, h1, h2, h3])
  · intro s n k c hc hs h
    refine congrArg Host.Outcome.next (?_ : feedbackMissing n k s = s)
    rw [feedbackMissing, if_neg (by simp [hs]), hc]
    exact if_pos (by rcases h with h | h | h | h | h <;> simp [h])

end Sys2Proof.Machine
end

section
/-! Staged coefficients: the writes of LAW_STG_CTRL, the copy, and the swap of the banks (R45, R51 to R53). -/

namespace Sys2Proof.Machine

variable {s t : State} {l : List Nat} {a : Nat} {v : Word}

/-! ## Registers apart -/

theorem stgStat_ne_ctrl (a : Nat) : Reg.LAW_STG_STAT a ≠ Reg.LAW_STG_CTRL a := by simp only [Reg.LAW_STG_STAT, Reg.LAW_STG_CTRL]; omega
theorem stgCyc_ne_ctrl (a : Nat) : Reg.LAW_STG_CYC a ≠ Reg.LAW_STG_CTRL a := by simp only [Reg.LAW_STG_CYC, Reg.LAW_STG_CTRL]; omega
theorem stgBank_ne_stat (a w : Nat) : Reg.LAW_STG_BANK a w ≠ Reg.LAW_STG_STAT a := by simp only [Reg.LAW_STG_BANK, Reg.LAW_STG_STAT]; omega
theorem actBank_ne_stat (a w : Nat) : Reg.LAW_ACT_BANK a w ≠ Reg.LAW_STG_STAT a := by simp only [Reg.LAW_ACT_BANK, Reg.LAW_STG_STAT]; omega
theorem stgBank_inj (a k w : Nat) : Reg.LAW_STG_BANK a k = Reg.LAW_STG_BANK a w ↔ k = w := by simp only [Reg.LAW_STG_BANK]; omega
theorem actBank_inj (a k w : Nat) : Reg.LAW_ACT_BANK a k = Reg.LAW_ACT_BANK a w ↔ k = w := by simp only [Reg.LAW_ACT_BANK]; omega

theorem actBank_ne_stgBank (a k : Nat) {w : Nat} (hw : w < 51) : Reg.LAW_ACT_BANK a k ≠ Reg.LAW_STG_BANK a w := by
  simp only [Reg.LAW_ACT_BANK, Reg.LAW_STG_BANK]; omega

theorem stgBank_ne_actBank (a w : Nat) {k : Nat} (hk : k < 51) : Reg.LAW_STG_BANK a k ≠ Reg.LAW_ACT_BANK a w :=
  (actBank_ne_stgBank a w hk).symm

/-- The registers of the staged bank of an axis, and of its active bank. -/
abbrev stgBanks (a : Nat) : List Nat := (List.range 51).map (Reg.LAW_STG_BANK a)
abbrev actBanks (a : Nat) : List Nat := (List.range 51).map (Reg.LAW_ACT_BANK a)

theorem mem_stgBanks (a : Nat) {w : Nat} (hw : w < 51) : Reg.LAW_STG_BANK a w ∈ stgBanks a := List.mem_map_of_mem (List.mem_range.2 hw)
theorem mem_actBanks (a : Nat) {w : Nat} (hw : w < 51) : Reg.LAW_ACT_BANK a w ∈ actBanks a := List.mem_map_of_mem (List.mem_range.2 hw)

/-- A register between LAW_STG_STAT and the staged window, where LAW_INIT stands, is in neither bank. -/
theorem not_mem_banks {r : Nat} (h : r < 0x40100100 + 0x400 * a) : r ∉ stgBanks a ++ actBanks a := by
  simp only [List.mem_append, List.mem_map, Reg.LAW_STG_BANK, Reg.LAW_ACT_BANK, not_or, not_exists, not_and]
  exact ⟨fun _ _ => by omega, fun _ _ => by omega⟩

/-! ## Fields and frames -/

/-- The requests ARM, CANCEL and COPY of LAW_STG_CTRL, read from their field. -/
theorem wBit_of_requests {n : Nat} (h : wFld v 31 29 = n) : wBit v 31 = n.testBit 2 ∧ wBit v 30 = n.testBit 1 ∧ wBit v 29 = n.testBit 0 := by
  subst h
  exact ⟨(testBit_wFld v 31 29 2).symm, (testBit_wFld v 31 29 1).symm, (testBit_wFld v 31 29 0).symm⟩

/-- A written bit leaves a field below it alone. -/
theorem wFld_wSetBit_below (w : Word) {i hi : Nat} (lo : Nat) (h : hi < i) (b : Bool) : wFld (wSetBit w i b) hi lo = wFld w hi lo := by
  apply Nat.eq_of_testBit_eq
  intro j
  rw [testBit_wFld, testBit_wFld]
  by_cases hj : j < hi + 1 - lo
  · rw [← wBit_eq, wBit_wSetBit_other w (by omega) b, wBit_eq]
  · simp [hj]

/-- A written field leaves a bit above it alone. -/
theorem wBit_wSetFld_above (w : Word) {hi lo i : Nat} (hl : lo ≤ hi + 1) (h : hi < i) (h32 : i < 32) (n : Nat) :
    wBit (wSetFld w hi lo n) i = wBit w i := by
  rw [wBit_eq, getLsbD_wSetFld _ _ _ _ _ hl, if_neg (by omega)]
  simp [h32, wBit_eq]

/-- An axis and a register of l that change: t is s but for the laws and l. -/
theorem State.OnlyRegs.axis_wr (h : s.OnlyRegs t l) {r : Nat} (hr : r ∈ l) (c : AxisCtx) (v : Word) :
    s.OnlyRegs { (t.setAxis a c).wr r v with law := s.law } l :=
  ⟨(congrArg (fun x : State => { x with law := s.law }) h.rest :), h.regs.wr hr v⟩

/-! ## A write of LAW_STG_CTRL -/

/-- LAW_STG_CTRL takes the INIT of a write. -/
def State.initWritten (s : State) (a : Nat) (v : Word) : State := s.setFld (Reg.LAW_STG_CTRL a) 1 0 (wFld v 1 0)

/-- The axis has no armed swap. -/
def State.disarmed (s : State) (a : Nat) : State := s.setAxis a { s.axis a with swap := none, deferred := false }

theorem State.sameMemory_disarmed (s : State) (a : Nat) : s.SameMemory (s.disarmed a) := ⟨rfl, rfl, rfl⟩

theorem State.axis_disarmed (s : State) (a : Nat) : (s.disarmed a).axis a = { s.axis a with swap := none, deferred := false } :=
  s.axis_setAxis_same a _

/-- The swap that ARM arms: at the cycle of LAW_STG_CYC, or late where that has come (R51). -/
def State.armedSwap (s : State) (a init : Nat) : Swap :=
  ⟨s.rd (Reg.LAW_STG_CYC a), init, decide (sdiff (s.rd (Reg.LAW_STG_CYC a)) s.tb.cyc ≤ 0)⟩

/-- Bit i of LAW_STG_STAT is set. -/
def State.statSet (s : State) (a i : Nat) : State := s.setBit (Reg.LAW_STG_STAT a) i true

theorem State.bit_initWritten (s : State) (a : Nat) (v : Word) (i : Nat) :
    (s.initWritten a v).bit (Reg.LAW_STG_STAT a) i = s.bit (Reg.LAW_STG_STAT a) i := s.bit_wr_other _ (stgStat_ne_ctrl a) i

theorem State.armedSwap_initWritten (s : State) (a : Nat) (v : Word) (n : Nat) : (s.initWritten a v).armedSwap a n = s.armedSwap a n := by
  rw [State.armedSwap, State.initWritten, State.setFld_wr, State.rd_wr_other _ _ (stgCyc_ne_ctrl a)]
  rfl

theorem State.onlyRegs_initWritten (s : State) (a : Nat) (v : Word) :
    s.OnlyRegs (s.initWritten a v) [Reg.LAW_STG_CTRL a, Reg.LAW_STG_STAT a] := (State.OnlyRegs.refl s _).wr (by simp) _

theorem State.bit_statSet_same (s : State) (a : Nat) {i : Nat} (hi : i < 32) : (s.statSet a i).bit (Reg.LAW_STG_STAT a) i = true :=
  (s.bit_setBit _ _ _ _ hi).trans (if_pos rfl)

theorem State.bit_statSet_other (s : State) (a : Nat) {i j : Nat} (hi : i < 32) (h : j ≠ i) :
    (s.statSet a i).bit (Reg.LAW_STG_STAT a) j = s.bit (Reg.LAW_STG_STAT a) j := (s.bit_setBit _ _ _ _ hi).trans (if_neg h)

theorem State.OnlyRegs.statSet (h : s.OnlyRegs t [Reg.LAW_STG_CTRL a, Reg.LAW_STG_STAT a]) (i : Nat) :
    s.OnlyRegs (t.statSet a i) [Reg.LAW_STG_CTRL a, Reg.LAW_STG_STAT a] := h.wr (by simp) _

/-- The swap is armed. -/
def State.armed (s : State) (a init : Nat) : State :=
  (s.setAxis a { s.axis a with swap := some (s.armedSwap a init), deferred := false }).statSet a 31

theorem State.axis_armed_same (s : State) (a init : Nat) :
    (s.armed a init).axis a = { s.axis a with swap := some (s.armedSwap a init), deferred := false } := s.axis_setAxis_same a _

theorem State.axis_armed_other (s : State) {a b : Nat} (init : Nat) (h : b ≠ a) : (s.armed a init).axis b = s.axis b := s.axis_setAxis_other a _ h

/-- CANCEL takes an armed swap back. -/
def State.cancelled (s : State) (a : Nat) : State := (s.disarmed a).setBit (Reg.LAW_STG_STAT a) 31 false

/-- What COPY brings about: BUSY while a swap or a copy is pending, else a copy that runs. -/
def State.copyAsked (s : State) (a : Nat) : State :=
  if s.bit (Reg.LAW_STG_STAT a) 31 || s.bit (Reg.LAW_STG_STAT a) 30 then s.statSet a 27 else s.statSet a 30

/-- What ARM brings about: BUSY beside COPY or while a copy runs, else an armed swap. -/
def State.armAsked (s : State) (a : Nat) (v : Word) : State :=
  if wBit v 29 || s.bit (Reg.LAW_STG_STAT a) 30 then s.statSet a 27 else s.armed a (wFld v 1 0)

/-- A write of LAW_STG_CTRL: its INIT, then CANCEL, COPY and ARM in this order. -/
theorem State.stgCtrl_eq (s : State) (a : Nat) (v : Word) :
    let u := if wBit v 30 then (s.initWritten a v).cancelled a else s.initWritten a v
    let w := if wBit v 29 then u.copyAsked a else u
    s.stgCtrl a v = if wBit v 31 && !wBit v 30 then w.armAsked a v else w := rfl

/-- ARM alone. -/
theorem State.stgCtrl_arm (s : State) (a : Nat) (h : wFld v 31 29 = 4) :
    s.stgCtrl a v = if s.bit (Reg.LAW_STG_STAT a) 30 then (s.initWritten a v).statSet a 27 else (s.initWritten a v).armed a (wFld v 1 0) := by
  obtain ⟨h31 : _ = true, h30 : _ = false, h29 : _ = false⟩ := wBit_of_requests h
  rw [s.stgCtrl_eq]
  simp only [h31, h30, h29, State.armAsked, s.bit_initWritten, Bool.not_false, Bool.and_self, Bool.false_or, Bool.false_eq_true, if_true, if_false]

/-- CANCEL alone. -/
theorem State.stgCtrl_cancel (s : State) (a : Nat) (h : wFld v 31 29 = 2) : s.stgCtrl a v = (s.initWritten a v).cancelled a := by
  obtain ⟨h31 : _ = false, h30 : _ = true, h29 : _ = false⟩ := wBit_of_requests h
  rw [s.stgCtrl_eq]
  simp only [h31, h30, h29, Bool.false_and, Bool.false_eq_true, if_true, if_false]

/-- COPY alone. -/
theorem State.stgCtrl_copy (s : State) (a : Nat) (h : wFld v 31 29 = 1) : s.stgCtrl a v = (s.initWritten a v).copyAsked a := by
  obtain ⟨h31 : _ = false, h30 : _ = false, h29 : _ = true⟩ := wBit_of_requests h
  rw [s.stgCtrl_eq]
  simp only [h31, h30, h29, Bool.false_and, Bool.false_eq_true, if_true, if_false]

/-- COPY with ARM: the copy, and BUSY for the ARM. -/
theorem State.stgCtrl_copyArm (s : State) (a : Nat) (h : wFld v 31 29 = 5) :
    s.stgCtrl a v = ((s.initWritten a v).copyAsked a).statSet a 27 := by
  obtain ⟨h31 : _ = true, h30 : _ = false, h29 : _ = true⟩ := wBit_of_requests h
  rw [s.stgCtrl_eq]
  simp only [h31, h30, h29, State.armAsked, Bool.not_false, Bool.and_self, Bool.true_or, Bool.false_eq_true, if_true, if_false]

theorem State.copyAsked_free (h31 : s.bit (Reg.LAW_STG_STAT a) 31 = false) (h30 : s.bit (Reg.LAW_STG_STAT a) 30 = false) :
    s.copyAsked a = s.statSet a 30 := by
  rw [State.copyAsked, h31, h30]
  rfl

theorem State.copyAsked_busy (h : s.bit (Reg.LAW_STG_STAT a) 31 = true ∨ s.bit (Reg.LAW_STG_STAT a) 30 = true) :
    s.copyAsked a = s.statSet a 27 := if_pos (by simpa using h)

/-- The three commands are one write. -/
theorem exec_stgCtrl {m : Fin 32} {a : Fin 256} (h : s.may m (Reg.LAW_STG_CTRL a) true) (v : Word) :
    exec (.lawStgArm m a v) s = .next (s.stgCtrl a v) ∧ exec (.lawStgCancel m a v) s = .next (s.stgCtrl a v)
      ∧ exec (.lawStgCopy m a v) s = .next (s.stgCtrl a v) := by
  have e := congrArg (Host.Outcome.next (φ := Fault) (ρ := Refusal)) (State.regAccess_of_may h fun s => s.stgCtrl a v)
  exact ⟨e, e, e⟩

/-! ## Loops over the banks -/

/-- Word w of both banks, staged and active. -/
def State.bankPair (s : State) (a w : Nat) : Word × Word := (s.rd (Reg.LAW_STG_BANK a w), s.rd (Reg.LAW_ACT_BANK a w))

/-- The pair of a word of the banks, and nothing past them: the windows are longer than the banks. -/
def State.bankView (s : State) (a w : Nat) : Option (Word × Word) := if w < 51 then some (s.bankPair a w) else none

theorem State.bankView_of_lt (s : State) (a : Nat) {w : Nat} (hw : w < 51) : s.bankView a w = some (s.bankPair a w) := if_pos hw

/-- A loop over the banks whose step at i takes the pair of i alone through F has taken each pair through F. -/
theorem State.bankPair_each {f : Nat → State → State} {F : Word × Word → Word × Word}
    (hf : ∀ u : State, ∀ i, i < 51 → ∀ k, k < 51 → (f i u).bankPair a k = if k = i then F (u.bankPair a i) else u.bankPair a k)
    (s : State) {w : Nat} (hw : w < 51) : (s.each (List.range 51) f).bankPair a w = F (s.bankPair a w) := by
  have step : ∀ i ∈ List.range 51, ∀ u : State, True → ∀ k, (f i u).bankView a k = if k = i then (u.bankView a i).map F else u.bankView a k := by
    intro i hi u _ k
    have hi := List.mem_range.1 hi
    by_cases hk : k < 51
    · rw [State.bankView_of_lt _ _ hk, State.bankView_of_lt _ _ hk, State.bankView_of_lt _ _ hi, hf u i hi k hk]
      split <;> rfl
    · rw [if_neg (by omega), State.bankView, State.bankView, if_neg hk, if_neg hk]
  have h := State.each_view (P := fun _ => True) (view := fun u k => u.bankView a k) (F := fun _ => Option.map F) (t := s)
    List.nodup_range trivial (fun _ _ _ _ => trivial) step w
  rw [if_pos (List.mem_range.2 hw), State.bankView_of_lt _ _ hw, State.bankView_of_lt _ _ hw] at h
  exact Option.some.inj h

/-! ## The copy -/

/-- Word w of the active bank is copied into the staged bank. -/
def State.copyWord (a w : Nat) (s : State) : State := s.wr (Reg.LAW_STG_BANK a w) (s.rd (Reg.LAW_ACT_BANK a w))

/-- The active bank is copied into the staged one. -/
def State.bankCopied (s : State) (a : Nat) : State := s.each (List.range 51) (State.copyWord a)

theorem State.bankPair_copyWord (s : State) (a k : Nat) {w : Nat} (hw : w < 51) :
    (s.copyWord a w).bankPair a k = if k = w then ((s.bankPair a w).2, (s.bankPair a w).2) else s.bankPair a k := by
  rw [State.bankPair, State.copyWord, State.rd_wr_other _ _ (actBank_ne_stgBank a k hw), State.rd_wr, if_congr (stgBank_inj a k w) rfl rfl]
  split
  · next h => rw [h]; rfl
  · rfl

theorem State.bankPair_bankCopied (s : State) (a : Nat) {w : Nat} (hw : w < 51) :
    (s.bankCopied a).bankPair a w = ((s.bankPair a w).2, (s.bankPair a w).2) :=
  State.bankPair_each (F := fun p => (p.2, p.2)) (fun u _ hi k _ => u.bankPair_copyWord a k hi) s hw

/-- The copy makes the staged bank equal to the active one (R53). -/
theorem State.rd_bankCopied (s : State) (a : Nat) {w : Nat} (hw : w < 51) :
    (s.bankCopied a).rd (Reg.LAW_STG_BANK a w) = s.rd (Reg.LAW_ACT_BANK a w) := by
  have h := s.bankPair_bankCopied a hw
  generalize s.bankCopied a = t at h ⊢
  exact congrArg Prod.fst h

theorem State.onlyRegs_bankCopied (s : State) (a : Nat) : s.OnlyRegs (s.bankCopied a) (stgBanks a) :=
  State.each_keeps (P := fun u => s.OnlyRegs u (stgBanks a)) (.refl s _) fun _ hw _ hu => hu.wr (mem_stgBanks a (List.mem_range.1 hw)) _

theorem lawStgCopyDone_running (h : s.bit (Reg.LAW_STG_STAT a) 30 = true) :
    lawStgCopyDone a s = (s.bankCopied a).setBit (Reg.LAW_STG_STAT a) 30 false := by
  rw [lawStgCopyDone, if_pos h]
  rfl

theorem lawStgCopyDone_idle (h : s.bit (Reg.LAW_STG_STAT a) 30 = false) : lawStgCopyDone a s = s := by
  rw [lawStgCopyDone, h]
  rfl

/-! ## The swap -/

/-- Word w of the two banks is exchanged. -/
def State.swapWord (a w : Nat) (s : State) : State :=
  (s.wr (Reg.LAW_STG_BANK a w) (s.rd (Reg.LAW_ACT_BANK a w))).wr (Reg.LAW_ACT_BANK a w) (s.rd (Reg.LAW_STG_BANK a w))

/-- The two banks are exchanged. -/
def State.banksSwapped (s : State) (a : Nat) : State := s.each (List.range 51) (State.swapWord a)

theorem State.bankPair_swapWord (s : State) (a : Nat) {k w : Nat} (hk : k < 51) (hw : w < 51) :
    (s.swapWord a w).bankPair a k = if k = w then (s.bankPair a w).swap else s.bankPair a k := by
  rw [State.bankPair, State.swapWord, State.rd_wr_other _ _ (stgBank_ne_actBank a w hk), State.rd_wr, State.rd_wr,
    State.rd_wr_other _ _ (actBank_ne_stgBank a k hw), if_congr (stgBank_inj a k w) rfl rfl, if_congr (actBank_inj a k w) rfl rfl]
  split <;> rfl

theorem State.bankPair_banksSwapped (s : State) (a : Nat) {w : Nat} (hw : w < 51) : (s.banksSwapped a).bankPair a w = (s.bankPair a w).swap :=
  State.bankPair_each (fun u _ hi _ hk => u.bankPair_swapWord a hk hi) s hw

theorem State.onlyRegs_banksSwapped (s : State) (a : Nat) : s.OnlyRegs (s.banksSwapped a) (stgBanks a ++ actBanks a) :=
  State.each_keeps (P := fun u => s.OnlyRegs u (stgBanks a ++ actBanks a)) (.refl s _) fun _ hw _ hu =>
    (hu.wr (List.mem_append_left _ (mem_stgBanks a (List.mem_range.1 hw))) _).wr (List.mem_append_right _ (mem_actBanks a (List.mem_range.1 hw))) _

/-- The bank that a swap put in force waits to be sent to the partner, where the pair is enabled (R392). -/
def State.bankNoted (s : State) (a : Nat) : State :=
  if s.bit Reg.PAIR_CFG 31 then { s with pair := { s.pair with banks := s.pair.banks.filter (fun b => b != a) ++ [a] } } else s

/-- The state words that INIT gives: zero, LAW_INIT, or those that stand (R51). -/
def State.initWords (s : State) (a init : Nat) : List Nat :=
  match init with
  | 1 => [0, 0, 0, 0, 0, 0]
  | 2 => [s.fld (Reg.LAW_INIT01 a) 15 0, s.fld (Reg.LAW_INIT01 a) 31 16, s.fld (Reg.LAW_INIT23 a) 15 0, s.fld (Reg.LAW_INIT23 a) 31 16,
          s.fld (Reg.LAW_INIT45 a) 15 0, s.fld (Reg.LAW_INIT45 a) 31 16]
  | _ => (s.axis a).x

theorem State.initWords_disarmed (s : State) (a init : Nat) : (s.disarmed a).initWords a init = s.initWords a init := by
  unfold State.initWords
  rw [s.axis_disarmed]
  rfl

/-- The status w is shown after a swap, with LATE where it was late, beside the state words of the axis (R51). -/
def State.swapShown (s : State) (a : Nat) (p : Swap) (x : List Nat) (w : Word) : State :=
  (s.setAxis a { s.axis a with x := x, swapped := true }).wr (Reg.LAW_STG_STAT a)
    (if p.late || decide (0 < sdiff s.tb.cyc p.target) then wSetBit w 29 true else w)

/-- LAW_STG_STAT at a swap: PENDING cleared, DONE set, the cycle shown. -/
def State.doneStat (s : State) (a : Nat) : Word := wSetFld (wSetBit (wSetBit (s.rd (Reg.LAW_STG_STAT a)) 31 false) 26 true) 15 0 s.cycLo

/-- The swap of an axis done: banks, note for the partner, state words and status. -/
def State.swapDone (s : State) (a : Nat) (p : Swap) : State :=
  ((s.banksSwapped a).bankNoted a).swapShown a p ((s.banksSwapped a).initWords a p.init) ((s.banksSwapped a).doneStat a)

theorem State.banksSwapped_initWords (s : State) (a init : Nat) : (s.banksSwapped a).initWords a init = s.initWords a init := by
  have h := s.onlyRegs_banksSwapped a
  have h01 := h.regs (Reg.LAW_INIT01 a) (not_mem_banks (by simp only [Reg.LAW_INIT01]; omega))
  have h23 := h.regs (Reg.LAW_INIT23 a) (not_mem_banks (by simp only [Reg.LAW_INIT23]; omega))
  have h45 := h.regs (Reg.LAW_INIT45 a) (not_mem_banks (by simp only [Reg.LAW_INIT45]; omega))
  simp only [State.initWords, State.fld, h01, h23, h45, State.axis_congr h.law_eq]

theorem State.rd_bankNoted (s : State) (a r : Nat) : (s.bankNoted a).rd r = s.rd r := by
  unfold State.bankNoted
  split <;> rfl

theorem State.law_bankNoted (s : State) (a : Nat) : (s.bankNoted a).law = s.law := by
  unfold State.bankNoted
  split <;> rfl

theorem State.sameMemory_bankNoted (s : State) (a : Nat) : s.SameMemory (s.bankNoted a) := by
  unfold State.bankNoted
  split <;> exact ⟨rfl, rfl, rfl⟩

/-- A staged bank with UMIN above UMAX is refused (R45, R51). -/
theorem State.swapNow_refused (p : Swap) (h : ulimBad (s.rd (Reg.LAW_STG_BANK a 49)) = true ∨ ulimBad (s.rd (Reg.LAW_STG_BANK a 50)) = true) :
    s.swapNow a p = (s.disarmed a).wr (Reg.LAW_STG_STAT a) (wSetBit (wSetBit (s.rd (Reg.LAW_STG_STAT a)) 31 false) 25 true) :=
  if_pos (Bool.or_eq_true_iff.2 h)

theorem State.swapNow_accepted (p : Swap) (h49 : ulimBad (s.rd (Reg.LAW_STG_BANK a 49)) = false)
    (h50 : ulimBad (s.rd (Reg.LAW_STG_BANK a 50)) = false) : s.swapNow a p = (s.disarmed a).swapDone a p := by
  have hstat : (s.disarmed a).rd (Reg.LAW_STG_STAT a) = ((s.disarmed a).banksSwapped a).rd (Reg.LAW_STG_STAT a) :=
    (((s.disarmed a).onlyRegs_banksSwapped a).regs _ (not_mem_banks (by simp only [Reg.LAW_STG_STAT]; omega))).symm
  have e : ¬ (ulimBad ((s.disarmed a).rd (Reg.LAW_STG_BANK a 49)) || ulimBad ((s.disarmed a).rd (Reg.LAW_STG_BANK a 50))) = true := by
    rw [State.disarmed, State.setAxis_rd, State.setAxis_rd, h49, h50]
    decide
  rw [State.swapDone, State.doneStat, ← hstat]
  exact if_neg e

theorem State.OnlyRegs.cycLo_eq (h : s.OnlyRegs t l) : t.cycLo = s.cycLo := (congrArg State.cycLo h.rest :)

theorem State.axis_swapShown (s : State) (a : Nat) (p : Swap) (x : List Nat) (w : Word) :
    (s.swapShown a p x w).axis a = { s.axis a with x := x, swapped := true } := s.axis_setAxis_same a _

theorem State.regsBut_swapShown (s : State) (a : Nat) (p : Swap) (x : List Nat) (w : Word) :
    s.RegsBut (s.swapShown a p x w) [Reg.LAW_STG_STAT a] := (State.RegsBut.refl s _).wr (List.mem_singleton_self _) _

/-- LATE aside, the status shows w. -/
theorem State.stat_swapShown (s : State) (a : Nat) (p : Swap) (x : List Nat) (w : Word) :
    (∀ i, i ≠ 29 → (s.swapShown a p x w).bit (Reg.LAW_STG_STAT a) i = wBit w i) ∧ (s.swapShown a p x w).fld (Reg.LAW_STG_STAT a) 15 0 = wFld w 15 0 := by
  rw [State.fld, State.swapShown, State.rd_wr_same]
  refine ⟨fun i hi => (congrArg (wBit · i) (State.rd_wr_same _ _ _)).trans ?_, ?_⟩
  · split
    · exact wBit_wSetBit_other w (Ne.symm hi) true
    · rfl
  · split
    · exact wFld_wSetBit_below w 0 (by decide) true
    · rfl

theorem State.stat_doneStat (s : State) (a : Nat) :
    wBit (s.doneStat a) 31 = false ∧ wBit (s.doneStat a) 26 = true ∧ wFld (s.doneStat a) 15 0 = s.cycLo := by
  refine ⟨?_, ?_, ?_⟩
  · rw [State.doneStat, wBit_wSetFld_above _ (by decide) (by decide) (by decide), wBit_wSetBit_other _ (by decide), wBit_wSetBit_same _ (by decide)]
  · rw [State.doneStat, wBit_wSetFld_above _ (by decide) (by decide) (by decide), wBit_wSetBit_same _ (by decide)]
  · rw [State.doneStat, wFld_wSetFld_same _ (by decide) (by decide), State.cycLo]
    exact Nat.mod_mod _ 65536

/-- What a swap that is done leaves in the axis. -/
theorem State.axis_swapDone (s : State) (a : Nat) (p : Swap) :
    (s.swapDone a p).axis a = { s.axis a with x := s.initWords a p.init, swapped := true } := by
  have hlaw : ((s.banksSwapped a).bankNoted a).axis a = s.axis a :=
    State.axis_congr (((s.banksSwapped a).law_bankNoted a).trans (s.onlyRegs_banksSwapped a).law_eq) a
  rw [State.swapDone, State.axis_swapShown, hlaw, s.banksSwapped_initWords]

theorem State.rd_swapDone (s : State) (a : Nat) (p : Swap) {r : Nat} (hr : r ≠ Reg.LAW_STG_STAT a) :
    (s.swapDone a p).rd r = (s.banksSwapped a).rd r :=
  (State.regsBut_swapShown _ a p _ _ r (by simpa using hr)).trans (State.rd_bankNoted _ a r)

/-- A swap exchanges the banks (R51). -/
theorem State.bankPair_swapDone (s : State) (a : Nat) (p : Swap) {w : Nat} (hw : w < 51) :
    (s.swapDone a p).bankPair a w = (s.bankPair a w).swap := by
  rw [State.bankPair, s.rd_swapDone a p (stgBank_ne_stat a w), s.rd_swapDone a p (actBank_ne_stat a w)]
  exact s.bankPair_banksSwapped a hw

/-- What a swap shows in LAW_STG_STAT: PENDING cleared, DONE set, the cycle. -/
theorem State.stat_swapDone (s : State) (a : Nat) (p : Swap) :
    (s.swapDone a p).bit (Reg.LAW_STG_STAT a) 31 = false ∧ (s.swapDone a p).bit (Reg.LAW_STG_STAT a) 26 = true
      ∧ (s.swapDone a p).fld (Reg.LAW_STG_STAT a) 15 0 = s.cycLo := by
  obtain ⟨h31, h26, hcyc⟩ := (s.banksSwapped a).stat_doneStat a
  obtain ⟨hbit, hfld⟩ := ((s.banksSwapped a).bankNoted a).stat_swapShown a p ((s.banksSwapped a).initWords a p.init) ((s.banksSwapped a).doneStat a)
  exact ⟨(hbit 31 (by decide)).trans h31, (hbit 26 (by decide)).trans h26, hfld.trans (hcyc.trans (s.onlyRegs_banksSwapped a).cycLo_eq)⟩

theorem State.regsBut_swapDone (s : State) (a : Nat) (p : Swap) :
    s.RegsBut (s.swapDone a p) (Reg.LAW_STG_STAT a :: (stgBanks a ++ actBanks a)) := by
  intro r hr
  obtain ⟨hstat, hbank⟩ := not_or.1 (mt List.mem_cons.2 hr)
  rw [s.rd_swapDone a p hstat, (s.onlyRegs_banksSwapped a).regs r hbank]

theorem State.sameMemory_swapDone (s : State) (a : Nat) (p : Swap) : s.SameMemory (s.swapDone a p) :=
  have h : s.SameMemory ((s.banksSwapped a).bankNoted a) := (s.onlyRegs_banksSwapped a).sameMemory.trans (State.sameMemory_bankNoted _ a)
  ⟨h.hall, h.pv, h.dram⟩

/-! ## DEFERRED_SWAP (R52) -/

theorem deferredSwap_due {p : Swap} (hp : (s.axis a).swap = some p) (hd : (s.axis a).deferred = true) (hf : s.inFlight a = false) :
    deferredSwap a s = s.swapNow a p := by
  rw [deferredSwap, hp]
  simp only [hd, hf, Bool.not_false, Bool.and_self, if_true]

theorem deferredSwap_idle (h : (s.axis a).swap = none ∨ (s.axis a).deferred = false ∨ s.inFlight a = true) : deferredSwap a s = s := by
  rw [deferredSwap]
  cases hp : (s.axis a).swap with
  | none => rfl
  | some p =>
    rw [hp] at h
    refine if_neg ?_
    rcases h with h | h | h
    · cases h
    · simp [h]
    · simp [h]

/-! ## The statement -/

/-- Settles O49: each write of LAW_STG_CTRL by the equation of its requests, the copy and the swap by their loops over the banks. -/
theorem coefficientSwap : Obligations.CoefficientSwap := by
  unfold Obligations.CoefficientSwap
  refine ⟨fun s m a v hm => ?_, fun s a h30 => ?_, fun s a h30 => congrArg Host.Outcome.next (lawStgCopyDone_idle h30),
    fun s a p hp hd hf => ?_, fun s a h => congrArg Host.Outcome.next (deferredSwap_idle h)⟩
  · obtain ⟨harm, hcancel, hcopy⟩ := exec_stgCtrl hm v
    have hinit := s.onlyRegs_initWritten a v
    have hbit := s.bit_initWritten a v
    refine ⟨fun hv h30 => ?_, fun hv h30 => ?_, fun hv => ?_, fun hv h31 h30 => ?_, fun hv hb => ?_, fun hv h31 => ?_, fun hv h31 h30 => ?_⟩
    · rw [s.stgCtrl_arm a hv, h30, if_neg (by decide)] at harm
      refine ⟨_, harm, State.bit_statSet_same _ a (by decide), ?_, ?_, fun b hb => State.axis_armed_other _ _ hb, hinit.axis_wr (by simp) _ _⟩
      · rw [State.axis_armed_same, s.armedSwap_initWritten]
        rfl
      · rw [State.axis_armed_same]
    · rw [s.stgCtrl_arm a hv, h30, if_pos rfl] at harm
      have ht := hinit.statSet 27
      exact ⟨_, harm, State.bit_statSet_same _ a (by decide), ht.law_eq, ht⟩
    · rw [s.stgCtrl_cancel a hv] at hcancel
      refine ⟨_, hcancel, (State.bit_setBit _ _ _ _ _ (by decide)).trans (if_pos rfl), ?_, hinit.axis_wr (by simp) _ _⟩
      exact congrArg AxisCtx.swap ((s.initWritten a v).axis_disarmed a)
    · rw [s.stgCtrl_copy a hv, State.copyAsked_free ((hbit 31).trans h31) ((hbit 30).trans h30)] at hcopy
      exact ⟨_, hcopy, State.bit_statSet_same _ a (by decide), hinit.statSet 30⟩
    · rw [← hbit 31, ← hbit 30] at hb
      rw [s.stgCtrl_copy a hv, State.copyAsked_busy hb] at hcopy
      exact ⟨_, hcopy, State.bit_statSet_same _ a (by decide), (State.bit_statSet_other _ a (by decide) (by decide)).trans (hbit 30),
        hinit.statSet 27⟩
    · rw [s.stgCtrl_copyArm a hv, State.copyAsked_busy (.inl ((hbit 31).trans h31))] at harm
      have ht := (hinit.statSet 27).statSet 27
      have hkept : ∀ j, j ≠ 27 → (((s.initWritten a v).statSet a 27).statSet a 27).bit (Reg.LAW_STG_STAT a) j = s.bit (Reg.LAW_STG_STAT a) j :=
        fun j hj => (State.bit_statSet_other _ a (by decide) hj).trans ((State.bit_statSet_other _ a (by decide) hj).trans (hbit j))
      exact ⟨_, harm, ht.law_eq, (hkept 31 (by decide)).trans h31, State.bit_statSet_same _ a (by decide), hkept 30 (by decide), ht⟩
    · rw [s.stgCtrl_copyArm a hv, State.copyAsked_free ((hbit 31).trans h31) ((hbit 30).trans h30)] at harm
      have ht := (hinit.statSet 30).statSet 27
      refine ⟨_, harm, ht.law_eq, ?_, ?_, State.bit_statSet_same _ a (by decide), ht⟩
      · rw [State.bit_statSet_other _ _ (by decide) (by decide), State.bit_statSet_other _ _ (by decide) (by decide), hbit, h31]
      · rw [State.bit_statSet_other _ _ (by decide) (by decide), State.bit_statSet_same _ _ (by decide)]
  · refine ⟨_, congrArg Host.Outcome.next (lawStgCopyDone_running h30), ?_, fun w hw => ?_, ?_⟩
    · exact (State.bit_setBit _ _ _ _ _ (by decide)).trans (if_pos rfl)
    · rw [State.setBit_wr, State.rd_wr_other _ _ (stgBank_ne_stat _ _), s.rd_bankCopied a hw]
    · exact ((s.onlyRegs_bankCopied a).mono fun _ h => List.mem_cons_of_mem _ h).wr List.mem_cons_self _
  · have due := congrArg (Host.Outcome.next (φ := Fault) (ρ := Refusal)) (deferredSwap_due hp hd hf)
    refine ⟨fun h49 h50 => ?_, fun hbad => ?_⟩
    · rw [State.swapNow_accepted p h49 h50] at due
      have hx := (s.disarmed a).axis_swapDone a p
      obtain ⟨h31, h26, hcyc⟩ := (s.disarmed a).stat_swapDone a p
      refine ⟨_, due, ?_, ?_, fun w hw => ?_, h31, h26, hcyc, ?_,
        (s.sameMemory_disarmed a).trans ((s.disarmed a).sameMemory_swapDone a p), (s.disarmed a).regsBut_swapDone a p⟩
      · rw [hx, s.axis_disarmed]
      · rw [hx, s.axis_disarmed]
      · have hb := (s.disarmed a).bankPair_swapDone a p hw
        exact ⟨congrArg Prod.snd hb, congrArg Prod.fst hb⟩
      · rw [hx]
        exact s.initWords_disarmed a p.init
    · rw [State.swapNow_refused p hbad] at due
      refine ⟨_, due, congrArg AxisCtx.swap (s.axis_disarmed a), ?_, ?_, (congrArg AxisCtx.x (s.axis_disarmed a) :),
        (State.OnlyRegs.refl s _).axis_wr (by simp) _ _⟩
      · rw [State.bit, State.rd_wr_same, wBit_wSetBit_other _ (by decide), wBit_wSetBit_same _ (by decide)]
      · rw [State.bit, State.rd_wr_same, wBit_wSetBit_same _ (by decide)]

end Sys2Proof.Machine
end

section
/-! The fixed numbers of inputs, groups, outputs, phases and accumulators (R62, R68, R126, R212, R246, R250). -/

namespace Sys2Proof.Machine

/-- The queue holds no list of a fixed length. -/
theorem State.Shaped.withPending {s : State} (h : s.Shaped) (q : List Instr) : State.Shaped { s with pending := q } := { h with }

/-- Settles O7: a step keeps the shapes from the state with its command taken, and the queue is no part of them. -/
theorem shapeKept : Obligations.ShapeKept := by
  intro s h
  obtain ⟨t, ht, k⟩ := step_leads s
  exact ⟨t, ht, k.shape (h.withPending _)⟩

end Sys2Proof.Machine
end

section
/-! What the lane instructions do to a job: its accumulators, state words and outputs (R59, R60, R62 to R71). -/

namespace Sys2Proof.Machine

variable {i j : LaneJob}

/-- Entry k of a list of integers with entry i replaced. -/
theorem intAt_setAt (l : List Int) (i k : Nat) (v : Int) : intAt (setAt l i v) k = if k = i ∧ i < l.length then v else intAt l k := by
  rw [intAt, getElem?_setAt]
  split <;> rfl

/-- A list with two entries replaced that follow each other. -/
theorem getElem?_setAt_pair {α : Type} (l : List α) {i : Nat} (hi : i + 1 < l.length) (a b : α) (k : Nat) :
    (setAt (setAt l i a) (i + 1) b)[k]? = if k = i + 1 then some b else if k = i then some a else l[k]? := by
  rw [getElem?_setAt, getElem?_setAt, length_setAt]
  simp only [hi, Nat.lt_of_succ_lt hi, and_true]

theorem clampI_of_mem {lo hi x : Int} (hl : lo ≤ x) (hh : x ≤ hi) : clampI lo hi x = x := by
  rw [clampI, if_neg (not_lt.2 hl), if_neg (not_lt.2 hh)]

theorem clampI_of_lt {lo hi x : Int} (h : x < lo) : clampI lo hi x = lo := if_pos h

theorem clampI_of_gt {lo hi x : Int} (hle : lo ≤ hi) (h : hi < x) : clampI lo hi x = hi := by
  rw [clampI, if_neg (not_lt.2 (hle.trans h.le)), if_pos h]

/-! ## The sequencer (R70, R71) -/

/-- Moving on changes the sequencer alone. -/
theorem LaneJob.advance_rest (j : LaneJob) (w : Word) :
    { j.advance w with pos := j.pos, inRep := j.inRep, repIter := j.repIter, ended := j.ended } = j := by
  unfold LaneJob.advance
  repeat' split
  all_goals rfl

@[simp] theorem LaneJob.acc_advance (j : LaneJob) (w : Word) : (j.advance w).acc = j.acc := (congrArg LaneJob.acc (j.advance_rest w) :)
@[simp] theorem LaneJob.m_advance (j : LaneJob) (w : Word) : (j.advance w).m = j.m := (congrArg LaneJob.m (j.advance_rest w) :)
@[simp] theorem LaneJob.u_advance (j : LaneJob) (w : Word) : (j.advance w).u = j.u := (congrArg LaneJob.u (j.advance_rest w) :)
@[simp] theorem LaneJob.us_advance (j : LaneJob) (w : Word) : (j.advance w).us = j.us := (congrArg LaneJob.us (j.advance_rest w) :)
@[simp] theorem LaneJob.w_advance (j : LaneJob) (w : Word) : (j.advance w).w = j.w := (congrArg LaneJob.w (j.advance_rest w) :)
@[simp] theorem LaneJob.xNew_advance (j : LaneJob) (w : Word) : (j.advance w).xNew = j.xNew := (congrArg LaneJob.xNew (j.advance_rest w) :)
@[simp] theorem LaneJob.usat0_advance (j : LaneJob) (w : Word) : (j.advance w).usat0 = j.usat0 := (congrArg LaneJob.usat0 (j.advance_rest w) :)
@[simp] theorem LaneJob.usat1_advance (j : LaneJob) (w : Word) : (j.advance w).usat1 = j.usat1 := (congrArg LaneJob.usat1 (j.advance_rest w) :)

/-- The word with E ends the program, and no other does (R70). -/
theorem LaneJob.ended_advance (w : Word) (h : j.ended = false) : (j.advance w).ended = wBit w 28 := by
  unfold LaneJob.advance
  split
  · next e => exact e.symm
  · next e =>
    rw [Bool.not_eq_true] at e
    repeat' split
    all_goals exact h.trans e.symm

theorem LaneJob.pos_advance {w : Word} (hw : wBit w 28 = false) (hr : j.inRep = false) : (j.advance w).pos = j.pos + 1 := by
  simp [LaneJob.advance, hw, hr]

/-! ## Accumulators (R62, R63) -/

theorem LaneJob.accAt_congr (h : i.acc = j.acc) (k : Nat) : i.accAt k = j.accAt k := by rw [LaneJob.accAt, h, LaneJob.accAt]

/-- The job with a value added into accumulator d. -/
def LaneJob.addInto (j : LaneJob) (d : Nat) (v : Int) : LaneJob := { j with acc := setAt j.acc d ((j.accAt d).add v) }

/-- The accumulators of a job in which one of the eight is replaced. -/
theorem LaneJob.accAt_replaced (hj : j.Shaped) {d : Nat} (hd : d < 8) {a : Acc} (h : i.acc = setAt j.acc d a) (k : Nat) :
    i.accAt k = if d = k then a else j.accAt k := by
  rw [LaneJob.accAt, h, getElem?_setAt, hj.acc]
  simp only [hd, and_true, eq_comm (a := k)]
  split <;> rfl

/-- The first product of a MAC, where it goes into accumulator k (R59, R67). -/
def LaneJob.product0 (j : LaneJob) (w co : Word) (k : Nat) : Option Int :=
  if wFld w 8 4 ≠ 31 ∧ (wFld w 3 1 + if wBit w 27 then j.iter else 0) % 8 = k
  then some (loS co * j.operand (wFld w 8 4) * ((4 ^ wFld w 24 23 : Nat) : Int)) else none

/-- The second product of a MAC, where it goes into accumulator k. -/
def LaneJob.product1 (j : LaneJob) (w co : Word) (k : Nat) : Option Int :=
  if wFld w 16 12 ≠ 31 ∧ (wFld w 11 9 + if wBit w 27 then j.iter else 0) % 8 = k
  then some (hiS co * j.operand (wFld w 16 12) * ((4 ^ wFld w 24 23 : Nat) : Int)) else none

/-- An accumulator after the exact sum of the products that go into it. -/
def Acc.addProducts (a : Acc) (v0 v1 : Option Int) : Acc := if v0 = none ∧ v1 = none then a else a.add (v0.getD 0 + v1.getD 0)

@[simp] theorem Acc.addProducts_none (a : Acc) : a.addProducts none none = a := rfl
@[simp] theorem Acc.addProducts_first (a : Acc) (p : Int) : a.addProducts (some p) none = a.add p := congrArg a.add (add_zero p)
@[simp] theorem Acc.addProducts_second (a : Acc) (p : Int) : a.addProducts none (some p) = a.add p := congrArg a.add (zero_add p)
@[simp] theorem Acc.addProducts_both (a : Acc) (p q : Int) : a.addProducts (some p) (some q) = a.add (p + q) := rfl

/-- A MAC adds to each accumulator the products that go into it. -/
theorem LaneJob.accAt_mac (hj : j.Shaped) (w co : Word) (k : Nat) :
    (j.mac w co).accAt k = (j.accAt k).addProducts (j.product0 w co k) (j.product1 w co k) := by
  unfold LaneJob.mac LaneJob.product0 LaneJob.product1
  dsimp only
  generalize hd0 : (wFld w 3 1 + if wBit w 27 then j.iter else 0) % 8 = d0
  generalize hd1 : (wFld w 11 9 + if wBit w 27 then j.iter else 0) % 8 = d1
  generalize loS co * j.operand (wFld w 8 4) * ((4 ^ wFld w 24 23 : Nat) : Int) = p0
  generalize hiS co * j.operand (wFld w 16 12) * ((4 ^ wFld w 24 23 : Nat) : Int) = p1
  have h0 : d0 < 8 := hd0 ▸ Nat.mod_lt _ (by decide)
  have h1 : d1 < 8 := hd1 ▸ Nat.mod_lt _ (by decide)
  by_cases s0 : wFld w 8 4 = 31 <;> by_cases s1 : wFld w 16 12 = 31
  · simp [s0, s1]
  · rw [if_neg (by simp [s0]), if_neg (by simp [s0]), if_pos s1, LaneJob.accAt_replaced hj h1 rfl]
    by_cases k1 : d1 = k <;> simp [s0, s1, k1]
  · rw [if_neg (by simp [s1]), if_pos s0, LaneJob.accAt_replaced hj h0 rfl]
    by_cases k0 : d0 = k <;> simp [s0, s1, k0]
  · rw [if_pos ⟨s0, s1⟩]
    by_cases e : d0 = d1
    · rw [if_pos e, LaneJob.accAt_replaced hj h0 rfl, ← e]
      by_cases k0 : d0 = k <;> simp [s0, s1, k0]
    · have hs : (j.addInto d0 p0).Shaped := { hj with acc := (length_setAt _ _ _).trans hj.acc }
      have hk : (j.addInto d0 p0).accAt k = if d0 = k then (j.accAt d0).add p0 else j.accAt k := LaneJob.accAt_replaced hj h0 rfl k
      rw [if_neg e, LaneJob.accAt_replaced hs h1 rfl, hk]
      by_cases k1 : d1 = k
      · simp [s1, k1, k1 ▸ e]
      · by_cases k0 : d0 = k <;> simp [s0, k1, k0]

/-- An accumulator into which a product goes holds the exact sum modulo 2^40, and its sticky bit records a sum out of range (R63). -/
theorem Acc.addProducts_some (a : Acc) {v0 v1 : Option Int} (h : ¬ (v0 = none ∧ v1 = none)) {x : Int} (hx : x = a.val + v0.getD 0 + v1.getD 0) :
    (a.addProducts v0 v1).val = sgn 40 (wrapN 40 x)
      ∧ ((a.addProducts v0 v1).st = true ↔ (a.st = true ∨ x < -(2 ^ 39) ∨ 2 ^ 39 ≤ x)) := by
  rw [Acc.addProducts, if_neg h, Acc.add, ← Int.add_assoc, ← hx]
  exact ⟨rfl, by rw [Bool.or_eq_true, decide_eq_true_eq]⟩

/-- A MAC changes the accumulators alone. -/
theorem LaneJob.mac_rest (j : LaneJob) (w co : Word) : { j.mac w co with acc := j.acc } = j := by
  unfold LaneJob.mac
  dsimp only
  repeat' split
  all_goals rfl

/-! ## Stores (R64, R65, R68) -/

theorem LaneJob.accOf_lt (j : LaneJob) (w : Word) : j.accOf w < 8 := Nat.mod_lt _ (by decide)

/-- The store to a state word of 16 bits. -/
theorem LaneJob.stx_narrow {w : Word} (hn : j.idx w < j.nx) (h6 : j.idx w < 6) (hl : j.wideLow (j.idx w) = false) (hw : j.wide (j.idx w) = false) :
    j.stx w = ({ j.clearAcc (j.accOf w) with xNew := setAt j.xNew (j.idx w) (some (wrapN 16 (store16 (j.accAt (j.accOf w)) (j.shift (4 * j.idx w))
        (wBit j.rowSelf (j.idx w)) (sgn 16 ((j.x[j.idx w]?).getD 0))))) }, (j.accAt (j.accOf w)).st) := by
  rw [LaneJob.stx, if_neg (by simp [hl, hn, h6]), hw]
  rfl

/-- The store to a wide state. -/
theorem LaneJob.stx_wide {w : Word} (hn : j.idx w < j.nx) (h6 : j.idx w < 6) (hl : j.wideLow (j.idx w) = false) (hw : j.wide (j.idx w) = true)
    {v : Nat} (hv : v = wrapN 32 (store32 (j.accAt (j.accOf w)) (j.shift (4 * j.idx w)) (wBit j.rowSelf (j.idx w))
      (sgn 32 ((j.x[j.idx w]?).getD 0 * 65536 + (j.x[j.idx w + 1]?).getD 0)))) :
    j.stx w = ({ j.clearAcc (j.accOf w) with xNew := setAt (setAt j.xNew (j.idx w) (some (v / 65536))) (j.idx w + 1) (some (v % 65536)) },
      (j.accAt (j.accOf w)).st) := by
  rw [LaneJob.stx, if_neg (by simp [hl, hn, h6]), if_pos hw, hv]

/-- A store outside the axis's shape, or to the lower word of a wide pair, clears its accumulator alone. -/
theorem LaneJob.stx_outside {w : Word} (h : j.nx ≤ j.idx w ∨ j.wideLow (j.idx w) = true) : j.stx w = (j.clearAcc (j.accOf w), false) :=
  if_pos (h.imp_right .inr)

theorem LaneJob.stu_inside {w : Word} (hn : j.idx w < j.nu) (h2 : j.idx w < 2) :
    j.stu w = ({ j.clearAcc (j.accOf w) with
      u := setAt j.u (j.idx w) (store16 (j.accAt (j.accOf w)) (j.shift (24 + 4 * j.idx w)) false 0) }, (j.accAt (j.accOf w)).st) := by
  rw [LaneJob.stu, if_neg (by simp [hn, h2])]

theorem LaneJob.acc_stx (j : LaneJob) (w : Word) : (j.stx w).1.acc = setAt j.acc (j.accOf w) {} := by
  unfold LaneJob.stx
  dsimp only
  repeat' split
  all_goals rfl

theorem LaneJob.acc_stu (j : LaneJob) (w : Word) : (j.stu w).1.acc = setAt j.acc (j.accOf w) {} := by
  unfold LaneJob.stu
  dsimp only
  split
  all_goals rfl

/-- After a store its accumulator is empty, sticky bit included, and the others are as before. -/
theorem LaneJob.accAt_stored (hj : j.Shaped) {w : Word} (h : i.acc = setAt j.acc (j.accOf w) {}) :
    i.accAt (j.accOf w) = {} ∧ ∀ k, k < 8 → k ≠ j.accOf w → i.accAt k = j.accAt k := by
  have e := LaneJob.accAt_replaced hj (j.accOf_lt w) h
  exact ⟨(e _).trans (if_pos rfl), fun k _ hk => (e k).trans (if_neg hk.symm)⟩

theorem store16_sticky {a : Acc} (h : a.st = true) (sh : Int) (self : Bool) (x : Int) :
    store16 a sh self x = if a.val < 0 then -32768 else 32767 := if_pos h

/-- A store without a self term. -/
theorem store16_plain {a : Acc} (h : a.st = false) (sh : Int) (x : Int) :
    store16 a sh false x = sat16 (rneDiv (a.val * (2 ^ (sh + 8).toNat : Nat)) (2 ^ 23)) := by
  rw [store16, h, if_neg (by decide), if_neg (by decide), add_zero]

theorem store32_plain {a : Acc} (h : a.st = false) (sh : Int) (self : Bool) (x : Int) :
    store32 a sh self x = sat32 (rneDiv (a.val * (2 ^ (sh + 9).toNat : Nat) + (if self then x * 2 ^ 8 else 0)) (2 ^ 8)) := if_neg (by simp [h])

/-! ## LIM (R69) -/

/-- What LIM leaves at its output, where y is the limited value of x. -/
theorem LaneJob.lim_at (hj : j.Shaped) {w : Word} (hn : j.idx w < j.nu) (h2 : j.idx w < 2) {x lo hi y : Int}
    (hx : x = intAt j.u (j.idx w) + (if j.linj = 5 + j.idx w then intAt j.m 9 else 0))
    (hlo : lo = loS (if j.idx w = 0 then j.ulim0 else j.ulim1)) (hhi : hi = hiS (if j.idx w = 0 then j.ulim0 else j.ulim1))
    (hy : y = clampI lo hi x) :
    intAt (j.lim w).us (j.idx w) = y ∧ intAt (j.lim w).w (j.idx w) = sat16 (y - x)
      ∧ (if j.idx w = 0 then (j.lim w).usat0 else (j.lim w).usat1) = decide (y ≠ x) ∧ (j.lim w).u = j.u ∧ (j.lim w).ended = j.ended := by
  subst hx hlo hhi hy
  rw [LaneJob.lim, if_neg (by simp [hn, h2])]
  refine ⟨(intAt_setAt ..).trans (if_pos ⟨rfl, hj.us ▸ h2⟩), (intAt_setAt ..).trans (if_pos ⟨rfl, hj.w ▸ h2⟩), ?_, rfl, rfl⟩
  by_cases h0 : j.idx w = 0
  · simp [h0, clampI]
  · simp [show j.idx w = 1 by omega, clampI]

theorem LaneJob.acc_lim (j : LaneJob) (w : Word) : (j.lim w).acc = j.acc := by
  unfold LaneJob.lim
  dsimp only
  split
  all_goals rfl

end Sys2Proof.Machine
end

section
/-! The lane instructions on the state, guard overflow included (R59, R60, R63 to R71). -/

namespace Sys2Proof.Machine

variable {s : State} {n : Nat} {j : LaneJob} {w : Word}

/-! ## The next word of a lane's job (R66) -/

/-- Lane n runs the program of job j, and w is its next word. -/
structure State.AtWord (s : State) (n : Nat) (j : LaneJob) (w : Word) : Prop where
  job : (s.lane n).job = some j
  runs : j.ended = false
  word : w = s.laneWord j

/-- An instruction acts where the next word is its own. -/
theorem State.AtWord.laneStep (h : s.AtWord n j w) {op : Nat} (hop : wFld w 31 29 = op) (f : LaneJob → Word → State → State) :
    s.laneStep n op f = f j w s := by
  rw [State.laneStep, h.job]
  simp only [← h.word, h.runs, hop, bne_self_eq_false, Bool.or_self, Bool.false_eq_true, if_false]

/-- A lane without a job runs no instruction. -/
theorem State.laneStep_free (h : (s.lane n).job = none) (op : Nat) (f : LaneJob → Word → State → State) : s.laneStep n op f = s := by
  rw [State.laneStep, h]

@[simp] theorem State.job_putJob (s : State) (n : Nat) (j : LaneJob) : ((s.putJob n j).lane n).job = some j := by
  rw [State.putJob, State.lane_setLane_same]

/-- The state after a store, whose job is i: a forced store is counted at axis a. -/
def State.stored (s : State) (n : Nat) (i : LaneJob) (forced : Bool) (a : Nat) : State :=
  (s.putJob n i).when forced fun s => s.forcedStore a

section
variable {n : Fin 18}

theorem State.AtWord.exec_nop (h : s.AtWord n j w) (hop : wFld w 31 29 = opNOP) : exec (.nop n) s = .next (s.putJob n (j.advance w)) :=
  congrArg Host.Outcome.next (h.laneStep hop _)

theorem State.AtWord.exec_mac (h : s.AtWord n j w) (hop : wFld w 31 29 = opMAC) :
    exec (.mac n) s = .next (s.putJob n ((j.mac w (s.cbus j.axis (j.caddr w))).advance w)) :=
  congrArg Host.Outcome.next (h.laneStep hop _)

theorem State.AtWord.exec_lim (h : s.AtWord n j w) (hop : wFld w 31 29 = opLIM) : exec (.lim n) s = .next (s.putJob n ((j.lim w).advance w)) :=
  congrArg Host.Outcome.next (h.laneStep hop _)

theorem State.AtWord.exec_rep (h : s.AtWord n j w) (hop : wFld w 31 29 = opREP) :
    exec (.rep n) s = .next (s.putJob n { j with
      pos := j.pos + 1, inRep := true, repAt := j.pos + 1, repLen := wFld w 12 8 + 1, repCnt := wFld w 3 0 + 1, repIter := 0 }) :=
  congrArg Host.Outcome.next (h.laneStep hop _)

theorem State.AtWord.exec_stx (h : s.AtWord n j w) (hop : wFld w 31 29 = opSTX) :
    exec (.stx n) s = .next (s.stored n ((j.stx w).1.advance w) (j.stx w).2 j.axis) :=
  congrArg Host.Outcome.next (h.laneStep hop _)

theorem State.AtWord.exec_stu (h : s.AtWord n j w) (hop : wFld w 31 29 = opSTU) :
    exec (.stu n) s = .next (s.stored n ((j.stu w).1.advance w) (j.stu w).2 j.axis) :=
  congrArg Host.Outcome.next (h.laneStep hop _)

end

/-! ## Forced stores (R65) -/

/-- What a forced store of axis a counts. -/
def forcedRegs (a : Nat) : List Nat := [Reg.LAW_NUMEVT a, Reg.LAW_STAT a, Reg.GAL_GOV_CNT, Reg.GAL_EVT]

/-- A forced store marks its axis, counts, and raises its event. -/
theorem State.onlyRaised_forcedStore (s : State) (a : Nat) :
    (s.setAxis a { s.axis a with fNum := true }).OnlyRaised (s.forcedStore a) (forcedRegs a) :=
  ((((State.OnlyRaised.refl _ _).wr (by simp [forcedRegs]) _).wr (by simp [forcedRegs]) _).wr (by simp [forcedRegs]) _).raise
    (by simp [forcedRegs]) 0 _

theorem State.lane_forcedStore (s : State) (a n : Nat) : (s.forcedStore a).lane n = s.lane n :=
  (State.lane_congr (s.onlyRaised_forcedStore a).law_eq n).trans (State.lane_setAxis ..)

/-- The counts and bits that a forced store of axis a leaves. -/
structure State.Forced (s t : State) (a : Nat) : Prop where
  num : t.rd (Reg.LAW_NUMEVT a) = s.rd (Reg.LAW_NUMEVT a) + 1
  stat : t.bit (Reg.LAW_STAT a) 29 = true
  gov : t.rd Reg.GAL_GOV_CNT = s.rd Reg.GAL_GOV_CNT + 1
  evt : t.bit Reg.GAL_EVT 27 = true
  regs : s.RegsBut t (forcedRegs a ++ deliveryRegs)

theorem lawReg_numEvt (a : Nat) : lawReg a (Reg.LAW_NUMEVT a) := ⟨0x64, by simp only [Reg.LAW_NUMEVT]; omega, by decide, by decide⟩
theorem galReg_govCnt : galReg Reg.GAL_GOV_CNT := ⟨by decide, by decide⟩

/-- An event of Galene leaves the other registers of Galene and of the laws alone. -/
theorem State.rd_galEvt_other (s : State) (i : Nat) {a r : Nat} (hr : lawReg a r ∨ galReg r) (hne : r ≠ Reg.GAL_EVT) : (s.galEvt i).rd r = s.rd r :=
  ((State.KeepsLaw.refl s [Reg.GAL_EVT]).raise (by simp) 0 _).rd_eq hr (by simpa using hne)

theorem State.forced_forcedStore (s : State) (a : Nat) : s.Forced (s.forcedStore a) a := by
  have num_evt := lawReg_ne_gal (lawReg_numEvt a) galReg_evt
  have num_gov := lawReg_ne_gal (lawReg_numEvt a) galReg_govCnt
  have stat_evt := lawReg_ne_gal (lawReg_stat a) galReg_evt
  have stat_gov := lawReg_ne_gal (lawReg_stat a) galReg_govCnt
  have num_stat : Reg.LAW_NUMEVT a ≠ Reg.LAW_STAT a := by simp only [Reg.LAW_NUMEVT, Reg.LAW_STAT]; omega
  refine ⟨?_, ?_, ?_, State.bit_galEvt_same _ (by decide), (s.onlyRaised_forcedStore a).regs⟩
  · rw [State.forcedStore, State.rd_galEvt_other _ _ (.inl (lawReg_numEvt a)) num_evt, State.inc_wr, State.rd_wr_other _ _ num_gov, State.setAxis_rd,
      State.setBit_wr, State.rd_wr_other _ _ num_stat, State.inc_wr, State.rd_wr_same]
  · rw [State.bit, State.forcedStore, State.rd_galEvt_other _ _ (.inl (lawReg_stat a)) stat_evt, State.inc_wr, State.rd_wr_other _ _ stat_gov,
      State.setAxis_rd, State.setBit_wr, State.rd_wr_same, wBit_wSetBit_same _ (by decide)]
  · rw [State.forcedStore, State.rd_galEvt_other (a := a) _ _ (.inr galReg_govCnt) (by decide), State.inc_wr, State.rd_wr_same, State.setAxis_rd,
      State.setBit_wr, State.rd_wr_other _ _ stat_gov.symm, State.inc_wr, State.rd_wr_other _ _ num_gov.symm]

theorem State.job_stored (s : State) (n : Nat) (i : LaneJob) (b : Bool) (a : Nat) : ((s.stored n i b a).lane n).job = some i := by
  cases b
  · exact s.job_putJob n i
  · exact (congrArg Lane.job (State.lane_forcedStore _ a n)).trans (s.job_putJob n i)

theorem State.forced_stored (s : State) (n : Nat) (i : LaneJob) (a : Nat) : s.Forced (s.stored n i true a) a :=
  { (s.putJob n i).forced_forcedStore a with }

/-! ## The statements -/

/-- Settles O46: a MAC is one exact sum per accumulator, and the other words leave the accumulators alone or empty one. -/
theorem guardOverflow : Obligations.GuardOverflow := by
  intro s n j w hjob hj hrun hw
  have at_w : s.AtWord n j w := ⟨hjob, hrun, hw⟩
  refine ⟨?_, ?_, ?_⟩
  · rintro hop co rfl
    refine ⟨_, _, at_w.exec_mac hop, s.job_putJob n _, ?_⟩
    rintro k d0 d1 - rfl rfl v0 v1 h0 h1
    have e := (LaneJob.accAt_congr (LaneJob.acc_advance _ w) k).trans (LaneJob.accAt_mac hj w (s.cbus j.axis (j.caddr w)) k)
    rw [e, LaneJob.product0, LaneJob.product1, ← h0, ← h1]
    refine ⟨?_, fun hv x hx => Acc.addProducts_some _ hv hx⟩
    rintro rfl rfl
    rfl
  · rintro c (⟨rfl, hop⟩ | ⟨rfl, hop⟩ | ⟨rfl, hop⟩)
    · exact ⟨_, _, at_w.exec_nop hop, s.job_putJob n _, j.acc_advance w⟩
    · exact ⟨_, _, at_w.exec_lim hop, s.job_putJob n _, (LaneJob.acc_advance _ w).trans (j.acc_lim w)⟩
    · exact ⟨_, _, at_w.exec_rep hop, s.job_putJob n _, rfl⟩
  · rintro c (⟨rfl, hop⟩ | ⟨rfl, hop⟩)
    · exact ⟨_, _, at_w.exec_stx hop, s.job_stored n _ _ _, LaneJob.accAt_stored hj ((LaneJob.acc_advance _ w).trans (j.acc_stx w))⟩
    · exact ⟨_, _, at_w.exec_stu hop, s.job_stored n _ _ _, LaneJob.accAt_stored hj ((LaneJob.acc_advance _ w).trans (j.acc_stu w))⟩

/-- Settles O47: each instruction by its equation on the job, and a forced store by what it counts. -/
theorem laneInstructions : Obligations.LaneInstructions := by
  refine ⟨fun s n h => ?_, fun s n j w hjob hj hrun hw => ?_⟩
  · have idle (op : Nat) (f : LaneJob → Word → State → State) := congrArg (Host.Outcome.next (φ := Fault) (ρ := Refusal)) (State.laneStep_free h op f)
    exact ⟨idle _ _, idle _ _, idle _ _, idle _ _, idle _ _, idle _ _⟩
  have at_w : s.AtWord n j w := ⟨hjob, hrun, hw⟩
  refine ⟨fun hop => ?_, fun hop => ?_, fun hop => ?_, ?_, ?_, ?_, ?_, ?_, ?_⟩
  · -- NOP
    refine ⟨_, _, at_w.exec_nop hop, s.job_putJob n _, ?_, LaneJob.ended_advance w hrun, LaneJob.pos_advance, rfl⟩
    exact hrun ▸ j.advance_rest w
  · -- REP
    exact ⟨_, _, at_w.exec_rep hop, rfl, rfl, rfl, rfl, rfl, rfl, rfl, rfl, rfl, rfl, rfl, rfl⟩
  · -- MAC
    have rest := j.mac_rest w (s.cbus j.axis (j.caddr w))
    refine ⟨_, _, at_w.exec_mac hop, rfl, LaneJob.ended_advance w ((congrArg LaneJob.ended rest :).trans hrun), ?_, ?_, ?_, ?_, ?_, ((hj.mac w _).advance w).acc⟩
    · exact (LaneJob.m_advance _ w).trans (congrArg LaneJob.m rest :)
    · exact (LaneJob.u_advance _ w).trans (congrArg LaneJob.u rest :)
    · exact (LaneJob.us_advance _ w).trans (congrArg LaneJob.us rest :)
    · exact (LaneJob.w_advance _ w).trans (congrArg LaneJob.w rest :)
    · exact (LaneJob.xNew_advance _ w).trans (congrArg LaneJob.xNew rest :)
  · -- STX to a state word of 16 bits
    rintro hop hn h6 hl hwide a rfl
    have ex := at_w.exec_stx hop
    rw [LaneJob.stx_narrow hn h6 hl hwide] at ex
    refine ⟨_, _, ex, s.job_stored n _ _ _, LaneJob.ended_advance w hrun, ?_, fun k hk => ?_, fun hst => ?_, fun hst => ?_⟩
    · rw [LaneJob.xNew_advance, getElem?_setAt, if_pos ⟨rfl, hj.xNew ▸ h6⟩]
      rfl
    · rw [LaneJob.xNew_advance, getElem?_setAt, if_neg fun h => hk h.1]
    · rw [hst]
      rfl
    · rw [hst]
      obtain ⟨num, stat, gov, evt, regs⟩ := s.forced_stored n (LaneJob.advance _ w) j.axis
      exact ⟨num, stat, gov, evt, regs⟩
  · -- STX to a wide state
    rintro hop hn h5 hl hwide hst v hv
    rw [← store32_plain hst] at hv
    have ex := at_w.exec_stx hop
    rw [LaneJob.stx_wide hn (by omega) hl hwide hv, hst] at ex
    have inside : j.idx w + 1 < j.xNew.length := by rw [hj.xNew]; omega
    have read := getElem?_setAt_pair j.xNew inside (some (v / 65536)) (some (v % 65536))
    refine ⟨_, _, ex, rfl, ?_, ?_, fun k hk hk' => ?_⟩
    · rw [LaneJob.xNew_advance, read, if_neg (by omega), if_pos rfl]
    · rw [LaneJob.xNew_advance, read, if_pos rfl]
    · rw [LaneJob.xNew_advance, read, if_neg hk', if_neg hk]
  · -- STX that stores nothing
    intro hop h
    have ex := at_w.exec_stx hop
    rw [LaneJob.stx_outside h] at ex
    exact ⟨_, _, ex, rfl, LaneJob.xNew_advance _ w⟩
  · -- STU
    intro hop hn h2 hst
    have ex := at_w.exec_stu hop
    rw [LaneJob.stu_inside hn h2, store16_plain hst, hst] at ex
    refine ⟨_, _, ex, rfl, LaneJob.ended_advance w hrun, ?_, fun k hk => ?_, LaneJob.us_advance _ w, LaneJob.xNew_advance _ w⟩
    · rw [LaneJob.u_advance, intAt_setAt, if_pos ⟨rfl, hj.u ▸ h2⟩]
    · rw [LaneJob.u_advance, intAt_setAt, if_neg fun h => hk h.1]
  · -- STU from an accumulator with its sticky bit
    intro hop hn h2 hst
    have ex := at_w.exec_stu hop
    rw [LaneJob.stu_inside hn h2, store16_sticky hst, hst] at ex
    obtain ⟨num, stat, gov, evt, -⟩ := s.forced_stored n (LaneJob.advance _ w) j.axis
    refine ⟨_, _, ex, s.job_stored n _ _ _, ?_, num, stat, gov, evt⟩
    rw [LaneJob.u_advance, intAt_setAt, if_pos ⟨rfl, hj.u ▸ h2⟩]
  · -- LIM
    intro hop hn h2 x lo hi hx hlo hhi hle
    obtain ⟨hus, hcut, hsat, hu, hend⟩ := LaneJob.lim_at hj hn h2 hx hlo hhi rfl
    refine ⟨_, _, at_w.exec_lim hop, rfl, LaneJob.ended_advance w (hend.trans hrun), ?_⟩
    rw [LaneJob.us_advance, LaneJob.w_advance, LaneJob.usat0_advance, LaneJob.usat1_advance, LaneJob.u_advance, LaneJob.acc_advance, hus, hcut, hsat]
    refine ⟨fun hl hh => ?_, fun h => ?_, fun h => ?_, hu, j.acc_lim w⟩
    · rw [clampI_of_mem hl hh, sub_self]
      exact ⟨rfl, rfl, decide_eq_false (not_not.2 rfl)⟩
    · rw [clampI_of_lt h]
      exact ⟨rfl, decide_eq_true h.ne'⟩
    · rw [clampI_of_gt hle h]
      exact ⟨rfl, decide_eq_true h.ne⟩

end Sys2Proof.Machine
end

section
/-! The canonical form of the register table and the memories (R86, R361, R375, R432). -/

namespace Sys2Proof.Machine

/-- The queue is no table. -/
theorem State.Canonical.withPending {s : State} (h : s.Canonical) (q : List Instr) : State.Canonical { s with pending := q } := { h with }

/-- Settles O4: a step keeps the canonical form from the state with its command taken, and the queue is no part of it. -/
theorem canonicalKept : Obligations.CanonicalKept := by
  intro s h
  obtain ⟨t, ht, k⟩ := step_leads s
  exact ⟨t, ht, k.canon (h.withPending _)⟩

end Sys2Proof.Machine
end

section
/-! The writes of LRN_CTRL and the end of a zeroing run (R85, R90, R95, R96). -/

namespace Sys2Proof.Machine

variable {s : State} {a : Nat} {v : Word}

/-! ## LRN_CTRL -/

/-- UHOLD and IOFF of axis a as v gives them. -/
def State.lrnHeld (s : State) (a : Nat) (v : Word) : State := s.setFld (Reg.LRN_CTRL a) 1 0 (wFld v 1 0)

theorem State.onlyRegs_lrnHeld (s : State) (v : Word) {l : List Nat} (h : Reg.LRN_CTRL a ∈ l) : s.OnlyRegs (s.lrnHeld a v) l :=
  (State.OnlyRegs.refl s l).wr h _

theorem State.fld_lrnHeld (s : State) (a : Nat) (v : Word) : (s.lrnHeld a v).fld (Reg.LRN_CTRL a) 1 0 = wFld v 1 0 :=
  (s.fld_setFld_same _ (by decide) (by decide) _).trans (Nat.mod_eq_of_lt (wFld_lt v 1 0))

theorem lrnCfg_ne_ctrl (a : Nat) : Reg.LRN_CFG a ≠ Reg.LRN_CTRL a := by simp only [Reg.LRN_CFG, Reg.LRN_CTRL]; omega
theorem lrnRegion_ne_ctrl (a : Nat) : Reg.LRN_REGION ≠ Reg.LRN_CTRL a := by simp only [Reg.LRN_REGION, Reg.LRN_CTRL]; omega
theorem lrnCtrl_ne_stat (a : Nat) : Reg.LRN_CTRL a ≠ Reg.LRN_STAT a := by simp only [Reg.LRN_CTRL, Reg.LRN_STAT]; omega
theorem lrnEvt_ne_stat (a : Nat) : Reg.LRN_EVT ≠ Reg.LRN_STAT a := by simp only [Reg.LRN_EVT, Reg.LRN_STAT]; omega

theorem lrnStat_not_delivery {a : Nat} (h : a < 256) : Reg.LRN_STAT a ∉ deliveryRegs := by
  simp only [deliveryRegs, Reg.LRN_STAT, Reg.TSU_IRQLOST, Reg.TSU_EVT, Reg.TSU_CORE_STAT, List.mem_cons, List.mem_map, List.mem_range, not_or,
    not_exists]
  exact ⟨by omega, by omega, fun c => by omega⟩

/-- A ZERO of the axis is heard: its learner is enabled, and the learner region has a size (R85, R96). -/
def State.hasLearner (s : State) (a : Nat) : Prop := s.lrnOn a = true ∧ s.fld Reg.LRN_REGION 5 0 ≠ 0

/-- The write of LRN_CTRL touches nothing that says whether the axis has a learner. -/
theorem State.hasLearner_lrnHeld (s : State) (a : Nat) (v : Word) : (s.lrnHeld a v).hasLearner a ↔ s.hasLearner a := by
  rw [State.hasLearner, State.hasLearner, State.lrnOn, State.lrnOn, State.fld, State.fld, State.lrnHeld, State.setFld_wr,
    State.bit_wr_other _ _ (lrnCfg_ne_ctrl a), State.rd_wr_other _ _ (lrnRegion_ne_ctrl a)]

/-- A request sets ZEROING alone, where the axis has a learner. -/
theorem State.lrnZeroReq_on (h : s.hasLearner a) {l : List Nat} (hl : Reg.LRN_STAT a ∈ l) :
    (s.lrnZeroReq a).bit (Reg.LRN_STAT a) 29 = true ∧ s.OnlyRegs (s.lrnZeroReq a) l := by
  obtain ⟨hon, hreg⟩ := h
  unfold State.lrnZeroReq
  by_cases h29 : s.bit (Reg.LRN_STAT a) 29 = true
  · rw [if_neg (by simp [h29])]
    exact ⟨h29, .refl s l⟩
  · rw [if_pos (by simp [hon, hreg, h29])]
    exact ⟨(State.bit_setBit _ _ _ _ _ (by decide)).trans (if_pos rfl), (State.OnlyRegs.refl s l).wr hl _⟩

theorem State.lrnZeroReq_off (h : ¬ s.hasLearner a) : s.lrnZeroReq a = s := by
  refine if_neg fun hc => h ?_
  simp only [Bool.and_eq_true, decide_eq_true_eq] at hc
  exact hc.1

/-- The three commands are one write, ZERO the only bit that asks for more than UHOLD and IOFF. -/
theorem exec_lrnCtrl {m : Fin 32} {a : Fin 256} (h : s.may m (Reg.LRN_CTRL a) true) (v : Word) :
    exec (.lrnUhold m a v) s = .next (s.lrnCtrl a v) ∧ exec (.lrnIoff m a v) s = .next (s.lrnCtrl a v)
      ∧ exec (.lrnZero m a v) s = .next (s.lrnCtrl a v) := by
  have e := congrArg (Host.Outcome.next (φ := Fault) (ρ := Refusal)) (State.regAccess_of_may h fun s => s.lrnCtrl a v)
  exact ⟨e, e, e⟩

theorem State.lrnCtrl_hold (s : State) (a : Nat) (h : wBit v 2 = false) : s.lrnCtrl a v = s.lrnHeld a v := by
  rw [State.lrnCtrl, h]
  rfl

theorem State.lrnCtrl_zero (s : State) (a : Nat) (h : wBit v 2 = true) : s.lrnCtrl a v = (s.lrnHeld a v).lrnZeroReq a := by
  rw [State.lrnCtrl, h]
  rfl

/-! ## The zeroing run -/

/-- t is s but for the Hall. -/
def State.OnlyHall (s t : State) : Prop := { t with hall := s.hall } = s

theorem State.onlyHall_hall (s : State) (x : HallBlock) : s.OnlyHall { s with hall := x } := rfl

theorem State.OnlyHall.trans {t u : State} (h : s.OnlyHall t) (k : t.OnlyHall u) : s.OnlyHall u :=
  (congrArg (fun x : State => { x with hall := s.hall }) k :).trans h

theorem State.OnlyHall.law_eq {t : State} (h : s.OnlyHall t) : t.law = s.law := (congrArg State.law h :)
theorem State.OnlyHall.regs_eq {t : State} (h : s.OnlyHall t) : t.regs = s.regs := (congrArg State.regs h :)
theorem State.OnlyHall.tsu_eq {t : State} (h : s.OnlyHall t) : t.tsu = s.tsu := (congrArg State.tsu h :)

/-- The 64-bit unit at offset o zeroed, with fresh check bits. -/
def State.zeroUnit (s : State) (o : Nat) : State :=
  { s with hall := { (s.hallWrite o (leBytes 8 0)).hall with bad := s.hall.bad.filter (fun u => u != o / 8) } }

theorem State.onlyHall_zeroUnit (s : State) (o : Nat) : s.OnlyHall (s.zeroUnit o) := s.onlyHall_hall _

/-- Its eight bytes read 0, and no other byte changes. -/
theorem State.hallByte_zeroUnit (s : State) (o j : Nat) :
    (s.zeroUnit o).hallByte j = if o ≤ j ∧ j < o + 8 then 0 else s.hallByte j := by
  change (s.hallWrite o (leBytes 8 0)).hallByte j = _
  split
  · next h =>
    obtain ⟨i, rfl⟩ := Nat.exists_eq_add_of_le h.1
    have hi : i < 8 := by omega
    rw [State.hallByte_hallWrite_at s o _ i (by simpa using hi)]
    have zeros : ∀ i : Fin 8, (leBytes 8 0)[i.val]'(by simp) = 0 := by decide
    exact zeros ⟨i, hi⟩
  · next h => exact State.hallByte_hallWrite_other s o _ (by rw [leBytes_length]; omega)

theorem State.lrnZeroUnits_succ {o : Nat} (h : s.allowed 10 (hallBase + o) 8 true = true) (a k : Nat) :
    s.lrnZeroUnits a (k + 1) o = (s.zeroUnit o).lrnZeroUnits a k (o + 8) := by
  rw [State.lrnZeroUnits, if_pos h]
  rfl

/-- A run whose writes are all allowed zeroes its k units and changes nothing but the Hall. -/
theorem State.lrnZeroUnits_allowed (a k o : Nat) (s : State) (h : ∀ i, i < k → s.allowed 10 (hallBase + (o + 8 * i)) 8 true = true) :
    s.OnlyHall (s.lrnZeroUnits a k o) ∧ ∀ j, (s.lrnZeroUnits a k o).hallByte j = if o ≤ j ∧ j < o + 8 * k then 0 else s.hallByte j := by
  induction k generalizing o s with
  | zero => exact ⟨rfl, fun j => (if_neg (by omega)).symm⟩
  | succ k ih =>
    obtain ⟨rest, bytes⟩ := ih (o + 8) (s.zeroUnit o) fun i hi => by
      have hi := h (i + 1) (by omega)
      rwa [show o + 8 * (i + 1) = o + 8 + 8 * i by omega] at hi
    rw [State.lrnZeroUnits_succ (o := o) (h 0 (by omega))]
    refine ⟨(s.onlyHall_zeroUnit o).trans rest, fun j => ?_⟩
    rw [bytes, State.hallByte_zeroUnit]
    by_cases hj : o ≤ j ∧ j < o + 8
    · rw [if_neg (by omega), if_pos hj, if_pos (by omega)]
    · rw [if_neg hj]
      exact if_congr (by omega) rfl rfl

/-- A table is a whole number of units: two bytes for each bin, four bins in each unit (R85, R86). -/
theorem State.lrnBins_units (s : State) (a : Nat) : 8 * (s.lrnBins a / 4) = 2 * s.lrnBins a := by
  unfold State.lrnBins
  split <;> rfl

/-! ## Its end -/

/-- The units of the table of axis a, each written where the windows allow it. -/
def State.tableZeroed (s : State) (a : Nat) : State := s.lrnZeroUnits a (s.lrnBins a / 4) (s.lrnTable a)

/-- The run of axis a is over, and no sign is kept. -/
def State.zeroRunEnded (s : State) (a : Nat) : State :=
  (s.setAxis a { s.axis a with zeroRun := false, sign := 0 }).setBit (Reg.LRN_STAT a) 29 false

theorem lrnZeroDone_running (h29 : s.bit (Reg.LRN_STAT a) 29 = true) (hr : (s.axis a).zeroRun = true) :
    lrnZeroDone a s = ((s.tableZeroed a).zeroRunEnded a).lrnEvt 28 := if_pos (by simp [h29, hr])

theorem lrnZeroDone_idle (h : s.bit (Reg.LRN_STAT a) 29 = false ∨ (s.axis a).zeroRun = false) : lrnZeroDone a s = s := by
  refine if_neg fun hc => ?_
  rw [Bool.and_eq_true] at hc
  rcases h with h | h
  · exact Bool.false_ne_true (h.symm.trans hc.1)
  · exact Bool.false_ne_true (h.symm.trans hc.2)

/-- A run whose writes are all allowed zeroes the table's bytes and nothing else. -/
theorem State.tableZeroed_allowed (h : ∀ i, i < s.lrnBins a / 4 → s.allowed 10 (hallBase + (s.lrnTable a + 8 * i)) 8 true = true) :
    s.OnlyHall (s.tableZeroed a)
      ∧ ∀ j, (s.tableZeroed a).hallByte j = if s.lrnTable a ≤ j ∧ j < s.lrnTable a + 2 * s.lrnBins a then 0 else s.hallByte j := by
  rw [← s.lrnBins_units a]
  exact State.lrnZeroUnits_allowed a _ _ s h

theorem State.lrnEvt_raises (s : State) (i : Nat) : s.OnlyRaised (s.lrnEvt i) [Reg.LRN_EVT] := (State.OnlyRaised.refl s _).raise (by simp) 1 _

theorem State.bit_lrnEvt_same (s : State) {i : Nat} (hi : i < 32) : (s.lrnEvt i).bit Reg.LRN_EVT i = true := by
  rw [State.bit, State.lrnEvt, State.rd_raise_same _ _ _ _ (by decide), wBit_or, wBit_bitW]
  simp [hi]

theorem State.bit_lrnEvt_stat (s : State) (i : Nat) {a : Nat} (ha : a < 256) (j : Nat) :
    (s.lrnEvt i).bit (Reg.LRN_STAT a) j = s.bit (Reg.LRN_STAT a) j :=
  congrArg (wBit · j) (s.rd_raise_other 1 _ _ (lrnEvt_ne_stat a).symm (lrnStat_not_delivery ha))

/-- The end of the run clears ZEROING and raises LRN_EVT. -/
theorem State.bits_runEnded (s : State) {a : Nat} (ha : a < 256) :
    ((s.zeroRunEnded a).lrnEvt 28).bit (Reg.LRN_STAT a) 29 = false ∧ ((s.zeroRunEnded a).lrnEvt 28).bit Reg.LRN_EVT 28 = true :=
  ⟨((s.zeroRunEnded a).bit_lrnEvt_stat 28 ha 29).trans ((State.bit_setBit _ _ _ _ _ (by decide)).trans (if_pos rfl)),
    State.bit_lrnEvt_same _ (by decide)⟩

/-- It leaves every byte of the Hall. -/
theorem State.hallByte_runEnded (s : State) (a j : Nat) : ((s.zeroRunEnded a).lrnEvt 28).hallByte j = s.hallByte j :=
  congrArg (fun x : HallBlock => Table.get (fun _ => 0) x.bytes j) (State.hall_raise (s.zeroRunEnded a) 1 Reg.LRN_EVT (bitW 28))

/-- It ends the axis's run and clears its sign, and the hold goes on. -/
theorem State.axis_runEnded_same (s : State) (a : Nat) :
    ((s.zeroRunEnded a).lrnEvt 28).axis a = { s.axis a with zeroRun := false, sign := 0 } :=
  (State.axis_congr ((s.zeroRunEnded a).lrnEvt_raises 28).law_eq a).trans (s.axis_setAxis_same a _)

theorem State.axis_runEnded_other (s : State) {a b : Nat} (h : b ≠ a) : ((s.zeroRunEnded a).lrnEvt 28).axis b = s.axis b :=
  (State.axis_congr ((s.zeroRunEnded a).lrnEvt_raises 28).law_eq b).trans (s.axis_setAxis_other a _ h)

/-- From a state that differs from s in the Hall alone, it changes the axis's context, LRN_STAT and what LRN_EVT's delivery may. -/
theorem State.onlyRaised_runEnded {u : State} (h : s.OnlyHall u) (a : Nat) :
    s.OnlyRaised { (u.zeroRunEnded a).lrnEvt 28 with law := s.law, hall := s.hall } [Reg.LRN_STAT a, Reg.LRN_EVT] := by
  obtain ⟨rest, regs⟩ := (u.zeroRunEnded a).lrnEvt_raises 28
  refine ⟨?_, fun b hb => ?_⟩
  · rw [← h.tsu_eq]
    exact (congrArg (fun x : State => { x with law := s.law, hall := s.hall, regs := s.regs }) rest :).trans
      ((congrArg (fun x : State => { x with law := s.law, regs := s.regs }) h :))
  · have hb' : b ∉ [Reg.LRN_EVT] ++ deliveryRegs := fun hm => hb (List.mem_cons_of_mem _ hm)
    have hs : b ≠ Reg.LRN_STAT a := fun e => hb (e ▸ List.mem_cons_self)
    refine (regs b hb').trans ((State.rd_wr_other _ _ hs).trans ?_)
    exact congrArg (fun r => Table.get resetOf r b) h.regs_eq

/-! ## The statement -/

/-- Settles O51: LRN_CTRL is one write of two bits and a request, and the run's end is its units, the axis's context and one event. -/
theorem learnerControl : Obligations.LearnerControl := by
  unfold Obligations.LearnerControl
  refine ⟨fun s m a v hm => ?_, fun s a h29 hrun hall => ?_, fun s a h => congrArg Host.Outcome.next (lrnZeroDone_idle h)⟩
  · obtain ⟨huhold, hioff, hzero⟩ := exec_lrnCtrl hm v
    refine ⟨fun hv => ?_, fun hv hon hreg => ?_, fun hv hoff => ?_⟩
    · rw [s.lrnCtrl_hold a hv] at huhold hioff
      have held := s.fld_lrnHeld a v
      have only := s.onlyRegs_lrnHeld v (List.mem_singleton_self (Reg.LRN_CTRL a))
      exact ⟨⟨_, huhold, held, only⟩, _, hioff, held, only⟩
    · rw [s.lrnCtrl_zero a hv] at hzero
      have learner := (s.hasLearner_lrnHeld a v).2 ⟨hon, hreg⟩
      have stat := (State.lrnZeroReq_on learner (List.mem_singleton_self _)).2
      obtain ⟨h29, only⟩ := State.lrnZeroReq_on learner (l := [Reg.LRN_CTRL a, Reg.LRN_STAT a]) (by simp)
      refine ⟨_, hzero, h29, ?_, (s.onlyRegs_lrnHeld v (by simp)).trans only⟩
      exact (congrArg (wFld · 1 0) (stat.regs _ (by simpa using lrnCtrl_ne_stat a))).trans (s.fld_lrnHeld a v)
    · have lacks : ¬ s.hasLearner a := fun ⟨hon, hreg⟩ => hoff.elim (fun h => by simp [h] at hon) hreg
      rw [s.lrnCtrl_zero a hv, State.lrnZeroReq_off fun h => lacks ((s.hasLearner_lrnHeld a v).1 h)] at hzero
      exact ⟨_, hzero, s.onlyRegs_lrnHeld v (List.mem_singleton_self _)⟩
  · obtain ⟨rest, bytes⟩ := State.tableZeroed_allowed hall
    have table := fun o => ((s.tableZeroed a).hallByte_runEnded a o).trans (bytes o)
    obtain ⟨stat, evt⟩ := (s.tableZeroed a).bits_runEnded a.isLt
    have own := (s.tableZeroed a).axis_runEnded_same a
    have hold : ((s.tableZeroed a).axis a).hold = (s.axis a).hold := congrArg AxisCtx.hold (State.axis_congr rest.law_eq a)
    refine ⟨_, congrArg Host.Outcome.next (lrnZeroDone_running h29 hrun), fun o hlo hhi => (table o).trans (if_pos ⟨hlo, hhi⟩),
      fun o ho => (table o).trans (if_neg (by omega)), congrArg AxisCtx.zeroRun own, congrArg AxisCtx.sign own, (congrArg AxisCtx.hold own :).trans hold,
      stat, evt, fun b hb => ?_, State.onlyRaised_runEnded rest a⟩
    exact ((s.tableZeroed a).axis_runEnded_other hb).trans (State.axis_congr rest.law_eq b)

end Sys2Proof.Machine
end

section
/-! What the counts, samples and errors of a position source change (R104 to R106, R111 to R117). -/

namespace Sys2Proof.Machine

variable {s t u : State} {l m : List Nat} {n a : Nat}

/-! ## Frames -/

theorem State.OnlyRaised.trans (h : s.OnlyRaised t l) (k : t.OnlyRaised u l) : s.OnlyRaised u l :=
  ⟨(congrArg (fun x : State => { x with regs := s.regs, tsu := { x.tsu with cores := s.tsu.cores } }) k.rest :).trans h.rest, h.regs.trans k.regs⟩

theorem State.OnlyRaised.mono (h : s.OnlyRaised t l) (hm : ∀ a ∈ l, a ∈ m) : s.OnlyRaised t m :=
  ⟨h.rest, h.regs.mono fun a ha => (List.mem_append.1 ha).elim (fun e => List.mem_append_left _ (hm a e)) (List.mem_append_right _)⟩

theorem State.OnlyNoticed.trans (h : s.OnlyNoticed t l) (k : t.OnlyNoticed u l) : s.OnlyNoticed u l :=
  ⟨(congrArg (fun x : State =>
      { x with regs := s.regs, tsu := { x.tsu with cores := s.tsu.cores },
               cap := { x.cap with queue := s.cap.queue, sess := s.cap.sess, dram := s.cap.dram } }) k.rest :).trans h.rest,
    h.regs.trans k.regs, h.dram.trans k.dram⟩

/-! A frame says the same of two states whose contexts of the feedback unit are left out of the comparison. -/

theorem State.OnlyRaised.withFbk (h : s.OnlyRaised t l) (f : FbkBlock) : { s with fbk := f }.OnlyRaised { t with fbk := f } l :=
  ⟨(congrArg (fun x : State => { x with fbk := f }) h.rest :), h.regs⟩

theorem State.OnlyNoticed.withFbk (h : s.OnlyNoticed t l) (f : FbkBlock) : { s with fbk := f }.OnlyNoticed { t with fbk := f } l :=
  ⟨(congrArg (fun x : State => { x with fbk := f }) h.rest :), h.regs, h.dram⟩

theorem State.OnlyRaised.fbk_eq (h : s.OnlyRaised t l) : t.fbk = s.fbk := (congrArg State.fbk h.rest :)
theorem State.OnlyNoticed.fbk_eq (h : s.OnlyNoticed t l) : t.fbk = s.fbk := (congrArg State.fbk h.rest :)

/-! ## Registers apart -/

/-- A register of source n. -/
def srcReg (n a : Nat) : Prop := Reg.SRC_STAT n ≤ a ∧ a ≤ Reg.SRC_DIRFT n

theorem srcReg_stat (n : Nat) : srcReg n (Reg.SRC_STAT n) := by simp only [srcReg, Reg.SRC_STAT, Reg.SRC_DIRFT]; omega
theorem srcReg_rawLo (n : Nat) : srcReg n (Reg.SRC_RAWLO n) := by simp only [srcReg, Reg.SRC_STAT, Reg.SRC_RAWLO, Reg.SRC_DIRFT]; omega
theorem srcReg_rawHi (n : Nat) : srcReg n (Reg.SRC_RAWHI n) := by simp only [srcReg, Reg.SRC_STAT, Reg.SRC_RAWHI, Reg.SRC_DIRFT]; omega
theorem srcReg_pos (n : Nat) : srcReg n (Reg.SRC_POS n) := by simp only [srcReg, Reg.SRC_STAT, Reg.SRC_POS, Reg.SRC_DIRFT]; omega
theorem srcReg_ecnt (n : Nat) : srcReg n (Reg.SRC_ECNT n) := by simp only [srcReg, Reg.SRC_STAT, Reg.SRC_ECNT, Reg.SRC_DIRFT]; omega
theorem srcReg_idxLo (n : Nat) : srcReg n (Reg.SRC_IDXLO n) := by simp only [srcReg, Reg.SRC_STAT, Reg.SRC_IDXLO, Reg.SRC_DIRFT]; omega

theorem srcReg.fed (h : srcReg n a) (hn : n < 528) : fedReg a := fedReg_src hn h.1 h.2

theorem srcReg.ne_evt (h : srcReg n a) : a ≠ Reg.FBK_EVT := by
  have := h.1
  simp only [Reg.SRC_STAT, Reg.FBK_EVT] at *
  omega

theorem stat_ne_ecnt (n : Nat) : Reg.SRC_STAT n ≠ Reg.SRC_ECNT n := by simp only [Reg.SRC_STAT, Reg.SRC_ECNT]; omega
theorem stat_ne_idxLo (n : Nat) : Reg.SRC_STAT n ≠ Reg.SRC_IDXLO n := by simp only [Reg.SRC_STAT, Reg.SRC_IDXLO]; omega
theorem stat_ne_pos (n : Nat) : Reg.SRC_STAT n ≠ Reg.SRC_POS n := by simp only [Reg.SRC_STAT, Reg.SRC_POS]; omega
theorem stat_ne_spd (n : Nat) : Reg.SRC_STAT n ≠ Reg.SRC_SPD n := by simp only [Reg.SRC_STAT, Reg.SRC_SPD]; omega
theorem pos_ne_spd (n : Nat) : Reg.SRC_POS n ≠ Reg.SRC_SPD n := by simp only [Reg.SRC_POS, Reg.SRC_SPD]; omega
theorem rawLo_ne_rawHi (n : Nat) : Reg.SRC_RAWLO n ≠ Reg.SRC_RAWHI n := by simp only [Reg.SRC_RAWLO, Reg.SRC_RAWHI]; omega

theorem fedReg_not_notice (h : fedReg a) : a ∉ noticeRegs := by
  have k : ∀ b ∈ noticeRegs, b < 0x40070000 ∨ 0x40080000 ≤ b := by decide
  intro hm
  have := k a hm
  unfold fedReg at h
  omega

theorem fedReg_not_delivery (h : fedReg a) : a ∉ deliveryRegs := fun hd => fedReg_not_notice h (delivery_notice hd)

theorem State.OnlyRaised.rd_fed (h : s.OnlyRaised t l) (hl : a ∉ l) (ha : fedReg a) : t.rd a = s.rd a :=
  h.regs a fun hm => (List.mem_append.1 hm).elim hl (fedReg_not_delivery ha)

theorem State.OnlyNoticed.rd_fed (h : s.OnlyNoticed t l) (hl : a ∉ l) (ha : fedReg a) : t.rd a = s.rd a :=
  h.regs a fun hm => (List.mem_append.1 hm).elim hl (fedReg_not_notice ha)

/-! ## Events -/

theorem State.fbkEvt_raises (s : State) (i : Nat) : s.OnlyRaised (s.fbkEvt i) [Reg.FBK_EVT] := (State.OnlyRaised.refl s _).raise (by simp) 2 _

@[simp] theorem State.fbk_fbkEvt (s : State) (i : Nat) : (s.fbkEvt i).fbk = s.fbk := (s.fbkEvt_raises i).fbk_eq

theorem State.rd_fbkEvt_src (s : State) (i : Nat) (hn : n < 528) (ha : srcReg n a) : (s.fbkEvt i).rd a = s.rd a :=
  (s.fbkEvt_raises i).rd_fed (by simpa using ha.ne_evt) (ha.fed hn)

theorem State.bit_fbkEvt_same (s : State) {i : Nat} (hi : i < 32) : (s.fbkEvt i).bit Reg.FBK_EVT i = true := by
  rw [State.bit, State.fbkEvt, State.rd_raise_same _ _ _ _ (fedReg_not_delivery ⟨by decide, by decide⟩), wBit_or, wBit_bitW]
  simp [hi]

theorem State.bit_setBit_same (s : State) (a : Nat) {i : Nat} (hi : i < 32) (b : Bool) : (s.setBit a i b).bit a i = b :=
  (s.bit_setBit a i i b hi).trans (if_pos rfl)

/-- A set bit stays set when a bit of its register is set. -/
theorem State.bit_setBit_true (s : State) (a : Nat) {i j : Nat} (hi : i < 32) (h : s.bit a j = true) : (s.setBit a i true).bit a j = true := by
  rw [State.bit_setBit _ _ _ _ _ hi]
  split
  · rfl
  · exact h

/-! ## A sticky error of a source -/

theorem State.onlyRaised_srcErr (s : State) (n i e : Nat) : s.OnlyRaised (s.srcErr n i e) [Reg.SRC_STAT n, Reg.SRC_ECNT n, Reg.FBK_EVT] :=
  (((State.OnlyRaised.refl s _).wr (by simp) _).wr (by simp) _).raise (by simp) 2 _

/-- An error sets its two flags and counts. -/
theorem State.srcErr_shows (s : State) (hn : n < 528) {i e : Nat} (hi : i < 32) (he : e < 32) :
    (s.srcErr n i e).bit (Reg.SRC_STAT n) i = true
      ∧ (s.srcErr n i e).fld (Reg.SRC_ECNT n) 15 0 = (s.fld (Reg.SRC_ECNT n) 15 0 + 1) % 65536
      ∧ (s.srcErr n i e).bit Reg.FBK_EVT e = true := by
  refine ⟨?_, ?_, State.bit_fbkEvt_same _ he⟩
  · refine (congrArg (wBit · i) (State.rd_fbkEvt_src _ e hn (srcReg_stat n))).trans ?_
    exact (State.bit_wr_other _ _ (stat_ne_ecnt n) i).trans (State.bit_setBit_same _ _ hi _)
  · refine (congrArg (wFld · 15 0) (State.rd_fbkEvt_src _ e hn (srcReg_ecnt n))).trans ?_
    refine (State.fld_setFld_same _ _ (by decide) (by decide) _).trans (congrArg (fun w => (wFld w 15 0 + 1) % 65536) ?_)
    exact State.rd_wr_other _ _ (stat_ne_ecnt n).symm

/-! ## Counts and index events -/

/-- t is s but for source n, the registers of l, and the notice of events. -/
structure State.OnlySource (s t : State) (n : Nat) (l : List Nat) : Prop where
  rest : s.OnlyNoticed { t with fbk := { t.fbk with sources := s.fbk.sources } } l
  others : ∀ c, c ≠ n → t.source c = s.source c

theorem State.source_congr (h : t.fbk = s.fbk) (c : Nat) : t.source c = s.source c := by rw [State.source, h, State.source]
theorem State.chan_congr (h : t.fbk = s.fbk) (c : Nat) : t.chan c = s.chan c := by rw [State.chan, h, State.chan]

namespace State.OnlySource

theorem refl (s : State) (n : Nat) (l : List Nat) : s.OnlySource s n l := ⟨.refl s l, fun _ _ => rfl⟩

theorem wr (h : s.OnlySource t n l) (ha : a ∈ l) (v : Word) : s.OnlySource (t.wr a v) n l := ⟨h.rest.wr (List.mem_append_left _ ha) v, h.others⟩

theorem setSource (h : s.OnlySource t n l) (c : Source) : s.OnlySource (t.setSource n c) n l :=
  ⟨h.rest, fun _ hk => (State.source_setSource_other _ _ _ hk).trans (h.others _ hk)⟩

theorem noticed (h : s.OnlySource t n l) (k : t.OnlyNoticed u l) : s.OnlySource u n l := by
  refine ⟨?_, fun c hc => (State.source_congr k.fbk_eq c).trans (h.others c hc)⟩
  rw [k.fbk_eq]
  exact h.rest.trans (k.withFbk _)

theorem fbkEvt (h : s.OnlySource t n l) (he : Reg.FBK_EVT ∈ l) (i : Nat) : s.OnlySource (t.fbkEvt i) n l :=
  h.noticed (.of ((State.OnlyRaised.refl t l).raise he 2 _))

theorem capEventAt (h : s.OnlySource t n l) (k obj detail : Nat) (cyc : Word) (ft : Nat) : s.OnlySource (t.capEventAt k obj detail cyc ft) n l :=
  h.noticed ((State.OnlyNoticed.refl t l).capEventAt k obj detail cyc ft)

theorem chan_eq (h : s.OnlySource t n l) (c : Nat) : t.chan c = s.chan c :=
  (State.chan_congr h.rest.fbk_eq c :)

theorem rd_fed (h : s.OnlySource t n l) (hl : a ∉ l) (ha : fedReg a) : t.rd a = s.rd a := h.rest.rd_fed hl ha

end State.OnlySource

/-- What a count change may show: the direction and the instant of its change (R115). -/
abbrev edgeRegs (n : Nat) : List Nat := [Reg.SRC_STAT n, Reg.SRC_DIRCYC n, Reg.SRC_DIRFT n, Reg.FBK_EVT]

/-- The direction monitor keeps its own marks in the source and nothing else of it. -/
theorem State.direction_spec (s : State) (n : Nat) (neg : Bool) (cyc : Word) (ft : Nat) :
    s.OnlySource (s.direction n neg cyc ft) n (edgeRegs n)
      ∧ ∃ x y, (s.direction n neg cyc ft).source n = { s.source n with dirKnown := x, dirSince := y } := by
  unfold State.direction
  extract_lets c u v
  have hu : s.OnlySource u n (edgeRegs n) := (State.OnlySource.refl s n _).wr (by simp) _
  have hv : s.OnlySource v n (edgeRegs n) := (((hu.setSource _).wr (by simp) _).wr (by simp) _).wr (by simp) _
  have ev : v.source n = { c with dirSince := true } := u.source_setSource_same n _
  split
  · exact ⟨hu.setSource _, _, _, u.source_setSource_same n _⟩
  · split
    · exact ⟨.refl s n _, _, _, rfl⟩
    · split
      · have hw := (State.OnlyNoticed.refl (v.fbkEvt 29) []).capEventAt 0 (n % 256) (n / 256 + if neg then 4 else 0) cyc ft
        exact ⟨(hv.fbkEvt (by simp) 29).capEventAt _ _ _ _ _, _, _, (State.source_congr (hw.fbk_eq.trans (v.fbk_fbkEvt 29)) n).trans ev⟩
      · exact ⟨hv, _, _, ev⟩

/-- A count change adds its edge to the source (R116). -/
theorem State.countEdge_spec (s : State) (n : Nat) (te d : Int) (cyc : Word) (ft : Nat) :
    s.OnlySource (s.countEdge n te d cyc ft) n (edgeRegs n)
      ∧ ∃ x y, (s.countEdge n te d cyc ft).source n
          = { s.source n with dirKnown := x, dirSince := y, edges := (s.source n).edges ++ [(te, d)] } := by
  obtain ⟨frame, x, y, e⟩ := s.direction_spec n (decide (d < 0)) cyc ft
  refine ⟨frame.setSource _, x, y, ?_⟩
  rw [State.countEdge, State.source_setSource_same, e]

/-- A count step: one up, or down, as INV turns it (R104, R106). -/
def State.countStep (s : State) (ch : Nat) (up : Bool) : Int := if up = s.bit (Reg.FBK_CH_CFG ch) 28 then -1 else 1

/-- Channel ch counts d at a tick of the present cycle, and its context is c beside. -/
structure State.Counted (s t : State) (ch tick : Nat) (c : Channel) (d : Int) : Prop where
  chan : t.chan ch = { c with cnt := c.cnt + d }
  edges : (t.source ch).edges = (s.source ch).edges ++ [(((s.tick0 + tick : Nat) : Int), d)]
  others : ∀ k, k ≠ ch → t.chan k = s.chan k ∧ t.source k = s.source k
  frame : s.OnlyNoticed { t with fbk := s.fbk } (edgeRegs ch)

theorem State.counted_localCount (s : State) (ch tick : Nat) (c : Channel) (up : Bool) :
    s.Counted ((s.setChan ch c).localCount ch tick (if up then 1 else -1)) ch tick c (s.countStep ch up) := by
  have hd : (if s.bit (Reg.FBK_CH_CFG ch) 28 then -(if up then 1 else -1) else (if up then 1 else -1)) = s.countStep ch up := by
    unfold State.countStep
    cases up <;> cases s.bit (Reg.FBK_CH_CFG ch) 28 <;> rfl
  have e : (s.setChan ch c).localCount ch tick (if up then 1 else -1)
      = ((s.setChan ch c).setChan ch { c with cnt := c.cnt + s.countStep ch up }).countEdge ch ((s.tick0 + tick : Nat) : Int) (s.countStep ch up)
        s.tb.cyc (tick * 32) := by
    rw [← hd, State.localCount, State.chan_setChan_same]
    rfl
  rw [e]
  obtain ⟨frame, x, y, src⟩ := ((s.setChan ch c).setChan ch { c with cnt := c.cnt + s.countStep ch up }).countEdge_spec ch
    ((s.tick0 + tick : Nat) : Int) (s.countStep ch up) s.tb.cyc (tick * 32)
  exact {
    chan := (frame.chan_eq ch).trans (State.chan_setChan_same _ _ _)
    edges := congrArg Source.edges src
    others := fun k hk =>
      ⟨(frame.chan_eq k).trans ((State.chan_setChan_other _ _ _ hk).trans (State.chan_setChan_other _ _ _ hk)), frame.others k hk⟩
    frame := frame.rest.withFbk s.fbk }

/-- What an index event may change (R105, R114). -/
abbrev indexRegs (n : Nat) : List Nat := [Reg.SRC_STAT n, Reg.SRC_IDXLO n, Reg.SRC_IDXD n, Reg.SRC_ECNT n, Reg.FBK_EVT]

/-- Source n has latched r at an index event, and its context is c. -/
structure State.Latched (s t : State) (n : Nat) (r : Int) (c : Source) : Prop where
  frame : s.OnlySource t n (indexRegs n)
  seen : t.bit (Reg.SRC_STAT n) 13 = true
  low : t.rd (Reg.SRC_IDXLO n) = wordI r
  source : t.source n = c

namespace State.Latched

variable {r : Int} {c : Source}

/-- A flag of SRC_STAT is set beside. -/
theorem flag (h : s.Latched t n r c) {i : Nat} (hi : i < 32) : s.Latched (t.setBit (Reg.SRC_STAT n) i true) n r c :=
  ⟨h.frame.wr (by simp) _, t.bit_setBit_true _ hi h.seen, (State.rd_wr_other _ _ (stat_ne_idxLo n).symm).trans h.low, h.source⟩

/-- The distance of the index, or the count of mismatches, is written. -/
theorem wr (h : s.Latched t n r c) (ha : a = Reg.SRC_IDXD n ∨ a = Reg.SRC_ECNT n) (v : Word) : s.Latched (t.wr a v) n r c := by
  have hs : Reg.SRC_STAT n ≠ a := by simp only [Reg.SRC_STAT, Reg.SRC_IDXD, Reg.SRC_ECNT] at *; omega
  have hl : Reg.SRC_IDXLO n ≠ a := by simp only [Reg.SRC_IDXLO, Reg.SRC_IDXD, Reg.SRC_ECNT] at *; omega
  exact ⟨h.frame.wr (by rcases ha with rfl | rfl <;> simp) v, (State.bit_wr_other _ v hs 13).trans h.seen, (State.rd_wr_other _ v hl).trans h.low,
    h.source⟩

theorem noticed (h : s.Latched t n r c) (hn : n < 528) (k : t.OnlyNoticed u [Reg.FBK_EVT]) : s.Latched u n r c := by
  have hrd : ∀ {a}, srcReg n a → u.rd a = t.rd a := fun ha => k.rd_fed (by simpa using ha.ne_evt) (ha.fed hn)
  refine ⟨h.frame.noticed ⟨k.rest, k.regs.mono fun b hb => ?_, k.dram⟩, (congrArg (wBit · 13) (hrd (srcReg_stat n))).trans h.seen,
    (hrd (srcReg_idxLo n)).trans h.low, (State.source_congr k.fbk_eq n).trans h.source⟩
  rcases List.mem_append.1 hb with hb | hb
  · rw [List.mem_singleton.1 hb]; simp
  · exact mem_notice hb _

end State.Latched

/-- An index event latches raw, and the distance from the one before it is checked (R105, R114). -/
theorem State.latched_indexAt (s : State) (hn : n < 528) (r : Int) (cyc : Word) (ft : Nat) :
    s.Latched (s.indexAt n r cyc ft) n r { s.source n with idxRaw := some r, dirSince := false } := by
  unfold State.indexAt
  extract_lets c u v exp tol w
  have hv : s.Latched v n r { s.source n with idxRaw := some r, dirSince := false } :=
    { frame := (((State.OnlySource.refl s n _).wr (by simp) _).wr (by simp) _).setSource _
      seen := (State.bit_wr_other _ _ (stat_ne_idxLo n) 13).trans (State.bit_setBit_same _ _ (by decide) _)
      low := State.rd_wr_same _ _ _
      source := State.source_setSource_same _ _ _ }
  refine State.Latched.noticed ?_ hn ((State.OnlyNoticed.refl _ _).capEventAt _ _ _ _ _)
  unfold w
  split
  · exact hv
  · split
    · exact hv.flag (by decide)
    · extract_lets d x
      have hx : s.Latched x n r { s.source n with idxRaw := some r, dirSince := false } := hv.wr (.inl rfl) _
      split
      · exact ((hx.flag (by decide)).wr (.inr rfl) _).noticed hn (.of (State.fbkEvt_raises _ 30))
      · exact hx

end Sys2Proof.Machine
end

section
/-! Samples of a source: its raw accumulator, the reported position, the speed, and the outputs it feeds (R111 to R120). -/

namespace Sys2Proof.Machine

variable {s t u : State} {l : List Nat} {n a : Nat}

/-! ## The raw accumulator -/

theorem wrapN_48_lt (v : Int) : wrapN 48 v < 2 ^ 48 := by
  unfold wrapN
  omega

/-- The 48 bits read back from the two registers that hold them (R9). -/
theorem State.raw_setRaw (s : State) (n : Nat) (v : Int) : (s.setRaw n v).raw n = sgn 48 (wrapN 48 v) := by
  have lo : (s.setRaw n v).rd (Reg.SRC_RAWLO n) = word (wrapN 48 v) :=
    (State.rd_wr_other _ _ (rawLo_ne_rawHi n)).trans (State.rd_wr_same _ _ _)
  have hi : (s.setRaw n v).rd (Reg.SRC_RAWHI n) = word (wrapN 48 v / 2 ^ 32) := State.rd_wr_same _ _ _
  have hv := wrapN_48_lt v
  rw [State.raw, State.fld, lo, hi, wFld, word, word, BitVec.toNat_ofNat, BitVec.toNat_ofNat, Nat.shiftRight_zero]
  congr 1
  omega

theorem State.raw_congr (lo : t.rd (Reg.SRC_RAWLO n) = s.rd (Reg.SRC_RAWLO n)) (hi : t.rd (Reg.SRC_RAWHI n) = s.rd (Reg.SRC_RAWHI n)) :
    t.raw n = s.raw n := by
  rw [State.raw, State.fld, lo, hi, State.raw, State.fld]

/-! ## The outputs that a source feeds -/

/-- What a sample may change of the pass-through outputs. -/
abbrev ptRegs : List Nat := Reg.FBK_EVT :: (List.range 8).map Reg.FBK_PT_STAT

/-- t is s but for the pass-through outputs, their status, and FBK_EVT with its delivery. -/
def State.OnlyOuts (s t : State) : Prop := s.OnlyRaised { t with fbk := { t.fbk with outs := s.fbk.outs } } ptRegs

theorem srcReg.not_pt (h : srcReg n a) (hn : n < 528) : a ∉ ptRegs := by
  obtain ⟨h1, h2⟩ := h
  simp only [Reg.SRC_STAT, Reg.SRC_DIRFT] at h1 h2
  simp only [ptRegs, Reg.FBK_EVT, Reg.FBK_PT_STAT, List.mem_cons, List.mem_map, List.mem_range, not_or, not_exists]
  exact ⟨by omega, fun m hm => by omega⟩

namespace State.OnlyOuts

theorem refl (s : State) : s.OnlyOuts s := State.OnlyRaised.refl s _

theorem trans (h : s.OnlyOuts t) (k : t.OnlyOuts u) : s.OnlyOuts u := by
  have e : { u.fbk with outs := s.fbk.outs } = { t.fbk with outs := s.fbk.outs } :=
    congrArg (fun f : FbkBlock => { f with outs := s.fbk.outs }) (State.OnlyRaised.fbk_eq k)
  unfold State.OnlyOuts at *
  rw [e]
  exact h.trans (k.withFbk _)

theorem setPout (h : s.OnlyOuts t) (m : Nat) (c : PassOut) : s.OnlyOuts (t.setPout m c) := h

theorem wr (h : s.OnlyOuts t) (ha : a ∈ ptRegs) (v : Word) : s.OnlyOuts (t.wr a v) := State.OnlyRaised.wr h ha v

theorem fbkEvt (h : s.OnlyOuts t) (i : Nat) : s.OnlyOuts (t.fbkEvt i) := by
  refine h.trans ?_
  rw [State.OnlyOuts, State.fbk_fbkEvt]
  exact ((t.fbkEvt_raises i).mono (by simp)).withFbk t.fbk

theorem source_eq (h : s.OnlyOuts t) (c : Nat) : t.source c = s.source c := (State.source_congr h.fbk_eq c :)
theorem chan_eq (h : s.OnlyOuts t) (c : Nat) : t.chan c = s.chan c := (State.chan_congr h.fbk_eq c :)
theorem rd_src (h : s.OnlyOuts t) (hn : n < 528) (ha : srcReg n a) : t.rd a = s.rd a := h.rd_fed (ha.not_pt hn) (ha.fed hn)

/-- A new target of one output (R120). -/
theorem ptTarget (h : s.OnlyOuts t) {m : Nat} (hm : m < 8) (n : Nat) (tm : Int) : s.OnlyOuts (t.ptTarget m n tm) := by
  have hs : Reg.FBK_PT_STAT m ∈ ptRegs := List.mem_cons_of_mem _ (List.mem_map_of_mem (List.mem_range.2 hm))
  unfold State.ptTarget
  split
  · exact h
  · extract_lets u p k tgt ovf out v w
    have hu : s.OnlyOuts u := State.ite_keeps (P := fun x => s.OnlyOuts x) (h.setPout _ _) h
    have hw : s.OnlyOuts w := (((hu.setPout _ _).setPout _ _).wr hs _).wr hs _
    split
    · exact hu
    · split
      · exact (hw.wr hs _).fbkEvt _
      · exact hw

end State.OnlyOuts

/-! ## The reported position -/

/-- The position that raw and the origin give, and the one within the limits (R112). -/
def State.position (s : State) (n : Nat) : Int := sgn 48 (wrapN 48 (s.raw n - (s.source n).org))
def State.limited (s : State) (n : Nat) : Int :=
  if s.position n < (s.source n).limLo then (s.source n).limLo else if (s.source n).limHi < s.position n then (s.source n).limHi else s.position n

/-- t shows the position of source n in s, within its limits, and on which side it left them (R112). -/
structure State.Shows (s t : State) (n : Nat) : Prop where
  pos : t.rd (Reg.SRC_POS n) = wordI (s.limited n)
  below : t.bit (Reg.SRC_STAT n) 29 = decide (s.position n < (s.source n).limLo)
  above : (s.source n).limLo ≤ (s.source n).limHi → t.bit (Reg.SRC_STAT n) 28 = decide ((s.source n).limHi < s.position n)
  valid : t.bit (Reg.SRC_STAT n) 24 = true

/-- The registers hold in u what they show in t. -/
theorem State.Shows.congr (h : s.Shows t n) (hp : u.rd (Reg.SRC_POS n) = t.rd (Reg.SRC_POS n))
    (hb : ∀ i, i < 25 ∨ 27 < i ∧ i < 31 → u.bit (Reg.SRC_STAT n) i = t.bit (Reg.SRC_STAT n) i) : s.Shows u n :=
  ⟨hp.trans h.pos, (hb 29 (by decide)).trans h.below, fun hl => (hb 28 (by decide)).trans (h.above hl), (hb 24 (by decide)).trans h.valid⟩

theorem State.reportAt_spec (s : State) (hn : n < 528) :
    s.OnlyRaised (s.reportAt n) [Reg.SRC_POS n, Reg.SRC_STAT n, Reg.FBK_EVT] ∧ s.Shows (s.reportAt n) n := by
  unfold State.reportAt
  extract_lets c v below above pos st₀ st x
  have hx : s.OnlyRaised x [Reg.SRC_POS n, Reg.SRC_STAT n, Reg.FBK_EVT] := ((State.OnlyRaised.refl s _).wr (by simp) _).wr (by simp) _
  have hst : x.rd (Reg.SRC_STAT n) = st := (State.rd_wr_other _ _ (stat_ne_pos n)).trans (State.rd_wr_same _ _ _)
  have bits : ∀ i, 15 ≠ i → x.bit (Reg.SRC_STAT n) i = wBit st₀ i := fun i hi => by
    rw [State.bit, hst]
    unfold st
    split
    · exact wBit_wSetBit_other _ hi _
    · rfl
  have hs : s.Shows x n := by
    refine ⟨(State.rd_wr_same _ _ _).trans (congrArg wordI ?_), (bits 29 (by decide)).trans ?_, fun hl => (bits 28 (by decide)).trans ?_,
      (bits 24 (by decide)).trans (wBit_wSetBit_same _ (by decide) _)⟩
    · change (if below = true then c.limLo else if above = true then c.limHi else v)
        = if v < c.limLo then c.limLo else if c.limHi < v then c.limHi else v
      by_cases hb : v < c.limLo <;> simp [below, above, hb]
    · exact (wBit_wSetBit_other _ (by decide) _).trans ((wBit_wSetBit_other _ (by decide) _).trans (wBit_wSetBit_same _ (by decide) _))
    · refine (wBit_wSetBit_other _ (by decide) _).trans ((wBit_wSetBit_same _ (by decide) _).trans ?_)
      change (!decide (v < c.limLo) && decide (c.limHi < v)) = decide (c.limHi < v)
      by_cases hh : c.limHi < v
      · have hlo : ¬ v < c.limLo := not_lt.2 (hl.trans hh.le)
        simp [hlo]
      · simp [hh]
  have evt : ∀ {b}, srcReg n b → (x.fbkEvt 31).rd b = x.rd b := fun hb => x.rd_fbkEvt_src 31 hn hb
  split
  · exact ⟨hx.raise (by simp) 2 _, hs.congr (evt (srcReg_pos n)) fun i _ => congrArg (wBit · i) (evt (srcReg_stat n))⟩
  · exact ⟨hx, hs⟩

/-! ## A sample -/

/-- The estimator leaves the flags of SRC_STAT that are not its own. -/
theorem State.bit_speedAt (s : State) (n : Nat) (tm : Int) {i : Nat} (hi : i < 25 ∨ 27 < i ∧ i < 31) :
    (s.speedAt n tm).bit (Reg.SRC_STAT n) i = s.bit (Reg.SRC_STAT n) i := by
  unfold State.speedAt
  extract_lets c r w st₁ st₂ st₃ last
  have h₁ : wBit st₁ i = wBit w i := (wBit_wSetBit_other _ (by omega) _).trans (wBit_wSetBit_other _ (by omega) _)
  have h₂ : wBit st₂ i = wBit st₁ i := by
    unfold st₂
    split
    · exact wBit_wSetBit_other _ (by omega) _
    · rfl
  have h₃ : wBit st₃ i = wBit st₂ i := by
    unfold st₃
    split
    · exact wBit_wSetBit_other _ (by omega) _
    · rfl
  refine (congrArg (wBit · i) ((State.rd_wr_other _ _ (stat_ne_spd n)).trans (State.rd_wr_same _ _ _))).trans ?_
  exact h₃.trans (h₂.trans h₁)

/-- The last value taken, and the origin and limits that wait: the estimator is not concerned with them. -/
def Source.carried (c : Source) : Nat × Option Nat × Option (Int × Int) := (c.vPrev, c.orgNew, c.limNew)

theorem State.carried_speedAt (s : State) (n : Nat) (tm : Int) : ((s.speedAt n tm).source n).carried = (s.source n).carried := by
  rw [State.speedAt, State.source_setSource_same]
  rfl

/-- What a sample may change, beside the raw accumulator. -/
abbrev sampleRegs (n : Nat) : List Nat := Reg.SRC_POS n :: Reg.SRC_SPD n :: Reg.SRC_STAT n :: ptRegs

/-- Source n has sampled: it shows its position, its estimator has run, and the outputs it feeds have their targets (R112, R117, R120). -/
structure State.Sampled (s t : State) (n : Nat) : Prop where
  frame : s.OnlyRaised { t with fbk := s.fbk } (sampleRegs n)
  shows : s.Shows t n
  chan : ∀ c, t.chan c = s.chan c
  kept : (t.source n).carried = (s.source n).carried

theorem State.sampled_spec (s : State) (hn : n < 528) (tm : Int) : s.Sampled (s.sampled n tm) n := by
  obtain ⟨report, shows_⟩ := s.reportAt_spec hn
  have speed : s.OnlyRaised { (s.reportAt n).speedAt n tm with fbk := s.fbk } (sampleRegs n) :=
    (((report.mono (m := sampleRegs n) (by simp)).withFbk s.fbk).wr (by simp) _).wr (by simp) _
  have outs : ((s.reportAt n).speedAt n tm).OnlyOuts (s.sampled n tm) :=
    State.each_keeps (P := fun x => ((s.reportAt n).speedAt n tm).OnlyOuts x) (.refl _) fun m hm u hu => hu.ptTarget (List.mem_range.1 hm) n tm
  exact {
    frame := speed.trans ((outs.withFbk s.fbk).mono fun _ h => List.mem_cons_of_mem _ (List.mem_cons_of_mem _ (List.mem_cons_of_mem _ h)))
    shows := shows_.congr
      ((outs.rd_src hn (srcReg_pos n)).trans (State.rd_wr_other _ _ (pos_ne_spd n) |>.trans (State.rd_wr_other _ _ (stat_ne_pos n).symm)))
      fun i hi => (congrArg (wBit · i) (outs.rd_src hn (srcReg_stat n))).trans (State.bit_speedAt _ n tm hi)
    chan := fun c => (outs.chan_eq c).trans (State.chan_congr report.fbk_eq c)
    kept := (congrArg Source.carried (outs.source_eq n)).trans
      (((s.reportAt n).carried_speedAt n tm).trans (congrArg Source.carried (State.source_congr report.fbk_eq n))) }

end Sys2Proof.Machine
end

section
/-! The inputs of a local channel: pulse and direction, A/B quadrature, and the index (R104 to R106). -/

namespace Sys2Proof.Machine

variable {s : State} {ch tick sa sb sz : Nat} {a b a' b' : Bool}

theorem State.filtered_eq (s : State) (ch : Nat) (shown level : Bool) (n : Nat) :
    s.filtered ch shown level n = if s.fld (Reg.FBK_CH_CFG ch) 25 22 < n then level else shown := if_congr decide_eq_true_iff rfl rfl

theorem State.filtered_stable (h : s.fld (Reg.FBK_CH_CFG ch) 25 22 < sa) (shown level : Bool) : s.filtered ch shown level sa = level :=
  (s.filtered_eq ch shown level sa).trans (if_pos h)

theorem State.filtered_unstable (h : sa ≤ s.fld (Reg.FBK_CH_CFG ch) 25 22) (shown level : Bool) : s.filtered ch shown level sa = shown :=
  (s.filtered_eq ch shown level sa).trans (if_neg (by omega))

/-! ## Pulse and direction (R106) -/

theorem pulseCount_rising (hm : s.chMode ch = 2) (ha : s.fld (Reg.FBK_CH_CFG ch) 25 22 < sa) (hb : s.filtered ch (s.chan ch).b b sb = b') :
    pulseCount ch tick b sa sb s = (s.setChan ch { s.chan ch with a := true, b := b' }).localCount ch tick (if b' then 1 else -1) := by
  subst hb
  exact if_neg (by simp [hm, State.filtered_stable ha])

theorem pulseCount_unstable (ha : sa ≤ s.fld (Reg.FBK_CH_CFG ch) 25 22) : pulseCount ch tick b sa sb s = s :=
  if_pos (by simp [State.filtered_unstable ha])

/-! ## Quadrature (R104) -/

section

variable (ea : s.filtered ch (s.chan ch).a a sa = a') (eb : s.filtered ch (s.chan ch).b b sb = b')
include ea eb

theorem quadratureCount_idle (h : s.chMode ch ≠ 1 ∨ a' = (s.chan ch).a ∧ b' = (s.chan ch).b) : quadratureCount ch tick a b sa sb s = s := by
  by_cases hm : s.chMode ch = 1
  · obtain ⟨ha, hb⟩ := h.resolve_left (not_not.2 hm)
    simp [quadratureCount, ea, eb, ha, hb]
  · exact if_pos hm

theorem quadratureCount_a (hm : s.chMode ch = 1) (ha : a' ≠ (s.chan ch).a) (hb : b' = (s.chan ch).b) :
    quadratureCount ch tick a b sa sb s
      = (s.setChan ch { s.chan ch with a := a', b := b' }).localCount ch tick (if a' != b' then 1 else -1) := by
  simp only [quadratureCount, ea, eb, hm]
  rw [if_neg (by simp), if_neg (by simp [hb]), if_pos (by simpa using ha)]

theorem quadratureCount_b (hm : s.chMode ch = 1) (ha : a' = (s.chan ch).a) (hb : b' ≠ (s.chan ch).b) :
    quadratureCount ch tick a b sa sb s
      = (s.setChan ch { s.chan ch with a := a', b := b' }).localCount ch tick (if a' == b' then 1 else -1) := by
  simp only [quadratureCount, ea, eb, hm]
  rw [if_neg (by simp), if_neg (by simp [ha]), if_neg (by simp [ha]), if_pos (by simpa using hb)]

theorem quadratureCount_both (hm : s.chMode ch = 1) (ha : a' ≠ (s.chan ch).a) (hb : b' ≠ (s.chan ch).b) :
    quadratureCount ch tick a b sa sb s = (s.setChan ch { s.chan ch with a := a', b := b' }).srcErr ch 9 27 := by
  simp only [quadratureCount, ea, eb, hm]
  rw [if_neg (by simp), if_pos (by simp [ha, hb])]

end

/-! ## The index (R105, R106) -/

/-- The channel counts, and its index is not held back by IQUAL, which asks for A = B = 1 in A/B/Z mode. -/
def State.indexCounts (s : State) (ch : Nat) : Prop :=
  s.chMode ch = 2 ∨ s.chMode ch = 1 ∧ (s.bit (Reg.FBK_CH_CFG ch) 27 = false ∨ (s.chan ch).a = true ∧ (s.chan ch).b = true)

theorem indexEvent_latches (hz : s.fld (Reg.FBK_CH_CFG ch) 25 22 < sz) (h : s.indexCounts ch) :
    indexEvent ch tick sz s = (s.setChan ch { s.chan ch with z := true }).indexAt ch (s.chan ch).cnt s.tb.cyc (tick * 32) := by
  unfold indexEvent
  extract_lets idx c
  rw [if_neg (by simp [State.filtered_stable hz])]
  rcases h with hm | ⟨hm, hq⟩
  · rw [if_neg (by simp [hm]), if_pos hm]
  · rw [if_pos hm, if_neg]
    rcases hq with hq | ⟨ha, hb⟩
    · simp [hq]
    · simp [c, ha, hb]

theorem indexEvent_unstable (hz : sz ≤ s.fld (Reg.FBK_CH_CFG ch) 25 22) : indexEvent ch tick sz s = s :=
  if_pos (by simp [State.filtered_unstable hz])

theorem indexEvent_unqualified (hm : s.chMode ch = 1) (hq : s.bit (Reg.FBK_CH_CFG ch) 27 = true)
    (h : (s.chan ch).a = false ∨ (s.chan ch).b = false) : indexEvent ch tick sz s = s := by
  unfold indexEvent
  extract_lets idx c
  by_cases hf : s.filtered ch false true sz = true
  · rw [if_neg (by simp [hf]), if_pos hm, if_pos]
    rcases h with h | h <;> simp [c, hq, h]
  · exact if_pos (by simpa using hf)

/-- Settles O52: a rising edge is one count step, and an index event latches the count. -/
theorem pulseDirection : Obligations.PulseDirection := by
  unfold Obligations.PulseDirection
  intro s ch hm
  refine ⟨fun tick sa sb b b' ha hb => ?_, fun tick sa sb b ha => congrArg Host.Outcome.next (pulseCount_unstable ha), fun tick sz hz => ?_,
    fun tick sz hz => congrArg Host.Outcome.next (indexEvent_unstable hz)⟩
  · have hexec := pulseCount_rising (tick := tick) hm ha ((s.filtered_eq ch _ b sb).trans hb.symm)
    have counted := s.counted_localCount ch tick { s.chan ch with a := true, b := b' } b'
    exact ⟨_, congrArg Host.Outcome.next hexec, congrArg Channel.cnt counted.chan, congrArg Channel.b counted.chan, counted.edges, counted.others,
      counted.frame⟩
  · have hexec := indexEvent_latches (tick := tick) hz (.inl hm)
    have latched := (s.setChan ch { s.chan ch with z := true }).latched_indexAt (n := ch) (by omega) (s.chan ch).cnt s.tb.cyc (tick * 32)
    have chan := (latched.frame.chan_eq ch).trans (s.chan_setChan_same ch _)
    exact ⟨_, congrArg Host.Outcome.next hexec, latched.seen, latched.low, congrArg Source.idxRaw latched.source, (congrArg Channel.cnt chan :),
      latched.frame.rest.withFbk s.fbk⟩

end Sys2Proof.Machine
end

section
/-! Samples of a local channel, and serial reads (R103, R107 to R109, R111 to R113). -/

namespace Sys2Proof.Machine

variable {s : State} {ch n tick v : Nat} {st : Int} {d : SerialData}

/-! ## A sample instant -/

theorem feedbackSample_idle (h : s.sampleInstant ch tick = false ∨ (s.chan ch).smpAt = some (s.tick0 + tick)) : feedbackSample ch tick s = s :=
  if_pos (by rcases h with h | h <;> simp [h])

/-- A tick is a sample instant, and its sample has not been taken (R103). -/
def State.sampleDue (s : State) (ch tick : Nat) : Prop := s.sampleInstant ch tick = true ∧ (s.chan ch).smpAt ≠ some (s.tick0 + tick)

/-- Channel ch after its sample at a tick, and the state that holds it. -/
def State.sampledChan (s : State) (ch tick : Nat) : Channel := { s.chan ch with smpAt := some (s.tick0 + tick) }
def State.sampling (s : State) (ch tick : Nat) : State := s.setChan ch (s.sampledChan ch tick)

theorem State.sampleDue.cond (h : s.sampleDue ch tick) : ¬ (!s.sampleInstant ch tick || (s.chan ch).smpAt == some (s.tick0 + tick)) = true := by
  obtain ⟨hi, ht⟩ := h
  simp [hi, ht]

/-- A counting channel at its sample: the waiting pairs are in force, and raw is the count (R103, R113). -/
def State.counting (s : State) (ch tick : Nat) : State := ((s.sampling ch tick).adopt ch).setRaw ch (s.chan ch).cnt

/-- The sample of a counting channel is its count. -/
theorem feedbackSample_count (h : s.sampleDue ch tick) (hm : s.chMode ch = 1 ∨ s.chMode ch = 2) :
    feedbackSample ch tick s = (s.counting ch tick).sampled ch ((s.tick0 + tick : Nat) : Int) := by
  unfold feedbackSample
  extract_lets at_ src c u
  have mode : u.chMode ch = s.chMode ch := rfl
  rw [if_neg h.cond, mode]
  rcases hm with hm | hm <;> rw [hm] <;> rfl

/-- The sample of a serial channel is the value that is ready. -/
theorem feedbackSample_value (h : s.sampleDue ch tick) (hm : s.chMode ch = 3 ∨ s.chMode ch = 4) (hr : (s.chan ch).ready = true)
    (hg : (s.chan ch).good = some (v, st)) :
    feedbackSample ch tick s
      = ((s.sampling ch tick).setChan ch { s.sampledChan ch tick with ready := false, good := some (v, st) }).takeValue ch
          (s.fld (Reg.FBK_CH_SER0 ch) 29 24) v ((s.tick0 + tick : Nat) : Int) st s.tb.cyc (tick * 32) := by
  unfold feedbackSample
  extract_lets at_ src c u
  have mode : u.chMode ch = s.chMode ch := rfl
  have ready : c.ready = true := hr
  have good : c.good = some (v, st) := hg
  rw [if_neg h.cond, mode]
  rcases hm with hm | hm <;> rw [hm, ready, good] <;> rfl

/-- Channel ch has no value ready at its sample. -/
def State.unready (s : State) (ch tick : Nat) : State := (s.sampling ch tick).setChan ch { s.sampledChan ch tick with ready := false }

/-- A read that is not ready at the sample sets STALE. -/
theorem feedbackSample_stale (h : s.sampleDue ch tick) (hm : s.chMode ch = 3 ∨ s.chMode ch = 4) (hr : (s.chan ch).ready = false) :
    feedbackSample ch tick s = ((s.unready ch tick).setBit (Reg.SRC_STAT ch) 7 true).fbkEvt 25 := by
  unfold feedbackSample
  extract_lets at_ src c u
  have mode : u.chMode ch = s.chMode ch := rfl
  have ready : c.ready = false := hr
  rw [if_neg h.cond, mode]
  rcases hm with hm | hm <;> rw [hm, ready] <;> rfl

/-! ## Values -/

theorem State.Sampled.raw_eq {t : State} (h : s.Sampled t n) (hn : n < 528) : t.raw n = s.raw n := by
  have k : ∀ {a}, srcReg n a → a ≠ Reg.SRC_POS n → a ≠ Reg.SRC_SPD n → a ≠ Reg.SRC_STAT n → t.rd a = s.rd a := fun ha h1 h2 h3 =>
    h.frame.rd_fed (by simpa only [sampleRegs, List.mem_cons, h1, h2, h3, false_or] using ha.not_pt hn) (ha.fed hn)
  refine State.raw_congr (k (srcReg_rawLo n) ?_ ?_ ?_) (k (srcReg_rawHi n) ?_ ?_ ?_) <;>
    simp only [Reg.SRC_RAWLO, Reg.SRC_RAWHI, Reg.SRC_POS, Reg.SRC_SPD, Reg.SRC_STAT] <;> omega

theorem State.raw_counting (s : State) (ch tick : Nat) : (s.counting ch tick).raw ch = sgn 48 (wrapN 48 (s.chan ch).cnt) := State.raw_setRaw _ ch _

theorem State.source_counting (s : State) (ch tick : Nat) : (s.counting ch tick).source ch = { s.source ch with
    org := (s.source ch).orgNew.getD (s.source ch).org, orgNew := none,
    limLo := ((s.source ch).limNew.getD ((s.source ch).limLo, (s.source ch).limHi)).1,
    limHi := ((s.source ch).limNew.getD ((s.source ch).limLo, (s.source ch).limHi)).2, limNew := none,
    idxCfg := s.rd (Reg.SRC_IDXCFG ch), sst := s.rd (Reg.SRC_SST ch) } := State.source_setSource_same _ ch _

theorem State.onlyRegs_counting (s : State) (ch tick : Nat) :
    s.OnlyRegs { s.counting ch tick with fbk := s.fbk } [Reg.SRC_RAWLO ch, Reg.SRC_RAWHI ch] :=
  ((State.OnlyRegs.refl s _).wr (by simp) _).wr (by simp) _

/-- The sample of a counting channel reports position v within lo and hi, and changes the registers of the source and of the outputs it feeds
(R112). -/
theorem State.sampled_counting (s : State) (hn : ch < 528) {t : State} {tm v lo hi : Int} (ht : t = (s.counting ch tick).sampled ch tm)
    (hv : v = sgn 48 (wrapN 48 (sgn 48 (wrapN 48 (s.chan ch).cnt) - (s.source ch).orgNew.getD (s.source ch).org)))
    (hl : (lo, hi) = (s.source ch).limNew.getD ((s.source ch).limLo, (s.source ch).limHi)) (hle : lo ≤ hi) :
    t.raw ch = sgn 48 (wrapN 48 (s.chan ch).cnt)
      ∧ t.rd (Reg.SRC_POS ch) = wordI (if v < lo then lo else if hi < v then hi else v) ∧ t.bit (Reg.SRC_STAT ch) 29 = decide (v < lo)
      ∧ t.bit (Reg.SRC_STAT ch) 28 = decide (hi < v) ∧ t.bit (Reg.SRC_STAT ch) 24 = true ∧ (t.source ch).orgNew = none ∧ (t.source ch).limNew = none
      ∧ s.OnlyRaised { t with fbk := s.fbk } (Reg.SRC_RAWLO ch :: Reg.SRC_RAWHI ch :: sampleRegs ch) := by
  subst ht
  have sampled := (s.counting ch tick).sampled_spec hn tm
  have src := s.source_counting ch tick
  have pos : (s.counting ch tick).position ch = v := by rw [State.position, State.raw_counting, src, hv]
  have low : ((s.counting ch tick).source ch).limLo = lo := by rw [src, ← hl]
  have high : ((s.counting ch tick).source ch).limHi = hi := by rw [src, ← hl]
  have kept := sampled.kept
  rw [src] at kept
  obtain ⟨shown, below, above, valid⟩ := sampled.shows
  rw [State.limited, low, high, pos] at shown
  rw [low, pos] at below
  rw [low, high, pos] at above
  have first := (State.OnlyRaised.of (s.onlyRegs_counting ch tick)).mono (m := Reg.SRC_RAWLO ch :: Reg.SRC_RAWHI ch :: sampleRegs ch) (by simp)
  have rest := (sampled.frame.withFbk s.fbk).mono (m := Reg.SRC_RAWLO ch :: Reg.SRC_RAWHI ch :: sampleRegs ch)
    fun _ h => List.mem_cons_of_mem _ (List.mem_cons_of_mem _ h)
  exact ⟨(sampled.raw_eq hn).trans (s.raw_counting ch tick), shown, below, above hle, valid, (congrArg (·.2.1) kept :), (congrArg (·.2.2) kept :),
    first.trans rest⟩

/-- A count change leaves the raw accumulator. -/
theorem State.raw_countEdge (s : State) (hn : n < 528) (te d : Int) (cyc : Word) (ft : Nat) : (s.countEdge n te d cyc ft).raw n = s.raw n := by
  obtain ⟨frame, -⟩ := s.countEdge_spec n te d cyc ft
  refine State.raw_congr (frame.rd_fed ?_ ((srcReg_rawLo n).fed hn)) (frame.rd_fed ?_ ((srcReg_rawHi n).fed hn)) <;>
    simp only [edgeRegs, Reg.SRC_RAWLO, Reg.SRC_RAWHI, Reg.SRC_STAT, Reg.SRC_DIRCYC, Reg.SRC_DIRFT, Reg.FBK_EVT, List.mem_cons, List.not_mem_nil,
      or_false] <;> omega

/-- A value is taken as its difference from the last one (R111). -/
theorem State.takeValue_spec (s : State) (hn : n < 528) (h24 : s.bit (Reg.SRC_STAT n) 24 = true) (w v : Nat) (tm te : Int) (cyc : Word) (ft : Nat) :
    (s.takeValue n w v tm te cyc ft).raw n = sgn 48 (wrapN 48 (s.raw n + sgn w ((v + 2 ^ w - (s.source n).vPrev % 2 ^ w) % 2 ^ w)))
      ∧ ((s.takeValue n w v tm te cyc ft).source n).vPrev = v ∧ ∀ c, (s.takeValue n w v tm te cyc ft).chan c = s.chan c := by
  unfold State.takeValue
  extract_lets c u d x
  rw [if_pos h24]
  have raw : x.raw n = sgn 48 (wrapN 48 (s.raw n + d)) := State.raw_setRaw _ n _
  have prev : (x.source n).vPrev = v :=
    (congrArg Source.vPrev (State.source_setSource_same _ n _)).trans (congrArg Source.vPrev (s.source_setSource_same n { c with vPrev := v }))
  obtain ⟨edge, p, q, src⟩ := x.countEdge_spec n te d cyc ft
  obtain ⟨rawY, prevY, chanY⟩ := State.ite_keeps (p := d = 0)
    (P := fun y => y.raw n = sgn 48 (wrapN 48 (s.raw n + d)) ∧ (y.source n).vPrev = v ∧ ∀ k, y.chan k = s.chan k) ⟨raw, prev, fun _ => rfl⟩
    ⟨(x.raw_countEdge hn te d cyc ft).trans raw, (congrArg Source.vPrev src).trans prev, fun k => edge.chan_eq k⟩
  have sampled := State.sampled_spec (if d = 0 then x else x.countEdge n te d cyc ft) hn tm
  exact ⟨(sampled.raw_eq hn).trans rawY, (congrArg Prod.fst sampled.kept :).trans prevY, fun k => (sampled.chan k).trans (chanY k)⟩

/-- A stale sample sets its two flags and changes no other register. -/
theorem State.stale_spec (s : State) (hn : ch < 528) (tick : Nat) {t : State}
    (ht : t = ((s.unready ch tick).setBit (Reg.SRC_STAT ch) 7 true).fbkEvt 25) :
    t.bit (Reg.SRC_STAT ch) 7 = true ∧ t.bit Reg.FBK_EVT 25 = true
      ∧ s.OnlyRaised { t with fbk := s.fbk } [Reg.SRC_STAT ch, Reg.FBK_EVT] := by
  subst ht
  have raised := ((s.unready ch tick).setBit (Reg.SRC_STAT ch) 7 true).fbkEvt_raises 25
  refine ⟨?_, State.bit_fbkEvt_same _ (by decide), ((State.OnlyRaised.refl s _).wr (by simp) _).trans ((raised.withFbk s.fbk).mono (by simp))⟩
  exact (congrArg (wBit · 7) (State.rd_fbkEvt_src _ 25 hn (srcReg_stat ch))).trans (State.bit_setBit_same _ _ (by decide) true)

/-! ## Serial reads -/

/-- Channel ch as a read starts at a tick: CK runs for the read's clock periods, and TMF must pass after them (R107 to R109). -/
def State.readBegun (s : State) (ch tick : Nat) : Channel :=
  { s.chan ch with
    reading := some ((s.tick0 + tick : Nat) : Int), ready := false,
    readFrom := ((s.tick0 + tick : Nat) : Int) + 2 * s.fld (Reg.FBK_CH_SER0 ch) 10 0 * s.readClocks ch + s.fld (Reg.FBK_CH_SER2 ch) 15 0 }

theorem serialReadStart_starts (hm : s.chMode ch = 3 ∨ s.chMode ch = 4) (hc : s.sampleComes ch tick = true) (hr : (s.chan ch).reading = none)
    (hf : (s.chan ch).readFrom ≤ ((s.tick0 + tick : Nat) : Int)) :
    serialReadStart ch tick s = s.setChan ch (s.readBegun ch tick) :=
  if_pos ⟨hm, hc, hr, hf⟩

theorem serialReadStart_waits (h : (s.chMode ch ≠ 3 ∧ s.chMode ch ≠ 4) ∨ s.sampleComes ch tick = false ∨ (s.chan ch).reading.isSome ∨
    ((s.tick0 + tick : Nat) : Int) < (s.chan ch).readFrom) : serialReadStart ch tick s = s := by
  refine if_neg fun ⟨hm, hc, hr, hf⟩ => ?_
  rcases h with ⟨h3, h4⟩ | h | h | h
  · exact hm.elim h3 h4
  · simp [h] at hc
  · simp [hr] at h
  · omega

theorem serialReadDone_ignored (h : (s.chan ch).reading = none ∨ d.bits.length ≠ s.fld (Reg.FBK_CH_SER0 ch) 21 16) :
    serialReadDone ch d s = s := by
  unfold serialReadDone
  extract_lets c
  split
  · rfl
  · next _ hr => exact if_pos (h.resolve_left fun e => by simp [show c.reading = none from e] at hr)

/-- Channel ch after a read: none runs, and where it went well its value is ready with the tick at which it began. -/
def State.readEnded (s : State) (ch : Nat) : Channel := { s.chan ch with reading := none }
def State.readWell (s : State) (ch v : Nat) (st : Int) : Channel := { s.readEnded ch with good := some (v, st), ready := true }

/-- An acknowledged read has measured the line's delay, and may carry a warning of the encoder (R108). -/
def State.delayShown (s : State) (ch : Nat) (d : SerialData) : State := (s.setChan ch (s.readEnded ch)).setFld (Reg.FBK_CH_LSTAT ch) 15 0 d.delay
def State.warningShown (s : State) (ch : Nat) (d : SerialData) : State :=
  if (d.bits[s.fld (Reg.FBK_CH_SER0 ch) 29 24 + 1]?).getD false then (s.delayShown ch d).setBit (Reg.SRC_STAT ch) 6 true else s.delayShown ch d

theorem State.fld_delayShown (s : State) (ch : Nat) (d : SerialData) : (s.delayShown ch d).fld (Reg.FBK_CH_LSTAT ch) 15 0 = d.delay % 65536 :=
  State.fld_setFld_same _ _ (by decide) (by decide) _

theorem State.onlyRegs_delayShown (s : State) (ch : Nat) (d : SerialData) :
    s.OnlyRegs { s.delayShown ch d with fbk := s.fbk } [Reg.FBK_CH_LSTAT ch] :=
  (State.OnlyRegs.refl s _).wr (by simp) _

theorem lstat_ne_stat (h : ch < 16) : Reg.FBK_CH_LSTAT ch ≠ Reg.SRC_STAT ch := by simp only [Reg.FBK_CH_LSTAT, Reg.SRC_STAT]; omega

theorem State.warningShown_spec (s : State) (h : ch < 16) (d : SerialData) :
    (s.warningShown ch d).fld (Reg.FBK_CH_LSTAT ch) 15 0 = d.delay % 65536
      ∧ s.OnlyRegs { s.warningShown ch d with fbk := s.fbk } [Reg.FBK_CH_LSTAT ch, Reg.SRC_STAT ch] := by
  have frame := (s.onlyRegs_delayShown ch d).mono (k := [Reg.FBK_CH_LSTAT ch, Reg.SRC_STAT ch]) (by simp)
  unfold State.warningShown
  split
  · refine ⟨?_, frame.wr (by simp) _⟩
    exact (congrArg (wFld · 15 0) (State.rd_wr_other _ _ (lstat_ne_stat h))).trans (s.fld_delayShown ch d)
  · exact ⟨s.fld_delayShown ch d, frame⟩

/-- The position of an SSI read: POSW bits from POSOFF on, in Gray code where GRAY says so (R107). -/
def State.ssiValue (s : State) (ch : Nat) (f : List Bool) : Nat := bitsNat (if s.bit (Reg.FBK_CH_CFG ch) 26 then grayBits f false else f) 0

section

variable (hr : (s.chan ch).reading = some st) (hl : d.bits.length = s.fld (Reg.FBK_CH_SER0 ch) 21 16)
include hr hl

theorem serialReadDone_ssi (hm : s.chMode ch = 3) (he : s.bit (Reg.FBK_CH_SER1 ch) 25 = false) :
    serialReadDone ch d s = (s.setChan ch (s.readEnded ch)).setChan ch (s.readWell ch
      (s.ssiValue ch ((d.bits.drop (s.fld (Reg.FBK_CH_SER1 ch) 31 26)).take (s.fld (Reg.FBK_CH_SER0 ch) 29 24))) st) := by
  unfold serialReadDone
  extract_lets c
  rw [show c.reading = some st from hr]
  dsimp only
  rw [if_neg (not_not.2 hl), hm]
  have good : ∀ x, (s.bit (Reg.FBK_CH_SER1 ch) 25 && x) = false := fun x => by rw [he, Bool.false_and]
  exact if_neg (Bool.eq_false_iff.1 (good _))

theorem serialReadDone_ack (hm : s.chMode ch = 4) (hc : crc8 d.bits 0 = d.crc) (ha : (d.bits[s.fld (Reg.FBK_CH_SER0 ch) 29 24]?).getD false = false) :
    serialReadDone ch d s = (s.warningShown ch d).setChan ch (s.readWell ch (bitsNat (d.bits.take (s.fld (Reg.FBK_CH_SER0 ch) 29 24)) 0) st) := by
  unfold serialReadDone
  extract_lets c
  rw [show c.reading = some st from hr]
  dsimp only
  rw [if_neg (not_not.2 hl), hm]
  exact (if_neg (not_not.2 hc)).trans (if_neg (Bool.eq_false_iff.1 ha))

theorem serialReadDone_crc (hm : s.chMode ch = 4) (hc : crc8 d.bits 0 ≠ d.crc) :
    serialReadDone ch d s = (s.delayShown ch d).srcErr ch 8 26 := by
  unfold serialReadDone
  extract_lets c
  rw [show c.reading = some st from hr]
  dsimp only
  rw [if_neg (not_not.2 hl), hm]
  exact if_pos hc

end

/-- A mismatch of the CRC ends the read, and the value and its readiness stand (R108). -/
theorem State.mismatch_spec (s : State) (h : ch < 16) (d : SerialData) {t : State} (ht : t = (s.delayShown ch d).srcErr ch 8 26) :
    t.bit (Reg.SRC_STAT ch) 8 = true ∧ t.bit Reg.FBK_EVT 26 = true ∧ (t.chan ch).reading = none ∧ (t.chan ch).good = (s.chan ch).good
      ∧ (t.chan ch).ready = (s.chan ch).ready
      ∧ s.OnlyRaised { t with fbk := s.fbk } [Reg.FBK_CH_LSTAT ch, Reg.SRC_STAT ch, Reg.SRC_ECNT ch, Reg.FBK_EVT] := by
  subst ht
  have raised := (s.delayShown ch d).onlyRaised_srcErr ch 8 26
  obtain ⟨flag, -, evt⟩ := (s.delayShown ch d).srcErr_shows (n := ch) (i := 8) (e := 26) (by omega) (by decide) (by decide)
  have chan : ((s.delayShown ch d).srcErr ch 8 26).chan ch = s.readEnded ch :=
    (State.chan_congr raised.fbk_eq ch).trans (s.chan_setChan_same ch (s.readEnded ch))
  refine ⟨flag, evt, congrArg Channel.reading chan, (congrArg Channel.good chan :), (congrArg Channel.ready chan :), ?_⟩
  exact ((State.OnlyRaised.of (s.onlyRegs_delayShown ch d)).mono (by simp)).trans ((raised.withFbk s.fbk).mono (by simp))

theorem ackTimeout_fails (hr : (s.chan ch).reading = some st) (hm : s.chMode ch = 4) :
    ackTimeout ch s = (s.setChan ch { s.chan ch with reading := none, ready := false }).setBit (Reg.FBK_CH_LSTAT ch) 31 true := by
  rw [ackTimeout, hr]
  exact if_pos hm

end Sys2Proof.Machine
end

section
/-! Origin and limit pairs, the pass-through outputs, and the statement on the feedback channels (R103 to R113, R119, R120). -/

namespace Sys2Proof.Machine

variable {s : State} {v : Word}

/-! ## Origins and limits (R113) -/

theorem exec_originPairWrite {m : Fin 32} {n : Fin 528} (h : s.may m (Reg.SRC_ORGHI n) true) (v : Word) :
    exec (.originPairWrite m n v) s = .next (s.originPair n v) :=
  congrArg Host.Outcome.next (State.regAccess_of_may h fun s => s.originPair n v)

theorem exec_limitPairWrite {m : Fin 32} {n : Fin 528} (h : s.may m (Reg.SRC_LIMHI n) true) (v : Word) :
    exec (.limitPairWrite m n v) s = .next (s.limitPair n v) :=
  congrArg Host.Outcome.next (State.regAccess_of_may h fun s => s.limitPair n v)

theorem State.limitPair_taken {n : Nat} (h : s32 (s.rd (Reg.SRC_LIMLO n)) ≤ s32 v) :
    s.limitPair n v = (s.wr (Reg.SRC_LIMHI n) v).setSource n { s.source n with limNew := some (s32 (s.rd (Reg.SRC_LIMLO n)), s32 v) } :=
  if_neg (not_lt.2 h)

theorem State.limitPair_refused {n : Nat} (h : s32 v < s32 (s.rd (Reg.SRC_LIMLO n))) : s.limitPair n v = s.fbkEvt 22 := if_pos h

/-! ## Pass-through outputs (R119, R120) -/

theorem passThroughReemit_copies {m : Nat} (h : s.fld (Reg.FBK_PT_CFG m) 31 30 = 1) (a b z : Bool) :
    passThroughReemit m a b z s = (s.setChan (s.fld (Reg.FBK_PT_CFG m) 25 16)
        { s.chan (s.fld (Reg.FBK_PT_CFG m) 25 16) with ua := a, ub := b, uz := z }).setPout m
      { s.pout m with a := if s.bit (Reg.FBK_PT_CFG m) 29 then b else a, b := if s.bit (Reg.FBK_PT_CFG m) 29 then a else b, z := z } :=
  if_pos h

/-- Output m one count nearer its target at a tick, its next edge MINEDGE ticks away at least. -/
def State.stepped (s : State) (m tick : Nat) : PassOut :=
  { s.pout m with out := (s.pout m).out + sgn1 (s.pout m).left, done := (s.pout m).done + 1,
                  free := ((s.tick0 + tick : Nat) : Int) + s.fld (Reg.FBK_PT_CFG m) 7 0 }

theorem emulationEdge_steps {m tick : Nat} (he : s.fld (Reg.FBK_PT_CFG m) 31 30 = 2) (ht : (s.pout m).target ≠ (s.pout m).out)
    (hd : (s.pout m).dueAt ≤ ((s.tick0 + tick : Nat) : Int)) :
    emulationEdge m tick s = ((s.setPout m (s.stepped m tick)).ptPins m).ptShow m :=
  if_pos ⟨beq_iff_eq.2 he, sub_ne_zero.2 ht, hd⟩

theorem emulationEdge_rests {m tick : Nat} (h : (s.pout m).target = (s.pout m).out ∨ ((s.tick0 + tick : Nat) : Int) < (s.pout m).dueAt) :
    emulationEdge m tick s = s :=
  if_neg fun ⟨_, ht, hd⟩ => h.elim (fun e => ht (sub_eq_zero.2 e)) (not_lt.2 hd)

/-- A step goes toward the target. -/
theorem PassOut.sgn1_left (p : PassOut) : sgn1 p.left = if p.target < p.out then -1 else 1 := if_congr sub_neg rfl rfl

/-- An output that shows its pins and its status is as before, but for the pins. -/
theorem State.pout_shown_same (s : State) (m : Nat) : ∃ a b z, ((s.ptPins m).ptShow m).pout m = { s.pout m with a := a, b := b, z := z } :=
  ⟨_, _, _, s.pout_setPout_same m _⟩

theorem State.pout_shown_other (s : State) {m k : Nat} (h : k ≠ m) : ((s.ptPins m).ptShow m).pout k = s.pout k := s.pout_setPout_other m _ h

theorem State.onlyRegs_shown (s : State) (m : Nat) (f : FbkBlock) :
    { s with fbk := f }.OnlyRegs { (s.ptPins m).ptShow m with fbk := f } [Reg.FBK_PT_STAT m] :=
  ((State.OnlyRegs.refl _ _).wr (by simp) _).wr (by simp) _

/-! ## The statement -/

/-- Settles O53: every command of the unit is its case of a few: a count step, an error, a latch, a sample, a serial read, or an output's move. -/
theorem feedbackChannels : Obligations.FeedbackChannels := by
  unfold Obligations.FeedbackChannels
  refine ⟨fun s ch tick sa sb a b a' b' ea eb => ?_, fun s ch tick sz hm => ⟨fun hz hq => ?_, fun h => ?_⟩,
    fun s ch tick h => congrArg Host.Outcome.next (feedbackSample_idle h), fun s ch tick hi ht => ?_, fun s ch tick hm hc hr hf => ?_,
    fun s ch tick h => congrArg Host.Outcome.next (serialReadStart_waits h), fun s ch d h => congrArg Host.Outcome.next (serialReadDone_ignored h),
    fun s ch st d hr hl => ?_, fun s m n v h => ?_, fun s m n v h => ⟨fun hle => ?_, fun hlt => ?_⟩, fun s m a b z h => ?_,
    fun s m tick due he hd => ?_⟩
  -- A/B quadrature (R104)
  · have ea := (s.filtered_eq ch _ a sa).trans ea.symm
    have eb := (s.filtered_eq ch _ b sb).trans eb.symm
    refine ⟨fun h => congrArg Host.Outcome.next (quadratureCount_idle ea eb h), fun hm ha hb => ?_, fun hm ha hb => ?_, fun hm ha hb => ?_⟩
    · have counted := s.counted_localCount ch tick { s.chan ch with a := a', b := b' } (a' != b')
      exact ⟨_, congrArg Host.Outcome.next (quadratureCount_a ea eb hm ha hb), congrArg Channel.a counted.chan, congrArg Channel.b counted.chan,
        congrArg Channel.cnt counted.chan, counted.frame⟩
    · have counted := s.counted_localCount ch tick { s.chan ch with a := a', b := b' } (a' == b')
      exact ⟨_, congrArg Host.Outcome.next (quadratureCount_b ea eb hm ha hb), congrArg Channel.a counted.chan, congrArg Channel.b counted.chan,
        congrArg Channel.cnt counted.chan, counted.frame⟩
    · have raised := (s.setChan ch { s.chan ch with a := a', b := b' }).onlyRaised_srcErr ch 9 27
      obtain ⟨flag, count, evt⟩ := (s.setChan ch { s.chan ch with a := a', b := b' }).srcErr_shows (n := ch) (i := 9) (e := 27) (by omega)
        (by decide) (by decide)
      have chan := (State.chan_congr raised.fbk_eq ch).trans (s.chan_setChan_same ch _)
      exact ⟨_, congrArg Host.Outcome.next (quadratureCount_both ea eb hm ha hb), (congrArg Channel.cnt chan :), flag, count, evt,
        raised.withFbk s.fbk⟩
  -- the index (R105)
  · have latched := (s.setChan ch { s.chan ch with z := true }).latched_indexAt (n := ch) (by omega) (s.chan ch).cnt s.tb.cyc (tick * 32)
    exact ⟨_, congrArg Host.Outcome.next (indexEvent_latches hz (.inr ⟨hm, hq⟩)), latched.seen, latched.low⟩
  · rcases h with hz | ⟨hq, h⟩
    · exact congrArg Host.Outcome.next (indexEvent_unstable hz)
    · exact congrArg Host.Outcome.next (indexEvent_unqualified hm hq h)
  -- samples (R103, R109, R111, R112)
  · refine ⟨fun hm v lo hi' hv hl hle => ?_, fun v st hm hr hg h24 w d hw hd => ?_, fun hm hr => ?_⟩
    · exact ⟨_, congrArg Host.Outcome.next (feedbackSample_count ⟨hi, ht⟩ hm), s.sampled_counting (by omega) rfl hv hl hle⟩
    · subst hw hd
      obtain ⟨raw, prev, chan⟩ := ((s.sampling ch tick).setChan ch { s.sampledChan ch tick with ready := false, good := some (v, st) }).takeValue_spec
        (n := ch) (by omega) h24 (s.fld (Reg.FBK_CH_SER0 ch) 29 24) v ((s.tick0 + tick : Nat) : Int) st s.tb.cyc (tick * 32)
      exact ⟨_, congrArg Host.Outcome.next (feedbackSample_value ⟨hi, ht⟩ hm hr hg), raw, prev,
        congrArg Channel.ready ((chan ch).trans (State.chan_setChan_same _ ch _))⟩
    · exact ⟨_, congrArg Host.Outcome.next (feedbackSample_stale ⟨hi, ht⟩ hm hr), s.stale_spec (by omega) tick rfl⟩
  -- the start of a serial read, and its end (R107 to R109)
  · have chan := s.chan_setChan_same ch (s.readBegun ch tick)
    exact ⟨_, congrArg Host.Outcome.next (serialReadStart_starts hm hc hr hf), congrArg Channel.reading chan, congrArg Channel.ready chan,
      (congrArg Channel.good chan :), (congrArg Channel.cnt chan :), fun c h => s.chan_setChan_other ch _ h, rfl⟩
  · refine ⟨fun hm he f hf => ?_, fun hm hc ha => ?_, fun hm hc => ?_, fun hm => ?_⟩
    · subst hf
      exact ⟨_, congrArg Host.Outcome.next (serialReadDone_ssi hr hl hm he), (congrArg Channel.ready (State.chan_setChan_same _ ch _) :),
        (congrArg Channel.reading (State.chan_setChan_same _ ch _) :), (congrArg Channel.good (State.chan_setChan_same _ ch _) :), rfl⟩
    · obtain ⟨delay, frame⟩ := s.warningShown_spec ch.isLt d
      exact ⟨_, congrArg Host.Outcome.next (serialReadDone_ack hr hl hm hc ha), (congrArg Channel.ready (State.chan_setChan_same _ ch _) :),
        (congrArg Channel.reading (State.chan_setChan_same _ ch _) :), (congrArg Channel.good (State.chan_setChan_same _ ch _) :), delay, frame⟩
    · exact ⟨_, congrArg Host.Outcome.next (serialReadDone_crc hr hl hm hc), s.mismatch_spec ch.isLt d rfl⟩
    · have chan := s.chan_setChan_same ch { s.chan ch with reading := none, ready := false }
      exact ⟨_, congrArg Host.Outcome.next (ackTimeout_fails hr hm), State.bit_setBit_same _ _ (by decide) true, (congrArg Channel.reading chan :),
        (congrArg Channel.ready chan :), (State.OnlyRegs.refl s _).wr (by simp) _⟩
  -- origin and limit pairs (R113)
  · have src := State.source_setSource_same (s.wr (Reg.SRC_ORGHI n) (word (wFld v 15 0))) n
      { s.source n with orgNew := some (wFld v 15 0 * 2 ^ 32 + (s.rd (Reg.SRC_ORGLO n)).toNat) }
    exact ⟨_, exec_originPairWrite h v, (congrArg Source.orgNew src :), (congrArg Source.org src :), (State.OnlyRegs.refl s _).wr (by simp) _⟩
  · have hexec := (exec_limitPairWrite h v).trans (congrArg Host.Outcome.next (State.limitPair_taken hle))
    exact ⟨_, hexec, State.rd_wr_same _ _ _, (congrArg Source.limNew (State.source_setSource_same _ n _) :), (State.OnlyRegs.refl s _).wr (by simp) _⟩
  · have hexec := (exec_limitPairWrite h v).trans (congrArg Host.Outcome.next (State.limitPair_refused hlt))
    exact ⟨_, hexec, s.bit_fbkEvt_same (by decide), s.fbk_fbkEvt 22, s.fbkEvt_raises 22⟩
  -- pass-through outputs (R119, R120)
  · have out := State.pout_setPout_same
    exact ⟨_, congrArg Host.Outcome.next (passThroughReemit_copies h a b z), (congrArg PassOut.a (out _ m _) :), (congrArg PassOut.b (out _ m _) :),
      (congrArg PassOut.z (out _ m _) :), fun k hk => State.pout_setPout_other _ m _ hk, rfl⟩
  · subst hd
    refine ⟨fun ht hdue => ?_, fun h => congrArg Host.Outcome.next (emulationEdge_rests h)⟩
    obtain ⟨a, b, z, shown⟩ := (s.setPout m (s.stepped m tick)).pout_shown_same m
    rw [State.pout_setPout_same] at shown
    refine ⟨_, congrArg Host.Outcome.next (emulationEdge_steps he ht hdue), (congrArg PassOut.out shown :).trans ?_,
      (congrArg PassOut.target shown :), (congrArg PassOut.free shown :),
      fun k hk => (State.pout_shown_other _ hk).trans (State.pout_setPout_other _ m _ hk), (s.setPout m (s.stepped m tick)).onlyRegs_shown m s.fbk⟩
    exact congrArg ((s.pout m).out + ·) (s.pout m).sgn1_left

end Sys2Proof.Machine
end

section
/-! The time base: lock, loss and return of the reference, and the debug halt (R141, R193 to R195). -/

namespace Sys2Proof.Machine

variable {s t : State} {l : List Nat}

theorem State.OnlyRaised.pwm_eq (h : s.OnlyRaised t l) : t.pwm = s.pwm := (congrArg State.pwm h.rest :)
theorem State.OnlyRaised.tb_eq (h : s.OnlyRaised t l) : t.tb = s.tb := (congrArg State.tb h.rest :)

/-! A frame says the same of two states whose time bases are left out of the comparison. -/

theorem State.OnlyRegs.withTb (h : s.OnlyRegs t l) (b : TimeBase) : { s with tb := b }.OnlyRegs { t with tb := b } l :=
  ⟨(congrArg (fun x : State => { x with tb := b }) h.rest :), h.regs⟩

theorem State.OnlyRaised.withTb (h : s.OnlyRaised t l) (b : TimeBase) : { s with tb := b }.OnlyRaised { t with tb := b } l :=
  ⟨(congrArg (fun x : State => { x with tb := b }) h.rest :), h.regs⟩

/-- Clearing a bit that is clear changes nothing. -/
theorem and_not_or_bitW_of_clear {w : Word} {i : Nat} (h : wBit w i = false) (m : Word) : w &&& ~~~(m ||| bitW i) = w &&& ~~~m := by
  apply BitVec.eq_of_getLsbD_eq
  intro j hj
  by_cases e : i = j
  · subst e
    simp [show w.getLsbD i = false from h]
  · simp only [BitVec.getLsbD_and, BitVec.getLsbD_not, BitVec.getLsbD_or, getLsbD_bitW, e, decide_false, Bool.and_false, Bool.or_false]

theorem tbStat_not_raised : Reg.TB_STAT ∉ [Reg.TB_EVT] ++ deliveryRegs := by decide
theorem tbEvt_not_delivery : Reg.TB_EVT ∉ deliveryRegs := by decide

theorem State.tbEvt_raises (s : State) (i : Nat) : s.OnlyRaised (s.tbEvt i) [Reg.TB_EVT] := (State.OnlyRaised.refl s _).raise (by simp) 16 _
theorem State.rd_tbEvt_evt (s : State) (i : Nat) : (s.tbEvt i).rd Reg.TB_EVT = s.rd Reg.TB_EVT ||| bitW i := s.rd_raise_same 16 _ _ tbEvt_not_delivery
theorem State.rd_tbEvt_stat (s : State) (i : Nat) : (s.tbEvt i).rd Reg.TB_STAT = s.rd Reg.TB_STAT := (s.tbEvt_raises i).regs _ tbStat_not_raised

/-- When the time base stops, TVALID and SLOCK clear, and TB_EVT shows an SLOCK that was lost (R195). -/
theorem State.tbStop_spec (s : State) : s.OnlyRaised s.tbStop [Reg.TB_STAT, Reg.TB_EVT]
    ∧ s.tbStop.rd Reg.TB_STAT = s.rd Reg.TB_STAT &&& ~~~(bitW 29 ||| bitW 28)
    ∧ s.tbStop.rd Reg.TB_EVT = s.rd Reg.TB_EVT ||| mkBit 27 (s.bit Reg.TB_STAT 28) := by
  have valid : s.OnlyRaised (s.setBit Reg.TB_STAT 29 false) [Reg.TB_STAT, Reg.TB_EVT] := (State.OnlyRaised.refl s _).wr (by simp) _
  have stat : (s.setBit Reg.TB_STAT 29 false).rd Reg.TB_STAT = s.rd Reg.TB_STAT &&& ~~~ bitW 29 := State.rd_wr_same _ _ _
  have evt : (s.setBit Reg.TB_STAT 29 false).rd Reg.TB_EVT = s.rd Reg.TB_EVT := State.rd_wr_other _ _ (by decide)
  have slock : (s.setBit Reg.TB_STAT 29 false).bit Reg.TB_STAT 28 = s.bit Reg.TB_STAT 28 := s.bit_setBit _ _ _ _ (by decide)
  cases h : s.bit Reg.TB_STAT 28 with
  | true =>
    have stop : s.tbStop = ((s.setBit Reg.TB_STAT 29 false).setBit Reg.TB_STAT 28 false).tbEvt 27 := if_pos (slock.trans h)
    rw [stop]
    refine ⟨(valid.wr (by simp) _).trans ((State.tbEvt_raises _ 27).mono (by simp)), ?_, ?_⟩
    · rw [State.rd_tbEvt_stat, State.setBit_wr _ _ 28, State.rd_wr_same, stat]
      simp [wSetBit, BitVec.not_or, BitVec.and_assoc]
    · rw [State.rd_tbEvt_evt, State.setBit_wr _ _ 28, State.rd_wr_other _ _ (by decide), evt]
      rfl
  | false =>
    have stop : s.tbStop = s.setBit Reg.TB_STAT 29 false := if_neg (by simp [slock, h])
    rw [stop]
    refine ⟨valid, stat.trans (and_not_or_bitW_of_clear h _).symm, evt.trans ?_⟩
    simp [mkBit]

/-! ## The commands -/

/-- s with the reference lost, before the time base stops. -/
def State.refLost (s : State) : State := { s.clrBits Reg.TB_STAT (bitW 31 ||| bitW 30) with tb := { s.tb with lost := true } }

theorem pllLock_locks (hl : s.tb.locked = false) (hm : s.mode ≠ mOFF) :
    pllLock s = { s.orBits Reg.TB_STAT (bitW 31 ||| bitW 30) with tb := { s.tb with locked := true, tick := 0 } } :=
  if_neg (by simp [hl, hm])

theorem referenceLost_stops (hl : s.tb.lost = false) (hm : s.mode ≠ mOFF) : referenceLost s = s.refLost.tbStop.tbEvt 31 := if_neg (by simp [hl, hm])

theorem referenceReturn_returns (hl : s.tb.lost = true) :
    referenceReturn s = { s.orBits Reg.TB_STAT (mkBit 31 s.tb.locked ||| bitW 30) with tb := { s.tb with lost := false } } :=
  if_neg (by simp [hl])

theorem debugHalt_stops (hh : s.tb.halted = false) : debugHalt s = { s.tbStop with tb := { s.tb with halted := true } } := if_neg (by simp [hh])

/-- Settles O8: a stop of the time base clears TVALID and SLOCK and raises what SLOCK's loss raises; lock and return only set their bits. -/
theorem referenceAndHalt : Obligations.ReferenceAndHalt := by
  unfold Obligations.ReferenceAndHalt
  refine ⟨fun s hl hm => ?_, fun s hl hm => ?_, fun s hl => ?_, fun s hh => ?_, fun s => rfl⟩
  -- PLL_LOCK (R193)
  · exact ⟨_, congrArg Host.Outcome.next (pllLock_locks hl hm), ((State.OnlyRegs.refl s _).wr (by simp) _).withTb _, State.rd_wr_same s _ _⟩
  -- REFERENCE_LOST (R194)
  · obtain ⟨frame, stat, evt⟩ := s.refLost.tbStop_spec
    have lost : State.OnlyRaised { s with tb := { s.tb with lost := true } } s.refLost [Reg.TB_STAT, Reg.TB_EVT] :=
      State.OnlyRaised.withTb ((State.OnlyRaised.refl s _).wr (by simp) _) _
    have stat₀ : s.refLost.rd Reg.TB_STAT = s.rd Reg.TB_STAT &&& ~~~(bitW 31 ||| bitW 30) := State.rd_wr_same s _ _
    have evt₀ : s.refLost.rd Reg.TB_EVT = s.rd Reg.TB_EVT := s.rd_wr_other _ (by decide)
    have slock : s.refLost.bit Reg.TB_STAT 28 = s.bit Reg.TB_STAT 28 := by
      rw [State.bit, stat₀, wBit_and, wBit_not _ (by decide), wBit_or, wBit_bitW, wBit_bitW]
      exact Bool.and_true _
    have raised := (State.tbEvt_raises s.refLost.tbStop 31).mono (m := [Reg.TB_STAT, Reg.TB_EVT]) (by simp)
    refine ⟨_, congrArg Host.Outcome.next (referenceLost_stops hl hm), (lost.trans frame).trans raised, ?_, ?_, ?_⟩
    · rw [raised.tb_eq, frame.tb_eq, TimeBase.running, show s.refLost.tb.lost = true from rfl]
      simp
    · rw [State.rd_tbEvt_stat, stat, stat₀]
      simp [BitVec.not_or, BitVec.and_assoc]
    · rw [State.rd_tbEvt_evt, evt, evt₀, slock, BitVec.or_assoc, BitVec.or_comm (mkBit _ _)]
  -- REFERENCE_RETURN (R194)
  · exact ⟨_, congrArg Host.Outcome.next (referenceReturn_returns hl), ((State.OnlyRegs.refl s _).wr (by simp) _).withTb _, State.rd_wr_same s _ _⟩
  -- DEBUG_HALT (R141, R195)
  · obtain ⟨frame, stat, evt⟩ := s.tbStop_spec
    refine ⟨_, congrArg Host.Outcome.next (debugHalt_stops hh), frame.withTb _, ?_, stat, evt⟩
    simp [TimeBase.running]

end Sys2Proof.Machine
end

section
/-! PWM groups: their contexts and phases read back, their registers apart from others, and the writes of shadow duties and dead times (R126, R131,
R134, R142). -/

namespace Sys2Proof.Machine

variable {s t u : State} {l m : List Nat} {g k x a : Nat}

/-! ## Contexts and phases read back -/

@[simp] theorem State.grp_setGrp_same (s : State) (g : Nat) (c : PwmGrp) : (s.setGrp g c).grp g = c := Table.get_set_same _ _ _ _
theorem State.grp_setGrp_other (s : State) (c : PwmGrp) (h : k ≠ g) : (s.setGrp g c).grp k = s.grp k := Table.get_set_other _ _ _ h
@[simp] theorem State.rd_setGrp (s : State) (g : Nat) (c : PwmGrp) (a : Nat) : (s.setGrp g c).rd a = s.rd a := rfl
@[simp] theorem State.grp_wr (s : State) (a : Nat) (v : Word) (k : Nat) : (s.wr a v).grp k = s.grp k := rfl

theorem State.grp_congr (h : t.pwm = s.pwm) (k : Nat) : t.grp k = s.grp k := by rw [State.grp, h, State.grp]
theorem State.phase_congr (h : t.grp g = s.grp g) (x : Nat) : t.phase g x = s.phase g x := by rw [State.phase, h, State.phase]

theorem State.Shaped.ph_length (h : s.Shaped) (g : Nat) : (s.grp g).ph.length = 3 := State.Keep.grp_ph h g

theorem State.phase_setPhase_same (s : State) (p : Phase) (h : x < (s.grp g).ph.length) : (s.setPhase g x p).phase g x = p := by
  rw [State.phase, State.setPhase, State.grp_setGrp_same, getElem?_setAt, if_pos ⟨rfl, h⟩]
  rfl

theorem State.phase_setPhase_other (s : State) (p : Phase) (h : k ≠ x) : (s.setPhase g x p).phase g k = s.phase g k := by
  rw [State.phase, State.setPhase, State.grp_setGrp_same, getElem?_setAt, if_neg (fun e => h e.1), State.phase]

theorem State.grp_setPhase_other (s : State) (x : Nat) (p : Phase) (h : k ≠ g) : (s.setPhase g x p).grp k = s.grp k := s.grp_setGrp_other _ h

theorem State.phase_killed (h : (t.grp g).ph = (s.grp g).ph.map Phase.kill) (x : Nat) : t.phase g x = (s.phase g x).kill := by
  rw [State.phase, h, List.getElem?_map, State.phase]
  cases (s.grp g).ph[x]? <;> rfl

/-! ## Registers apart -/

/-- The addresses of the PWM unit's registers. -/
def pwmReg (a : Nat) : Prop := 0x40080000 ≤ a ∧ a < 0x40090000

/-- The addresses of group g's registers. -/
def grpReg (g a : Nat) : Prop := Reg.PWM_GRP_CFG g ≤ a ∧ a ≤ Reg.PWM_GRP_CNT g

theorem pwmReg_not_notice (h : pwmReg a) : a ∉ noticeRegs := by
  have k : ∀ b ∈ noticeRegs, b < 0x40080000 ∨ 0x40090000 ≤ b := by decide
  intro hm
  have := k _ hm
  unfold pwmReg at h
  omega

theorem pwmReg_not_delivery (h : pwmReg a) : a ∉ deliveryRegs := fun hd => pwmReg_not_notice h (delivery_notice hd)

theorem pwmReg_evt : pwmReg Reg.PWM_EVT := ⟨by decide, by decide⟩
theorem pwmReg_trall : pwmReg Reg.PWM_TRALL := ⟨by decide, by decide⟩

theorem grpReg.pwm (h : grpReg g a) (hg : g < 8) : pwmReg a := by
  simp only [grpReg, Reg.PWM_GRP_CFG, Reg.PWM_GRP_CNT] at h
  unfold pwmReg
  omega

theorem grpReg_of_offset {o : Nat} (h : a = Reg.PWM_GRP_CFG g + o) (ho : o ≤ 0x3C) : grpReg g a := by
  simp only [grpReg, Reg.PWM_GRP_CFG, Reg.PWM_GRP_CNT] at h ⊢
  omega

theorem grpReg_stat (g : Nat) : grpReg g (Reg.PWM_GRP_STAT g) := by simp only [grpReg, Reg.PWM_GRP_CFG, Reg.PWM_GRP_CNT, Reg.PWM_GRP_STAT]; omega

theorem grpReg.ne_evt (h : grpReg g a) : a ≠ Reg.PWM_EVT := by
  simp only [grpReg, Reg.PWM_GRP_CFG, Reg.PWM_GRP_CNT] at h
  simp only [Reg.PWM_EVT]
  omega

theorem grpReg.ne_trall (h : grpReg g a) : a ≠ Reg.PWM_TRALL := by
  simp only [grpReg, Reg.PWM_GRP_CFG, Reg.PWM_GRP_CNT] at h
  simp only [Reg.PWM_TRALL]
  omega

theorem stat_inj (g k : Nat) : Reg.PWM_GRP_STAT k = Reg.PWM_GRP_STAT g ↔ k = g := by simp only [Reg.PWM_GRP_STAT]; omega

theorem mem_stats (hg : g < 8) : Reg.PWM_GRP_STAT g ∈ (List.range 8).map Reg.PWM_GRP_STAT := List.mem_map_of_mem (List.mem_range.2 hg)

theorem State.OnlyRaised.rd_pwm (h : s.OnlyRaised t l) (hl : a ∉ l) (ha : pwmReg a) : t.rd a = s.rd a :=
  h.regs a fun hm => (List.mem_append.1 hm).elim hl (pwmReg_not_delivery ha)

theorem State.OnlyNoticed.rd_pwm (h : s.OnlyNoticed t l) (hl : a ∉ l) (ha : pwmReg a) : t.rd a = s.rd a :=
  h.regs a fun hm => (List.mem_append.1 hm).elim hl (pwmReg_not_notice ha)

/-! ## Events -/

theorem State.pwmEvt_raises (s : State) (i : Nat) : s.OnlyRaised (s.pwmEvt i) [Reg.PWM_EVT] := (State.OnlyRaised.refl s _).raise (by simp) 3 _

@[simp] theorem State.pwm_pwmEvt (s : State) (i : Nat) : (s.pwmEvt i).pwm = s.pwm := (s.pwmEvt_raises i).pwm_eq

theorem State.bit_pwmEvt_same (s : State) {i : Nat} (hi : i < 32) : (s.pwmEvt i).bit Reg.PWM_EVT i = true := by
  rw [State.bit, State.pwmEvt, State.rd_raise_same _ _ _ _ (pwmReg_not_delivery pwmReg_evt), wBit_or, wBit_bitW]
  simp [hi]

theorem State.rd_pwmEvt_grp (s : State) (i : Nat) (ha : grpReg g a) (hg : g < 8) : (s.pwmEvt i).rd a = s.rd a :=
  (s.pwmEvt_raises i).rd_pwm (by simpa using ha.ne_evt) (ha.pwm hg)

/-! ## Shadow duties, dead times and the delay line (R131, R134, R142) -/

theorem exec_shadowWrite {m : Fin 32} {g : Fin 8} {b : Bool} (h : s.may m (if b then Reg.PWM_GRP_SHDW2 g else Reg.PWM_GRP_SHDW01 g) true) (v : Word) :
    exec (.shadowWrite m g b v) s = .next (s.shadowWrite g b v) :=
  congrArg Host.Outcome.next (State.regAccess_of_may h fun s => s.shadowWrite g b v)

theorem exec_deadTimeWrite {m : Fin 32} {g : Fin 8} (h : s.may m (Reg.PWM_GRP_DT g) true) (v : Word) :
    exec (.deadTimeWrite m g v) s = .next (s.dtWrite g v) :=
  congrArg Host.Outcome.next (State.regAccess_of_may h fun s => s.dtWrite g v)

theorem State.shadowWrite_firmware (h : s.bit (Reg.PWM_GRP_CFG g) 14 = true) (b : Bool) (v : Word) :
    s.shadowWrite g b v
      = (if b then s.wr (Reg.PWM_GRP_SHDW2 g) (v &&& 0xFFFF) else s.wr (Reg.PWM_GRP_SHDW01 g) v).setBit (Reg.PWM_GRP_STAT g) 30 true :=
  if_neg (by simp [h])

theorem State.shadowWrite_law (h : s.bit (Reg.PWM_GRP_CFG g) 14 = false) (b : Bool) (v : Word) : s.shadowWrite g b v = s := if_pos (by simp [h])

/-- A shadow register that is stored, and its set marked valid. -/
theorem State.shadow_stored (s : State) (v : Word) (ha : a ≠ Reg.PWM_GRP_STAT g) :
    ((s.wr a v).setBit (Reg.PWM_GRP_STAT g) 30 true).rd a = v ∧ ((s.wr a v).setBit (Reg.PWM_GRP_STAT g) 30 true).bit (Reg.PWM_GRP_STAT g) 30 = true
      ∧ s.OnlyRegs ((s.wr a v).setBit (Reg.PWM_GRP_STAT g) 30 true) [a, Reg.PWM_GRP_STAT g] :=
  ⟨(State.rd_wr_other _ _ ha).trans (State.rd_wr_same s a v), State.bit_setBit_same _ _ (by decide) true,
    ((State.OnlyRegs.refl s _).wr (by simp) v).wr (by simp) _⟩

/-- Settles O30: each write stores its register, or is refused or ignored as a whole. -/
theorem pwmShadowAndDeadTime : Obligations.PwmShadowAndDeadTime := by
  unfold Obligations.PwmShadowAndDeadTime
  refine ⟨fun s m g v hf => ⟨fun h => ?_, fun h => ?_⟩, fun s m g b v hl h => ?_, fun s m g v h => ⟨fun h0 hle => ?_, fun hbad => ?_⟩,
    fun s g => ⟨?_, ?_⟩⟩
  -- shadow duties (R131)
  · have hexec := (exec_shadowWrite (b := false) h v).trans (congrArg Host.Outcome.next (State.shadowWrite_firmware hf _ _))
    exact ⟨_, hexec, s.shadow_stored v (by simp only [Reg.PWM_GRP_SHDW01, Reg.PWM_GRP_STAT]; omega)⟩
  · have hexec := (exec_shadowWrite (b := true) h v).trans (congrArg Host.Outcome.next (State.shadowWrite_firmware hf _ _))
    exact ⟨_, hexec, s.shadow_stored _ (by simp only [Reg.PWM_GRP_SHDW2, Reg.PWM_GRP_STAT]; omega)⟩
  · exact (exec_shadowWrite h v).trans (congrArg Host.Outcome.next (State.shadowWrite_law hl b v))
  -- PWM_GRP_DT (R142)
  · have hexec := (exec_deadTimeWrite h v).trans (congrArg Host.Outcome.next (if_neg (not_or.2 ⟨h0, not_lt.2 hle⟩)))
    exact ⟨_, hexec, State.rd_wr_same s _ _, (State.OnlyRegs.refl s _).wr (by simp) _⟩
  · have hexec := (exec_deadTimeWrite h v).trans (congrArg Host.Outcome.next (if_pos hbad))
    exact ⟨_, hexec, State.bit_setBit_same s _ (by decide) true, (State.OnlyRegs.refl s _).wr (by simp) _⟩
  -- the delay line (R134)
  · have flag : (s.setBit (Reg.PWM_GRP_STAT g) 26 true).bit (Reg.PWM_GRP_STAT g) 26 = true := State.bit_setBit_same s _ (by decide) true
    have stands := (s.setBit (Reg.PWM_GRP_STAT g) 26 true).rd_pwmEvt_grp 30 (grpReg_stat g) g.isLt
    exact ⟨_, rfl, (congrArg (wBit · 26) stands).trans flag, State.bit_pwmEvt_same _ (by decide),
      ((State.OnlyRaised.refl s _).wr (by simp) _).raise (by simp) 3 _⟩
  · exact ⟨_, rfl, State.bit_setBit_same s _ (by decide) false, (State.OnlyRegs.refl s _).wr (by simp) _⟩

end Sys2Proof.Machine
end

section
/-! PWM groups: commanded edges, dead times and the sense input (R133 to R136, R138). -/

namespace Sys2Proof.Machine

variable {s t : State} {x k : Nat}

/-! ## One phase changes -/

/-- A new phase x of group g leaves the other phases, the other groups, and everything else. -/
theorem State.setPhase_frame (s : State) (g x : Nat) (p : Phase) :
    (∀ k, k < 3 → k ≠ x → (s.setPhase g x p).phase g k = s.phase g k) ∧ (∀ k, k ≠ g → (s.setPhase g x p).grp k = s.grp k)
      ∧ { s.setPhase g x p with pwm := s.pwm } = s :=
  ⟨fun _ _ h => s.phase_setPhase_other p h, fun _ h => s.grp_setPhase_other x p h, rfl⟩

theorem State.Shaped.phase_setPhase (h : s.Shaped) (g : Nat) (hx : x < 3) (p : Phase) : (s.setPhase g x p).phase g x = p :=
  s.phase_setPhase_same p (by rw [h.ph_length g]; exact hx)

theorem State.ph_length_setPhase (s : State) (g x : Nat) (p : Phase) : ((s.setPhase g x p).grp g).ph.length = (s.grp g).ph.length := by
  rw [State.setPhase, State.grp_setGrp_same, length_setAt]

@[simp] theorem State.dtMaxF_setPhase (s : State) (g x : Nat) (p : Phase) : (s.setPhase g x p).dtMaxF g = s.dtMaxF g := by
  rw [State.dtMaxF, State.setPhase, State.grp_setGrp_same, State.dtMaxF]

/-! ## Edges (R133, R135, R138) -/

/-- The instant that the active duty gives an edge of phase x (R133). -/
def State.idealEdge (s : State) (g x : Nat) (up : Bool) : Nat :=
  if up then (s.grp g).valley + s.halfF g - cmpOf (s.actDuty g x) (s.halfF g) else (s.grp g).valley + s.halfF g + cmpOf (s.actDuty g x) (s.halfF g)

theorem commandedEdge_switches {g : Fin 8} {x : Fin 3} {up : Bool} (hr : s.pwmRun g = true) (ht : s.tb.running = true) (hn : (s.phase g x).next = 0)
    (hup : (s.phase g x).rise = up) (hf : up = false → (s.phase g x).fall = true) :
    commandedEdge g x s
      = s.setPhase g x ((s.phase g x).switch up ((s.phase g x).edgeAt (s.idealEdge g x up) (s.mpwF g)) (s.edgeCfg g x)) := by
  unfold commandedEdge
  extract_lets p h cmp v go
  have idle : (!s.pwmRun g || !s.tb.running || decide (p.next ≠ 0)) = false := by simp [hr, ht, show p.next = 0 from hn]
  rw [if_neg (by simpa using idle)]
  cases up with
  | true => exact if_pos hup
  | false => exact (if_neg (by simp [show p.rise = false from hup])).trans (if_pos (hf rfl))

theorem deadTimeEnd_turnsOn {g : Fin 8} {x : Fin 3} (hn : (s.phase g x).next ≠ 0) (ht : s.tb.running = true) :
    deadTimeEnd g x s = s.setPhase g x { s.phase g x with sw := (s.phase g x).next, since := (s.phase g x).due, next := 0 } :=
  if_neg (by simp [hn, ht])

/-- An edge comes no sooner than the minimum pulse of the switch that is on (R138). -/
theorem Phase.edgeAt_eq (p : Phase) (n mpw : Nat) : p.edgeAt n mpw = if p.sw = 0 then n else max n (p.since + mpw) := by
  unfold Phase.edgeAt
  split <;> simp_all

/-! ## Dead times (R135, R136) -/

/-- The dead time in force before the edge of one direction: DT_R before a rising edge, DT_F before a falling one. -/
def State.dead (s : State) (g x : Nat) (up : Bool) : Nat := if up then (s.deadTimes g x).r else (s.deadTimes g x).f

theorem State.dead_lt (s : State) (g x : Nat) (up : Bool) : s.dead g x up < 65536 := by
  cases up
  · exact wFld_lt _ 31 16
  · exact wFld_lt _ 15 0

theorem State.deadTimes_congr {g : Nat} (h : t.rd (dtReg g x) = s.rd (dtReg g x)) : t.deadTimes g x = s.deadTimes g x := by
  rw [State.deadTimes, State.fld, State.fld, h, State.deadTimes, State.fld, State.fld]

theorem State.dead_setDead_same (s : State) (g x : Nat) (up : Bool) {v : Nat} (h : v < 65536) : (s.setDead g x up v).dead g x up = v := by
  cases up
  · exact (State.fld_setFld_same s _ (by decide) (by decide) v).trans (Nat.mod_eq_of_lt h)
  · exact (State.fld_setFld_same s _ (by decide) (by decide) v).trans (Nat.mod_eq_of_lt h)

/-- The dead time of the other direction stands. -/
theorem State.deadTimes_setDead_other (s : State) (g x : Nat) (up : Bool) (v : Nat) :
    if up then ((s.setDead g x up v).deadTimes g x).f = (s.deadTimes g x).f else ((s.setDead g x up v).deadTimes g x).r = (s.deadTimes g x).r := by
  cases up
  · exact s.fld_setFld_other _ (by decide) (by decide) v
  · exact s.fld_setFld_other _ (by decide) (by decide) v

theorem State.OnlyRegs.setDead {l : List Nat} (h : s.OnlyRegs t l) {g : Nat} (hl : dtReg g x ∈ l) (up : Bool) (v : Nat) : s.OnlyRegs (t.setDead g x up v) l := by
  unfold State.setDead
  exact State.ite_keeps (P := fun u => s.OnlyRegs u l) (h.wr hl _) (h.wr hl _)

theorem grpReg_dtReg (g x : Nat) : grpReg g (dtReg g x) := by
  have k : dtReg g x = Reg.PWM_GRP_DTU g ∨ dtReg g x = Reg.PWM_GRP_DTV g ∨ dtReg g x = Reg.PWM_GRP_DTW g := by
    unfold dtReg
    split_ifs <;> simp
  simp only [Reg.PWM_GRP_DTU, Reg.PWM_GRP_DTV, Reg.PWM_GRP_DTW] at k
  simp only [grpReg, Reg.PWM_GRP_CFG, Reg.PWM_GRP_CNT]
  omega

theorem dtReg_above (g x : Nat) : Reg.PWM_GRP_STAT g < dtReg g x := by
  unfold dtReg
  simp only [Reg.PWM_GRP_DTU, Reg.PWM_GRP_DTV, Reg.PWM_GRP_DTW, Reg.PWM_GRP_STAT]
  split_ifs <;> omega

/-- The dead time toward which a measured time moves (R136). -/
def deadTarget (meas : Nat) (adj dt : Word) : Nat := max (wFld dt 7 0 * 32) (min (wFld dt 23 16 * 32) (meas + wFld adj 7 0))

theorem deadTarget_lt (meas : Nat) (adj dt : Word) : deadTarget meas adj dt < 65536 := by
  have lo : wFld dt 7 0 < 256 := wFld_lt dt 7 0
  have hi : wFld dt 23 16 < 256 := wFld_lt dt 23 16
  unfold deadTarget
  omega

theorem adapt_up {cur meas : Nat} {adj dt : Word} (h : cur ≤ deadTarget meas adj dt) :
    adapt cur meas adj dt = min (deadTarget meas adj dt) (cur + wFld adj 23 16) := by
  refine (if_pos h).trans ?_
  change cur + min (wFld adj 23 16) (deadTarget meas adj dt - cur) = _
  omega

theorem adapt_down {cur meas : Nat} {adj dt : Word} (h : deadTarget meas adj dt < cur) :
    adapt cur meas adj dt = max (deadTarget meas adj dt) (cur - wFld adj 23 16) := by
  refine (if_neg (not_le.2 h)).trans ?_
  change cur - min (wFld adj 23 16) (cur - deadTarget meas adj dt) = _
  omega

theorem adapt_lt {cur : Nat} (h : cur < 65536) (meas : Nat) (adj dt : Word) : adapt cur meas adj dt < 65536 := by
  have ht := deadTarget_lt meas adj dt
  rcases Nat.lt_or_ge (deadTarget meas adj dt) cur with hd | hu
  · rw [adapt_down hd]
    omega
  · rw [adapt_up hu]
    omega

/-! ## The sense input (R136) -/

section

variable {g : Fin 8} {level : Bool} {fine off on close : Nat} {up seen : Bool} {x : Fin 3}

/-- s with the new level of the sense input of phase x. -/
def State.sensed (s : State) (g x : Nat) (level : Bool) : State := s.setPhase g x { s.phase g x with sense := level }

/-- s with the transition that the window of phase x waited for. -/
def State.windowSeen (s : State) (g x : Nat) (level up : Bool) (off on close : Nat) : State :=
  (s.sensed g x level).setPhase g x { s.phase g x with sense := level, win := some (up, off, on, close, true) }

theorem senseTransition_steady (fine : Nat) (h : (s.phase g x).sense = level) : senseTransition g x level fine s = s := if_pos (by simp [h])

theorem senseTransition_noWindow (fine : Nat) (h : (s.phase g x).sense ≠ level) (hw : (s.phase g x).win = none) :
    senseTransition g x level fine s = s.sensed g x level := by
  unfold senseTransition
  extract_lets p n s₁
  rw [if_neg (by simpa using h), show p.win = none from hw]
  rfl

theorem senseTransition_outside (h : (s.phase g x).sense ≠ level) (hw : (s.phase g x).win = some (up, off, on, close, seen))
    (hout : seen = true ∨ level ≠ up ∨ s.tick0 * 32 + fine < off ∨ close ≤ s.tick0 * 32 + fine) :
    senseTransition g x level fine s = s.sensed g x level := by
  unfold senseTransition
  extract_lets p n s₁
  rw [if_neg (by simpa using h), show p.win = some (up, off, on, close, seen) from hw]
  refine if_pos ?_
  simpa [n, or_assoc] using hout

theorem senseTransition_inside (h : (s.phase g x).sense ≠ level) (hw : (s.phase g x).win = some (up, off, on, close, seen))
    (hin : ¬ (seen = true ∨ level ≠ up ∨ s.tick0 * 32 + fine < off ∨ close ≤ s.tick0 * 32 + fine)) :
    senseTransition g x level fine s = if s.tick0 * 32 + fine < on
      then (s.windowSeen g x level up off on close).setDead g x up
        (adapt (s.dead g x up) (s.tick0 * 32 + fine - off) (s.grp g).adj (s.grp g).dt)
      else s.windowSeen g x level up off on close := by
  unfold senseTransition
  extract_lets p n s₁
  rw [if_neg (by simpa using h), show p.win = some (up, off, on, close, seen) from hw]
  refine if_neg ?_
  simpa [n, or_assoc] using hin

theorem senseWindowClose_none (hw : (s.phase g x).win = none) : senseWindowClose g x s = s := by
  unfold senseWindowClose
  extract_lets p
  rw [show p.win = none from hw]

theorem senseWindowClose_seen (hw : (s.phase g x).win = some (up, off, on, close, true)) :
    senseWindowClose g x s = s.setPhase g x { s.phase g x with win := none } := by
  unfold senseWindowClose
  extract_lets p
  rw [show p.win = some (up, off, on, close, true) from hw]
  rfl

theorem senseWindowClose_missed (hw : (s.phase g x).win = some (up, off, on, close, false)) :
    senseWindowClose g x s = (((s.setPhase g x { s.phase g x with win := none }).setDead g x up (s.dtMaxF g)).setBit
      (Reg.PWM_GRP_STAT g) (12 - x) true).pwmEvt (8 + g) := by
  unfold senseWindowClose
  extract_lets p
  rw [show p.win = some (up, off, on, close, false) from hw]
  exact congrArg (fun d => (((s.setPhase g x { s.phase g x with win := none }).setDead g x up d).setBit
    (Reg.PWM_GRP_STAT g) (12 - x) true).pwmEvt (8 + g)) (s.dtMaxF_setPhase g x _)

end

theorem State.dtMaxF_lt (s : State) (g : Nat) : s.dtMaxF g < 65536 := by
  have : wFld (s.grp g).dt 23 16 < 256 := wFld_lt _ 23 16
  unfold State.dtMaxF
  omega

theorem State.phase_setDead (s : State) (g x : Nat) (up : Bool) (v k j : Nat) : (s.setDead g x up v).phase k j = s.phase k j := by
  cases up <;> rfl

/-- A dead time that adapts moves toward its target by at most the slew; that of the other direction stands (R136). -/
theorem State.adapt_setDead (s : State) (g x : Nat) (up : Bool) (meas : Nat) (adj dt : Word) :
    (s.dead g x up ≤ deadTarget meas adj dt → (s.setDead g x up (adapt (s.dead g x up) meas adj dt)).dead g x up
        = min (deadTarget meas adj dt) (s.dead g x up + wFld adj 23 16))
      ∧ (deadTarget meas adj dt < s.dead g x up → (s.setDead g x up (adapt (s.dead g x up) meas adj dt)).dead g x up
        = max (deadTarget meas adj dt) (s.dead g x up - wFld adj 23 16))
      ∧ if up then ((s.setDead g x up (adapt (s.dead g x up) meas adj dt)).deadTimes g x).f = (s.deadTimes g x).f
        else ((s.setDead g x up (adapt (s.dead g x up) meas adj dt)).deadTimes g x).r = (s.deadTimes g x).r := by
  have new := s.dead_setDead_same g x up (adapt_lt (s.dead_lt g x up) meas adj dt)
  exact ⟨fun h => new.trans (adapt_up h), fun h => new.trans (adapt_down h), s.deadTimes_setDead_other g x up _⟩

theorem State.Shaped.phase_sensed (h : s.Shaped) (g : Nat) (hx : x < 3) (level : Bool) :
    (s.sensed g x level).phase g x = { s.phase g x with sense := level } := h.phase_setPhase g hx _

theorem State.Shaped.phase_windowSeen (h : s.Shaped) (g : Nat) (hx : x < 3) (level up : Bool) (off on close : Nat) :
    (s.windowSeen g x level up off on close).phase g x = { s.phase g x with sense := level, win := some (up, off, on, close, true) } :=
  State.phase_setPhase_same _ _ (by rw [State.sensed, State.ph_length_setPhase, h.ph_length]; exact hx)

theorem State.pwm_setDead (s : State) (g x : Nat) (up : Bool) (v : Nat) : (s.setDead g x up v).pwm = s.pwm := by
  cases up <;> rfl

/-- A window that closes with no transition in it (R136). -/
theorem State.missed_spec (s : State) (g : Fin 8) (x : Fin 3) (up : Bool) {t : State}
    (ht : t = ((s.setDead g x up (s.dtMaxF g)).setBit (Reg.PWM_GRP_STAT g) (12 - x) true).pwmEvt (8 + g)) :
    t.pwm = s.pwm ∧ t.bit (Reg.PWM_GRP_STAT g) (12 - x) = true ∧ t.bit Reg.PWM_EVT (8 + g) = true ∧ t.dead g x up = s.dtMaxF g
      ∧ s.OnlyRaised t [dtReg g x, Reg.PWM_GRP_STAT g, Reg.PWM_EVT] := by
  subst ht
  refine ⟨(State.pwm_pwmEvt _ _).trans (s.pwm_setDead g x up _), ?_, State.bit_pwmEvt_same _ (by omega), ?_, ?_⟩
  · exact (congrArg (wBit · _) (State.rd_pwmEvt_grp _ _ (grpReg_stat g) g.isLt)).trans (State.bit_setBit_same _ _ (by omega) true)
  · have stands : (((s.setDead g x up (s.dtMaxF g)).setBit (Reg.PWM_GRP_STAT g) (12 - x) true).pwmEvt (8 + g)).rd (dtReg g x)
        = (s.setDead g x up (s.dtMaxF g)).rd (dtReg g x) :=
      (State.rd_pwmEvt_grp _ _ (grpReg_dtReg g x) g.isLt).trans (State.rd_wr_other _ _ (dtReg_above g x).ne')
    rw [State.dead, State.deadTimes_congr stands]
    exact s.dead_setDead_same g x up (s.dtMaxF_lt g)
  · exact State.OnlyRaised.raise (State.OnlyRaised.wr (State.OnlyRaised.of ((State.OnlyRegs.refl s _).setDead (by simp) up _)) (by simp) _) (by simp) 3 _

/-- Settles O32: each command changes one phase, and the sense input also the dead time of one direction. -/
theorem pwmEdges : Obligations.PwmEdges := by
  unfold Obligations.PwmEdges
  refine ⟨fun s g x up ideal o off due hs hr ht hn hup hf hideal ho hoff hdue => ?_, fun s g x hs hn ht => ?_, fun s g x level fine hs hne => ?_,
    fun s g x level fine h => congrArg Host.Outcome.next (senseTransition_steady fine h), fun s g x up seen off on close hs hw => ?_,
    fun s g x h => congrArg Host.Outcome.next (senseWindowClose_none h)⟩
  -- COMMANDED_EDGE
  · have at_o : (s.phase g x).edgeAt (s.idealEdge g x up) (s.mpwF g) = o := by
      rw [Phase.edgeAt_eq, ho, hideal]
      rfl
    have hexec := (commandedEdge_switches hr ht hn hup hf).trans (congrArg (fun o => s.setPhase g x ((s.phase g x).switch up o (s.edgeCfg g x))) at_o)
    have new := hs.phase_setPhase g x.isLt ((s.phase g x).switch up o (s.edgeCfg g x))
    refine ⟨_, congrArg Host.Outcome.next hexec, congrArg Phase.cmd new, congrArg Phase.sw new, congrArg Phase.next new, ?_, fun h => ?_, fun h => ?_,
      fun h => ?_, fun h => ?_, s.setPhase_frame g x _⟩
    · exact (congrArg Phase.due new).trans hdue.symm
    · subst h
      exact congrArg Phase.rise new
    · subst h
      exact congrArg Phase.fall new
    · subst hoff hdue
      exact (congrArg Phase.win new).trans (if_pos h)
    · exact (congrArg Phase.win new).trans (if_neg (Bool.eq_false_iff.1 h))
  -- DEAD_TIME_END
  · exact ⟨_, congrArg Host.Outcome.next (deadTimeEnd_turnsOn hn ht), hs.phase_setPhase g x.isLt _, s.setPhase_frame g x _⟩
  -- SENSE_TRANSITION
  · have sensed := hs.phase_sensed g x.isLt level
    cases hw : (s.phase g x).win with
    | none =>
      refine ⟨_, congrArg Host.Outcome.next (senseTransition_noWindow fine hne hw), congrArg Phase.sense sensed, fun _ => rfl, fun _ _ _ _ _ h => ?_,
        .refl _ _⟩
      exact nomatch h
    | some w =>
      obtain ⟨up, off, on, close, seen⟩ := w
      by_cases hout : seen = true ∨ level ≠ up ∨ s.tick0 * 32 + fine < off ∨ close ≤ s.tick0 * 32 + fine
      · refine ⟨_, congrArg Host.Outcome.next (senseTransition_outside hne hw hout), congrArg Phase.sense sensed, fun _ => rfl,
          fun up' off' on' close' seen' h => ?_, .refl _ _⟩
        cases h
        refine ⟨fun _ => ⟨rfl, (congrArg Phase.win sensed).trans hw⟩, fun h1 h2 h3 h4 => absurd hout ?_⟩
        simp only [h1, h2, ne_eq, not_true_eq_false, Bool.false_eq_true, false_or]
        omega
      · have seen₁ := hs.phase_windowSeen g x.isLt level up off on close
        have hexec := senseTransition_inside hne hw hout
        by_cases hlt : s.tick0 * 32 + fine < on
        · rw [if_pos hlt] at hexec
          refine ⟨_, congrArg Host.Outcome.next hexec, ?_, nofun, fun up' off' on' close' seen' h => ?_, ?_⟩
          · rw [State.phase_setDead, seen₁]
          · cases h
            refine ⟨fun h => absurd h hout, fun _ _ _ _ => ⟨?_, fun h => absurd hlt (not_lt.2 h), fun _ cur tgt hcur htgt => ?_⟩⟩
            · rw [State.phase_setDead, seen₁]
            · subst hcur htgt
              exact (s.windowSeen g x level up off on close).adapt_setDead g x up _ _ _
          · rw [State.pwm_setDead]
            exact State.OnlyRegs.setDead (State.OnlyRegs.refl _ _) (by simp) up _
        · rw [if_neg hlt] at hexec
          refine ⟨_, congrArg Host.Outcome.next hexec, congrArg Phase.sense seen₁, nofun, fun up' off' on' close' seen' h => ?_, .refl _ _⟩
          cases h
          exact ⟨fun h => absurd h hout, fun _ _ _ _ => ⟨congrArg Phase.win seen₁, fun _ => rfl, fun h => absurd h hlt⟩⟩
  -- SENSE_WINDOW_CLOSE
  · have closed := hs.phase_setPhase g x.isLt { s.phase g x with win := none }
    cases seen with
    | true =>
      exact ⟨_, congrArg Host.Outcome.next (senseWindowClose_seen hw), congrArg Phase.win closed, nofun, fun _ => rfl, .refl _ _⟩
    | false =>
      obtain ⟨pwm, flag, evt, dead, frame⟩ := (s.setPhase g x { s.phase g x with win := none }).missed_spec g x up rfl
      rw [State.dtMaxF_setPhase] at pwm flag evt dead frame
      refine ⟨_, congrArg Host.Outcome.next (senseWindowClose_missed hw), ?_, fun _ => ⟨flag, evt, dead⟩, nofun, ?_⟩
      · exact (congrArg Phase.win (State.phase_congr (State.grp_congr pwm g) x)).trans (congrArg Phase.win closed)
      · rw [pwm]
        exact frame

end Sys2Proof.Machine
end

section
/-! PWM groups: start, stop and LOAD_ALL, and the holds of a stopped group's axes (R130, R132, R140). -/

namespace Sys2Proof.Machine

variable {s t u : State} {l m : List Nat} {g k a i : Nat}

/-! ## Loops whose steps act on one thing each -/

/-- A loop whose steps leave the view of x to the step at x has taken that view where this step alone takes it. -/
theorem State.each_local {α β : Type} {P : State → Prop} {view : State → β} {f : α → State → State} {x : α} : ∀ {l : List α} {t : State}, l.Nodup → x ∈ l →
    P t → (∀ y ∈ l, ∀ u, P u → P (f y u)) → (∀ y ∈ l, y ≠ x → ∀ u, P u → view (f y u) = view u) →
    (∀ u, P u → view u = view t → view (f x u) = view (f x t)) → view (t.each l f) = view (f x t)
  | [], _, _, hx, _, _, _, _ => absurd hx (by simp)
  | y :: l, t, hn, hx, hP, keep, apart, same => by
    obtain ⟨hy, hn⟩ := List.nodup_cons.1 hn
    have keep' : ∀ z ∈ l, ∀ u, P u → P (f z u) := fun z hz => keep z (by simp [hz])
    have apart' : ∀ z ∈ l, z ≠ x → ∀ u, P u → view (f z u) = view u := fun z hz => apart z (by simp [hz])
    rw [State.each_cons]
    by_cases e : y = x
    · subst e
      have last : P ((f y t).each l f) ∧ view ((f y t).each l f) = view (f y t) :=
        State.each_keeps (P := fun u => P u ∧ view u = view (f y t)) ⟨keep y (by simp) t hP, rfl⟩ fun z hz u hu =>
          ⟨keep' z hz u hu.1, (apart' z hz (fun e => hy (e ▸ hz)) u hu.1).trans hu.2⟩
      exact last.2
    · have hx : x ∈ l := (List.mem_cons.1 hx).resolve_left (Ne.symm e)
      have before : view (f y t) = view t := apart y (by simp) e t hP
      have reached : view (f x (f y t)) = view (f x t) := same _ (keep y (by simp) t hP) before
      rw [← reached]
      exact State.each_local hn hx (keep y (by simp) t hP) keep' apart' fun u hu hv => (same u hu (hv.trans before)).trans reached.symm

/-- The same for a command that names groups by the bits of a word. -/
theorem State.eachGrp_local {β : Type} {P : State → Prop} {view : State → β} {f : Fin 8 → State → State} {g : Fin 8} (v : Word) (h : P s)
    (keep : ∀ y u, P u → P (f y u)) (apart : ∀ y, y ≠ g → ∀ u, P u → view (f y u) = view u)
    (same : ∀ u, P u → view u = view s → view (f g u) = view (f g s)) : view (s.eachGrp v f) = if wBit v g then view (f g s) else view s := by
  refine (State.each_local (P := P) (List.nodup_finRange 8) (List.mem_finRange g) h (fun y _ u hu => ?_) (fun y _ hy u hu => ?_) fun u hu hv => ?_).trans
    (apply_ite view _ _ _)
  · exact State.ite_keeps (keep y u hu) hu
  · exact (apply_ite view _ _ _).trans (by rw [apart y hy u hu, ite_self])
  · rw [apply_ite view, apply_ite view, same u hu hv, hv]

/-! ## Changes of the groups and of registers -/

/-- t is s but for the contexts of PWM groups and the registers of l. -/
def State.OnlyPwm (s t : State) (l : List Nat) : Prop := State.OnlyRegs { s with pwm := t.pwm } t l

theorem State.OnlyPwm.refl (s : State) (l : List Nat) : s.OnlyPwm s l := State.OnlyRegs.refl s l
theorem State.OnlyPwm.of (h : s.OnlyRegs t l) : s.OnlyPwm t l := ⟨h.rest.trans (congrArg (fun p => { s with pwm := p }) h.pwm_eq.symm), h.regs⟩
theorem State.OnlyPwm.wr (h : s.OnlyPwm t l) (ha : a ∈ l) (v : Word) : s.OnlyPwm (t.wr a v) l := State.OnlyRegs.wr h ha v
theorem State.OnlyPwm.setGrp (h : s.OnlyPwm t l) (g : Nat) (c : PwmGrp) : s.OnlyPwm (t.setGrp g c) l :=
  ⟨(congrArg (fun x : State => { x with pwm := (t.setGrp g c).pwm }) h.rest :), h.regs⟩
theorem State.OnlyPwm.mono (h : s.OnlyPwm t l) (hm : ∀ a ∈ l, a ∈ m) : s.OnlyPwm t m := State.OnlyRegs.mono h hm

theorem State.OnlyPwm.trans (h : s.OnlyPwm t l) (k : t.OnlyPwm u l) : s.OnlyPwm u l :=
  ⟨(congrArg (fun x : State => { x with regs := s.regs }) k.rest :).trans (congrArg (fun x : State => { x with pwm := u.pwm }) h.rest :),
    h.regs.trans k.regs⟩

theorem State.OnlyPwm.rest_eq (h : s.OnlyPwm t l) : { t with pwm := s.pwm, regs := s.regs } = s :=
  (congrArg (fun x : State => { x with pwm := s.pwm }) h.rest :)

theorem State.OnlyPwm.tb_eq (h : s.OnlyPwm t l) : t.tb = s.tb := (congrArg State.tb h.rest_eq :)

theorem State.OnlyPwm.sameMemory (h : s.OnlyPwm t l) : s.SameMemory t :=
  ⟨(congrArg State.hall h.rest_eq :), (congrArg State.pv h.rest_eq :), (congrArg (·.cap.dram) h.rest_eq :)⟩

/-! ## Start (R130, R140) -/

theorem State.pwmStart1_busy (h : s.pwmRun g = true ∨ (s.grp g).startPend = true) : s.pwmStart1 g = s := if_pos (by simpa using h)

theorem State.pwmStart1_refused (hr : s.pwmRun g = false) (hp : (s.grp g).startPend = false) (ho : s.grpOk g s.tb.len = false) :
    s.pwmStart1 g = s.setBit (Reg.PWM_GRP_STAT g) 9 true :=
  (if_neg (by simp [hr, hp])).trans (if_pos (by simp [ho]))

theorem State.pwmStart1_waits (hr : s.pwmRun g = false) (hp : (s.grp g).startPend = false) (ho : s.grpOk g s.tb.len = true)
    (ht : (s.bit (Reg.PWM_GRP_CFG g) 20 && s.tripped g) = false) :
    s.pwmStart1 g = s.setGrp g { s.grp g with startPend := true, stopPend := false, trStop := false, startAt := s.tb.tick } :=
  (if_neg (by simp [hr, hp])).trans ((if_neg (by simp [ho])).trans (if_neg (Bool.eq_false_iff.1 ht)))

/-- A start leaves the context of a group that does not come to wait. -/
theorem State.grp_pwmStart1 (h : s.pwmRun g = true ∨ (s.grp g).startPend = true ∨ (s.bit (Reg.PWM_GRP_CFG g) 20 && s.tripped g) = true) :
    (s.pwmStart1 g).grp g = s.grp g := by
  unfold State.pwmStart1
  split
  · rfl
  · next hb =>
    split
    · rfl
    · obtain ⟨hr, hp⟩ : s.pwmRun g = false ∧ (s.grp g).startPend = false := by simpa using hb
      exact congrArg (State.grp · g) (if_pos ((h.resolve_left (by simp [hr])).resolve_left (by simp [hp])))

/-- The status registers of the groups. -/
abbrev statRegs : List Nat := (List.range 8).map Reg.PWM_GRP_STAT

theorem not_statRegs (h : a % 64 ≠ 44) : a ∉ statRegs := by
  intro hm
  obtain ⟨g, -, rfl⟩ := List.mem_map.1 hm
  simp only [Reg.PWM_GRP_STAT] at h
  omega

theorem State.OnlyPwm.pwmStart1 (h : s.OnlyPwm t statRegs) (hg : g < 8) : s.OnlyPwm (t.pwmStart1 g) statRegs := by
  unfold State.pwmStart1
  repeat' split
  · exact h
  · exact h.wr (mem_stats hg) _
  · exact h
  · exact h.setGrp g _

/-- The rules of a group's registers do not speak of any status register. -/
theorem State.OnlyPwm.grpOk_eq (h : s.OnlyPwm t statRegs) (g len : Nat) : t.grpOk g len = s.grpOk g len := by
  have per : t.rd (Reg.PWM_GRP_PER g) = s.rd (Reg.PWM_GRP_PER g) := h.regs _ (not_statRegs (by simp only [Reg.PWM_GRP_PER]; omega))
  have cfg : t.rd (Reg.PWM_GRP_CFG g) = s.rd (Reg.PWM_GRP_CFG g) := h.regs _ (not_statRegs (by simp only [Reg.PWM_GRP_CFG]; omega))
  have phase : t.rd (Reg.PWM_GRP_PHASE g) = s.rd (Reg.PWM_GRP_PHASE g) := h.regs _ (not_statRegs (by simp only [Reg.PWM_GRP_PHASE]; omega))
  have dt : t.rd (Reg.PWM_GRP_DT g) = s.rd (Reg.PWM_GRP_DT g) := h.regs _ (not_statRegs (by simp only [Reg.PWM_GRP_DT]; omega))
  have minpw : t.rd (Reg.PWM_GRP_MINPW g) = s.rd (Reg.PWM_GRP_MINPW g) := h.regs _ (not_statRegs (by simp only [Reg.PWM_GRP_MINPW]; omega))
  have law : ∀ a, t.rd (Reg.LAW_CFG a) = s.rd (Reg.LAW_CFG a) := fun a => h.regs _ (not_statRegs (by simp only [Reg.LAW_CFG]; omega))
  have route : ∀ a, t.rd (Reg.LAW_ROUTE a) = s.rd (Reg.LAW_ROUTE a) := fun a => h.regs _ (not_statRegs (by simp only [Reg.LAW_ROUTE]; omega))
  have axes : t.lawAxes = s.lawAxes := by simp only [State.lawAxes, State.bit, law]
  have routes : t.lawRoute = s.lawRoute := funext route
  have dests : t.grpDests g = s.grpDests g := by rw [State.grpDests, axes, routes, State.grpDests]
  have triggers : t.grpTriggers g = s.grpTriggers g := by rw [State.grpTriggers, axes, routes, State.grpTriggers]
  have dividers : t.divider = s.divider := funext fun a => congrArg (2 ^ wFld · 31 30) (route a)
  rw [State.grpOk, State.grpOk, State.grpLaws, State.grpLaws, State.updInterval, State.updInterval, State.pwmPer, State.pwmLock, State.pwmK, State.pwmN,
    State.bit, State.fld, State.fld, State.fld, State.fld, State.fld, State.fld, dests, triggers, routes, dividers, per, cfg, phase, dt, minpw]
  rfl

/-- The context and the status that a start leaves group g with. -/
theorem State.pwmStart1_view (s : State) (g : Nat) : ((s.pwmStart1 g).grp g, (s.pwmStart1 g).rd (Reg.PWM_GRP_STAT g))
    = if s.pwmRun g || (s.grp g).startPend then (s.grp g, s.rd (Reg.PWM_GRP_STAT g))
      else if !s.grpOk g s.tb.len then (s.grp g, wSetBit (s.rd (Reg.PWM_GRP_STAT g)) 9 true)
      else if s.bit (Reg.PWM_GRP_CFG g) 20 && s.tripped g then (s.grp g, s.rd (Reg.PWM_GRP_STAT g))
      else ({ s.grp g with startPend := true, stopPend := false, trStop := false, startAt := s.tb.tick }, s.rd (Reg.PWM_GRP_STAT g)) := by
  unfold State.pwmStart1
  repeat' split
  · rfl
  · exact congrArg (Prod.mk _) (State.rd_wr_same s _ _)
  · rfl
  · exact congrArg (Prod.mk · _) (s.grp_setGrp_same g _)

/-- What PWM_START leaves group g with, context and status: what the start of that group alone leaves it with. -/
theorem State.pwmStart_at (s : State) (v : Word) (hg : g < 8) :
    (s.eachGrp v (fun k u => u.pwmStart1 k)).grp g = (if wBit v g then (s.pwmStart1 g).grp g else s.grp g)
      ∧ (s.eachGrp v (fun k u => u.pwmStart1 k)).rd (Reg.PWM_GRP_STAT g)
        = if wBit v g then (s.pwmStart1 g).rd (Reg.PWM_GRP_STAT g) else s.rd (Reg.PWM_GRP_STAT g) := by
  have both := State.eachGrp_local (s := s) (f := fun k u => u.pwmStart1 k) (g := ⟨g, hg⟩) (P := fun u => s.OnlyPwm u statRegs)
    (view := fun u => (u.grp g, u.rd (Reg.PWM_GRP_STAT g))) v (.refl s _) (fun y u hu => hu.pwmStart1 y.isLt) (fun y hy u _ => ?_) fun u hu hv => ?_
  · exact ⟨(congrArg Prod.fst both).trans (apply_ite Prod.fst _ _ _), (congrArg Prod.snd both).trans (apply_ite Prod.snd _ _ _)⟩
  · have hy : g ≠ y := fun e => hy (Fin.ext e.symm)
    unfold State.pwmStart1
    repeat' split
    · rfl
    · exact congrArg (Prod.mk (u.grp g)) (State.rd_wr_other _ _ fun e => hy ((stat_inj _ _).1 e))
    · rfl
    · exact congrArg (Prod.mk · _) (u.grp_setGrp_other _ hy)
  · obtain ⟨grp, stat⟩ := Prod.mk.inj hv
    have cfg : u.rd (Reg.PWM_GRP_CFG g) = s.rd (Reg.PWM_GRP_CFG g) := hu.regs _ (not_statRegs (by simp only [Reg.PWM_GRP_CFG]; omega))
    have trall : u.rd Reg.PWM_TRALL = s.rd Reg.PWM_TRALL := hu.regs _ (not_statRegs (by decide))
    have run : u.pwmRun g = s.pwmRun g := congrArg (wBit · 31) stat
    have trips : u.tripped g = s.tripped g := by rw [State.tripped, State.bit, State.bit, State.bit, stat, trall, cfg]; rfl
    have mode : u.bit (Reg.PWM_GRP_CFG g) 20 = s.bit (Reg.PWM_GRP_CFG g) 20 := congrArg (wBit · 20) cfg
    rw [State.pwmStart1_view, State.pwmStart1_view, grp, stat, run, trips, mode, hu.grpOk_eq, hu.tb_eq]

/-! ## The holds of a stopped group's axes (R130) -/

/-- The registers that such holds may change: the shadow registers of the axes' destinations, and LAW_STAT. -/
def stopRegs : List Nat := shadowRegs ++ (List.range 256).map Reg.LAW_STAT

theorem mem_stopRegs_stat (hg : g < 8) : Reg.PWM_GRP_STAT g ∈ stopRegs :=
  List.mem_append_left _ (mem_shadowRegs (show g < 16 by omega) (by simp))

theorem mem_stopRegs_law {a : Nat} (ha : a < 256) : Reg.LAW_STAT a ∈ stopRegs := List.mem_append_right _ (List.mem_map_of_mem (List.mem_range.2 ha))

theorem stopRegs_offset (h : a ∈ stopRegs) : 0x40080000 ≤ a ∧ (a % 64 = 28 ∨ a % 64 = 32 ∨ a % 64 = 44) := by
  rcases List.mem_append.1 h with h | h
  · obtain ⟨g, -, h⟩ := List.mem_flatMap.1 h
    simp only [List.mem_cons, List.not_mem_nil, or_false, Reg.PWM_GRP_SHDW01, Reg.PWM_GRP_SHDW2, Reg.PWM_GRP_STAT] at h
    omega
  · obtain ⟨g, -, rfl⟩ := List.mem_map.1 h
    simp only [Reg.LAW_STAT]
    omega

/-- t is s after such holds: of a status register the valid bit alone has changed, and that of a running group. -/
structure State.Held (s t : State) : Prop where
  only : s.OnlyRegs t stopRegs
  stat : ∀ k, t.rd (Reg.PWM_GRP_STAT k) = s.rd (Reg.PWM_GRP_STAT k)
    ∨ (s.pwmRun k = true ∧ t.rd (Reg.PWM_GRP_STAT k) = wSetBit (s.rd (Reg.PWM_GRP_STAT k)) 30 true)

theorem State.Held.refl (s : State) : s.Held s := ⟨.refl s _, fun _ => .inl rfl⟩

theorem State.Held.flag (h : s.Held t) (k : Nat) (hi : i ≠ 30) : t.bit (Reg.PWM_GRP_STAT k) i = s.bit (Reg.PWM_GRP_STAT k) i := by
  rcases h.stat k with e | ⟨-, e⟩
  · rw [State.bit, e, State.bit]
  · rw [State.bit, e, wBit_wSetBit_other _ hi.symm, State.bit]

theorem State.Held.stopped (h : s.Held t) (hr : s.pwmRun k = false) : t.rd (Reg.PWM_GRP_STAT k) = s.rd (Reg.PWM_GRP_STAT k) :=
  (h.stat k).resolve_right fun e => by simp [hr] at e

theorem State.Held.trans (h : s.Held t) (k : t.Held u) : s.Held u := by
  refine ⟨h.only.trans k.only, fun n => ?_⟩
  rcases h.stat n with e | ⟨hr, e⟩ <;> rcases k.stat n with e' | ⟨hr', e'⟩
  · exact .inl (e'.trans e)
  · exact .inr ⟨(h.flag n (by decide)).symm.trans hr', by rw [e', e]⟩
  · exact .inr ⟨hr, by rw [e', e]⟩
  · exact .inr ⟨hr, by rw [e', e]; simp [wSetBit, BitVec.or_assoc]⟩

theorem State.held_redeliver (s : State) (a : Nat) : s.Held (s.redeliver a) := by
  refine ⟨(s.onlyRegs_redeliver a).mono fun b hb => List.mem_append_left _ hb, fun k => ?_⟩
  unfold State.redeliver State.shadowRelease
  extract_lets r
  split
  · split
    · exact .inl rfl
    · next h =>
      by_cases e : k = wFld r 13 10
      · subst e
        have runs : s.bit (Reg.PWM_GRP_CFG (wFld r 13 10)) 14 = false ∧ s.bit (Reg.PWM_GRP_STAT (wFld r 13 10)) 31 = true := by simpa using h
        refine .inr ⟨runs.2, ?_⟩
        rw [State.setBit_wr, State.rd_wr_same, State.rd_wr_other _ _ (by simp only [Reg.PWM_GRP_SHDW2, Reg.PWM_GRP_STAT]; omega),
          State.rd_wr_other _ _ (by simp only [Reg.PWM_GRP_SHDW01, Reg.PWM_GRP_STAT]; omega)]
      · refine .inl ?_
        rw [State.setBit_wr, State.rd_wr_other _ _ (fun h => e ((stat_inj _ _).1 h)),
          State.rd_wr_other _ _ (by simp only [Reg.PWM_GRP_SHDW2, Reg.PWM_GRP_STAT]; omega),
          State.rd_wr_other _ _ (by simp only [Reg.PWM_GRP_SHDW01, Reg.PWM_GRP_STAT]; omega)]
  · exact .inl rfl

theorem State.held_holdStop (s : State) (ha : a < 256) : s.Held (s.holdStop a) := by
  refine State.Held.trans ⟨(State.OnlyRegs.refl s _).wr (mem_stopRegs_law ha) _, fun k => .inl ?_⟩ (State.held_redeliver _ a)
  exact State.rd_wr_other _ _ (by simp only [Reg.LAW_STAT, Reg.PWM_GRP_STAT]; omega)

/-- s with group g marked as held in this cycle, where its axes hold now. -/
def State.holding (s : State) (g : Nat) : State := if (s.grp g).held || !s.lawsRun then s else s.setGrp g { s.grp g with held := true }

theorem State.held_stopHolds (s : State) (g : Fin 8) : (s.holding g).Held (s.stopHolds g) := by
  unfold State.stopHolds State.holding
  split
  · exact .refl _
  · exact State.each_keeps (P := fun u => State.Held _ u) (.refl _) fun a ha u hu =>
      hu.trans (u.held_holdStop (by simpa using (List.mem_filter.1 ha).1))

theorem State.rd_holding (s : State) (g a : Nat) : (s.holding g).rd a = s.rd a := by
  unfold State.holding
  split <;> rfl

theorem State.grp_holding (s : State) (g : Nat) : (s.holding g).grp g = { s.grp g with held := (s.grp g).held || s.lawsRun } := by
  unfold State.holding
  split
  · next h =>
    have : ((s.grp g).held || s.lawsRun) = (s.grp g).held := by
      revert h
      cases (s.grp g).held <;> cases s.lawsRun <;> simp
    rw [this]
  · next h =>
    have : ((s.grp g).held || s.lawsRun) = true := by
      revert h
      cases (s.grp g).held <;> cases s.lawsRun <;> simp
    rw [State.grp_setGrp_same, this]

theorem State.grp_holding_other (s : State) (h : k ≠ g) : (s.holding g).grp k = s.grp k := by
  unfold State.holding
  split
  · rfl
  · exact s.grp_setGrp_other _ h

theorem State.grp_stopHolds (s : State) (g : Fin 8) : (s.stopHolds g).grp g = { s.grp g with held := (s.grp g).held || s.lawsRun } :=
  (State.grp_congr (s.held_stopHolds g).only.pwm_eq g).trans (s.grp_holding g)

theorem State.grp_stopHolds_other (s : State) {g : Fin 8} (h : k ≠ g) : (s.stopHolds g).grp k = s.grp k :=
  (State.grp_congr (s.held_stopHolds g).only.pwm_eq k).trans (s.grp_holding_other h)

theorem State.OnlyPwm.stopHolds (h : s.OnlyPwm t stopRegs) (g : Fin 8) : s.OnlyPwm (t.stopHolds g) stopRegs := by
  refine (State.ite_keeps (P := fun u => s.OnlyPwm u stopRegs) h (h.setGrp g _) : s.OnlyPwm (t.holding g) stopRegs).trans ?_
  exact .of (t.held_stopHolds g).only

theorem State.flag_stopHolds (s : State) (g : Fin 8) (k : Nat) (hi : i ≠ 30) :
    (s.stopHolds g).bit (Reg.PWM_GRP_STAT k) i = s.bit (Reg.PWM_GRP_STAT k) i :=
  ((s.held_stopHolds g).flag k hi).trans (congrArg (wBit · i) (s.rd_holding g _))

/-! ## Stop (R130) -/

theorem State.stopAtValley_running (hr : s.pwmRun g = true) (hp : (s.grp g).stopPend = false) :
    s.stopAtValley g = s.setGrp g { s.grp g with stopPend := true, stopAt := s.tb.tick } := if_pos (by simp [hr, hp])

theorem State.stopAtValley_rests (h : s.pwmRun g = false ∨ (s.grp g).stopPend = true) : s.stopAtValley g = s := by
  refine if_neg ?_
  rcases h with h | h <;> simp [h]

theorem State.pwmStop1_running {g : Fin 8} (hr : s.pwmRun g = true) : s.pwmStop1 g = s.stopAtValley g := if_pos hr

theorem State.pwmStop1_waiting {g : Fin 8} (hr : s.pwmRun g = false) (hp : (s.grp g).startPend = true) :
    s.pwmStop1 g = (s.setGrp g { s.grp g with startPend := false }).stopHolds g :=
  (if_neg (by simp [hr])).trans (if_pos hp)

theorem State.pwmStop1_idle {g : Fin 8} (hr : s.pwmRun g = false) (hp : (s.grp g).startPend = false) : s.pwmStop1 g = s :=
  (if_neg (by simp [hr])).trans (if_neg (by simp [hp]))

/-- The three cases of a stop: the group runs, its start waits, or neither. -/
theorem State.pwmStop1_cases {P : State → Prop} (g : Fin 8) (idle : P s) (runs : P (s.setGrp g { s.grp g with stopPend := true, stopAt := s.tb.tick }))
    (waits : P ((s.setGrp g { s.grp g with startPend := false }).stopHolds g)) : P (s.pwmStop1 g) := by
  unfold State.pwmStop1 State.stopAtValley
  dsimp only
  repeat' split
  all_goals assumption

theorem State.OnlyPwm.pwmStop1 (h : s.OnlyPwm t stopRegs) (g : Fin 8) : s.OnlyPwm (t.pwmStop1 g) stopRegs :=
  State.pwmStop1_cases (P := fun u => s.OnlyPwm u stopRegs) g h (h.setGrp g _) ((h.setGrp g _).stopHolds g)

theorem State.grp_pwmStop1_other (s : State) {g : Fin 8} (h : k ≠ g) : (s.pwmStop1 g).grp k = s.grp k :=
  State.pwmStop1_cases (P := fun u => u.grp k = s.grp k) g rfl (s.grp_setGrp_other _ h)
    ((State.grp_stopHolds_other _ h).trans (s.grp_setGrp_other _ h))

theorem State.flag_pwmStop1 (s : State) (g : Fin 8) (k : Nat) (hi : i ≠ 30) : (s.pwmStop1 g).bit (Reg.PWM_GRP_STAT k) i = s.bit (Reg.PWM_GRP_STAT k) i :=
  State.pwmStop1_cases (P := fun u => u.bit (Reg.PWM_GRP_STAT k) i = s.bit (Reg.PWM_GRP_STAT k) i) g rfl rfl (State.flag_stopHolds _ g k hi)

theorem State.OnlyPwm.lawsRun_eq (h : s.OnlyPwm t stopRegs) : t.lawsRun = s.lawsRun := by
  have mode : t.rd Reg.SYS_MODE = s.rd Reg.SYS_MODE := h.regs _ fun hm => absurd (stopRegs_offset hm).1 (by decide)
  rw [State.lawsRun, State.mode, State.fld, mode]
  rfl

/-- The context that a stop leaves group g with. -/
theorem State.grp_pwmStop1 (s : State) (g : Fin 8) : (s.pwmStop1 g).grp g
    = if s.pwmRun g then (if (s.grp g).stopPend then s.grp g else { s.grp g with stopPend := true, stopAt := s.tb.tick })
      else if (s.grp g).startPend then { s.grp g with startPend := false, held := (s.grp g).held || s.lawsRun } else s.grp g := by
  cases hr : s.pwmRun g with
  | true =>
    cases hp : (s.grp g).stopPend with
    | true => rw [State.pwmStop1_running hr, State.stopAtValley_rests (.inr hp)]; simp
    | false => rw [State.pwmStop1_running hr, State.stopAtValley_running hr hp, State.grp_setGrp_same]; simp
  | false =>
    cases hp : (s.grp g).startPend with
    | true => rw [State.pwmStop1_waiting hr hp, State.grp_stopHolds, State.grp_setGrp_same]; rfl
    | false => rw [State.pwmStop1_idle hr hp]; simp

/-- What PWM_STOP leaves group g with: what the stop of that group alone leaves it with. -/
theorem State.pwmStop_at (s : State) (v : Word) (g : Fin 8) :
    (s.eachGrp v (fun k u => u.pwmStop1 k)).grp g = if wBit v g then (s.pwmStop1 g).grp g else s.grp g := by
  have both : ((s.eachGrp v (fun k u => u.pwmStop1 k)).grp g, (s.eachGrp v (fun k u => u.pwmStop1 k)).pwmRun g)
      = if wBit v g then ((s.pwmStop1 g).grp g, (s.pwmStop1 g).pwmRun g) else (s.grp g, s.pwmRun g) := by
    refine State.eachGrp_local (P := fun u => s.OnlyPwm u stopRegs) (view := fun u => (u.grp g, u.pwmRun g)) v (.refl s _) (fun y u hu => hu.pwmStop1 y)
      (fun y hy u _ => ?_) fun u hu hv => ?_
    · exact Prod.ext (u.grp_pwmStop1_other fun e => hy (Fin.ext e.symm)) (u.flag_pwmStop1 y g (by decide))
    · obtain ⟨grp, run⟩ := Prod.mk.inj hv
      refine Prod.ext ?_ ((u.flag_pwmStop1 g g (by decide)).trans (run.trans (s.flag_pwmStop1 g g (by decide)).symm))
      change (u.pwmStop1 g).grp g = (s.pwmStop1 g).grp g
      rw [State.grp_pwmStop1, State.grp_pwmStop1, grp, run, hu.lawsRun_eq, hu.tb_eq]
  exact (congrArg Prod.fst both).trans (apply_ite Prod.fst _ _ _)

/-- A stop of which no named group's start waits leaves the registers. -/
theorem State.regs_pwmStop (s : State) (v : Word) (h : ∀ g, g < 8 → wBit v g = true → s.pwmRun g = true ∨ (s.grp g).startPend = false) :
    (s.eachGrp v (fun k u => u.pwmStop1 k)).regs = s.regs := by
  have kept : (s.eachGrp v (fun k u => u.pwmStop1 k)).regs = s.regs
      ∧ ∀ k, ((s.eachGrp v (fun k u => u.pwmStop1 k)).grp k).startPend = (s.grp k).startPend := by
    refine State.each_keeps (P := fun u => u.regs = s.regs ∧ ∀ k, (u.grp k).startPend = (s.grp k).startPend) ⟨rfl, fun _ => rfl⟩ fun g _ u hu => ?_
    obtain ⟨regs, pend⟩ := hu
    dsimp only
    split
    · next hv =>
      have run : u.pwmRun g = s.pwmRun g := congrArg (fun r => wBit (Table.get resetOf r (Reg.PWM_GRP_STAT g)) 31) regs
      cases hr : u.pwmRun g with
      | true =>
        rw [State.pwmStop1_running hr]
        cases hp : (u.grp g).stopPend with
        | true => rw [State.stopAtValley_rests (.inr hp)]; exact ⟨regs, pend⟩
        | false =>
          rw [State.stopAtValley_running hr hp]
          refine ⟨regs, fun k => ?_⟩
          by_cases e : k = g
          · subst e
            rw [State.grp_setGrp_same]
            exact pend g
          · rw [State.grp_setGrp_other _ _ e]
            exact pend k
      | false =>
        have rests : (u.grp g).startPend = false := (pend g).trans ((h g g.isLt hv).resolve_left (by simp [← run, hr]))
        rw [State.pwmStop1_idle hr rests]
        exact ⟨regs, pend⟩
    · exact ⟨regs, pend⟩
  exact kept.1

/-! ## LOAD_ALL (R132) -/

/-- LOAD_ALL at group g. -/
def State.loadAll1 (g : Nat) (s : State) : State := if s.bit (Reg.PWM_GRP_CTRL g) 31 then s.setBit (Reg.PWM_GRP_STAT g) 29 true else s

theorem State.OnlyRegs.loadAll1 (h : s.OnlyRegs t statRegs) (hg : g < 8) : s.OnlyRegs (t.loadAll1 g) statRegs :=
  State.ite_keeps (P := fun u => s.OnlyRegs u statRegs) (h.wr (mem_stats hg) _) h

theorem State.onlyRegs_loadAll (s : State) : s.OnlyRegs s.loadAll statRegs :=
  State.each_keeps (P := fun u => s.OnlyRegs u statRegs) (.refl s _) fun _ hg _ hu => hu.loadAll1 (List.mem_range.1 hg)

theorem State.bit_loadAll1 (s : State) (g k : Nat) : (s.loadAll1 g).bit (Reg.PWM_GRP_STAT k) 29
    = if k = g then s.bit (Reg.PWM_GRP_STAT k) 29 || s.bit (Reg.PWM_GRP_CTRL g) 31 else s.bit (Reg.PWM_GRP_STAT k) 29 := by
  unfold State.loadAll1
  by_cases e : k = g
  · subst e
    cases hc : s.bit (Reg.PWM_GRP_CTRL k) 31
    · simp
    · simp [State.bit_setBit_same s (Reg.PWM_GRP_STAT k) (i := 29) (by decide) true]
  · rw [if_neg e, apply_ite (fun u : State => u.bit (Reg.PWM_GRP_STAT k) 29), State.setBit_wr,
      State.bit_wr_other _ _ (fun h => e ((stat_inj _ _).1 h)), ite_self]

theorem State.bit_loadAll (s : State) (hg : g < 8) :
    s.loadAll.bit (Reg.PWM_GRP_STAT g) 29 = (s.bit (Reg.PWM_GRP_STAT g) 29 || s.bit (Reg.PWM_GRP_CTRL g) 31) := by
  have all := State.each_view (P := fun u => s.OnlyRegs u statRegs) (view := fun u k => u.bit (Reg.PWM_GRP_STAT k) 29) (f := State.loadAll1)
    (F := fun k b => b || s.bit (Reg.PWM_GRP_CTRL k) 31) (l := List.range 8) (t := s) List.nodup_range (.refl s _)
    (fun _ hi _ hu => hu.loadAll1 (List.mem_range.1 hi)) (fun i _ u hu k => ?_) g
  · exact all.trans (if_pos (List.mem_range.2 hg))
  · rw [u.bit_loadAll1 i k, hu.bit_eq (not_statRegs (by simp only [Reg.PWM_GRP_CTRL]; omega)) 31]
    by_cases e : k = i
    · subst e; rfl
    · rw [if_neg e, if_neg e]

/-! ## The statement -/

theorem exec_pwmStart {m : Fin 32} (h : s.may m Reg.PWM_START true) (v : Word) :
    exec (.pwmStart m v) s = .next (s.eachGrp v (fun k u => u.pwmStart1 k)) :=
  congrArg Host.Outcome.next (State.regAccess_of_may h fun s => s.eachGrp v (fun k u => u.pwmStart1 k))

theorem exec_pwmStop {m : Fin 32} (h : s.may m Reg.PWM_STOP true) (v : Word) :
    exec (.pwmStop m v) s = .next (s.eachGrp v (fun k u => u.pwmStop1 k)) :=
  congrArg Host.Outcome.next (State.regAccess_of_may h fun s => s.eachGrp v (fun k u => u.pwmStop1 k))

theorem exec_pwmLoadall {m : Fin 32} (h : s.may m Reg.PWM_LOADALL true) (v : Word) :
    exec (.pwmLoadall m v) s = .next (s.when (wBit v 0) State.loadAll) :=
  congrArg Host.Outcome.next (State.regAccess_of_may h fun s => s.when (wBit v 0) State.loadAll)

/-- Settles O29: each of the three strobes does to a group what it does to that group alone. -/
theorem pwmStartAndStop : Obligations.PwmStartAndStop := by
  unfold Obligations.PwmStartAndStop
  refine ⟨fun s m v h => ?_, fun s m v h => ?_, fun s m v h h0 => ?_, fun s m v h h0 => ?_⟩
  -- PWM_START
  · have at_g := fun (g : Nat) (hg : g < 8) => s.pwmStart_at v hg
    refine ⟨_, exec_pwmStart h v, fun g hg hv hr hp ho ht => ?_, fun g hg hv hr hp ho => ?_, fun g hg hb => ?_, fun g hg hv => ?_, ?_⟩
    · rw [(at_g g hg).1, if_pos hv, State.pwmStart1_waits hr hp ho ht]
      exact s.grp_setGrp_same g _
    · have refused : s.pwmStart1 g = s.setBit (Reg.PWM_GRP_STAT g) 9 true := State.pwmStart1_refused hr hp ho
      rw [State.bit, (at_g g hg).1, (at_g g hg).2, if_pos hv, if_pos hv, refused]
      exact ⟨State.bit_setBit_same s _ (by decide) true, rfl⟩
    · rw [(at_g g hg).1, State.grp_pwmStart1 hb]
      exact ite_self _
    · have named : ¬ wBit v g = true := Bool.eq_false_iff.1 hv
      rw [(at_g g hg).1, (at_g g hg).2, if_neg named, if_neg named]
      exact ⟨rfl, rfl⟩
    · exact State.each_keeps (P := fun u => s.OnlyPwm u statRegs) (.refl s _) fun k _ u hu =>
        State.ite_keeps (P := fun u => s.OnlyPwm u statRegs) (hu.pwmStart1 k.isLt) hu
  -- PWM_STOP
  · have at_g := fun (g : Nat) (hg : g < 8) => s.pwmStop_at v ⟨g, hg⟩
    have frame : s.OnlyPwm (s.eachGrp v (fun k u => u.pwmStop1 k)) stopRegs := State.each_keeps (P := fun u => s.OnlyPwm u stopRegs) (.refl s _)
      fun k _ u hu => State.ite_keeps (P := fun u => s.OnlyPwm u stopRegs) (hu.pwmStop1 k) hu
    refine ⟨_, exec_pwmStop h v, fun g hg hv hr hp => ?_, fun g hg hv hr hp => ?_, fun g hg hv hr hp => ?_, fun g hg hb => ?_, frame.rest_eq,
      s.regs_pwmStop v⟩
    · rw [at_g g hg, if_pos hv, State.grp_pwmStop1]
      simp [hr, hp]
    · rw [at_g g hg, if_pos hv, State.grp_pwmStop1]
      simp [hr, hp]
    · rw [at_g g hg, if_pos hv, State.grp_pwmStop1]
      simp [hr, hp]
    · rw [at_g g hg]
      rcases hb with hv | ⟨hr, hp⟩
      · exact if_neg (Bool.eq_false_iff.1 hv)
      · rw [State.grp_pwmStop1]
        simp [hr, hp]
  -- LOAD_ALL
  · rw [exec_pwmLoadall h v, h0, State.when_true]
    exact ⟨s.loadAll, rfl, fun _ hg => s.bit_loadAll hg, s.onlyRegs_loadAll⟩
  · rw [exec_pwmLoadall h v, h0, State.when_false]

end Sys2Proof.Machine
end

section
/-! PWM groups: trips (R139 to R141). -/

namespace Sys2Proof.Machine

variable {s t u : State} {l : List Nat} {k a i : Nat}

/-! ## Memories across frames -/

theorem State.OnlyRaised.sameMemory (h : s.OnlyRaised t l) : s.SameMemory t :=
  ⟨(congrArg State.hall h.rest :), (congrArg State.pv h.rest :), (congrArg (·.cap.dram) h.rest :)⟩

theorem State.OnlyNoticed.pwm_eq (h : s.OnlyNoticed t l) : t.pwm = s.pwm := (congrArg State.pwm h.rest :)

/-- The notice of an event leaves the memories, and of the capture DRAM all but trigger flags. -/
theorem State.SameMemory.noticed (h : s.SameMemory t) (k : t.OnlyNoticed u l) : s.SameStore u :=
  ⟨(congrArg State.hall k.rest :).trans h.hall, (congrArg State.pv k.rest :).trans h.pv, fun a => h.dram ▸ k.dram a⟩

theorem grpReg_cnt (g : Nat) : grpReg g (Reg.PWM_GRP_CNT g) := by simp only [grpReg, Reg.PWM_GRP_CFG, Reg.PWM_GRP_CNT]; omega

/-! ## A group is cut -/

section

variable {g : Fin 8}

/-- s with the running group g cut: its outputs off, the period marked and counted once, before TRMODE stops it (R139). -/
def State.cutNow (s : State) (g : Nat) : State :=
  let off := (s.killGrp g).setBit (Reg.PWM_GRP_STAT g) 27 true
  let counted := if (s.grp g).cutDone then off else off.incFld (Reg.PWM_GRP_CNT g) 31 16
  counted.setGrp g { counted.grp g with cutDone := true, trStop := (s.grp g).trStop || s.bit (Reg.PWM_GRP_CFG g) 20 }

theorem State.cutGrp_running (hr : s.pwmRun g = true) :
    s.cutGrp g = if s.bit (Reg.PWM_GRP_CFG g) 20 then (s.cutNow g).stopAtValley g else s.cutNow g := if_pos hr

theorem State.cutGrp_waiting (hr : s.pwmRun g = false) (ht : s.bit (Reg.PWM_GRP_CFG g) 20 = true) (hp : (s.grp g).startPend = true) :
    s.cutGrp g = (s.pwmStop1 g).setBit (Reg.PWM_GRP_STAT g) 13 true :=
  (if_neg (by simp [hr])).trans (if_pos (by simp [ht, hp]))

theorem State.cutGrp_idle (hr : s.pwmRun g = false) (h : (s.bit (Reg.PWM_GRP_CFG g) 20 && (s.grp g).startPend) = false) : s.cutGrp g = s :=
  (if_neg (by simp [hr])).trans (if_neg (Bool.eq_false_iff.1 h))

theorem State.grp_cutNow (s : State) (g : Nat) : (s.cutNow g).grp g
    = { s.grp g with ph := (s.grp g).ph.map Phase.kill, cutDone := true, trStop := (s.grp g).trStop || s.bit (Reg.PWM_GRP_CFG g) 20 } := by
  have killed : ((s.killGrp g).setBit (Reg.PWM_GRP_STAT g) 27 true).grp g = { s.grp g with ph := (s.grp g).ph.map Phase.kill } := s.grp_setGrp_same g _
  have counted (b : Bool) (off : State) : (if b then off else off.incFld (Reg.PWM_GRP_CNT g) 31 16).grp g = off.grp g :=
    (apply_ite (State.grp · g) _ _ _).trans (ite_self _)
  have marked (c : PwmGrp) (h : c = { s.grp g with ph := (s.grp g).ph.map Phase.kill }) (b : Bool) :
      { c with cutDone := true, trStop := b } = { s.grp g with ph := (s.grp g).ph.map Phase.kill, cutDone := true, trStop := b } := h ▸ rfl
  exact (State.grp_setGrp_same _ g _).trans (marked _ ((counted _ _).trans killed) _)

theorem State.grp_cutNow_other (s : State) {g : Nat} (h : k ≠ g) : (s.cutNow g).grp k = s.grp k := by
  have counted (b : Bool) (off : State) : (if b then off else off.incFld (Reg.PWM_GRP_CNT g) 31 16).grp k = off.grp k :=
    (apply_ite (State.grp · k) _ _ _).trans (ite_self _)
  exact (State.grp_setGrp_other _ _ h).trans ((counted _ _).trans (s.grp_setGrp_other _ h))

theorem State.rd_cutNow_stat (s : State) (g k : Nat) :
    (s.cutNow g).rd (Reg.PWM_GRP_STAT k) = (s.setBit (Reg.PWM_GRP_STAT g) 27 true).rd (Reg.PWM_GRP_STAT k) := by
  refine (apply_ite (State.rd · (Reg.PWM_GRP_STAT k)) _ _ _).trans ?_
  rw [State.incFld_wr, State.rd_wr_other _ _ (by simp only [Reg.PWM_GRP_CNT, Reg.PWM_GRP_STAT]; omega)]
  exact ite_self _

theorem State.fld_cutNow_count (s : State) (g : Nat) : (s.cutNow g).fld (Reg.PWM_GRP_CNT g) 31 16
    = if (s.grp g).cutDone then s.fld (Reg.PWM_GRP_CNT g) 31 16 else (s.fld (Reg.PWM_GRP_CNT g) 31 16 + 1) % 65536 := by
  have before : ((s.killGrp g).setBit (Reg.PWM_GRP_STAT g) 27 true).rd (Reg.PWM_GRP_CNT g) = s.rd (Reg.PWM_GRP_CNT g) :=
    State.rd_wr_other _ _ (by simp only [Reg.PWM_GRP_CNT, Reg.PWM_GRP_STAT]; omega)
  refine (apply_ite (State.fld · (Reg.PWM_GRP_CNT g) 31 16) _ _ _).trans ?_
  rw [State.incFld, State.fld_setFld_same _ _ (by decide) (by decide), State.fld, before]
  rfl

theorem State.stopAtValley_keeps {P : State → Prop} (h : P t) (g : Nat) (k : P (t.setGrp g { t.grp g with stopPend := true, stopAt := t.tb.tick })) :
    P (t.stopAtValley g) := by
  unfold State.stopAtValley
  dsimp only
  split
  · exact k
  · exact h

theorem State.rd_stopAtValley (s : State) (g a : Nat) : (s.stopAtValley g).rd a = s.rd a :=
  State.stopAtValley_keeps (P := fun u => u.rd a = s.rd a) rfl g rfl

theorem State.grp_stopAtValley (hr : s.pwmRun k = true) : (s.stopAtValley k).grp k
    = if (s.grp k).stopPend then s.grp k else { s.grp k with stopPend := true, stopAt := s.tb.tick } := by
  cases hp : (s.grp k).stopPend with
  | true => rw [State.stopAtValley_rests (.inr hp)]; rfl
  | false => rw [State.stopAtValley_running hr hp, State.grp_setGrp_same]; rfl

/-- The registers that a cut may change: the counts of cut periods, and those that a stop may change. -/
def cutRegs : List Nat := (List.range 8).map Reg.PWM_GRP_CNT ++ stopRegs

theorem not_cutRegs (h : a % 64 < 28) : a ∉ cutRegs := by
  intro hm
  rcases List.mem_append.1 hm with hm | hm
  · obtain ⟨g, -, rfl⟩ := List.mem_map.1 hm
    simp only [Reg.PWM_GRP_CNT] at h
    omega
  · have := (stopRegs_offset hm).2
    omega

theorem mem_cutRegs_stat {g : Nat} (hg : g < 8) : Reg.PWM_GRP_STAT g ∈ cutRegs := List.mem_append_right _ (mem_stopRegs_stat hg)
theorem mem_cutRegs_count {g : Nat} (hg : g < 8) : Reg.PWM_GRP_CNT g ∈ cutRegs := List.mem_append_left _ (List.mem_map_of_mem (List.mem_range.2 hg))

/-- t is s with group g cut: other groups stand, and of the status registers the valid bits alone, but for two bits of group g's. -/
structure State.Cut (s t : State) (g : Nat) : Prop where
  only : s.OnlyPwm t cutRegs
  others : ∀ k, k ≠ g → t.grp k = s.grp k
  flags : ∀ k i, i ≠ 30 → (k = g → i ≠ 13 ∧ i ≠ 27) → t.bit (Reg.PWM_GRP_STAT k) i = s.bit (Reg.PWM_GRP_STAT k) i

/-- A bit of a status register that is set leaves the others. -/
theorem State.flag_setBit (s : State) (g k : Nat) {i j : Nat} (hi : i < 32) (b : Bool) (h : k = g → j ≠ i) :
    (s.setBit (Reg.PWM_GRP_STAT g) i b).bit (Reg.PWM_GRP_STAT k) j = s.bit (Reg.PWM_GRP_STAT k) j := by
  by_cases e : k = g
  · subst e
    rw [State.bit_setBit _ _ _ _ _ hi, if_neg (h rfl)]
  · exact State.bit_wr_other _ _ (fun e' => e ((stat_inj _ _).1 e')) j

theorem State.cut_cutNow (s : State) (g : Fin 8) : s.Cut (s.cutNow g) g where
  only := by
    refine State.OnlyPwm.setGrp (State.ite_keeps (P := fun u => s.OnlyPwm u cutRegs) ?_ ?_) g _
    · exact ((State.OnlyPwm.refl s _).setGrp g _).wr (mem_cutRegs_stat g.isLt) _
    · exact (((State.OnlyPwm.refl s _).setGrp g _).wr (mem_cutRegs_stat g.isLt) _).wr (mem_cutRegs_count g.isLt) _
  others _ := s.grp_cutNow_other
  flags k _ _ h := (congrArg (wBit · _) (s.rd_cutNow_stat g k)).trans (s.flag_setBit g k (by decide) true fun e => (h e).2)

theorem State.cut_cutGrp (s : State) (g : Fin 8) : s.Cut (s.cutGrp g) g := by
  cases hr : s.pwmRun g with
  | true =>
    rw [State.cutGrp_running hr]
    have now := s.cut_cutNow g
    refine State.ite_keeps (P := fun u => s.Cut u g) (State.stopAtValley_keeps (P := fun u => s.Cut u g) now g ?_) now
    exact ⟨now.only.setGrp g _, fun k hk => (State.grp_setGrp_other _ _ hk).trans (now.others k hk), now.flags⟩
  | false =>
    cases hc : s.bit (Reg.PWM_GRP_CFG g) 20 && (s.grp g).startPend with
    | true =>
      obtain ⟨ht, hp⟩ := Bool.and_eq_true_iff.1 hc
      rw [State.cutGrp_waiting hr ht hp]
      refine ⟨State.OnlyPwm.wr ?_ (mem_cutRegs_stat g.isLt) _, fun k hk => s.grp_pwmStop1_other hk, fun k i hi h => ?_⟩
      · exact ((State.OnlyPwm.refl s _).pwmStop1 g).mono fun _ h => List.mem_append_right _ h
      · exact (State.flag_setBit _ g k (by decide) true fun e => (h e).1).trans (s.flag_pwmStop1 g k hi)
    | false =>
      rw [State.cutGrp_idle hr hc]
      exact ⟨.refl s _, fun _ _ => rfl, fun _ _ _ _ => rfl⟩

/-- What a cut of a running group shows (R139, R140). -/
theorem State.cutGrp_shows (hr : s.pwmRun g = true) : (s.cutGrp g).bit (Reg.PWM_GRP_STAT g) 27 = true
    ∧ ((s.cutGrp g).grp g).ph = (s.grp g).ph.map Phase.kill
    ∧ ((s.cutGrp g).grp g).stopPend = ((s.grp g).stopPend || s.bit (Reg.PWM_GRP_CFG g) 20)
    ∧ (s.cutGrp g).fld (Reg.PWM_GRP_CNT g) 31 16
      = if (s.grp g).cutDone then s.fld (Reg.PWM_GRP_CNT g) 31 16 else (s.fld (Reg.PWM_GRP_CNT g) 31 16 + 1) % 65536 := by
  have cut : (s.cutNow g).bit (Reg.PWM_GRP_STAT g) 27 = true :=
    (congrArg (wBit · 27) (s.rd_cutNow_stat g g)).trans (State.bit_setBit_same s _ (by decide) true)
  have grp := s.grp_cutNow g
  rw [State.cutGrp_running hr]
  cases ht : s.bit (Reg.PWM_GRP_CFG g) 20 with
  | true =>
    have run : (s.cutNow g).pwmRun g = true := ((s.cut_cutNow g).flags g 31 (by decide) fun _ => by decide).trans hr
    have stop := State.grp_stopAtValley run
    rw [if_pos rfl]
    refine ⟨(congrArg (wBit · 27) (State.rd_stopAtValley _ _ _)).trans cut, ?_, ?_,
      (congrArg (wFld · 31 16) (State.rd_stopAtValley _ _ _)).trans (s.fld_cutNow_count g)⟩
    · rw [stop, apply_ite PwmGrp.ph, grp]
      exact ite_self _
    · rw [stop, apply_ite PwmGrp.stopPend, grp]
      cases (s.grp g).stopPend <;> rfl
  | false =>
    rw [if_neg Bool.false_ne_true]
    exact ⟨cut, congrArg PwmGrp.ph grp, (congrArg PwmGrp.stopPend grp).trans (Bool.or_false _).symm, s.fld_cutNow_count g⟩

/-- A cut of a group with TRMODE = 1 whose start waits cancels the start (R140). -/
theorem State.cutGrp_cancels (hr : s.pwmRun g = false) (ht : s.bit (Reg.PWM_GRP_CFG g) 20 = true) (hp : (s.grp g).startPend = true) :
    ((s.cutGrp g).grp g).startPend = false ∧ (s.cutGrp g).bit (Reg.PWM_GRP_STAT g) 13 = true := by
  rw [State.cutGrp_waiting hr ht hp]
  refine ⟨(congrArg PwmGrp.startPend (s.grp_pwmStop1 g)).trans ?_, State.bit_setBit_same _ _ (by decide) true⟩
  simp [hr, hp]

/-! ## A group's own trip -/

/-- s with the trip of group g shown. -/
def State.tripShown (s : State) (g : Nat) : State := (s.orBits (Reg.PWM_GRP_STAT g) (bitW 28 ||| bitW 15)).pwmEvt g

theorem tripActive_takes (hf : s.tb.running = true ∨ s.fld (Reg.PWM_GRP_CFG g) 18 15 = 0) (h : s.bit (Reg.PWM_GRP_STAT g) 28 = false) :
    tripActive (some g) s = (((s.tripShown g).cutGrp g).capEvent 3 g 0).capCond 4 (trigObj g) := by
  refine if_neg ?_
  rcases hf with hf | hf <;> simp [h, hf]

theorem State.onlyRaised_tripShown (s : State) (g : Fin 8) : s.OnlyRaised (s.tripShown g) [Reg.PWM_GRP_STAT g, Reg.PWM_EVT] :=
  ((State.OnlyRaised.refl s _).wr (by simp) _).raise (by simp) 3 _

theorem State.rd_tripShown (s : State) (g : Fin 8) (ha : grpReg g a) (h : a ≠ Reg.PWM_GRP_STAT g) : (s.tripShown g).rd a = s.rd a :=
  (s.onlyRaised_tripShown g).rd_pwm (by simp [h, ha.ne_evt]) (ha.pwm g.isLt)

theorem State.flag_tripShown (s : State) (g : Fin 8) (hi : i < 32) :
    (s.tripShown g).bit (Reg.PWM_GRP_STAT g) i = (s.bit (Reg.PWM_GRP_STAT g) i || (decide (28 = i) || decide (15 = i))) := by
  refine (congrArg (wBit · i) (State.rd_pwmEvt_grp _ _ (grpReg_stat g) g.isLt)).trans ?_
  rw [State.orBits_wr, State.rd_wr_same, wBit_or, wBit_or, wBit_bitW, wBit_bitW]
  simp [hi, State.bit]

/-! ## TRIP_ALL -/

/-- TRIP_ALL at group g. -/
def State.tripByAll (g : Fin 8) (s : State) : State :=
  if s.bit (Reg.PWM_GRP_CFG g) 19 then (s.setBit (Reg.PWM_GRP_STAT g) 14 true).cutGrp g else s

/-- s with TRIP_ALL shown. -/
def State.tripAllShown (s : State) : State := (s.setBit Reg.PWM_TRALL 31 true).pwmEvt 31

theorem tripActive_takesAll (hf : s.tb.running = true ∨ s.fld Reg.PWM_TRALL 3 0 = 0) (h : s.bit Reg.PWM_TRALL 31 = false) :
    tripActive none s = ((s.tripAllShown.each (List.finRange 8) State.tripByAll).capEvent 3 8 0).capCond 4 (trigObj 8) := by
  refine if_neg ?_
  rcases hf with hf | hf <;> simp [h, hf]

theorem State.onlyRaised_tripAllShown (s : State) : s.OnlyRaised s.tripAllShown [Reg.PWM_TRALL, Reg.PWM_EVT] :=
  ((State.OnlyRaised.refl s _).wr (by simp) _).raise (by simp) 3 _

theorem State.rd_tripAllShown (s : State) {g : Nat} (ha : grpReg g a) (hg : g < 8) : s.tripAllShown.rd a = s.rd a :=
  s.onlyRaised_tripAllShown.rd_pwm (by simp [ha.ne_trall, ha.ne_evt]) (ha.pwm hg)

theorem State.OnlyPwm.cfg_eq (h : s.OnlyPwm t cutRegs) (k i : Nat) : t.bit (Reg.PWM_GRP_CFG k) i = s.bit (Reg.PWM_GRP_CFG k) i :=
  congrArg (wBit · i) (h.regs _ (not_cutRegs (by simp only [Reg.PWM_GRP_CFG]; omega)))

theorem State.OnlyPwm.tripByAll (h : s.OnlyPwm t cutRegs) (g : Fin 8) : s.OnlyPwm (t.tripByAll g) cutRegs :=
  State.ite_keeps (P := fun u => s.OnlyPwm u cutRegs) ((h.wr (mem_cutRegs_stat g.isLt) _).trans (State.cut_cutGrp _ g).only) h

theorem State.onlyPwm_tripAll (s : State) : s.OnlyPwm (s.each (List.finRange 8) State.tripByAll) cutRegs :=
  State.each_keeps (P := fun u => s.OnlyPwm u cutRegs) (.refl s _) fun g _ _ hu => hu.tripByAll g

/-- TRIP_ALL at group g leaves the other groups. -/
theorem State.tripByAll_apart (s : State) (h : k ≠ g) : (s.tripByAll g).grp k = s.grp k
    ∧ ∀ i, i ≠ 30 → (s.tripByAll g).bit (Reg.PWM_GRP_STAT k) i = s.bit (Reg.PWM_GRP_STAT k) i := by
  unfold State.tripByAll
  split
  · have cut := (s.setBit (Reg.PWM_GRP_STAT g) 14 true).cut_cutGrp g
    exact ⟨cut.others k h, fun i hi => (cut.flags k i hi fun e => absurd e h).trans (s.flag_setBit g k (by decide) true fun e => absurd e h)⟩
  · exact ⟨rfl, fun _ _ => rfl⟩

/-- TRIP_ALL marks a group that names it, cuts it where it runs, and leaves whether it runs. -/
theorem State.tripByAll_named (h : s.bit (Reg.PWM_GRP_CFG g) 19 = true) : (s.tripByAll g).bit (Reg.PWM_GRP_STAT g) 14 = true
    ∧ (s.tripByAll g).pwmRun g = s.pwmRun g
    ∧ (s.pwmRun g = true → ∀ x, ((s.tripByAll g).phase g x).sw = 0 ∧ ((s.tripByAll g).phase g x).next = 0) := by
  have marked : s.tripByAll g = (s.setBit (Reg.PWM_GRP_STAT g) 14 true).cutGrp g := if_pos h
  have cut := (s.setBit (Reg.PWM_GRP_STAT g) 14 true).cut_cutGrp g
  have run : (s.setBit (Reg.PWM_GRP_STAT g) 14 true).pwmRun g = s.pwmRun g := s.flag_setBit g g (by decide) true fun _ => by decide
  rw [marked]
  refine ⟨(cut.flags g 14 (by decide) fun _ => by decide).trans (State.bit_setBit_same s _ (by decide) true),
    (cut.flags g 31 (by decide) fun _ => by decide).trans run, fun hr x => ?_⟩
  rw [State.phase_killed (State.cutGrp_shows (run.trans hr)).2.1]
  exact ⟨rfl, rfl⟩

/-- What TRIP_ALL leaves a group with that names it. -/
theorem State.tripAll_named (h : s.bit (Reg.PWM_GRP_CFG g) 19 = true) :
    (s.each (List.finRange 8) State.tripByAll).bit (Reg.PWM_GRP_STAT g) 14 = true
      ∧ (s.pwmRun g = true → ∀ x, ((s.each (List.finRange 8) State.tripByAll).phase g x).sw = 0
          ∧ ((s.each (List.finRange 8) State.tripByAll).phase g x).next = 0) := by
  have reached := State.each_reaches (P := fun u => s.OnlyPwm u cutRegs ∧ u.pwmRun g = s.pwmRun g)
    (Q := fun u => (s.OnlyPwm u cutRegs ∧ u.pwmRun g = s.pwmRun g) ∧ u.bit (Reg.PWM_GRP_STAT g) 14 = true
      ∧ (s.pwmRun g = true → ∀ x, (u.phase g x).sw = 0 ∧ (u.phase g x).next = 0))
    (f := State.tripByAll) (x := g) (l := List.finRange 8) (t := s) (fun u hu => ?_) (List.mem_finRange g) ⟨.refl s _, rfl⟩ (fun y _ u hu => ?_)
    fun y _ u hu => ?_
  · exact reached.2
  · obtain ⟨only, run⟩ := hu
    obtain ⟨flag, run', off⟩ := State.tripByAll_named ((only.cfg_eq g 19).trans h)
    exact ⟨⟨only.tripByAll g, run'.trans run⟩, flag, fun hr => off (run.trans hr)⟩
  · obtain ⟨only, run⟩ := hu
    by_cases e : g = y
    · subst e
      exact ⟨only.tripByAll g, (State.tripByAll_named ((only.cfg_eq g 19).trans h)).2.1.trans run⟩
    · exact ⟨only.tripByAll y, ((u.tripByAll_apart (g := y) fun h => e (Fin.ext h)).2 31 (by decide)).trans run⟩
  · obtain ⟨⟨only, run⟩, flag, off⟩ := hu
    by_cases e : g = y
    · subst e
      obtain ⟨flag, run', off⟩ := State.tripByAll_named ((only.cfg_eq g 19).trans h)
      exact ⟨⟨only.tripByAll g, run'.trans run⟩, flag, fun hr => off (run.trans hr)⟩
    · obtain ⟨grp, flags⟩ := u.tripByAll_apart (g := y) (k := g) fun h => e (Fin.ext h)
      refine ⟨⟨only.tripByAll y, (flags 31 (by decide)).trans run⟩, (flags 14 (by decide)).trans flag, fun hr x => ?_⟩
      rw [State.phase_congr grp]
      exact off hr x

/-- TRIP_ALL leaves a group that does not name it. -/
theorem State.tripAll_unnamed (h : s.bit (Reg.PWM_GRP_CFG g) 19 = false) : (s.each (List.finRange 8) State.tripByAll).grp g = s.grp g
    ∧ ∀ i, i ≠ 30 → (s.each (List.finRange 8) State.tripByAll).bit (Reg.PWM_GRP_STAT g) i = s.bit (Reg.PWM_GRP_STAT g) i := by
  have kept := State.each_keeps (P := fun u => s.OnlyPwm u cutRegs ∧ u.grp g = s.grp g
      ∧ ∀ i, i ≠ 30 → u.bit (Reg.PWM_GRP_STAT g) i = s.bit (Reg.PWM_GRP_STAT g) i)
    (f := State.tripByAll) (w := List.finRange 8) (t := s) ⟨.refl s _, rfl, fun _ _ => rfl⟩ fun y _ u hu => ?_
  · exact kept.2
  · obtain ⟨only, grp, flags⟩ := hu
    refine ⟨only.tripByAll y, ?_⟩
    by_cases e : g = y
    · subst e
      rw [show u.tripByAll g = u from if_neg (by simp [only.cfg_eq, h])]
      exact ⟨grp, flags⟩
    · obtain ⟨grp', flags'⟩ := u.tripByAll_apart (g := y) (k := g) fun h => e (Fin.ext h)
      exact ⟨grp'.trans grp, fun i hi => (flags' i hi).trans (flags i hi)⟩

end

/-! ## The end of a trip, and the frozen carriers (R139, R141) -/

theorem tripInactive_takes {g : Fin 8} (hf : s.tb.running = true ∨ s.fld (Reg.PWM_GRP_CFG g) 18 15 = 0) :
    tripInactive (some g) s = s.setBit (Reg.PWM_GRP_STAT g) 28 false := by
  refine if_neg ?_
  rcases hf with hf | hf <;> simp [hf]

theorem tripInactive_takesAll (hf : s.tb.running = true ∨ s.fld Reg.PWM_TRALL 3 0 = 0) : tripInactive none s = s.setBit Reg.PWM_TRALL 31 false := by
  refine if_neg ?_
  rcases hf with hf | hf <;> simp [hf]

theorem trip_frozen {g : Fin 8} (ht : s.tb.running = false) (hf : s.fld (Reg.PWM_GRP_CFG g) 18 15 ≠ 0) :
    tripActive (some g) s = s ∧ tripInactive (some g) s = s :=
  ⟨if_pos (by simp [ht, hf]), if_pos (by simp [ht, hf])⟩

theorem tripAll_frozen (ht : s.tb.running = false) (hf : s.fld Reg.PWM_TRALL 3 0 ≠ 0) : tripActive none s = s ∧ tripInactive none s = s :=
  ⟨if_pos (by simp [ht, hf]), if_pos (by simp [ht, hf])⟩

/-- What a trip notes after the groups are cut. -/
theorem State.onlyNoticed_trip (s : State) (o : Nat) : s.OnlyNoticed ((s.capEvent 3 o 0).capCond 4 (trigObj o)) [] :=
  ((State.OnlyNoticed.refl s []).capEvent _ _ _).capCond _ _

/-- Settles O33: a trip is shown, cuts the groups that it names one by one, and is noted; none of these touches another group. -/
theorem pwmTrips : Obligations.PwmTrips := by
  unfold Obligations.PwmTrips
  refine ⟨fun s g _ hf h => ?_, fun s _ hf h => ?_, fun s => ⟨fun g hf => ?_, fun hf => ?_⟩, fun s ht => ⟨fun g hf => ?_, fun hf => ?_⟩⟩
  -- the trip of one group
  · have noted := ((s.tripShown g).cutGrp g).onlyNoticed_trip g
    have rd := fun {a} (ha : grpReg g a) => noted.rd_pwm (by simp) (ha.pwm g.isLt)
    have cut := (s.tripShown g).cut_cutGrp g
    have grp : ∀ k, (s.tripShown g).grp k = s.grp k := State.grp_congr (s.onlyRaised_tripShown g).pwm_eq
    have run : (s.tripShown g).pwmRun g = s.pwmRun g := (s.flag_tripShown g (i := 31) (by decide)).trans (by simp [State.pwmRun])
    have mode : (s.tripShown g).bit (Reg.PWM_GRP_CFG g) 20 = s.bit (Reg.PWM_GRP_CFG g) 20 :=
      congrArg (wBit · 20) (s.rd_tripShown g (grpReg_of_offset (o := 0) rfl (by decide)) (by simp only [Reg.PWM_GRP_CFG, Reg.PWM_GRP_STAT]; omega))
    have count : (s.tripShown g).fld (Reg.PWM_GRP_CNT g) 31 16 = s.fld (Reg.PWM_GRP_CNT g) 31 16 :=
      congrArg (wFld · 31 16) (s.rd_tripShown g (grpReg_cnt g)
        (by simp only [Reg.PWM_GRP_CNT, Reg.PWM_GRP_STAT]; omega))
    refine ⟨_, congrArg Host.Outcome.next (tripActive_takes hf h), ?_, ?_, ?_, fun hr => ?_, fun hr ht hp => ?_, fun k hk => ?_,
      ((s.onlyRaised_tripShown g).sameMemory.trans cut.only.sameMemory).noticed noted⟩
    · rw [State.bit, rd (grpReg_stat g)]
      exact (cut.flags g 28 (by decide) fun _ => by decide).trans ((s.flag_tripShown g (by decide)).trans (by simp))
    · rw [State.bit, rd (grpReg_stat g)]
      exact (cut.flags g 15 (by decide) fun _ => by decide).trans ((s.flag_tripShown g (by decide)).trans (by simp))
    · rw [State.bit, noted.rd_pwm (by simp) pwmReg_evt, cut.only.regs _ (not_cutRegs (by decide))]
      exact State.bit_pwmEvt_same _ (by omega)
    · obtain ⟨flag, off, stop, counted⟩ := State.cutGrp_shows (run.trans hr)
      rw [grp, mode] at stop
      rw [grp, count] at counted
      refine ⟨(congrArg (wBit · 27) (rd (grpReg_stat g))).trans flag, fun x _ => ?_, ?_, ?_⟩
      · rw [State.phase_congr (State.grp_congr noted.pwm_eq g), State.phase_killed off]
        exact ⟨rfl, rfl⟩
      · exact (congrArg PwmGrp.stopPend (State.grp_congr noted.pwm_eq g)).trans stop
      · exact (congrArg (wFld · 31 16) (rd (grpReg_cnt g))).trans counted
    · obtain ⟨cancelled, flag⟩ := State.cutGrp_cancels (run.trans hr) (mode.trans ht) ((congrArg PwmGrp.startPend (grp g)).trans hp)
      exact ⟨(congrArg PwmGrp.startPend (State.grp_congr noted.pwm_eq g)).trans cancelled, (congrArg (wBit · 13) (rd (grpReg_stat g))).trans flag⟩
    · exact (State.grp_congr noted.pwm_eq k).trans ((cut.others k hk).trans (grp k))
  -- TRIP_ALL
  · have noted := (s.tripAllShown.each (List.finRange 8) State.tripByAll).onlyNoticed_trip 8
    have only := s.tripAllShown.onlyPwm_tripAll
    have grp : ∀ k, s.tripAllShown.grp k = s.grp k := State.grp_congr s.onlyRaised_tripAllShown.pwm_eq
    have cfg : ∀ g, g < 8 → s.tripAllShown.bit (Reg.PWM_GRP_CFG g) 19 = s.bit (Reg.PWM_GRP_CFG g) 19 := fun g hg =>
      congrArg (wBit · 19) (s.rd_tripAllShown (grpReg_of_offset (o := 0) rfl (by decide)) hg)
    have shown : ∀ g, g < 8 → ∀ i, s.tripAllShown.bit (Reg.PWM_GRP_STAT g) i = s.bit (Reg.PWM_GRP_STAT g) i := fun g hg i =>
      congrArg (wBit · i) (s.rd_tripAllShown (grpReg_stat g) hg)
    have rd := fun (g : Nat) (hg : g < 8) => noted.rd_pwm (by simp) ((grpReg_stat g).pwm hg)
    refine ⟨_, congrArg Host.Outcome.next (tripActive_takesAll hf h), ?_, ?_, fun g hg hn => ?_, fun g hg hn => ?_,
      (s.onlyRaised_tripAllShown.sameMemory.trans only.sameMemory).noticed noted⟩
    · rw [State.bit, noted.rd_pwm (by simp) pwmReg_trall, only.regs _ (not_cutRegs (by decide))]
      refine (congrArg (wBit · 31) (((s.setBit Reg.PWM_TRALL 31 true).pwmEvt_raises 31).rd_pwm (by decide) pwmReg_trall)).trans ?_
      exact State.bit_setBit_same s _ (by decide) true
    · rw [State.bit, noted.rd_pwm (by simp) pwmReg_evt, only.regs _ (not_cutRegs (by decide))]
      exact State.bit_pwmEvt_same _ (by decide)
    · obtain ⟨flag, off⟩ := State.tripAll_named (g := ⟨g, hg⟩) ((cfg g hg).trans hn)
      refine ⟨(congrArg (wBit · 14) (rd g hg)).trans flag, fun hr x _ => ?_⟩
      rw [State.phase_congr (State.grp_congr noted.pwm_eq g)]
      exact off ((shown g hg 31).trans hr) x
    · obtain ⟨same, flags⟩ := State.tripAll_unnamed (g := ⟨g, hg⟩) ((cfg g hg).trans hn)
      exact ⟨(State.grp_congr noted.pwm_eq g).trans (same.trans (grp g)),
        (congrArg (wBit · 14) (rd g hg)).trans ((flags 14 (by decide)).trans (shown g hg 14)),
        (congrArg (wBit · 27) (rd g hg)).trans ((flags 27 (by decide)).trans (shown g hg 27))⟩
  -- the inactive level
  · exact ⟨_, congrArg Host.Outcome.next (tripInactive_takes hf), State.rd_wr_same s _ _, (State.OnlyRegs.refl s _).wr (by simp) _⟩
  · exact ⟨_, congrArg Host.Outcome.next (tripInactive_takesAll hf), State.rd_wr_same s _ _, (State.OnlyRegs.refl s _).wr (by simp) _⟩
  -- frozen carriers
  · exact ⟨congrArg Host.Outcome.next (trip_frozen ht hf).1, congrArg Host.Outcome.next (trip_frozen ht hf).2⟩
  · exact ⟨congrArg Host.Outcome.next (tripAll_frozen ht hf).1, congrArg Host.Outcome.next (tripAll_frozen ht hf).2⟩

end Sys2Proof.Machine
end

section
/-! PWM groups: valleys and peaks of a carrier (R127 to R132, R135, R137). -/

namespace Sys2Proof.Machine

variable {s t u : State} {l m : List Nat} {k a i x : Nat}

/-! ## Registers of a group -/

theorem grpReg_per (g : Nat) : grpReg g (Reg.PWM_GRP_PER g) := by simp only [grpReg, Reg.PWM_GRP_CFG, Reg.PWM_GRP_PER, Reg.PWM_GRP_CNT]; omega
theorem grpReg_ctrl (g : Nat) : grpReg g (Reg.PWM_GRP_CTRL g) := by simp only [grpReg, Reg.PWM_GRP_CFG, Reg.PWM_GRP_CTRL, Reg.PWM_GRP_CNT]; omega
theorem grpReg_dt (g : Nat) : grpReg g (Reg.PWM_GRP_DT g) := by simp only [grpReg, Reg.PWM_GRP_CFG, Reg.PWM_GRP_DT, Reg.PWM_GRP_CNT]; omega
theorem grpReg_shdw01 (g : Nat) : grpReg g (Reg.PWM_GRP_SHDW01 g) := by simp only [grpReg, Reg.PWM_GRP_CFG, Reg.PWM_GRP_SHDW01, Reg.PWM_GRP_CNT]; omega
theorem grpReg_shdw2 (g : Nat) : grpReg g (Reg.PWM_GRP_SHDW2 g) := by simp only [grpReg, Reg.PWM_GRP_CFG, Reg.PWM_GRP_SHDW2, Reg.PWM_GRP_CNT]; omega
theorem grpReg_act01 (g : Nat) : grpReg g (Reg.PWM_GRP_ACT01 g) := by simp only [grpReg, Reg.PWM_GRP_CFG, Reg.PWM_GRP_ACT01, Reg.PWM_GRP_CNT]; omega
theorem grpReg_act2 (g : Nat) : grpReg g (Reg.PWM_GRP_ACT2 g) := by simp only [grpReg, Reg.PWM_GRP_CFG, Reg.PWM_GRP_ACT2, Reg.PWM_GRP_CNT]; omega

/-! ## Steps beside the PWM unit -/

/-- t is s as far as the PWM unit and the memories go. -/
structure State.Beside (s t : State) : Prop where
  pwm : t.pwm = s.pwm
  memory : s.SameMemory t
  regs : ∀ a, pwmReg a → t.rd a = s.rd a

theorem State.Beside.refl (s : State) : s.Beside s := ⟨rfl, ⟨rfl, rfl, rfl⟩, fun _ _ => rfl⟩

theorem State.Beside.trans (h : s.Beside t) (k : t.Beside u) : s.Beside u :=
  ⟨k.pwm.trans h.pwm, h.memory.trans k.memory, fun a ha => (k.regs a ha).trans (h.regs a ha)⟩

theorem State.OnlyRaised.beside (h : s.OnlyRaised t l) (hl : ∀ a ∈ l, ¬pwmReg a) : s.Beside t :=
  ⟨h.pwm_eq, h.sameMemory, fun a ha => h.rd_pwm (fun hm => hl a hm ha) ha⟩

/-- A delta-sigma input writes its result and may raise an event of the feedback block (R123). -/
theorem State.beside_dsmResult (s : State) (i : Nat) (d : DsmLine) (n : Nat) (hi : i < 24) : s.Beside (s.dsmResult i d n) := by
  have apart : ∀ b ∈ [Reg.FBK_DSM_RES i, Reg.FBK_EVT], ¬pwmReg b := by
    simp only [List.mem_cons, List.not_mem_nil, or_false, forall_eq_or_imp, forall_eq, pwmReg, Reg.FBK_DSM_RES, Reg.FBK_EVT]
    omega
  have free : s.Beside s.takeFree := ⟨rfl, ⟨rfl, rfl, rfl⟩, fun _ _ => rfl⟩
  unfold State.dsmResult
  extract_lets cfg osr
  split
  · exact .refl s
  · next since _ =>
    refine State.ite_keeps ?_ (.refl s)
    extract_lets raw y quot res s1
    have written : s.takeFree.OnlyRaised s1 [Reg.FBK_DSM_RES i, Reg.FBK_EVT] := (State.OnlyRaised.refl _ _).wr (by simp) _
    refine State.ite_keeps (free.trans (State.OnlyRaised.beside ?_ apart)) (free.trans (written.beside apart))
    exact (written.wr (by simp) _).trans ((State.fbkEvt_raises _ 24).mono (by simp))

theorem State.beside_dsmResults (s : State) (g : Fin 8) (y z w : DsmLine) (n : Nat) : s.Beside (s.dsmResults g y z w n) :=
  ((s.beside_dsmResult _ y n (by omega)).trans (State.beside_dsmResult _ _ z n (by omega))).trans (State.beside_dsmResult _ _ w n (by omega))

/-- The strobe of an update point latches phase currents and queues law jobs (R20, R101). -/
theorem State.beside_strobe (s : State) (g : Fin 8) (tick : Nat) : s.Beside (s.strobe g tick) := by
  unfold State.strobe
  extract_lets cur latched
  have axes : s.Beside latched :=
    State.each_keeps (P := fun u => s.Beside u) (.refl s) fun _ _ _ hu => ⟨hu.pwm, ⟨hu.memory.hall, hu.memory.pv, hu.memory.dram⟩, hu.regs⟩
  have queued := latched.queued_queueJobs (.group g) latched.tb.cyc (tick + 80)
  refine axes.trans ⟨(congrArg State.pwm queued.frame :), queued.sameMemory, fun a ha => queued.regs a fun e => ?_⟩
  subst e
  revert ha
  simp [pwmReg, Reg.TSU_LVL]

/-! ## Steps of the phases -/

section

variable {g : Fin 8} {f : Phase → Nat → Nat → EdgeCfg → Phase × Nat}

/-- t is s but for the phases of group g, its pulse counts and what the event of a swallowed pulse changes. -/
structure State.OnlyPhases (s t : State) (g : Nat) : Prop where
  memory : s.SameMemory t
  regs : ∀ a, grpReg g a → a ≠ Reg.PWM_GRP_CNT g → t.rd a = s.rd a
  own : t.grp g = { s.grp g with ph := (t.grp g).ph }
  others : ∀ k, k ≠ g → t.grp k = s.grp k
  size : (t.grp g).ph.length = (s.grp g).ph.length

theorem State.OnlyPhases.refl (s : State) (g : Nat) : s.OnlyPhases s g := ⟨⟨rfl, rfl, rfl⟩, fun _ _ _ => rfl, rfl, fun _ _ => rfl, rfl⟩

theorem State.OnlyPhases.trans {g : Nat} (h : s.OnlyPhases t g) (k : t.OnlyPhases u g) : s.OnlyPhases u g where
  memory := h.memory.trans k.memory
  regs a ha hc := (k.regs a ha hc).trans (h.regs a ha hc)
  own := by rw [k.own, h.own]
  others n hn := (k.others n hn).trans (h.others n hn)
  size := k.size.trans h.size

/-- New phases for group g, as many as there are. -/
theorem State.onlyPhases_setGrp (s : State) (g : Nat) {p : List Phase} (h : p.length = (s.grp g).ph.length) :
    s.OnlyPhases (s.setGrp g { s.grp g with ph := p }) g where
  memory := ⟨rfl, rfl, rfl⟩
  regs _ _ _ := rfl
  own := by rw [State.grp_setGrp_same]
  others _ := s.grp_setGrp_other _
  size := by rw [State.grp_setGrp_same]; exact h

theorem State.onlyPhases_wr (s : State) (g : Nat) (v : Word) : s.OnlyPhases (s.wr (Reg.PWM_GRP_CNT g) v) g :=
  ⟨⟨rfl, rfl, rfl⟩, fun _ _ hc => State.rd_wr_other _ _ hc, rfl, fun _ _ => rfl, rfl⟩

theorem State.onlyPhases_pwmEvt (s : State) (g : Fin 8) (i : Nat) : s.OnlyPhases (s.pwmEvt i) g := by
  have grp := State.grp_congr (s.pwm_pwmEvt i)
  exact ⟨(s.pwmEvt_raises i).sameMemory, fun a ha _ => s.rd_pwmEvt_grp i ha g.isLt, by rw [grp], fun k _ => grp k, by rw [grp]⟩

theorem State.onlyPhases_swallow (s : State) (g : Fin 8) (n : Nat) : s.OnlyPhases (s.swallow g n) g := by
  refine State.ite_keeps (P := fun u => s.OnlyPhases u g) (.refl s g) (State.OnlyPhases.trans (s.onlyPhases_wr g _) (State.onlyPhases_pwmEvt _ g _))

/-- What f gives for phase x of group g at state p, with the compare value, the half-period and the edge data that are in force. -/
def State.timed (s : State) (g x : Nat) (f : Phase → Nat → Nat → EdgeCfg → Phase × Nat) (p : Phase) : Phase × Nat :=
  f p (cmpOf (s.actDuty g x) (s.halfF g)) (s.halfF g) (s.edgeCfg g x)

/-- Phase x of group g steps by f; the pulses that f swallows count (R137). -/
def State.stepPhase (g : Nat) (f : Phase → Nat → Nat → EdgeCfg → Phase × Nat) (x : Nat) (s : State) : State :=
  (s.setPhase g x (s.timed g x f (s.phase g x)).1).swallow g (s.timed g x f (s.phase g x)).2

/-- The three phases of group g step by f. -/
def State.eachPhase (s : State) (g : Nat) (f : Phase → Nat → Nat → EdgeCfg → Phase × Nat) : State := s.each [0, 1, 2] (State.stepPhase g f)

theorem dtReg_below (g x : Nat) : dtReg g x < Reg.PWM_GRP_CNT g := by
  unfold dtReg
  simp only [Reg.PWM_GRP_DTU, Reg.PWM_GRP_DTV, Reg.PWM_GRP_DTW, Reg.PWM_GRP_CNT]
  split_ifs <;> omega

theorem State.timed_congr {g : Nat} (hr : ∀ a, grpReg g a → a ≠ Reg.PWM_GRP_CNT g → t.rd a = s.rd a) (hd : (t.grp g).dt = (s.grp g).dt)
    (hm : (t.grp g).minpw = (s.grp g).minpw) (x : Nat) : t.timed g x f = s.timed g x f := by
  have act01 : t.rd (Reg.PWM_GRP_ACT01 g) = s.rd (Reg.PWM_GRP_ACT01 g) :=
    hr _ (grpReg_act01 g) (by simp only [Reg.PWM_GRP_ACT01, Reg.PWM_GRP_CNT]; omega)
  have act2 : t.rd (Reg.PWM_GRP_ACT2 g) = s.rd (Reg.PWM_GRP_ACT2 g) :=
    hr _ (grpReg_act2 g) (by simp only [Reg.PWM_GRP_ACT2, Reg.PWM_GRP_CNT]; omega)
  have per : t.rd (Reg.PWM_GRP_PER g) = s.rd (Reg.PWM_GRP_PER g) :=
    hr _ (grpReg_per g) (by simp only [Reg.PWM_GRP_PER, Reg.PWM_GRP_CNT]; omega)
  have cfg : t.rd (Reg.PWM_GRP_CFG g) = s.rd (Reg.PWM_GRP_CFG g) :=
    hr _ (grpReg_of_offset (o := 0) rfl (by decide)) (by simp only [Reg.PWM_GRP_CFG, Reg.PWM_GRP_CNT]; omega)
  have stat : t.rd (Reg.PWM_GRP_STAT g) = s.rd (Reg.PWM_GRP_STAT g) :=
    hr _ (grpReg_stat g) (by simp only [Reg.PWM_GRP_STAT, Reg.PWM_GRP_CNT]; omega)
  have dead : t.deadTimes g x = s.deadTimes g x := State.deadTimes_congr (hr _ (grpReg_dtReg g x) (dtReg_below g x).ne)
  have duty : t.actDuty g x = s.actDuty g x := by simp only [State.actDuty, State.fld, act01, act2]
  have half : t.halfF g = s.halfF g := by simp only [State.halfF, State.pwmPer, State.fld, per]
  have edge : t.edgeCfg g x = s.edgeCfg g x := by
    simp only [State.edgeCfg, dead, State.dtMaxF, hd, State.mpwF, hm, State.adaptive, State.bit, cfg, stat]
  funext p
  rw [State.timed, duty, half, edge, State.timed]

theorem State.OnlyPhases.timed_eq {g : Nat} (h : s.OnlyPhases t g) (x : Nat) : t.timed g x f = s.timed g x f :=
  State.timed_congr h.regs (by rw [h.own]) (by rw [h.own]) x

theorem State.onlyPhases_stepPhase (s : State) (g : Fin 8) (f : Phase → Nat → Nat → EdgeCfg → Phase × Nat) (x : Nat) :
    s.OnlyPhases (State.stepPhase g f x s) g :=
  (s.onlyPhases_setGrp g (length_setAt ..)).trans (State.onlyPhases_swallow _ g _)

theorem State.onlyPhases_eachPhase (s : State) (g : Fin 8) (f : Phase → Nat → Nat → EdgeCfg → Phase × Nat) : s.OnlyPhases (s.eachPhase g f) g :=
  State.each_keeps (P := fun u => s.OnlyPhases u g) (.refl s g) fun x _ u hu => hu.trans (u.onlyPhases_stepPhase g f x)

theorem State.phase_swallow (s : State) (g : Fin 8) (n x : Nat) : (s.swallow g n).phase g x = s.phase g x :=
  State.ite_keeps (P := fun u => u.phase g x = s.phase g x) rfl (State.phase_congr (State.grp_congr (State.pwm_pwmEvt _ _) g) x)

/-- After the phases of a group stepped, each is what f gave for it. -/
theorem State.phase_eachPhase (h3 : (s.grp g).ph.length = 3) (hx : x < 3) : (s.eachPhase g f).phase g x = (s.timed g x f (s.phase g x)).1 := by
  have view := State.each_view (P := fun u => s.OnlyPhases u g) (view := fun u k => u.phase g k) (f := State.stepPhase g f)
    (F := fun x p => (s.timed g x f p).1) (l := [0, 1, 2]) (t := s) (by decide) (.refl s g) (fun y _ u hu => hu.trans (u.onlyPhases_stepPhase g f y))
    (fun y hy u hu k => ?_) x
  · exact view.trans (if_pos (by simp; omega))
  · have hy : y < (u.grp g).ph.length := by
      rw [hu.size, h3]
      simp at hy
      omega
    refine (State.phase_swallow _ g _ k).trans ?_
    split
    · next e => rw [e, State.phase_setPhase_same _ _ hy, hu.timed_eq]
    · next e => exact u.phase_setPhase_other _ e

/-! ## Steps of a valley -/

/-- t is s but for the registers of l and for context fields of group g other than its index and a start that waits; the group runs as before. -/
structure State.ValleyStep (s t : State) (g : Nat) (l : List Nat) : Prop where
  memory : s.SameMemory t
  regs : ∀ a, grpReg g a → a ∉ l → t.rd a = s.rd a
  runs : t.pwmRun g = s.pwmRun g
  start : (t.grp g).startPend = (s.grp g).startPend
  index : (t.grp g).j = (s.grp g).j
  others : ∀ k, k ≠ g → t.grp k = s.grp k

theorem State.ValleyStep.refl (s : State) (g : Nat) (l : List Nat) : s.ValleyStep s g l :=
  ⟨⟨rfl, rfl, rfl⟩, fun _ _ _ => rfl, rfl, rfl, rfl, fun _ _ => rfl⟩

theorem State.ValleyStep.trans {g : Nat} (h : s.ValleyStep t g l) (k : t.ValleyStep u g m) : s.ValleyStep u g (l ++ m) where
  memory := h.memory.trans k.memory
  regs a ha hm := (k.regs a ha fun hk => hm (by simp [hk])).trans (h.regs a ha fun hl => hm (by simp [hl]))
  runs := k.runs.trans h.runs
  start := k.start.trans h.start
  index := k.index.trans h.index
  others n hn := (k.others n hn).trans (h.others n hn)

theorem State.Beside.valleyStep (h : s.Beside t) (g : Fin 8) : s.ValleyStep t g [] where
  memory := h.memory
  regs a ha _ := h.regs a (ha.pwm g.isLt)
  runs := congrArg (wBit · 31) (h.regs _ ((grpReg_stat g).pwm g.isLt))
  start := by rw [State.grp_congr h.pwm]
  index := by rw [State.grp_congr h.pwm]
  others k _ := State.grp_congr h.pwm k

theorem State.OnlyPhases.valleyStep {g : Nat} (h : s.OnlyPhases t g) : s.ValleyStep t g [Reg.PWM_GRP_CNT g] where
  memory := h.memory
  regs a ha hc := h.regs a ha (by simpa using hc)
  runs := congrArg (wBit · 31) (h.regs _ (grpReg_stat g) (by simp only [Reg.PWM_GRP_STAT, Reg.PWM_GRP_CNT]; omega))
  start := by rw [h.own]
  index := by rw [h.own]
  others := h.others

/-- A change of the context that keeps the index and a start that waits. -/
theorem State.valleyStep_setGrp (s : State) {g : Nat} {c : PwmGrp} (hs : c.startPend = (s.grp g).startPend) (hj : c.j = (s.grp g).j) (l : List Nat) :
    s.ValleyStep (s.setGrp g c) g l where
  memory := ⟨rfl, rfl, rfl⟩
  regs _ _ _ := rfl
  runs := rfl
  start := by rw [State.grp_setGrp_same, hs]
  index := by rw [State.grp_setGrp_same, hj]
  others _ := s.grp_setGrp_other _

/-- A change of registers that leaves whether the group runs. -/
theorem State.OnlyRegs.valleyStep {g : Nat} (h : s.OnlyRegs t l) (hr : t.pwmRun g = s.pwmRun g) : s.ValleyStep t g l where
  memory := h.sameMemory
  regs a _ hl := h.regs a hl
  runs := hr
  start := by rw [State.grp_congr h.pwm_eq]
  index := by rw [State.grp_congr h.pwm_eq]
  others k _ := State.grp_congr h.pwm_eq k

/-- A status bit other than RUN. -/
theorem State.valleyStep_setStat (s : State) (g : Nat) (hi : i < 32) (h : 31 ≠ i) (b : Bool) :
    s.ValleyStep (s.setBit (Reg.PWM_GRP_STAT g) i b) g [Reg.PWM_GRP_STAT g] :=
  ((State.OnlyRegs.refl s _).wr (by simp) _).valleyStep (s.flag_setBit g g hi b fun _ => h)

/-- The dead-time registers of group g. -/
def dtRegs (g : Nat) : List Nat := [0, 1, 2].map (dtReg g)

theorem dtRegs_above {g : Nat} (h : a ∈ dtRegs g) : Reg.PWM_GRP_STAT g < a := by
  obtain ⟨x, -, rfl⟩ := List.mem_map.1 h
  exact dtReg_above g x

theorem State.onlyRegs_dtAllMax (s : State) (g : Nat) : s.OnlyRegs (s.dtAllMax g) (dtRegs g) :=
  State.each_keeps (P := fun u => s.OnlyRegs u (dtRegs g)) (.refl s _) fun _ hx _ hu => hu.wr (List.mem_map_of_mem hx) _

theorem State.valleyStep_dtAllMax (s : State) (g : Nat) : s.ValleyStep (s.dtAllMax g) g (dtRegs g) :=
  (s.onlyRegs_dtAllMax g).valleyStep (congrArg (wBit · 31) ((s.onlyRegs_dtAllMax g).regs _ fun h => (dtRegs_above h).ne rfl))

theorem wFld_word_halves {m n : Nat} (hm : m < 65536) (hn : n < 65536) : wFld (word (m * 65536 + n)) 15 0 = n ∧ wFld (word (m * 65536 + n)) 31 16 = m := by
  have fits : (word (m * 65536 + n)).toNat = m * 65536 + n := (BitVec.toNat_ofNat _ _).trans (Nat.mod_eq_of_lt (by omega))
  rw [wFld, wFld, fits, Nat.shiftRight_eq_div_pow, Nat.shiftRight_eq_div_pow]
  omega

theorem State.deadTimes_dtAllMax (s : State) (g : Nat) (hx : x < 3) : (s.dtAllMax g).deadTimes g x = ⟨s.dtMaxF g, s.dtMaxF g⟩ := by
  have lt : s.dtMaxF g < 65536 := by
    have : wFld (s.grp g).dt 23 16 < 256 := wFld_lt _ 23 16
    rw [State.dtMaxF]
    omega
  have written : (s.dtAllMax g).rd (dtReg g x) = word (s.dtMaxF g * 65536 + s.dtMaxF g) :=
    State.each_reaches (P := fun _ => True) (Q := fun u => u.rd (dtReg g x) = word (s.dtMaxF g * 65536 + s.dtMaxF g)) (x := x)
      (fun u _ => u.rd_wr_same _ _) (by simp; omega) trivial (fun _ _ _ _ => trivial) fun y _ u hu => by
        by_cases e : dtReg g x = dtReg g y
        · rw [e, State.rd_wr_same]
        · exact (State.rd_wr_other _ _ e).trans hu
  obtain ⟨low, high⟩ := wFld_word_halves lt lt
  rw [State.deadTimes, State.fld, State.fld, written, low, high]

/-! ## An update point (R131, R132, R142) -/

theorem not_dtRegs {g : Nat} (h : a ≤ Reg.PWM_GRP_STAT g) : a ∉ dtRegs g := fun hm => Nat.not_lt.2 h (dtRegs_above hm)

theorem State.grp_latchGrp (s : State) (g : Nat) : (s.latchGrp g).grp g
    = { s.grp g with await := s.bit (Reg.PWM_GRP_CTRL g) 31, dt := s.rd (Reg.PWM_GRP_DT g), adj := s.rd (Reg.PWM_GRP_DTADJ g),
                     minpw := s.fld (Reg.PWM_GRP_MINPW g) 7 0 } := by
  unfold State.latchGrp
  dsimp only
  split
  · exact s.grp_setGrp_same g _
  · exact (State.grp_congr (State.onlyRegs_dtAllMax _ g).pwm_eq g).trans (s.grp_setGrp_same g _)

/-- s with the registers of group g latched for its context. -/
def State.latched (s : State) (g : Nat) : State :=
  s.setGrp g { s.grp g with await := s.bit (Reg.PWM_GRP_CTRL g) 31, dt := s.rd (Reg.PWM_GRP_DT g), adj := s.rd (Reg.PWM_GRP_DTADJ g),
                            minpw := s.fld (Reg.PWM_GRP_MINPW g) 7 0 }

theorem State.valleyStep_latchGrp (s : State) (g : Nat) : s.ValleyStep (s.latchGrp g) g (dtRegs g) := by
  have latched : ∀ l, s.ValleyStep (s.latched g) g l := s.valleyStep_setGrp rfl rfl
  exact State.ite_keeps (P := fun u => s.ValleyStep u g (dtRegs g)) (latched _) ((latched []).trans (State.valleyStep_dtAllMax _ g))

/-- s after group g looked at its shadow set, before it takes it. -/
def State.shadowSeen (s : State) (g : Nat) : State :=
  (s.setBit (Reg.PWM_GRP_STAT g) 29 false).setGrp g { s.grp g with blank := !s.bit (Reg.PWM_GRP_STAT g) 30 }

theorem State.takeShadow_takes {g : Nat} (hv : s.bit (Reg.PWM_GRP_STAT g) 30 = true) (h : (s.grp g).await = false) : s.takeShadow g
    = ((s.shadowSeen g).wr (Reg.PWM_GRP_ACT01 g) (s.rd (Reg.PWM_GRP_SHDW01 g))).wr (Reg.PWM_GRP_ACT2 g) (s.rd (Reg.PWM_GRP_SHDW2 g)) := by
  have act01 : (s.shadowSeen g).rd (Reg.PWM_GRP_SHDW01 g) = s.rd (Reg.PWM_GRP_SHDW01 g) :=
    State.rd_wr_other _ _ (by simp only [Reg.PWM_GRP_SHDW01, Reg.PWM_GRP_STAT]; omega)
  have act2 : (s.shadowSeen g).rd (Reg.PWM_GRP_SHDW2 g) = s.rd (Reg.PWM_GRP_SHDW2 g) :=
    State.rd_wr_other _ _ (by simp only [Reg.PWM_GRP_SHDW2, Reg.PWM_GRP_STAT]; omega)
  rw [← act01, ← act2]
  exact if_pos (by simp [hv, h])

theorem State.takeShadow_waits {g : Nat} (hl : s.bit (Reg.PWM_GRP_STAT g) 29 = false) (h : (s.grp g).await = true) :
    s.takeShadow g = s.shadowSeen g := if_neg (by simp [hl, h])

theorem State.valleyStep_shadowSeen (s : State) (g : Nat) : s.ValleyStep (s.shadowSeen g) g [Reg.PWM_GRP_STAT g] := by
  unfold State.shadowSeen
  exact (s.valleyStep_setStat g (i := 29) (by decide) (by decide) false).trans (State.valleyStep_setGrp _ (by rfl) (by rfl) [])

theorem State.valleyStep_takeShadow (s : State) (g : Nat) :
    s.ValleyStep (s.takeShadow g) g [Reg.PWM_GRP_STAT g, Reg.PWM_GRP_ACT01 g, Reg.PWM_GRP_ACT2 g] := by
  have seen := s.valleyStep_shadowSeen g
  refine State.ite_keeps (P := fun u => s.ValleyStep u g _) (seen.trans (m := [Reg.PWM_GRP_ACT01 g, Reg.PWM_GRP_ACT2 g]) ?_)
    (seen.trans (.refl _ g [Reg.PWM_GRP_ACT01 g, Reg.PWM_GRP_ACT2 g]))
  refine (((State.OnlyRegs.refl _ _).wr (by simp) _).wr (by simp) _).valleyStep (congrArg (wBit · 31) ?_)
  rw [State.rd_wr_other _ _ (by simp only [Reg.PWM_GRP_STAT, Reg.PWM_GRP_ACT2]; omega),
    State.rd_wr_other _ _ (by simp only [Reg.PWM_GRP_STAT, Reg.PWM_GRP_ACT01]; omega)]

/-- The context of group g after it looked at its shadow set. -/
theorem State.grp_takeShadow (s : State) (g : Nat) : (s.takeShadow g).grp g = { s.grp g with blank := !s.bit (Reg.PWM_GRP_STAT g) 30 } :=
  State.ite_keeps (P := fun u => u.grp g = _) (s.grp_setGrp_same g _) (s.grp_setGrp_same g _)

/-- s after what an update point of group g does before the period begins. -/
def State.updated (s : State) (g : Nat) : State := (s.latchGrp g).takeShadow g

theorem State.valleyStep_updated (s : State) (g : Nat) :
    s.ValleyStep (s.updated g) g (dtRegs g ++ [Reg.PWM_GRP_STAT g, Reg.PWM_GRP_ACT01 g, Reg.PWM_GRP_ACT2 g]) :=
  (s.valleyStep_latchGrp g).trans (State.valleyStep_takeShadow _ g)

theorem State.dtMaxF_updated (s : State) (g : Nat) : (s.updated g).dtMaxF g = s.fld (Reg.PWM_GRP_DT g) 23 16 * 32 := by
  rw [State.dtMaxF, State.updated, State.grp_takeShadow, State.grp_latchGrp]
  rfl

/-- A valid shadow set that need not wait for LOAD_ALL becomes active (R131). -/
theorem State.updated_active {g : Nat} (hv : s.bit (Reg.PWM_GRP_STAT g) 30 = true) (hc : s.bit (Reg.PWM_GRP_CTRL g) 31 = false) :
    (s.updated g).rd (Reg.PWM_GRP_ACT01 g) = s.rd (Reg.PWM_GRP_SHDW01 g) ∧ (s.updated g).rd (Reg.PWM_GRP_ACT2 g) = s.rd (Reg.PWM_GRP_SHDW2 g) := by
  have kept := (s.valleyStep_latchGrp g).regs
  have stat := kept _ (grpReg_stat g) (not_dtRegs le_rfl)
  rw [State.updated, State.takeShadow_takes ((congrArg (wBit · 30) stat).trans hv) ((congrArg PwmGrp.await (s.grp_latchGrp g)).trans hc)]
  have below01 : Reg.PWM_GRP_SHDW01 g ≤ Reg.PWM_GRP_STAT g := by simp only [Reg.PWM_GRP_SHDW01, Reg.PWM_GRP_STAT]; omega
  have below2 : Reg.PWM_GRP_SHDW2 g ≤ Reg.PWM_GRP_STAT g := by simp only [Reg.PWM_GRP_SHDW2, Reg.PWM_GRP_STAT]; omega
  have apart : Reg.PWM_GRP_ACT01 g ≠ Reg.PWM_GRP_ACT2 g := by simp only [Reg.PWM_GRP_ACT01, Reg.PWM_GRP_ACT2]; omega
  refine ⟨?_, (State.rd_wr_same _ _ _).trans (kept _ (grpReg_shdw2 g) (not_dtRegs below2))⟩
  exact (State.rd_wr_other _ _ apart).trans ((State.rd_wr_same _ _ _).trans (kept _ (grpReg_shdw01 g) (not_dtRegs below01)))

/-- A set that awaits LOAD_ALL leaves the active duties (R132). -/
theorem State.updated_waits {g : Nat} (hl : s.bit (Reg.PWM_GRP_STAT g) 29 = false) (hc : s.bit (Reg.PWM_GRP_CTRL g) 31 = true) :
    (s.updated g).rd (Reg.PWM_GRP_ACT01 g) = s.rd (Reg.PWM_GRP_ACT01 g) := by
  have kept := (s.valleyStep_latchGrp g).regs
  have stat := kept _ (grpReg_stat g) (not_dtRegs le_rfl)
  rw [State.updated, State.takeShadow_waits ((congrArg (wBit · 29) stat).trans hl) ((congrArg PwmGrp.await (s.grp_latchGrp g)).trans hc)]
  have below : Reg.PWM_GRP_ACT01 g < Reg.PWM_GRP_STAT g := by simp only [Reg.PWM_GRP_ACT01, Reg.PWM_GRP_STAT]; omega
  exact ((State.valleyStep_shadowSeen _ g).regs _ (grpReg_act01 g) (by simpa using below.ne)).trans (kept _ (grpReg_act01 g) (not_dtRegs below.le))

/-! ## A period begins (R133, R137, R139) -/

/-- s with the new period of group g marked, before its phases act. -/
def State.opened (s : State) (g v : Nat) : State :=
  (s.setBit (Reg.PWM_GRP_STAT g) 27 (s.tripped g)).setGrp g { s.grp g with valley := v, down := false, cutDone := s.tripped g }

theorem State.onlyPhases_killGrp (s : State) (g : Nat) : s.OnlyPhases (s.killGrp g) g := s.onlyPhases_setGrp g (List.length_map ..)

theorem State.onlyPhases_newPeriod (s : State) (g : Fin 8) (v : Nat) : (s.opened g v).OnlyPhases (s.newPeriod g v) g := by
  refine State.ite_keeps (P := fun u => (s.opened g v).OnlyPhases u g) ?_ (State.ite_keeps (P := fun u => (s.opened g v).OnlyPhases u g) ?_ ?_)
  · exact (State.onlyPhases_killGrp _ g).trans (State.onlyPhases_wr _ g _)
  · exact State.onlyPhases_killGrp _ g
  · exact State.onlyPhases_eachPhase _ g fun p cmp h e => p.valley v cmp h e

theorem State.valleyStep_opened (s : State) (g v : Nat) : s.ValleyStep (s.opened g v) g [Reg.PWM_GRP_STAT g] := by
  unfold State.opened
  exact (s.valleyStep_setStat g (i := 27) (by decide) (by decide) _).trans (State.valleyStep_setGrp _ (by rfl) (by rfl) [])

theorem State.valleyStep_newPeriod (s : State) (g : Fin 8) (v : Nat) :
    s.ValleyStep (s.newPeriod g v) g [Reg.PWM_GRP_STAT g, Reg.PWM_GRP_CNT g] :=
  (s.valleyStep_opened g v).trans (s.onlyPhases_newPeriod g v).valleyStep

/-- s with a new period of group g from tick n on, and the strobe of an update point. -/
def State.periodAt (s : State) (g : Fin 8) (tick n : Nat) (upd : Bool) : State :=
  if upd then (s.newPeriod g (n * 32)).strobe g tick else s.newPeriod g (n * 32)

theorem State.valleyStep_periodAt (s : State) (g : Fin 8) (tick n : Nat) (upd : Bool) :
    s.ValleyStep (s.periodAt g tick n upd) g [Reg.PWM_GRP_STAT g, Reg.PWM_GRP_CNT g] :=
  State.ite_keeps (P := fun u => s.ValleyStep u g [Reg.PWM_GRP_STAT g, Reg.PWM_GRP_CNT g])
    ((s.valleyStep_newPeriod g _).trans ((State.beside_strobe _ g tick).valleyStep g)) (s.valleyStep_newPeriod g _)

theorem State.grp_periodAt (s : State) (g : Fin 8) (tick n : Nat) (upd : Bool) :
    ((s.periodAt g tick n upd).grp g).valley = n * 32 ∧ ((s.periodAt g tick n upd).grp g).down = false := by
  have strobed : (s.periodAt g tick n upd).grp g = (s.newPeriod g (n * 32)).grp g :=
    State.ite_keeps (P := fun u => u.grp g = (s.newPeriod g (n * 32)).grp g) (State.grp_congr (State.beside_strobe _ g tick).pwm g) rfl
  rw [strobed, (s.onlyPhases_newPeriod g _).own, State.opened, State.grp_setGrp_same]
  exact ⟨rfl, rfl⟩

/-! ## The cases of a valley (R127 to R130) -/

/-- s as group g takes valley j in tick n, before the inputs deliver; a group that starts begins to run. -/
def State.arrived (s : State) (g j n : Nat) (start upd : Bool) : State :=
  let s := if start then s.setBit (Reg.PWM_GRP_STAT g) 31 true else s
  s.setGrp g { s.grp g with startPend := false, j := j, upd := if upd then some n else (s.grp g).upd }

/-- s after the update of a period's duties; a group that starts has every dead time at DT_MAX. -/
def State.prepared (s : State) (g : Nat) (start upd : Bool) : State :=
  let s := if upd then s.updated g else s
  if start then s.dtAllMax g else s

theorem carrierValley_none {tick : Nat} {y z w : DsmLine} (h : s.tb.running = false ∨ s.valleyIndex g tick = none) : carrierValley g tick y z w s = s := by
  unfold carrierValley
  split
  · rfl
  · next hj => exact if_pos (by simp [h.resolve_right (by simp [hj])])

/-- s as group g takes valley j, with the results of its delta-sigma inputs. -/
def State.valleyTaken (s : State) (g : Fin 8) (j tick : Nat) (y z w : DsmLine) (upd : Bool) : State :=
  (s.arrived g j (s.tick0 + tick) (!s.pwmRun g) upd).dsmResults g y z w (s.tick0 + tick)

/-- s with a period of group g begun at valley j. -/
def State.periodBegun (s : State) (g : Fin 8) (j tick : Nat) (y z w : DsmLine) (upd : Bool) : State :=
  ((s.valleyTaken g j tick y z w upd).prepared g (!s.pwmRun g) upd).periodAt g tick (s.tick0 + tick) upd

/-- A group that runs and need not stop, or whose start is due, begins a period. -/
theorem carrierValley_begins {tick j : Nat} (hv : s.valleyIndex g tick = some j) (ht : s.tb.running = true)
    (hgo : s.pwmRun g = true ∨ ((s.grp g).startPend && j % s.pwmN g == 0 && decide ((s.grp g).startAt < s.tick0 + tick)) = true)
    (hstop : (s.pwmRun g && (s.grp g).stopPend && decide ((s.grp g).stopAt < s.tick0 + tick)) = false) (y z w : DsmLine) :
    carrierValley g tick y z w s = s.periodBegun g j tick y z w (j % s.pwmN g == 0) := by
  have goes : (!s.pwmRun g && !((s.grp g).startPend && j % s.pwmN g == 0 && decide ((s.grp g).startAt < s.tick0 + tick))) = false := by
    rcases hgo with h | h <;> simp [h]
  unfold carrierValley
  rw [hv]
  exact (if_neg (by simp [ht])).trans ((if_neg (Bool.eq_false_iff.1 goes)).trans (if_neg (Bool.eq_false_iff.1 hstop)))

theorem carrierValley_halts {tick j : Nat} (hv : s.valleyIndex g tick = some j) (ht : s.tb.running = true) (hr : s.pwmRun g = true)
    (hp : (s.grp g).stopPend = true) (ha : (s.grp g).stopAt < s.tick0 + tick) (y z w : DsmLine) :
    carrierValley g tick y z w s = (s.dsmResults g y z w (s.tick0 + tick)).haltGrp g (j % s.pwmN g == 0) := by
  unfold carrierValley
  rw [hv]
  exact (if_neg (by simp [ht])).trans ((if_neg (by simp [hr])).trans (if_pos (by simp [hr, hp, ha])))

theorem State.valleyStep_prepared (s : State) (g : Nat) (start upd : Bool) :
    s.ValleyStep (s.prepared g start upd) g (dtRegs g ++ [Reg.PWM_GRP_STAT g, Reg.PWM_GRP_ACT01 g, Reg.PWM_GRP_ACT2 g] ++ dtRegs g) := by
  unfold State.prepared
  refine State.ValleyStep.trans (t := if upd then s.updated g else s) ?_ ?_
  · exact State.ite_keeps (P := fun u => s.ValleyStep u g _) (s.valleyStep_updated g) (.refl s g _)
  · exact State.ite_keeps (P := fun u => State.ValleyStep _ u g _) (State.valleyStep_dtAllMax _ g) (.refl _ g _)

/-- t is s with valley j of group g taken, its inputs' results aside. -/
structure State.Arrived (s t : State) (g j : Nat) : Prop where
  runs : t.pwmRun g = true
  start : (t.grp g).startPend = false
  index : (t.grp g).j = j
  others : ∀ k, k ≠ g → t.grp k = s.grp k
  memory : s.SameMemory t
  regs : ∀ a, grpReg g a → a ≠ Reg.PWM_GRP_STAT g ∨ s.pwmRun g = true → t.rd a = s.rd a

theorem State.arrived_arrived (s : State) (g j n : Nat) (upd : Bool) : s.Arrived (s.arrived g j n (!s.pwmRun g) upd) g j := by
  have context (t : State) (c : PwmGrp) : (t.setGrp g c).grp g = c := t.grp_setGrp_same g c
  cases h : s.pwmRun g with
  | true =>
    exact ⟨h, congrArg PwmGrp.startPend (context _ _), congrArg PwmGrp.j (context _ _), fun k hk => s.grp_setGrp_other _ hk, ⟨rfl, rfl, rfl⟩,
      fun _ _ _ => rfl⟩
  | false =>
    exact ⟨State.bit_setBit_same s _ (by decide) true, congrArg PwmGrp.startPend (context _ _), congrArg PwmGrp.j (context _ _),
      fun k hk => State.grp_setGrp_other _ _ hk, ⟨rfl, rfl, rfl⟩, fun a _ ha => State.rd_wr_other _ _ (ha.resolve_right (by simp [h]))⟩

theorem State.arrived_valleyTaken (s : State) (g : Fin 8) (j tick : Nat) (y z w : DsmLine) (upd : Bool) : s.Arrived (s.valleyTaken g j tick y z w upd) g j := by
  have arrived := s.arrived_arrived g j (s.tick0 + tick) upd
  have step := (State.beside_dsmResults (s.arrived g j (s.tick0 + tick) (!s.pwmRun g) upd) g y z w (s.tick0 + tick)).valleyStep g
  exact ⟨step.runs.trans arrived.runs, step.start.trans arrived.start, step.index.trans arrived.index,
    fun k hk => (step.others k hk).trans (arrived.others k hk), arrived.memory.trans step.memory,
    fun a ha h => (step.regs a ha (by simp)).trans (arrived.regs a ha h)⟩

/-- What a group that begins a period has then. -/
theorem State.periodBegun_frame (s : State) (g : Fin 8) (j tick : Nat) (y z w : DsmLine) (upd : Bool) :
    (s.periodBegun g j tick y z w upd).pwmRun g = true ∧ ((s.periodBegun g j tick y z w upd).grp g).startPend = false
      ∧ ((s.periodBegun g j tick y z w upd).grp g).j = j ∧ (∀ k, k ≠ g.val → (s.periodBegun g j tick y z w upd).grp k = s.grp k)
      ∧ s.SameMemory (s.periodBegun g j tick y z w upd) := by
  have arrived := s.arrived_valleyTaken g j tick y z w upd
  have step := ((s.valleyTaken g j tick y z w upd).valleyStep_prepared g (!s.pwmRun g) upd).trans
    (State.valleyStep_periodAt _ g tick (s.tick0 + tick) upd)
  exact ⟨step.runs.trans arrived.runs, step.start.trans arrived.start, step.index.trans arrived.index,
    fun k hk => (step.others k hk).trans (arrived.others k hk), arrived.memory.trans step.memory⟩

/-- A group that starts begins with every dead time at DT_MAX (R135). -/
theorem State.periodBegun_deadTimes (hr : s.pwmRun g = false) (j tick : Nat) (y z w : DsmLine) (hx : x < 3) :
    (s.periodBegun g j tick y z w true).deadTimes g x = ⟨s.fld (Reg.PWM_GRP_DT g) 23 16 * 32, s.fld (Reg.PWM_GRP_DT g) 23 16 * 32⟩ := by
  have apart : Reg.PWM_GRP_DT g ≠ Reg.PWM_GRP_STAT g := by
    simp only [Reg.PWM_GRP_DT, Reg.PWM_GRP_STAT]
    omega
  have limit : (s.valleyTaken g j tick y z w true).fld (Reg.PWM_GRP_DT g) 23 16 = s.fld (Reg.PWM_GRP_DT g) 23 16 :=
    congrArg (wFld · 23 16) ((s.arrived_valleyTaken g j tick y z w true).regs _ (grpReg_dt g) (.inl apart))
  have stands := (State.valleyStep_periodAt ((s.valleyTaken g j tick y z w true).prepared g (!s.pwmRun g) true) g tick (s.tick0 + tick) true).regs _
    (grpReg_dtReg g x) (by simp [(dtReg_above g x).ne', (dtReg_below g x).ne])
  refine (State.deadTimes_congr stands).trans ?_
  rw [← limit, ← State.dtMaxF_updated, hr]
  exact State.deadTimes_dtAllMax _ g hx

/-- An active duty of a running group that begins a period is what an update point gives, or stands. -/
theorem State.periodBegun_active (hr : s.pwmRun g = true) (j tick : Nat) (y z w : DsmLine) (upd : Bool)
    (ha : a = Reg.PWM_GRP_ACT01 g ∨ a = Reg.PWM_GRP_ACT2 g) : (s.periodBegun g j tick y z w upd).rd a
      = if upd then ((s.valleyTaken g j tick y z w upd).updated g).rd a else (s.valleyTaken g j tick y z w upd).rd a := by
  refine ((State.valleyStep_periodAt _ g tick (s.tick0 + tick) upd).regs a ?_ ?_).trans ?_
  · exact ha.elim (fun e => e ▸ grpReg_act01 g) (fun e => e ▸ grpReg_act2 g)
  · rcases ha with rfl | rfl <;> simp [Reg.PWM_GRP_STAT, Reg.PWM_GRP_ACT01, Reg.PWM_GRP_ACT2, Reg.PWM_GRP_CNT]
  · rw [hr]
    exact apply_ite (State.rd · a) _ _ _

/-! ## The group stops (R130) -/

/-- s with group g stopped at its valley, before its axes hold. -/
def State.halted (s : State) (g : Nat) : State :=
  let w := wSetBit (wSetBit (wSetBit (s.rd (Reg.PWM_GRP_STAT g)) 31 false) 30 false) 27 false
  (s.wr (Reg.PWM_GRP_STAT g) (if (s.grp g).trStop then wSetBit w 13 true else w)).setGrp g
    { held := (s.grp g).held, ph := (s.grp g).ph.map Phase.kill }

theorem State.haltGrp_eq (s : State) (g : Fin 8) (upd : Bool) : s.haltGrp g upd = if upd then (s.halted g).stopHolds g else s.halted g := rfl

theorem State.halted_flag (s : State) (g : Nat) (hi : i = 30 ∨ i = 31) : (s.halted g).bit (Reg.PWM_GRP_STAT g) i = false := by
  have cleared (w : Word) : wBit (wSetBit (wSetBit (wSetBit w 31 false) 30 false) 27 false) i = false := by
    rcases hi with rfl | rfl <;> simp [wBit_wSetBit_same, wBit_wSetBit_other]
  refine (congrArg (wBit · i) (s.rd_wr_same _ _)).trans ?_
  split
  · exact (wBit_wSetBit_other _ (by omega) true).trans (cleared _)
  · exact cleared _

theorem State.grp_halted (s : State) (g : Nat) : (s.halted g).grp g = { held := (s.grp g).held, ph := (s.grp g).ph.map Phase.kill } :=
  State.grp_setGrp_same _ g _

theorem State.onlyPwm_halted (s : State) (g : Fin 8) : s.OnlyPwm (s.halted g) stopRegs :=
  ((State.OnlyPwm.refl s _).wr (mem_stopRegs_stat g.isLt) _).setGrp g _

/-- What a stop at a valley leaves. -/
theorem State.haltGrp_spec (s : State) (g : Fin 8) (upd : Bool) : (∀ i, i = 30 ∨ i = 31 → (s.haltGrp g upd).bit (Reg.PWM_GRP_STAT g) i = false)
    ∧ ((s.haltGrp g upd).grp g).ph = (s.grp g).ph.map Phase.kill ∧ (∀ k, k ≠ g.val → (s.haltGrp g upd).grp k = s.grp k)
    ∧ s.SameMemory (s.haltGrp g upd) := by
  have others : ∀ k, k ≠ g.val → (s.halted g).grp k = s.grp k := fun _ => State.grp_setGrp_other _ _
  rw [State.haltGrp_eq]
  cases upd with
  | true =>
    have rests : ((s.halted g).holding g).pwmRun g = false :=
      (congrArg (wBit · 31) (State.rd_holding _ g _)).trans (s.halted_flag g (.inr rfl))
    have stat : ((s.halted g).stopHolds g).rd (Reg.PWM_GRP_STAT g) = (s.halted g).rd (Reg.PWM_GRP_STAT g) :=
      (((s.halted g).held_stopHolds g).stopped rests).trans (State.rd_holding _ g _)
    refine ⟨fun i hi => (congrArg (wBit · i) stat).trans (s.halted_flag g hi), ?_, fun k hk => ?_, ((s.onlyPwm_halted g).stopHolds g).sameMemory⟩
    · exact (congrArg PwmGrp.ph (State.grp_stopHolds _ g)).trans (congrArg PwmGrp.ph (s.grp_halted g))
    · exact (State.grp_stopHolds_other _ hk).trans (others k hk)
  | false => exact ⟨fun i hi => s.halted_flag g hi, congrArg PwmGrp.ph (s.grp_halted g), others, (s.onlyPwm_halted g).sameMemory⟩

/-! ## The peak (R127, R137) -/

/-- s with the carrier of group g turned down. -/
def State.turned (s : State) (g : Nat) : State := s.setGrp g { s.grp g with down := true }

theorem carrierPeak_idle {tick : Nat} (h : (s.tick0 + tick) * 32 ≠ (s.grp g).valley + s.halfF g) : carrierPeak g tick s = s := if_pos (by simp [h])

theorem carrierPeak_turns {tick : Nat} (hr : s.pwmRun g = true) (ht : s.tb.running = true) (hd : (s.grp g).down = false)
    (h : (s.tick0 + tick) * 32 = (s.grp g).valley + s.halfF g) :
    carrierPeak g tick s = if s.bit (Reg.PWM_GRP_STAT g) 27 || (s.grp g).blank then s.turned g else (s.turned g).eachPhase g Phase.peak :=
  if_neg (by simp [hr, ht, hd, h])

theorem Phase.peak_falls {p : Phase} {cmp h : Nat} {e : EdgeCfg} (hp : p.cmd = true ∨ p.rise = true) (h0 : 2 * (h - cmp) ≠ 0)
    (hl : e.dt.f + e.mpw ≤ 2 * (h - cmp)) : (p.peak cmp h e).1.fall = true := by
  unfold Phase.peak
  dsimp only
  rw [if_neg (by rcases hp with hp | hp <;> simp [hp, h0]), if_neg (by omega)]

theorem Phase.peak_swallows {p : Phase} {cmp h : Nat} {e : EdgeCfg} (hl : 2 * (h - cmp) < e.dt.f + e.mpw) : (p.peak cmp h e).1 = p := by
  unfold Phase.peak
  dsimp only
  rw [if_pos hl]
  split <;> rfl

/-- Turning the carrier leaves each phase and what it is timed by. -/
theorem State.turned_timed (s : State) (g x : Nat) (f : Phase → Nat → Nat → EdgeCfg → Phase × Nat) :
    (s.turned g).timed g x f ((s.turned g).phase g x) = s.timed g x f (s.phase g x) := by
  have grp : (s.turned g).grp g = { s.grp g with down := true } := s.grp_setGrp_same g _
  have phase : (s.turned g).phase g x = s.phase g x := by rw [State.phase, grp, State.phase]
  have timed : (s.turned g).timed g x f = s.timed g x f :=
    State.timed_congr (s := s) (t := s.turned g) (fun _ _ _ => rfl) (by rw [grp]) (by rw [grp]) x
  rw [phase, timed]

/-- Settles O31: a valley is a chain of steps of which each leaves the memories and the other groups, and a peak is one step of each phase. -/
theorem pwmCarrier : Obligations.PwmCarrier := by
  unfold Obligations.PwmCarrier
  refine ⟨fun s g tick j y z w hs hv ht => ⟨fun hr hp ha hj => ?_, fun hr hstop => ?_, fun hr hp ha => ?_⟩,
    fun s g tick hs hr ht hd h => ?_, fun s g tick h => congrArg Host.Outcome.next (carrierPeak_idle h),
    fun s g tick y z w h => congrArg Host.Outcome.next (carrierValley_none h)⟩
  -- a waiting start begins
  · obtain ⟨runs, start, index, others, memory⟩ := s.periodBegun_frame g j tick y z w (j % s.pwmN g == 0)
    refine ⟨_, congrArg Host.Outcome.next (carrierValley_begins hv ht (.inr (by simp [hp, hj, ha])) (by simp [hr]) y z w), runs, start, index,
      fun x hx => ?_, others, memory⟩
    rw [hj]
    exact State.periodBegun_deadTimes hr j tick y z w hx
  -- a running group begins its next period
  · obtain ⟨runs, -, index, others, memory⟩ := s.periodBegun_frame g j tick y z w (j % s.pwmN g == 0)
    obtain ⟨valley, down⟩ := State.grp_periodAt ((s.valleyTaken g j tick y z w (j % s.pwmN g == 0)).prepared g (!s.pwmRun g) (j % s.pwmN g == 0)) g tick
      (s.tick0 + tick) (j % s.pwmN g == 0)
    have act01 := State.periodBegun_active hr j tick y z w (j % s.pwmN g == 0) (.inl rfl)
    have act2 := State.periodBegun_active hr j tick y z w (j % s.pwmN g == 0) (.inr rfl)
    have same := fun {a} (ha : grpReg g a) => (s.arrived_valleyTaken g j tick y z w (j % s.pwmN g == 0)).regs a ha (.inr hr)
    have flag := fun i => congrArg (wBit · i) (same (grpReg_stat g))
    have awaits := congrArg (wBit · 31) (same (grpReg_ctrl g))
    refine ⟨_, congrArg Host.Outcome.next (carrierValley_begins hv ht (.inl hr) ?_ y z w), runs, index, valley, down, fun hj => ?_, fun hj hval hc => ?_,
      fun hj _ hl hc => ?_, others, memory⟩
    · rcases hstop with h | h <;> simp [h]
    · rw [act01, act2, if_neg (by simpa using hj), if_neg (by simpa using hj)]
      exact ⟨same (grpReg_act01 g), same (grpReg_act2 g)⟩
    · obtain ⟨new01, new2⟩ := State.updated_active ((flag 30).trans hval) (awaits.trans hc)
      rw [act01, act2, if_pos (by simpa using hj), if_pos (by simpa using hj)]
      exact ⟨new01.trans (same (grpReg_shdw01 g)), new2.trans (same (grpReg_shdw2 g))⟩
    · rw [act01, if_pos (by simpa using hj)]
      exact (State.updated_waits ((flag 29).trans hl) (awaits.trans hc)).trans (same (grpReg_act01 g))
  -- a running group stops
  · have measured := s.beside_dsmResults g y z w (s.tick0 + tick)
    obtain ⟨flags, killed, others, memory⟩ := (s.dsmResults g y z w (s.tick0 + tick)).haltGrp_spec g (j % s.pwmN g == 0)
    have grp := State.grp_congr measured.pwm
    refine ⟨_, congrArg Host.Outcome.next (carrierValley_halts hv ht hr hp ha y z w), flags 31 (.inr rfl), flags 30 (.inl rfl), fun x _ => ?_,
      fun k hk => (others k hk).trans (grp k), measured.memory.trans memory⟩
    rw [State.phase_killed (s := s) (killed.trans (by rw [grp]))]
    exact ⟨rfl, rfl, rfl⟩
  -- the peak
  · refine ⟨_, congrArg Host.Outcome.next (carrierPeak_turns hr ht hd h), ?_⟩
    have grp : (s.turned g).grp g = { s.grp g with down := true } := s.grp_setGrp_same g _
    have three : ((s.turned g).grp g).ph.length = 3 := (congrArg (·.ph.length) grp).trans (hs.ph_length g)
    have stepped : (s.turned g).OnlyPhases
        (if s.bit (Reg.PWM_GRP_STAT g) 27 || (s.grp g).blank then s.turned g else (s.turned g).eachPhase g Phase.peak) g :=
      State.ite_keeps (P := fun u => (s.turned g).OnlyPhases u g) (.refl _ _) ((s.turned g).onlyPhases_eachPhase g Phase.peak)
    refine ⟨?_, fun k hk => (stepped.others k hk).trans (s.grp_setGrp_other _ hk), ⟨stepped.memory.hall, stepped.memory.pv, stepped.memory.dram⟩,
      fun hc hb x hx off hoff => ?_⟩
    · rw [stepped.own, grp]
    · rw [if_neg (by simp [hc, hb]), State.phase_eachPhase three hx, State.turned_timed, hoff]
      exact ⟨Phase.peak_falls (e := s.edgeCfg g x), Phase.peak_swallows (e := s.edgeCfg g x)⟩

end

end Sys2Proof.Machine
end

section
/-! Port states, and the end of listening (R146, R165, R185). -/

namespace Sys2Proof.Machine

variable {s t : State}

theorem trnReg_pstat (n : Fin 12) {ch : Nat} (h : ch < 2) : trnReg (Reg.TRN_PSTAT n ch) := by
  simp only [trnReg, Reg.TRN_PSTAT]
  omega

/-- A bit of a register whose event bits are raised: those raised are set, the others stand. -/
theorem State.bit_raise (s : State) (n : Nat) {e : Nat} (hd : e ∉ deliveryRegs) (m : Word) (i : Nat) :
    (s.raise n e m).bit e i = (s.bit e i || wBit m i) := by
  rw [State.bit, State.rd_raise_same _ _ _ _ hd, wBit_or]
  rfl

/-- A bit of a port's state is set where the port is on. -/
theorem portSet_on {n : Fin 12} {b : Bool} {ch : Nat} (hc : ch = if b then 1 else 0) (h : s.bit (Reg.TRN_PCFG n ch) 31 = true) (i : Nat) :
    portSet i ⟨n, b⟩ s = s.setBit (Reg.TRN_PSTAT n ch) i true := by
  subst hc
  exact if_pos h

theorem portSet_shown {n : Fin 12} {b : Bool} {ch i : Nat} (hc : ch = if b then 1 else 0) (h : s.bit (Reg.TRN_PCFG n ch) 31 = true) (hi : i < 32) :
    (portSet i ⟨n, b⟩ s).bit (Reg.TRN_PSTAT n ch) i = true ∧ s.OnlyRegs (portSet i ⟨n, b⟩ s) [Reg.TRN_PSTAT n ch] := by
  rw [portSet_on hc h]
  exact ⟨(s.bit_setBit _ _ _ _ hi).trans (if_pos rfl), (State.OnlyRegs.refl s _).wr (by simp) _⟩

theorem portSet_off {n : Fin 12} {b : Bool} {ch : Nat} (hc : ch = if b then 1 else 0) (h : s.bit (Reg.TRN_PCFG n ch) 31 = false) (i : Nat) :
    portSet i ⟨n, b⟩ s = s := by
  subst hc
  exact if_neg (by simp [h])

/-- A bit of a port's state that is set is cleared, and its flag raised. -/
theorem portDrop_on {n : Fin 12} {b : Bool} {ch i : Nat} (hc : ch = if b then 1 else 0) (h : s.bit (Reg.TRN_PSTAT n ch) i = true) (e : Nat) :
    portDrop i e ⟨n, b⟩ s = (s.setBit (Reg.TRN_PSTAT n ch) i false).portEvt n ch e := by
  subst hc
  exact if_pos h

theorem portDrop_off {n : Fin 12} {b : Bool} {ch i : Nat} (hc : ch = if b then 1 else 0) (h : s.bit (Reg.TRN_PSTAT n ch) i = false) (e : Nat) :
    portDrop i e ⟨n, b⟩ s = s := by
  subst hc
  exact if_neg (by simp [h])

/-- What a lost signal or sync leaves: its bit clear, its flag set, and beside them what delivery changes. -/
theorem State.portDropped_spec (s : State) (n : Fin 12) {ch i e : Nat} (hc : ch < 2) (hi : i < 32) (he : e < 32) (hne : e ≠ i) :
    ((s.setBit (Reg.TRN_PSTAT n ch) i false).portEvt n ch e).bit (Reg.TRN_PSTAT n ch) i = false
      ∧ ((s.setBit (Reg.TRN_PSTAT n ch) i false).portEvt n ch e).bit (Reg.TRN_PSTAT n ch) e = true
      ∧ s.OnlyRaised ((s.setBit (Reg.TRN_PSTAT n ch) i false).portEvt n ch e) [Reg.TRN_PSTAT n ch] := by
  have hd := not_delivery_of_trn (trnReg_pstat n hc)
  refine ⟨?_, ?_, ((State.OnlyRaised.refl s _).wr (by simp) _).raise (by simp) _ _⟩
  · rw [State.portEvt, State.bit_raise _ _ hd, State.bit_setBit _ _ _ _ _ hi, if_pos rfl, wBit_bitW]
    simp [hne]
  · rw [State.portEvt, State.bit_raise _ _ hd, wBit_bitW]
    simp [he]

/-- Settles O45: a port's bit is set or dropped, and listening ends or goes on. -/
theorem portsAndListen : Obligations.PortsAndListen := by
  unfold Obligations.PortsAndListen
  refine ⟨fun s n b ch hc => ?_, fun s hm hh ht => ?_, fun s h => ?_⟩
  · have hc2 : ch < 2 := by subst hc; cases b <;> simp
    refine ⟨fun h => ⟨⟨_, rfl, portSet_shown hc h (by omega)⟩, _, rfl, portSet_shown hc h (by omega)⟩,
      fun h => ⟨congrArg _ (portSet_off hc h 31), congrArg _ (portSet_off hc h 30)⟩, fun h => ?_,
      fun h => congrArg Host.Outcome.next (portDrop_off hc h 15), fun h => ?_, fun h => congrArg Host.Outcome.next (portDrop_off hc h 14)⟩
    · exact ⟨_, congrArg Host.Outcome.next (portDrop_on hc h 15), s.portDropped_spec n hc2 (by omega) (by omega) (by omega)⟩
    · exact ⟨_, congrArg Host.Outcome.next (portDrop_on hc h 14), s.portDropped_spec n hc2 (by omega) (by omega) (by omega)⟩
  · refine ⟨_, congrArg Host.Outcome.next (if_neg ?_), rfl, rfl⟩
    have hn : (List.range 12).any (fun n => s.bit (Reg.TRN_SSTAT n) 11) = false := by simpa using hh
    rw [State.listenTime, ← Nat.add_assoc]
    simp only [hm, hn, ne_eq, not_true_eq_false, Bool.false_eq_true, false_or]
    omega
  · refine congrArg Host.Outcome.next (if_pos ?_)
    rw [State.listenTime, ← Nat.add_assoc]
    exact h.imp id (Or.imp (fun ⟨n, hn, hb⟩ => List.any_eq_true.2 ⟨n, List.mem_range.2 hn, hb⟩) id)

end Sys2Proof.Machine
end

section
/-! The checks of a received frame, and a sync of another head (R147, R150, R152, R165, R185, R187, R188). -/

namespace Sys2Proof.Machine

variable {s t : State}

/-! ## A frame that fails a check -/

theorem trnReg_sstat (n : Fin 12) : trnReg (Reg.TRN_SSTAT n) := by
  simp only [trnReg, Reg.TRN_SSTAT]
  omega

/-- The counters of the first three checks of a port. -/
def checkCounter (n ch : Nat) (r : Nat) : Prop := r = Reg.TRN_PCODE n ch ∨ r = Reg.TRN_PCRC n ch ∨ r = Reg.TRN_PHDR n ch

theorem checkCounter_trn {n : Fin 12} {ch r : Nat} (hc : ch < 2) (h : checkCounter n ch r) : trnReg r ∧ r ≠ Reg.TRN_PSTAT n ch := by
  simp only [checkCounter, trnReg, Reg.TRN_PCODE, Reg.TRN_PCRC, Reg.TRN_PHDR, Reg.TRN_PSTAT] at *
  omega

/-- A counted failure shows in its counter and in its flag, and nowhere else (R152, R165). -/
theorem State.portFailed_spec (s : State) {n : Fin 12} {ch r i : Nat} (hc : ch < 2) (hr : checkCounter n ch r) (hi : i < 32) :
    ((s.inc r).portEvt n ch i).rd r = s.rd r + 1 ∧ ((s.inc r).portEvt n ch i).bit (Reg.TRN_PSTAT n ch) i = true
      ∧ s.OnlyRaised ((s.inc r).portEvt n ch i) [r, Reg.TRN_PSTAT n ch] := by
  obtain ⟨ht, hne⟩ := checkCounter_trn hc hr
  refine ⟨?_, ?_, ((State.OnlyRaised.refl s _).wr (by simp) _).raise (by simp) _ _⟩
  · rw [State.portEvt, State.rd_raise_other _ _ _ _ hne (not_delivery_of_trn ht), State.inc_wr, State.rd_wr_same]
  · rw [State.portEvt, State.bit_raise _ _ (not_delivery_of_trn (trnReg_pstat n hc)), wBit_bitW]
    simp [hi]

theorem State.frameCheck_code {n : Fin 12} {f : RxFrame} (h : f.codeOk = false) : s.frameCheck n f = (1, none) := if_pos (by simp [h])

theorem State.frameCheck_crc {n : Fin 12} {f : RxFrame} (h : f.codeOk = true) (hl : f.bytes.length = 12 + byteAt f.bytes 6)
    (hx : crc32 (f.bytes.take (8 + byteAt f.bytes 6)) ≠ leAt f.bytes (8 + byteAt f.bytes 6) 4) : s.frameCheck n f = (2, none) :=
  (if_neg (by simp [h, hl])).trans (if_pos hx)

section
variable {n : Fin 12} {f : RxFrame} (h : f.codeOk = true) (hl : f.bytes.length = 12 + byteAt f.bytes 6)
  (hx : crc32 (f.bytes.take (8 + byteAt f.bytes 6)) = leAt f.bytes (8 + byteAt f.bytes 6) 4)
include h hl hx

theorem State.frameCheck_header (hh : (hdrOf f.bytes).ver ≠ 1 ∨ (hdrOf f.bytes).allowed = false ∨ (hdrOf f.bytes).seg ≠ n.val) :
    s.frameCheck n f = (3, none) :=
  (if_neg (by simp [h, hl])).trans <| (if_neg (not_not.2 hx)).trans (if_pos (by simpa using hh))

theorem State.frameCheck_sync (hv : (hdrOf f.bytes).ver = 1) (ha : (hdrOf f.bytes).allowed = true) (hs : (hdrOf f.bytes).seg = n.val)
    (ht : (hdrOf f.bytes).type = 1) : s.frameCheck n f = (0, none) :=
  (if_neg (by simp [h, hl])).trans <| (if_neg (not_not.2 hx)).trans <| (if_neg (by simp [hv, ha, hs])).trans (if_pos ht)

end

/-- A port that is off, or hears its own transmitter and not its last frame, takes nothing. -/
theorem frameReceive_of_deaf {p : Port} {f : RxFrame} {ch : Nat} (hc : ch = if p.chB then 1 else 0)
    (h : s.bit (Reg.TRN_PCFG p.seg ch) 31 = false ∨ (s.loops p.seg ch = true ∧ f.bytes ≠ (s.seg p.seg).tx)) : frameReceive p f s = s := by
  subst hc
  exact if_pos (by rcases h with h | ⟨h, h'⟩ <;> simp [*])

theorem standbyFrame_of_off {p : Port} {f : RxFrame} {ch : Nat} (hc : ch = if p.chB then 1 else 0) (h : s.bit (Reg.TRN_PCFG p.seg ch) 31 = false) :
    standbyFrame p f s = s := by
  subst hc
  exact if_pos (by simp [h])

/-- A loopback is no affair of STANDBY. -/
theorem State.mode_of_loops {n ch : Nat} (h : s.loops n ch = true) : s.mode ≠ mSTANDBY := by
  intro e
  simp [State.loops, e, mSTANDBY, mMAINTENANCE] at h

/-- Outside STANDBY a frame is taken by a port that runs. -/
theorem exec_frameReceive (p : Port) (f : RxFrame) (h : s.mode ≠ mSTANDBY) : exec (.frameReceive p f) s = .next (frameReceive p f s) :=
  congrArg Host.Outcome.next (if_neg (by simpa using h))

/-- A frame that is counted leaves the registers beside those of the count. -/
theorem State.rd_frameCounted_other (s : State) {n ch a : Nat} {w : Word} (h1 : a ≠ Reg.TRN_PRXOK n ch) (h2 : a ≠ Reg.TRN_PLAST n ch) :
    (s.frameCounted n ch w).rd a = s.rd a := (State.rd_wr_other _ _ h2).trans (State.rd_wr_other _ _ h1)

section
variable {n : Fin 12} {b : Bool} {ch : Nat} {f : RxFrame} (hc : ch = if b then 1 else 0) (hon : s.bit (Reg.TRN_PCFG n ch) 31 = true)
  (hl : s.loops n ch = false) (hr : ∀ m, m < 16 → (s.capOn m && s.capKind m == 1 && s.bit (Reg.CAP_S_SRC m) (2 * n + ch)) = false)
include hc hon hl hr

/-- A frame that fails the check of an order counts for it. -/
theorem frameReceive_of_fail {order : Nat} {x : Option (RxWindow × Word × Int)} (hf : s.frameCheck n f = (order, x)) (h0 : order ≠ 0) :
    frameReceive ⟨n, b⟩ f s = s.frameFail n ch order := by
  subst hc
  unfold frameReceive
  dsimp only
  rw [if_neg (by simp [hon, hl]), hf, State.capPortRecord_of_none hr, if_pos h0]

/-- A sync counts on its port, which shows it, and is heard. -/
theorem frameReceive_of_sync (hf : s.frameCheck n f = (0, none)) :
    frameReceive ⟨n, b⟩ f s
      = (s.frameCounted n ch (mkFld 31 22 (hdrOf f.bytes).slot ||| mkFld 21 0 f.arrival)).otherSync n (hdrOf f.bytes).hid := by
  subst hc
  have hl' : (s.frameCounted n (if b then 1 else 0) (mkFld 31 22 (hdrOf f.bytes).slot ||| mkFld 21 0 f.arrival)).loops n (if b then 1 else 0) = false := by
    rw [← hl]
    have hm : Reg.SYS_MODE ≠ Reg.TRN_PRXOK n (if b then 1 else 0) ∧ Reg.SYS_MODE ≠ Reg.TRN_PLAST n (if b then 1 else 0) := by
      simp only [Reg.SYS_MODE, Reg.TRN_PRXOK, Reg.TRN_PLAST]
      omega
    have hp : Reg.TRN_PCFG n (if b then 1 else 0) ≠ Reg.TRN_PRXOK n (if b then 1 else 0)
        ∧ Reg.TRN_PCFG n (if b then 1 else 0) ≠ Reg.TRN_PLAST n (if b then 1 else 0) := by
      simp only [Reg.TRN_PCFG, Reg.TRN_PRXOK, Reg.TRN_PLAST]
      omega
    simp only [State.loops, State.mode, State.fld, s.rd_frameCounted_other hm.1 hm.2, s.rd_frameCounted_other hp.1 hp.2]
  unfold frameReceive
  dsimp only
  rw [if_neg (by simp [hon, hl]), hf, State.capPortRecord_of_none hr]
  exact if_neg (by rw [← Bool.not_eq_true] at hl'; exact hl')

end

/-- The slot of a sync. -/
theorem slot_of_sync {h : Hdr} (ha : h.allowed = true) (ht : h.type = 1) : h.slot = 0x3FF := by
  simp only [Hdr.allowed, ht, Bool.and_eq_true, beq_iff_eq] at ha
  exact ha.1.2

/-! ## A sync of another head -/

/-- The sync of a head with ID hid shows in TRN_SSTAT, and is noted (R185). -/
def State.syncHeard (s : State) (n hid : Nat) : State := ((s.setBit (Reg.TRN_SSTAT n) 11 true).setFld (Reg.TRN_SSTAT n) 10 8 hid).segEvt n 31

/-- What silence the sync of a head with ID hid asks for: CLASH with this head's own, YIELD to a lower one (R187, R188). -/
def State.silenced (s : State) (n hid : Nat) : TrnBlock :=
  { s.trn with silence :=
      if s.trn.silence ≠ 0 then s.trn.silence
      else if hid = s.headId n then 5
      else if hid < s.headId n ∧ (List.range 12).any s.segSends = true then 4 else 0 }

theorem findFrom_congr {p q : Nat → Bool} : ∀ {k i : Nat}, (∀ j, i ≤ j → j < i + k → p j = q j) → findFrom p k i = findFrom q k i
  | 0, _, _ => rfl
  | k + 1, i, h => by
    rw [findFrom, findFrom, h i (le_refl i) (by omega), findFrom_congr (k := k) fun j hi hj => h j (by omega) (by omega)]

theorem lowest_congr {n : Nat} {p q : Nat → Bool} (h : ∀ j, j < n → p j = q j) : lowest n p = lowest n q :=
  findFrom_congr fun j _ hj => h j (by omega)

/-- A register of Torone outside those raised outlasts a delivery. -/
theorem State.OnlyRaised.rd_trn {l : List Nat} {a : Nat} (h : s.OnlyRaised t l) (ha : trnReg a) (hl : a ∉ l) : t.rd a = s.rd a :=
  h.regs a fun hm => (List.mem_append.1 hm).elim hl (not_delivery_of_trn ha)

theorem trnReg_scfg {n : Nat} (h : n < 12) : trnReg (Reg.TRN_SCFG n) := by
  simp only [trnReg, Reg.TRN_SCFG]
  omega

/-- This head's ID follows from TRN_SCFG of the segments. -/
theorem State.headId_congr (h : ∀ m, m < 12 → t.rd (Reg.TRN_SCFG m) = s.rd (Reg.TRN_SCFG m)) {n : Nat} (hn : n < 12) : t.headId n = s.headId n := by
  have hl : lowest 12 t.segEn = lowest 12 s.segEn := lowest_congr fun m hm => congrArg (wBit · 31) (h m hm)
  have hlt : (lowest 12 s.segEn).getD n < 12 := by
    cases e : lowest 12 s.segEn with
    | none => exact hn
    | some m => exact lowest_lt e
  rw [State.headId, hl]
  exact congrArg (wFld · 26 24) (h _ hlt)

/-- Which segments send follows from their TRN_SCFG and their states. -/
theorem State.silenced_congr (h : ∀ m, m < 12 → t.rd (Reg.TRN_SCFG m) = s.rd (Reg.TRN_SCFG m)) (hs : ∀ m, m < 12 → t.segState m = s.segState m)
    (ht : t.trn = s.trn) {n : Nat} (hn : n < 12) (hid : Nat) : t.silenced n hid = s.silenced n hid := by
  have ha : (List.range 12).any t.segSends = (List.range 12).any s.segSends := by
    rw [Bool.eq_iff_iff]
    simp only [List.any_eq_true, List.mem_range]
    refine exists_congr fun m => and_congr_right fun hm => ?_
    rw [State.segSends, hs m hm, show t.segEn m = s.segEn m from congrArg (wBit · 31) (h m hm), State.segSends]
  rw [State.silenced, ht, State.headId_congr h hn, ha, State.silenced]

theorem State.onlyRaised_syncHeard (s : State) (n hid : Nat) : s.OnlyRaised (s.syncHeard n hid) [Reg.TRN_SSTAT n, Reg.TRN_SEVT n] :=
  (((State.OnlyRaised.refl s _).wr (by simp) _).wr (by simp) _).raise (by simp) _ _

theorem sevt_ne_sstat (n : Nat) : Reg.TRN_SSTAT n ≠ Reg.TRN_SEVT n := by simp only [Reg.TRN_SSTAT, Reg.TRN_SEVT]; omega

theorem State.syncHeard_shows (s : State) (n : Fin 12) (hid : Nat) : (s.syncHeard n hid).bit (Reg.TRN_SSTAT n) 11 = true
    ∧ (s.syncHeard n hid).fld (Reg.TRN_SSTAT n) 10 8 = hid % 8 ∧ (s.syncHeard n hid).bit (Reg.TRN_SEVT n) 31 = true
    ∧ (s.syncHeard n hid).segState n = s.segState n := by
  have hr : (s.syncHeard n hid).rd (Reg.TRN_SSTAT n) = ((s.setBit (Reg.TRN_SSTAT n) 11 true).setFld (Reg.TRN_SSTAT n) 10 8 hid).rd (Reg.TRN_SSTAT n) :=
    State.rd_raise_other _ _ _ _ (sevt_ne_sstat n) (not_delivery_of_trn (trnReg_sstat n))
  refine ⟨?_, ?_, ?_, ?_⟩
  · rw [State.bit, hr, State.setFld_wr, State.rd_wr_same, wBit_wSetFld_above _ (by omega) (by omega) (by omega)]
    exact (s.bit_setBit _ _ _ _ (by omega)).trans (if_pos rfl)
  · rw [State.fld, hr]
    exact State.fld_setFld_same _ _ (by omega) (by omega) hid
  · rw [State.syncHeard, State.segEvt, State.bit_raise _ _ (not_delivery_of_trn (trnReg_sevt n)), wBit_bitW]
    simp
  · rw [State.segState, State.fld, hr]
    exact (State.fld_setFld_other _ _ (by omega) (by omega) hid).trans (State.fld_setBit_other _ _ (by omega) _)

/-- A sync of another head is shown, and asks for silence or not. -/
theorem State.otherSync_eq (s : State) (n : Fin 12) (hid : Nat) : s.otherSync n hid = { s.syncHeard n hid with trn := s.silenced n hid } := by
  have ho := s.onlyRaised_syncHeard n hid
  have hcfg : ∀ m, m < 12 → (s.syncHeard n hid).rd (Reg.TRN_SCFG m) = s.rd (Reg.TRN_SCFG m) := fun m hm => ho.rd_trn (trnReg_scfg hm) (by
    simp only [List.mem_cons, List.not_mem_nil, or_false, Reg.TRN_SCFG, Reg.TRN_SSTAT, Reg.TRN_SEVT]
    omega)
  have hstate : ∀ m, m < 12 → (s.syncHeard n hid).segState m = s.segState m := fun m hm => by
    by_cases e : m = n
    · rw [e]
      exact (s.syncHeard_shows n hid).2.2.2
    · refine congrArg (wFld · 31 29) (ho.rd_trn (trnReg_sstat ⟨m, hm⟩) ?_)
      simp only [List.mem_cons, List.not_mem_nil, or_false, Reg.TRN_SSTAT, Reg.TRN_SEVT]
      omega
  have htrn : (s.syncHeard n hid).trn = s.trn := (congrArg State.trn ho.rest :)
  rw [← State.silenced_congr hcfg hstate htrn n.isLt hid]
  show (if (s.syncHeard n hid).trn.silence ≠ 0 then s.syncHeard n hid
    else if hid = (s.syncHeard n hid).headId n then { s.syncHeard n hid with trn := { (s.syncHeard n hid).trn with silence := 5 } }
    else if hid < (s.syncHeard n hid).headId n ∧ (List.range 12).any (s.syncHeard n hid).segSends = true then
      { s.syncHeard n hid with trn := { (s.syncHeard n hid).trn with silence := 4 } }
    else s.syncHeard n hid) = _
  generalize s.syncHeard n hid = u
  unfold State.silenced
  split_ifs with h0 h5 h4
  · rfl
  · rfl
  · rfl
  · rw [← not_not.1 h0]

theorem trnReg_port {n : Fin 12} {ch : Nat} (hc : ch < 2) :
    (trnReg (Reg.TRN_PRXOK n ch) ∧ trnReg (Reg.TRN_PLAST n ch)) ∧ trnReg (Reg.TRN_PHDR n ch) := by
  simp only [trnReg, Reg.TRN_PRXOK, Reg.TRN_PLAST, Reg.TRN_PHDR]
  omega

theorem hid_lt (b : List Byte) : (hdrOf b).hid < 8 := Nat.mod_lt _ (by omega)

/-- The registers that a sync of another head changes beside those of its notice. -/
def syncRegs (n ch : Nat) : List Nat := [Reg.TRN_PRXOK n ch, Reg.TRN_PLAST n ch, Reg.TRN_SSTAT n, Reg.TRN_SEVT n]

/-- t is s with a sync of head hid received on channel ch of segment n: counted, shown and noted. -/
structure State.SyncTaken (s t : State) (n ch hid : Nat) (w : Word) : Prop where
  count : t.rd (Reg.TRN_PRXOK n ch) = s.rd (Reg.TRN_PRXOK n ch) + 1
  last : t.rd (Reg.TRN_PLAST n ch) = w
  heard : t.bit (Reg.TRN_SSTAT n) 11 = true
  head : t.fld (Reg.TRN_SSTAT n) 10 8 = hid
  event : t.bit (Reg.TRN_SEVT n) 31 = true
  frame : s.OnlySegment t (syncRegs n ch)

theorem State.syncTaken (s : State) (n : Fin 12) {ch hid : Nat} (hc : ch < 2) (hh : hid < 8) (w : Word) :
    s.SyncTaken ((s.frameCounted n ch w).otherSync n hid) n ch hid w := by
  rw [State.otherSync_eq]
  obtain ⟨h11, hhid, hevt, -⟩ := (s.frameCounted n ch w).syncHeard_shows n hid
  have ho := (s.frameCounted n ch w).onlyRaised_syncHeard n hid
  have hn : Reg.TRN_PRXOK n ch ∉ [Reg.TRN_SSTAT n, Reg.TRN_SEVT n] ∧ Reg.TRN_PLAST n ch ∉ [Reg.TRN_SSTAT n, Reg.TRN_SEVT n] := by
    simp only [List.mem_cons, List.not_mem_nil, or_false, Reg.TRN_PRXOK, Reg.TRN_PLAST, Reg.TRN_SSTAT, Reg.TRN_SEVT]
    omega
  obtain ⟨⟨ht1, ht2⟩, -⟩ := trnReg_port (n := n) hc
  exact
    { count := (ho.rd_trn ht1 hn.1).trans (s.rd_counted n ch w)
      last := (ho.rd_trn ht2 hn.2).trans (State.rd_wr_same _ _ _)
      heard := h11
      head := hhid.trans (Nat.mod_eq_of_lt hh)
      event := hevt
      frame := State.OnlySegment.trn (State.OnlySegment.raise (State.OnlySegment.wr (State.OnlySegment.wr
        (((State.OnlySegment.refl s (syncRegs n ch)).wr (by simp [syncRegs]) _).wr (by simp [syncRegs]) _) (by simp [syncRegs]) _)
        (by simp [syncRegs]) _) (by simp [syncRegs]) _ _) _ }

/-- The silence that a counted sync asks for. -/
theorem State.silenced_frameCounted (s : State) (n : Fin 12) (ch hid : Nat) (w : Word) : (s.frameCounted n ch w).silenced n hid = s.silenced n hid := by
  refine State.silenced_congr (fun m hm => s.rd_frameCounted_other ?_ ?_) (fun m hm => congrArg (wFld · 31 29) (s.rd_frameCounted_other ?_ ?_))
    rfl n.isLt hid
  all_goals
    simp only [Reg.TRN_SCFG, Reg.TRN_SSTAT, Reg.TRN_PRXOK, Reg.TRN_PLAST]
    omega

/-- Settles O42: each check that fails is its counter and its flag, and a sync is counted, shown and may ask for silence. -/
theorem frameChecks : Obligations.FrameChecks := by
  unfold Obligations.FrameChecks
  refine ⟨fun s p f h => ?_, fun s n b f h hne => ?_, fun s n b ch f hc hmode hon hl hr => ?_⟩
  · refine congrArg Host.Outcome.next (State.ite_keeps (P := (· = s)) ?_ ?_)
    · exact standbyFrame_of_off rfl h
    · exact frameReceive_of_deaf rfl (.inl h)
  · rw [exec_frameReceive _ _ (State.mode_of_loops h), frameReceive_of_deaf (p := ⟨n, b⟩) rfl (.inr ⟨h, hne⟩)]
  · have hc2 : ch < 2 := by subst hc; cases b <;> simp
    rw [exec_frameReceive _ _ hmode]
    refine ⟨fun h => ?_, fun h hlen hx => ?_, fun h hlen hx => ⟨fun hh => ?_, fun hv ha hs ht => ?_⟩⟩
    · rw [frameReceive_of_fail hc hon hl hr (State.frameCheck_code h) (by omega)]
      exact ⟨_, rfl, s.portFailed_spec hc2 (.inl rfl) (by omega)⟩
    · rw [frameReceive_of_fail hc hon hl hr (State.frameCheck_crc h hlen hx) (by omega)]
      exact ⟨_, rfl, s.portFailed_spec hc2 (.inr (.inl rfl)) (by omega)⟩
    · rw [frameReceive_of_fail hc hon hl hr (State.frameCheck_header h hlen hx hh) (by omega)]
      exact ⟨_, rfl, s.portFailed_spec hc2 (.inr (.inr rfl)) (by omega)⟩
    · rw [frameReceive_of_sync hc hon hl hr (State.frameCheck_sync h hlen hx hv ha hs ht)]
      have taken := s.syncTaken n hc2 (hid_lt f.bytes) (mkFld 31 22 (hdrOf f.bytes).slot ||| mkFld 21 0 f.arrival)
      refine ⟨_, rfl, taken.count, ?_, taken.heard, taken.head, taken.event, ?_, taken.frame.rest, taken.frame.regs⟩
      · rw [State.fld, taken.last, slot_of_sync ha ht, wFld_or, wFld_mkFld_same (by omega) (by omega), wFld_mkFld_other (by omega) (by omega)]
        rfl
      · rw [State.otherSync_eq, State.silenced_frameCounted, State.silenced]

end Sys2Proof.Machine
end

section
/-! What a stop of groups leaves of the safety unit, and a fault in its normal state (R228, R238, R240, R244). -/

namespace Sys2Proof.Machine

variable {s t u : State} {l : List Nat}

/-! ## What a stop leaves alone -/

/-- The safety unit without its groups and their commands. -/
def SafBlock.bare (x : SafBlock) : SafBlock := { x with g := { x.g with grps := [] }, b := { x.b with grps := [] }, stob := 0, stog := 0 }

theorem not_notice_safFlt : Reg.SAF_FLT ∉ Reg.SAF_EVTSEQ :: noticeRegs := by decide

/-- From s to t groups may stop: SAF_FLT, the modes that are pending, and the safety unit beside its groups and commands stand. -/
structure State.OnlyStopped (s t : State) : Prop where
  flt : t.rd Reg.SAF_FLT = s.rd Reg.SAF_FLT
  saf : t.saf.bare = s.saf.bare
  sys : t.sys = s.sys

namespace State.OnlyStopped

theorem refl (s : State) : s.OnlyStopped s := ⟨rfl, rfl, rfl⟩

theorem safetyEvent (h : s.OnlyStopped t) (obj detail : Nat) : s.OnlyStopped (t.safetyEvent obj detail) := by
  have k := t.onlyNoticed_safetyEvent obj detail
  exact ⟨(k.regs _ (by simpa using not_notice_safFlt)).trans h.flt, (congrArg SafBlock.bare k.saf_eq).trans h.saf, (congrArg State.sys k.rest :).trans h.sys⟩

theorem stopCause (h : s.OnlyStopped t) (g c : Nat) : s.OnlyStopped (t.stopCause g c) :=
  ⟨(State.rd_wr_other _ _ (by simp only [Reg.SAF_FLT, Reg.SAF_GRP]; omega)).trans h.flt, h.saf, h.sys⟩

theorem grpTo (h : s.OnlyStopped t) (bas : Bool) (g st : Nat) : s.OnlyStopped (t.grpTo bas g st) := by
  unfold State.grpTo
  dsimp only
  split
  · exact h
  · refine safetyEvent ?_ _ _
    cases bas
    · exact ⟨h.flt, h.saf, h.sys⟩
    · exact ⟨h.flt, h.saf, h.sys⟩

theorem sto (h : s.OnlyStopped t) (bas : Bool) (g c : Nat) : s.OnlyStopped (t.sto bas g c) :=
  State.ite_keeps (P := s.OnlyStopped) h ((h.stopCause g c).grpTo bas g gSTO)

theorem stopGrp (h : s.OnlyStopped t) (bas : Bool) (g c : Nat) : s.OnlyStopped (t.stopGrp bas g c) :=
  State.ite_keeps (P := s.OnlyStopped) (h.sto bas g c) ((h.stopCause g c).grpTo bas g gSS1)

theorem safeStopAll (h : s.OnlyStopped t) (lost : Bool) : s.OnlyStopped (t.safeStopAll lost) :=
  State.each_keeps (P := s.OnlyStopped) h fun b _ _ hu => State.each_keeps (P := s.OnlyStopped) hu fun g _ _ hv =>
    State.ite_keeps (P := s.OnlyStopped) (hv.sto b g 4) (State.ite_keeps (P := s.OnlyStopped) (hv.stopGrp b g 4) hv)

end State.OnlyStopped

/-! ## A fault in the normal state -/

/-- A call for SAFE STOP changes the modes that are pending alone. -/
theorem State.reqSafeStop_rest (s : State) : { s.reqSafeStop with sys := s.sys } = s := by
  unfold State.reqSafeStop State.reqMode
  split_ifs <;> rfl

/-- During RESET, BOOT and CONFIGURE the call is held. -/
theorem State.reqSafeStop_held (h : s.mode = mRESET) : s.reqSafeStop.sys.stopPend = true := by
  rw [State.reqSafeStop, if_neg (by simp [h, mRESET, mLISTEN, mINTEGRATE, mRUN, mDEGRADED, mSTANDBY, mMAINTENANCE]), if_pos (.inl h)]

/-- SAF_FLT at a fault in cycle c. -/
def fltWord (code bych obj c : Nat) : Word := mkFld 31 24 code ||| mkFld 23 22 bych ||| mkFld 21 19 obj ||| mkFld 15 0 c

theorem fltWord_fields (code bych obj c : Nat) :
    wFld (fltWord code bych obj c) 31 24 = code % 256 ∧ wFld (fltWord code bych obj c) 23 22 = bych % 4 := by
  constructor
  · rw [fltWord, wFld_or, wFld_or, wFld_or, wFld_mkFld_same (by omega) (by omega), wFld_mkFld_other (by omega) (by omega),
      wFld_mkFld_other (by omega) (by omega), wFld_mkFld_other (by omega) (by omega)]
    simp
  · rw [fltWord, wFld_or, wFld_or, wFld_or, wFld_mkFld_same (by omega) (by omega), wFld_mkFld_other (by omega) (by omega),
      wFld_mkFld_other (by omega) (by omega), wFld_mkFld_other (by omega) (by omega)]
    simp

/-- A fault that calls for SAFE STOP in the normal state: recorded in SAF_FLT, and the state is 2; switches and channels stand. -/
structure State.Faulted (s t : State) (code bych : Nat) : Prop where
  code : t.fld Reg.SAF_FLT 31 24 = code % 256
  by' : t.fld Reg.SAF_FLT 23 22 = bych % 4
  saf : t.saf.bare = { s.saf.bare with state := 2 }
  held : s.mode = mRESET → t.sys.stopPend = true
  frame : s.OnlySafety t []

theorem State.mode_onlySafety (h : s.OnlySafety t []) : t.mode = s.mode := congrArg (wFld · 3 0) (h.regs _ (by decide))

theorem State.faulted {code : Nat} (hc : 0x14 < code) (h0 : s.saf.state = 0) (hf : s.fld Reg.SAF_FLT 31 24 = 0) (bych obj : Nat) :
    s.Faulted (s.fault code bych obj) code bych := by
  have honly := (State.OnlySafety.refl s []).fault code bych obj
  have k := s.onlyNoticed_safetyEvent obj 0
  have hone := (State.OnlySafety.refl s []).safetyEvent obj 0
  have hflt : (s.safetyEvent obj 0).rd Reg.SAF_FLT = s.rd Reg.SAF_FLT := k.regs _ (by simpa using not_notice_safFlt)
  obtain ⟨v, hv⟩ : ∃ v, v = (s.safetyEvent obj 0).wr Reg.SAF_FLT (fltWord code bych obj (s.safetyEvent obj 0).cycLo) := ⟨_, rfl⟩
  obtain ⟨w, hw⟩ : ∃ w, w = ({ v with saf := { v.saf with state := 2 } } : State).safeStopAll (decide (0x30 ≤ code)) := ⟨_, rfl⟩
  have e : s.fault code bych obj = w.reqSafeStop := by
    have hn : decide (0x10 ≤ code ∧ code ≤ 0x14) = false := by simp; omega
    have h0' : ¬ (s.safetyEvent obj 0).saf.state = 2 := by rw [k.saf_eq, h0]; decide
    have hf' : (s.safetyEvent obj 0).fld Reg.SAF_FLT 31 24 = 0 := by rw [State.fld, hflt]; exact hf
    simp only [State.fault, hn, Bool.false_and, Bool.false_eq_true, if_false, h0', hf', if_true]
    rw [hw, hv]
    rfl
  have stopped : ({ v with saf := { v.saf with state := 2 } } : State).OnlyStopped w := by
    rw [hw]
    exact (State.OnlyStopped.refl _).safeStopAll _
  have hreg : w.reqSafeStop.rd Reg.SAF_FLT = fltWord code bych obj (s.safetyEvent obj 0).cycLo := by
    have er : w.reqSafeStop.regs = w.regs := (congrArg State.regs w.reqSafeStop_rest :)
    rw [State.rd, er]
    refine stopped.flt.trans ?_
    rw [hv]
    exact State.rd_wr_same _ _ _
  rw [e] at honly ⊢
  exact
    { code := (congrArg (wFld · 31 24) hreg).trans (fltWord_fields _ _ _ _).1
      by' := (congrArg (wFld · 23 22) hreg).trans (fltWord_fields _ _ _ _).2
      saf := by
        have es : w.reqSafeStop.saf = w.saf := (congrArg State.saf w.reqSafeStop_rest :)
        have ev : v.saf = s.saf := by rw [hv]; exact k.saf_eq
        rw [es, stopped.saf, ev]
        rfl
      held := fun hm => State.reqSafeStop_held (by
        rw [← hm, hw]
        refine State.mode_onlySafety (State.OnlySafety.safeStopAll (State.OnlySafety.saf ?_ _) _)
        rw [hv]
        exact hone.wr (mem_safety mem_flt []) _)
      frame := honly }

theorem State.OnlySafety.sameStore (h : s.OnlySafety t l) : s.SameStore t := ⟨(congrArg State.hall h.rest :), (congrArg State.pv h.rest :), h.dram⟩

theorem State.SameMemory.thenStore (h : s.SameMemory t) (k : t.SameStore u) : s.SameStore u :=
  ⟨k.hall.trans h.hall, k.pv.trans h.pv, fun a => by rw [← h.dram]; exact k.dram a⟩

end Sys2Proof.Machine
end

section
/-! The configuration switches (R158, R216, R238). -/

namespace Sys2Proof.Machine

variable {s t : State}

/-- Every group's token takes Basalt's seed (R158). -/
def State.seeded (s : State) : State := s.each (List.range 8) (fun k s => s.seedToken k)

/-- SAF_SWCFG and the registers of the tokens. -/
def switchRegs : List Nat := Reg.SAF_SWCFG :: (List.range 8).map Reg.SAF_TOK

theorem mem_tok {k : Nat} (h : k < 8) : Reg.SAF_TOK k ∈ switchRegs := List.mem_cons_of_mem _ (List.mem_map_of_mem (List.mem_range.2 h))

/-- t is s but for the tokens, SAF_SWCFG and the free values taken. -/
structure State.OnlySeeded (s t : State) : Prop where
  rest : { t with regs := s.regs, free := s.free } = s
  regs : s.RegsBut t switchRegs

theorem State.onlySeeded_seeded (s : State) : s.OnlySeeded s.seeded :=
  State.each_keeps (P := s.OnlySeeded) ⟨rfl, .refl s _⟩ fun _ hk _ hu =>
    ⟨hu.rest, State.RegsBut.wr (t := State.takeFree _) hu.regs (mem_tok (List.mem_range.1 hk)) _⟩

theorem seed_ne_zero (v : Word) : (if v = 0 then 1 else v) ≠ 0 := by
  split
  · decide
  · assumption

/-- Every token is seeded non-zero. -/
theorem State.tok_seeded (s : State) {k : Nat} (hk : k < 8) : s.seeded.rd (Reg.SAF_TOK k) ≠ 0 :=
  State.each_reaches (P := fun _ => True) (Q := fun u => u.rd (Reg.SAF_TOK k) ≠ 0) (f := fun k s => s.seedToken k) (x := k)
    (fun u _ => by rw [State.seedToken, State.rd_wr_same]; exact seed_ne_zero _) (List.mem_range.2 hk) trivial (fun _ _ _ _ => trivial)
    fun j _ u hu => by
      rw [State.seedToken, State.rd_wr]
      split
      · exact seed_ne_zero _
      · exact hu

/-- SAF_SWCFG does not follow the tokens. -/
theorem State.swcfg_seeded (s : State) : s.seeded.rd Reg.SAF_SWCFG = s.rd Reg.SAF_SWCFG :=
  State.each_keeps (P := fun u => u.rd Reg.SAF_SWCFG = s.rd Reg.SAF_SWCFG) rfl fun k _ u hu => by
    rw [State.seedToken, State.rd_wr_other _ _ (by simp only [Reg.SAF_SWCFG, Reg.SAF_TOK]; omega)]
    exact hu

/-- A channel's read of the switches during RESET is kept. -/
def State.readKept (s : State) (bas : Bool) (v : BitVec 16) : State :=
  s.setSaf bas { s.saf? bas with reads := (s.saf? bas).reads ++ [v.toNat], sw := v.toNat }

/-- Both channels start: SAF_SWCFG shows the switches, the tokens are seeded; ok: the reads agree. -/
def State.channelsStarted (s : State) (ok : Bool) : State :=
  let u : State := s.wr Reg.SAF_SWCFG (mkFld 31 16 s.saf.b.sw ||| mkFld 15 0 s.saf.g.sw)
  State.seeded { u with saf := { u.saf with g := { s.saf.g with run := true, bad := !ok }, b := { s.saf.b with run := true, bad := !ok }, swok := ok } }

theorem switchPowerupRead_kept {bas : Bool} {v : BitVec 16} (hm : s.mode = mRESET)
    (h : (s.saf? bas).reads = [] ∨ ((s.saf? bas).reads.length = 1 ∧ (s.saf? !bas).reads.length < 2)) : switchPowerupRead bas v s = s.readKept bas v := by
  have h2 : ¬ 2 ≤ (s.saf? bas).reads.length := by rcases h with h | ⟨h, -⟩ <;> simp [h]
  have hk : (s.readKept bas v).saf.g.reads.length < 2 ∨ (s.readKept bas v).saf.b.reads.length < 2 := by
    cases bas
    · rcases h with h | ⟨-, h⟩
      · left
        simp_all [State.readKept, State.setSaf, State.saf?]
      · exact .inr h
    · rcases h with h | ⟨-, h⟩
      · right
        simp_all [State.readKept, State.setSaf, State.saf?]
      · exact .inl h
  rw [switchPowerupRead]
  exact (if_neg (by simp [hm, h2])).trans (if_pos hk)

/-- The last of the four reads, with the reads judged in the state that keeps it. -/
theorem switchPowerupRead_last {bas : Bool} {v : BitVec 16} (hm : s.mode = mRESET) (h1 : (s.saf? bas).reads.length = 1)
    (h2 : (s.saf? !bas).reads.length = 2) {u : State} (hu : u = s.readKept bas v) {ok : Bool}
    (hok : ok = (u.saf.g.readsOk && u.saf.b.readsOk && u.saf.g.sw == u.saf.b.sw)) :
    switchPowerupRead bas v s = if ok then u.channelsStarted ok else (u.channelsStarted ok).fault 0x20
      (if !(u.saf.g.sw == u.saf.b.sw) then 3 else (if u.saf.g.readsOk then 0 else 1) + (if u.saf.b.readsOk then 0 else 2)) 0 := by
  have hk : ¬ (u.saf.g.reads.length < 2 ∨ u.saf.b.reads.length < 2) := by
    rw [hu]
    cases bas <;> simp_all [State.readKept, State.setSaf, State.saf?]
  rw [switchPowerupRead, hok]
  subst hu
  exact (if_neg (by simp [hm, h1])).trans (if_neg hk)

theorem switchRuntimeRead_same {bas : Bool} {v : BitVec 16} (h : v.toNat = (s.saf? bas).sw) : switchRuntimeRead bas v s = s := if_pos (by simp [h])

theorem switchRuntimeRead_other {bas : Bool} {v : BitVec 16} (hl : (s.saf? bas).live = true) (hs : s.saf.swok = true) (h : v.toNat ≠ (s.saf? bas).sw) :
    switchRuntimeRead bas v s = State.fault { s with saf := { s.saf with swok := false } } 0x21 (if bas then 2 else 1) 0 :=
  if_neg (by simp [hl, hs, h])

theorem State.channelsStarted_spec (s : State) (ok : Bool) : (s.channelsStarted ok).saf
      = { s.saf with g := { s.saf.g with run := true, bad := !ok }, b := { s.saf.b with run := true, bad := !ok }, swok := ok }
    ∧ (s.channelsStarted ok).rd Reg.SAF_SWCFG = (mkFld 31 16 s.saf.b.sw ||| mkFld 15 0 s.saf.g.sw)
    ∧ s.RegsBut (s.channelsStarted ok) switchRegs ∧ s.SameMemory (s.channelsStarted ok) ∧ (s.channelsStarted ok).sys = s.sys := by
  obtain ⟨u, hu⟩ : ∃ u : State, u = { s.wr Reg.SAF_SWCFG (mkFld 31 16 s.saf.b.sw ||| mkFld 15 0 s.saf.g.sw) with saf :=
      { s.saf with g := { s.saf.g with run := true, bad := !ok }, b := { s.saf.b with run := true, bad := !ok }, swok := ok } } := ⟨_, rfl⟩
  have e : s.channelsStarted ok = u.seeded := by rw [hu]; rfl
  have k := u.onlySeeded_seeded
  have hr : s.RegsBut u switchRegs := by
    rw [hu]
    exact (State.RegsBut.refl s switchRegs).wr (List.mem_cons_self ..) _
  rw [e]
  refine ⟨?_, ?_, hr.trans k.regs, ⟨?_, ?_, ?_⟩, ?_⟩
  · exact (congrArg State.saf k.rest :).trans (by rw [hu])
  · refine u.swcfg_seeded.trans ?_
    rw [hu]
    exact State.rd_wr_same s _ _
  · exact (congrArg State.hall k.rest :).trans (by rw [hu]; rfl)
  · exact (congrArg State.pv k.rest :).trans (by rw [hu]; rfl)
  · exact (congrArg (·.cap.dram) k.rest :).trans (by rw [hu]; rfl)
  · exact (congrArg State.sys k.rest :).trans (by rw [hu]; rfl)

/-- SAF_SWCFG of switches that both channels read alike. -/
theorem swcfg_word {v : Nat} (h : v < 2 ^ 16) : mkFld 31 16 v ||| mkFld 15 0 v = word (v * 65537) := by
  apply BitVec.eq_of_getLsbD_eq
  intro i hi
  rw [BitVec.getLsbD_or, getLsbD_mkFld _ _ (by omega), getLsbD_mkFld _ _ (by omega), getLsbD_word, show v * 65537 = 2 ^ 16 * v + v by omega,
    Nat.testBit_two_pow_mul_add v h]
  by_cases h16 : i < 16
  · simp [hi, h16, show ¬ 16 ≤ i by omega, show i ≤ 15 by omega]
  · simp [hi, h16, show 16 ≤ i by omega, show ¬ i ≤ 15 by omega, show i ≤ 31 by omega]

theorem SafChan.readsOk_of_same {c : SafChan} {v : Nat} (h : c.reads = [v, v]) (hf : v / 4 % 4 ≠ 3) : c.readsOk = true := by
  simp [SafChan.readsOk, h, hf]

/-- Four reads that agree: both channels hold the value. -/
theorem State.readKept_agrees {bas : Bool} {v : BitVec 16} (h1 : (s.saf? bas).reads = [v.toNat]) (h2 : (s.saf? !bas).reads = [v.toNat, v.toNat])
    (hs : (s.saf? !bas).sw = v.toNat) : (s.readKept bas v).saf.g.reads = [v.toNat, v.toNat] ∧ (s.readKept bas v).saf.b.reads = [v.toNat, v.toNat]
      ∧ (s.readKept bas v).saf.g.sw = v.toNat ∧ (s.readKept bas v).saf.b.sw = v.toNat := by
  cases bas <;> simp_all [State.readKept, State.setSaf, State.saf?]

/-- A last read that differs from the other channel's. -/
theorem State.readKept_differs {bas : Bool} {v : BitVec 16} (h : (s.saf? !bas).sw ≠ v.toNat) : (s.readKept bas v).saf.g.sw ≠ (s.readKept bas v).saf.b.sw := by
  cases bas
  · exact Ne.symm h
  · exact h

/-- A read that is kept changes its channel's reads alone. -/
theorem State.readKept_rest (s : State) (bas : Bool) (v : BitVec 16) : { s.readKept bas v with saf := s.saf } = s
    ∧ (s.readKept bas v).saf.state = s.saf.state := by
  cases bas <;> exact ⟨rfl, rfl⟩

/-- The channels that start after a kept read change nothing else but what their start shows. -/
theorem State.channelsStarted_frame (s : State) (bas : Bool) (v : BitVec 16) (ok : Bool) : s.RegsBut ((s.readKept bas v).channelsStarted ok) switchRegs
    ∧ s.SameMemory ((s.readKept bas v).channelsStarted ok) ∧ ((s.readKept bas v).channelsStarted ok).sys = s.sys := by
  obtain ⟨rest, -⟩ := s.readKept_rest bas v
  obtain ⟨-, -, regs, mem, sys⟩ := (s.readKept bas v).channelsStarted_spec ok
  exact ⟨fun a ha => (regs a ha).trans (congrArg (Table.get resetOf · a) (congrArg State.regs rest :)),
    ⟨mem.hall.trans (congrArg State.hall rest :), mem.pv.trans (congrArg State.pv rest :), mem.dram.trans (congrArg (·.cap.dram) rest :)⟩,
    sys.trans (congrArg State.sys rest :)⟩

theorem not_switch_flt : Reg.SAF_FLT ∉ switchRegs ∧ Reg.SYS_MODE ∉ switchRegs := by decide

/-- Settles O23: the four reads are judged in the state that keeps the last of them, and a read that differs is a fault in the normal state. -/
theorem safetySwitches : Obligations.SafetySwitches := by
  unfold Obligations.SafetySwitches
  refine ⟨fun s bas v _ hm h1 h2 hsw hf => ?_, fun s bas v _ hm h1 h2 hsw h0 hflt => ?_, fun s bas v hm h => ?_, fun s bas v _ hl hsok hne h0 hflt => ?_,
    fun s bas v h => congrArg Host.Outcome.next (switchRuntimeRead_same h)⟩
  · obtain ⟨hg, hb, hgs, hbs⟩ := State.readKept_agrees h1 h2 hsw
    have hok : true = ((s.readKept bas v).saf.g.readsOk && (s.readKept bas v).saf.b.readsOk && (s.readKept bas v).saf.g.sw == (s.readKept bas v).saf.b.sw) := by
      rw [SafChan.readsOk_of_same hg hf, SafChan.readsOk_of_same hb hf, hgs, hbs]
      simp
    have e := switchPowerupRead_last hm (by simp [h1]) (by simp [h2]) rfl hok
    rw [if_pos rfl] at e
    obtain ⟨saf, cfg, -⟩ := (s.readKept bas v).channelsStarted_spec true
    refine ⟨_, congrArg Host.Outcome.next e, ?_, ?_, ?_, ?_, ?_, ?_, fun k hk => State.tok_seeded _ hk, s.channelsStarted_frame bas v true⟩
    · rw [saf]
    · rw [saf]
    · rw [saf]
    · rw [saf]; rfl
    · rw [saf]; rfl
    · rw [cfg, hgs, hbs, swcfg_word v.isLt]
  · obtain ⟨-, state⟩ := s.readKept_rest bas v
    have hd := State.readKept_differs hsw
    have hok : false = ((s.readKept bas v).saf.g.readsOk && (s.readKept bas v).saf.b.readsOk && (s.readKept bas v).saf.g.sw == (s.readKept bas v).saf.b.sw) := by
      simp [hd]
    have e := switchPowerupRead_last hm h1 h2 rfl hok
    have hn : (!((s.readKept bas v).saf.g.sw == (s.readKept bas v).saf.b.sw)) = true := by simpa using hd
    rw [if_neg (by simp), if_pos hn] at e
    obtain ⟨saf, -⟩ := (s.readKept bas v).channelsStarted_spec false
    obtain ⟨regs, mem, -⟩ := s.channelsStarted_frame bas v false
    have k := State.faulted (s := (s.readKept bas v).channelsStarted false) (code := 0x20) (by omega) (by rw [saf]; exact state.trans h0)
      ((congrArg (wFld · 31 24) (regs _ not_switch_flt.1)).trans hflt) 3 0
    have ks := k.saf
    rw [saf] at ks
    exact ⟨_, congrArg Host.Outcome.next e, (congrArg SafBlock.swok ks :), (congrArg (·.g.bad) ks :), (congrArg (·.b.bad) ks :), k.code, k.by',
      (congrArg SafBlock.state ks :), k.held ((congrArg (wFld · 3 0) (regs _ not_switch_flt.2)).trans hm), mem.thenStore k.frame.sameStore⟩
  · exact congrArg Host.Outcome.next (switchPowerupRead_kept hm h)
  · have k := State.faulted (s := { s with saf := { s.saf with swok := false } }) (code := 0x21) (by omega) h0 hflt (if bas then 2 else 1) 0
    refine ⟨_, congrArg Host.Outcome.next (switchRuntimeRead_other hl hsok hne), (congrArg SafBlock.swok k.saf :), k.code, ?_, (congrArg SafBlock.state k.saf :),
      ((State.OnlySafety.refl s []).saf _).fault _ _ _⟩
    rw [k.by']
    cases bas <;> rfl

end Sys2Proof.Machine
end

section
/-! Service messages of the head (R173, R178 to R180, R190). -/

namespace Sys2Proof.Machine

variable {s t : State} {l : List Nat}

/-! ## TRN_SVC_TXCTL (R180) -/

/-- The upper half of a list's first word. -/
theorem leAt_bytesOf_upper (w : Word) (ws : List Word) : leAt (bytesOf (w :: ws)) 2 2 = wFld w 31 16 := by
  have hb : ∀ n, (byte n).toNat = n % 256 := fun n => BitVec.toNat_ofNat n 8
  have hw := w.isLt
  rw [bytesOf, leAt_append_left _ _ _ _ (by simp)]
  simp only [leBytes, leAt, List.drop_succ_cons, List.drop_zero, List.take_succ_cons, List.take_zero, leNat, hb, wFld, Nat.shiftRight_eq_div_pow]
  omega

/-- The payload in TRN_SVC_TXD. -/
def State.svcPayload (s : State) (n : Nat) : List Byte := bytesOf ((List.range 16).map (fun i => s.rd (Reg.TRN_SVC_TXD n i)))

theorem State.flow_svcPayload (s : State) (n : Nat) : leAt (s.svcPayload n) 2 2 = wFld (s.rd (Reg.TRN_SVC_TXD n 0)) 31 16 := leAt_bytesOf_upper _ _

/-- TRN_SVC_TXCTL with ADDR and LEN as written; BUSY stands. -/
def State.txctlWritten (s : State) (n : Nat) (v : Word) : State :=
  s.wr (Reg.TRN_SVC_TXCTL n) ((s.rd (Reg.TRN_SVC_TXCTL n) &&& bitW 30) ||| (v &&& (maskW 29 24 ||| maskW 22 16)))

theorem State.onlyRegs_txctlWritten (s : State) (n : Nat) (v : Word) : s.OnlyRegs (s.txctlWritten n v) [Reg.TRN_SVC_TXCTL n] :=
  (State.OnlyRegs.refl s _).wr (by simp) _

theorem State.busy_txctlWritten (s : State) (n : Nat) (v : Word) :
    (s.txctlWritten n v).bit (Reg.TRN_SVC_TXCTL n) 30 = s.bit (Reg.TRN_SVC_TXCTL n) 30 := by
  have hm (hi lo : Nat) (h : lo ≤ hi + 1) (h' : hi < 30) : wBit (maskW hi lo) 30 = false := by
    rw [wBit_eq, getLsbD_maskW _ _ _ h, decide_eq_false (show ¬ 30 ≤ hi by omega), Bool.and_false, Bool.and_false]
  rw [State.bit, State.txctlWritten, State.rd_wr_same, wBit_or, wBit_and, wBit_and, wBit_or, hm 29 24 (by omega) (by omega),
    hm 22 16 (by omega) (by omega), wBit_bitW]
  simp [State.bit]

theorem State.svcPayload_txctlWritten (s : State) (n : Nat) (v : Word) : (s.txctlWritten n v).svcPayload n = s.svcPayload n :=
  congrArg bytesOf (List.map_congr_left fun i _ => State.rd_wr_other _ _ (by simp only [Reg.TRN_SVC_TXD, Reg.TRN_SVC_TXCTL]; omega))

theorem State.svcTxctl_idle {n : Nat} {v : Word} (h : wBit v 31 = false ∨ s.bit (Reg.TRN_SVC_TXCTL n) 30 = true) : s.svcTxctl n v = s.txctlWritten n v :=
  if_pos (by rcases h with h | h <;> simp [h])

/-- A message that is not allowed raises its flag. -/
theorem State.svcTxctl_refused {n : Nat} {v : Word} (hg : wBit v 31 = true) (hb : s.bit (Reg.TRN_SVC_TXCTL n) 30 = false)
    (h : wFld v 22 16 < 4 ∨ 64 < wFld v 22 16 ∨ wFld (s.rd (Reg.TRN_SVC_TXD n 0)) 31 16 = 0xFFF0) :
    s.svcTxctl n v = (s.txctlWritten n v).segEvt n 21 := by
  rw [← State.flow_svcPayload, ← s.svcPayload_txctlWritten n v] at h
  exact (if_neg (by simp [hg, hb])).trans (if_pos h)

/-- A message that is allowed waits for the next firmware cycle. -/
theorem State.svcTxctl_taken {n : Nat} {v : Word} (hg : wBit v 31 = true) (hb : s.bit (Reg.TRN_SVC_TXCTL n) 30 = false)
    (h4 : 4 ≤ wFld v 22 16) (h64 : wFld v 22 16 ≤ 64) (hf : wFld (s.rd (Reg.TRN_SVC_TXD n 0)) 31 16 ≠ 0xFFF0) :
    s.svcTxctl n v = ((s.txctlWritten n v).setSeg n
      { s.seg n with msg := some (wFld v 29 24, (s.svcPayload n).take (wFld v 22 16), s.tb.tick) }).setBit (Reg.TRN_SVC_TXCTL n) 30 true := by
  rw [← State.flow_svcPayload, ← s.svcPayload_txctlWritten n v] at hf
  rw [← s.svcPayload_txctlWritten n v]
  exact (if_neg (by simp [hg, hb])).trans (if_neg (by rintro (h | h | h) <;> [omega; omega; exact hf h]))

theorem exec_svcGo {m : Fin 32} {n : Fin 12} (h : s.may m (Reg.TRN_SVC_TXCTL n) true) (v : Word) : exec (.svcGo m n v) s = .next (s.svcTxctl n v) :=
  congrArg Host.Outcome.next (State.regAccess_of_may h _)

theorem trnReg_txctl (n : Fin 12) : trnReg (Reg.TRN_SVC_TXCTL n) := by
  simp only [trnReg, Reg.TRN_SVC_TXCTL]
  omega

/-! ## The frames of DS (R178 to R180) -/

theorem State.OnlyTrn.onlyRegs (h : s.OnlyTrn t l) : s.OnlyRegs { t with trn := s.trn } l := ⟨h.rest, h.regs⟩

theorem State.OnlySegment.onlyRaised (h : s.OnlySegment t l) : s.OnlyRaised { t with trn := s.trn } l := ⟨h.rest, h.regs⟩

/-- The firmware message that waits goes out. -/
def State.msgSent (s : State) (n a : Nat) (c : Word) (p : List Byte) : State :=
  let u := s.sendFrame n 5 a 0x201 c p
  ((u.setSeg n { u.seg n with msg := none }).setBit (Reg.TRN_SVC_TXCTL n) 30 false).segEvt n 20

/-- A link message goes out, and its request is under way. -/
def State.linkSent (s : State) (n k : Nat) (q : LinkReq) (c : Word) (p : List Byte) : State :=
  let u := s.sendFrame n 5 k 0x201 c p
  u.setSeg n { u.seg n with req := some q }

@[simp] theorem State.seg_linkSent (s : State) (n k : Nat) (q : LinkReq) (c : Word) (p : List Byte) :
    (s.linkSent n k q c p).seg n = { s.seg n with tx := frameBytes 5 k n 0x201 (c.toNat % 65536) (s.segHid n) p, req := some q } := by
  rw [State.linkSent, State.seg_setSeg_same, State.seg_sendFrame]

theorem State.onlyRegs_linkSent (h : s.OnlyTrn t []) (n k : Nat) (q : LinkReq) (c : Word) (p : List Byte) :
    s.OnlyRegs { t.linkSent n k q c p with trn := s.trn } [Reg.TRN_PTX n 0, Reg.TRN_PTX n 1] :=
  (((h.mono (by simp)).sendFrame (by simp) (by simp) _ _ _ _ _).setSeg _ _).onlyRegs

theorem State.seg_raise (s : State) (i e : Nat) (w : Word) (n : Nat) : (s.raise i e w).seg n = s.seg n := by
  have h : (s.raise i e w).trn = s.trn := (congrArg State.trn ((State.OnlyRaised.refl s [e]).raise (List.mem_singleton.2 rfl) i w).rest :)
  rw [State.seg, h, State.seg]

theorem State.seg_msgSent (s : State) (n a : Nat) (c : Word) (p : List Byte) : (s.msgSent n a c p).seg n
    = { s.seg n with tx := frameBytes 5 a n 0x201 (c.toNat % 65536) (s.segHid n) p, msg := none } := by
  rw [State.msgSent, State.segEvt, State.seg_raise, State.setBit_wr, State.seg_wr, State.seg_setSeg_same, State.seg_sendFrame]

/-- A firmware message that goes out clears BUSY and is noted. -/
theorem State.msgSent_shows (s : State) (n : Fin 12) (a : Nat) (c : Word) (p : List Byte) : (s.msgSent n a c p).bit (Reg.TRN_SVC_TXCTL n) 30 = false
    ∧ (s.msgSent n a c p).bit (Reg.TRN_SEVT n) 20 = true
    ∧ s.OnlyRaised { s.msgSent n a c p with trn := s.trn } [Reg.TRN_PTX n 0, Reg.TRN_PTX n 1, Reg.TRN_SVC_TXCTL n, Reg.TRN_SEVT n] := by
  have hne : Reg.TRN_SVC_TXCTL n ≠ Reg.TRN_SEVT n := by simp only [Reg.TRN_SVC_TXCTL, Reg.TRN_SEVT]; omega
  refine ⟨?_, ?_, ?_⟩
  · rw [State.msgSent, State.bit, State.segEvt, State.rd_raise_other _ _ _ _ hne (not_delivery_of_trn (trnReg_txctl n))]
    exact (State.bit_setBit _ _ _ _ _ (by omega)).trans (if_pos rfl)
  · rw [State.msgSent, State.segEvt, State.bit_raise _ _ (not_delivery_of_trn (trnReg_sevt n)), wBit_bitW]
    simp
  · have sent := (State.OnlyTrn.refl s [Reg.TRN_PTX n 0, Reg.TRN_PTX n 1, Reg.TRN_SVC_TXCTL n, Reg.TRN_SEVT n]).sendFrame (n := n) (by simp) (by simp)
      5 a 0x201 c p
    exact (((State.OnlySegment.refl s _).frame ((sent.setSeg n _).wr (by simp) _)).raise (by simp) _ _).onlyRaised

section
variable {n : Fin 12} {c : Word} (hc : (s.seg n).cyc = some c) (hs : s.segSends n = true)
include hc hs

theorem downstreamServiceSend_firmware (ho : c.toNat % 2 = 1) {a t0 : Nat} {p : List Byte} (hm : (s.seg n).msg = some (a, p, t0)) :
    downstreamServiceSend n s = if t0 = s.tb.tick then s else s.msgSent n a c p := by
  simp only [downstreamServiceSend, hc, hs, hm, ho, Bool.not_true, Bool.false_eq_true, if_false, if_true]
  rfl

theorem downstreamServiceSend_quiet (ho : c.toNat % 2 = 1) (hm : (s.seg n).msg = none) : downstreamServiceSend n s = s := by
  simp only [downstreamServiceSend, hc, hs, hm, ho, Bool.not_true, Bool.false_eq_true, if_false, if_true]

theorem downstreamServiceSend_link (ho : c.toNat % 2 = 0) (hq : (s.seg n).req = none) : downstreamServiceSend n s = s.linkMessage n c := by
  simp only [downstreamServiceSend, hc, hs, ho, State.lapseReq, hq, Bool.not_true, Bool.false_eq_true, if_false, Nat.zero_ne_one]

end

/-! ## Link messages (R178, R190) -/

theorem State.no_claim {n : Nat} {c : Word} (h8 : c.toNat % 8 ≠ 0 ∨ (s.seg n).claimOn = false) :
    ¬ (c.toNat % 8 = 0 ∧ (s.seg n).claimOn = true ∧ (List.range 32).any (s.slotOpen n) = true) := by
  rintro ⟨h, h', -⟩
  rcases h8 with h8 | h8
  · exact h8 h
  · simp [h8] at h'

section
variable {n : Nat} {c : Word} (hd : ∀ k, k < 32 → (s.node n k).corrDue = false)
include hd

/-- No correction is due. -/
theorem State.lowest_corr : lowest 32 (fun k => (s.node n k).corrDue && s.nodeState n k == nIN) = none :=
  (lowest_eq_none _ _).2 fun k hk => by simp [hd k hk]

theorem State.linkMessage_claim (h8 : c.toNat % 8 = 0) (ho : (s.seg n).claimOn = true) (hk : ∃ k, k < 32 ∧ s.slotOpen n k = true) :
    s.linkMessage n c = s.linkSent n 63 .claim c (claimRequest (c.toNat % 256)) := by
  obtain ⟨k, hk, hopen⟩ := hk
  have ha : (List.range 32).any (s.slotOpen n) = true := List.any_eq_true.2 ⟨k, List.mem_range.2 hk, hopen⟩
  simp only [State.linkMessage, State.lowest_corr hd, h8, ho, ha, and_self, if_true]
  rfl

/-- The offset that a node's second request carries (R176). -/
def State.secondOffset (s : State) (n k : Nat) : Int := ((s.slotNom n k : Int) - s.segOfs n) * 32 - (s.node n k).rA

theorem State.linkMessage_second (h8 : c.toNat % 8 ≠ 0) {k : Nat} {rest : List Nat} (h2 : (s.seg n).second = k :: rest) (hr : s.nodeState n k = nRANGING) :
    s.linkMessage n c = (s.setSeg n { s.seg n with second := (s.seg n).second.filter (fun j => j != k) }).linkSent n k
      (.second k (s.secondOffset n k) (c.toNat % 256)) c
      (s.rangeRequest n k (c.toNat % 256) (some (s.secondOffset n k)) (some (rneDiv (s.node n k).rA 2))) := by
  have hf : (s.seg n).second.find? (fun k => s.nodeState n k == nRANGING && !((s.seg n).grants.any (fun x => x.1 == k) && c.toNat % 8 == 0)) = some k := by
    rw [h2]
    exact List.find?_cons_of_pos (by simp [hr, h8])
  simp only [State.linkMessage, State.lowest_corr hd, h8, hf, false_and, if_false]
  rfl

section
variable (h2 : (s.seg n).second = []) (h8 : c.toNat % 8 ≠ 0 ∨ (s.seg n).claimOn = false)
include h2 h8

theorem State.linkMessage_first {k : Nat} (hk : s.nextRange n = some k) : s.linkMessage n c
    = (s.setSeg n { s.seg n with rr := (k + 1) % 32 }).linkSent n k (.first k (c.toNat % 256)) c (s.rangeRequest n k (c.toNat % 256) none none) := by
  simp only [State.linkMessage, State.lowest_corr hd, h2, State.no_claim h8, hk, List.find?_nil, if_false]
  rfl

theorem State.linkMessage_none (hk : s.nextRange n = none) : s.linkMessage n c = s := by
  simp only [State.linkMessage, State.lowest_corr hd, h2, State.no_claim h8, hk, List.find?_nil, if_false]

end

end

/-! ## The reply window (R154, R169, R175, R176) -/

/-- A service window of a segment cycle that holds its request closes: of the running cycle, or of the one before. -/
theorem replyWindowClose_eq {n : Fin 12} {c q : Word} (hc : (s.seg n).cyc = some c) (ho : s.serviceOpen n q = true)
    (hq : (q = c ∧ ∀ p, (s.seg n).prev = some p → p + 1 ≠ c ∨ s.serviceOpen n p = false) ∨ ((s.seg n).prev = some q ∧ q + 1 = c)) :
    replyWindowClose n s = s.closeService n q := by
  rcases hq with ⟨rfl, hp⟩ | ⟨hp, hn⟩
  · rcases hprev : (s.seg n).prev with _ | p
    · simp only [replyWindowClose, hc, hprev]
    · have hno : ¬ (p + 1 = q ∧ s.serviceOpen n p = true) := fun h => (hp p hprev).elim (absurd h.1) fun h' => by simp [h'] at h
      simp only [replyWindowClose, hc, hprev, if_neg hno]
  · simp only [replyWindowClose, hc, hp, hn, ho, and_self, if_true]

/-- A request under way is of the last link cycle. -/
theorem State.serviceOpen_of_req {n : Nat} {q : Word} (he : q.toNat % 2 = 0) (h : (s.seg n).req.isSome = true) : s.serviceOpen n q = true := by
  simp [State.serviceOpen, he, h]

theorem State.closeService_link {n : Nat} {q : Word} (he : q.toNat % 2 = 0) : s.closeService n q
    = ((s.closeRx n 0x201 q (fun r s => s.takeReply n r)).closeRx n 0x300 q (fun r s => s.takeClaim n q r)).lapseReq n :=
  if_neg (by omega)

theorem State.closeRx_idle {n key : Nat} {q : Word} (ha : (s.slotRx n key q).a = none) (hb : (s.slotRx n key q).b = none) (f : SlotRx → State → State) :
    s.closeRx n key q f = s :=
  if_neg (by simp [State.unjudged, ha, hb])

theorem State.closeRx_copy {n key : Nat} {q : Word} {x : Copy} (h : s.slotRx n key q = { cyc := q, a := some x }) (f : SlotRx → State → State) :
    s.closeRx n key q f = f { cyc := q, a := some x }
      (((s.setSlotRx n key { cyc := q, a := some x, closed := true }).portLoss n 1).abEvt n 29) := by
  simp only [State.closeRx, State.unjudged, h, State.countLoss, Option.isSome_some, Bool.true_or, Bool.not_false, Bool.and_self, if_true]

/-- The copy of channel A came, that of channel B did not: a loss of channel B (R154). -/
structure State.LostB (s u : State) (n : Nat) : Prop where
  loss : u.rd (Reg.TRN_PLOSS n 1) = s.rd (Reg.TRN_PLOSS n 1) + (if s.bit (Reg.TRN_PCFG n 1) 31 then 1 else 0)
  event : u.bit (Reg.TRN_ABEVT n) 29 = true
  trn : u.trn = s.trn
  frame : s.OnlyRaised u [Reg.TRN_PLOSS n 1, Reg.TRN_PSTAT n 1, Reg.TRN_ABEVT n]

theorem trnReg_ploss (n : Fin 12) : trnReg (Reg.TRN_PLOSS n 1) := by
  simp only [trnReg, Reg.TRN_PLOSS]
  omega

theorem State.portLoss_spec (s : State) (n : Fin 12) :
    (s.portLoss n 1).rd (Reg.TRN_PLOSS n 1) = s.rd (Reg.TRN_PLOSS n 1) + (if s.bit (Reg.TRN_PCFG n 1) 31 then 1 else 0) := by
  have hne : Reg.TRN_PLOSS n 1 ≠ Reg.TRN_PSTAT n 1 := by simp only [Reg.TRN_PLOSS, Reg.TRN_PSTAT]; omega
  rw [State.portLoss]
  cases s.bit (Reg.TRN_PCFG n 1) 31
  · simp
  · rw [State.when_true, State.portEvt, State.rd_raise_other _ _ _ _ hne (not_delivery_of_trn (trnReg_ploss n)), State.inc_wr, State.rd_wr_same]
    rfl

theorem State.lostB (s : State) (n : Fin 12) : s.LostB ((s.portLoss n 1).abEvt n 29) n := by
  have hne : Reg.TRN_PLOSS n 1 ≠ Reg.TRN_ABEVT n := by simp only [Reg.TRN_PLOSS, Reg.TRN_ABEVT]; omega
  have frame : s.OnlyRaised ((s.portLoss n 1).abEvt n 29) [Reg.TRN_PLOSS n 1, Reg.TRN_PSTAT n 1, Reg.TRN_ABEVT n] :=
    (State.when_keeps (P := fun x => s.OnlyRaised x _) _ (.refl s _) (((State.OnlyRaised.refl s _).wr (by simp) _).raise (by simp) _ _)).raise (by simp) _ _
  refine ⟨?_, ?_, (congrArg State.trn frame.rest :), frame⟩
  · rw [State.abEvt, State.rd_raise_other _ _ _ _ hne (not_delivery_of_trn (trnReg_ploss n)), State.portLoss_spec]
  · rw [State.abEvt, State.bit_raise _ _ (not_delivery_of_trn (trnReg_abevt n)), wBit_bitW]
    simp

/-- Node k's round trip ra is held, and its second request is due (R175, R176). -/
def State.ranged (s : State) (n k : Nat) (ra : Int) : State :=
  let u := (s.setSeg n { s.seg n with req := none }).wr (Reg.TRN_NODE_RTT n k) (wordI ra)
  let v := (u.setNode n k { u.node n k with rA := ra }).nodeTo n k nRANGING
  v.setSeg n { v.seg n with second := (v.seg n).second.filter (fun j => j != k) ++ [k] }

theorem State.seg_ranged (s : State) (n k : Nat) (ra : Int) :
    (s.ranged n k ra).seg n = { s.seg n with req := none, second := (s.seg n).second.filter (fun j => j != k) ++ [k] } := by
  simp [State.ranged]

theorem State.rA_ranged (s : State) (n k : Nat) (ra : Int) : ((s.ranged n k ra).node n k).rA = ra := by
  rw [State.ranged, State.node_setSeg, State.node_congr (State.trn_nodeTo _ n k nRANGING), State.node_setNode_same]

theorem State.nodeState_ranged (s : State) (n k : Nat) (ra : Int) : (s.ranged n k ra).nodeState n k = nRANGING := by
  rw [State.ranged, State.nodeState, State.fld, State.setSeg_rd]
  exact State.nodeState_nodeTo _ _ _ (by decide)

theorem State.rtt_ranged (s : State) (n k : Nat) (ra : Int) : (s.ranged n k ra).rd (Reg.TRN_NODE_RTT n k) = wordI ra := by
  have far : Reg.TRN_NODE_RTT n k ∉ [Reg.TRN_NODE_STAT n k, Reg.TRN_SSTAT n] := by
    simp only [Reg.TRN_NODE_RTT, Reg.TRN_NODE_STAT, Reg.TRN_SSTAT, List.mem_cons, List.not_mem_nil, or_false]
    omega
  rw [State.ranged, State.setSeg_rd, ((State.OnlyTrn.refl _ [Reg.TRN_NODE_STAT n k, Reg.TRN_SSTAT n]).nodeTo (by simp) (by simp) _).regs _ far]
  exact State.rd_wr_same _ _ _

theorem State.onlyTrn_ranged (s : State) (n k : Nat) (ra : Int) :
    s.OnlyTrn (s.ranged n k ra) [Reg.TRN_NODE_RTT n k, Reg.TRN_NODE_STAT n k, Reg.TRN_SSTAT n] :=
  ((((((State.OnlyTrn.refl s _).setSeg _ _).wr (by simp) _).setNode _ _ _).nodeTo (by simp) (by simp) _).setSeg _ _)

/-- The reply to a first request that came on channel A alone, and keeps the limits of R175. -/
theorem State.takeReply_first {n k tag : Nat} {q : Word} {x : Copy} {ra : Int} (hr : (s.seg n).req = some (.first k tag))
    (ha : (hdrOf x.bytes).addr = k) (hl : 8 ≤ (hdrOf x.bytes).len) (h0 : byteAt (hdrOf x.bytes).payload 0 = 3)
    (h1 : byteAt (hdrOf x.bytes).payload 1 = tag) (h2 : leAt (hdrOf x.bytes).payload 2 2 = 0xFFF0)
    (hra : ra = x.arr - ((s.segDs n + 200 : Nat) : Int) * 32) (hlim : ra ≤ 2 * s.segDlmax n * 32) :
    s.takeReply n { cyc := q, a := some x } = s.ranged n k ra := by
  have far : Reg.TRN_SSVC n ≠ Reg.TRN_NODE_RTT n k := by simp only [Reg.TRN_SSVC, Reg.TRN_NODE_RTT]; omega
  have dl : ((s.setSeg n { s.seg n with req := none }).wr (Reg.TRN_NODE_RTT n k) (wordI ra)).segDlmax n = s.segDlmax n :=
    congrArg (wFld · 28 17) (State.rd_wr_other _ _ far)
  have ok : ((s.setSeg n { s.seg n with req := none }).holdRange n k ra none).rangeOk n ra none = true := by
    simp only [State.rangeOk, State.holdRange, dl, hlim, decide_true, Bool.and_self]
  have hh : ¬ ((hdrOf x.bytes).addr ≠ k ∨ byteAt (hdrOf x.bytes).payload 0 ≠ 3 ∨ byteAt (hdrOf x.bytes).payload 1 ≠ tag
      ∨ leAt (hdrOf x.bytes).payload 2 2 ≠ 0xFFF0 ∨ (hdrOf x.bytes).len < 8) := by
    simp only [ha, h0, h1, h2, ne_eq, not_true_eq_false, false_or]
    omega
  subst hra
  simp only [State.takeReply, SlotRx.chosen, State.roundTrip, hr, if_neg hh, ok, if_true]
  rfl

/-- The link window that holds the channel A reply to a first request closes: the loss is counted, then the round trip is held. -/
theorem State.closeService_first {n : Fin 12} {q : Word} {k tag : Nat} {x : Copy} (he : q.toNat % 2 = 0) (hr : (s.seg n).req = some (.first k tag))
    (hx : s.slotRx n 0x201 q = { cyc := q, a := some x }) (ca : (s.slotRx n 0x300 q).a = none) (cb : (s.slotRx n 0x300 q).b = none)
    (ha : (hdrOf x.bytes).addr = k) (hl : 8 ≤ (hdrOf x.bytes).len) (h0 : byteAt (hdrOf x.bytes).payload 0 = 3)
    (h1 : byteAt (hdrOf x.bytes).payload 1 = tag) (h2 : leAt (hdrOf x.bytes).payload 2 2 = 0xFFF0)
    (hlim : x.arr - ((s.segDs n + 200 : Nat) : Int) * 32 ≤ 2 * s.segDlmax n * 32) :
    s.closeService n q = (((s.setSlotRx n 0x201 { cyc := q, a := some x, closed := true }).portLoss n 1).abEvt n 29).ranged n k
      (x.arr - ((s.segDs n + 200 : Nat) : Int) * 32) := by
  obtain ⟨-, -, trn, frame⟩ := (s.setSlotRx n 0x201 { cyc := q, a := some x, closed := true }).lostB n
  set u := ((s.setSlotRx n 0x201 { cyc := q, a := some x, closed := true }).portLoss n 1).abEvt n 29 with hu
  have seg : u.seg n = { s.seg n with rx := Table.set (fun _ => ({} : SlotRx)) (s.seg n).rx 0x201 { cyc := q, a := some x, closed := true } } := by
    rw [State.seg, trn]
    exact State.seg_setSeg_same _ _ _
  have ds : u.segDs n = s.segDs n := congrArg (wFld · 16 0) (frame.rd_trn (by simp only [trnReg, Reg.TRN_SDSV]; omega) (by
    simp only [Reg.TRN_SDSV, Reg.TRN_PLOSS, Reg.TRN_PSTAT, Reg.TRN_ABEVT, List.mem_cons, List.not_mem_nil, or_false]; omega))
  have dl : u.segDlmax n = s.segDlmax n := congrArg (wFld · 28 17) (frame.rd_trn (by simp only [trnReg, Reg.TRN_SSVC]; omega) (by
    simp only [Reg.TRN_SSVC, Reg.TRN_PLOSS, Reg.TRN_PSTAT, Reg.TRN_ABEVT, List.mem_cons, List.not_mem_nil, or_false]; omega))
  have claims : (u.ranged n k (x.arr - ((s.segDs n + 200 : Nat) : Int) * 32)).slotRx n 0x300 q = s.slotRx n 0x300 q := by
    simp only [State.slotRx, State.seg_ranged, seg, Table.get_set_other _ _ _ (show (0x300 : Nat) ≠ 0x201 by decide)]
  rw [State.closeService_link he, State.closeRx_copy hx, ← hu,
    State.takeReply_first (by rw [seg]; exact hr) ha hl h0 h1 h2 (by rw [ds]) (by rw [dl]; exact hlim),
    State.closeRx_idle (by rw [claims]; exact ca) (by rw [claims]; exact cb), State.lapseReq, State.seg_ranged]

/-- A second request without an answer brings its node back to ABSENT (R176). -/
theorem State.closeService_second {n : Nat} {q : Word} {k tag : Nat} {so : Int} (he : q.toNat % 2 = 0) (hr : (s.seg n).req = some (.second k so tag))
    (hs : s.nodeState n k = nRANGING) (ra : (s.slotRx n 0x201 q).a = none) (rb : (s.slotRx n 0x201 q).b = none)
    (ca : (s.slotRx n 0x300 q).a = none) (cb : (s.slotRx n 0x300 q).b = none) :
    s.closeService n q = (s.setSeg n { s.seg n with req := none }).nodeTo n k nABSENT := by
  rw [State.closeService_link he, State.closeRx_idle ra rb, State.closeRx_idle ca cb, State.lapseReq, hr]
  exact if_pos hs

/-- The reply to a first request, judged with the loss of channel B. -/
theorem State.replied (s : State) (n : Fin 12) {k : Nat} (hk : k < 32) (r : SlotRx) (ra : Int) :
    ∃ t, t = (((s.setSlotRx n 0x201 r).portLoss n 1).abEvt n 29).ranged n k ra
      ∧ t.seg n = { s.seg n with
          rx := Table.set (fun _ => ({} : SlotRx)) (s.seg n).rx 0x201 r, req := none, second := (s.seg n).second.filter (fun j => j != k) ++ [k] }
      ∧ t.rd (Reg.TRN_PLOSS n 1) = s.rd (Reg.TRN_PLOSS n 1) + (if s.bit (Reg.TRN_PCFG n 1) 31 then 1 else 0) ∧ t.bit (Reg.TRN_ABEVT n) 29 = true
      ∧ s.OnlyRaised { t with trn := s.trn } [Reg.TRN_PLOSS n 1, Reg.TRN_PSTAT n 1, Reg.TRN_ABEVT n, Reg.TRN_NODE_RTT n k, Reg.TRN_NODE_STAT n k,
          Reg.TRN_SSTAT n] := by
  obtain ⟨loss, event, trn, frame⟩ := (s.setSlotRx n 0x201 r).lostB n
  set u := ((s.setSlotRx n 0x201 r).portLoss n 1).abEvt n 29
  have ranged := u.onlyTrn_ranged n k ra
  have hpl : Reg.TRN_PLOSS n 1 ∉ [Reg.TRN_NODE_RTT n k, Reg.TRN_NODE_STAT n k, Reg.TRN_SSTAT n] := by
    simp only [Reg.TRN_PLOSS, Reg.TRN_NODE_RTT, Reg.TRN_NODE_STAT, Reg.TRN_SSTAT, List.mem_cons, List.not_mem_nil, or_false]
    omega
  have hab : Reg.TRN_ABEVT n ∉ [Reg.TRN_NODE_RTT n k, Reg.TRN_NODE_STAT n k, Reg.TRN_SSTAT n] := by
    simp only [Reg.TRN_ABEVT, Reg.TRN_NODE_RTT, Reg.TRN_NODE_STAT, Reg.TRN_SSTAT, List.mem_cons, List.not_mem_nil, or_false]
    omega
  refine ⟨_, rfl, ?_, (ranged.regs _ hpl).trans loss, (congrArg (wBit · 29) (ranged.regs _ hab)).trans event, ?_⟩
  · rw [State.seg_ranged, State.seg, trn, State.setSlotRx, State.setSeg]
    simp
  · exact ((((State.OnlySegment.refl s _).trn _).raised (frame.mono (by simp))).frame (ranged.mono (by simp))).onlyRaised

/-- TRN_SVC_TXCTL as SVC_GO leaves it: a message taken, refused, or none asked for. -/
theorem State.svcGo_spec (n : Fin 12) (v : Word) :
    (wBit v 31 = true → s.bit (Reg.TRN_SVC_TXCTL n) 30 = false →
      (4 ≤ wFld v 22 16 → wFld v 22 16 ≤ 64 → wFld (s.rd (Reg.TRN_SVC_TXD n 0)) 31 16 ≠ 0xFFF0 →
        ((s.svcTxctl n v).seg n).msg = some (wFld v 29 24, (s.svcPayload n).take (wFld v 22 16), s.tb.tick)
        ∧ (s.svcTxctl n v).bit (Reg.TRN_SVC_TXCTL n) 30 = true ∧ s.OnlyRegs { s.svcTxctl n v with trn := s.trn } [Reg.TRN_SVC_TXCTL n])
      ∧ (wFld v 22 16 < 4 ∨ 64 < wFld v 22 16 ∨ wFld (s.rd (Reg.TRN_SVC_TXD n 0)) 31 16 = 0xFFF0 →
        (s.svcTxctl n v).bit (Reg.TRN_SEVT n) 21 = true ∧ (s.svcTxctl n v).bit (Reg.TRN_SVC_TXCTL n) 30 = false
        ∧ s.OnlyRaised (s.svcTxctl n v) [Reg.TRN_SVC_TXCTL n, Reg.TRN_SEVT n]))
    ∧ (wBit v 31 = false ∨ s.bit (Reg.TRN_SVC_TXCTL n) 30 = true →
        s.OnlyRegs (s.svcTxctl n v) [Reg.TRN_SVC_TXCTL n] ∧ (s.svcTxctl n v).bit (Reg.TRN_SVC_TXCTL n) 30 = s.bit (Reg.TRN_SVC_TXCTL n) 30) := by
  refine ⟨fun hg hb => ⟨fun h4 h64 hf => ?_, fun h => ?_⟩, fun h => ?_⟩
  · rw [State.svcTxctl_taken hg hb h4 h64 hf]
    refine ⟨?_, (State.bit_setBit _ _ _ _ _ (by omega)).trans (if_pos rfl), ?_⟩
    · rw [State.setBit_wr, State.seg_wr, State.seg_setSeg_same]
    · exact ((((State.OnlyTrn.refl s _).wr (by simp) _).setSeg n _).wr (by simp) _).onlyRegs
  · rw [State.svcTxctl_refused hg hb h]
    have hne : Reg.TRN_SVC_TXCTL n ≠ Reg.TRN_SEVT n := by simp only [Reg.TRN_SVC_TXCTL, Reg.TRN_SEVT]; omega
    refine ⟨?_, ?_, ((State.OnlyRaised.refl s _).wr (by simp) _).raise (by simp) _ _⟩
    · rw [State.segEvt, State.bit_raise _ _ (not_delivery_of_trn (trnReg_sevt n)), wBit_bitW]
      simp
    · rw [State.bit, State.segEvt, State.rd_raise_other _ _ _ _ hne (not_delivery_of_trn (trnReg_txctl n))]
      exact (s.busy_txctlWritten n v).trans hb
  · rw [State.svcTxctl_idle h]
    exact ⟨s.onlyRegs_txctlWritten n v, s.busy_txctlWritten n v⟩

/-- Settles O44: SVC_GO by its three outcomes, DOWNSTREAM_SERVICE_SEND by the frame it sends, the reply window by the request under way. -/
theorem serviceMessages : Obligations.ServiceMessages := by
  unfold Obligations.ServiceMessages
  refine ⟨fun s m n v hm => ?_, fun s n c hc hs => ⟨fun ho a p t0 hmsg => ⟨fun h0 => ?_, fun h0 => ?_⟩, fun ho hmsg => ?_, fun h8 hq hd hcl hk => ?_,
    fun he h8 hq hd k rest h2 _ hr => ?_, fun he hq h2 hd h8 => ⟨fun k hk => ?_, fun hk => ?_⟩⟩,
    fun s n c q k tag x hc hq he hk hr hx ca cb ha hl h0 h1 h2 hlim => ?_, fun s n c q k tag so hc hq he _ hr hs ra rb ca cb => ?_⟩
  · obtain ⟨go, stay⟩ := State.svcGo_spec (s := s) n v
    refine ⟨fun hg hb => ⟨fun h4 h64 hf => ⟨_, exec_svcGo hm v, (go hg hb).1 h4 h64 hf⟩, fun h => ⟨_, exec_svcGo hm v, (go hg hb).2 h⟩⟩,
      fun h => ⟨_, exec_svcGo hm v, stay h⟩⟩
  · exact congrArg Host.Outcome.next ((downstreamServiceSend_firmware hc hs ho hmsg).trans (if_pos h0))
  · obtain ⟨busy, event, frame⟩ := s.msgSent_shows n a c p
    refine ⟨_, congrArg Host.Outcome.next ((downstreamServiceSend_firmware hc hs ho hmsg).trans (if_neg h0)), ?_, busy, event, ?_, frame⟩
    · rw [State.seg_msgSent]
    · rw [State.seg_msgSent]
  · exact congrArg Host.Outcome.next (downstreamServiceSend_quiet hc hs ho hmsg)
  · refine ⟨_, congrArg Host.Outcome.next ((downstreamServiceSend_link hc hs (by omega) hq).trans (State.linkMessage_claim hd h8 hcl hk)), ?_, ?_,
      State.onlyRegs_linkSent (.refl s _) _ _ _ _ _⟩
    · rw [State.seg_linkSent]
    · rw [State.seg_linkSent]
  · refine ⟨_, congrArg Host.Outcome.next ((downstreamServiceSend_link hc hs he hq).trans (State.linkMessage_second hd h8 h2 hr)), ?_, ?_,
      State.onlyRegs_linkSent ((State.OnlyTrn.refl s _).setSeg _ _) _ _ _ _ _⟩
    · rw [State.seg_linkSent, State.secondOffset]
    · rw [State.seg_linkSent]
      rfl
  · refine ⟨_, congrArg Host.Outcome.next ((downstreamServiceSend_link hc hs he hq).trans (State.linkMessage_first hd h2 h8 hk)), ?_, ?_, ?_,
      State.onlyRegs_linkSent ((State.OnlyTrn.refl s _).setSeg _ _) _ _ _ _ _⟩
    · rw [State.seg_linkSent]
    · rw [State.seg_linkSent, State.seg_setSeg_same]
    · rw [State.seg_linkSent]
      rfl
  · exact congrArg Host.Outcome.next ((downstreamServiceSend_link hc hs he hq).trans (State.linkMessage_none hd h2 h8 hk))
  · obtain ⟨t, ht, seg, loss, event, frame⟩ := s.replied n hk { cyc := q, a := some x, closed := true } (x.arr - ((s.segDs n + 200 : Nat) : Int) * 32)
    have run := (replyWindowClose_eq hc (State.serviceOpen_of_req he (by rw [hr]; rfl)) hq).trans (State.closeService_first he hr hx ca cb ha hl h0 h1 h2 hlim)
    refine ⟨t, congrArg Host.Outcome.next (run.trans ht.symm), ?_, ?_, ?_, by rw [seg], by rw [seg], loss, event, frame⟩
    · rw [ht, State.nodeState_ranged]
    · rw [ht, State.rA_ranged]
    · rw [ht, State.rtt_ranged]
  · have run := (replyWindowClose_eq hc (State.serviceOpen_of_req he (by rw [hr]; rfl)) hq).trans (State.closeService_second he hr hs ra rb ca cb)
    refine ⟨_, congrArg Host.Outcome.next run, ?_, State.nodeState_nodeTo _ _ _ (by decide), ?_⟩
    · rw [State.seg_nodeTo, State.seg_setSeg_same]
    · exact (((State.OnlyTrn.refl s _).setSeg _ _).nodeTo (by simp) (by simp) _).onlyRegs

end Sys2Proof.Machine
end

section
/-! A pair's link, beacons and lease (R382, R383, R386, R388). -/

namespace Sys2Proof.Machine

variable {s t : State}

/-! ## Link and beacon -/

/-- A bit of PAIR_STAT is written, and nothing else. -/
theorem State.pairStat_set (s : State) {i : Nat} (hi : i < 32) (b : Bool) :
    (s.setBit Reg.PAIR_STAT i b).bit Reg.PAIR_STAT i = b ∧ s.OnlyRegs (s.setBit Reg.PAIR_STAT i b) [Reg.PAIR_STAT] :=
  ⟨State.bit_setBit_same _ _ hi _, (State.OnlyRegs.refl s _).wr (by simp) _⟩

/-- Bit i of what four inputs make, below 16. -/
theorem mkBit_lt {i : Nat} (hi : i < 4) (b : Bool) : (mkBit i b).toNat < 16 := by
  cases b
  · simp [mkBit]
  · obtain rfl | rfl | rfl | rfl : i = 0 ∨ i = 1 ∨ i = 2 ∨ i = 3 := by omega
    all_goals decide

theorem State.health_lt (s : State) : s.health < 16 := by
  rw [State.health]
  simp only [BitVec.toNat_or]
  exact Nat.or_lt_two_pow (n := 4) (Nat.or_lt_two_pow (Nat.or_lt_two_pow (mkBit_lt (by omega) _) (mkBit_lt (by omega) _)) (mkBit_lt (by omega) _))
    (mkBit_lt (by omega) _)

theorem State.beaconDue_iff (s : State) : s.beaconDue = true ↔ (s.pair.sentAt = none ∧ s.tb.ctick = 0)
    ∨ ∃ b, s.pair.sentAt = some b ∧ b < s.tb.tick ∧ (s.tb.tick - b) % s.fld Reg.PAIR_BPER 16 0 = 0 := by
  rw [State.beaconDue]
  cases s.pair.sentAt <;> simp

/-- The part of a beacon that tells of this unit's own last reception. -/
def State.rxPart (s : State) : List Byte × Nat :=
  match s.pair.rxStamp with
  | some (q, t) => (stampBytes (t * 65536), q)
  | none => (List.replicate 8 (0xFF : Byte), 0xFFFFFFFF)

/-- A beacon's payload (R383). -/
def State.beaconBytes (s : State) (fine : Nat) : List Byte :=
  [byte s.pairRole, byte s.health] ++ leBytes 2 (s.resv 520).toNat ++ leBytes 4 s.tb.cyc.toNat ++ leBytes 4 s.tb.ctick ++ stampBytes (s.netAt fine)
    ++ s.rxPart.1 ++ leBytes 4 s.rxPart.2

theorem length_stampBytes (n : Int) : (stampBytes n).length = 8 := by simp [stampBytes]

theorem State.length_beaconBytes (s : State) (fine : Nat) : (s.beaconBytes fine).length = 32 := by
  have h : s.rxPart.1.length = 8 := by
    rw [State.rxPart]
    split <;> simp [length_stampBytes]
  simp [State.beaconBytes, length_stampBytes, h]

theorem length_pairFrame (type seq : Nat) (p : List Byte) : (pairFrame type seq p).length = 12 + p.length := by
  simp only [pairFrame, List.length_append, List.length_cons, List.length_nil, leBytes_length]
  omega

theorem pairFrame_head (type seq : Nat) (p : List Byte) : (pairFrame type seq p).take 8 = [byte type, 1] ++ leBytes 2 p.length ++ leBytes 4 seq := by
  simp [pairFrame, leBytes]

/-- The beacon has left: sent is what is kept of it. -/
def State.beaconSent (s : State) (p : List Byte) (x : Nat × Int) : State :=
  let u := (s.takeFree.pairSend 1 p).setFld Reg.PAIR_STAT 23 20 s.health
  { u with pair := { u.pair with sent := x :: u.pair.sent, sentAt := some s.tb.tick } }

theorem beaconSend_idle {f : Nat} (h : s.pairEn = false ∨ s.beaconDue = false) : beaconSend f s = s := if_pos (by rcases h with h | h <;> simp [h])

theorem beaconSend_due (f : Nat) (he : s.pairEn = true) (hd : s.beaconDue = true) : ∃ x, beaconSend f s
    = if s.pairRole = 1 ∧ s.health = 15 then
        { s.beaconSent (s.beaconBytes f) x with pair := { (s.beaconSent (s.beaconBytes f) x).pair with leaseEnd := some (s.tb.tick + s.lease) } }
      else s.beaconSent (s.beaconBytes f) x := by
  refine ⟨(Table.get (fun _ => 0) s.pair.seqs 1, stampVal (stampBytes (s.netAt f))), (if_neg (by simp [he, hd])).trans ?_⟩
  have hl : ((s.takeFree.pairSend 1 (s.beaconBytes f)).setFld Reg.PAIR_STAT 23 20 s.health).lease = s.lease :=
    congrArg (wFld · 22 0) (State.rd_wr_other _ _ (by decide))
  rw [← hl]
  rfl

/-- What a beacon shows. -/
theorem State.beaconSent_shows (s : State) (p : List Byte) (x : Nat × Int) : (s.beaconSent p x).fld Reg.PAIR_STAT 23 20 = s.health
    ∧ s.OnlyRegs { s.beaconSent p x with free := s.free, pair := s.pair } [Reg.PAIR_STAT] := by
  constructor
  · have e : (s.beaconSent p x).fld Reg.PAIR_STAT 23 20 = ((s.takeFree.pairSend 1 p).setFld Reg.PAIR_STAT 23 20 s.health).fld Reg.PAIR_STAT 23 20 := rfl
    rw [e, State.fld_setFld_same _ _ (by omega) (by omega)]
    exact Nat.mod_eq_of_lt s.health_lt
  · exact (State.OnlyRegs.refl s _).wr (List.mem_singleton.2 rfl) (wSetFld (s.rd Reg.PAIR_STAT) 23 20 s.health)

/-- A beacon's header. -/
theorem State.beacon_head (s : State) (f : Nat) : (pairFrame 1 (Table.get (fun _ => 0) s.pair.seqs 1) (s.beaconBytes f)).take 8
    = [1, 1, 32, 0] ++ leBytes 4 (Table.get (fun _ => 0) s.pair.seqs 1) := by
  rw [pairFrame_head, State.length_beaconBytes]
  rfl

/-! ## The lease -/

/-- Every enabled segment falls silent. -/
def State.leaseSilent (s : State) : State :=
  s.each ((List.range 12).filter s.segEn) (fun n s => (s.setFld (Reg.TRN_SSTAT n) 31 29 4).setSeg n { s.seg n with req := none, second := [] })

/-- Every group stops with cause 2. -/
def State.leaseStops (s : State) : State := (s.pwmStopAll.each (List.range 8) (fun g s => s.stopCause g 2)).stoEvery 2

theorem leaseLapse_idle (h : s.pair.leaseEnd = none ∨ s.pairRole ≠ 1 ∨ s.tb.ctick ≠ 0 ∨ ∃ e, s.pair.leaseEnd = some e ∧ s.tb.tick < e) :
    leaseLapse s = s := by
  rcases hl : s.pair.leaseEnd with _ | e
  · simp only [leaseLapse, hl]
  · simp only [leaseLapse, hl]
    refine if_pos ?_
    rcases h with h | h | h | ⟨_, h, ht⟩
    · exact absurd (hl.symm.trans h) (by simp)
    · exact .inl h
    · exact .inr (.inl h)
    · exact .inr (.inr (by rwa [Option.some_inj.1 (hl.symm.trans h)]))

theorem leaseLapse_due {e : Nat} (hl : s.pair.leaseEnd = some e) (hr : s.pairRole = 1) (hc : s.tb.ctick = 0) (he : e ≤ s.tb.tick) :
    leaseLapse s = (({ s.leaseSilent.leaseStops with
        trn := { s.leaseSilent.leaseStops.trn with silence := 0, cold := none }, saf := { s.leaseSilent.leaseStops.saf with xdem := 255 }
        pair := { s.leaseSilent.leaseStops.pair with leaseEnd := none } } : State).setFld Reg.PAIR_STAT 31 29 3).pairEvt 30 := by
  simp only [leaseLapse, hl]
  exact if_neg (by omega)

theorem State.onlyTrn_leaseSilent (s : State) : s.OnlyTrn s.leaseSilent ((List.range 12).map Reg.TRN_SSTAT) :=
  State.each_keeps (P := fun u => s.OnlyTrn u _) (.refl s _) fun _ hn _ hu => (hu.wr (List.mem_map_of_mem (List.mem_filter.1 hn).1) _).setSeg _ _

theorem State.segState_leaseSilent {n : Nat} (hn : n < 12) (h : s.segEn n = true) : s.leaseSilent.segState n = 4 := by
  refine State.each_reaches (P := fun _ => True) (Q := fun u => u.segState n = 4) (x := n) (fun u _ => ?_) (List.mem_filter.2 ⟨List.mem_range.2 hn, h⟩) trivial
    (fun _ _ _ _ => trivial) (fun j _ u hu => ?_)
  · rw [State.segState, State.fld, State.setSeg_rd]
    exact State.fld_setFld_same _ _ (by omega) (by omega) _
  · by_cases hj : j = n
    · subst hj
      rw [State.segState, State.fld, State.setSeg_rd]
      exact State.fld_setFld_same _ _ (by omega) (by omega) _
    · rw [State.segState, State.fld, State.setSeg_rd, State.setFld_wr, State.rd_wr_other _ _ (by simp only [Reg.TRN_SSTAT]; omega)]
      exact hu

theorem State.pwmStopAll_rest (s : State) : { s.pwmStopAll with pwm := s.pwm } = s :=
  State.each_keeps (P := fun u => { u with pwm := s.pwm } = s) rfl fun g _ _ hu =>
    State.stopAtValley_keeps (P := fun u => { u with pwm := s.pwm } = s) hu g hu

/-- A stop with cause 2 leaves the other causes at 2. -/
theorem State.cause_stopCause (s : State) {g j : Nat} (h : j = g ∨ s.fld (Reg.SAF_GRP j) 23 20 = 2) : (s.stopCause g 2).fld (Reg.SAF_GRP j) 23 20 = 2 := by
  by_cases hj : j = g
  · subst hj
    exact State.fld_setFld_same _ _ (by omega) (by omega) _
  · rw [State.fld, State.stopCause, State.setFld_wr, State.rd_wr_other _ _ (by simp only [Reg.SAF_GRP]; omega)]
    exact h.resolve_left hj

theorem State.rd_grpTo (s : State) (bas : Bool) {g j st : Nat} (hj : j < 8) : (s.grpTo bas g st).rd (Reg.SAF_GRP j) = s.rd (Reg.SAF_GRP j) := by
  have far : ∀ j, j < 8 → Reg.SAF_GRP j ∉ [Reg.SAF_EVTSEQ] ++ noticeRegs := by decide
  unfold State.grpTo
  dsimp only
  split
  · rfl
  · refine ((State.onlyNoticed_safetyEvent _ _ _).regs _ (far j hj)).trans ?_
    cases bas <;> rfl

theorem State.cause_sto (s : State) (bas : Bool) {g j : Nat} (hj : j < 8) (h : s.fld (Reg.SAF_GRP j) 23 20 = 2) :
    (s.sto bas g 2).fld (Reg.SAF_GRP j) 23 20 = 2 := by
  rw [State.sto]
  split
  · exact h
  · exact (congrArg (wFld · 23 20) (State.rd_grpTo _ bas hj)).trans (State.cause_stopCause s (.inr h))

theorem State.cause_leaseStops (s : State) {g : Nat} (hg : g < 8) : s.leaseStops.fld (Reg.SAF_GRP g) 23 20 = 2 := by
  have all : (s.pwmStopAll.each (List.range 8) (fun g s => s.stopCause g 2)).fld (Reg.SAF_GRP g) 23 20 = 2 :=
    State.each_reaches (P := fun _ => True) (Q := fun u => u.fld (Reg.SAF_GRP g) 23 20 = 2) (f := fun g s => s.stopCause g 2) (x := g)
      (fun u _ => State.cause_stopCause u (.inl rfl)) (List.mem_range.2 hg) trivial (fun _ _ _ _ => trivial) fun _ _ u hu => State.cause_stopCause u (.inr hu)
  exact State.each_keeps (P := fun u => u.fld (Reg.SAF_GRP g) 23 20 = 2) all fun b _ _ hu =>
    State.each_keeps (P := fun u => u.fld (Reg.SAF_GRP g) 23 20 = 2) hu fun _ _ u hv => u.cause_sto b hg hv

theorem State.onlySafety_leaseStops (s : State) : s.pwmStopAll.OnlySafety s.leaseStops [] :=
  have causes : s.pwmStopAll.OnlySafety (s.pwmStopAll.each (List.range 8) (fun g s => s.stopCause g 2)) [] :=
    State.each_keeps (P := fun u => s.pwmStopAll.OnlySafety u []) (.refl _ _) fun _ hg _ hu => hu.stopCause (List.mem_range.1 hg) 2
  State.each_keeps (P := fun u => s.pwmStopAll.OnlySafety u []) causes fun b _ _ hu =>
    State.each_keeps (P := fun u => s.pwmStopAll.OnlySafety u []) hu fun _ hg _ hv => hv.sto b (List.mem_range.1 hg) 2

theorem State.rd_leaseStops (s : State) {a : Nat} (ha : a ∉ safetyRegs) : s.leaseStops.rd a = s.rd a := by
  have e : s.pwmStopAll.regs = s.regs := (congrArg State.regs s.pwmStopAll_rest :)
  refine (s.onlySafety_leaseStops.regs a (by simpa using ha)).trans ?_
  rw [State.rd, e, State.rd]

theorem State.sameMemory_pwmStopAll (s : State) : s.SameMemory s.pwmStopAll :=
  ⟨(congrArg State.hall s.pwmStopAll_rest :), (congrArg State.pv s.pwmStopAll_rest :), (congrArg (·.cap.dram) s.pwmStopAll_rest :)⟩

theorem State.sameStore_leaseStops (s : State) : s.SameStore s.leaseStops := s.sameMemory_pwmStopAll.thenStore s.onlySafety_leaseStops.sameStore

theorem not_safety_sstat : ∀ n, n < 12 → Reg.TRN_SSTAT n ∉ safetyRegs := by decide

/-- What the lapse of a lease shows. -/
structure State.Lapsed (s t : State) : Prop where
  role : t.pairRole = 3
  event : t.bit Reg.PAIR_EVT 30 = true
  lease : t.pair.leaseEnd = none
  xdem : t.saf.xdem = 255
  segs : ∀ n, n < 12 → s.segEn n = true → t.segState n = 4
  causes : ∀ g, g < 8 → t.fld (Reg.SAF_GRP g) 23 20 = 2
  store : s.SameStore t

theorem State.lapsed {e : Nat} (hl : s.pair.leaseEnd = some e) (hr : s.pairRole = 1) (hc : s.tb.ctick = 0) (he : e ≤ s.tb.tick) :
    s.Lapsed (leaseLapse s) := by
  have far : ∀ (u : State) {a : Nat}, a ≠ Reg.PAIR_STAT → a ≠ Reg.PAIR_EVT → ((u.setFld Reg.PAIR_STAT 31 29 3).pairEvt 30).rd a = u.rd a :=
    fun u a h h' => (State.rd_wr_other _ _ h').trans (State.rd_wr_other _ _ h)
  have sil : s.SameMemory s.leaseSilent := s.onlyTrn_leaseSilent.sameMemory
  obtain ⟨hall, pv, dram⟩ := sil.thenStore s.leaseSilent.sameStore_leaseStops
  rw [leaseLapse_due hl hr hc he]
  refine ⟨?_, ?_, rfl, rfl, fun n hn hen => ?_, fun g hg => ?_, hall, pv, dram⟩
  · refine (congrArg (wFld · 31 29) (State.rd_wr_other _ _ (by decide))).trans ?_
    exact State.fld_setFld_same _ _ (by omega) (by omega) _
  · rw [State.pairEvt, State.bit, State.orBits, State.rd_wr_same, wBit_or, wBit_bitW]
    simp
  · refine (congrArg (wFld · 31 29) ((far _ ?_ ?_).trans (s.leaseSilent.rd_leaseStops (not_safety_sstat n hn)))).trans (State.segState_leaseSilent hn hen)
    · simp only [Reg.TRN_SSTAT, Reg.PAIR_STAT]; omega
    · simp only [Reg.TRN_SSTAT, Reg.PAIR_EVT]; omega
  · refine (congrArg (wFld · 23 20) (far _ ?_ ?_)).trans (s.leaseSilent.cause_leaseStops hg)
    · simp only [Reg.SAF_GRP, Reg.PAIR_STAT]; omega
    · simp only [Reg.SAF_GRP, Reg.PAIR_EVT]; omega

end Sys2Proof.Machine
end

section
/-! The frames of a partner (R382, R383, R387, R389 to R392). -/

namespace Sys2Proof.Machine

variable {s t : State} {ok : Bool} {b : List Byte} {f i : Nat} {k : Option (Fin 256)}

/-! ## Acceptance -/

theorem partnerFrameReceive_off (h : s.pairEn = false ∨ s.bit Reg.PAIR_STAT 28 = false) : partnerFrameReceive ok b f k i s = s :=
  if_pos (by rcases h with h | h <;> simp [h])

/-- A frame that is counted as an error. -/
theorem partnerFrameReceive_bad (he : s.pairEn = true) (hl : s.bit Reg.PAIR_STAT 28 = true)
    (h : ok = false ∨ b.length ≠ 12 + leAt b 2 2 ∨ 1024 < leAt b 2 2 ∨ byteAt b 1 ≠ 1 ∨ crc32 (b.take (8 + leAt b 2 2)) ≠ leAt b (8 + leAt b 2 2) 4) :
    partnerFrameReceive ok b f k i s = s.inc Reg.PAIR_ERRCNT :=
  (if_neg (by simp [he, hl])).trans (if_pos (by rcases h with h | h | h | h | h <;> simp [h]))

/-- What a frame of the partner does by its type. -/
def State.partnerTaken (s : State) (seq f : Nat) (k : Option (Fin 256)) (i : Nat) (p : List Byte) : Nat → State
  | 1 => s.beaconReceive seq f p
  | 2 => s.chunkReceive seq p
  | 3 => s.refreshReceive k i p
  | 4 => if s.pairRole = 1 then s.each (List.range 12) (fun n s => s.wr (Reg.PAIR_SPAN n) (word (leAt p (4 * n) 4))) else s
  | _ => s

/-- A frame whose checks hold is taken by its type. -/
theorem partnerFrameReceive_good (he : s.pairEn = true) (hl : s.bit Reg.PAIR_STAT 28 = true) (ho : ok = true) (hb : b.length = 12 + leAt b 2 2)
    (h1 : leAt b 2 2 ≤ 1024) (hv : byteAt b 1 = 1) (hx : crc32 (b.take (8 + leAt b 2 2)) = leAt b (8 + leAt b 2 2) 4) :
    partnerFrameReceive ok b f k i s = s.partnerTaken (leAt b 4 4) f k i ((b.drop 8).take (leAt b 2 2)) (byteAt b 0) :=
  (if_neg (by simp [he, hl])).trans (if_neg (by simp [ho, hb, hv, hx, h1]))

/-! ## Beacons -/

/-- What every unit takes of a beacon. -/
def State.beaconShown (s : State) (seq f : Nat) (p : List Byte) : State :=
  let u := (s.setFld Reg.PAIR_STAT 19 16 (byteAt p 1 % 16)).when (decide (byteAt p 1 % 16 ≠ 15)) (fun s => s.pairEvt 25)
  { u with pair := { u.pair with beaconAt := some u.tb.tick, heard := some (byteAt p 0), rxStamp := some (seq, s.netAt f / 65536) } }

/-- t is s but for PAIR_DLY, the time base and what the pair keeps of stamps. -/
structure State.OnlySteered (s t : State) : Prop where
  regs : s.RegsBut t [Reg.PAIR_DLY]
  memory : s.SameMemory t
  beacon : t.pair.beaconAt = s.pair.beaconAt
  heard : t.pair.heard = s.pair.heard

theorem State.OnlySteered.refl (s : State) : s.OnlySteered s := ⟨.refl s _, ⟨rfl, rfl, rfl⟩, rfl, rfl⟩

theorem State.OnlySteered.steer (h : s.OnlySteered t) (c : Word) (a f : Nat) : s.OnlySteered (t.steer c a f) := by
  obtain ⟨regs, ⟨hall, pv, dram⟩, beacon, heard⟩ := h
  exact ⟨regs, ⟨hall, pv, dram⟩, beacon, heard⟩

theorem State.OnlySteered.measured (h : s.OnlySteered t) (o : Int) : s.OnlySteered (t.measured o) := by
  obtain ⟨regs, ⟨hall, pv, dram⟩, beacon, heard⟩ := h
  exact State.ite_keeps (P := s.OnlySteered) ⟨regs, ⟨hall, pv, dram⟩, beacon, heard⟩ ⟨regs, ⟨hall, pv, dram⟩, beacon, heard⟩

/-- The link delay of a beacon's stamps is kept. -/
theorem State.OnlySteered.delay (h : s.OnlySteered t) (v : Word) (l : List (Nat × Int)) :
    s.OnlySteered { t.wr Reg.PAIR_DLY v with pair := { t.pair with sent := l } } := by
  obtain ⟨regs, ⟨hall, pv, dram⟩, beacon, heard⟩ := h
  exact ⟨regs.wr (by simp) v, ⟨hall, pv, dram⟩, beacon, heard⟩

/-- Beyond what a beacon shows, the standby steers its time base. -/
theorem State.beaconReceive_steers (s : State) (seq f : Nat) (p : List Byte) : (s.beaconShown seq f p).OnlySteered (s.beaconReceive seq f p) := by
  have base := State.OnlySteered.refl (s.beaconShown seq f p)
  unfold State.beaconReceive
  refine State.ite_keeps (P := (s.beaconShown seq f p).OnlySteered) base (State.OnlySteered.steer ?_ _ _ _)
  dsimp only
  split
  · split
    · exact base
    · split
      · exact (base.delay _ _).measured _
      · exact base.delay _ _
  · exact base

theorem State.beaconShown_regs (s : State) (seq f : Nat) (p : List Byte) : s.RegsBut (s.beaconShown seq f p) [Reg.PAIR_STAT, Reg.PAIR_EVT] :=
  State.when_keeps (P := fun u => s.RegsBut u [Reg.PAIR_STAT, Reg.PAIR_EVT]) _ ((State.RegsBut.refl s _).wr (by simp) _)
    (((State.RegsBut.refl s _).wr (by simp) _).wr (by simp) _)

theorem State.beaconShown_health (s : State) (seq f : Nat) (p : List Byte) : (s.beaconShown seq f p).fld Reg.PAIR_STAT 19 16 = byteAt p 1 % 16 := by
  have h : (s.setFld Reg.PAIR_STAT 19 16 (byteAt p 1 % 16)).fld Reg.PAIR_STAT 19 16 = byteAt p 1 % 16 := by
    rw [State.fld_setFld_same _ _ (by omega) (by omega)]
    exact Nat.mod_mod _ _
  exact State.when_keeps (P := fun u => u.fld Reg.PAIR_STAT 19 16 = byteAt p 1 % 16) _ h
    ((congrArg (wFld · 19 16) (State.rd_wr_other _ _ (by decide))).trans h)

/-- An event of the pair shows in PAIR_EVT. -/
theorem State.bit_pairEvt (s : State) {i : Nat} (hi : i < 32) : (s.pairEvt i).bit Reg.PAIR_EVT i = true := by
  rw [State.pairEvt, State.bit, State.orBits, State.rd_wr_same, wBit_or, wBit_bitW]
  simp [hi]

theorem State.beaconShown_event (s : State) {seq f : Nat} {p : List Byte} (h : byteAt p 1 % 16 ≠ 15) : (s.beaconShown seq f p).bit Reg.PAIR_EVT 25 = true := by
  rw [State.beaconShown, decide_eq_true h, State.when_true]
  exact State.bit_pairEvt _ (by omega)

theorem State.beaconShown_memory (s : State) (seq f : Nat) (p : List Byte) : s.SameMemory (s.beaconShown seq f p) := by
  have h : s.SameMemory ((s.setFld Reg.PAIR_STAT 19 16 (byteAt p 1 % 16)).when (decide (byteAt p 1 % 16 ≠ 15)) (fun s => s.pairEvt 25)) :=
    State.when_keeps (P := s.SameMemory) _ ⟨rfl, rfl, rfl⟩ ⟨rfl, rfl, rfl⟩
  obtain ⟨hall, pv, dram⟩ := h
  exact ⟨hall, pv, dram⟩

theorem State.beaconShown_beaconAt (s : State) (seq f : Nat) (p : List Byte) : (s.beaconShown seq f p).pair.beaconAt = some s.tb.tick :=
  congrArg some (State.when_keeps (P := fun u => u.tb.tick = s.tb.tick) _ rfl rfl)

/-- What a beacon shows at the unit that hears it. -/
theorem State.beaconReceive_spec (s : State) (seq f : Nat) (p : List Byte) :
    (s.beaconReceive seq f p).pair.beaconAt = some s.tb.tick ∧ (s.beaconReceive seq f p).pair.heard = some (byteAt p 0)
    ∧ (s.beaconReceive seq f p).fld Reg.PAIR_STAT 19 16 = byteAt p 1 % 16 ∧ (byteAt p 1 % 16 ≠ 15 → (s.beaconReceive seq f p).bit Reg.PAIR_EVT 25 = true)
    ∧ s.SameMemory (s.beaconReceive seq f p) ∧ s.RegsBut (s.beaconReceive seq f p) [Reg.PAIR_STAT, Reg.PAIR_EVT, Reg.PAIR_DLY] := by
  obtain ⟨regs, memory, beacon, heard⟩ := s.beaconReceive_steers seq f p
  refine ⟨beacon.trans (s.beaconShown_beaconAt seq f p), heard, (congrArg (wFld · 19 16) (regs _ (by decide))).trans (s.beaconShown_health seq f p), fun h => ?_,
    (s.beaconShown_memory seq f p).trans memory, ((s.beaconShown_regs seq f p).mono (by simp)).trans (regs.mono (by simp))⟩
  exact (congrArg (wBit · 25) (regs _ (by decide))).trans (s.beaconShown_event h)

/-- A payload's byte is the frame's, 8 on. -/
theorem byteAt_payload {l j : Nat} (h : j < l) : byteAt ((b.drop 8).take l) j = byteAt b (8 + j) := by
  rw [byteAt, List.getElem?_take_of_lt h, List.getElem?_drop, byteAt]

/-! ## Checkpoint chunks, banks and spans -/

/-- The last chunk of a checkpoint completes it. -/
theorem State.chunkReceive_last {seq : Nat} {q : List Byte} (hm : s.mode = mSTANDBY) (hg : s.sys.guard = false) (h63 : seq % 64 = 63)
    (hs : seq = s.pair.inSeq + 1) (hi : s.pair.inp.length = 64512) (hq : q.length = 1024) : s.chunkReceive seq q
      = if crc32 ((s.pair.inp ++ q).drop 64) ≠ leAt (s.pair.inp ++ q) 60 4 then { s with pair := { s.pair with inp := [] } }.pairEvt 27
        else ((({ s with pair := { s.pair with inp := [], held := s.pair.inp ++ q } }.setBit Reg.PAIR_STAT 25 true).wr Reg.PAIR_CPCYC
          (word (leAt (s.pair.inp ++ q) 0 4))).inc Reg.PAIR_CPCNT) := by
  have hl : ¬ (s.pair.inp ++ q).length ≠ 65536 := by simp [hi, hq]
  have hf : (seq % 64 == 0) = false := by simp [h63]
  have hc : decide (seq = s.pair.inSeq + 1 ∧ s.pair.inp.length = 1024 * (seq % 64)) = true := by simp [← hs, hi, h63]
  rw [State.chunkReceive, if_neg (by simp [hm, hg])]
  simp only [hf, hc, Bool.false_and, Bool.and_false, Bool.not_false, Bool.and_true, Bool.not_true, Bool.false_or, Bool.false_eq_true, if_false, if_neg hl]

/-- Words of a list written into registers i ↦ r i. -/
theorem State.each_wr {r : Nat → Nat} (hr : ∀ i j, r i = r j → i = j) (s : State) (w : Nat → Word) (n : Nat) :
    (∀ i, i < n → (s.each (List.range n) (fun i s => s.wr (r i) (w i))).rd (r i) = w i)
    ∧ s.OnlyRegs (s.each (List.range n) (fun i s => s.wr (r i) (w i))) ((List.range n).map r) := by
  refine ⟨fun i hi => ?_, State.each_keeps (P := fun u => s.OnlyRegs u _) (.refl s _) fun i hi _ hu => hu.wr (List.mem_map_of_mem hi) _⟩
  refine State.each_reaches (P := fun _ => True) (Q := fun u => u.rd (r i) = w i) (x := i) (fun u _ => State.rd_wr_same _ _ _) (List.mem_range.2 hi) trivial
    (fun _ _ _ _ => trivial) fun j _ u hu => ?_
  rw [State.rd_wr]
  split
  · next h => rw [hr _ _ h]
  · exact hu

theorem State.refreshReceive_bank (hm : s.mode = mSTANDBY) (a : Fin 256) (i : Nat) (p : List Byte) : s.refreshReceive (some a) i p
    = s.each (List.range 51) (fun w s => s.wr (Reg.LAW_ACT_BANK a w) (word (leAt p (4 * w) 4))) :=
  if_neg (by simp [hm])

section
variable {seq : Nat} {q : List Byte} (hm : s.mode = mSTANDBY) (hg : s.sys.guard = false) (h63 : seq % 64 = 63)
  (hs : seq = s.pair.inSeq + 1) (hi : s.pair.inp.length = 64512) (hq : q.length = 1024)
include hm hg h63 hs hi hq

/-- A checkpoint whose CRC holds is kept and shown. -/
theorem State.chunkReceive_held {p : List Byte} (hp : p = s.pair.inp ++ q) (hx : crc32 (p.drop 64) = leAt p 60 4) :
    (s.chunkReceive seq q).pair.held = p ∧ (s.chunkReceive seq q).bit Reg.PAIR_STAT 25 = true
    ∧ (s.chunkReceive seq q).rd Reg.PAIR_CPCYC = word (leAt p 0 4) ∧ (s.chunkReceive seq q).rd Reg.PAIR_CPCNT = s.rd Reg.PAIR_CPCNT + 1
    ∧ s.OnlyRegs { s.chunkReceive seq q with pair := s.pair } [Reg.PAIR_STAT, Reg.PAIR_CPCYC, Reg.PAIR_CPCNT] := by
  subst hp
  rw [State.chunkReceive_last hm hg h63 hs hi hq, if_neg (not_not.2 hx), State.inc_wr]
  refine ⟨rfl, ?_, ?_, ?_, ?_⟩
  · rw [State.bit_wr_other _ _ (by decide), State.bit_wr_other _ _ (by decide)]
    exact State.bit_setBit_same _ _ (by omega) _
  · rw [State.rd_wr_other _ _ (by decide), State.rd_wr_same]
  · rw [State.rd_wr_same, State.rd_wr_other _ _ (by decide), State.setBit_wr, State.rd_wr_other _ _ (by decide)]
    rfl
  · exact (((State.OnlyRegs.refl s _).wr (by simp) _).wr (by simp) _).wr (by simp) _

/-- A checkpoint whose CRC fails is dropped. -/
theorem State.chunkReceive_dropped {p : List Byte} (hp : p = s.pair.inp ++ q) (hx : crc32 (p.drop 64) ≠ leAt p 60 4) :
    (s.chunkReceive seq q).pair.held = s.pair.held ∧ (s.chunkReceive seq q).bit Reg.PAIR_EVT 27 = true
    ∧ s.OnlyRegs { s.chunkReceive seq q with pair := s.pair } [Reg.PAIR_EVT] := by
  subst hp
  rw [State.chunkReceive_last hm hg h63 hs hi hq, if_pos hx]
  exact ⟨rfl, State.bit_pairEvt _ (by omega), (State.OnlyRegs.refl s _).wr (List.mem_singleton.2 rfl) (s.rd Reg.PAIR_EVT ||| bitW 27)⟩

end

theorem lawBank_inj (a : Nat) (i j : Nat) (h : Reg.LAW_ACT_BANK a i = Reg.LAW_ACT_BANK a j) : i = j := by
  simp only [Reg.LAW_ACT_BANK] at h
  omega

theorem pairSpan_inj (i j : Nat) (h : Reg.PAIR_SPAN i = Reg.PAIR_SPAN j) : i = j := by
  simp only [Reg.PAIR_SPAN] at h
  omega

end Sys2Proof.Machine
end

section
/-! What the active sends its partner, and PAIR_YIELD (R391, R392, R398). -/

namespace Sys2Proof.Machine

variable {s t : State}

theorem spanReportSend_standby (h : s.pairRole = 2) : spanReportSend s = s.pairSend 4 (bytesOf ((List.range 12).map (fun n => s.rd (Reg.PAIR_SPAN n)))) :=
  if_neg (not_not.2 h)

theorem checkpointChunkSend_idle (h : s.pairRole ≠ 1 ∨ s.pair.out = [] ∨ s.sys.guard = true) : checkpointChunkSend s = s :=
  if_pos (by rcases h with h | h | h <;> simp [h])

section
variable (hr : s.pairRole = 1) (hg : s.sys.guard = false) (ho : s.pair.out ≠ [])
include hr hg ho

theorem checkpointChunkSend_next (h : s.pair.outAt < 63) : checkpointChunkSend s
    = { s with pair := { (s.pairSend 2 ((s.pair.out.drop (1024 * s.pair.outAt)).take 1024)).pair with outAt := s.pair.outAt + 1 } } :=
  (if_neg (by simp [hr, hg, ho])).trans (if_pos h)

/-- The last chunk ends the checkpoint, which PAIR_CPCYC and PAIR_CPCNT show. -/
theorem checkpointChunkSend_last (h : 63 ≤ s.pair.outAt) : checkpointChunkSend s
    = (({ s with pair := { (s.pairSend 2 ((s.pair.out.drop (1024 * s.pair.outAt)).take 1024)).pair with out := [], outAt := 0 } } : State).wr Reg.PAIR_CPCYC
        (word (leAt s.pair.out 0 4))).inc Reg.PAIR_CPCNT :=
  (if_neg (by simp [hr, hg, ho])).trans (if_neg (by omega))

/-- The next chunk of a checkpoint leaves. -/
theorem checkpointChunkSend_spec : ∃ t, checkpointChunkSend s = t
    ∧ t.pair.tx = pairFrame 2 (Table.get (fun _ => 0) s.pair.seqs 2) ((s.pair.out.drop (1024 * s.pair.outAt)).take 1024)
    ∧ (s.pair.outAt < 63 → t.pair.outAt = s.pair.outAt + 1 ∧ t.pair.out = s.pair.out ∧ { t with pair := s.pair } = s)
    ∧ (63 ≤ s.pair.outAt → t.pair.out = [] ∧ t.rd Reg.PAIR_CPCYC = word (leAt s.pair.out 0 4) ∧ t.rd Reg.PAIR_CPCNT = s.rd Reg.PAIR_CPCNT + 1) := by
  rcases Nat.lt_or_ge s.pair.outAt 63 with h | h
  · exact ⟨_, checkpointChunkSend_next hr hg ho h, rfl, fun _ => ⟨rfl, rfl, rfl⟩, fun h' => absurd h' (by omega)⟩
  · refine ⟨_, checkpointChunkSend_last hr hg ho h, rfl, fun h' => absurd h' (by omega), fun _ => ⟨rfl, ?_, ?_⟩⟩
    · rw [State.inc_wr, State.rd_wr_other _ _ (by decide), State.rd_wr_same]
    · rw [State.inc_wr, State.rd_wr_same, State.rd_wr_other _ _ (by decide)]
      rfl

end

theorem refreshChunkSend_bank {a : Nat} {l : List Nat} (hr : s.pairRole = 1) (hb : s.pair.banks = a :: l) : refreshChunkSend s
    = ({ s with pair := { s.pair with banks := l } } : State).pairSend 3 (bytesOf ((List.range 51).map (fun w => s.rd (Reg.LAW_ACT_BANK a w)))) := by
  rw [refreshChunkSend, if_neg (not_not.2 hr), hb]

theorem refreshChunkSend_none (hr : s.pairRole = 1) (hb : s.pair.banks = []) (hl : s.lrnChunks = 0) : refreshChunkSend s = s := by
  rw [refreshChunkSend, if_neg (not_not.2 hr), hb]
  exact if_pos hl

theorem exec_pairYield_root {v : Word} (hv : wBit v 31 = true) (hr : s.pairRole = 1) :
    exec (.pairYield 0 v) s = .next { s with pair := { s.pair with yield := true } } :=
  congrArg Host.Outcome.next ((s.lkAccess_root _ _).trans (if_pos (by simp [hv, hr])))

theorem exec_pairYield_other {m : Fin 32} {v : Word} (hm : m.val ≠ 0) (h : s.may m Reg.PAIR_CTRL true) : exec (.pairYield m v) s = .next (s.lkDeny m) :=
  congrArg Host.Outcome.next (State.lkAccess_other hm h _)

end Sys2Proof.Machine
end

section
/-! A sync of the partner in STANDBY (R152, R390). -/

namespace Sys2Proof.Machine

variable {s t : State}

theorem exec_frameReceive_standby (p : Port) (f : RxFrame) (h : s.mode = mSTANDBY) : exec (.frameReceive p f) s = .next (standbyFrame p f s) :=
  congrArg Host.Outcome.next (if_pos (by simpa using h))

theorem word_pred_ne (c : Word) : c - 1 ≠ c := fun h => absurd (sub_eq_self.1 h) (by decide)

/-- The cycle of a partner's frame: the running one or the one before. -/
def State.partnerCyc (s : State) (h : Hdr) : Option Word :=
  if h.cyc = s.tb.cyc.toNat % 65536 then some s.tb.cyc else if h.cyc = (s.tb.cyc - 1).toNat % 65536 then some (s.tb.cyc - 1) else none

/-- The order of the first check that a frame fails in STANDBY, 0 when it is taken (R390). -/
def State.standbyOrder (s : State) (n : Fin 12) (f : RxFrame) : Nat :=
  let b := f.bytes
  let h := hdrOf b
  if !f.codeOk || b.length != 12 + byteAt b 6 then 1
  else if crc32 (b.take (8 + h.len)) ≠ leAt b (8 + h.len) 4 then 2
  else if h.ver ≠ 1 ∨ !h.allowed ∨ h.seg ≠ n.val ∨ h.hid = s.segHid n ∨ (h.type ≠ 1 ∧ h.type ≠ 2) ∨ s.partnerCyc h = none
      ∨ (h.type = 1 ∧ s.partnerCyc h ≠ some s.tb.cyc) then 3
  else if h.type = 2 ∧ !(h.len == s.slotLen n h.slot && byteAt h.payload 4 == (s.slotMasks n h.slot).1
    && byteAt h.payload 5 == (s.slotMasks n h.slot).2
    && byteAt h.payload 6 == (if g : h.slot < 32 then s.slotCmask n ⟨h.slot, g⟩ else 0)) then 4
  else 0

/-- The instant of the partner's last sync is noted. -/
def State.syncNoted (s : State) : State := { s with pair := { s.pair with syncAt := some s.tb.tick } }

/-- The state, as the sync of the partner leaves it before the span's sample. -/
def State.partnerSync (s : State) (n : Fin 12) (ch : Nat) (f : RxFrame) : State :=
  State.syncNoted ((s.frameCounted n ch (mkFld 31 22 (hdrOf f.bytes).slot ||| mkFld 21 0 f.arrival)).otherSync n (hdrOf f.bytes).hid)

section
variable {n : Fin 12} {b : Bool} {ch : Nat} {f : RxFrame} (hc : ch = if b then 1 else 0) (hon : s.bit (Reg.TRN_PCFG n ch) 31 = true)
  (hr : ∀ m, m < 16 → (s.capOn m && s.capKind m == 1 && s.bit (Reg.CAP_S_SRC m) (2 * n + ch)) = false)
include hc hon hr

theorem standbyFrame_of_fail (h : s.standbyOrder n f ≠ 0) : standbyFrame ⟨n, b⟩ f s = s.frameFail n ch (s.standbyOrder n f) := by
  subst hc
  unfold standbyFrame
  dsimp only
  rw [if_neg (by simp [hon]), State.capPortRecord_of_none hr]
  exact if_pos h

theorem standbyFrame_of_sync (h : s.standbyOrder n f = 0) (ht : (hdrOf f.bytes).type = 1) :
    standbyFrame ⟨n, b⟩ f s = if ch = 0 then (s.partnerSync n ch f).spanSample n f.arrival else s.partnerSync n ch f := by
  subst hc
  unfold standbyFrame
  dsimp only
  rw [if_neg (by simp [hon]), State.capPortRecord_of_none hr]
  exact (if_neg (not_not.2 h)).trans (if_pos ht)

end

section
variable {n : Fin 12} {f : RxFrame} (h : f.codeOk = true) (hl : f.bytes.length = 12 + byteAt f.bytes 6)
  (hx : crc32 (f.bytes.take (8 + (hdrOf f.bytes).len)) = leAt f.bytes (8 + (hdrOf f.bytes).len) 4) (ht : (hdrOf f.bytes).type = 1)
include h hl hx ht

/-- A sync of another cycle fails the third check. -/
theorem State.standbyOrder_other (hq : (hdrOf f.bytes).cyc ≠ s.tb.cyc.toNat % 65536) : s.standbyOrder n f = 3 := by
  have hn : s.partnerCyc (hdrOf f.bytes) ≠ some s.tb.cyc := by
    rw [State.partnerCyc, if_neg hq]
    split
    · exact fun e => word_pred_ne s.tb.cyc (Option.some_inj.1 e)
    · exact fun e => nomatch e
  exact (if_neg (by simp [h, hl])).trans <| (if_neg (not_not.2 hx)).trans <| if_pos (.inr (.inr (.inr (.inr (.inr (.inr ⟨ht, hn⟩))))))

theorem State.standbyOrder_sync (hv : (hdrOf f.bytes).ver = 1) (ha : (hdrOf f.bytes).allowed = true) (hs : (hdrOf f.bytes).seg = n.val)
    (hh : (hdrOf f.bytes).hid ≠ s.segHid n) (hq : (hdrOf f.bytes).cyc = s.tb.cyc.toNat % 65536) : s.standbyOrder n f = 0 := by
  have hn : s.partnerCyc (hdrOf f.bytes) = some s.tb.cyc := if_pos hq
  exact (if_neg (by simp [h, hl])).trans <| (if_neg (not_not.2 hx)).trans <| (if_neg (by simp [hv, ha, hs, hh, ht, hn])).trans (if_neg (by simp [ht]))

end

/-! ## The span's sample -/

theorem State.spanSample_spec (s : State) (n arr : Nat) : (s.spanSample n arr).pair.syncAt = s.pair.syncAt ∧ s.SameMemory (s.spanSample n arr)
    ∧ s.RegsBut (s.spanSample n arr) [Reg.PAIR_SPAN n] :=
  State.ite_keeps (P := fun u => u.pair.syncAt = s.pair.syncAt ∧ s.SameMemory u ∧ s.RegsBut u [Reg.PAIR_SPAN n])
    ⟨rfl, ⟨rfl, rfl, rfl⟩, (State.RegsBut.refl s _).wr (by simp) _⟩ ⟨rfl, ⟨rfl, rfl, rfl⟩, .refl s _⟩

theorem farReg_span (n : Fin 12) : farReg (Reg.PAIR_SPAN n) := by
  simp only [farReg, Reg.PAIR_SPAN]
  omega

/-- t is s with a sync of the partner taken. -/
structure State.PartnerHeard (s t : State) (n : Fin 12) (ch hid : Nat) : Prop where
  count : t.rd (Reg.TRN_PRXOK n ch) = s.rd (Reg.TRN_PRXOK n ch) + 1
  instant : t.pair.syncAt = some s.tb.tick
  heard : t.bit (Reg.TRN_SSTAT n) 11 = true
  head : t.fld (Reg.TRN_SSTAT n) 10 8 = hid
  memory : s.SameMemory t
  regs : s.RegsBut t (syncRegs n ch ++ deliveryRegs)

theorem State.partnerSync_heard (s : State) (n : Fin 12) {ch : Nat} (hc : ch < 2) (f : RxFrame) :
    s.PartnerHeard (s.partnerSync n ch f) n ch (hdrOf f.bytes).hid := by
  obtain ⟨count, -, heard, head, -, frame⟩ := s.syncTaken n hc (hid_lt f.bytes) (mkFld 31 22 (hdrOf f.bytes).slot ||| mkFld 21 0 f.arrival)
  rw [State.partnerSync]
  generalize (s.frameCounted n ch (mkFld 31 22 (hdrOf f.bytes).slot ||| mkFld 21 0 f.arrival)).otherSync n (hdrOf f.bytes).hid = u at *
  have tb : u.tb = s.tb := (congrArg State.tb frame.rest :)
  obtain ⟨hall, pv, dram⟩ := frame.sameMemory
  exact ⟨count, by rw [← tb]; rfl, heard, head, ⟨hall, pv, dram⟩, frame.regs⟩

theorem span_not_sync (n : Fin 12) (ch : Nat) (hc : ch < 2) {a : Nat} (ha : a ∈ syncRegs n ch) : a ≠ Reg.PAIR_SPAN n := by
  simp only [syncRegs, Reg.TRN_PRXOK, Reg.TRN_PLAST, Reg.TRN_SSTAT, Reg.TRN_SEVT, List.mem_cons, List.not_mem_nil, or_false] at ha
  simp only [Reg.PAIR_SPAN]
  omega

theorem mem_spanRegs {n ch a : Nat} (h : a ∈ syncRegs n ch ++ deliveryRegs) : a ∈ syncRegs n ch ++ Reg.PAIR_SPAN n :: deliveryRegs :=
  List.mem_append.2 ((List.mem_append.1 h).imp_right (List.mem_cons_of_mem _))

/-- A sync heard on channel A gives a sample of the span beside. -/
theorem State.PartnerHeard.spanned {n : Fin 12} {ch hid : Nat} (h : s.PartnerHeard t n ch hid) (hc : ch < 2) (arr : Nat) :
    (t.spanSample n arr).rd (Reg.TRN_PRXOK n ch) = s.rd (Reg.TRN_PRXOK n ch) + 1 ∧ (t.spanSample n arr).pair.syncAt = some s.tb.tick
    ∧ (t.spanSample n arr).bit (Reg.TRN_SSTAT n) 11 = true ∧ (t.spanSample n arr).fld (Reg.TRN_SSTAT n) 10 8 = hid ∧ s.SameMemory (t.spanSample n arr)
    ∧ s.RegsBut (t.spanSample n arr) (syncRegs n ch ++ Reg.PAIR_SPAN n :: deliveryRegs) := by
  obtain ⟨count, instant, heard, head, memory, regs⟩ := h
  obtain ⟨sync, mem, span⟩ := t.spanSample_spec n arr
  have hk : ∀ a ∈ syncRegs n ch, (t.spanSample n arr).rd a = t.rd a := fun a ha => span a (by simpa using span_not_sync n ch hc ha)
  have hs := hk (Reg.TRN_SSTAT n) (by simp [syncRegs])
  refine ⟨(hk _ (by simp [syncRegs])).trans count, sync.trans instant, (congrArg (wBit · 11) hs).trans heard, (congrArg (wFld · 10 8) hs).trans head,
    memory.trans mem, (regs.mono fun a ha => mem_spanRegs ha).trans (span.mono fun a ha => ?_)⟩
  rw [List.mem_singleton.1 ha]
  exact List.mem_append_right _ (List.mem_cons_self ..)

theorem State.PartnerHeard.span {n : Fin 12} {ch hid : Nat} (h : s.PartnerHeard t n ch hid) (hc : ch < 2) :
    t.rd (Reg.PAIR_SPAN n) = s.rd (Reg.PAIR_SPAN n) :=
  h.regs _ fun hm => (List.mem_append.1 hm).elim (fun hm => span_not_sync n ch hc hm rfl) fun hm => farReg_not_notice (farReg_span n) (delivery_notice hm)

section
variable {n : Fin 12} {b : Bool} {ch : Nat} {f : RxFrame} (hc : ch = if b then 1 else 0) (hm : s.mode = mSTANDBY)
  (hon : s.bit (Reg.TRN_PCFG n ch) 31 = true)
  (hr : ∀ m, m < 16 → (s.capOn m && s.capKind m == 1 && s.bit (Reg.CAP_S_SRC m) (2 * n + ch)) = false)
  (h : f.codeOk = true) (hl : f.bytes.length = 12 + byteAt f.bytes 6)
  (hx : crc32 (f.bytes.take (8 + (hdrOf f.bytes).len)) = leAt f.bytes (8 + (hdrOf f.bytes).len) 4) (ht : (hdrOf f.bytes).type = 1)
include hc hm hon hr h hl hx ht

/-- A sync of the running cycle is counted, heard and noted. -/
theorem standbySync_running (hv : (hdrOf f.bytes).ver = 1) (ha : (hdrOf f.bytes).allowed = true) (hs : (hdrOf f.bytes).seg = n.val)
    (hh : (hdrOf f.bytes).hid ≠ s.segHid n) (hq : (hdrOf f.bytes).cyc = s.tb.cyc.toNat % 65536) :
    ∃ t, exec (.frameReceive ⟨n, b⟩ f) s = .next t ∧ t.rd (Reg.TRN_PRXOK n ch) = s.rd (Reg.TRN_PRXOK n ch) + 1
      ∧ t.pair.syncAt = some s.tb.tick ∧ t.bit (Reg.TRN_SSTAT n) 11 = true ∧ t.fld (Reg.TRN_SSTAT n) 10 8 = (hdrOf f.bytes).hid ∧ s.SameMemory t
      ∧ s.RegsBut t (syncRegs n ch ++ Reg.PAIR_SPAN n :: deliveryRegs) ∧ (ch = 1 → t.rd (Reg.PAIR_SPAN n) = s.rd (Reg.PAIR_SPAN n)) := by
  have hc2 : ch < 2 := by subst hc; cases b <;> simp
  have heard := s.partnerSync_heard n hc2 f
  have run := (exec_frameReceive_standby ⟨n, b⟩ f hm).trans
    (congrArg Host.Outcome.next (standbyFrame_of_sync hc hon hr (State.standbyOrder_sync h hl hx ht hv ha hs hh hq) ht))
  by_cases h0 : ch = 0
  · rw [if_pos h0] at run
    obtain ⟨count, instant, shown, head, memory, regs⟩ := heard.spanned hc2 f.arrival
    exact ⟨_, run, count, instant, shown, head, memory, regs, fun h1 => absurd (h0.symm.trans h1) (by decide)⟩
  · rw [if_neg h0] at run
    have span := heard.span hc2
    obtain ⟨count, instant, shown, head, memory, regs⟩ := heard
    exact ⟨_, run, count, instant, shown, head, memory, regs.mono fun a ha => mem_spanRegs ha, fun _ => span⟩

/-- A sync of another cycle fails the third check. -/
theorem standbySync_other (hq : (hdrOf f.bytes).cyc ≠ s.tb.cyc.toNat % 65536) : ∃ t, exec (.frameReceive ⟨n, b⟩ f) s = .next t
    ∧ t.rd (Reg.TRN_PHDR n ch) = s.rd (Reg.TRN_PHDR n ch) + 1 ∧ t.bit (Reg.TRN_PSTAT n ch) 11 = true
    ∧ s.OnlyRaised t [Reg.TRN_PHDR n ch, Reg.TRN_PSTAT n ch] := by
  have hc2 : ch < 2 := by subst hc; cases b <;> simp
  have order := State.standbyOrder_other (n := n) h hl hx ht hq
  have run := (exec_frameReceive_standby ⟨n, b⟩ f hm).trans (congrArg Host.Outcome.next (standbyFrame_of_fail hc hon hr (by rw [order]; decide)))
  rw [order] at run
  exact ⟨_, run, s.portFailed_spec hc2 (.inr (.inr rfl)) (by omega)⟩

end

end Sys2Proof.Machine
end

section
/-! Takeover (R393, R394). -/

namespace Sys2Proof.Machine

variable {s t u : State}

theorem wBit_mkFld_below {hi lo i : Nat} (hl : lo ≤ hi + 1) (h : i < lo) (v : Nat) : wBit (mkFld hi lo v) i = false := by
  rw [wBit_eq, getLsbD_mkFld _ _ hl]
  simp [show ¬ lo ≤ i by omega]

theorem wFld_mkBit_below {hi lo i : Nat} (h : i < lo) (b : Bool) : wFld (mkBit i b) hi lo = 0 := by
  apply Nat.eq_of_testBit_eq
  intro j
  rw [testBit_wFld, ← wBit_eq, wBit_mkBit, decide_eq_false (show ¬ i = lo + j by omega), Nat.zero_testBit]
  simp

theorem takeover_idle (h : s.mode ≠ mSTANDBY ∨ s.tb.ctick ≠ 0 ∨ s.pair.loading = true ∨ s.trn.cold.isSome = true ∨ s.pairAbs < s.lease + 200000) :
    takeover s = s := if_pos h

/-- The condition of R393: the active is missed for long enough at a tick 0. -/
structure State.Missed (s : State) : Prop where
  mode : s.mode = mSTANDBY
  tick : s.tb.ctick = 0
  cold : s.trn.cold = none
  loading : s.pair.loading = false
  long : s.lease + 200000 ≤ s.pairAbs

theorem State.Missed.due (h : s.Missed) :
    ¬ (s.mode ≠ mSTANDBY ∨ s.tb.ctick ≠ 0 ∨ s.pair.loading = true ∨ s.trn.cold.isSome = true ∨ s.pairAbs < s.absentFor) := by
  obtain ⟨mode, tick, cold, loading, long⟩ := h
  have hn : ¬ s.pairAbs < s.absentFor := Nat.not_lt.2 long
  simp [mode, tick, cold, loading, hn]

theorem takeover_empty (h : s.Missed) (hp : s.bit Reg.PAIR_STAT 25 = false) : takeover s = s.pairEvt 28 :=
  (if_neg h.due).trans (if_pos (by simp [hp]))

/-- The registers of a takeover; the load begins. -/
def State.takenOver (s : State) : State :=
  let u := (s.pairEvt 31).incFld Reg.PAIR_FOCNT 15 0
  (u.wr Reg.PAIR_TKCYC s.tb.cyc).wr Reg.PAIR_TKSTAT (mkFld 31 16 (min 65535 (s.tb.cyc - s.rd Reg.PAIR_CPCYC).toNat) ||| mkBit 15 (s.bit Reg.PAIR_STAT 24))

theorem takeover_held (h : s.Missed) (hp : s.bit Reg.PAIR_STAT 25 = true) : takeover s = { s.takenOver with pair := { s.pair with loading := true } } := by
  have e : ((s.pairEvt 31).incFld Reg.PAIR_FOCNT 15 0).bit Reg.PAIR_STAT 24 = s.bit Reg.PAIR_STAT 24 :=
    (State.bit_wr_other _ _ (by decide) _).trans (State.bit_wr_other _ _ (by decide) _)
  rw [State.takenOver, ← e]
  exact (if_neg h.due).trans (if_neg (by simp [hp]))

theorem State.takenOver_spec (s : State) : s.takenOver.bit Reg.PAIR_EVT 31 = true
    ∧ s.takenOver.fld Reg.PAIR_FOCNT 15 0 = (s.fld Reg.PAIR_FOCNT 15 0 + 1) % 65536 ∧ s.takenOver.rd Reg.PAIR_TKCYC = s.tb.cyc
    ∧ s.takenOver.fld Reg.PAIR_TKSTAT 31 16 = min 65535 (s.tb.cyc - s.rd Reg.PAIR_CPCYC).toNat
    ∧ s.takenOver.bit Reg.PAIR_TKSTAT 15 = s.bit Reg.PAIR_STAT 24
    ∧ s.OnlyRegs s.takenOver [Reg.PAIR_EVT, Reg.PAIR_FOCNT, Reg.PAIR_TKCYC, Reg.PAIR_TKSTAT] := by
  refine ⟨?_, ?_, ?_, ?_, ?_, ?_⟩
  · rw [State.takenOver, State.bit_wr_other _ _ (by decide), State.bit_wr_other _ _ (by decide), State.incFld_wr, State.bit_wr_other _ _ (by decide)]
    exact State.bit_pairEvt s (by omega)
  · have e : (s.pairEvt 31).fld Reg.PAIR_FOCNT 15 0 = s.fld Reg.PAIR_FOCNT 15 0 := congrArg (wFld · 15 0) (State.rd_wr_other _ _ (by decide))
    rw [State.takenOver, State.fld, State.rd_wr_other _ _ (by decide), State.rd_wr_other _ _ (by decide), ← e]
    exact State.fld_setFld_same _ _ (by omega) (by omega) _
  · rw [State.takenOver, State.rd_wr_other _ _ (by decide), State.rd_wr_same]
  · rw [State.takenOver, State.fld, State.rd_wr_same, wFld_or, wFld_mkFld_same (by omega) (by omega), wFld_mkBit_below (by omega),
      Nat.or_zero]
    exact Nat.mod_eq_of_lt (lt_of_le_of_lt (min_le_left _ _) (by decide))
  · rw [State.takenOver, State.bit, State.rd_wr_same, wBit_or, wBit_mkFld_below (by omega) (by omega), wBit_mkBit]
    simp
  · exact ((((State.OnlyRegs.refl s _).wr (by simp) _).wr (by simp) _).wr (by simp) _).wr (by simp) _

/-! ## What the load leaves of the laws -/

theorem farReg_posRef (a : Nat) : farReg (Reg.LAW_POS_REF a) := by
  simp only [farReg, Reg.LAW_POS_REF]
  omega

theorem lawReg_posRef (a : Nat) : lawReg a (Reg.LAW_POS_REF a) := ⟨0x40, by simp only [Reg.LAW_POS_REF]; omega, by omega, by omega⟩

/-- t has the laws of s, their registers, and the state of the pair. -/
structure State.KeepsPage (s t : State) : Prop where
  law : t.law = s.law
  pair : t.pair = s.pair
  refs : ∀ a, t.rd (Reg.LAW_POS_REF a) = s.rd (Reg.LAW_POS_REF a)

namespace State.KeepsPage

theorem refl (s : State) : s.KeepsPage s := ⟨rfl, rfl, fun _ => rfl⟩

theorem trans (h : s.KeepsPage t) (k : t.KeepsPage u) : s.KeepsPage u :=
  ⟨k.law.trans h.law, k.pair.trans h.pair, fun a => (k.refs a).trans (h.refs a)⟩

theorem wr (h : s.KeepsPage t) {a : Nat} (ha : a < 0x40100000) (v : Word) : s.KeepsPage (t.wr a v) :=
  ⟨h.law, h.pair, fun b => (State.rd_wr_other _ _ (by simp only [Reg.LAW_POS_REF]; omega)).trans (h.refs b)⟩

theorem fed (h : s.KeepsPage t) (k : t.OnlyFed u) : s.KeepsPage u :=
  h.trans ⟨k.law_eq, (congrArg State.pair k.rest :), fun a => k.regs _ (farReg_not_fed (farReg_posRef a)) (farReg_not_notice (farReg_posRef a))⟩

theorem stored (h : s.KeepsPage t) {p : Nat} (k : t.OnlyStored u p) : s.KeepsPage u :=
  h.trans ⟨k.law_eq, (congrArg State.pair k.rest :), fun a => k.regs _ (lawReg_not_store (lawReg_posRef a))⟩

theorem deny (h : s.KeepsPage t) (m a : Nat) (w : Bool) (k : Nat) : s.KeepsPage (t.deny m a w k) := by
  have h₁ := h.wr (a := Reg.PRT_DCNT) (by decide) (t.rd Reg.PRT_DCNT + 1)
  exact State.ite_keeps (P := s.KeepsPage) h₁ ((h₁.wr (by decide) _).wr (by decide) _)

theorem hallWrite (h : s.KeepsPage t) (o : Nat) (bs : List Byte) : s.KeepsPage (t.hallWrite o bs) := ⟨h.law, h.pair, h.refs⟩

theorem hallStore (h : s.KeepsPage t) (m o : Nat) (bs : List Byte) : s.KeepsPage (t.hallStore m o bs).2 := by
  unfold State.hallStore
  split
  · exact h.deny _ _ _ _
  · split
    · exact h.deny _ _ _ _
    · split
      · exact ⟨h.law, h.pair, h.refs⟩
      · split
        · exact h.stored (p := 0) ((State.OnlyStored.refl t 0).markRow _ _)
        · exact h.hallWrite _ _

theorem dmaWrite : ∀ (ws : List Word) {t : State} (_ : s.KeepsPage t) (o : Nat), s.KeepsPage (t.dmaWrite o ws).2
  | [], _, h, _ => h
  | _ :: ws, _, h, _ => dmaWrite ws (h.hallStore _ _ _) _

theorem pairEvt (h : s.KeepsPage t) (i : Nat) : s.KeepsPage (t.pairEvt i) := h.wr (by decide) _

end State.KeepsPage

/-! ## The load -/

/-- Axis a stands as the checkpoint b has it. -/
structure State.AxisLoaded (s : State) (b : List Byte) (a : Nat) : Prop where
  pos : s.rd (Reg.LAW_POS_REF a) = word (leAt b (0x40 + 48 * a) 4)
  x : (s.axis a).x = (List.range 6).map (fun i => leAt b (0x40 + 48 * a + 20 + 2 * i) 2)

theorem State.AxisLoaded.kept {b : List Byte} {a : Nat} (h : s.AxisLoaded b a) (k : s.KeepsPage t) : t.AxisLoaded b a :=
  ⟨(k.refs a).trans h.pos, by rw [State.axis, k.law]; exact h.x⟩

/-- The registers of axis a that a load writes: its references and its controller's state. -/
def State.refsWritten (s : State) (a : Nat) (pos vel cur ff ctrl x01 x23 x45 rel : Word) : State :=
  ((((((((s.wr (Reg.LAW_POS_REF a) pos).wr (Reg.LAW_VEL_REF a) vel).wr (Reg.LAW_CUR_REF a) cur).wr (Reg.LAW_FF a) ff).wr (Reg.LAW_CTRL a) ctrl).wr
    (Reg.LAW_X01 a) x01).wr (Reg.LAW_X23 a) x23).wr (Reg.LAW_X45 a) x45).wr (Reg.LAW_REL_CYC a) rel

theorem State.cpLoadAxis_eq (s : State) (b : List Byte) (a : Nat) : ∃ vel cur ff ctrl x01 x23 x45 rel c,
    c.x = (List.range 6).map (fun i => leAt b (0x40 + 48 * a + 20 + 2 * i) 2)
    ∧ s.cpLoadAxis b a = (s.refsWritten a (word (leAt b (0x40 + 48 * a) 4)) vel cur ff ctrl x01 x23 x45 rel).setAxis a c := by
  refine ⟨_, _, _, _, _, _, _, _, _, ?_, rfl⟩
  rfl

theorem State.axis_refsWritten (s : State) (a j : Nat) (pos vel cur ff ctrl x01 x23 x45 rel : Word) :
    (s.refsWritten j pos vel cur ff ctrl x01 x23 x45 rel).axis a = s.axis a := by
  simp only [State.refsWritten, State.axis, State.wr_law]

/-- The registers of an axis that a load writes after its position. -/
theorem posRef_ne (a j : Nat) : Reg.LAW_POS_REF a ∉ [Reg.LAW_VEL_REF j, Reg.LAW_CUR_REF j, Reg.LAW_FF j, Reg.LAW_CTRL j, Reg.LAW_X01 j, Reg.LAW_X23 j,
    Reg.LAW_X45 j, Reg.LAW_REL_CYC j] := by
  simp only [Reg.LAW_POS_REF, Reg.LAW_VEL_REF, Reg.LAW_CUR_REF, Reg.LAW_FF, Reg.LAW_CTRL, Reg.LAW_X01, Reg.LAW_X23, Reg.LAW_X45, Reg.LAW_REL_CYC,
    List.mem_cons, List.not_mem_nil, or_false]
  omega

theorem State.posRef_refsWritten (s : State) (a j : Nat) (pos vel cur ff ctrl x01 x23 x45 rel : Word) :
    (s.refsWritten j pos vel cur ff ctrl x01 x23 x45 rel).rd (Reg.LAW_POS_REF a) = if a = j then pos else s.rd (Reg.LAW_POS_REF a) := by
  have k : (s.wr (Reg.LAW_POS_REF j) pos).RegsBut (s.refsWritten j pos vel cur ff ctrl x01 x23 x45 rel)
      [Reg.LAW_VEL_REF j, Reg.LAW_CUR_REF j, Reg.LAW_FF j, Reg.LAW_CTRL j, Reg.LAW_X01 j, Reg.LAW_X23 j, Reg.LAW_X45 j, Reg.LAW_REL_CYC j] := by
    unfold State.refsWritten
    iterate 8 refine State.RegsBut.wr ?_ (by simp) _
    exact .refl _ _
  rw [k _ (posRef_ne a j), State.rd_wr]
  exact if_congr (by simp only [Reg.LAW_POS_REF]; omega) rfl rfl

/-- Axis a is loaded, and stays loaded when others are. -/
theorem State.axisLoaded_cpLoadAxis {b : List Byte} {a j : Nat} (h : a = j ∨ s.AxisLoaded b a) : (s.cpLoadAxis b j).AxisLoaded b a := by
  obtain ⟨vel, cur, ff, ctrl, x01, x23, x45, rel, c, hx, e⟩ := s.cpLoadAxis_eq b j
  rw [e]
  by_cases ha : a = j
  · subst ha
    refine ⟨?_, by rw [State.axis_setAxis_same, hx]⟩
    rw [State.setAxis_rd]
    exact (State.posRef_refsWritten s a a _ vel cur ff ctrl x01 x23 x45 rel).trans (if_pos rfl)
  · obtain ⟨pos, x⟩ := h.resolve_left ha
    refine ⟨?_, by rw [State.axis_setAxis_other _ _ _ ha, State.axis_refsWritten]; exact x⟩
    rw [State.setAxis_rd]
    exact ((State.posRef_refsWritten s a j _ vel cur ff ctrl x01 x23 x45 rel).trans (if_neg ha)).trans pos

theorem State.pair_cpLoadAxis (s : State) (b : List Byte) (a : Nat) : (s.cpLoadAxis b a).pair = s.pair := by
  obtain ⟨vel, cur, ff, ctrl, x01, x23, x45, rel, c, -, e⟩ := s.cpLoadAxis_eq b a
  simp only [e, State.refsWritten, State.setAxis_pair, State.wr_pair]

theorem State.KeepsPage.cpLoadSource (h : s.KeepsPage t) (b : List Byte) {n : Nat} (hn : n < 528) : s.KeepsPage (t.cpLoadSource b n) := by
  have hr : ∀ a, (a = Reg.SRC_ORGLO n ∨ a = Reg.SRC_ORGHI n ∨ a = Reg.SRC_LIMLO n ∨ a = Reg.SRC_LIMHI n) → a < 0x40100000 := by
    simp only [Reg.SRC_ORGLO, Reg.SRC_ORGHI, Reg.SRC_LIMLO, Reg.SRC_LIMHI]
    omega
  unfold State.cpLoadSource
  extract_lets o w u c v
  have hu : s.KeepsPage u := (((h.wr (hr _ (by simp)) _).wr (hr _ (by simp)) _).wr (hr _ (by simp)) _).wr (hr _ (by simp)) _
  have hv : s.KeepsPage v := hu.fed ((State.OnlyFed.refl u).setSource n _)
  exact State.ite_keeps (P := s.KeepsPage) (hv.fed ((State.OnlyFed.refl v).reportAt hn)) hv

theorem takeoverLoadDone_idle (h : s.pair.loading = false) : takeoverLoadDone s = s := if_pos (by simp [h])

/-- A load of the checkpoint b: its axes, in the state that has no load under way. -/
def State.axesFrom (s : State) (b : List Byte) : State := s.each (List.range 256) (fun a s => s.cpLoadAxis b a)

theorem State.axesFrom_loaded (s : State) (b : List Byte) {a : Nat} (ha : a < 256) : (s.axesFrom b).AxisLoaded b a :=
  State.each_reaches (P := fun _ => True) (Q := fun u => u.AxisLoaded b a) (f := fun a s => s.cpLoadAxis b a) (x := a)
    (fun _ _ => State.axisLoaded_cpLoadAxis (.inl rfl)) (List.mem_range.2 ha) trivial (fun _ _ _ _ => trivial)
    fun _ _ _ hu => State.axisLoaded_cpLoadAxis (.inr hu)

theorem State.pair_axesFrom (s : State) (b : List Byte) : (s.axesFrom b).pair = s.pair :=
  State.each_keeps (P := fun u => u.pair = s.pair) rfl fun a _ u hu => (u.pair_cpLoadAxis b a).trans hu

theorem State.keepsPage_sources (s : State) (b : List Byte) : s.KeepsPage (s.each (List.range' 16 512) (fun n s => s.cpLoadSource b n)) :=
  State.each_keeps (P := s.KeepsPage) (.refl s) fun n hn _ hu => hu.cpLoadSource b (by
    have := List.mem_range'_1.1 hn
    omega)

/-- Once the axes stand, the load leaves them. -/
theorem takeoverLoadDone_loads (h : s.pair.loading = true) : ∃ u : State,
    (({ s with pair := { s.pair with loading := false } } : State).axesFrom s.pair.held).KeepsPage u
      ∧ takeoverLoadDone s = { u with trn := { u.trn with cold := some true } } := by
  have src := (({ s with pair := { s.pair with loading := false } } : State).axesFrom s.pair.held).keepsPage_sources s.pair.held
  refine ⟨_, ?_, (if_neg (by simp [h])).trans rfl⟩
  have dma := src.dmaWrite (wordsOf 11184 (s.pair.held.drop 0x5140))
    (State.fld ((({ s with pair := { s.pair with loading := false } } : State).axesFrom s.pair.held).each (List.range' 16 512)
      (fun n u => u.cpLoadSource s.pair.held n)) Reg.PAIR_FWCP 22 0)
  exact State.ite_keeps (P := State.KeepsPage _) dma ((dma.pairEvt _).pairEvt _)

end Sys2Proof.Machine
end

section
/-! The pair's unit (O58). -/

namespace Sys2Proof.Machine

/-- A beacon that is due (R383, R386). -/
theorem beaconSend_spec (s : State) (f : Nat) (he : s.pairEn = true) (hd : s.beaconDue = true) :
    (beaconSend f s).fld Reg.PAIR_STAT 23 20 = s.health
    ∧ (beaconSend f s).pair.tx.take 8 = [1, 1, 32, 0] ++ leBytes 4 (Table.get (fun _ => 0) s.pair.seqs 1) ∧ (beaconSend f s).pair.tx.length = 44
    ∧ (beaconSend f s).pair.sentAt = some s.tb.tick
    ∧ (s.pairRole = 1 → s.health = 15 → (beaconSend f s).pair.leaseEnd = some (s.tb.tick + s.lease))
    ∧ (s.pairRole ≠ 1 ∨ s.health ≠ 15 → (beaconSend f s).pair.leaseEnd = s.pair.leaseEnd)
    ∧ s.OnlyRegs { beaconSend f s with free := s.free, pair := s.pair } [Reg.PAIR_STAT] := by
  obtain ⟨x, e⟩ := beaconSend_due f he hd
  obtain ⟨shown, frame⟩ := s.beaconSent_shows (s.beaconBytes f) x
  have len : (pairFrame 1 (Table.get (fun _ => 0) s.pair.seqs 1) (s.beaconBytes f)).length = 44 := by rw [length_pairFrame, s.length_beaconBytes]
  rw [e]
  by_cases h : s.pairRole = 1 ∧ s.health = 15
  · rw [if_pos h]
    exact ⟨shown, s.beacon_head f, len, rfl, fun _ _ => rfl, fun h' => (h'.elim (· h.1) (· h.2)).elim, frame⟩
  · rw [if_neg h]
    exact ⟨shown, s.beacon_head f, len, rfl, fun h1 h2 => absurd ⟨h1, h2⟩ h, fun _ => rfl, frame⟩

/-- A frame whose checks hold, as the instruction takes it. -/
theorem exec_partnerFrame {s : State} {ok : Bool} {b : List Byte} {f : Fin 32} {k : Option (Fin 256)} {c : Fin 2048} (he : s.pairEn = true)
    (hl : s.bit Reg.PAIR_STAT 28 = true) (ho : ok = true) (hb : b.length = 12 + leAt b 2 2) (h1 : leAt b 2 2 ≤ 1024) (hv : byteAt b 1 = 1)
    (hx : crc32 (b.take (8 + leAt b 2 2)) = leAt b (8 + leAt b 2 2) 4) :
    exec (.partnerFrameReceive ok b f k c) s = .next (s.partnerTaken (leAt b 4 4) f k c ((b.drop 8).take (leAt b 2 2)) (byteAt b 0)) :=
  congrArg Host.Outcome.next (partnerFrameReceive_good he hl ho hb h1 hv hx)

/-- Settles O58: link, beacon and lease, the frames taken and sent, a sync in STANDBY and the takeover, each by the equation of its case. -/
theorem pairUnit : Obligations.PairUnit := by
  unfold Obligations.PairUnit
  refine ⟨fun s => ⟨fun h => ?_, fun h => ?_, ?_⟩, fun s f => ⟨fun h => ?_, s.beaconDue_iff, fun he hd => ?_⟩, fun s e hl hr hc he => ?_, fun s h => ?_,
    fun s ok b f k c l hl => ?_, fun s => ⟨fun h => ?_, fun h => ?_⟩, fun s hr hg ho => ?_, fun s h => ?_,
    fun s => ⟨fun h => ?_, fun a l hr hb => ?_, fun hr hb hl => ?_⟩, fun s v hv hr => ?_, fun s m v hm h => ?_,
    fun s n b ch f h hc hh hm hon hr hcode hlen hx hver hall hseg hhid htype => ⟨fun hq => ?_, fun hq => ?_⟩,
    fun s hm hct hcold hload hlong => ?_, fun s h => ?_, fun s h => ?_, fun s h => ?_⟩
  · exact ⟨_, congrArg Host.Outcome.next (if_pos h), s.pairStat_set (by omega) true⟩
  · exact congrArg Host.Outcome.next (if_neg (by simp [h]))
  · exact ⟨_, rfl, s.pairStat_set (by omega) false⟩
  · exact congrArg Host.Outcome.next (beaconSend_idle h)
  · exact ⟨_, rfl, beaconSend_spec s f he hd⟩
  · obtain ⟨role, event, lease, xdem, segs, causes, store⟩ := State.lapsed hl hr hc he
    exact ⟨_, rfl, role, event, lease, xdem, segs, causes, store⟩
  · exact congrArg Host.Outcome.next (leaseLapse_idle h)
  · subst hl
    refine ⟨fun h => congrArg Host.Outcome.next (partnerFrameReceive_off h), fun he hlink => ⟨fun h => ?_, fun ho hb h1 hv hx => ?_⟩⟩
    · exact ⟨_, congrArg Host.Outcome.next (partnerFrameReceive_bad he hlink h), State.rd_wr_same _ _ _, (State.OnlyRegs.refl s _).wr (by simp) _⟩
    · have run := exec_partnerFrame (f := f) (k := k) (c := c) he hlink ho hb h1 hv hx
      have len (h : leAt b 2 2 = 1024) : ((b.drop 8).take (leAt b 2 2)).length = 1024 := by simp [hb, h]
      refine ⟨fun ht h32 => ?_, fun ht hm hg hl hs hi hq p hp => ⟨fun hcrc => ?_, fun hcrc => ?_⟩, fun ht hm a hk => ?_, fun ht hr => ?_⟩
      · rw [ht] at run
        obtain ⟨beacon, heard, health, event, memory, regs⟩ := s.beaconReceive_spec (leAt b 4 4) f ((b.drop 8).take (leAt b 2 2))
        rw [byteAt_payload (by omega)] at heard health event
        exact ⟨_, run, beacon, heard, health, event, memory, regs⟩
      · rw [ht] at run
        exact ⟨_, run, State.chunkReceive_held hm hg hs hq hi (len hl) (by rw [hl]; exact hp) hcrc⟩
      · rw [ht] at run
        exact ⟨_, run, State.chunkReceive_dropped hm hg hs hq hi (len hl) (by rw [hl]; exact hp) hcrc⟩
      · rw [ht, hk, State.partnerTaken, State.refreshReceive_bank hm] at run
        subst hk
        exact ⟨_, run, State.each_wr (lawBank_inj a) s _ 51⟩
      · rw [ht, State.partnerTaken, if_pos hr] at run
        exact ⟨_, run, State.each_wr pairSpan_inj s _ 12⟩
  · exact ⟨_, congrArg Host.Outcome.next (spanReportSend_standby h), rfl, rfl⟩
  · exact congrArg Host.Outcome.next (if_pos h)
  · obtain ⟨t, ht, sent⟩ := checkpointChunkSend_spec hr hg ho
    exact ⟨t, congrArg Host.Outcome.next ht, sent⟩
  · exact congrArg Host.Outcome.next (checkpointChunkSend_idle h)
  · exact congrArg Host.Outcome.next (if_pos h)
  · exact ⟨_, congrArg Host.Outcome.next (refreshChunkSend_bank hr hb), rfl, rfl, rfl⟩
  · exact congrArg Host.Outcome.next (refreshChunkSend_none hr hb hl)
  · exact ⟨_, exec_pairYield_root hv hr, rfl⟩
  · exact ⟨_, exec_pairYield_other hm h, s.fld_lkDeny_mid m.isLt, s.onlyRegs_lkDeny m⟩
  · subst hh
    exact standbySync_running hc hm hon hr hcode hlen hx htype hver hall hseg hhid hq
  · subst hh
    exact standbySync_other hc hm hon hr hcode hlen hx htype hq
  · have missed : s.Missed := ⟨hm, hct, hcold, hload, hlong⟩
    refine ⟨fun hp => ?_, fun hp => ?_⟩
    · obtain ⟨event, count, cyc, age, lag, frame⟩ := s.takenOver_spec
      exact ⟨_, congrArg Host.Outcome.next (takeover_held missed hp), event, count, cyc, age, lag, rfl, frame⟩
    · exact ⟨_, congrArg Host.Outcome.next (takeover_empty missed hp), s.bit_pairEvt (by omega), (State.OnlyRegs.refl s _).wr (by simp) _⟩
  · exact congrArg Host.Outcome.next (takeover_idle h)
  · obtain ⟨u, page, e⟩ := takeoverLoadDone_loads h
    have axes : ∀ a, a < 256 → u.AxisLoaded s.pair.held a := fun a ha => (State.axesFrom_loaded _ _ ha).kept page
    refine ⟨_, congrArg Host.Outcome.next e, rfl, ?_, fun a ha => ⟨(axes a ha).pos, (axes a ha).x⟩⟩
    exact congrArg (·.loading) (page.pair.trans (State.pair_axesFrom _ _))
  · exact congrArg Host.Outcome.next (takeoverLoadDone_idle h)

end Sys2Proof.Machine
end

section
/-! The time base while no command waits (R193 to R197; log entry 1). -/

namespace Sys2Proof.Machine

variable {s : State}

theorem step_idle (h : s.pending = []) : step s = .next s.idleTick := by
  simp only [step, h]

/-- A time within the range of network time reads back as it was set (R196). -/
theorem TimeBase.net_setNet (b : TimeBase) {n : Int} (h0 : 0 ≤ n) (h : n < ((2 ^ 64 * secU : Nat) : Int)) : (b.setNet n).net = n := by
  obtain ⟨k, rfl⟩ := Int.eq_ofNat_of_zero_le h0
  have parts : k / secU * secU + k % secU / 2 ^ 32 * 2 ^ 32 + k % 2 ^ 32 = k := by
    simp only [secU]
    omega
  simp only [TimeBase.setNet, TimeBase.net, Int.emod_eq_of_lt h0 h, Int.toNat_natCast, parts]

theorem TimeBase.frac_setNet_lt (b : TimeBase) (n : Int) : (b.setNet n).frac < 2 ^ 32 := Nat.mod_lt _ (by positivity)

theorem TimeBase.ns_setNet_lt (b : TimeBase) (n : Int) : (b.setNet n).ns < 1000000000 :=
  Nat.div_lt_of_lt_mul (by rw [mul_comm]; exact Nat.mod_lt _ (by decide))

/-- Before the last tick of the cycle, network time and both tick counters advance. -/
theorem State.idleTick_runs (hr : s.tb.running = true) (hc : s.tb.ctick + 1 < s.tb.len) :
    s.idleTick = { s with tb := { s.tb.setNet (s.tb.net + s.inc32) with tick := s.tb.tick + 1, ctick := s.tb.ctick + 1 } } := by
  rw [State.idleTick, if_pos (by simp [hr, hc]), State.ticks, Nat.cast_one, one_mul]
  rfl

theorem State.idleTick_stands (hr : s.tb.running = false) : s.idleTick = s := if_neg (by simp [hr])

/-- Settles O2: the tick's new network time lies within its range, where it reads back as it was set. -/
theorem idleTick : Obligations.IdleTick := by
  unfold Obligations.IdleTick
  refine ⟨fun s hp hr hc _ _ h0 hlt => ?_, fun s hp hr => ?_⟩
  · refine ⟨_, (step_idle hp).trans (congrArg Host.Outcome.next (State.idleTick_runs hr hc)), rfl, rfl, rfl, rfl, ?_,
      s.tb.frac_setNet_lt _, s.tb.ns_setNet_lt _⟩
    exact (s.tb.net_setNet h0 hlt).trans (add_assoc ..).symm
  · rw [step_idle hp, State.idleTick_stands hr]

end Sys2Proof.Machine
end

section
/-! Network time read and set: snapshot, STEP, ADJ and TVCLR (R200, R201; log entry 21). -/

namespace Sys2Proof.Machine

variable {s t u : State} {l : List Nat}

/-- Frames whose time bases are those of their ends, one after the other. -/
theorem State.OnlyRegs.throughTb (h : { s with tb := t.tb }.OnlyRegs t l) (k : { t with tb := u.tb }.OnlyRegs u l) :
    { s with tb := u.tb }.OnlyRegs u l := (h.withTb u.tb).trans k

theorem State.OnlyRegs.tb_eq (h : s.OnlyRegs t l) : t.tb = s.tb := (congrArg State.tb h.rest :)

/-- A frame that leaves the time base alone, read with the time base of its end. -/
theorem State.OnlyRegs.ownTb (h : s.OnlyRegs t l) : { s with tb := t.tb }.OnlyRegs t l := h.withTb t.tb

/-! ## The commands that write TB_SNAP and TB_CTRL -/

section
variable {m : Fin 32}

theorem exec_snapGo (h : s.may m Reg.TB_SNAP true) (v : Word) : exec (.snapGo m v) s = .next (s.snapGo v) :=
  congrArg Host.Outcome.next (State.regAccess_of_may h fun s => s.snapGo v)

/-- TB_STEP, TB_ADJ and TB_TVCLR are the same write. -/
theorem exec_tbCtrl (h : s.may m Reg.TB_CTRL true) (v : Word) :
    exec (.tbStep m v) s = .next (s.tbCtrl v) ∧ exec (.tbAdj m v) s = .next (s.tbCtrl v) ∧ exec (.tbTvclr m v) s = .next (s.tbCtrl v) :=
  have written := congrArg Host.Outcome.next (State.regAccess_of_may h fun s => s.tbCtrl v)
  ⟨written, written, written⟩

end

/-! ## TB_SNAP (R200) -/

/-- The registers of the snapshot follow one another. -/
def snapReg (i : Nat) : Nat := Reg.TB_SNAP_TLO + 4 * i

/-- What the snapshot's registers take. -/
def TimeBase.snap (b : TimeBase) : Nat → Word
  | 0 => word b.tick
  | 1 => word (b.tick / 2 ^ 32)
  | 2 => b.cyc
  | 3 => word b.ctick
  | 4 => word b.sec
  | 5 => word (b.sec / 2 ^ 32)
  | 6 => word b.ns
  | _ => word (b.frac / 65536)

theorem State.snapGo_writes {v : Word} (h : wBit v 31 = true) :
    s.snapGo v = s.each (List.range 8) fun i u => u.wr (snapReg i) (s.tb.snap i) := if_neg (by simp [h])

/-! ## STEP, ADJ and TVCLR (R201) -/

/-- The time that TB_SET names: seconds, nanoseconds and fraction. -/
def State.setTime (s : State) : Nat × Nat × Nat :=
  ((s.rd Reg.TB_SET_SHI).toNat * 2 ^ 32 + (s.rd Reg.TB_SET_SLO).toNat, (s.rd Reg.TB_SET_NS).toNat, s.fld Reg.TB_SET_FRAC 15 0)

/-- TB_ADJ_NS in units of 2^-16 ns. -/
def State.adjustment (s : State) : Int := s32 (s.rd Reg.TB_ADJ_NS) * 65536

theorem State.stepCapture_taken (h : (s.rd Reg.TB_SET_NS).toNat < 1000000000) :
    s.stepCapture = { s with tb := { s.tb with stepAbs := some s.setTime, ofs := 0, ofsPend := false } }.setBit Reg.TB_STAT 26 true :=
  if_neg (by simpa using h)

theorem State.stepCapture_refused (h : 1000000000 ≤ (s.rd Reg.TB_SET_NS).toNat) : s.stepCapture = s.tbEvt 29 := if_pos h

/-- Setting a bit of TB_STAT after a change of the time base. -/
theorem State.onlyRegs_tbStat (s : State) (b : TimeBase) (i : Nat) (x : Bool) :
    { s with tb := b }.OnlyRegs ({ s with tb := b }.setBit Reg.TB_STAT i x) [Reg.TB_STAT] := (State.OnlyRegs.refl _ _).wr (by simp) _

/-- A captured STEP: the pending change of time, and the bit of TB_STAT that shows it. -/
theorem State.stepCapture_spec (h : (s.rd Reg.TB_SET_NS).toNat < 1000000000) :
    s.stepCapture.tb = { s.tb with stepAbs := some s.setTime, ofs := 0, ofsPend := false } ∧ s.stepCapture.bit Reg.TB_STAT 26 = true
      ∧ { s with tb := s.stepCapture.tb }.OnlyRegs s.stepCapture [Reg.TB_STAT] := by
  rw [State.stepCapture_taken h]
  exact ⟨rfl, State.bit_setBit_same _ _ (by decide) true, s.onlyRegs_tbStat _ 26 true⟩

theorem State.addOffset_spec (s : State) (o : Int) :
    (s.addOffset o).tb = { s.tb with ofs := s.tb.ofs + o, ofsPend := true } ∧ (s.addOffset o).bit Reg.TB_STAT 26 = true
      ∧ { s with tb := (s.addOffset o).tb }.OnlyRegs (s.addOffset o) [Reg.TB_STAT] :=
  ⟨rfl, State.bit_setBit_same _ _ (by decide) true, s.onlyRegs_tbStat _ 26 true⟩

/-- TVCLR, asked for or not, leaves the time base and the pending change shown. -/
theorem State.tvclr_spec (s : State) (b : Bool) (h : s.bit Reg.TB_STAT 26 = true) :
    (s.when b fun u => u.setBit Reg.TB_STAT 29 false).tb = s.tb ∧ (s.when b fun u => u.setBit Reg.TB_STAT 29 false).bit Reg.TB_STAT 26 = true
      ∧ s.OnlyRegs (s.when b fun u => u.setBit Reg.TB_STAT 29 false) [Reg.TB_STAT] := by
  cases b with
  | false => exact ⟨rfl, h, .refl s _⟩
  | true => exact ⟨rfl, (s.bit_setBit _ _ _ _ (by decide)).trans h, s.onlyRegs_tbStat s.tb 29 false⟩

/-- STEP with a time in range: what is pending afterwards. ADJ in the same write adds its offset to none. -/
theorem State.tbCtrl_step {v : Word} (h31 : wBit v 31 = true) (h : (s.rd Reg.TB_SET_NS).toNat < 1000000000) :
    (s.tbCtrl v).tb = { s.tb with stepAbs := some s.setTime, ofs := if wBit v 30 then s.adjustment else 0, ofsPend := wBit v 30 }
      ∧ (s.tbCtrl v).bit Reg.TB_STAT 26 = true ∧ { s with tb := (s.tbCtrl v).tb }.OnlyRegs (s.tbCtrl v) [Reg.TB_STAT] := by
  obtain ⟨captured, shown, frame⟩ := State.stepCapture_spec h
  cases h30 : wBit v 30 with
  | false =>
    have e : s.tbCtrl v = s.stepCapture.when (wBit v 29) fun u => u.setBit Reg.TB_STAT 29 false := by
      simp only [State.tbCtrl, h31, h30, State.when_true, State.when_false]
    obtain ⟨tb, bit, cleared⟩ := s.stepCapture.tvclr_spec (wBit v 29) shown
    rw [e]
    exact ⟨tb.trans captured, bit, frame.throughTb cleared.ownTb⟩
  | true =>
    have e : s.tbCtrl v = (s.stepCapture.addOffset s.stepCapture.adjustment).when (wBit v 29) fun u => u.setBit Reg.TB_STAT 29 false := by
      simp only [State.tbCtrl, h31, h30, State.when_true, State.adjustment]
    have same : s.stepCapture.adjustment = s.adjustment := congrArg (s32 · * 65536) (frame.regs _ (by decide))
    obtain ⟨added, shown', frame'⟩ := s.stepCapture.addOffset_spec s.stepCapture.adjustment
    obtain ⟨tb, bit, cleared⟩ := (s.stepCapture.addOffset s.stepCapture.adjustment).tvclr_spec (wBit v 29) shown'
    rw [e]
    refine ⟨?_, bit, (frame.throughTb frame').throughTb cleared.ownTb⟩
    rw [tb, added, captured, same]
    simp

theorem State.tbCtrl_step_refused {v : Word} (h31 : wBit v 31 = true) (h30 : wBit v 30 = false) (h29 : wBit v 29 = false)
    (h : 1000000000 ≤ (s.rd Reg.TB_SET_NS).toNat) : s.tbCtrl v = s.tbEvt 29 := by
  simp only [State.tbCtrl, h31, h30, h29, State.when_true, State.when_false, State.stepCapture_refused h]

theorem State.tbCtrl_adj {v : Word} (h31 : wBit v 31 = false) (h30 : wBit v 30 = true) :
    s.tbCtrl v = (s.addOffset s.adjustment).when (wBit v 29) fun u => u.setBit Reg.TB_STAT 29 false := by
  simp only [State.tbCtrl, h31, h30, State.when_true, State.when_false, State.adjustment]

theorem State.tbCtrl_tvclr {v : Word} (h31 : wBit v 31 = false) (h30 : wBit v 30 = false) (h29 : wBit v 29 = true) :
    s.tbCtrl v = s.setBit Reg.TB_STAT 29 false := by
  simp only [State.tbCtrl, h31, h30, h29, State.when_true, State.when_false]

/-- Settles O9: a snapshot is eight writes of registers, and STEP, ADJ and TVCLR are the three requests of one write of TB_CTRL. -/
theorem networkTimeSetting : Obligations.NetworkTimeSetting := by
  unfold Obligations.NetworkTimeSetting
  refine ⟨fun s m v h h31 => ?_, fun s m v h h31 hns => ?_, fun s m v h h31 h30 h29 hns => ?_, fun s m v h h31 h30 => ?_,
    fun s m v h h31 h30 h29 => ?_⟩
  -- SNAP_GO (R200)
  · obtain ⟨holds, frame⟩ := State.each_wr (r := snapReg) (fun i j e => by simpa [snapReg] using e) s s.tb.snap 8
    exact ⟨_, (exec_snapGo h v).trans (congrArg Host.Outcome.next (State.snapGo_writes h31)), holds 0 (by decide), holds 1 (by decide),
      holds 2 (by decide), holds 3 (by decide), holds 4 (by decide), holds 5 (by decide), holds 6 (by decide), holds 7 (by decide), frame⟩
  -- TB_STEP with a time in range (R201)
  · obtain ⟨tb, shown, frame⟩ := State.tbCtrl_step h31 hns
    refine ⟨_, (exec_tbCtrl h v).1, congrArg TimeBase.stepAbs tb, congrArg TimeBase.ofs tb, congrArg TimeBase.ofsPend tb, shown, ?_⟩
    rw [tb] at frame ⊢
    exact frame
  -- TB_STEP with TB_SET_NS out of range
  · exact ⟨_, (exec_tbCtrl h v).1.trans (congrArg Host.Outcome.next (State.tbCtrl_step_refused h31 h30 h29 hns)), s.rd_tbEvt_evt 29, s.tbEvt_raises 29⟩
  -- TB_ADJ
  · obtain ⟨added, shown, frame⟩ := s.addOffset_spec s.adjustment
    obtain ⟨tb, shown', cleared⟩ := (s.addOffset s.adjustment).tvclr_spec (wBit v 29) shown
    exact ⟨_, (exec_tbCtrl h v).2.1.trans (congrArg Host.Outcome.next (State.tbCtrl_adj h31 h30)), tb.trans added, shown', frame.throughTb cleared.ownTb⟩
  -- TB_TVCLR
  · exact ⟨_, (exec_tbCtrl h v).2.2.trans (congrArg Host.Outcome.next (State.tbCtrl_tvclr h31 h30 h29)), State.rd_wr_same s _ _,
      s.onlyRegs_tbStat s.tb 29 false⟩

end Sys2Proof.Machine
end

section
/-! The servo: offsets from firmware, a measurement, and holdover (R203 to R205, R355; log entry 21). -/

namespace Sys2Proof.Machine

variable {s t u : State} {l : List Nat}

/-- Frames whose time bases are those of their ends, one after the other. -/
theorem State.OnlyRaised.throughTb (h : { s with tb := t.tb }.OnlyRaised t l) (k : { t with tb := u.tb }.OnlyRaised u l) :
    { s with tb := u.tb }.OnlyRaised u l := (h.withTb u.tb).trans k

/-! ## TB_OFS_FRAC (R203) -/

theorem exec_firmwareOffset {m : Fin 32} (h : s.may m Reg.TB_OFS_FRAC true) (v : Word) : exec (.firmwareOffset m v) s = .next (s.ofsFrac v) :=
  congrArg Host.Outcome.next (State.regAccess_of_may h fun s => s.ofsFrac v)

theorem State.measured_queues (h : s.mode ≠ mMINIMAL) (o : Int) :
    s.measured o = { s with tb := { s.tb with meas := s.tb.meas ++ [o], measAt := s.tb.tick } } := if_neg h

/-- The servo rests in MINIMAL (R355). -/
theorem State.measured_minimal (h : s.mode = mMINIMAL) (o : Int) : s.measured o = s := if_pos h

/-- TB_OFS_FRAC with FRAC written. -/
def State.fracWritten (s : State) (v : Word) : State := s.setFld Reg.TB_OFS_FRAC 15 0 (wFld v 15 0)

theorem State.mode_fracWritten (s : State) (v : Word) : (s.fracWritten v).mode = s.mode := congrArg (wFld · 3 0) (s.rd_wr_other _ (by decide))

theorem State.onlyRegs_fracWritten (s : State) (v : Word) : s.OnlyRegs (s.fracWritten v) [Reg.TB_OFS_FRAC] := (State.OnlyRegs.refl s _).wr (by simp) _

theorem State.ofsFrac_taken (h : s.fld Reg.TB_SRV_CFG 31 30 = 1) (v : Word) :
    s.ofsFrac v = (s.fracWritten v).measured (s32 (s.rd Reg.TB_OFS_NS) * 65536 + (v.toNat % 65536 : Nat)) := by
  have ns : (s.fracWritten v).rd Reg.TB_OFS_NS = s.rd Reg.TB_OFS_NS := (s.onlyRegs_fracWritten v).regs _ (by decide)
  have taken : s.ofsFrac v = (s.fracWritten v).measured (s32 ((s.fracWritten v).rd Reg.TB_OFS_NS) * 65536 + wFld v 15 0) :=
    if_neg (not_not.2 h)
  rw [taken, ns]
  rfl

theorem State.ofsFrac_refused (h : s.fld Reg.TB_SRV_CFG 31 30 ≠ 1) (v : Word) : s.ofsFrac v = s.tbEvt 28 := if_pos h

/-! ## SLOCK lost -/

/-- SLOCK clears; its loss is raised, and the other bits of TB_STAT stand. -/
theorem State.unlockServo_spec (s : State) : s.OnlyRaised s.unlockServo [Reg.TB_STAT, Reg.TB_EVT]
    ∧ s.unlockServo.bit Reg.TB_STAT 28 = false ∧ s.unlockServo.bit Reg.TB_STAT 27 = s.bit Reg.TB_STAT 27
    ∧ s.unlockServo.rd Reg.TB_EVT = s.rd Reg.TB_EVT ||| mkBit 27 (s.bit Reg.TB_STAT 28) := by
  cases h : s.bit Reg.TB_STAT 28 with
  | false =>
    rw [show s.unlockServo = s from if_neg (by simp [h])]
    exact ⟨.refl s _, h, rfl, (BitVec.or_zero ..).symm⟩
  | true =>
    have lost : s.unlockServo = (s.setBit Reg.TB_STAT 28 false).tbEvt 27 := if_pos h
    have stat (i : Nat) : s.unlockServo.bit Reg.TB_STAT i = (s.setBit Reg.TB_STAT 28 false).bit Reg.TB_STAT i := by
      rw [lost]
      exact congrArg (wBit · i) (State.rd_tbEvt_stat _ 27)
    refine ⟨?_, (stat 28).trans (s.bit_setBit_same _ (by decide) false), (stat 27).trans (s.bit_setBit _ _ _ _ (by decide)), ?_⟩
    · rw [lost]
      exact ((State.OnlyRaised.refl s _).wr (by simp) _).trans ((State.tbEvt_raises _ 27).mono (by simp))
    · rw [lost, State.rd_tbEvt_evt, State.setBit_wr, State.rd_wr_other _ _ (by decide)]
      rfl

/-! ## A measurement (R204)

A measurement is taken and shown, then it steers network time, then it counts for SLOCK. -/

/-- s with measurement o taken from the queue and shown. -/
def State.measTaken (s : State) (o : Int) (rest : List Int) : State :=
  (((({ s with tb := { s.tb with meas := rest } }).wr Reg.TB_LAST_NS (wordI (o / 65536))).wr Reg.TB_LAST_FRAC (word (o % 65536).toNat)).inc
    Reg.TB_MEAS_CNT).setBit Reg.TB_STAT 27 false

/-- The integrator after measurement o. -/
def State.integral (s : State) (o : Int) : Int :=
  rateLim (s32 (s.rd Reg.TB_RATE_I) + rneDiv (s.fld Reg.TB_SRV_GAIN 15 0 * o) (2 ^ s.fld Reg.TB_SRV_CFG 20 16))

/-- The rate that measurement o asks for. -/
def State.servoRate (s : State) (o : Int) : Int :=
  rateLim (s.integral o + rneDiv (s.fld Reg.TB_SRV_GAIN 31 16 * o) (2 ^ s.fld Reg.TB_SRV_CFG 25 21))

/-- Measurement o reaches a STEPTH that is not 0. -/
abbrev State.servoSteps (s : State) (o : Int) : Prop :=
  (s.fld Reg.TB_SRV_LIM 31 16 * 65536 : Int) ≠ 0 ∧ (s.fld Reg.TB_SRV_LIM 31 16 * 65536 : Int) ≤ o.natAbs

/-- Measurement o steps network time, or sets the integrator and the rate. -/
def State.steered (s : State) (o : Int) : State :=
  if s.servoSteps o then s.addOffset o
  else { s.wr Reg.TB_RATE_I (wordI (s.integral o)) with tb := { s.tb with ratePend := some (s.servoRate o) } }

/-- Measurement o, below LOCKTH or not, continues the run of good measurements or ends it. -/
def State.runCounted (s : State) (o lockth : Int) : State :=
  if (o.natAbs : Int) < lockth then { s with tb := { s.tb with good := s.tb.good + 1 } } else ({ s with tb := { s.tb with good := 0 } }).unlockServo

/-- SLOCK and TVALID set after four good measurements. -/
def State.locking (s : State) : State := if 4 ≤ s.tb.good then s.orBits Reg.TB_STAT (bitW 28 ||| bitW 29) else s

/-- Measurement o counts for SLOCK, and SLOCK is set or cleared by it. -/
def State.judged (s : State) (o lockth : Int) : State := (s.runCounted o lockth).locking

theorem servoMeasurement_takes {o : Int} {rest : List Int} (hm : s.mode ≠ mMINIMAL) (hq : s.tb.meas = o :: rest) :
    servoMeasurement s = ((s.measTaken o rest).steered o).judged o ((s.measTaken o rest).fld Reg.TB_SRV_LIM 15 0 * 65536) := by
  simp only [servoMeasurement, if_neg hm, hq]
  rfl

/-- The registers that a measurement shows. -/
def measRegs : List Nat := [Reg.TB_LAST_NS, Reg.TB_LAST_FRAC, Reg.TB_MEAS_CNT, Reg.TB_STAT]

theorem State.measTaken_spec (s : State) (o : Int) (rest : List Int) :
    { s with tb := (s.measTaken o rest).tb }.OnlyRegs (s.measTaken o rest) measRegs
    ∧ (s.measTaken o rest).rd Reg.TB_LAST_NS = wordI (o / 65536) ∧ (s.measTaken o rest).rd Reg.TB_LAST_FRAC = word (o % 65536).toNat
    ∧ (s.measTaken o rest).rd Reg.TB_MEAS_CNT = s.rd Reg.TB_MEAS_CNT + 1 ∧ (s.measTaken o rest).bit Reg.TB_STAT 27 = false := by
  have m : ∀ a ∈ measRegs, a ∈ measRegs := fun _ h => h
  refine ⟨((((State.OnlyRegs.refl _ _).wr (m Reg.TB_LAST_NS (by decide)) _).wr (m Reg.TB_LAST_FRAC (by decide)) _).wr
    (m Reg.TB_MEAS_CNT (by decide)) _).wr (m Reg.TB_STAT (by decide)) _, ?_, ?_, ?_, State.bit_setBit_same _ _ (by decide) false⟩
  · rw [State.measTaken, State.setBit_wr, State.rd_wr_other _ _ (by decide), State.inc_wr, State.rd_wr_other _ _ (by decide),
      State.rd_wr_other _ _ (by decide), State.rd_wr_same]
  · rw [State.measTaken, State.setBit_wr, State.rd_wr_other _ _ (by decide), State.inc_wr, State.rd_wr_other _ _ (by decide), State.rd_wr_same]
  · rw [State.measTaken, State.setBit_wr, State.rd_wr_other _ _ (by decide), State.inc_wr, State.rd_wr_same,
      State.rd_wr_other _ _ (by decide), State.rd_wr_other _ _ (by decide)]
    rfl

/-- What steers is read as it stood before the measurement was shown. -/
theorem State.measTaken_servo (s : State) (o : Int) (rest : List Int) :
    ((s.measTaken o rest).servoSteps o ↔ s.fld Reg.TB_SRV_LIM 31 16 ≠ 0 ∧ s.fld Reg.TB_SRV_LIM 31 16 * 65536 ≤ o.natAbs)
    ∧ (s.measTaken o rest).integral o = s.integral o ∧ (s.measTaken o rest).servoRate o = s.servoRate o
    ∧ ((s.measTaken o rest).fld Reg.TB_SRV_LIM 15 0 * 65536 : Int) = s.fld Reg.TB_SRV_LIM 15 0 * 65536 := by
  obtain ⟨frame, -⟩ := s.measTaken_spec o rest
  have lim : (s.measTaken o rest).rd Reg.TB_SRV_LIM = s.rd Reg.TB_SRV_LIM := frame.regs _ (by decide)
  have gain : (s.measTaken o rest).rd Reg.TB_SRV_GAIN = s.rd Reg.TB_SRV_GAIN := frame.regs _ (by decide)
  have cfg : (s.measTaken o rest).rd Reg.TB_SRV_CFG = s.rd Reg.TB_SRV_CFG := frame.regs _ (by decide)
  have rate : (s.measTaken o rest).rd Reg.TB_RATE_I = s.rd Reg.TB_RATE_I := frame.regs _ (by decide)
  refine ⟨?_, ?_, ?_, ?_⟩
  · rw [State.servoSteps, State.fld, lim, ← State.fld]
    omega
  · simp only [State.integral, State.fld, gain, cfg, rate]
  · simp only [State.servoRate, State.integral, State.fld, gain, cfg, rate]
  · rw [State.fld, lim, ← State.fld]

theorem State.steered_steps {o : Int} (h : s.servoSteps o) : s.steered o = s.addOffset o := if_pos h

theorem State.steered_integrates {o : Int} (h : ¬ s.servoSteps o) :
    s.steered o = { s.wr Reg.TB_RATE_I (wordI (s.integral o)) with tb := { s.tb with ratePend := some (s.servoRate o) } } := if_neg h

/-- A measurement that steps: an offset is pending beside those before it, and the integrator and the rate stand. -/
theorem State.steered_steps_spec {o : Int} (h : s.servoSteps o) : (s.steered o).tb.ofs = s.tb.ofs + o ∧ (s.steered o).tb.ofsPend = true
    ∧ (s.steered o).tb.ratePend = s.tb.ratePend ∧ (s.steered o).rd Reg.TB_RATE_I = s.rd Reg.TB_RATE_I := by
  rw [State.steered_steps h]
  exact ⟨rfl, rfl, rfl, (s.addOffset_spec o).2.2.regs _ (by decide)⟩

/-- A measurement that does not step: the integrator and the rate follow it, and no offset is added. -/
theorem State.steered_integrates_spec {o : Int} (h : ¬ s.servoSteps o) : (s.steered o).rd Reg.TB_RATE_I = wordI (s.integral o)
    ∧ (s.steered o).tb.ofs = s.tb.ofs ∧ (s.steered o).tb.ratePend = some (s.servoRate o) := by
  rw [State.steered_integrates h]
  exact ⟨State.rd_wr_same _ _ _, rfl, rfl⟩

/-- Whichever way a measurement steers, the queue and the run of good measurements stand, and HOLD. -/
theorem State.steered_spec (s : State) (o : Int) : { s with tb := (s.steered o).tb }.OnlyRegs (s.steered o) [Reg.TB_STAT, Reg.TB_RATE_I]
    ∧ (s.steered o).tb.meas = s.tb.meas ∧ (s.steered o).tb.good = s.tb.good
    ∧ (s.steered o).bit Reg.TB_STAT 27 = s.bit Reg.TB_STAT 27 := by
  by_cases h : s.servoSteps o
  · rw [State.steered_steps h]
    exact ⟨(s.addOffset_spec o).2.2.mono (by simp), rfl, rfl, State.bit_setBit _ _ _ _ _ (by decide)⟩
  · rw [State.steered_integrates h]
    exact ⟨((State.OnlyRegs.refl s _).wr (by simp) _).withTb _, rfl, rfl, s.bit_wr_other _ (by decide) _⟩

theorem State.locking_spec (s : State) : s.OnlyRegs s.locking [Reg.TB_STAT] ∧ s.locking.bit Reg.TB_STAT 27 = s.bit Reg.TB_STAT 27
    ∧ (4 ≤ s.tb.good → s.locking.bit Reg.TB_STAT 28 = true ∧ s.locking.bit Reg.TB_STAT 29 = true) := by
  unfold State.locking
  split
  · have stat (i : Nat) : (s.orBits Reg.TB_STAT (bitW 28 ||| bitW 29)).bit Reg.TB_STAT i
        = (s.bit Reg.TB_STAT i || (wBit (bitW 28) i || wBit (bitW 29) i)) := by
      rw [State.bit, State.orBits_wr, State.rd_wr_same, wBit_or, wBit_or]
      rfl
    exact ⟨(State.OnlyRegs.refl s _).wr (by simp) _, by simp [stat, wBit_bitW], fun _ => by simp [stat, wBit_bitW]⟩
  · exact ⟨.refl s _, rfl, fun h => absurd h ‹_›⟩

/-- A good measurement: the fourth in a row, and those after it, set SLOCK and TVALID. -/
theorem State.judged_near {o lockth : Int} (h : (o.natAbs : Int) < lockth) : (s.judged o lockth).tb = { s.tb with good := s.tb.good + 1 }
    ∧ { s with tb := (s.judged o lockth).tb }.OnlyRaised (s.judged o lockth) [Reg.TB_STAT, Reg.TB_EVT]
    ∧ (s.judged o lockth).bit Reg.TB_STAT 27 = s.bit Reg.TB_STAT 27
    ∧ (3 ≤ s.tb.good → (s.judged o lockth).bit Reg.TB_STAT 28 = true ∧ (s.judged o lockth).bit Reg.TB_STAT 29 = true) := by
  obtain ⟨frame, held, locks⟩ := State.locking_spec { s with tb := { s.tb with good := s.tb.good + 1 } }
  rw [State.judged, State.runCounted, if_pos h]
  refine ⟨frame.tb_eq, ?_, held, fun hg => locks (Nat.succ_le_succ hg)⟩
  rw [frame.tb_eq]
  exact .of (frame.mono (by simp))

/-- A measurement that is not good ends the run and clears SLOCK. -/
theorem State.judged_far {o lockth : Int} (h : lockth ≤ o.natAbs) : (s.judged o lockth).tb = { s.tb with good := 0 }
    ∧ { s with tb := (s.judged o lockth).tb }.OnlyRaised (s.judged o lockth) [Reg.TB_STAT, Reg.TB_EVT]
    ∧ (s.judged o lockth).bit Reg.TB_STAT 27 = s.bit Reg.TB_STAT 27 ∧ (s.judged o lockth).bit Reg.TB_STAT 28 = false := by
  obtain ⟨frame, lost, held, -⟩ := State.unlockServo_spec { s with tb := { s.tb with good := 0 } }
  have none : ({ s with tb := { s.tb with good := 0 } }).unlockServo.locking = ({ s with tb := { s.tb with good := 0 } }).unlockServo :=
    if_neg (by simp [frame.tb_eq])
  rw [State.judged, State.runCounted, if_neg (not_lt.2 h), none]
  refine ⟨frame.tb_eq, ?_, held, lost⟩
  rw [frame.tb_eq]
  exact frame

/-- Whatever a measurement counts for, only the run of good ones changes of the time base, and HOLD stands. -/
theorem State.judged_spec (s : State) (o lockth : Int) : (s.judged o lockth).tb = { s.tb with good := (s.judged o lockth).tb.good }
    ∧ { s with tb := (s.judged o lockth).tb }.OnlyRaised (s.judged o lockth) [Reg.TB_STAT, Reg.TB_EVT]
    ∧ (s.judged o lockth).bit Reg.TB_STAT 27 = s.bit Reg.TB_STAT 27 := by
  rcases lt_or_ge (o.natAbs : Int) lockth with h | h
  · obtain ⟨tb, frame, held, -⟩ := State.judged_near (s := s) h
    exact ⟨tb.trans (by rw [tb]), frame, held⟩
  · obtain ⟨tb, frame, held, -⟩ := State.judged_far (s := s) h
    exact ⟨tb.trans (by rw [tb]), frame, held⟩

/-! ## Holdover (R205) -/

/-- The conditions of R205: the servo has a source and a HOLDT, does not hold yet, and has waited HOLDT × 1,048,576 ticks. -/
structure State.HoldoverDue (s : State) : Prop where
  mode : s.mode ≠ mMINIMAL
  source : s.fld Reg.TB_SRV_CFG 31 30 ≠ 0
  limit : s.fld Reg.TB_SRV_CFG 15 0 ≠ 0
  free : s.bit Reg.TB_STAT 27 = false
  waited : s.tb.measAt + s.fld Reg.TB_SRV_CFG 15 0 * 1048576 ≤ s.tb.tick

/-- s with HOLD set and raised, and SLOCK clear. -/
def State.held (s : State) : State := ((s.setBit Reg.TB_STAT 27 true).tbEvt 26).unlockServo

theorem holdover_holds (h : s.HoldoverDue) :
    holdover s = { s.held with tb := { s.held.tb with ratePend := some (s32 (s.held.rd Reg.TB_RATE_I)) } } :=
  if_neg (by simp [h.mode, h.source, h.limit, h.free, h.waited])

theorem State.held_spec (s : State) : s.OnlyRaised s.held [Reg.TB_STAT, Reg.TB_EVT] ∧ s.held.bit Reg.TB_STAT 27 = true
    ∧ s.held.bit Reg.TB_STAT 28 = false ∧ s.held.bit Reg.TB_EVT 26 = true := by
  obtain ⟨frame, unlocked, hold, evt⟩ := ((s.setBit Reg.TB_STAT 27 true).tbEvt 26).unlockServo_spec
  have set : s.OnlyRaised (s.setBit Reg.TB_STAT 27 true) [Reg.TB_STAT, Reg.TB_EVT] := (State.OnlyRaised.refl s _).wr (by simp) _
  refine ⟨(set.trans ((State.tbEvt_raises _ 26).mono (by simp))).trans frame, ?_, unlocked, ?_⟩
  · exact hold.trans ((congrArg (wBit · 27) (State.rd_tbEvt_stat _ 26)).trans (s.bit_setBit_same _ (by decide) true))
  · rw [State.bit, State.held, evt, State.rd_tbEvt_evt]
    simp [wBit_bitW]

/-- Settles O10: a measurement is taken and shown, steers, and counts for SLOCK, each by what it leaves alone. -/
theorem clockServo : Obligations.ClockServo := by
  unfold Obligations.ClockServo
  refine ⟨fun s m v h hs => ⟨fun hm => ?_, fun hm => ?_⟩, fun s m v h hs => ?_, fun s o rest hm hq => ?_, fun s hm hc hl hf hw => ?_⟩
  -- FIRMWARE_OFFSET (R203, R355)
  · have queued := State.measured_queues (s := s.fracWritten v) ((s.mode_fracWritten v).trans_ne hm)
      (s32 (s.rd Reg.TB_OFS_NS) * 65536 + (v.toNat % 65536 : Nat))
    exact ⟨_, (exec_firmwareOffset h v).trans (congrArg Host.Outcome.next ((State.ofsFrac_taken hs v).trans queued)), rfl,
      (s.onlyRegs_fracWritten v).withTb _⟩
  · have rests := State.measured_minimal (s := s.fracWritten v) ((s.mode_fracWritten v).trans hm)
      (s32 (s.rd Reg.TB_OFS_NS) * 65536 + (v.toNat % 65536 : Nat))
    exact ⟨_, (exec_firmwareOffset h v).trans (congrArg Host.Outcome.next ((State.ofsFrac_taken hs v).trans rests)), s.onlyRegs_fracWritten v⟩
  · exact ⟨_, (exec_firmwareOffset h v).trans (congrArg Host.Outcome.next (State.ofsFrac_refused hs v)), s.rd_tbEvt_evt 28, s.tbEvt_raises 28⟩
  -- SERVO_MEASUREMENT (R204)
  · obtain ⟨takes, ns, frac, count, free⟩ := s.measTaken_spec o rest
    obtain ⟨steps, integral, rate, lockth⟩ := s.measTaken_servo o rest
    have queue : (s.measTaken o rest).tb.meas = rest := rfl
    have ofs : (s.measTaken o rest).tb.ofs = s.tb.ofs := rfl
    have pend : (s.measTaken o rest).tb.ratePend = s.tb.ratePend := rfl
    have good : (s.measTaken o rest).tb.good = s.tb.good := rfl
    have rateI : (s.measTaken o rest).rd Reg.TB_RATE_I = s.rd Reg.TB_RATE_I := takes.regs _ (by decide)
    have run := (servoMeasurement_takes hm hq).trans (congrArg (State.judged _ o) lockth)
    generalize s.measTaken o rest = u at takes ns frac count free steps integral rate rateI queue ofs pend good run
    generalize hL : (s.fld Reg.TB_SRV_LIM 15 0 * 65536 : Int) = L at run
    obtain ⟨steers, meas, good', hold⟩ := u.steered_spec o
    obtain ⟨tb, judges, hold'⟩ := (u.steered o).judged_spec o L
    have after : { u with tb := ((u.steered o).judged o L).tb }.OnlyRaised ((u.steered o).judged o L)
        [Reg.TB_STAT, Reg.TB_RATE_I, Reg.TB_EVT] :=
      (State.OnlyRaised.of (steers.mono (by simp))).throughTb (judges.mono (by simp))
    refine ⟨_, congrArg Host.Outcome.next run, ?_, (after.regs _ (by decide)).trans ns, (after.regs _ (by decide)).trans frac,
      (after.regs _ (by decide)).trans count, hold'.trans (hold.trans free), fun h => ?_, fun h i hi => ?_, fun h => ?_, fun h => ?_, ?_⟩
    · exact (congrArg TimeBase.meas tb).trans (meas.trans queue)
    · obtain ⟨added, stepped, kept, stands⟩ := State.steered_steps_spec (steps.2 h)
      exact ⟨(congrArg TimeBase.ofs tb).trans (added.trans (congrArg (· + o) ofs)), (congrArg TimeBase.ofsPend tb).trans stepped,
        (congrArg TimeBase.ratePend tb).trans (kept.trans pend), (judges.regs _ (by decide)).trans (stands.trans rateI)⟩
    · obtain ⟨shown, kept, asked⟩ := State.steered_integrates_spec (o := o) (mt steps.1 (by omega))
      rw [integral] at shown
      rw [rate] at asked
      subst hi
      exact ⟨(judges.regs _ (by decide)).trans shown, (congrArg TimeBase.ofs tb).trans (kept.trans ofs), (congrArg TimeBase.ratePend tb).trans asked⟩
    · obtain ⟨tb, -, -, lost⟩ := State.judged_far (s := u.steered o) (o := o) (lockth := L) (by omega)
      exact ⟨congrArg TimeBase.good tb, lost⟩
    · obtain ⟨tb, -, -, locks⟩ := State.judged_near (s := u.steered o) (o := o) (lockth := L) (by omega)
      rw [good', good] at tb locks
      exact ⟨congrArg TimeBase.good tb, locks⟩
    · exact ((State.OnlyRaised.of takes).mono (by simp [measRegs])).throughTb (after.mono (by simp))
  -- HOLDOVER (R205)
  · obtain ⟨frame, hold, unlocked, evt⟩ := s.held_spec
    have rate : s.held.rd Reg.TB_RATE_I = s.rd Reg.TB_RATE_I := frame.regs _ (by decide)
    refine ⟨_, congrArg Host.Outcome.next (holdover_holds ⟨hm, hc, hl, hf, hw⟩), hold, unlocked, ?_, evt, frame.withTb _⟩
    simp only [frame.tb_eq, rate]

end Sys2Proof.Machine
end

section
/-! PPS_IN edges and the transmit stamp queues (R197, R206, R209; log entry 21). -/

namespace Sys2Proof.Machine

variable {s t u : State} {l : List Nat}

theorem State.OnlyNoticed.withTb (h : s.OnlyNoticed t l) (b : TimeBase) : { s with tb := b }.OnlyNoticed { t with tb := b } l :=
  ⟨(congrArg (fun x : State => { x with tb := b }) h.rest :), h.regs, h.dram⟩

theorem State.OnlyNoticed.tb_eq (h : s.OnlyNoticed t l) : t.tb = s.tb := (congrArg State.tb h.rest :)

/-! ## An accepted edge (R206) -/

/-- The stamp of an edge fine fine-ticks past the present tick. -/
def State.ppsStamp (s : State) (fine : Nat) : Nat × Nat × Nat := stampOf (s.netAt fine - s.fld Reg.TB_PPS_CMP 15 0 * 2 ^ 32)

/-- s with an edge accepted: its stamp is shown, and it is counted. -/
def State.ppsShown (s : State) (fine : Nat) : State :=
  (((({ s with tb := { s.tb with lastPps := some s.tb.tick } }).wr Reg.TB_PPS_SLO (word (s.ppsStamp fine).1)).wr Reg.TB_PPS_NS
    (word (s.ppsStamp fine).2.1)).wr Reg.TB_PPS_FRAC (word (s.ppsStamp fine).2.2)).inc Reg.TB_PPS_CNT

/-- The same, with the capture engine told. -/
def State.ppsNoted (s : State) (fine : Nat) : State := (s.ppsShown fine).capEventAt 4 0 0 s.tb.cyc (s.tb.ctick * 32 + fine)

/-- The offset of a stamp from the nearest second, in units of 2^-16 ns. -/
def ppsOffsetOf (st : Nat × Nat × Nat) : Int :=
  let f : Int := st.2.1 * 65536 + st.2.2
  if f < 500000000 * 65536 then -f else 1000000000 * 65536 - f

/-- The same, with the stamp measured where the servo follows PPS_IN. -/
def State.ppsTaken (s : State) (fine : Nat) : State :=
  if (s.ppsNoted fine).fld Reg.TB_SRV_CFG 31 30 = 2 then (s.ppsNoted fine).measured (ppsOffsetOf (s.ppsStamp fine)) else s.ppsNoted fine

/-- An edge of the selected direction, stable, while PPS_IN is enabled. -/
structure State.PpsSelected (s : State) (rising : Bool) : Prop where
  on : s.bit Reg.TB_PPS_CFG 31 = true
  edge : s.bit Reg.TB_PPS_CFG 30 = !rising

/-- Less than 0.9 s have passed since the last accepted edge. -/
def State.ppsEarly (s : State) : Bool :=
  match s.tb.lastPps with
  | some t => decide (s.tb.tick < t + 360000000)
  | none => false

theorem State.PpsSelected.guard {rising : Bool} (h : s.PpsSelected rising) :
    (!s.bit Reg.TB_PPS_CFG 31 || rising == s.bit Reg.TB_PPS_CFG 30 || !true) = false := by
  rw [h.on, h.edge]
  cases rising <;> rfl

theorem ppsEdge_idle {rising stable : Bool} (h : s.bit Reg.TB_PPS_CFG 31 = false ∨ s.bit Reg.TB_PPS_CFG 30 = rising ∨ stable = false) (fine : Nat) :
    ppsEdge rising fine stable s = s := by
  refine if_pos ?_
  rcases h with h | h | h <;> simp [h]

theorem ppsEdge_early {rising : Bool} (h : s.PpsSelected rising) (he : s.ppsEarly = true) (fine : Nat) :
    ppsEdge rising fine true s = s.tbEvt 25 := by
  rw [ppsEdge, if_neg (Bool.eq_false_iff.1 h.guard)]
  exact if_pos he

theorem ppsEdge_accepted {rising : Bool} (h : s.PpsSelected rising) (he : s.ppsEarly = false) (fine : Nat) :
    ppsEdge rising fine true s = s.ppsTaken fine := by
  rw [ppsEdge, if_neg (Bool.eq_false_iff.1 h.guard)]
  exact if_neg (Bool.eq_false_iff.1 he)

/-- The registers that show an accepted edge. -/
def ppsRegs : List Nat := [Reg.TB_PPS_SLO, Reg.TB_PPS_NS, Reg.TB_PPS_FRAC, Reg.TB_PPS_CNT]

theorem State.ppsShown_spec (s : State) (fine : Nat) :
    { s with tb := { s.tb with lastPps := some s.tb.tick } }.OnlyRegs (s.ppsShown fine) ppsRegs
    ∧ (s.ppsShown fine).rd Reg.TB_PPS_SLO = word (s.ppsStamp fine).1 ∧ (s.ppsShown fine).rd Reg.TB_PPS_NS = word (s.ppsStamp fine).2.1
    ∧ (s.ppsShown fine).rd Reg.TB_PPS_FRAC = word (s.ppsStamp fine).2.2 ∧ (s.ppsShown fine).rd Reg.TB_PPS_CNT = s.rd Reg.TB_PPS_CNT + 1 := by
  refine ⟨((((State.OnlyRegs.refl _ _).wr (a := Reg.TB_PPS_SLO) (by decide) _).wr (a := Reg.TB_PPS_NS) (by decide) _).wr
    (a := Reg.TB_PPS_FRAC) (by decide) _).wr (a := Reg.TB_PPS_CNT) (by decide) _, ?_, ?_, ?_, ?_⟩
  · rw [State.ppsShown, State.inc_wr, State.rd_wr_other _ _ (by decide), State.rd_wr_other _ _ (by decide), State.rd_wr_other _ _ (by decide),
      State.rd_wr_same]
  · rw [State.ppsShown, State.inc_wr, State.rd_wr_other _ _ (by decide), State.rd_wr_other _ _ (by decide), State.rd_wr_same]
  · rw [State.ppsShown, State.inc_wr, State.rd_wr_other _ _ (by decide), State.rd_wr_same]
  · rw [State.ppsShown, State.inc_wr, State.rd_wr_same, State.rd_wr_other _ _ (by decide), State.rd_wr_other _ _ (by decide),
      State.rd_wr_other _ _ (by decide)]
    rfl

/-- Telling the capture engine leaves the time base and what is shown. -/
theorem State.ppsNoted_spec (s : State) (fine : Nat) :
    { s with tb := { s.tb with lastPps := some s.tb.tick } }.OnlyNoticed (s.ppsNoted fine) ppsRegs
    ∧ ∀ a ∈ ppsRegs, (s.ppsNoted fine).rd a = (s.ppsShown fine).rd a := by
  obtain ⟨frame, -⟩ := s.ppsShown_spec fine
  have noted := (State.OnlyNoticed.refl (s.ppsShown fine) []).capEventAt 4 0 0 s.tb.cyc (s.tb.ctick * 32 + fine)
  exact ⟨(State.OnlyNoticed.of (.of frame)).capEventAt _ _ _ _ _,
    fun a ha => noted.regs a ((by decide : ∀ a ∈ ppsRegs, a ∉ [] ++ noticeRegs) a ha)⟩

/-- A measurement that arrives changes the queue of the servo alone. -/
theorem State.measured_spec (s : State) (o : Int) : (s.measured o).regs = s.regs ∧ { s with tb := (s.measured o).tb } = s.measured o
    ∧ (s.measured o).tb.lastPps = s.tb.lastPps := by
  by_cases h : s.mode = mMINIMAL
  · rw [State.measured_minimal h]
    exact ⟨rfl, rfl, rfl⟩
  · rw [State.measured_queues h]
    exact ⟨rfl, rfl, rfl⟩

theorem State.ppsTaken_follows {fine : Nat} (h : s.fld Reg.TB_SRV_CFG 31 30 = 2) :
    s.ppsTaken fine = (s.ppsNoted fine).measured (ppsOffsetOf (s.ppsStamp fine)) :=
  if_pos ((congrArg (wFld · 31 30) ((s.ppsNoted_spec fine).1.regs Reg.TB_SRV_CFG (by decide))).trans h)

theorem State.ppsTaken_other {fine : Nat} (h : s.fld Reg.TB_SRV_CFG 31 30 ≠ 2) : s.ppsTaken fine = s.ppsNoted fine :=
  if_neg ((congrArg (wFld · 31 30) ((s.ppsNoted_spec fine).1.regs Reg.TB_SRV_CFG (by decide))).trans_ne h)

theorem State.ppsTaken_spec (s : State) (fine : Nat) : { s with tb := (s.ppsTaken fine).tb }.OnlyNoticed (s.ppsTaken fine) ppsRegs
    ∧ (∀ a ∈ ppsRegs, (s.ppsTaken fine).rd a = (s.ppsShown fine).rd a) ∧ (s.ppsTaken fine).tb.lastPps = some s.tb.tick := by
  obtain ⟨frame, shown⟩ := s.ppsNoted_spec fine
  have kept : (s.ppsTaken fine).regs = (s.ppsNoted fine).regs ∧ { s.ppsNoted fine with tb := (s.ppsTaken fine).tb } = s.ppsTaken fine
      ∧ (s.ppsTaken fine).tb.lastPps = (s.ppsNoted fine).tb.lastPps := by
    by_cases h : s.fld Reg.TB_SRV_CFG 31 30 = 2
    · rw [State.ppsTaken_follows h]
      exact State.measured_spec _ _
    · rw [State.ppsTaken_other h]
      exact ⟨rfl, rfl, rfl⟩
  obtain ⟨regs, tb, last⟩ := kept
  have framed := frame.withTb (s.ppsTaken fine).tb
  rw [tb] at framed
  exact ⟨framed, fun a ha => (congrArg (Table.get resetOf · a) regs).trans (shown a ha), last.trans (congrArg TimeBase.lastPps frame.tb_eq)⟩

/-! ## The transmit queues (R209) -/

theorem exec_txqPop {m : Fin 32} {e : Fin 2} (h : s.may m (Reg.TB_ETH_TXQPOP e) true) (v : Word) :
    exec (.txqPop m e v) s = .next (s.txqPop e v) := congrArg Host.Outcome.next (State.regAccess_of_may h fun s => s.txqPop e v)

theorem State.txqPop_pops {v : Word} (h : wBit v 0 = true) (e : Nat) : s.txqPop e v = s.setTxq e (s.txq e).tail :=
  (if_pos h).trans (by rw [List.drop_one])

/-- A port's queue is set, and the other port's stands. -/
theorem State.setTxq_spec (s : State) (e : Fin 2) (q : List TxStamp) : (s.setTxq e q).txq e = q ∧ (s.setTxq e q).txq (1 - e) = s.txq (1 - e)
    ∧ s.RegsBut (s.setTxq e q) []
    ∧ { s.setTxq e q with tb := { (s.setTxq e q).tb with txq0 := s.tb.txq0, txq1 := s.tb.txq1 } } = s := by
  fin_cases e
  · exact ⟨rfl, rfl, .refl s _, rfl⟩
  · exact ⟨rfl, rfl, .refl s _, rfl⟩

/-- Settles O11: an edge is idle, early or accepted, and a pop takes the front of one port's queue. -/
theorem ppsAndTransmitStamps : Obligations.PpsAndTransmitStamps := by
  unfold Obligations.PpsAndTransmitStamps
  refine ⟨fun s rising fine hon hedge hlate => ?_, fun s rising fine l hon hedge hl hlt => ?_, fun s rising stable fine h => ?_, fun s m e v h hv => ?_⟩
  -- accepted (R206)
  · have late : s.ppsEarly = false := by
      unfold State.ppsEarly
      split
      · next l hl => exact decide_eq_false (not_lt.2 (hlate l hl))
      · rfl
    obtain ⟨frame, kept, last⟩ := s.ppsTaken_spec fine
    obtain ⟨-, slo, ns, frac, count⟩ := s.ppsShown_spec fine
    have tb := (s.ppsNoted_spec fine).1.tb_eq
    refine ⟨_, congrArg Host.Outcome.next (ppsEdge_accepted ⟨hon, hedge⟩ late fine), fun q hq => ?_, (kept _ (by decide)).trans count, last,
      fun h => ?_, fun h hm => ?_, frame⟩
    · subst hq
      exact ⟨(kept _ (by decide)).trans slo, (kept _ (by decide)).trans ns, (kept _ (by decide)).trans frac⟩
    · rw [State.ppsTaken_other h, tb]
    · have mode : (s.ppsNoted fine).mode = s.mode := congrArg (wFld · 3 0) ((s.ppsNoted_spec fine).1.regs _ (by decide))
      rw [State.ppsTaken_follows h, State.measured_queues (mode.trans_ne hm), tb]
      exact List.length_append
  -- early
  · have early : s.ppsEarly = true := by
      rw [State.ppsEarly, hl]
      exact decide_eq_true hlt
    exact ⟨_, congrArg Host.Outcome.next (ppsEdge_early ⟨hon, hedge⟩ early fine), s.rd_tbEvt_evt 25, s.tbEvt_raises 25⟩
  -- unstable, of the other direction, or with PPS_IN off
  · exact congrArg Host.Outcome.next (ppsEdge_idle h fine)
  -- TXQ_POP (R209)
  · exact ⟨_, (exec_txqPop h v).trans (congrArg Host.Outcome.next (State.txqPop_pops hv e)), s.setTxq_spec e _⟩

end Sys2Proof.Machine
end

section
/-! The channels and the groups of the safety unit read back, and what a group's change of state changes (R225, R226, R228, R229). -/

namespace Sys2Proof.Machine

variable {s t u : State} {bas b : Bool} {g k st : Nat}

/-! ## Channels and groups -/

theorem State.saf?_garnet (s : State) : s.saf? false = s.saf.g := rfl
theorem State.saf?_basalt (s : State) : s.saf? true = s.saf.b := rfl

theorem State.saf?_setSaf (s : State) (bas b : Bool) (c : SafChan) : (s.setSaf bas c).saf? b = if b = bas then c else s.saf? b := by
  cases bas <;> cases b <;> rfl

theorem State.saf?_congr (h : t.saf = s.saf) (b : Bool) : t.saf? b = s.saf? b := by rw [State.saf?, State.saf?, h]

theorem State.safGrp_congr (h : t.saf = s.saf) (b : Bool) (k : Nat) : t.safGrp b k = s.safGrp b k := congrArg (·.grp k) (State.saf?_congr h b)

theorem SafChan.grp_setAt (c : SafChan) (g k : Nat) (x : SafGrp) :
    ({ c with grps := setAt c.grps g x } : SafChan).grp k = if k = g ∧ g < c.grps.length then x else c.grp k := by
  rw [SafChan.grp, getElem?_setAt]
  split <;> rfl

/-- A group that is not listed is taken to be in NOSTART. -/
theorem SafChan.state_unlisted {c : SafChan} (h : c.grps.length ≤ k) : (c.grp k).state = gNOSTART := by
  rw [SafChan.grp, List.getElem?_eq_none h]
  rfl

theorem State.safGrp_setSafGrp (s : State) (bas b : Bool) (g k : Nat) (x : SafGrp) :
    (s.setSafGrp bas g x).safGrp b k = if b = bas ∧ k = g ∧ g < (s.saf? bas).grps.length then x else s.safGrp b k := by
  rw [State.safGrp, State.setSafGrp, State.saf?_setSaf]
  by_cases e : b = bas
  · rw [if_pos e, SafChan.grp_setAt, e]
    simp only [true_and]
    rfl
  · rw [if_neg e, if_neg fun h => e h.1]
    rfl

/-- A change of one group leaves the other channel alone. -/
theorem State.other_setSafGrp (s : State) (bas : Bool) (g : Nat) (x : SafGrp) : (s.setSafGrp bas g x).saf? (!bas) = s.saf? (!bas) :=
  (s.saf?_setSaf _ _ _).trans (if_neg (by simp))

theorem State.Shaped.grp_lt (hs : s.Shaped) (bas : Bool) (hg : g < 8) : g < (s.saf? bas).grps.length := (State.Keep.chan hs bas).2.symm ▸ hg

/-! ## A group's change of state -/

/-- A group that goes to a state (R225, R229). -/
def SafGrp.goes (x : SafGrp) (st tick : Nat) : SafGrp :=
  if x.state = st then x else { x with state := st, pulse := false, ss1Tick := if st = gSS1 then tick else x.ss1Tick }

@[simp] theorem SafGrp.goes_state (x : SafGrp) (st tick : Nat) : (x.goes st tick).state = st := by
  unfold SafGrp.goes
  split
  · assumption
  · rfl

@[simp] theorem SafGrp.goes_ramp (x : SafGrp) (st tick : Nat) : (x.goes st tick).ramp = x.ramp := by unfold SafGrp.goes; split <;> rfl
@[simp] theorem SafGrp.goes_fallback (x : SafGrp) (st tick : Nat) : (x.goes st tick).fallback = x.fallback := by unfold SafGrp.goes; split <;> rfl

theorem SafGrp.goes_pulse {x : SafGrp} (h : x.state ≠ st) (tick : Nat) : (x.goes st tick).pulse = false := by rw [SafGrp.goes, if_neg h]

/-- A channel whose group g goes to a state. -/
def SafChan.moved (c : SafChan) (g st tick : Nat) : SafChan :=
  if (c.grp g).state = st then c else { c with grps := setAt c.grps g ((c.grp g).goes st tick) }

/-- A group's change of state is that group's alone (R225). -/
theorem State.saf?_grpTo (s : State) (bas : Bool) (g st : Nat) (b : Bool) :
    (s.grpTo bas g st).saf? b = if b = bas then (s.saf? bas).moved g st s.tb.tick else s.saf? b := by
  unfold State.grpTo SafChan.moved SafGrp.goes State.safGrp
  by_cases h : ((s.saf? bas).grp g).state = st
  · rw [if_pos h, if_pos h]
    split
    · next e => rw [e]
    · rfl
  · dsimp only
    rw [if_neg h, if_neg h, if_neg h, State.saf?_congr (State.safetyEvent_saf _ _ _)]
    cases bas <;> cases b <;> rfl

theorem State.other_grpTo (s : State) (bas : Bool) (g st : Nat) : (s.grpTo bas g st).saf? (!bas) = s.saf? (!bas) :=
  (s.saf?_grpTo bas g st _).trans (if_neg (by simp))

theorem State.safGrp_grpTo (s : State) (bas b : Bool) (g k st : Nat) : (s.grpTo bas g st).safGrp b k
    = if b = bas ∧ k = g ∧ g < (s.saf? bas).grps.length then (s.safGrp bas g).goes st s.tb.tick else s.safGrp b k := by
  rw [State.safGrp, State.saf?_grpTo]
  by_cases e : b = bas
  · subst e
    rw [if_pos rfl, SafChan.moved]
    by_cases h : ((s.saf? b).grp g).state = st
    · rw [if_pos h, SafGrp.goes, if_pos (show (s.safGrp b g).state = st from h)]
      split
      · next e => rw [e.2.1]; rfl
      · rfl
    · rw [if_neg h, SafChan.grp_setAt]
      simp only [true_and]
      rfl
  · rw [if_neg e, if_neg fun h => e h.1]
    rfl

theorem State.state_grpTo (s : State) (bas b : Bool) (g k st : Nat) : ((s.grpTo bas g st).safGrp b k).state
    = if b = bas ∧ k = g ∧ g < (s.saf? bas).grps.length then st else (s.safGrp b k).state := by
  rw [State.safGrp_grpTo]
  split
  · exact SafGrp.goes_state _ _ _
  · rfl

/-- The group itself is in the state. -/
theorem State.state_grpTo_same (s : State) (hg : g < (s.saf? bas).grps.length) (st : Nat) : ((s.grpTo bas g st).safGrp bas g).state = st := by
  rw [State.state_grpTo, if_pos ⟨rfl, rfl, hg⟩]

/-- Other groups stand. -/
theorem State.state_grpTo_other (s : State) (h : k ≠ g) (st : Nat) : ((s.grpTo bas g st).safGrp b k).state = (s.safGrp b k).state := by
  rw [State.state_grpTo, if_neg fun e => h e.2.1]

/-- The commands of STOBg or STOGg. -/
def SafBlock.commands (x : SafBlock) (bas : Bool) : Nat := if bas then x.stob else x.stog

/-- STOBg and STOGg follow their channel (R226, R228). -/
theorem State.commands_grpTo (h : (s.safGrp bas g).state ≠ st) :
    ((s.grpTo bas g st).saf.commands bas).testBit g = (st == gRELEASED || st == gSS1) := by
  unfold State.grpTo
  dsimp only
  rw [if_neg h, State.safetyEvent_saf]
  cases bas
  · exact (testBit_maskBit _ _ _ _).trans (if_pos rfl)
  · exact (testBit_maskBit _ _ _ _).trans (if_pos rfl)

/-! ## Stops -/

/-- The cause of a stop is no part of the safety unit. -/
theorem State.grpTo_stopCause_saf (s : State) (bas : Bool) (g st c : Nat) : ((s.stopCause g c).grpTo bas g st).saf = (s.grpTo bas g st).saf := by
  unfold State.grpTo
  dsimp only
  by_cases h : (s.safGrp bas g).state = st
  · rw [if_pos h, if_pos (show ((s.stopCause g c).safGrp bas g).state = st from h)]
    rfl
  · rw [if_neg h, if_neg (show ¬ ((s.stopCause g c).safGrp bas g).state = st from h), State.safetyEvent_saf, State.safetyEvent_saf]
    cases bas <;> rfl

theorem State.sto_saf (s : State) (bas : Bool) (g c : Nat) : (s.sto bas g c).saf = (s.grpTo bas g gSTO).saf := by
  unfold State.sto
  split
  · next h => rw [State.grpTo, if_pos h]
  · exact s.grpTo_stopCause_saf bas g gSTO c

/-- The state that a demand leads a RELEASED group to: STO for SS1 class 0, else SS1 (R229). -/
def SafChan.stopTo (c : SafChan) : Nat := if c.ss1Of = 0 then gSTO else gSS1

theorem SafChan.stopTo_cases (c : SafChan) : c.stopTo = gSTO ∨ c.stopTo = gSS1 := by
  unfold SafChan.stopTo
  split
  · exact .inl rfl
  · exact .inr rfl

theorem SafChan.stopTo_ne (c : SafChan) : c.stopTo ≠ gRELEASED := by rcases c.stopTo_cases with h | h <;> rw [h] <;> decide

theorem State.stopGrp_saf (s : State) (bas : Bool) (g c : Nat) : (s.stopGrp bas g c).saf = (s.grpTo bas g (s.saf? bas).stopTo).saf := by
  unfold State.stopGrp SafChan.stopTo
  split
  · exact s.sto_saf bas g c
  · exact s.grpTo_stopCause_saf bas g gSS1 c

theorem State.state_sto_same (s : State) (hg : g < (s.saf? bas).grps.length) (c : Nat) : ((s.sto bas g c).safGrp bas g).state = gSTO := by
  rw [State.safGrp_congr (s.sto_saf bas g c), s.state_grpTo_same hg]

theorem State.state_sto_other (s : State) (h : k ≠ g) (c : Nat) : ((s.sto bas g c).safGrp b k).state = (s.safGrp b k).state := by
  rw [State.safGrp_congr (s.sto_saf bas g c), s.state_grpTo_other h]

theorem State.state_stopGrp_same (s : State) (hg : g < (s.saf? bas).grps.length) (c : Nat) :
    ((s.stopGrp bas g c).safGrp bas g).state = (s.saf? bas).stopTo := by
  rw [State.safGrp_congr (s.stopGrp_saf bas g c), s.state_grpTo_same hg]

theorem State.state_stopGrp_other (s : State) (h : k ≠ g) (c : Nat) : ((s.stopGrp bas g c).safGrp b k).state = (s.safGrp b k).state := by
  rw [State.safGrp_congr (s.stopGrp_saf bas g c), s.state_grpTo_other h]

theorem State.other_sto (s : State) (bas : Bool) (g c : Nat) : (s.sto bas g c).saf? (!bas) = s.saf? (!bas) :=
  (State.saf?_congr (s.sto_saf bas g c) _).trans (s.other_grpTo bas g _)

theorem State.other_stopGrp (s : State) (bas : Bool) (g c : Nat) : (s.stopGrp bas g c).saf? (!bas) = s.saf? (!bas) :=
  (State.saf?_congr (s.stopGrp_saf bas g c) _).trans (s.other_grpTo bas g _)

/-! ## Stops that an SS1 class admits -/

/-- From s to t each group keeps its state, or has left RELEASED for what its channel's SS1 class names. -/
structure State.Slowed (s t : State) : Prop where
  cls : ∀ b, (t.saf? b).ss1Of = (s.saf? b).ss1Of
  grp : ∀ b k, (t.safGrp b k).state = (s.safGrp b k).state
    ∨ (s.safGrp b k).state = gRELEASED ∧ (t.safGrp b k).state = (s.saf? b).stopTo

namespace State.Slowed

theorem of_saf (h : t.saf = s.saf) : s.Slowed t :=
  ⟨fun b => congrArg SafChan.ss1Of (saf?_congr h b), fun b k => .inl (congrArg SafGrp.state (safGrp_congr h b k))⟩

theorem refl (s : State) : s.Slowed s := of_saf rfl

theorem trans (h : s.Slowed t) (k : t.Slowed u) : s.Slowed u := by
  refine ⟨fun b => (k.cls b).trans (h.cls b), fun b j => ?_⟩
  have class_eq : (t.saf? b).stopTo = (s.saf? b).stopTo := by rw [SafChan.stopTo, SafChan.stopTo, h.cls b]
  rcases k.grp b j with e | ⟨r, e⟩
  · rw [e]
    exact h.grp b j
  · rcases h.grp b j with e' | ⟨-, e'⟩
    · exact .inr ⟨e' ▸ r, e.trans class_eq⟩
    · exact absurd (e'.symm.trans r) (SafChan.stopTo_ne _)

/-- A group that is not RELEASED stands. -/
theorem state_eq (h : s.Slowed t) (hr : (s.safGrp b k).state ≠ gRELEASED) : (t.safGrp b k).state = (s.safGrp b k).state :=
  (h.grp b k).resolve_right fun e => hr e.1

theorem ss1Of_grpTo (s : State) (bas : Bool) (g st : Nat) (b : Bool) : ((s.grpTo bas g st).saf? b).ss1Of = (s.saf? b).ss1Of := by
  rw [saf?_grpTo]
  split
  · next e =>
    rw [e, SafChan.moved]
    split <;> rfl
  · rfl

theorem stopGrp (hr : (s.safGrp bas g).state = gRELEASED) (c : Nat) : s.Slowed (s.stopGrp bas g c) := by
  refine ⟨fun b => ?_, fun b k => ?_⟩
  · rw [saf?_congr (s.stopGrp_saf bas g c), ss1Of_grpTo]
  · rw [safGrp_congr (s.stopGrp_saf bas g c), state_grpTo]
    split
    · next e =>
      obtain ⟨rfl, rfl, -⟩ := e
      exact .inr ⟨hr, rfl⟩
    · exact .inl rfl

/-- A SAFE STOP without the loss of a channel (R240). -/
theorem safeStopAll (s : State) : s.Slowed (s.safeStopAll false) :=
  State.each_keeps (P := s.Slowed) (refl s) fun b _ u hu => State.each_keeps (P := s.Slowed) hu fun g _ v hv => by
    rw [if_neg Bool.false_ne_true]
    split
    · next hr => exact hv.trans (stopGrp hr 4)
    · exact hv

end State.Slowed

end Sys2Proof.Machine
end

section
/-! What a fault does: its record, what of the safety unit it keeps, and its reaction (R238 to R240, R244). -/

namespace Sys2Proof.Machine

variable {s t u : State} {b bas : Bool} {g k code bych obj : Nat}

/-! ## The branches of a fault -/

/-- The codes of the single faults (R238). -/
def singleFault (code : Nat) : Bool := decide (0x10 ≤ code ∧ code ≤ 0x14)

/-- A fault is counted and recorded in SAF_FLT where none is yet (R244). -/
def State.recorded (s : State) (code bych obj : Nat) : State :=
  let s := s.safetyEvent obj 0
  if s.fld Reg.SAF_FLT 31 24 = 0 then s.wr Reg.SAF_FLT (fltWord code bych obj s.cycLo) else s

/-- A channel whose DEGRADED timer starts. -/
def SafChan.degraded (c : SafChan) (tick : Nat) : SafChan := { c with degr := true, degTick := tick }

/-- The safety state DEGRADED: both timers start, and the mode is asked for (R239). -/
def State.degrade (s : State) : State :=
  State.reqMode { s with saf := { s.saf with state := 1, g := s.saf.g.degraded s.tb.tick, b := s.saf.b.degraded s.tb.tick } } mDEGRADED

/-- The safety state SAFE STOP. -/
def State.inSafeStop (s : State) : State := { s with saf := { s.saf with state := 2 } }

/-- SAFE STOP with its stops and the mode asked for (R240). -/
def State.safeStop (s : State) (lost : Bool) : State := (s.inSafeStop.safeStopAll lost).reqSafeStop

/-- A single fault in RUN, with none before, leads to DEGRADED (R238). -/
def State.degrades (s : State) (code : Nat) : Bool := singleFault code && s.saf.state != 1 && s.mode == mRUN

/-- A second single fault is code 0x23 (R238). -/
def State.faultCode (s : State) (code : Nat) : Nat := if singleFault code && s.saf.state == 1 then 0x23 else code

theorem State.faultCode_first (h : s.saf.state ≠ 1) (code : Nat) : s.faultCode code = code := if_neg (by simp [h])

theorem State.faultCode_lost (s : State) (code : Nat) : 0x30 ≤ s.faultCode code ↔ 0x30 ≤ code := by
  unfold State.faultCode
  split
  · next h =>
    have hs : 0x10 ≤ code ∧ code ≤ 0x14 := of_decide_eq_true (Bool.and_eq_true_iff.1 h).1
    omega
  · rfl

theorem State.degrades_iff (s : State) (code : Nat) : s.degrades code = (singleFault code && s.faultCode code != 0x23 && s.mode == mRUN) := by
  unfold State.degrades State.faultCode
  cases hs : singleFault code
  · simp
  · have hne : code ≠ 0x23 := by
      have : 0x10 ≤ code ∧ code ≤ 0x14 := of_decide_eq_true hs
      omega
    by_cases h1 : s.saf.state = 1
    · simp [h1]
    · simp [h1, bne_iff_ne.2 h1, bne_iff_ne.2 hne]

theorem singleFault_above (h : 0x14 < code) : singleFault code = false := decide_eq_false (by omega)

theorem State.degrades_above (h : 0x14 < code) (s : State) : s.degrades code = false := by rw [State.degrades, singleFault_above h]; rfl

theorem State.mode_recorded (s : State) (code bych obj : Nat) : (s.recorded code bych obj).mode = s.mode := by
  have h := (State.OnlySafety.refl s []).safetyEvent obj 0
  exact State.mode_onlySafety (State.ite_keeps (P := fun u => s.OnlySafety u []) (h.wr (mem_safety mem_flt []) _) h)

/-- A fault in SAFE STOP is counted; the loss of a channel still stops every group. Any other is recorded, a second single fault as code 0x23,
and leads to DEGRADED or to SAFE STOP. -/
theorem State.fault_eq (s : State) (code bych obj : Nat) : s.fault code bych obj =
    if s.saf.state = 2 then (if 0x30 ≤ code then (s.safetyEvent obj 0).safeStopAll true else s.safetyEvent obj 0)
    else if s.degrades code then (s.recorded code bych obj).degrade
    else (s.recorded (s.faultCode code) bych obj).safeStop (decide (0x30 ≤ code)) := by
  have unfolded : s.fault code bych obj =
      if s.saf.state = 2 then (if 0x30 ≤ s.faultCode code then (s.safetyEvent obj 0).safeStopAll true else s.safetyEvent obj 0)
      else if singleFault code && s.faultCode code != 0x23 && s.mode == mRUN then (s.recorded (s.faultCode code) bych obj).degrade
      else (s.recorded (s.faultCode code) bych obj).safeStop (decide (0x30 ≤ s.faultCode code)) := by
    rw [← s.mode_recorded (s.faultCode code) bych obj, State.faultCode, ← State.safetyEvent_saf s obj 0]
    rfl
  rw [unfolded, ← s.degrades_iff]
  simp only [s.faultCode_lost]
  split_ifs with h2 h30 hd
  · rfl
  · rfl
  · simp only [State.degrades, Bool.and_eq_true, bne_iff_ne] at hd
    rw [State.faultCode_first hd.1.2]
  · rfl

/-! ## The parts -/

theorem State.recorded_saf (s : State) (code bych obj : Nat) : (s.recorded code bych obj).saf = s.saf := by
  exact State.ite_keeps (P := fun u => u.saf = s.saf) (State.safetyEvent_saf _ _ _) (State.safetyEvent_saf _ _ _)

theorem State.recorded_sys (s : State) (code bych obj : Nat) : (s.recorded code bych obj).sys = s.sys := by
  have h : (s.safetyEvent obj 0).sys = s.sys := (congrArg State.sys (s.onlyNoticed_safetyEvent obj 0).rest :)
  exact State.ite_keeps (P := fun u => u.sys = s.sys) h h

/-- The first fault is recorded. -/
theorem State.rd_recorded (hf : s.fld Reg.SAF_FLT 31 24 = 0) (code bych obj : Nat) :
    ∃ c, (s.recorded code bych obj).rd Reg.SAF_FLT = fltWord code bych obj c := by
  have hflt : (s.safetyEvent obj 0).rd Reg.SAF_FLT = s.rd Reg.SAF_FLT :=
    (s.onlyNoticed_safetyEvent obj 0).regs _ (by simpa using not_notice_safFlt)
  exact ⟨_, (congrArg (State.rd · Reg.SAF_FLT) (if_pos ((congrArg (wFld · 31 24) hflt).trans hf))).trans (State.rd_wr_same _ _ _)⟩

theorem State.reqMode_rest (s : State) (n : Nat) : { s.reqMode n with sys := s.sys } = s := by
  unfold State.reqMode
  split <;> rfl

theorem State.degrade_saf (s : State) :
    s.degrade.saf = { s.saf with state := 1, g := s.saf.g.degraded s.tb.tick, b := s.saf.b.degraded s.tb.tick } :=
  (congrArg State.saf (State.reqMode_rest _ _) :)

theorem State.degrade_regs (s : State) : s.degrade.regs = s.regs := (congrArg State.regs (State.reqMode_rest _ _) :)

theorem State.onlyStopped_safeStopAll (s : State) (lost : Bool) : s.OnlyStopped (s.safeStopAll lost) := (State.OnlyStopped.refl s).safeStopAll lost

theorem State.safeStop_saf (s : State) (lost : Bool) : (s.safeStop lost).saf = (s.inSafeStop.safeStopAll lost).saf :=
  (congrArg State.saf (State.reqSafeStop_rest _) :)

theorem State.safeStop_bare (s : State) (lost : Bool) : (s.safeStop lost).saf.bare = { s.saf.bare with state := 2 } := by
  rw [s.safeStop_saf]
  exact (State.onlyStopped_safeStopAll _ lost).saf

theorem State.rd_safeStop (s : State) (lost : Bool) : (s.safeStop lost).rd Reg.SAF_FLT = s.rd Reg.SAF_FLT := by
  have h : (s.safeStop lost).regs = (s.inSafeStop.safeStopAll lost).regs := (congrArg State.regs (State.reqSafeStop_rest _) :)
  rw [State.rd, h]
  exact (State.onlyStopped_safeStopAll _ lost).flt

theorem State.safeStopAll_lost (s : State) :
    s.safeStopAll true = s.each s.liveChans (fun b u => u.each (List.range 8) (fun g v => v.sto b g 4)) := rfl

/-- Every group of every live channel is in STO after a SAFE STOP with the loss of a channel (R240). -/
theorem State.state_safeStopAll_lost (hs : s.Shaped) (hl : (s.saf? b).live = true) (hg : g < 8) : ((s.safeStopAll true).safGrp b g).state = gSTO := by
  have stays (u : State) (hu : u.Shaped) (h : (u.safGrp b g).state = gSTO) (bas : Bool) (k : Nat) (hk : k < 8) :
      ((u.sto bas k 4).safGrp b g).state = gSTO := by
    rw [State.safGrp_congr (u.sto_saf bas k 4), State.state_grpTo]
    split
    · rfl
    · exact h
  rw [State.safeStopAll_lost]
  refine (State.each_reaches (P := State.Shaped) (Q := fun u => u.Shaped ∧ (u.safGrp b g).state = gSTO) (x := b) (fun u hu => ?_)
    (List.mem_filter.2 ⟨by cases b <;> simp, hl⟩) hs (fun y _ u hu => ?_) fun y _ u hu => ?_).2
  · refine State.each_reaches (P := State.Shaped) (Q := fun v => v.Shaped ∧ (v.safGrp b g).state = gSTO) (x := g) (fun v hv => ?_)
      (List.mem_range.2 hg) hu (fun k _ v hv => ?_) fun k hk v hv => ?_
    · exact ⟨((State.Keep.refl v).sto b g 4).shape hv, v.state_sto_same (hv.grp_lt b hg) 4⟩
    · exact ((State.Keep.refl v).sto b k 4).shape hv
    · exact ⟨((State.Keep.refl v).sto b k 4).shape hv.1, stays v hv.1 hv.2 b k (List.mem_range.1 hk)⟩
  · exact State.each_keeps (P := State.Shaped) hu fun k _ v hv => ((State.Keep.refl v).sto y k 4).shape hv
  · exact State.each_keeps (P := fun v => v.Shaped ∧ (v.safGrp b g).state = gSTO) hu fun k hk v hv =>
      ⟨((State.Keep.refl v).sto y k 4).shape hv.1, stays v hv.1 hv.2 y k (List.mem_range.1 hk)⟩

/-! ## What a fault keeps -/

theorem SafBlock.bare_state (x : SafBlock) : x.bare.state = x.state := rfl

/-- The safety unit without what faults may change: groups, their commands, the safety state and the DEGRADED timers. -/
def SafBlock.stable (x : SafBlock) : SafBlock :=
  { x.bare with state := 0, g := { x.bare.g with degr := false, degTick := 0 }, b := { x.bare.b with degr := false, degTick := 0 } }

theorem SafBlock.stable_of_bare {x y : SafBlock} (h : y.bare = x.bare) : y.stable = x.stable :=
  congrArg (fun x : SafBlock => { x with state := 0, g := { x.g with degr := false, degTick := 0 }, b := { x.b with degr := false, degTick := 0 } }) h

theorem State.OnlyStopped.stable (h : s.OnlyStopped t) : t.saf.stable = s.saf.stable := SafBlock.stable_of_bare h.saf

/-- What is read of a channel is the same in two safety units that agree in a part which shows it. -/
theorem State.chan_read {α : Type} {part : SafBlock → SafBlock} {f : SafChan → α} (hf : ∀ x, f (part x).g = f x.g ∧ f (part x).b = f x.b)
    (h : part t.saf = part s.saf) (b : Bool) : f (t.saf? b) = f (s.saf? b) := by
  cases b
  · rw [State.saf?_garnet, State.saf?_garnet, ← (hf t.saf).1, h, (hf s.saf).1]
  · rw [State.saf?_basalt, State.saf?_basalt, ← (hf t.saf).2, h, (hf s.saf).2]

theorem State.fault_stable (s : State) (code bych obj : Nat) : (s.fault code bych obj).saf.stable = s.saf.stable := by
  rw [State.fault_eq]
  split_ifs with h2 h30 hd
  · exact ((State.OnlyStopped.refl s).safetyEvent obj 0 |>.safeStopAll true).stable
  · exact ((State.OnlyStopped.refl s).safetyEvent obj 0).stable
  · rw [State.degrade_saf, State.recorded_saf]
    rfl
  · rw [State.safeStop_saf, (State.onlyStopped_safeStopAll _ _).stable]
    exact (congrArg SafBlock.stable (s.recorded_saf _ bych obj) :)

/-- What is read of the safety unit beside what faults may change stands. -/
theorem State.fault_keeps {α : Type} {f : SafBlock → α} (h : ∀ x : SafBlock, f x.stable = f x) (s : State) (code bych obj : Nat) :
    f (s.fault code bych obj).saf = f s.saf := by rw [← h, s.fault_stable, h]

/-- A fault that is no single fault leaves SAFE STOP, and the timers as they are. -/
theorem State.fault_bare (hc : 0x14 < code) (s : State) (bych obj : Nat) : (s.fault code bych obj).saf.bare = { s.saf.bare with state := 2 } := by
  rw [State.fault_eq, State.degrades_above hc, if_neg Bool.false_ne_true]
  split_ifs with h2 h30
  · rw [((State.OnlyStopped.refl s).safetyEvent obj 0 |>.safeStopAll true).saf, ← h2]
    rfl
  · rw [((State.OnlyStopped.refl s).safetyEvent obj 0).saf, ← h2]
    rfl
  · rw [State.safeStop_bare, State.recorded_saf]

/-- A fault without the loss of a channel stops groups as their SS1 class admits, or not at all. -/
theorem State.Slowed.fault (hc : code < 0x30) (s : State) (bych obj : Nat) : s.Slowed (s.fault code bych obj) := by
  rw [State.fault_eq]
  split_ifs with h2 h30 hd
  · omega
  · exact .of_saf (State.safetyEvent_saf _ _ _)
  · have e := (s.recorded code bych obj).degrade_saf
    rw [s.recorded_saf code bych obj] at e
    refine ⟨fun b => ?_, fun b k => .inl ?_⟩
    · rw [State.saf?, e]
      cases b <;> rfl
    · rw [State.safGrp, State.saf?, e]
      cases b <;> rfl
  · rw [decide_eq_false (show ¬ 0x30 ≤ code by omega)]
    generalize s.faultCode code = c
    have e := s.recorded_saf c bych obj
    generalize s.recorded c bych obj = t at e ⊢
    have two : s.Slowed t.inSafeStop :=
      ⟨fun b => congrArg SafChan.ss1Of (State.saf?_congr e b), fun b k => .inl (congrArg (fun c : SafChan => (c.grp k).state) (State.saf?_congr e b))⟩
    exact (two.trans (State.Slowed.safeStopAll _)).trans (.of_saf (t.safeStop_saf false))

/-! ## The first fault, and the loss of a channel -/

theorem fltWord_obj (code bych obj c : Nat) : wFld (fltWord code bych obj c) 21 19 = obj % 8 := by
  rw [fltWord, wFld_or, wFld_or, wFld_or, wFld_mkFld_same (by omega) (by omega), wFld_mkFld_other (by omega) (by omega),
    wFld_mkFld_other (by omega) (by omega), wFld_mkFld_other (by omega) (by omega)]
  simp

/-- The record of a fault in SAF_FLT. -/
structure State.ShowsFault (t : State) (code bych obj : Nat) : Prop where
  code : t.fld Reg.SAF_FLT 31 24 = code % 256
  by' : t.fld Reg.SAF_FLT 23 22 = bych % 4
  obj : t.fld Reg.SAF_FLT 21 19 = obj % 8

/-- The first fault is recorded with its code, who detected it, and its object (R244). -/
theorem State.fault_shown (h0 : s.saf.state = 0) (hf : s.fld Reg.SAF_FLT 31 24 = 0) (code bych obj : Nat) :
    (s.fault code bych obj).ShowsFault code bych obj := by
  obtain ⟨c, hc⟩ := State.rd_recorded hf code bych obj
  have reg : (s.fault code bych obj).rd Reg.SAF_FLT = fltWord code bych obj c := by
    rw [State.fault_eq, if_neg (by rw [h0]; decide)]
    split
    · exact (congrArg (Table.get resetOf · Reg.SAF_FLT) (State.degrade_regs _)).trans hc
    · rw [State.faultCode_first (by rw [h0]; decide), State.rd_safeStop]
      exact hc
  exact ⟨(congrArg (wFld · 31 24) reg).trans (fltWord_fields _ _ _ _).1, (congrArg (wFld · 23 22) reg).trans (fltWord_fields _ _ _ _).2,
    (congrArg (wFld · 21 19) reg).trans (fltWord_obj _ _ _ _)⟩

/-- The first single fault leads to DEGRADED in RUN, and else to SAFE STOP (R238). -/
theorem State.fault_state (h0 : s.saf.state = 0) (hc : singleFault code = true) (bych obj : Nat) :
    (s.fault code bych obj).saf.state = if s.mode = mRUN then 1 else 2 := by
  have hd : s.degrades code = (s.mode == mRUN) := by simp [State.degrades, hc, h0]
  rw [State.fault_eq, if_neg (by rw [h0]; decide), hd]
  simp only [beq_iff_eq]
  split
  · rw [State.degrade_saf]
  · exact (congrArg SafBlock.state (State.safeStop_bare _ _) :)

/-- In RUN the first single fault asks for DEGRADED. -/
theorem State.fault_pend_run (h0 : s.saf.state = 0) (hc : singleFault code = true) (hm : s.mode = mRUN) (hp : s.sys.pend = none) (bych obj : Nat) :
    (s.fault code bych obj).sys.pend = some mDEGRADED := by
  have e := s.recorded_sys code bych obj
  rw [State.fault_eq, if_neg (by rw [h0]; decide), if_pos (by simp [State.degrades, hc, h0, hm]), State.degrade, State.reqMode, if_neg]
  simp [e, hp]

/-- In LISTEN a fault that does not find SAFE STOP asks for it. -/
theorem State.fault_pend_listen (h2 : s.saf.state ≠ 2) (hm : s.mode = mLISTEN) (code bych obj : Nat) :
    (s.fault code bych obj).sys.pend = some mSAFESTOP := by
  rw [State.fault_eq, if_neg h2, if_neg (by simp [State.degrades, hm, mLISTEN, mRUN])]
  generalize s.faultCode code = c
  have e := (s.mode_recorded c bych obj).trans hm
  generalize s.recorded c bych obj = t at e ⊢
  have mode : (t.inSafeStop.safeStopAll (decide (0x30 ≤ code))).mode = mLISTEN :=
    (State.mode_onlySafety (((State.OnlySafety.refl t []).saf _).safeStopAll _)).trans e
  rw [State.safeStop, State.reqSafeStop, if_pos (.inl mode), State.reqMode]
  split
  · next h => exact h.resolve_right fun h => h.2 rfl
  · rfl

/-- The loss of a channel leaves every group of every live channel in STO (R240). -/
theorem State.fault_lost (hs : s.Shaped) (hc : 0x30 ≤ code) (bych obj : Nat) (hl : (s.saf? b).live = true) (hg : g < 8) :
    ((s.fault code bych obj).safGrp b g).state = gSTO := by
  rw [State.fault_eq, State.degrades_above (by omega), if_pos hc, if_neg Bool.false_ne_true]
  split
  · refine State.state_safeStopAll_lost (((State.Keep.refl s).safetyEvent obj 0).shape hs) ?_ hg
    rw [State.saf?_congr (State.safetyEvent_saf _ _ _)]
    exact hl
  · generalize s.faultCode code = c
    have e := s.recorded_saf c bych obj
    have event := (State.Keep.refl s).safetyEvent obj 0
    have shaped : (s.recorded c bych obj).Shaped := (State.ite_keeps (P := s.Keep) (event.wr _ _) event).shape hs
    generalize s.recorded c bych obj = t at e shaped ⊢
    rw [decide_eq_true hc, State.safGrp_congr (t.safeStop_saf true)]
    refine State.state_safeStopAll_lost (s := t.inSafeStop) { shaped with } ?_ hg
    exact (congrArg SafChan.live (State.saf?_congr e b)).trans hl

end Sys2Proof.Machine
end

section
/-! The loss of a channel and of the Root heartbeat, and the single faults (R213, R238 to R240, R422). -/

namespace Sys2Proof.Machine

variable {s t u : State} {b bas : Bool} {g k code bych obj : Nat}

/-! ## Loss (R213, R240) -/

/-- A channel declared lost: SAFE STOP, with every group of the other channel in STO, and its record where it is the first fault. -/
structure State.Lost (s t : State) (bas : Bool) (code bych : Nat) : Prop where
  lost : (t.saf? bas).lost = true
  state : t.saf.state = 2
  stopped : (s.saf? !bas).live = true → ∀ g, g < 8 → (t.safGrp (!bas) g).state = gSTO
  shown : s.saf.state = 0 → s.fld Reg.SAF_FLT 31 24 = 0 → t.fld Reg.SAF_FLT 31 24 = code % 256 ∧ t.fld Reg.SAF_FLT 23 22 = bych % 4
  frame : s.OnlySafety t []

/-- A channel declared lost. -/
def State.declareLost (s : State) (bas : Bool) : State := s.setSaf bas { s.saf? bas with lost := true }

theorem State.shaped_declareLost (hs : s.Shaped) (bas : Bool) : (s.declareLost bas).Shaped :=
  (State.Keep.setSaf (.refl s) bas { s.saf? bas with lost := true } fun _ h => State.Keep.chan h bas).shape hs

theorem State.lost_declareLost (s : State) (bas : Bool) : ((s.declareLost bas).saf? bas).lost = true := by
  rw [State.declareLost, State.saf?_setSaf, if_pos rfl]

theorem State.other_declareLost (s : State) (bas : Bool) : (s.declareLost bas).saf? (!bas) = s.saf? (!bas) :=
  (s.saf?_setSaf _ _ _).trans (if_neg (by simp))

theorem State.loseChan_eq (hl : (s.saf? bas).lost = false) (hr : (s.saf? bas).run = true) (code bych : Nat) :
    s.loseChan bas code bych = (s.declareLost bas).fault code bych 0 := if_neg (by simp [hl, hr])

/-- Every fault above the single ones leaves SAFE STOP. -/
theorem State.fault_state_above (hc : 0x14 < code) (s : State) (bych obj : Nat) : (s.fault code bych obj).saf.state = 2 := by
  rw [← SafBlock.bare_state, State.fault_bare hc]

theorem State.lost_loseChan (hs : s.Shaped) (hl : (s.saf? bas).lost = false) (hr : (s.saf? bas).run = true) (hc : 0x30 ≤ code) (bych : Nat) :
    s.Lost (s.loseChan bas code bych) bas code bych := by
  have frame := (State.OnlySafety.refl s []).loseChan bas code bych
  rw [State.loseChan_eq hl hr] at frame ⊢
  exact
    { lost := (State.chan_read (part := SafBlock.stable) (f := SafChan.lost) (fun _ => ⟨rfl, rfl⟩) ((s.declareLost bas).fault_stable code bych 0) bas).trans
        (s.lost_declareLost bas)
      state := State.fault_state_above (by omega) _ _ _
      stopped := fun h g hg => State.fault_lost (s.shaped_declareLost hs bas) hc _ _ (by rw [s.other_declareLost]; exact h) hg
      shown := fun h0 hf => by
        have shown : ((s.declareLost bas).fault code bych 0).ShowsFault code bych 0 := by
          cases bas
          · exact State.fault_shown (s := s.declareLost false) h0 hf _ _ _
          · exact State.fault_shown (s := s.declareLost true) h0 hf _ _ _
        exact ⟨shown.code, shown.by'⟩
      frame := frame }

theorem heartbeatLost_garnet (h : s.saf.b.lost = false) : heartbeatLost true s = s.loseChan false 0x30 2 := by
  rw [heartbeatLost, State.saf?_basalt, h, if_neg Bool.false_ne_true, if_pos rfl]

theorem heartbeatLost_basalt (h : s.saf.g.lost = false) : heartbeatLost false s = s.loseChan true 0x32 1 := by
  rw [heartbeatLost, State.saf?_garnet, h, if_neg Bool.false_ne_true, if_neg Bool.false_ne_true]

/-- The Root heartbeat declared lost. -/
def State.declareRootLost (s : State) : State := { s with saf := { s.saf with rootLost := true } }

theorem rootHeartbeatLost_eq (h : s.saf.rootLost = false) (hb : s.saf.b.live = true) :
    rootHeartbeatLost s = s.declareRootLost.fault 0x33 2 0 := if_neg (by simp [h, hb])

/-- Settles O21: each loss is a fault of a code from 0x30 on, which stops every group of the channels that are left. -/
theorem safetyLossFaults : Obligations.SafetyLossFaults := by
  unfold Obligations.SafetyLossFaults
  refine ⟨fun s hs hl hr => ⟨fun hb => ?_, ?_⟩, fun s hs hl hr => ⟨fun hg => ?_, ?_⟩, fun s hs hr hb => ?_⟩
  · have h := State.lost_loseChan (bas := false) (code := 0x30) hs hl hr (by omega) 2
    exact ⟨_, congrArg Host.Outcome.next (heartbeatLost_garnet hb), h.lost, h.state, h.stopped, h.shown, h.frame⟩
  · have h := State.lost_loseChan (bas := false) (code := 0x31) hs hl hr (by omega) 1
    exact ⟨_, rfl, h.lost, h.state, h.stopped, h.shown, h.frame⟩
  · have h := State.lost_loseChan (bas := true) (code := 0x32) hs hl hr (by omega) 1
    exact ⟨_, congrArg Host.Outcome.next (heartbeatLost_basalt hg), h.lost, h.state, h.stopped, h.shown, h.frame⟩
  · have h := State.lost_loseChan (bas := true) (code := 0x32) hs hl hr (by omega) 1
    exact ⟨_, rfl, h.lost, h.state, h.stopped, h.shown, h.frame⟩
  · have shaped : s.declareRootLost.Shaped := { hs with }
    refine ⟨_, congrArg Host.Outcome.next (rootHeartbeatLost_eq hr hb), State.fault_keeps (f := SafBlock.rootLost) (fun _ => rfl) s.declareRootLost _ _ _,
      State.fault_state_above (by omega) _ _ _, fun bas g hl hg => State.fault_lost shaped (by omega) _ _ hl hg, fun h0 hf => ?_,
      ((State.OnlySafety.refl s []).saf _).fault _ _ _⟩
    have shown := State.fault_shown (s := s.declareRootLost) h0 hf 0x33 2 0
    exact ⟨shown.code, shown.by'⟩

/-! ## Single faults (R238, R422) -/

theorem State.byBoth_live (hg : s.saf.g.live = true) (hb : s.saf.b.live = true) : s.byBoth = 3 := by simp [State.byBoth, hg, hb]

theorem readbackMismatch_stog (hg : s.saf.g.live = true) (hl : s.saf.loaded = true) (g : Nat) :
    readbackMismatch true g s = (s.rbDiffers false g).fault 0x13 1 g :=
  (if_pos rfl).trans (if_neg (by simp [hg, hl]))

theorem readbackMismatch_stob (hg : s.saf.g.live = true) (hb : s.saf.b.live = true) (hv : s.fio.vfld ≠ 2) (g : Nat) :
    readbackMismatch false g s = (s.rbDiffers true g).fault 0x12 3 g := by
  have h : s.byBoth = 3 := State.byBoth_live hg hb
  exact (if_neg Bool.false_ne_true).trans ((if_neg (by simp [hv, h])).trans (congrArg ((s.rbDiffers true g).fault 0x12 · g) h))

theorem releaseMismatch_eq (hg : s.saf.g.live = true) (hb : s.saf.b.live = true)
    (h : ((s.safGrp false g).state = gRELEASED ∧ (s.safGrp true g).state ≠ gRELEASED)
      ∨ ((s.safGrp false g).state ≠ gRELEASED ∧ (s.safGrp true g).state = gRELEASED)) :
    releaseMismatch g s = s.fault 0x14 3 g := if_pos (by rcases h with ⟨h, k⟩ | ⟨h, k⟩ <;> simp [hg, hb, h, k])

/-- An STOBg switched off by overload (R422). -/
def State.overloaded (s : State) (g : Nat) : State := { s with saf := { s.saf with ovl := maskBit s.saf.ovl g true } }

theorem stobOverload_low (h : s.saf.stob.testBit g = true) (ho : s.saf.ovl.testBit g = false) (hv : s.fio.vfld = 2) :
    stobOverload g s = s.overloaded g := (if_neg (by simp [h, ho])).trans (if_pos (.inr hv))

theorem stobOverload_fault (h : s.saf.stob.testBit g = true) (ho : s.saf.ovl.testBit g = false) (hv : s.fio.vfld ≠ 2) (hg : s.saf.g.live = true)
    (hb : s.saf.b.live = true) : stobOverload g s = (s.overloaded g).fault 0x12 3 g := by
  have e : (s.overloaded g).byBoth = 3 := State.byBoth_live hg hb
  refine (if_neg (by simp [h, ho])).trans ((if_neg ?_).trans (congrArg (fun x => (s.overloaded g).fault 0x12 x g) e))
  exact fun k => k.elim (fun k => by rw [show (s.overloaded g).byBoth = 0 from k] at e; omega) hv

/-- An output that overload has switched off reads back off, or as its readback error holds it. -/
theorem State.stoRb_overloaded (h : s.saf.ovl.testBit g = true) : s.stoRb true g = (s.saf.rbErrB.testBit g && s.saf.rbLvlB.testBit g) := by
  have off : s.stoOut true g = false := by simp [State.stoOut, h]
  rw [State.stoRb, off]
  simp only [if_true]
  cases s.saf.rbErrB.testBit g <;> rfl

/-- Settles O22: each is the first fault of the state that notes it. -/
theorem safetySingleFaults : Obligations.SafetySingleFaults := by
  unfold Obligations.SafetySingleFaults
  refine ⟨fun s g _ h0 hf hg hl => ?_, fun s g _ h0 hf hg hb hv => ?_, fun s g _ h0 hf hg hb h => ?_, fun s g h ho hv => ?_,
    fun s g _ h0 hf hg hb h ho hv => ?_⟩
  · have shown := State.fault_shown (s := s.rbDiffers false g) h0 hf 0x13 1 g
    have err : ((s.rbDiffers false g).fault 0x13 1 g).saf.rbErrG = maskBit s.saf.rbErrG g true :=
      State.fault_keeps (f := SafBlock.rbErrG) (fun _ => rfl) (s.rbDiffers false g) 0x13 1 g
    refine ⟨_, congrArg Host.Outcome.next (readbackMismatch_stog hg hl g), ?_, shown.code, shown.obj.trans (Nat.mod_eq_of_lt g.isLt),
      State.fault_state (s := s.rbDiffers false g) h0 rfl 1 g, ((State.OnlySafety.refl s []).saf _).fault _ _ _⟩
    rw [err, testBit_maskBit, if_pos rfl]
  · have shown := State.fault_shown (s := s.rbDiffers true g) h0 hf 0x12 3 g
    have err : ((s.rbDiffers true g).fault 0x12 3 g).saf.rbErrB = maskBit s.saf.rbErrB g true :=
      State.fault_keeps (f := SafBlock.rbErrB) (fun _ => rfl) (s.rbDiffers true g) 0x12 3 g
    refine ⟨_, congrArg Host.Outcome.next (readbackMismatch_stob hg hb hv g), ?_, shown.code, shown.by', shown.obj.trans (Nat.mod_eq_of_lt g.isLt),
      State.fault_state (s := s.rbDiffers true g) h0 rfl 3 g, fun hm hp => State.fault_pend_run (s := s.rbDiffers true g) h0 rfl hm hp 3 g,
      fun hm => State.fault_pend_listen (s := s.rbDiffers true g) ?_ hm 0x12 3 g, ((State.OnlySafety.refl s []).saf _).fault _ _ _⟩
    · rw [err, testBit_maskBit, if_pos rfl]
    · exact fun h2 => absurd (h0.symm.trans h2) (by decide)
  · have shown := State.fault_shown h0 hf 0x14 3 g
    exact ⟨_, congrArg Host.Outcome.next (releaseMismatch_eq hg hb h), shown.code, shown.obj.trans (Nat.mod_eq_of_lt g.isLt),
      State.fault_state h0 rfl 3 g, (State.OnlySafety.refl s []).fault _ _ _⟩
  · exact congrArg Host.Outcome.next (stobOverload_low h ho hv)
  · have shown := State.fault_shown (s := s.overloaded g) h0 hf 0x12 3 g
    have ovl : ((s.overloaded g).fault 0x12 3 g).saf.ovl = maskBit s.saf.ovl g true :=
      State.fault_keeps (f := SafBlock.ovl) (fun _ => rfl) (s.overloaded g) 0x12 3 g
    have err : ((s.overloaded g).fault 0x12 3 g).saf.rbErrB = s.saf.rbErrB :=
      State.fault_keeps (f := SafBlock.rbErrB) (fun _ => rfl) (s.overloaded g) 0x12 3 g
    have lvl : ((s.overloaded g).fault 0x12 3 g).saf.rbLvlB = s.saf.rbLvlB :=
      State.fault_keeps (f := SafBlock.rbLvlB) (fun _ => rfl) (s.overloaded g) 0x12 3 g
    have off : ((s.overloaded g).fault 0x12 3 g).saf.ovl.testBit g = true := by rw [ovl, testBit_maskBit, if_pos rfl]
    refine ⟨_, congrArg Host.Outcome.next (stobOverload_fault h ho hv hg hb), off, shown.code, State.fault_state (s := s.overloaded g) h0 rfl 3 g, ?_,
      ((State.OnlySafety.refl s []).saf _).fault _ _ _⟩
    rw [State.stoRb_overloaded off, err, lvl]

end Sys2Proof.Machine
end

section
/-! Release, confirmation and the timers of a safety group (R225 to R229, R232, R239). -/

namespace Sys2Proof.Machine

variable {s t u : State} {b bas : Bool} {g k : Nat}

theorem SafBlock.testBit_commands (x : SafBlock) (bas : Bool) (g : Nat) :
    (if bas then x.stob.testBit g else x.stog.testBit g) = (x.commands bas).testBit g := by cases bas <;> rfl

/-! ## Release (R226) -/

theorem State.saf?_releaseGrp (s : State) (bas b : Bool) (g : Nat) : (s.releaseGrp bas g).saf? b = (s.grpTo bas g gRELEASED).saf? b := by
  cases b <;> rfl

theorem State.safGrp_releaseGrp (s : State) (bas b : Bool) (g k : Nat) : (s.releaseGrp bas g).safGrp b k = (s.grpTo bas g gRELEASED).safGrp b k :=
  congrArg (SafChan.grp · k) (s.saf?_releaseGrp bas b g)

theorem State.other_releaseGrp (s : State) (bas : Bool) (g : Nat) : (s.releaseGrp bas g).saf? (!bas) = s.saf? (!bas) :=
  (s.saf?_releaseGrp bas _ g).trans (s.other_grpTo bas g _)

theorem State.commands_releaseGrp (h : (s.safGrp bas g).state ≠ gRELEASED) : ((s.releaseGrp bas g).saf.commands bas).testBit g = true :=
  State.commands_grpTo h

theorem gREADY_ne : gREADY ≠ gRELEASED := by decide

/-- The restart conditions do not ask for the groups' states, their commands, or the marks of violations. -/
theorem State.restartOk_congr (h : { t.saf.bare with viol := 0 } = { s.saf.bare with viol := 0 })
    (hf : ∀ b k, (t.safGrp b k).fallback = (s.safGrp b k).fallback) (bas : Bool) (g : Nat) : t.restartOk bas g = s.restartOk bas g := by
  have chan {α : Type} (f : SafChan → α) (hf : ∀ x : SafBlock, f x.bare.g = f x.g ∧ f x.bare.b = f x.b) (b : Bool) : f (t.saf? b) = f (s.saf? b) :=
    State.chan_read (part := fun x => { x.bare with viol := 0 }) hf h b
  have tested (k : Nat) : t.inputTested k = s.inputTested k :=
    congrArg₂ Bool.and (chan (fun c => (c.input k).tested) (fun _ => ⟨rfl, rfl⟩) false) (chan (fun c => (c.input k).tested) (fun _ => ⟨rfl, rfl⟩) true)
  have demand := chan (fun c => c.demanded g) (fun _ => ⟨rfl, rfl⟩) bas
  have map := chan SafChan.mapOf (fun _ => ⟨rfl, rfl⟩) bas
  have bad := chan SafChan.bad (fun _ => ⟨rfl, rfl⟩) bas
  have hg : (t.saf.g.grp g).fallback = (s.saf.g.grp g).fallback := hf false g
  have hb : (t.saf.b.grp g).fallback = (s.saf.b.grp g).fallback := hf true g
  have state : t.saf.state = s.saf.state := (congrArg SafBlock.state h :)
  have loaded : t.saf.loaded = s.saf.loaded := (congrArg SafBlock.loaded h :)
  have xdem : t.saf.xdem = s.saf.xdem := (congrArg SafBlock.xdem h :)
  simp only [State.restartOk, State.grpTested, funext tested, demand, map, bad, hg, hb, state, loaded, xdem]

/-- A release of one group leaves the restart conditions of all. -/
theorem State.restartOk_releaseGrp (s : State) (bas : Bool) (g k : Nat) : (s.releaseGrp bas g).restartOk bas k = s.restartOk bas k := by
  have bare : (s.grpTo bas g gRELEASED).saf.bare = s.saf.bare := ((State.OnlyStopped.refl s).grpTo bas g gRELEASED).saf
  refine State.restartOk_congr ?_ (fun b k => ?_) bas k
  · exact congrArg (fun x : SafBlock => { x with viol := 0 }) bare
  · rw [State.safGrp_releaseGrp, State.safGrp_grpTo]
    split
    · next e =>
      obtain ⟨rfl, rfl, -⟩ := e
      exact SafGrp.goes_fallback _ _ _
    · rfl

theorem restartDelay_eq (hl : (s.saf? bas).live = true) (hr : (s.saf? bas).rst = false) (hg : (s.safGrp bas g).state = gREADY)
    (ho : s.restartOk bas g = true) : restartDelay bas g s = s.releaseGrp bas g := by
  have hg : ((s.saf? bas).grp g).state = gREADY := hg
  exact if_pos (by simp [hl, hr, hg, ho])

/-- The falling edge of the restart pulse for one group. -/
def State.pulseRelease (bas : Bool) (g : Nat) (s : State) : State :=
  if (s.safGrp bas g).pulse && (s.safGrp bas g).state == gREADY && s.restartOk bas g then s.releaseGrp bas g else s

/-- The marks of the restart pulse are taken back. -/
def State.pulseOver (s : State) (bas : Bool) : State :=
  s.setSaf bas { s.saf? bas with grps := (s.saf? bas).grps.map (fun x => { x with pulse := false }) }

theorem restartPulse_eq (hl : (s.saf? bas).live = true) (hr : (s.saf? bas).rst = true) (hd : (s.saf? bas).di.filt = some false) :
    restartPulse bas s = (s.each (List.range 8) (State.pulseRelease bas)).pulseOver bas := if_neg (by simp [hl, hr, hd])

theorem State.state_pulseOver (s : State) (bas : Bool) (k : Nat) : ((s.pulseOver bas).safGrp bas k).state = (s.safGrp bas k).state := by
  rw [State.safGrp, State.pulseOver, State.saf?_setSaf, if_pos rfl, State.safGrp, SafChan.grp, SafChan.grp, List.getElem?_map]
  cases (s.saf? bas).grps[k]? <;> rfl

/-- What the restart pulse sees of a group, before and after. -/
def pulseView (s : State) (bas : Bool) (k : Nat) : Nat × Bool := ((s.safGrp bas k).state, (s.safGrp bas k).pulse)
def pulseAfter (ok : Bool) (v : Nat × Bool) : Nat × Bool := if v.2 && v.1 == gREADY && ok then (gRELEASED, false) else v

theorem pulseView_pulseRelease (hg : g < (s.saf? bas).grps.length) (k : Nat) :
    pulseView (s.pulseRelease bas g) bas k = if k = g then pulseAfter (s.restartOk bas g) (pulseView s bas g) else pulseView s bas k := by
  unfold State.pulseRelease
  by_cases h : ((s.safGrp bas g).pulse && (s.safGrp bas g).state == gREADY && s.restartOk bas g) = true
  · have after : pulseAfter (s.restartOk bas g) (pulseView s bas g) = (gRELEASED, false) := if_pos h
    have ready : (s.safGrp bas g).state ≠ gRELEASED := by
      simp only [Bool.and_eq_true, beq_iff_eq] at h
      rw [h.1.2]
      exact gREADY_ne
    rw [if_pos h, after, pulseView, State.safGrp_releaseGrp, State.safGrp_grpTo]
    by_cases e : k = g
    · rw [if_pos ⟨rfl, e, hg⟩, if_pos e, SafGrp.goes_state, SafGrp.goes_pulse ready]
    · rw [if_neg fun h => e h.2.1, if_neg e]
      rfl
  · have after : pulseAfter (s.restartOk bas g) (pulseView s bas g) = pulseView s bas g := if_neg h
    rw [if_neg h, after]
    split
    · next e => rw [e]
    · rfl

/-- The pulse's end releases each group on its own conditions. -/
theorem State.pulse_releases (hs : s.Shaped) (bas : Bool) (hg : g < 8) :
    pulseView (s.each (List.range 8) (State.pulseRelease bas)) bas g = pulseAfter (s.restartOk bas g) (pulseView s bas g) := by
  have e := State.each_view (P := fun u => u.Shaped ∧ ∀ k, u.restartOk bas k = s.restartOk bas k) (view := fun u k => pulseView u bas k)
    (F := fun k => pulseAfter (s.restartOk bas k)) (f := State.pulseRelease bas) (l := List.range 8) (t := s) List.nodup_range ⟨hs, fun _ => rfl⟩
    (fun g _ u hu => ?_) (fun g hg u hu k => ?_) g
  · rwa [if_pos (List.mem_range.2 hg)] at e
  · exact State.ite_keeps (P := fun u => u.Shaped ∧ ∀ k, u.restartOk bas k = s.restartOk bas k)
      ⟨((State.Keep.refl u).releaseGrp bas g).shape hu.1, fun k => (u.restartOk_releaseGrp bas g k).trans (hu.2 k)⟩ hu
  · rw [pulseView_pulseRelease (hu.1.grp_lt bas (List.mem_range.1 hg)), hu.2]

theorem State.pulse_other (s : State) (bas : Bool) :
    ((s.each (List.range 8) (State.pulseRelease bas)).pulseOver bas).saf? (!bas) = s.saf? (!bas) := by
  refine ((State.saf?_setSaf _ _ _ _).trans (if_neg (by simp))).trans ?_
  exact State.each_keeps (P := fun u => u.saf? (!bas) = s.saf? (!bas)) rfl fun g _ u hu =>
    State.ite_keeps (P := fun u => u.saf? (!bas) = s.saf? (!bas)) ((u.other_releaseGrp bas g).trans hu) hu

/-! ## The end of the DEGRADED limit (R239) -/

/-- The end of the DEGRADED limit finds every group of its channel stopped, and moves none. -/
theorem State.state_degradedEnd (s : State) (bas : Bool) (k : Nat) : ((s.degradedEnd bas).safGrp bas k).state = (s.safGrp bas k).state := by
  unfold State.degradedEnd
  dsimp only
  split
  · next h =>
    refine (State.Slowed.fault (by omega) s _ _).state_eq ?_
    simp only [Bool.and_eq_true, List.all_eq_true] at h
    rcases Nat.lt_or_ge k (s.saf? bas).grps.length with hk | hk
    · intro hr
      have listed : (s.saf? bas).grp k = (s.saf? bas).grps[k] := by rw [SafChan.grp, List.getElem?_eq_getElem hk]; rfl
      have on : ((s.saf? bas).grps[k]).on = true := by
        rw [← listed, SafGrp.on, show ((s.saf? bas).grp k).state = gRELEASED from hr]
        rfl
      simpa [on] using h.2 _ (List.getElem_mem hk)
    · rw [State.safGrp, SafChan.state_unlisted hk]
      decide
  · rfl

theorem State.degr_degradedEnd (s : State) (bas b : Bool) : ((s.degradedEnd bas).saf? b).degr = (s.saf? b).degr := by
  have fault := congrArg (fun x : SafBlock => { x with state := 0 }) (State.fault_bare (code := 0x24) (by omega) s (if bas then 2 else 1) 0)
  exact State.ite_keeps (P := fun u => (u.saf? b).degr = (s.saf? b).degr)
    (State.chan_read (part := fun x => { x.bare with state := 0 }) (f := SafChan.degr) (fun _ => ⟨rfl, rfl⟩) fault b) rfl

theorem stoConfirm_eq (hl : (s.saf? bas).live = true) (hg : (s.safGrp bas g).state = gSTO) (hr : s.stoRb bas g = false) :
    stoConfirm bas g s = (s.grpTo bas g (if s.grpTested (s.saf? bas) g then gSTOPPED else gNOSTART)).degradedEnd bas := by
  have hg : ((s.saf? bas).grp g).state = gSTO := hg
  exact if_neg (by simp [hl, hg, hr])

theorem ss1TimerEnd_eq (hl : (s.saf? bas).live = true) (hg : (s.safGrp bas g).state = gSS1) :
    ss1TimerEnd bas g s = s.sto bas g (s.fld (Reg.SAF_GRP g) 23 20) := by
  have hg : ((s.saf? bas).grp g).state = gSS1 := hg
  exact if_pos (by simp [hl, hg])

/-- A channel's DEGRADED timer has ended. -/
def State.limitOver (s : State) (bas : Bool) : State := s.setSaf bas { s.saf? bas with degr := false, degOver := true }

/-- A RELEASED group stops at the DEGRADED limit. -/
def State.limitStop (bas : Bool) (g : Nat) (s : State) : State := if (s.safGrp bas g).state = gRELEASED then s.stopGrp bas g 3 else s

theorem degradedLimit_eq (hl : (s.saf? bas).live = true) (hd : (s.saf? bas).degr = true) (h1 : s.saf.state = 1) :
    degradedLimit bas s = ((s.limitOver bas).each (List.range 8) (State.limitStop bas)).degradedEnd bas := if_neg (by simp [hl, hd, h1])

theorem State.shaped_limitOver (hs : s.Shaped) (bas : Bool) : (s.limitOver bas).Shaped :=
  (State.Keep.setSaf (.refl s) bas { s.saf? bas with degr := false, degOver := true } fun _ h => State.Keep.chan h bas).shape hs

theorem State.saf?_limitOver (s : State) (bas : Bool) : (s.limitOver bas).saf? bas = { s.saf? bas with degr := false, degOver := true } :=
  (s.saf?_setSaf _ _ _).trans (if_pos rfl)

theorem State.Slowed.limitStop (bas : Bool) (g : Nat) (s : State) : s.Slowed (s.limitStop bas g) := by
  unfold State.limitStop
  split
  · next h => exact .stopGrp h 3
  · exact .refl s

/-- A RELEASED group goes where its channel's SS1 class names. -/
theorem State.limit_stops (hs : s.Shaped) (hg : g < 8) (hr : (s.safGrp bas g).state = gRELEASED) :
    ((s.each (List.range 8) (State.limitStop bas)).safGrp bas g).state = (s.saf? bas).stopTo := by
  have slowed : s.Slowed (s.each (List.range 8) (State.limitStop bas)) :=
    State.each_keeps (P := s.Slowed) (.refl s) fun k _ u hu => hu.trans (.limitStop bas k u)
  have left : ((s.each (List.range 8) (State.limitStop bas)).safGrp bas g).state ≠ gRELEASED := by
    refine State.each_reaches (P := State.Shaped) (Q := fun u => (u.safGrp bas g).state ≠ gRELEASED) (x := g) (fun u hu => ?_) (List.mem_range.2 hg) hs
      (fun k _ u hu => State.ite_keeps (P := State.Shaped) (((State.Keep.refl u).stopGrp bas k 3).shape hu) hu)
      fun k _ u hu => ((State.Slowed.limitStop bas k u).state_eq hu).trans_ne hu
    unfold State.limitStop
    split
    · rw [u.state_stopGrp_same (hu.grp_lt bas hg)]
      exact SafChan.stopTo_ne _
    · assumption
  exact ((slowed.grp bas g).resolve_left fun e => left (e.trans hr)).2

theorem State.degr_limitStop (bas : Bool) (g : Nat) (s : State) (b : Bool) : ((s.limitStop bas g).saf? b).degr = (s.saf? b).degr :=
  State.ite_keeps (P := fun u => (u.saf? b).degr = (s.saf? b).degr)
    (State.chan_read (part := SafBlock.bare) (f := SafChan.degr) (fun _ => ⟨rfl, rfl⟩) ((State.OnlyStopped.refl s).stopGrp bas g 3).saf b) rfl

/-! ## SLS (R232) -/

/-- A channel's SLS ramp has ended on a group. -/
def State.rampOver (s : State) (bas : Bool) (g : Nat) : State := s.setSafGrp bas g { s.safGrp bas g with ramp := false }

theorem State.regs_rampOver (s : State) (bas : Bool) (g : Nat) : (s.rampOver bas g).regs = s.regs := by cases bas <;> rfl

/-- Basalt marks a group as stopped by SLS fallback. -/
def State.markFallback (s : State) (g : Nat) : State :=
  let s := s.setSafGrp true g { s.safGrp true g with fallback := true }
  { s with saf := { s.saf with viol := maskBit s.saf.viol g true } }

/-- Basalt's SLS fallback. -/
def State.slsFallback (s : State) (g : Nat) : State := (s.markFallback g).sto true g 5

theorem SafGrp.on_iff (x : SafGrp) : x.on = true ↔ x.state = gRELEASED ∨ x.state = gSS1 := by simp [SafGrp.on]

theorem State.safGrp_markFallback (s : State) (hg : g < (s.saf? true).grps.length) (k : Nat) :
    (s.markFallback g).safGrp true k = if k = g then { s.safGrp true g with fallback := true } else s.safGrp true k := by
  refine (State.safGrp_setSafGrp s true true g k _).trans ?_
  simp [hg]

/-- The fallback stops the group in Basalt, and leaves its ramp and Garnet alone. -/
theorem State.slsFallback_spec (hs : s.Shaped) (hg : g < 8) (hon : (s.safGrp true g).on = true) :
    ((s.slsFallback g).safGrp true g).state = gSTO ∧ ((s.slsFallback g).safGrp true g).fallback = true
      ∧ ((s.slsFallback g).safGrp true g).ramp = (s.safGrp true g).ramp ∧ (s.slsFallback g).saf.stob.testBit g = false
      ∧ (s.slsFallback g).saf.g = s.saf.g := by
  have marked := s.safGrp_markFallback (hs.grp_lt true hg) g
  rw [if_pos rfl] at marked
  have ne : ((s.markFallback g).safGrp true g).state ≠ gSTO := by
    rw [marked]
    rcases (SafGrp.on_iff _).1 hon with h | h <;> rw [h] <;> decide
  have len : g < ((s.markFallback g).saf? true).grps.length := by
    refine (State.Keep.setSafGrp (.refl s) true g { s.safGrp true g with fallback := true }).shape hs |>.grp_lt true hg
  have grp : (s.slsFallback g).safGrp true g = ((s.markFallback g).safGrp true g).goes gSTO (s.markFallback g).tb.tick := by
    rw [State.slsFallback, State.safGrp_congr (State.sto_saf _ _ _ _), State.safGrp_grpTo, if_pos ⟨rfl, rfl, len⟩]
  refine ⟨?_, ?_, ?_, ?_, ?_⟩
  · rw [grp, SafGrp.goes_state]
  · rw [grp, SafGrp.goes_fallback, marked]
  · rw [grp, SafGrp.goes_ramp, marked]
  · rw [State.slsFallback, State.sto_saf]
    exact State.commands_grpTo (bas := true) ne
  · exact ((s.markFallback g).other_sto true g 5).trans (s.other_setSafGrp true g _)

theorem slsRampEnd_eq (hl : (s.saf? bas).live = true) (hr : (s.safGrp bas g).ramp = true) : slsRampEnd bas g s =
    if bas && !s.saf.slsok.testBit g && (s.safGrp bas g).on then (s.rampOver true g).slsFallback g else s.rampOver bas g := by
  refine (if_neg (by simp [hl, hr])).trans ?_
  cases bas
  · exact (if_neg Bool.false_ne_true).trans (if_neg Bool.false_ne_true).symm
  · exact if_congr Iff.rfl (congrArg (fun u : State => u.sto true g 5) rfl) rfl

theorem slsokMissing_eq (hl : s.saf.b.live = true) (hq : (s.safGrp true g).req = true) (hr : (s.safGrp true g).ramp = false)
    (ho : (s.safGrp true g).on = true) : slsokMissing g s = s.slsFallback g := if_neg (by simp [hl, hq, hr, ho])

theorem State.OnlySafety.slsFallback (h : s.OnlySafety t []) (hg : g < 8) : s.OnlySafety (t.slsFallback g) [] :=
  ((h.setSafGrp true g _).saf _).sto true hg 5

/-- Settles O20: each command is one change of a group, beside which the groups of both channels stand. -/
theorem safetyGroupStates : Obligations.SafetyGroupStates := by
  unfold Obligations.SafetyGroupStates
  refine ⟨fun s bas g hs hl hr hg ho => ?_, fun s bas hs hl hr hd => ?_, fun s bas g hs hl hg hr => ?_, fun s bas g hs hl hg => ?_,
    fun s bas hs hl hd h1 => ?_, fun s bas g hs hl hr => ?_, fun s g hs hl hq hr ho => ?_⟩
  -- RESTART_DELAY
  · have left : (s.safGrp bas g).state ≠ gRELEASED := hg ▸ gREADY_ne
    refine ⟨_, congrArg Host.Outcome.next (restartDelay_eq hl hr hg ho), ?_, ?_, fun k hk => ?_, s.other_releaseGrp bas g,
      (State.OnlySafety.refl s []).releaseGrp bas g⟩
    · rw [State.safGrp_releaseGrp, s.state_grpTo_same (hs.grp_lt bas g.isLt)]
    · rw [SafBlock.testBit_commands, State.commands_releaseGrp left]
    · rw [State.safGrp_releaseGrp, s.state_grpTo_other hk]
  -- RESTART_PULSE
  · have after (g : Nat) (hg : g < 8) := s.pulse_releases hs bas hg
    refine ⟨_, congrArg Host.Outcome.next (restartPulse_eq hl hr hd), fun g hg h hp ho => ?_, fun g hg h => ?_, s.pulse_other bas,
      State.OnlySafety.setSaf (State.each_keeps (P := fun u => s.OnlySafety u []) (.refl s []) fun g _ u hu =>
        State.ite_keeps (P := fun u => s.OnlySafety u []) (hu.releaseGrp bas g) hu) _ _⟩
    · have released : pulseAfter (s.restartOk bas g) (pulseView s bas g) = (gRELEASED, false) := if_pos (by simp [pulseView, h, hp, ho])
      rw [State.state_pulseOver]
      exact congrArg Prod.fst ((after g hg).trans released)
    · have stays : pulseAfter (s.restartOk bas g) (pulseView s bas g) = pulseView s bas g :=
        if_neg (by rcases h with h | h <;> simp [pulseView, h])
      rw [State.state_pulseOver]
      exact congrArg Prod.fst ((after g hg).trans stays)
  -- STO_CONFIRM
  · refine ⟨_, congrArg Host.Outcome.next (stoConfirm_eq hl hg hr), ?_, fun k hk => ?_, ((State.OnlySafety.refl s []).grpTo _ _ _).degradedEnd _⟩
    · rw [State.state_degradedEnd, s.state_grpTo_same (hs.grp_lt bas g.isLt)]
    · rw [State.state_degradedEnd, s.state_grpTo_other hk]
  -- SS1_TIMER_END
  · have ne : (s.safGrp bas g).state ≠ gSTO := by rw [hg]; decide
    refine ⟨_, congrArg Host.Outcome.next (ss1TimerEnd_eq hl hg), s.state_sto_same (hs.grp_lt bas g.isLt) _, ?_, fun k hk => s.state_sto_other hk _,
      s.other_sto bas g _, (State.OnlySafety.refl s []).sto bas g.isLt _⟩
    rw [SafBlock.testBit_commands, s.sto_saf, State.commands_grpTo ne]
    rfl
  -- DEGRADED_LIMIT
  · refine ⟨_, congrArg Host.Outcome.next (degradedLimit_eq hl hd h1), ?_, fun g hg hr => ?_,
      State.OnlySafety.degradedEnd (State.each_keeps (P := fun u => s.OnlySafety u []) ((State.OnlySafety.refl s []).setSaf _ _) fun g hg u hu =>
        State.ite_keeps (P := fun u => s.OnlySafety u []) (hu.stopGrp bas (List.mem_range.1 hg) 3) hu) bas⟩
    · rw [State.degr_degradedEnd]
      exact State.each_keeps (P := fun u => (u.saf? bas).degr = false) (congrArg SafChan.degr (s.saf?_limitOver bas)) fun g _ u hu =>
        (u.degr_limitStop bas g bas).trans hu
    · have released : ((s.limitOver bas).safGrp bas g).state = gRELEASED := by
        rw [State.safGrp, s.saf?_limitOver]
        exact hr
      rw [State.state_degradedEnd, State.limit_stops (s.shaped_limitOver hs bas) hg released]
      exact SafChan.stopTo_cases _
  -- SLS_RAMP_END
  · have ended (b : Bool) : (s.rampOver b g).safGrp b g = { s.safGrp b g with ramp := false } := by
      rw [State.rampOver, State.safGrp_setSafGrp, if_pos ⟨rfl, rfl, hs.grp_lt b g.isLt⟩]
    have frame := (State.OnlySafety.refl s []).setSafGrp bas g { s.safGrp bas g with ramp := false }
    by_cases h : (bas && !s.saf.slsok.testBit g && (s.safGrp bas g).on) = true
    · obtain ⟨rfl, -⟩ : bas = true ∧ (!s.saf.slsok.testBit g) = true := by simpa using (Bool.and_eq_true_iff.1 h).1
      have on : ((s.rampOver true g).safGrp true g).on = true := by
        rw [ended]
        exact (Bool.and_eq_true_iff.1 h).2
      have shaped : (s.rampOver true g).Shaped := ((State.Keep.refl s).setSafGrp true g _).shape hs
      obtain ⟨sto, fallback, ramp, -, -⟩ := (s.rampOver true g).slsFallback_spec shaped g.isLt on
      refine ⟨_, congrArg Host.Outcome.next ((slsRampEnd_eq hl hr).trans (if_pos h)), ramp.trans (congrArg SafGrp.ramp (ended true)),
        fun _ => ⟨sto, fallback⟩, fun h' => absurd (h.symm.trans h') (by decide), frame.slsFallback g.isLt⟩
    · refine ⟨_, congrArg Host.Outcome.next ((slsRampEnd_eq hl hr).trans (if_neg h)), congrArg SafGrp.ramp (ended bas), fun h' => absurd h' h,
        fun _ => ⟨(congrArg SafGrp.state (ended bas) :), s.regs_rampOver bas g⟩, frame⟩
  -- SLSOK_MISSING
  · obtain ⟨sto, fallback, -, off, garnet⟩ := s.slsFallback_spec hs g.isLt ho
    exact ⟨_, congrArg Host.Outcome.next (slsokMissing_eq hl hq hr ho), sto, fallback, off, garnet, (State.OnlySafety.refl s []).slsFallback g.isLt⟩

end Sys2Proof.Machine
end

section
/-! Samples of the safety inputs, test pulses and discrepancies (R218 to R225, R229). -/

namespace Sys2Proof.Machine

variable {s t u : State} {P : State → Prop} {b bas : Bool} {g k n h : Nat}

/-! ## A contact's filter (R219, R220) -/

/-- From x to y a contact's filter of n samples has taken the level v. -/
def Contact.Filtered (x y : Contact) (n : Nat) (v : Bool) : Prop :=
  (v = x.cand → n ≤ x.cnt + 1 → y.filt = some v) ∧ (v = x.cand → x.cnt + 1 < n → y.filt = x.filt ∧ y.cnt = x.cnt + 1)
    ∧ (v ≠ x.cand → y.filt = x.filt ∧ y.cnt = 1) ∧ y.cand = v

theorem Contact.filtered_sample (x : Contact) (hn : 1 < n) (v : Bool) : x.Filtered (x.sample n v) n v := by
  refine ⟨fun e hl => ?_, fun e hl => ?_, fun e => ?_, rfl⟩
  · simp [Contact.sample, e, hl]
  · simp [Contact.sample, e, Nat.not_le.2 hl, Nat.le_of_lt hl]
  · simp [Contact.sample, e, Nat.not_le.2 hn, Nat.le_of_lt hn]

/-- The checks of a test pulse's hold leave the filter alone. -/
theorem Contact.take_sample (x : Contact) (n h : Nat) (raw quiet : Bool) :
    (x.take n h raw quiet).1.filt = (x.sample n (if h = 0 then raw else x.last)).filt
      ∧ (x.take n h raw quiet).1.cnt = (x.sample n (if h = 0 then raw else x.last)).cnt
      ∧ (x.take n h raw quiet).1.cand = (x.sample n (if h = 0 then raw else x.last)).cand := by
  unfold Contact.take
  by_cases h0 : h = 0
  · rw [if_pos h0, if_pos h0]
    exact ⟨rfl, rfl, rfl⟩
  · rw [if_neg h0, if_neg h0]
    dsimp only
    split_ifs <;> exact ⟨rfl, rfl, rfl⟩

theorem Contact.filtered_take (x : Contact) (hn : 1 < n) (h : Nat) (raw quiet : Bool) :
    x.Filtered (x.take n h raw quiet).1 n (if h = 0 then raw else x.last) := by
  obtain ⟨filt, cnt, cand⟩ := x.take_sample n h raw quiet
  unfold Contact.Filtered
  rw [filt, cnt, cand]
  exact x.filtered_sample hn _

/-- Outside a hold no pulse fault is found. -/
theorem Contact.take_free (x : Contact) (n : Nat) (raw quiet : Bool) : (x.take n 0 raw quiet).2 = false := rfl

theorem SafChan.filter_gt (c : SafChan) : 1 < c.filter := by
  unfold SafChan.filter
  split <;> omega

/-! ## A channel's sample -/

/-- A channel with its inputs and DI15 sampled (R219 to R223, R226). -/
def State.sampledSaf (s : State) (bas : Bool) (a b : Byte) (d : Bool) : SafChan :=
  let c := s.saf? bas
  let di := c.di.sample c.filter (d && s.fio.vfld != 2)
  let c' := { c with inputs := (s.sampleInputs c (s.seen a) (s.seen b)).map (fun p => p.1), holdA := c.holdA - 1, holdB := c.holdB - 1, di := di }
  if c.di.filt != some true && di.filt == some true then c'.markReady else c'

/-- The new pulse faults of an input after the sample (R220). -/
def State.samplePulse (bas : Bool) (r : List (SafInput × Bool × Bool)) (k : Nat) (s : State) : State :=
  let p := ((r[k]?).map (fun p => p.2)).getD (false, false)
  let o := (s.saf? !bas).input k
  (s.when p.1 (fun s => s.pulseFault bas k o.a)).when p.2 (fun s => s.pulseFault bas k o.b)

/-- The sample with the pulse faults it shows. -/
def State.samplePulses (s : State) (bas : Bool) (a b : Byte) (d : Bool) : State :=
  (s.setSaf bas (s.sampledSaf bas a b d)).each (List.range 8) (State.samplePulse bas (s.sampleInputs (s.saf? bas) (s.seen a) (s.seen b)))

/-- The state in which the groups are judged, with their SLS requests. -/
def State.sampleRequests (s : State) (bas : Bool) (a b : Byte) (d : Bool) : State := (s.samplePulses bas a b d).slsRequests bas

/-- The sample with the groups' states after it. -/
def State.sampleAll (s : State) (bas : Bool) (a b : Byte) (d : Bool) : State :=
  (s.sampleRequests bas a b d).each (List.range 8) (fun g s => s.sampleGrp bas g)

theorem safetySample_eq (hl : (s.saf? bas).live = true) (a b : Byte) (d : Bool) :
    safetySample bas a b d s = if bas then (s.sampleAll bas a b d).dropXdem else s.sampleAll bas a b d := if_neg (by simp [hl])

/-- What is read of the channel beside its groups does not see the marks of READY. -/
theorem State.sampledSaf_read {α : Type} {f : SafChan → α} (hf : ∀ (c : SafChan) (l : List SafGrp), f { c with grps := l } = f c)
    (s : State) (bas : Bool) (a b : Byte) (d : Bool) :
    f (s.sampledSaf bas a b d) = f { s.saf? bas with
      inputs := (s.sampleInputs (s.saf? bas) (s.seen a) (s.seen b)).map (fun p => p.1), holdA := (s.saf? bas).holdA - 1, holdB := (s.saf? bas).holdB - 1,
      di := (s.saf? bas).di.sample (s.saf? bas).filter (d && s.fio.vfld != 2) } := by
  unfold State.sampledSaf
  dsimp only
  split
  · exact hf _ _
  · rfl

/-- The sample leaves the groups' states to what follows. -/
theorem State.sampledSaf_state (s : State) (bas : Bool) (a b : Byte) (d : Bool) (g : Nat) :
    ((s.sampledSaf bas a b d).grp g).state = (s.safGrp bas g).state := by
  unfold State.sampledSaf State.safGrp
  dsimp only
  split
  · simp only [SafChan.grp, SafChan.markReady, List.getElem?_map]
    cases (s.saf? bas).grps[g]? <;> rfl
  · rfl

/-- Input k after the sample: each side has taken its level, or its last one during a hold. -/
theorem State.sampledSaf_input (s : State) (bas : Bool) (a b : Byte) (d : Bool) (hk : k < 8) :
    ((s.saf? bas).input k).a.Filtered ((s.sampledSaf bas a b d).input k).a (s.saf? bas).filter
        (if (s.saf? bas).holdA = 0 then (s.seen a).testBit k else ((s.saf? bas).input k).a.last)
      ∧ ((s.saf? bas).input k).b.Filtered ((s.sampledSaf bas a b d).input k).b (s.saf? bas).filter
        (if (s.saf? bas).holdB = 0 then (s.seen b).testBit k else ((s.saf? bas).input k).b.last) := by
  rw [State.sampledSaf_read (f := fun c => c.input k) fun _ _ => rfl]
  simp only [SafChan.input, State.sampleInputs, List.map_map, List.getElem?_map, List.getElem?_range hk, Option.map_some, Option.getD_some,
    Function.comp_apply]
  exact ⟨Contact.filtered_take _ (s.saf? bas).filter_gt _ _ _, Contact.filtered_take _ (s.saf? bas).filter_gt _ _ _⟩

/-! ## Pulse faults (R220) -/

theorem State.pulseFault_keeps (h : P s) (hw : ∀ u v, P u → P (u.orBits Reg.SAF_FLT v)) (he : ∀ u, P u → P (u.safetyEvent k 0))
    (hf : ∀ u bych, P u → P (u.fault 0x10 bych k)) (bas : Bool) (other : Contact) : P (s.pulseFault bas k other) :=
  State.ite_keeps (he _ (State.ite_keeps (hw _ _ h) h)) (hf _ _ h)

theorem State.samplePulse_keeps (h : P s) (hw : ∀ u v, P u → P (u.orBits Reg.SAF_FLT v)) (he : ∀ u, P u → P (u.safetyEvent k 0))
    (hf : ∀ u bych, P u → P (u.fault 0x10 bych k)) (bas : Bool) (r : List (SafInput × Bool × Bool)) : P (s.samplePulse bas r k) := by
  have one (u : State) (hu : P u) (p : Bool) (other : Contact) : P (u.when p (fun s => s.pulseFault bas k other)) :=
    State.when_keeps p hu (State.pulseFault_keeps hu hw he hf bas other)
  exact one _ (one s h _ _) _ _

theorem State.stable_samplePulse (s : State) (bas : Bool) (r : List (SafInput × Bool × Bool)) (k : Nat) :
    (s.samplePulse bas r k).saf.stable = s.saf.stable :=
  State.samplePulse_keeps (P := fun u => u.saf.stable = s.saf.stable) rfl (fun _ _ hu => hu)
    (fun u hu => (congrArg SafBlock.stable (u.safetyEvent_saf k 0)).trans hu) (fun u by' hu => (u.fault_stable 0x10 by' k).trans hu) bas r

theorem State.Slowed.samplePulse (bas : Bool) (r : List (SafInput × Bool × Bool)) (k : Nat) (s : State) : s.Slowed (s.samplePulse bas r k) :=
  State.samplePulse_keeps (P := s.Slowed) (.refl s) (fun _ _ hu => hu.trans (.of_saf rfl)) (fun u hu => hu.trans (.of_saf (u.safetyEvent_saf k 0)))
    (fun u by' hu => hu.trans (.fault (by omega) u by' k)) bas r

theorem State.OnlySafety.samplePulse (h : s.OnlySafety t []) (bas : Bool) (r : List (SafInput × Bool × Bool)) (k : Nat) :
    s.OnlySafety (t.samplePulse bas r k) [] :=
  State.samplePulse_keeps (P := fun u => s.OnlySafety u []) h (fun _ _ hu => hu.wr (mem_safety mem_flt []) _) (fun _ hu => hu.safetyEvent k 0)
    (fun _ by' hu => hu.fault 0x10 by' k) bas r

/-- Outside the holds no sample shows a pulse fault. -/
theorem State.samplePulse_free (hA : (s.saf? bas).holdA = 0) (hB : (s.saf? bas).holdB = 0) (a b : Nat) (u : State) (hk : k < 8) :
    u.samplePulse bas (s.sampleInputs (s.saf? bas) a b) k = u := by
  unfold State.samplePulse State.sampleInputs
  simp only [List.getElem?_map, List.getElem?_range hk, Option.map_some, Option.getD_some, hA, hB, Contact.take_free, State.when_false]

/-! ## SLS requests (R231, R232) -/

/-- The SLS request of one group after a sample. -/
def State.slsRequest (bas : Bool) (g : Nat) (s : State) : State :=
  let c := s.saf? bas
  let x := c.grp g
  if g = 0 ∨ c.mapOf ≠ 3 then s
  else if !(c.input g).demand then s.setSafGrp bas g { x with req := false, ramp := false, fallback := false }
  else if !x.req && x.state == gRELEASED then s.setSafGrp bas g { x with req := true, ramp := true, rampTick := s.tb.tick }
  else s

theorem State.slsRequests_eq (s : State) (bas : Bool) : s.slsRequests bas = s.each (List.range 8) (State.slsRequest bas) := rfl

/-- A request touches its group alone, and not its state. -/
theorem State.slsRequest_keeps (h : P s) (hg : ∀ x : SafGrp, x.state = (s.safGrp bas g).state → P (s.setSafGrp bas g x)) : P (s.slsRequest bas g) :=
  State.ite_keeps h (State.ite_keeps (hg _ rfl) (State.ite_keeps (hg _ rfl) h))

theorem State.setSafGrp_bare (s : State) (bas : Bool) (g : Nat) (x : SafGrp) : (s.setSafGrp bas g x).saf.bare = s.saf.bare := by cases bas <;> rfl

theorem State.stable_slsRequests (s : State) (bas : Bool) : (s.slsRequests bas).saf.stable = s.saf.stable :=
  State.each_keeps (P := fun u => u.saf.stable = s.saf.stable) rfl fun g _ u hu =>
    State.slsRequest_keeps (P := fun u => u.saf.stable = s.saf.stable) hu fun x _ => (SafBlock.stable_of_bare (u.setSafGrp_bare bas g x)).trans hu

theorem State.state_slsRequests (s : State) (bas b : Bool) (k : Nat) : ((s.slsRequests bas).safGrp b k).state = (s.safGrp b k).state :=
  State.each_keeps (P := fun u => (u.safGrp b k).state = (s.safGrp b k).state) rfl fun g _ u hu =>
    State.slsRequest_keeps (P := fun u => (u.safGrp b k).state = (s.safGrp b k).state) hu fun x hx => by
      rw [← hu, State.safGrp_setSafGrp]
      split
      · next e =>
        obtain ⟨rfl, rfl, -⟩ := e
        exact hx
      · rfl

/-! ## The groups after a sample (R224, R225, R229) -/

theorem State.sampleGrp_keeps (h : P s) (hs : ∀ c, P (s.sto bas g c)) (hd : ∀ c, P (s.stopGrp bas g c)) (ht : ∀ st, P (s.grpTo bas g st)) :
    P (s.sampleGrp bas g) :=
  State.ite_keeps (hs _) (State.ite_keeps (State.ite_keeps (hd _) h)
    (State.ite_keeps h (State.ite_keeps (ht _) (State.ite_keeps (ht _) (ht _)))))

theorem State.stable_sampleGrp (s : State) (bas : Bool) (g : Nat) : (s.sampleGrp bas g).saf.stable = s.saf.stable :=
  State.OnlyStopped.stable (State.sampleGrp_keeps (P := s.OnlyStopped) (.refl s) (fun c => (State.OnlyStopped.refl s).sto bas g c)
    (fun c => (State.OnlyStopped.refl s).stopGrp bas g c) fun st => (State.OnlyStopped.refl s).grpTo bas g st)

theorem State.state_sampleGrp_other (s : State) (bas : Bool) (hk : k ≠ g) : ((s.sampleGrp bas g).safGrp b k).state = (s.safGrp b k).state :=
  State.sampleGrp_keeps (P := fun u => (u.safGrp b k).state = (s.safGrp b k).state) rfl (s.state_sto_other hk) (s.state_stopGrp_other hk)
    (s.state_grpTo_other hk)

theorem State.other_sampleGrp (s : State) (bas : Bool) (g : Nat) : (s.sampleGrp bas g).saf? (!bas) = s.saf? (!bas) :=
  State.sampleGrp_keeps (P := fun u => u.saf? (!bas) = s.saf? (!bas)) rfl (s.other_sto bas g) (s.other_stopGrp bas g) (s.other_grpTo bas g)

/-- A group whose input is in demand, RELEASED or on its way to stop, without a cross-demand: it goes where its SS1 class names. -/
theorem State.state_sampleGrp_demanded (hg : g < (s.saf? bas).grps.length) (hd : (s.saf? bas).demanded g = true)
    (hx : (bas && s.saf.xdem.testBit g) = false) (hr : (s.safGrp bas g).state = gRELEASED ∨ (s.safGrp bas g).state = (s.saf? bas).stopTo) :
    ((s.sampleGrp bas g).safGrp bas g).state = (s.saf? bas).stopTo := by
  have free : ¬ ((bas && s.saf.xdem.testBit g) && ((s.saf? bas).grp g).on) = true := by simp [hx]
  rcases hr with h | h
  · have stops : s.sampleGrp bas g = s.stopGrp bas g 1 := (if_neg free).trans ((if_pos h).trans (if_pos hd))
    rw [stops, s.state_stopGrp_same hg]
  · have stays : s.sampleGrp bas g = s :=
      (if_neg free).trans ((if_neg (fun e => (s.saf? bas).stopTo_ne (h.symm.trans e))).trans
        (if_pos ((s.saf? bas).stopTo_cases.symm.imp (h.trans ·) (h.trans ·))))
    rw [stays, h]

/-! ## The whole sample -/

theorem State.saf?_dropXdem (s : State) (b c : Bool) : (if c then s.dropXdem else s).saf? b = s.saf? b := by
  cases c <;> cases b <;> rfl

theorem State.stable_sampleRequests (s : State) (bas : Bool) (a b : Byte) (d : Bool) :
    (s.sampleRequests bas a b d).saf.stable = (s.setSaf bas (s.sampledSaf bas a b d)).saf.stable :=
  (State.stable_slsRequests _ bas).trans (State.each_keeps (P := fun u => u.saf.stable = (s.setSaf bas (s.sampledSaf bas a b d)).saf.stable) rfl
    fun k _ u hu => (u.stable_samplePulse bas _ k).trans hu)

theorem State.stable_sampleAll (s : State) (bas : Bool) (a b : Byte) (d : Bool) :
    (s.sampleAll bas a b d).saf.stable = (s.setSaf bas (s.sampledSaf bas a b d)).saf.stable :=
  State.each_keeps (P := fun u => u.saf.stable = (s.setSaf bas (s.sampledSaf bas a b d)).saf.stable)
    (s.stable_sampleRequests bas a b d) fun g _ u hu => (u.stable_sampleGrp bas g).trans hu

/-- What is read of the channel beside its groups and its DEGRADED timer is the sample, wherever the safety unit agrees with it. -/
theorem State.sample_read {α : Type} {f : SafChan → α} (hf : ∀ (c : SafChan) (l : List SafGrp) (d : Bool) (n : Nat),
    f { c with grps := l, degr := d, degTick := n } = f c) {a b : Byte} {d : Bool}
    (h : u.saf.stable = (s.setSaf bas (s.sampledSaf bas a b d)).saf.stable) : f (u.saf? bas) = f (s.sampledSaf bas a b d) := by
  have read := State.chan_read (part := SafBlock.stable) (f := f) (fun x => ⟨hf x.g [] false 0, hf x.b [] false 0⟩) h bas
  rwa [State.saf?_setSaf, if_pos rfl] at read

/-- The sample leaves the SS1 class. -/
theorem State.sample_stopTo {a b : Byte} {d : Bool} (h : u.saf.stable = (s.setSaf bas (s.sampledSaf bas a b d)).saf.stable) :
    (u.saf? bas).stopTo = (s.saf? bas).stopTo :=
  (State.sample_read (f := SafChan.stopTo) (fun _ _ _ _ => rfl) h).trans (s.sampledSaf_read (f := SafChan.stopTo) (fun _ _ => rfl) bas a b d)

/-- A RELEASED group is judged as it was, or as a pulse fault of the sample has stopped it. -/
theorem State.state_sampleRequests (hr : (s.safGrp bas g).state = gRELEASED) (a b : Byte) (d : Bool) :
    ((s.sampleRequests bas a b d).safGrp bas g).state = gRELEASED ∨ ((s.sampleRequests bas a b d).safGrp bas g).state = (s.saf? bas).stopTo := by
  have sampled : (s.setSaf bas (s.sampledSaf bas a b d)).saf? bas = s.sampledSaf bas a b d := by rw [State.saf?_setSaf, if_pos rfl]
  have before : ((s.setSaf bas (s.sampledSaf bas a b d)).safGrp bas g).state = gRELEASED := by
    rw [State.safGrp, sampled, State.sampledSaf_state, hr]
  have slowed : (s.setSaf bas (s.sampledSaf bas a b d)).Slowed (s.samplePulses bas a b d) :=
    State.each_keeps (P := State.Slowed _) (.refl _) fun k _ v hv => hv.trans (.samplePulse bas _ k v)
  rw [State.sampleRequests, State.state_slsRequests, ← State.sample_stopTo (s := s) (a := a) (b := b) (d := d) rfl]
  exact (slowed.grp bas g).imp (·.trans before) And.right

theorem State.shaped_samplePulses (hs : s.Shaped) (bas : Bool) (a b : Byte) (d : Bool) : (s.samplePulses bas a b d).Shaped := by
  have lengths : (s.sampledSaf bas a b d).inputs.length = 8 ∧ (s.sampledSaf bas a b d).grps.length = 8 := by
    unfold State.sampledSaf
    dsimp only
    split <;> simp [SafChan.markReady, State.sampleInputs, State.Keep.chan hs]
  refine State.each_keeps (P := State.Shaped) ((State.Keep.setSaf (.refl s) bas _ fun _ _ => lengths).shape hs) fun k _ u hu => ?_
  exact State.samplePulse_keeps (P := State.Shaped) hu (fun v w hv => ((State.Keep.refl v).orBits _ w).shape hv)
    (fun v hv => ((State.Keep.refl v).safetyEvent k 0).shape hv) (fun v by' hv => ((State.Keep.refl v).fault 0x10 by' k).shape hv) bas _

/-- Where neither side is held the other channel stands. -/
theorem State.other_sampleAll (hA : (s.saf? bas).holdA = 0) (hB : (s.saf? bas).holdB = 0) (a b : Byte) (d : Bool) :
    (s.sampleAll bas a b d).saf? (!bas) = s.saf? (!bas) := by
  have pulses : s.samplePulses bas a b d = s.setSaf bas (s.sampledSaf bas a b d) :=
    State.each_fixed fun k hk => State.samplePulse_free hA hB _ _ _ (List.mem_range.1 hk)
  have requests : (s.sampleRequests bas a b d).saf? (!bas) = s.saf? (!bas) := by
    rw [State.sampleRequests, pulses, State.slsRequests_eq]
    refine State.each_keeps (P := fun u => u.saf? (!bas) = s.saf? (!bas)) ((s.saf?_setSaf _ _ _).trans (if_neg (by simp))) fun g _ u hu => ?_
    exact State.slsRequest_keeps (P := fun u => u.saf? (!bas) = s.saf? (!bas)) hu fun x _ => (u.other_setSafGrp bas g x).trans hu
  exact State.each_keeps (P := fun u => u.saf? (!bas) = s.saf? (!bas)) requests fun g _ u hu => (u.other_sampleGrp bas g).trans hu

/-- A RELEASED group whose input is in demand after the sample leaves RELEASED, whether a pulse fault has stopped it already or not (R224, R229). -/
theorem State.state_sampleAll_demanded (hs : s.Shaped) {a c : Byte} {d : Bool} (hg : g < 8) (hr : (s.safGrp bas g).state = gRELEASED)
    (hd : ((s.sampleAll bas a c d).saf? bas).demanded g = true) (hx : (bas && s.saf.xdem.testBit g) = false) :
    ((s.sampleAll bas a c d).safGrp bas g).state = (s.saf? bas).stopTo := by
  have start := State.state_sampleRequests hr a c d
  have stable := s.stable_sampleRequests bas a c d
  have shaped : (s.sampleRequests bas a c d).Shaped := ((State.Keep.refl _).slsRequests bas).shape (State.shaped_samplePulses hs bas a c d)
  have whole := s.stable_sampleAll bas a c d
  rw [State.sampleAll] at whole hd ⊢
  generalize s.sampleRequests bas a c d = u at start stable shaped whole hd ⊢
  -- the channel's SS1 class, its demand and the cross-demand are the same throughout the loop
  have step (v : State) (hv : v.Shaped ∧ v.saf.stable = u.saf.stable) (same : (v.safGrp bas g).state = (u.safGrp bas g).state) :
      ((v.sampleGrp bas g).safGrp bas g).state = (s.saf? bas).stopTo := by
    have stopTo : (v.saf? bas).stopTo = (s.saf? bas).stopTo := State.sample_stopTo (hv.2.trans stable)
    have demanded : (v.saf? bas).demanded g = true := by
      rw [State.sample_read (f := (SafChan.demanded · g)) (fun _ _ _ _ => rfl) (hv.2.trans stable)]
      rwa [State.sample_read (f := (SafChan.demanded · g)) (fun _ _ _ _ => rfl) whole] at hd
    have xdem : v.saf.xdem = s.saf.xdem := by
      refine (congrArg SafBlock.xdem (hv.2.trans stable) :).trans ?_
      cases bas <;> rfl
    rw [State.state_sampleGrp_demanded (hv.1.grp_lt bas hg) demanded (by rw [xdem]; exact hx) (by rw [same, stopTo]; exact start), stopTo]
  have loop := State.each_local (P := fun v => v.Shaped ∧ v.saf.stable = u.saf.stable) (view := fun v => (v.safGrp bas g).state)
    (f := fun g v => v.sampleGrp bas g) (x := g) List.nodup_range (List.mem_range.2 hg) ⟨shaped, rfl⟩
    (fun k _ v hv => ⟨((State.Keep.refl v).sampleGrp bas k).shape hv.1, (v.stable_sampleGrp bas k).trans hv.2⟩)
    (fun k _ hk v _ => v.state_sampleGrp_other bas (Ne.symm hk)) fun v hv same => (step v hv same).trans (step u ⟨shaped, rfl⟩ rfl).symm
  exact loop.trans (step u ⟨shaped, rfl⟩ rfl)

theorem State.OnlySafety.sampleAll (s : State) (bas : Bool) (a b : Byte) (d : Bool) : s.OnlySafety (s.sampleAll bas a b d) [] := by
  have pulses : s.OnlySafety (s.samplePulses bas a b d) [] :=
    State.each_keeps (P := fun u => s.OnlySafety u []) ((State.OnlySafety.refl s []).setSaf bas _) fun k _ _ hu => hu.samplePulse bas _ k
  exact State.each_keeps (P := fun u => s.OnlySafety u []) (pulses.slsRequests bas) fun g hg _ hu => hu.sampleGrp bas (List.mem_range.1 hg)

/-! ## Test pulses (R218, R220, R416) -/

/-- A channel that holds the samples of a side for a test pulse. -/
def SafChan.held (c : SafChan) (tp1 : Bool) : SafChan := if tp1 then { c with holdB := 6 } else { c with holdA := 6 }

/-- A test pulse: the holds of its side in both channels, the suspension of the checks, and whether the pulse is missed. -/
def State.pulsed (s : State) (tp1 made : Bool) : State :=
  let susp := s.saf.psusp && s.fio.vfld != 1
  { s with saf := { s.saf with g := s.saf.g.held tp1, b := s.saf.b.held tp1, psusp := susp,
                               tpBad := maskBit s.saf.tpBad (if tp1 then 1 else 0) (!made && !susp) } }

theorem testPulse_eq (hv : s.fio.vfld ≠ 2) (tp1 made : Bool) : testPulse tp1 made s =
    if (!made && !(s.saf.psusp && s.fio.vfld != 1) && !s.saf.tpBad.testBit (if tp1 then 1 else 0)) && (s.pulsed tp1 made).saf.b.live then
      (s.pulsed tp1 made).fault 0x11 2 0
    else s.pulsed tp1 made := if_neg hv

theorem SafChan.live_held (c : SafChan) (tp1 : Bool) : (c.held tp1).live = c.live := by cases tp1 <;> rfl

/-- A pulse that is made, or whose miss Basalt cannot tell, is no fault. -/
theorem testPulse_quiet (hv : s.fio.vfld ≠ 2) {tp1 made : Bool} (hm : s.saf.b.live = false ∨ made = true) :
    testPulse tp1 made s = s.pulsed tp1 made := by
  rw [testPulse_eq hv, if_neg]
  rcases hm with h | h
  · simp [State.pulsed, SafChan.live_held, h]
  · simp [h]

/-- A missed pulse is a fault where the output has not missed one before. -/
theorem testPulse_missed (hv : s.fio.vfld ≠ 2) {tp1 : Bool} (hb : s.saf.b.live = true) (hp : s.saf.psusp = false)
    (ht : s.saf.tpBad.testBit (if tp1 then 1 else 0) = false) : testPulse tp1 false s = (s.pulsed tp1 false).fault 0x11 2 0 := by
  have live : (s.pulsed tp1 false).saf.b.live = true := (s.saf.b.live_held tp1).trans hb
  rw [testPulse_eq hv, if_pos]
  rw [live, hp, ht]
  rfl

/-- The mark of an output that misses its pulse. -/
theorem State.tpBad_pulsed (s : State) (tp1 made : Bool) :
    (s.pulsed tp1 made).saf.tpBad.testBit (if tp1 then 1 else 0) = (!made && !(s.saf.psusp && s.fio.vfld != 1)) :=
  (testBit_maskBit _ _ _ _).trans (if_pos rfl)

/-! ## Discrepancy (R222) -/

/-- A channel with the discrepancy fault of input k latched. -/
def SafChan.discrepant (c : SafChan) (k : Nat) : SafChan :=
  { c with inputs := setAt c.inputs k { c.input k with disc := true, discOpen := false } }

theorem SafChan.disc_discrepant (c : SafChan) (hk : k < c.inputs.length) : ((c.discrepant k).input k).disc = true := by
  rw [SafChan.input, SafChan.discrepant, getElem?_setAt, if_pos ⟨rfl, hk⟩]
  rfl

theorem discrepancyFault_early (h : ((s.saf? bas).input k).diffFor = some n) (hn : n < (s.saf? bas).discSteps) : discrepancyFault bas k s = s :=
  if_pos (by simp [h, hn])

theorem discrepancyFault_late (hl : (s.saf? bas).live = true) (h : ((s.saf? bas).input k).diffFor = some n) (hn : (s.saf? bas).discSteps ≤ n) :
    discrepancyFault bas k s = (s.setSaf bas ((s.saf? bas).discrepant k)).safetyEvent k 0 := if_neg (by simp [hl, h, hn])

theorem State.saf?_latched (s : State) (bas b : Bool) (k : Nat) :
    ((s.setSaf bas ((s.saf? bas).discrepant k)).safetyEvent k 0).saf? b = if b = bas then (s.saf? bas).discrepant k else s.saf? b := by
  rw [State.saf?_congr (State.safetyEvent_saf _ _ _), State.saf?_setSaf]

/-- A safety event beside its count is a notice (R244, R273, R328). -/
theorem State.onlyNoticed_counted (s : State) (obj detail : Nat) : (s.inc Reg.SAF_EVTSEQ).OnlyNoticed (s.safetyEvent obj detail) [] := by
  unfold State.safetyEvent
  generalize s.inc Reg.SAF_EVTSEQ = t
  have k := State.OnlyRaised.refl t []
  dsimp only
  refine State.OnlyNoticed.capCond (State.OnlyNoticed.capEvent (State.OnlyNoticed.of ?_) _ _ _) _ _
  split
  · split
    · exact k.endWait 9 _
    · exact k
  · split
    · split
      · exact (k.setCore _ _).wakeCore _
      · exact k.irqLost 17
    · exact k

/-- SAF_EVTSEQ counts a safety event. -/
theorem State.rd_evtseq (s : State) (obj detail : Nat) : (s.safetyEvent obj detail).rd Reg.SAF_EVTSEQ = s.rd Reg.SAF_EVTSEQ + 1 :=
  ((s.onlyNoticed_counted obj detail).regs _ (by decide)).trans (State.rd_wr_same _ _ _)

theorem State.rd_setSaf (s : State) (bas : Bool) (c : SafChan) (a : Nat) : (s.setSaf bas c).rd a = s.rd a := by cases bas <;> rfl

/-- Settles O19: a sample filters each contact, and the groups follow in the state that it leaves. -/
theorem safetySampling : Obligations.SafetySampling := by
  unfold Obligations.SafetySampling
  refine ⟨fun s bas a b d hs hl => ?_, fun s tp1 made hv hm => ?_, fun s tp1 hs hv hb hp ht => ?_, fun s tp1 made hv => ?_,
    fun s bas k n h hn => congrArg Host.Outcome.next (discrepancyFault_early h hn), fun s bas k n hs hl h hn => ?_⟩
  -- SAFETY_SAMPLE
  · have chan (c : Bool) : (if bas then (s.sampleAll bas a b d).dropXdem else s.sampleAll bas a b d).saf? c = (s.sampleAll bas a b d).saf? c :=
      State.saf?_dropXdem _ c bas
    have grp (c : Bool) (g : Nat) : (if bas then (s.sampleAll bas a b d).dropXdem else s.sampleAll bas a b d).safGrp c g
        = (s.sampleAll bas a b d).safGrp c g := congrArg (SafChan.grp · g) (chan c)
    have stable := s.stable_sampleAll bas a b d
    refine ⟨_, congrArg Host.Outcome.next (safetySample_eq hl a b d), fun k hk x y v hxy => ?_, ?_, ?_, fun g hg hr hd hx => ?_, fun hA hB g => ?_,
      State.ite_keeps (P := fun u => s.OnlySafety u []) (State.OnlySafety.sampleAll s bas a b d).dropXdem (State.OnlySafety.sampleAll s bas a b d)⟩
    · have input := State.sample_read (f := (SafChan.input · k)) (fun _ _ _ _ => rfl) stable
      rw [chan, input] at hxy
      obtain ⟨filtA, filtB⟩ := s.sampledSaf_input bas a b d hk
      rcases hxy with ⟨rfl, rfl, rfl⟩ | ⟨rfl, rfl, rfl⟩
      · exact filtA
      · exact filtB
    · rw [chan, State.sample_read (f := SafChan.holdA) (fun _ _ _ _ => rfl) stable]
      exact s.sampledSaf_read (f := SafChan.holdA) (fun _ _ => rfl) bas a b d
    · rw [chan, State.sample_read (f := SafChan.holdB) (fun _ _ _ _ => rfl) stable]
      exact s.sampledSaf_read (f := SafChan.holdB) (fun _ _ => rfl) bas a b d
    · rw [chan] at hd
      rw [grp, State.state_sampleAll_demanded hs hg hr hd hx]
      rfl
    · rw [grp, State.safGrp, State.other_sampleAll hA hB]
      rfl
  -- TEST_PULSE without a new fault
  · refine ⟨_, congrArg Host.Outcome.next (testPulse_quiet hv hm), rfl, fun h => ?_, fun h => ?_, fun h => ?_⟩
    · subst h
      exact ⟨rfl, rfl, rfl, rfl⟩
    · subst h
      exact ⟨rfl, rfl, rfl, rfl⟩
    · rw [s.tpBad_pulsed, h]
      rfl
  -- TEST_PULSE not made
  · have kept {α : Type} (f : SafBlock → α) (hf : ∀ x, f x.stable = f x) : f ((s.pulsed tp1 false).fault 0x11 2 0).saf = f (s.pulsed tp1 false).saf :=
      State.fault_keeps hf (s.pulsed tp1 false) 0x11 2 0
    refine ⟨_, congrArg Host.Outcome.next (testPulse_missed hv hb hp ht), ?_, fun h0 hf => ?_, fun h => ?_, fun h => ?_,
      ((State.OnlySafety.refl s []).saf _).fault _ _ _⟩
    · rw [kept SafBlock.tpBad fun _ => rfl, s.tpBad_pulsed, hp]
      rfl
    · have shown := State.fault_shown (s := s.pulsed tp1 false) h0 hf 0x11 2 0
      exact ⟨shown.code, shown.by'⟩
    · subst h
      exact ⟨kept (·.g.holdA) fun _ => rfl, kept (·.b.holdA) fun _ => rfl⟩
    · subst h
      exact ⟨kept (·.g.holdB) fun _ => rfl, kept (·.b.holdB) fun _ => rfl⟩
  -- TEST_PULSE below 16 V
  · exact congrArg Host.Outcome.next (if_pos hv)
  -- DISCREPANCY_FAULT
  · refine ⟨_, congrArg Host.Outcome.next (discrepancyFault_late hl h hn), ?_, ?_, ?_, ((State.OnlySafety.refl s []).setSaf bas _).safetyEvent _ _⟩
    · rw [s.saf?_latched, if_pos rfl]
      exact (s.saf? bas).disc_discrepant ((State.Keep.chan hs bas).1.symm ▸ k.isLt)
    · rw [State.rd_evtseq, State.rd_setSaf]
    · rw [s.saf?_latched, if_neg (by simp)]

end Sys2Proof.Machine
end
